-- ==== Sys2Proof/Word.lean ====
section
/-! DEFINITION. The word types of the machine and the plainest data helpers: bytes, 32-bit and 64-bit words, and the
sparse map that holds registers, memory and tables as a list of keys and values in one canonical form. -/

namespace Sys2Proof

/-- A byte (R7). -/
abbrev Byte := BitVec 8

/-- A 32-bit word: every register is 32 bits wide (R9). -/
abbrev Word := BitVec 32

/-- A 64-bit value: TIME, a `_LO`/`_HI` pair (R9, R18). -/
abbrev Dword := BitVec 64

/-- A string of bytes. -/
abbrev Bytes := List Byte

/-- A sparse map: keys strictly rising, and no entry equal to what an unlisted key reads as. -/
abbrev NMap (α : Type) := List (Nat × α)

namespace NMap

/-- The value listed for key `k`, if any. -/
def find? {α : Type} : NMap α → Nat → Option α
  | [], _ => none
  | (k', v) :: t, k => if k' = k then some v else if k < k' then none else find? t k

/-- What key `k` reads as; `d` is what an unlisted key reads as. -/
def get {α : Type} (d : Nat → α) (m : NMap α) (k : Nat) : α := (find? m k).getD (d k)

/-- The map without key `k`. -/
def erase {α : Type} : NMap α → Nat → NMap α
  | [], _ => []
  | (k', v) :: t, k => if k' = k then t else if k < k' then (k', v) :: t else (k', v) :: erase t k

/-- The map with `v` listed at key `k`. -/
def insert {α : Type} : NMap α → Nat → α → NMap α
  | [], k, v => [(k, v)]
  | (k', v') :: t, k, v =>
    if k' = k then (k, v) :: t
    else if k < k' then (k, v) :: (k', v') :: t
    else (k', v') :: insert t k v

/-- Write `v` at key `k`: the entry goes when `v` is what an unlisted key reads as. -/
def set {α : Type} [DecidableEq α] (d : Nat → α) (m : NMap α) (k : Nat) (v : α) : NMap α :=
  if v = d k then erase m k else insert m k v

/-- The keys rise strictly from above `b`. -/
def rising {α : Type} : Nat → NMap α → Bool
  | _, [] => true
  | b, (k, _) :: t => decide (b ≤ k) && rising (k + 1) t

/-- No entry equals what an unlisted key reads as. -/
def lean {α : Type} [DecidableEq α] (d : Nat → α) (m : NMap α) : Bool :=
  m.all fun e => decide (e.2 ≠ d e.1)

/-- The canonical form. -/
def wf {α : Type} [DecidableEq α] (d : Nat → α) (m : NMap α) : Bool := rising 0 m && lean d m

/-- The cells of a run of values from key `a`, without those an unlisted key reads as. -/
def runCells {α : Type} [DecidableEq α] (d : Nat → α) : Nat → List α → NMap α
  | _, [] => []
  | a, v :: t => if v = d a then runCells d (a + 1) t else (a, v) :: runCells d (a + 1) t

/-- Write a run of values from key `a` on, in one pass. -/
def setRun {α : Type} [DecidableEq α] (d : Nat → α) (m : NMap α) (a : Nat) (vs : List α) : NMap α :=
  (m.filter fun e => decide (e.1 < a)) ++ runCells d a vs
    ++ (m.filter fun e => decide (a + vs.length ≤ e.1))

end NMap

end Sys2Proof
end

