-- ==== Sys2Proof/Syntax.lean ====
section
/-! DEFINITION. The commands of the FD512: one constructor of `Instr` per row of the table of operations and events,
with the operands that reach the device from outside (read data, register values, sensor and training results). What
the device itself knows (the ring entry, the task descriptor, the packet delivered) is not an operand: it is State. -/

namespace Sys2Proof

/-- The path a register access takes (R466): the register aperture with the transaction's REQ byte (R354), a
management core, or the JTAG register-access instruction. -/
inductive Path where
  | aperture (req : Byte)
  | core (n : Fin 8)
  | jtag
  deriving DecidableEq, Repr

/-- A task of a context: its submission ring, its SEGMENT_ID and its INDEX (R48, R56). -/
structure TaskRef where
  ctx : Fin 64
  ring : Fin 4
  seg : Word
  index : Nat
  deriving DecidableEq, Repr

/-- A hardware fault of the matrix array or of the matrix-vector path: `delta` is added to the block sum of cell
(`row`, `col`) in block `block` of output tile `tile` (R142, R144). Rows and columns 128 and 129 are the checksum
lines (R139). -/
structure CellFault where
  tile : Nat
  block : Nat
  row : Nat
  col : Nat
  delta : Int
  deriving DecidableEq, Repr

/-- What the memory and the arithmetic do to a task from outside the programmer's model: the 32-byte bursts whose
reads return uncorrectable or corrected severity (R276, R281), and hardware faults of cells. -/
structure Env where
  ue : List Nat
  ce : List Nat
  faults : List CellFault
  deriving DecidableEq, Repr

/-- The three straps sampled at POR (R486). -/
structure Straps where
  feedId : BitVec 4
  slotId : BitVec 6
  txClamp : BitVec 3
  deriving DecidableEq, Repr

/-- What the hardware around the boot code reports during a start (R436, R437, R447, R448). -/
structure StartEnv where
  /-- GiB each stack reports (R447). -/
  capacity : List Nat
  /-- Every stack acknowledged self-refresh entry within 10 µs (R437). -/
  selfRefreshAcked : Bool
  /-- Every stack lies within 10 °C of its temperature at the save (R437). -/
  tempsNear : Bool
  /-- The training scratch rows read back as written (R437). -/
  scratchOk : Bool
  /-- Stacks whose training fails (R421). -/
  stacksFailed : List (Fin 12)
  /-- What the IOD's SRAM PUF reads (R448). -/
  puf : Bytes
  /-- Lanes of the Trepel Link that fail training (R345). -/
  trplLaneFail : BitVec 16
  /-- Entries beyond the flash tail that the twin's mirror holds (R461): SEQ and the 48 bytes before CHAIN. -/
  mirror : List (Dword × Bytes)
  deriving DecidableEq, Repr

/-- What the FEC of a port found in the codewords of a frame (R298): how many it corrected, how many it could not, and the symbol errors
of each lane. -/
structure Fec where
  corrected : Nat
  uncorrectable : Nat
  lanes : List Nat
  deriving DecidableEq, Repr

/-- What comes with a frame that a port receives: what the FEC found, and what the memory does to a request that the frame brings, once it
is executed (R276, R280, R281). -/
structure Arrival where
  fec : Fec
  env : Env
  deriving DecidableEq, Repr

/-- A frame as a port receives it. -/
structure RxFrame where
  bytes : Bytes
  rx : Arrival
  deriving DecidableEq, Repr

/-- What a pip check takes and meets: the ns of cluster time (R230, R286), and what the memory does to its reads. -/
structure CheckRun where
  ns : Word
  env : Env
  deriving DecidableEq, Repr

/-- A write of AUDT_RD_SEQ_HI (R464): the value, and whether the ring's read of the entry is uncorrectable (R280). -/
structure AuditFetch where
  value : Word
  ue : Bool
  deriving DecidableEq, Repr

/-- What a coherent read returns: a pointer line, or ring entries (R66). -/
inductive RdData where
  | pointer (line : Bytes)
  | entries (lines : List Bytes)
  deriving DecidableEq, Repr

/-- The outcome the decision hardware sees when a third computation ends (R407). -/
inductive ThirdSums where
  | sums (observed checksum : Int)
  deriving DecidableEq, Repr

/-- A row of a stack: pseudo-channel, bank and row (R264). -/
structure RowAddr where
  pc : BitVec 6
  bank : BitVec 4
  row : BitVec 16
  deriving DecidableEq, Repr

/-- An image, configuration, part record or debug token as it lies in flash or companion memory (R443): its bytes
(256-byte header, then the payload), and whether its Ed448 signature verifies against the key R443 names. The signature
check itself (RFC 8032) is the security engine's; its answer comes with the object. Of a part record, whose payload R446
does not lay out, it also names the contents the machine acts on: the entries of SPARE_MAP that are no default home
(logical, physical cluster), and TS_LAT (transmit and receive latency of each port in turn). -/
structure SignedObj where
  bytes : Bytes
  sigOk : Bool
  spareMap : List (Nat × Nat) := []
  tsLat : List (BitVec 16) := []
  deriving DecidableEq, Repr

/-- Sensor readings the clamp compares (R362): junctions of CD0-CD3 and the IOD, stacks, coolant, input power. -/
structure Sensors where
  junction : List Int
  stack : List Int
  inlet : Int
  outlet : Int
  volt10mV : BitVec 16
  amp10mA : BitVec 16
  watt1ms : BitVec 16
  watt1s : BitVec 16
  deriving DecidableEq, Repr

/-- A command of the block: one row of the opcode table. -/
inductive Instr where
  -- power, pins, clocks (R34, R419, R487 to R491)
  | standbyPowerUp
  | modPwrEnRise
  | porRelease (straps : Straps)
  | modPwrEnFall
  | brownOut
  | brownOutRecovery
  | railFault
  | modResetNAssert
  | modResetNRelease
  | dbgReqNAssert
  | dbgReqNRelease
  | clockFailure (net : Bool)
  | refclkRestored
  -- starts (R436 to R442)
  | start (env : StartEnv)
  | startComplete
  | startTimerExpire
  | recoveryPowerCycle
  | recoveryPowerUp
  -- spine and Trepel Link (R27, R346 to R355)
  | spineFlitReceived (link : Fin 8) (crcOk : Bool)
  | spineLinkDown (link : Fin 8)
  | trplFlitReceived (flit : Bytes)
  | trplReplayTimeout
  | trplRetrainDone (laneFail : BitVec 16)
  | trplDownTimer
  | snoop (line : Dword) (invalidate : Bool)
  | gengPollExpire
  | rdSharedDone (ctx : Fin 64) (ring : Fin 8) (data : RdData)
  | completion (tag : BitVec 16) (status : Byte) (data : Bytes)
  | regApertureAccess (req : Byte) (addr : Dword) (len : Nat) (write : Option Bytes)
  | memDataApertureAccess (req : Byte) (addr : Dword) (len : Nat) (write : Option Bytes) (env : Env)
  | memTableApertureWrite (req : Byte) (addr : Dword) (data : Bytes)
  -- segments and tasks (R44, R52 to R70)
  | segment (ctx : Fin 64) (ring : Fin 4)
  | nop (ctx : Fin 64) (ring : Fin 4)
  | segmentValidate (ctx : Fin 64) (ring : Fin 4) (table : List Bytes) (env : Env)
  | predicateDecide (ctx : Fin 64) (ring : Fin 4) (seg : Word)
  | sqResume (ctx : Fin 64)
  | taskIssue (task : TaskRef) (cluster : Fin 512)
  | matmul (task : TaskRef) (env : Env)
  | matvec (task : TaskRef) (env : Env)
  | quantize (task : TaskRef) (env : Env)
  | oplist (task : TaskRef) (env : Env)
  | rmsnormFwd (task : TaskRef) (env : Env)
  | rmsnormBwd (task : TaskRef) (env : Env)
  | layernormFwd (task : TaskRef) (env : Env)
  | layernormBwd (task : TaskRef) (env : Env)
  | softmaxFwd (task : TaskRef) (env : Env)
  | softmaxBwd (task : TaskRef) (env : Env)
  | compress (task : TaskRef) (env : Env)
  | norm (task : TaskRef) (env : Env)
  | update (task : TaskRef) (env : Env)
  | requant (task : TaskRef) (env : Env)
  | allReduce (task : TaskRef) (env : Env)
  | reduceScatter (task : TaskRef) (env : Env)
  | allGather (task : TaskRef) (env : Env)
  | broadcast (task : TaskRef) (env : Env)
  | allToAll (task : TaskRef) (env : Env)
  | send (task : TaskRef) (env : Env)
  | fetch (task : TaskRef) (env : Env)
  | colWindowOpen (task : TaskRef)
  | copy (task : TaskRef) (env : Env)
  | event (task : TaskRef)
  | waitCounter (task : TaskRef)
  | waitTimeout (task : TaskRef)
  | waitTime (task : TaskRef)
  | taskComplete (task : TaskRef) (clusterNs : Word)
  | layerRepeat (ctx : Fin 64) (ring : Fin 4) (seg : Word) (layer : BitVec 16) (env : Env)
  | taskOverrun (task : TaskRef)
  | rampGrant (quire : Fin 32)
  -- admin commands (R46, R62, R64, R184, R251, R252, R258)
  | defineHandle (ctx : Fin 64)
  | shareHandle (ctx : Fin 64)
  | dropHandle (ctx : Fin 64)
  | cancel (ctx : Fin 64)
  | dataCursor (ctx : Fin 64)
  | loadFunction (ctx : Fin 64) (image : Bytes) (env : Env)
  | setSlot (ctx : Fin 64)
  | realign (ctx : Fin 64)
  | quiesce (ctx : Fin 64)
  | echo (ctx : Fin 64)
  | adminDeferredEffect (ctx : Fin 64)
  | quiesceDone (ctx : Fin 64)
  -- contexts and rings (R60, R61, R69, R72)
  | contextRelease (ctx : Fin 64)
  | ctxValidWrite (path : Path) (ctx : Fin 64) (value : Word)
  | ctxQuiesceBit (path : Path) (ctx : Fin 64)
  | ctxKillBit (path : Path) (ctx : Fin 64)
  | ctxHtabSizeWrite (path : Path) (ctx : Fin 64) (value : Word)
  | ringCtrlWrite (path : Path) (ctx : Fin 64) (ring : Fin 8) (value : Word)
  | msiTimerExpire (ctx : Fin 64) (ring : Fin 8)
  -- checks and decisions (R230, R404 to R416)
  | pipCheck (task : TaskRef) (tile : Nat) (cluster : Fin 512) (run : CheckRun)
  | crosscheck (seenA seenB : List (Nat × Word)) (abftA abftB : Bool) (ns : Word)
  | abftDecision (task : TaskRef) (third : Fin 512) (sums : ThirdSums)
  | crosscheckDecision (third : Fin 512) (agreesA agreesB abft : Bool)
  | pipHardDecision (task : TaskRef) (third : Fin 512) (identical withinH : Bool)
  | plausibilityDecision (task : TaskRef) (second third : Fin 512) (equalEach equalOriginal : Bool)
  | decisionTimeout (id : Nat)
  | tcsRateTrip
  | chipDrained (trigger : BitVec 8) (suspects : List (Fin 528))
  | drainComplete
  | diagnosis (reproduced : List (Fin 512)) (spareOk : Bool) (ms : Word)
  | coreDoubleFault (core : Fin 8)
  | mgmtTransactionTimeout
  -- resets (R417 to R428)
  | wdtExpire
  | rstcWdtKick (path : Path) (value : Word)
  | wdtEn (path : Path)
  | swr (path : Path) (value : Word)
  | rstcDomainReq (path : Path) (value : Word)
  | domainFence (id : Nat)
  | drainLimitExpire (id : Nat) (answered : Word)
  | resetRecordWritten (id : Nat) (written : Bool)
  | domainPartReady (id : Nat) (trained : Bool)
  | resetBoundExpire (id : Nat)
  -- cluster, stack and port registers (R148 to R151, R285 to R293, R319, R473 to R476)
  | clusSrst (path : Path) (cluster : Fin 512)
  | clusHold (path : Path) (cluster : Fin 512) (hold : Bool)
  | clusClrCnt (path : Path) (cluster : Fin 512)
  | injectArm (path : Path) (cluster : Fin 512)
  | clusInjectWrite (path : Path) (cluster : Fin 512) (value : Word)
  | aliasWrite (path : Path) (addr : BitVec 27) (value : Word)
  | aliasRead (path : Path) (addr : BitVec 27)
  | hbmcSrst (path : Path) (stack : Fin 12)
  | retrainNow (path : Path) (stack : Fin 12)
  | hbmcClrCnt (path : Path) (stack : Fin 12)
  | hbmRetrainDue (stack : Fin 12) (channel : Option (Fin 32))
  | hbmTrainingSlot (stack : Fin 12) (channel : Fin 32) (ok : Bool) (shift : Int) (temp : Int)
  | rowRepair (stack : Fin 12) (row : RowAddr) (uncorrectable : Bool) (spareLeft : Nat)
  | frameRetire (stack : Fin 12) (frame : BitVec 19) (noSpareRow : Bool)
  | frameCopyDone (stack : Fin 12) (filled : List Nat) (us : Word)
  | recalibration
  | mrgnWindow (usedStack usedQuire : BitVec 16) (limited : Bool)
  | mrgnDeadlineExpire (activity : BitVec 8) (party : Dword)
  | mrgnShareWrite (path : Path) (addr : BitVec 27) (value : Word)
  -- fabric ports and frames (R296 to R343)
  | portEn (path : Path) (port : Fin 9) (en : Bool)
  | portSrst (path : Path) (port : Fin 9)
  | portClrCnt (path : Path) (port : Fin 9)
  | portTrainingDone (port : Fin 9) (laneFail : Byte) (partner : Bool)
  | pcsLockLoss (port : Fin 9)
  | ucwLimitExceeded (port : Fin 9) (count : Word)
  | portRetrainTimer (port : Fin 9)
  | nativeFrameReceived (port : Fin 9) (frame : Bytes) (rx : Arrival)
  | routedFrameReceived (port : Fin 9) (frame : RxFrame)
  | ptpMessage (port : Fin 9) (sent : Option Bytes) (kind : BitVec 4) (offset : Option Int)
  | v0FrameForward (port : Fin 9) (frame : RxFrame)
  | linkTransmit (port : Fin 9) (credits : List (Nat × Nat × Nat))
  | dwellExpire (port : Fin 9) (index : Nat)
  | tileWrite
  | memWrite
  | readReq (env : Env)
  | readData
  | ack
  | nack
  | colData
  | colGrant
  | vote
  | pairHello
  | pairConfirm
  | heartbeat
  | heartbeatSend
  | twinLost
  | ctlMsg
  | opTimerExpire (op : Nat)
  | flowEvict (send : Bool) (index : Nat)
  | fabrEpochWrite (path : Path) (value : Word)
  | epochSwitch
  | fabrExcRead (path : Path)
  | fabrExcWrite (path : Path)
  | fabrTblRead (path : Path)
  | fabrTblWrite (path : Path)
  | fabrCtxRankWrite (path : Path) (ctx : Fin 64) (value : Word)
  | fabrTimeStep (path : Path) (value : Word)
  | ppsEdge
  | ppsLost
  | ptpLost
  -- Boundary Unit and Trepel registers (R356 to R366)
  | bndyWinCtrlWrite (path : Path) (window : Fin 64) (value : Word)
  | winPendingClear
  | descLoad (path : Path)
  | descLoadDone (descriptor : Bytes) (sigOk : Bool)
  | bndyPtRelease (path : Path) (value : Word)
  | bndyFwpLock (path : Path) (range : Fin 8) (value : Word)
  | thermalClampTick (sensors : Sensors) (alertLow : Bool)
  | trplRetrain (path : Path)
  | trplClrCnt (path : Path)
  -- commit and checkpoints (R374 to R400)
  | stepEnd (task : TaskRef) (env : Env)
  | voteTimeout (ctx : Fin 64) (child : Fin 16)
  | voteResend (ctx : Fin 64)
  | inDoubt (ctx : Fin 64)
  | quietExpire (ctx : Fin 64)
  | comtAbort (path : Path) (ctx : Fin 64)
  | resolveCommit (path : Path) (ctx : Fin 64)
  | resolveAbort (path : Path) (ctx : Fin 64)
  | checkpointWrite (task : TaskRef) (env : Env)
  | checkpointRestore (task : TaskRef) (image : Bytes) (found readable : Bool)
  | checkpointRestoreLocal (task : TaskRef)
  | ckpLayerDurable (task : TaskRef) (layer : Fin 4) (ok : Bool) (ms : Word)
  | cadInterruptReport (path : Path) (value : Word)
  | twinPair (path : Path)
  | twinUnpair (path : Path)
  | detach (path : Path)
  | detachConfirmed
  -- global registers (R35, R477 to R479)
  | gctlDrain (path : Path)
  | gctlUnfence (path : Path)
  | clusEn (path : Path) (on : Bool)
  | fabrEn (path : Path) (on : Bool)
  | uplinkEn (path : Path) (on : Bool)
  | twinEn (path : Path) (on : Bool)
  | trplEn (path : Path) (on : Bool)
  | gengEn (path : Path) (on : Bool)
  | gctlAclkWrite (path : Path) (value : Word)
  | aclkGlideDone
  | numcLedgerRdWrite (path : Path) (ctx : Fin 64) (value : Word)
  | rngsProbeStart (path : Path) (value : Word)
  | rngsProbeDone
  -- security engine and audit (R443 to R464)
  | secuLoad (path : Path) (value : Word)
  | secuLoadDone (object : SignedObj)
  | activate (path : Path)
  | confirm (path : Path)
  | confirmTimeout
  | mgmtOnlyRestart
  | quoteGo (path : Path) (value : Word)
  | quoteDone
  | dbgEnable (path : Path) (token : SignedObj)
  | dbgRevoke (path : Path)
  | dbgExpire
  | auditDrain
  | auditSlotFreed
  | audtAckSeqWrite (path : Path) (value : Word)
  | audtRdSeqWrite (path : Path) (value : AuditFetch)
  | registerWrite (path : Path) (addr : BitVec 27) (value : Word)
  -- rows added at the table's end, and the JTAG instructions with an operand (R497)
  | domainDrainEnd (id : Nat)
  | rowSpared (stack : Fin 12)
  | runEnd (cluster : Fin 512)
  | hbmHot (stack : Fin 12) (temp : Int)
  | regAccess (dr : BitVec 72)
  | debugReset (bit : Bool)
  | bypass (code : Byte)
  -- SMBus and JTAG (R494 to R498); the table's last row without operands
  | standbyRailOff
  | smbIdentity
  | smbState
  | smbStartRecord
  | smbHealth
  | smbResetCause
  | smbTemperature
  | smbPower
  | smbAlertStatus
  | smbRecovery
  | smbAuditHead
  | alertResponseAddress
  | idcode
  | samplePreload
  | extest
  | extestPulse
  | extestTrain
  | clamp
  | highz
  | coreDebug
  | securityStatus
  | testLogicReset
  deriving DecidableEq, Repr

end Sys2Proof
end

