-- ==== Sys2Proof/Config.lean ====
section
/-! DEFINITION. What the spec leaves open and one implementation fixes: constants with no body, of which nothing can be
proved but what holds for every value. -/

namespace Sys2Proof.Config

/-- The action code of an audit entry of space ACTION (R457 leaves it action-specific). DESIGN CHOICE: log entry 7. -/
opaque actionCode : Nat → BitVec 8

/-- OLD of an audit entry of space ACTION, by action and unit (R457: action-specific). -/
opaque actionOld : Nat → Nat → Dword

/-- NEW of an audit entry of space ACTION, by action and unit (R457: action-specific). -/
opaque actionNew : Nat → Nat → Dword

/-- A draw of the entropy source, by a counter of draws (R448, R451, R452). DESIGN CHOICE: log entry 8. -/
opaque entropy : Nat → BitVec 256

/-- The page-table entry that a walk uses where its translation is undefined (R269): by the counter of free values and the entry's
location. DESIGN CHOICE: log entry 14. -/
opaque staleEntry : Nat → Nat → Dword

/-- The unique device secret that a PUF reading regenerates (R448). DESIGN CHOICE: log entry 9. -/
opaque pufSecret : Bytes → Bytes

/-- Whether the DeviceID key of a PUF reading is the DEVICEID_PUB of a part record, given as its bytes (R448). -/
opaque pufMatches : Bytes → Bytes → Bool

/-- The coefficients of the built-in function tables, published apart from the spec (R181, R182): by table, segment and
coefficient. DESIGN CHOICE: log entry 10. -/
opaque tableCoef : Nat → Nat → Nat → Word

/-- The derivative tables' results at special operands, which R182 does not state: by function ID and operand. DESIGN CHOICE: log entry 11. -/
opaque derivCorner : Nat → Word → Word

/-- Where an image lies in the image region of the twin's partner area, which the spec does not give (R390): by a counter. DESIGN CHOICE: log entry 12. -/
opaque partnerPlace : Nat → Nat

/-- The shard word in the tile hash of a device-own handle, which R256 does not state: by handle. DESIGN CHOICE: log entry 13. -/
opaque ownShard : Nat → Word

/-- The seed of an alias key, whose derivation from a CDI R450 does not give. -/
opaque aliasSeed : Bytes → Bytes

/-- The Ed448 public key of a seed (RFC 8032), 57 bytes. -/
opaque publicKey : Bytes → Bytes

/-- The Ed448 signature of a digest by a seed (RFC 8032), 114 bytes. -/
opaque signature : Bytes → Bytes → Bytes

/-- The certificate of the DeviceID key, which the part record holds (R450): by the part record's bytes. -/
opaque deviceCert : Bytes → Bytes

/-- The signature of the stage-1 alias certificate by the DeviceID key, whose seed is erased (R448): by the part record's bytes
and the certificate's digest. -/
opaque deviceSign : Bytes → Bytes → Bytes

/-- MEASUREMENT of the quote key's certificate, which R450 does not state: by the log digest. -/
opaque quoteMeasurement : Bytes → Bytes

end Sys2Proof.Config
end

