-- ==== Sys2Proof/Machine/RegTable.lean ====
section
/-! DEFINITION. The register map: the blocks of R482 and, row by row, the registers of R72, R73, R148, R150, R241, R259,
R260, R291 to R293, R318 to R320, R342, R365, R366, R400, R401, R433, R463, R464 and R477, with the bits a write may
change, the bits under the lock of RWL registers, the command bits, and the reset values. -/

namespace Sys2Proof.Machine

/-- Whether a register stands alone or is half of a 64-bit pair (R472). -/
inductive Half where
  | one | lo | hi
  deriving DecidableEq, Repr

/-- A row of a register table. `rw` are the bits a write sets, `lock` those of them of type RWL (R9, R470), `w1c` and
`w1s` the bits that writing 1 clears or commands (R471). `cfg`: written only while the context is INVALID or CONFIGURED
(R72, R241, R259, R342, R400). `uplink`: the register exists on U0 and U1 only (R319). -/
structure RegRow where
  off : Nat
  count : Nat := 1
  stride : Nat := 4
  half : Half := .one
  rw : Word := 0
  lock : Word := 0
  w1c : Word := 0
  w1s : Word := 0
  reset : Word := 0
  cfg : Bool := false
  uplink : Bool := false
  deriving DecidableEq, Repr

/-- The blocks of registers (R482). -/
inductive Blk where
  | gctl | rstc | audt | secu | bndy | ctxr | geng | numc | rngs | probe | comt | comtDev | clus | clusMask | hbmc
  | hbmcMask | fabr | port | portMask | trpl | flsh | mrgn
  deriving DecidableEq, Repr

/-- A read-only register. -/
def rowRo (off : Nat) (reset : Word := 0) : List RegRow := [{ off := off, reset := reset }]

/-- A read-write register. -/
def rowRw (off : Nat) (mask : Word) (reset : Word := 0) : List RegRow := [{ off := off, rw := mask, reset := reset }]

/-- A locked read-write register. -/
def rowRwl (off : Nat) (mask : Word) (reset : Word := 0) : List RegRow :=
  [{ off := off, rw := mask, lock := mask, reset := reset }]

/-- A register written only while its context is INVALID or CONFIGURED. -/
def rowCfg (off : Nat) (mask : Word) (reset : Word := 0) : List RegRow :=
  [{ off := off, rw := mask, reset := reset, cfg := true }]

/-- A read-only pair. -/
def pairRo (off : Nat) : List RegRow := [{ off := off, half := .lo }, { off := off + 4, half := .hi }]

/-- A read-write pair. -/
def pairRw (off : Nat) (lo hi : Word) : List RegRow :=
  [{ off := off, half := .lo, rw := lo }, { off := off + 4, half := .hi, rw := hi }]

/-- A pair written only while its context is INVALID or CONFIGURED. -/
def pairCfg (off : Nat) (lo hi : Word) : List RegRow :=
  [{ off := off, half := .lo, rw := lo, cfg := true }, { off := off + 4, half := .hi, rw := hi, cfg := true }]

/-- All 32 bits. -/
def allBits : Word := 0xFFFFFFFF

/-- GCTL (R477). -/
def rowsGctl : List RegRow :=
  rowRo 0x000 ++ rowRo 0x004 ++ rowRwl 0x010 0x7D ++ rowRo 0x014 2 ++ pairRo 0x018
  ++ [{ off := 0x020, w1c := 4 }] ++ rowRo 0x024 ++ rowRw 0x028 0x3F 40 ++ rowRo 0x02C 40
  ++ [{ off := 0x030, w1s := 3 }] ++ rowRo 0x034 ++ [{ off := 0x040, count := 4 }] ++ pairRo 0x050

/-- RSTC (R433). -/
def rowsRstc : List RegRow :=
  [{ off := 0x000, w1c := 0xFF }] ++ rowRo 0x004 ++ rowRo 0x008 ++ [{ off := 0x00C, rw := 6, w1s := 9 }]
  ++ [{ off := 0x010, w1s := 0x1F07 }] ++ rowRw 0x014 allBits 50 ++ rowRw 0x018 allBits 2000
  ++ [{ off := 0x01C, w1s := allBits }] ++ rowRo 0x020 ++ rowRo 0x024 ++ rowRo 0x028 ++ rowRo 0x02C
  ++ pairRw 0x030 allBits allBits ++ rowRo 0x038 ++ rowRw 0x03C 0xFFFF 16 ++ pairRo 0x040 ++ pairRo 0x048
  ++ rowRo 0x050 ++ rowRo 0x054 ++ pairRo 0x058 ++ rowRo 0x060

/-- AUDT (R464). -/
def rowsAudt : List RegRow :=
  pairRo 0x000 ++ [{ off := 0x008, count := 4 }] ++ pairRo 0x018 ++ pairRo 0x020 ++ pairRw 0x028 allBits allBits
  ++ pairRo 0x030 ++ rowRo 0x038 ++ rowRo 0x03C ++ pairRo 0x040 ++ pairRo 0x048 ++ pairRw 0x050 allBits allBits
  ++ rowRo 0x058 ++ [{ off := 0x080, count := 16 }]

/-- SECU (R463). -/
def rowsSecu : List RegRow :=
  rowRo 0x000 ++ rowRo 0x004 ++ pairRo 0x008 ++ pairRw 0x010 0xFFFFF000 allBits ++ rowRw 0x018 allBits
  ++ [{ off := 0x01C, w1s := 0xF }] ++ rowRo 0x020 ++ [{ off := 0x024, w1s := 3 }] ++ pairRw 0x028 allBits allBits
  ++ [{ off := 0x030, w1s := 3 }] ++ rowRo 0x034 ++ [{ off := 0x038, w1s := 3 }] ++ rowRo 0x03C
  ++ [{ off := 0x040, count := 8, rw := allBits }] ++ [{ off := 0x060, count := 8 }]

/-- BNDY (R366). -/
def rowsBndy : List RegRow :=
  rowRo 0x000 ++ pairRo 0x008 ++ pairRw 0x010 0xFFFFFFC0 allBits ++ [{ off := 0x018, w1s := 1 }] ++ rowRo 0x01C
  ++ rowRw 0x020 0xFFF 3000 ++ rowRo 0x024 40 ++ rowRo 0x028 ++ [{ off := 0x02C, w1s := 0x7FFFF }]
  ++ [{ off := 0x040, count := 9, rw := 0x7FF }]
  ++ [{ off := 0x080, count := 8, stride := 8, rw := 0xFFFFF, w1s := 0x80000000 }]
  ++ [{ off := 0x084, count := 8, stride := 8, rw := 0xFFFFF }]
  ++ [{ off := 0x100, count := 64, stride := 16, half := .lo, rw := 0xFFFFF000 }]
  ++ [{ off := 0x104, count := 64, stride := 16, half := .hi, rw := allBits }]
  ++ [{ off := 0x108, count := 64, stride := 16, rw := 0xFFFFFFF }]
  ++ [{ off := 0x10C, count := 64, stride := 16, rw := 7 }]

/-- CTXR: the registers of a context and of its eight rings (R72). -/
def rowsCtxr : List RegRow :=
  [{ off := 0x000, rw := 1, w1s := 6 }] ++ [{ off := 0x004, w1c := 0x1000 }] ++ rowRw 0x008 0xFFFF
  ++ rowRw 0x00C 0xFF 16 ++ pairCfg 0x010 0xFFFFF000 allBits ++ [{ off := 0x020, rw := allBits, cfg := true }]
  ++ rowCfg 0x024 allBits 16384 ++ rowRo 0x028 ++ pairRo 0x030
  ++ [{ off := 0x100, count := 8, stride := 64, half := .lo, rw := 0xFFFFF000 }]
  ++ [{ off := 0x104, count := 8, stride := 64, half := .hi, rw := allBits }]
  ++ [{ off := 0x108, count := 8, stride := 64, rw := 0x1F03, reset := 0x600 }]
  ++ [{ off := 0x10C, count := 8, stride := 64, half := .lo, rw := 0xFFFFFFC0 }]
  ++ [{ off := 0x110, count := 8, stride := 64, half := .hi, rw := allBits }]
  ++ [{ off := 0x114, count := 8, stride := 64, half := .lo, rw := 0xFFFFFFC0 }]
  ++ [{ off := 0x118, count := 8, stride := 64, half := .hi, rw := allBits }]
  ++ [{ off := 0x11C, count := 8, stride := 64 }]
  ++ [{ off := 0x120, count := 8, stride := 64, w1c := 1 }]
  ++ [{ off := 0x124, count := 8, stride := 64, rw := 0xFF07FF }]
  ++ [{ off := 0x128, count := 8, stride := 64, rw := 0xFFFF, reset := 10 }]

/-- GENG (R73). -/
def rowsGeng : List RegRow :=
  rowRwl 0x000 0xFFFF 1000 ++ rowRwl 0x004 allBits 4000 ++ rowRwl 0x008 allBits 256 ++ rowRo 0x00C ++ rowRo 0x010
  ++ pairRo 0x018 ++ pairRo 0x020 ++ pairRo 0x028

/-- NUMC (R241). -/
def rowsNumc : List RegRow :=
  rowCfg 0x000 0x3F 0x3F ++ rowCfg 0x004 0xFFFFF 1000 ++ rowCfg 0x008 0xFFFFF 10000 ++ rowCfg 0x00C 0x7FF 16
  ++ rowCfg 0x010 allBits 0x322BCC77 ++ rowCfg 0x014 allBits 0x3DCCCCCD ++ rowCfg 0x018 0x07FFFFFF 0x03F60040
  ++ rowCfg 0x01C 0x01FFFF1F 0x0103040C ++ rowCfg 0x020 allBits ++ rowCfg 0x024 0xFFFF 256
  ++ rowCfg 0x028 allBits ++ rowCfg 0x02C allBits ++ pairCfg 0x030 0xFFE00000 allBits ++ rowCfg 0x038 0xFFFF
  ++ rowRo 0x03C ++ pairCfg 0x040 0xFFFFF000 allBits ++ rowCfg 0x048 0x1F 24 ++ rowRo 0x04C ++ rowRw 0x050 allBits
  ++ pairRo 0x054 ++ [{ off := 0x05C, w1c := 6 }] ++ pairRo 0x060 ++ pairRo 0x068 ++ pairRo 0x070 ++ pairRo 0x078

/-- RNGS (R259). -/
def rowsRngs : List RegRow :=
  pairCfg 0x000 allBits allBits ++ rowCfg 0x008 allBits ++ rowCfg 0x00C 0xF 8 ++ rowCfg 0x010 0x1F
  ++ rowCfg 0x014 0x1FFFF ++ rowCfg 0x018 0x3FFFF 1 ++ rowCfg 0x01C 0x31F 0x200 ++ pairRo 0x020 ++ pairRo 0x028
  ++ pairRo 0x030 ++ [{ off := 0x038, count := 4 }] ++ pairRo 0x048 ++ [{ off := 0x050, w1c := 2 }] ++ rowRo 0x054

/-- The stream probe (R260). -/
def rowsProbe : List RegRow :=
  [{ off := 0x000, count := 4, rw := allBits }] ++ pairRw 0x010 allBits allBits ++ rowRo 0x018 ++ rowRo 0x01C

/-- COMT, per context (R400). -/
def rowsComt : List RegRow :=
  [{ off := 0x000, rw := 8, w1s := 7, reset := 8 }] ++ rowRo 0x004 ++ pairCfg 0x008 0xFFFFF000 allBits
  ++ rowCfg 0x010 0xC01FFFFF ++ rowCfg 0x014 allBits 10000 ++ rowCfg 0x018 allBits 200 ++ rowCfg 0x01C allBits 33000
  ++ [{ off := 0x020, count := 16, rw := 0x801FFFFF, cfg := true }] ++ pairRo 0x060 ++ pairRo 0x068 ++ pairRo 0x070
  ++ pairRo 0x078 ++ pairRo 0x080 ++ pairRo 0x088

/-- COMT, device-wide (R400). -/
def rowsComtDev : List RegRow :=
  [{ off := 0x000, w1s := 3 }] ++ rowRo 0x004 ++ rowRo 0x008 ++ rowRwl 0x00C 0x7FFFF ++ rowRwl 0x010 0xFFFF
  ++ [{ off := 0x014, w1s := 1 }] ++ rowRw 0x018 3 1 ++ rowRw 0x01C allBits 1200 ++ rowRo 0x020 1200
  ++ [{ off := 0x024, half := .lo, w1s := allBits }, { off := 0x028, half := .hi, w1s := allBits }]
  ++ rowRo 0x02C ++ rowRo 0x030 ++ rowRo 0x034 ++ rowRo 0x038 ++ rowRw 0x03C allBits ++ rowRo 0x040

/-- CLUS (R148). -/
def rowsClus : List RegRow :=
  [{ off := 0x000, rw := 2, w1s := 0xD }] ++ rowRo 0x004 0xFF00 ++ pairRo 0x008 ++ pairRo 0x010 ++ pairRo 0x018
  ++ pairRo 0x020 ++ pairRo 0x028 ++ rowRo 0x030 ++ rowRo 0x034 ++ pairRo 0x038 ++ rowRw 0x040 allBits

/-- HBMC (R291). -/
def rowsHbmc : List RegRow :=
  [{ off := 0x000, w1s := 7 }] ++ rowRo 0x004 ++ rowRo 0x008 ++ pairRo 0x010 ++ pairRo 0x018 ++ pairRo 0x020
  ++ rowRo 0x028 ++ rowRo 0x02C 8 ++ pairRo 0x030 ++ rowRo 0x038 ++ rowRw 0x040 0xFFFF00FF 0x00180004
  ++ rowRw 0x044 allBits 100 ++ rowRw 0x048 0xFF 5 ++ rowRw 0x04C 0xFFFF 1000 ++ [{ off := 0x100, count := 8 }]

/-- FABR (R318, R342). -/
def rowsFabr : List RegRow :=
  rowRwl 0x000 0x801FFFFF ++ rowRwl 0x004 0x007F7F7F 0x00010101 ++ rowRwl 0x008 0xFFFF ++ rowRwl 0x00C 0xFF 160
  ++ rowRw 0x010 3 ++ rowRw 0x014 0x1FFFFF ++ [{ off := 0x018, w1s := 3 }] ++ [{ off := 0x01C, w1c := 3 }]
  ++ [{ off := 0x020, count := 8, rw := allBits }] ++ pairRo 0x040 ++ pairRw 0x048 allBits allBits
  ++ rowRw 0x050 allBits ++ rowRw 0x054 7 4 ++ [{ off := 0x058, w1c := 0x38 }] ++ rowRo 0x05C ++ pairRo 0x060
  ++ pairRo 0x068 ++ pairRo 0x070 ++ pairRo 0x078 ++ [{ off := 0x100, count := 64, rw := 0x801FFFFF, cfg := true }]
  ++ rowRw 0x200 1 ++ rowRw 0x204 0x1FFFF ++ [{ off := 0x208, w1s := 3 }] ++ [{ off := 0x20C, w1c := 1 }]
  ++ [{ off := 0x210, count := 2, rw := allBits }] ++ rowRo 0x218 ++ rowRo 0x21C ++ rowRw 0x220 allBits 500
  ++ rowRw 0x224 7 3 ++ rowRwl 0x228 0x7F 25 ++ rowRwl 0x22C 0xFFFFF 0x30421 ++ rowRwl 0x230 allBits 100
  ++ rowRwl 0x234 allBits 200 ++ rowRwl 0x238 0xFF 16 ++ rowRo 0x23C ++ pairRo 0x240 ++ pairRo 0x248 ++ pairRo 0x250
  ++ pairRo 0x258 ++ rowRo 0x260 ++ rowRo 0x264
  ++ [{ off := 0x300, count := 64, stride := 16, half := .lo, rw := 0xFFFFFFC0, cfg := true }]
  ++ [{ off := 0x304, count := 64, stride := 16, half := .hi, rw := allBits, cfg := true }]
  ++ [{ off := 0x308, count := 64, stride := 16, rw := allBits, cfg := true }]
  ++ [{ off := 0x30C, count := 64, stride := 16 }]

/-- Fabric ports (R319). -/
def rowsPort : List RegRow :=
  [{ off := 0x000, rw := 0x3D, lock := 0x3C, w1s := 0x42 }] ++ rowRo 0x004 ++ rowRwl 0x008 allBits
  ++ rowRwl 0x00C 0xFFFF ++ rowRw 0x010 0xFF 16 ++ rowRw 0x014 0xFFFF 1000
  ++ [{ off := 0x018, rw := 0x7777, lock := 0x7777, reset := 0x6543, uplink := true }]
  ++ [{ off := 0x01C, rw := 0x3F3F3F3F, lock := 0x3F3F3F3F, reset := 0x30282018, uplink := true }]
  ++ [{ off := 0x020, count := 4, rw := allBits, lock := allBits, uplink := true }]
  ++ [{ off := 0x030, rw := allBits, lock := allBits, uplink := true }]
  ++ [{ off := 0x034, rw := 0xFF, lock := 0xFF, reset := 64, uplink := true }]
  ++ rowRw 0x038 7 4 ++ rowRo 0x03C ++ rowRo 0x040 ++ pairRo 0x080 ++ pairRo 0x088 ++ pairRo 0x090 ++ pairRo 0x098
  ++ pairRo 0x0A0 ++ pairRo 0x0A8 ++ pairRo 0x0B0 ++ [{ off := 0x100, count := 8 }]

/-- TRPL (R365). -/
def rowsTrpl : List RegRow :=
  [{ off := 0x000, rw := 0xC, lock := 0xC, w1s := 3 }] ++ rowRo 0x004 ++ pairRo 0x008 ++ pairRo 0x010 ++ pairRo 0x018
  ++ rowRo 0x020 ++ rowRo 0x024 ++ pairRo 0x028

/-- FLSH (R401). -/
def rowsFlsh : List RegRow :=
  [{ off := 0x000, w1s := 1 }] ++ rowRo 0x004 ++ rowRo 0x008 443458 ++ rowRwl 0x00C 0xFFFFF 256
  ++ rowRwl 0x010 0xFFFFF 443202 ++ rowRo 0x014 60 ++ pairRo 0x018 ++ rowRo 0x020 ++ rowRo 0x024 70 ++ pairRo 0x028
  ++ rowRo 0x030

/-- MRGN (R293). -/
def rowsMrgn : List RegRow :=
  rowRw 0x000 0x1F 0x1F ++ rowRw 0x004 0xFF 20 ++ rowRw 0x008 0xFF 10 ++ rowRw 0x00C 0xFF 5 ++ rowRw 0x010 0xFF 5
  ++ rowRw 0x014 0xFFFF 200 ++ rowRo 0x018 ++ rowRo 0x01C ++ pairRo 0x020 ++ pairRo 0x028 ++ pairRo 0x030
  ++ pairRo 0x038 ++ pairRo 0x040

/-- A block: base address, number of members, their stride, and the registers of one member. -/
structure BlkRow where
  blk : Blk
  base : Nat
  count : Nat := 1
  stride : Nat := 0x10000
  rows : List RegRow

/-- The index of register blocks (R482). -/
def blkRows : List BlkRow :=
  [ { blk := .gctl, base := 0x0, rows := rowsGctl },
    { blk := .rstc, base := 0x10000, rows := rowsRstc },
    { blk := .audt, base := 0x20000, rows := rowsAudt },
    { blk := .secu, base := 0x30000, rows := rowsSecu },
    { blk := .bndy, base := 0x40000, rows := rowsBndy },
    { blk := .ctxr, base := 0x100000, count := 64, stride := 0x400, rows := rowsCtxr },
    { blk := .geng, base := 0x110000, rows := rowsGeng },
    { blk := .numc, base := 0x200000, count := 64, stride := 0x100, rows := rowsNumc },
    { blk := .rngs, base := 0x210000, count := 64, stride := 0x100, rows := rowsRngs },
    { blk := .probe, base := 0x214000, stride := 0x1000, rows := rowsProbe },
    { blk := .comt, base := 0x220000, count := 64, stride := 0x100, rows := rowsComt },
    { blk := .comtDev, base := 0x224000, stride := 0x1000, rows := rowsComtDev },
    { blk := .clus, base := 0x1000000, count := 512, stride := 0x1000, rows := rowsClus },
    { blk := .clusMask, base := 0x1800800, count := 16, stride := 0x40,
      rows := [{ off := 0, count := 16, rw := allBits }] },
    { blk := .hbmc, base := 0x2000000, count := 12, rows := rowsHbmc },
    { blk := .hbmcMask, base := 0x20F0800, stride := 0x40, rows := [{ off := 0, count := 16, rw := 0xFFF }] },
    { blk := .fabr, base := 0x3000000, rows := rowsFabr },
    { blk := .port, base := 0x3010000, count := 9, stride := 0x1000, rows := rowsPort },
    { blk := .portMask, base := 0x301F800, stride := 0x40, rows := [{ off := 0, count := 16, rw := 0x1FF }] },
    { blk := .trpl, base := 0x4000000, rows := rowsTrpl },
    { blk := .flsh, base := 0x5000000, rows := rowsFlsh },
    { blk := .mrgn, base := 0x6000000, rows := rowsMrgn } ]

/-- Where a register lies: its block, the member, the row, and the position within a repeated row. -/
structure RegLoc where
  blk : Blk
  inst : Nat
  row : RegRow
  k : Nat
  deriving DecidableEq, Repr

/-- The row of a member that holds offset `off`, and the position within it. -/
def findRow : List RegRow → Nat → Option (RegRow × Nat)
  | [], _ => none
  | r :: t, off =>
    if r.off ≤ off ∧ (off - r.off) % r.stride = 0 ∧ (off - r.off) / r.stride < r.count then
      some (r, (off - r.off) / r.stride)
    else findRow t off

/-- The block that holds address `a`. -/
def findBlk : List BlkRow → Nat → Option BlkRow
  | [], _ => none
  | b :: t, a => if b.base ≤ a ∧ a < b.base + b.count * b.stride then some b else findBlk t a

/-- The register at address `a`; none where no chapter describes one (R469). -/
def locate (a : Nat) : Option RegLoc :=
  match findBlk blkRows a with
  | none => none
  | some b =>
    match findRow b.rows ((a - b.base) % b.stride) with
    | none => none
    | some (r, k) =>
      if r.uplink ∧ (a - b.base) / b.stride ≠ 6 ∧ (a - b.base) / b.stride ≠ 7 then
        some { blk := b.blk, inst := (a - b.base) / b.stride,
               row := { off := r.off, count := r.count, stride := r.stride }, k := k }
      else some { blk := b.blk, inst := (a - b.base) / b.stride, row := r, k := k }

/-- What a register reads at reset: what an address reads as when the register map lists nothing for it. -/
def regReset (a : Nat) : Word :=
  match locate a with
  | none => 0
  | some l => l.row.reset

/-! ### Addresses -/

def aGctl (off : Nat) : Nat := off
def aRstc (off : Nat) : Nat := 0x10000 + off
def aAudt (off : Nat) : Nat := 0x20000 + off
def aSecu (off : Nat) : Nat := 0x30000 + off
def aBndy (off : Nat) : Nat := 0x40000 + off
def aCtx (c off : Nat) : Nat := 0x100000 + c * 0x400 + off
/-- Register `off` of ring `r` of context `c` (R72). -/
def aRing (c r off : Nat) : Nat := 0x100000 + c * 0x400 + 0x100 + r * 0x40 + off
def aGeng (off : Nat) : Nat := 0x110000 + off
def aNumc (c off : Nat) : Nat := 0x200000 + c * 0x100 + off
def aRngs (c off : Nat) : Nat := 0x210000 + c * 0x100 + off
def aProbe (off : Nat) : Nat := 0x214000 + off
def aComt (c off : Nat) : Nat := 0x220000 + c * 0x100 + off
def aComtDev (off : Nat) : Nat := 0x224000 + off
def aClus (n off : Nat) : Nat := 0x1000000 + n * 0x1000 + off
def aHbmc (s off : Nat) : Nat := 0x2000000 + s * 0x10000 + off
def aFabr (off : Nat) : Nat := 0x3000000 + off
def aPort (p off : Nat) : Nat := 0x3010000 + p * 0x1000 + off
def aTrpl (off : Nat) : Nat := 0x4000000 + off
def aFlsh (off : Nat) : Nat := 0x5000000 + off
def aMrgn (off : Nat) : Nat := 0x6000000 + off

end Sys2Proof.Machine
end

