-- ==== Sys2Proof/Machine/Crc.lean ====
section
/-! DEFINITION. Byte strings: little-endian and network-order fields (R7), and the checks over them: CRC-32C (R49),
the CRC-64 of R273, and the CRC-32 of Ethernet frames (R299). -/

namespace Sys2Proof.Machine

/-- The number that a little-endian byte string holds (R7). -/
def leNat : Bytes → Nat
  | [] => 0
  | b :: t => b.toNat + 256 * leNat t

/-- The `n` little-endian bytes of a number (R7). -/
def leBytes : Nat → Nat → Bytes
  | 0, _ => []
  | n + 1, v => BitVec.ofNat 8 v :: leBytes n (v / 256)

/-- The number that a byte string in network order holds (R7). -/
def beNat (bs : Bytes) : Nat := bs.foldl (fun a b => a * 256 + b.toNat) 0

/-- The `n` bytes of a number in network order (R7). -/
def beBytes (n v : Nat) : Bytes := (leBytes n v).reverse

/-- `n` bytes from offset `o`; a byte beyond the end is 0. -/
def sliceB (bs : Bytes) (o n : Nat) : Bytes :=
  let r := (bs.drop o).take n
  r ++ List.replicate (n - r.length) 0

/-- The little-endian field of `n` bytes at offset `o`. -/
def fieldLe (bs : Bytes) (o n : Nat) : Nat := leNat ((bs.drop o).take n)

/-- The network-order field of `n` bytes at offset `o`. -/
def fieldBe (bs : Bytes) (o n : Nat) : Nat := beNat ((bs.drop o).take n)

/-- The byte string with `v` in place at offset `o`. -/
def putB (bs : Bytes) (o : Nat) (v : Bytes) : Bytes := bs.take o ++ v ++ bs.drop (o + v.length)

/-- Bits `hi` down to `lo` of a number. -/
def bitsN (v hi lo : Nat) : Nat := (v >>> lo) % 2 ^ (hi + 1 - lo)

/-- Bit `i` of a number. -/
def bitN (v i : Nat) : Bool := v.testBit i

/-- A value held within a range (R35, R44: values outside clamp). -/
def clampNat (v lo hi : Nat) : Nat := if v < lo then lo else if hi < v then hi else v

/-- Shift a reflected CRC register by `n` bits. -/
def crcBits (poly : Nat) : Nat → Nat → Nat
  | 0, c => c
  | n + 1, c => crcBits poly n (if c % 2 = 1 then Nat.xor (c / 2) poly else c / 2)

/-- A reflected CRC of `width` bits with initial value and final XOR all ones. -/
def crcReflected (poly width : Nat) (bs : Bytes) : Nat :=
  Nat.xor (bs.foldl (fun c b => crcBits poly 8 (Nat.xor c b.toNat)) (2 ^ width - 1)) (2 ^ width - 1)

/-- CRC-32C (R49): polynomial 0x1EDC6F41 reflected. -/
def crc32c (bs : Bytes) : Nat := crcReflected 0x82F63B78 32 bs

/-- The frame check sequence of IEEE 802.3 (R299): polynomial 0x04C11DB7 reflected. -/
def crc32eth (bs : Bytes) : Nat := crcReflected 0xEDB88320 32 bs

/-- The CRC-64 of R273: polynomial 0x42F0E1EBA9EA3693 reflected. -/
def crc64 (bs : Bytes) : Nat := crcReflected 0xC96C5795D7870F42 64 bs

/-- A 64-byte line whose last four bytes are the CRC-32C of the others (R49). -/
def withCheck (bs : Bytes) : Bytes := sliceB bs 0 60 ++ leBytes 4 (crc32c (sliceB bs 0 60))

/-- Whether a 64-byte entry carries the CRC-32C of its first 60 bytes (R49). -/
def checkOk (bs : Bytes) : Bool := decide (fieldLe bs 60 4 = crc32c (sliceB bs 0 60))

end Sys2Proof.Machine
end

