-- ==== Sys2Proof/Machine/Shake.lean ====
section
/-! DEFINITION. SHAKE256 (FIPS 202), which the audit chain (R458), the measurement log (R449), image digests (R443) and
stream keys use. The permutation's state is one number of 1,600 bits whose bit 0 is the first bit of FIPS 202's string
(R7): five planes of 320 bits, each of five lanes of 64 bits. -/

namespace Sys2Proof.Machine

/-- Bits in a plane. -/
def planeBits : Nat := 320

/-- Plane `y` of the state. -/
def planeOf (s y : Nat) : Nat := (s >>> (planeBits * y)) % 2 ^ planeBits

/-- A plane whose lane `x` is lane `x + k` of the given one, counted round. -/
def turnPlane (k p : Nat) : Nat := Nat.lor (p >>> (64 * k)) ((p <<< (planeBits - 64 * k)) % 2 ^ planeBits)

/-- The plane whose every lane is 1. -/
def onesPlane : Nat := (2 ^ planeBits - 1) / (2 ^ 64 - 1)

/-- Every lane of a plane rotated by one place towards its high end. -/
def rotatePlane (p : Nat) : Nat :=
  let top := Nat.land (p >>> 63) onesPlane
  Nat.lor ((p - top <<< 63) <<< 1) top

/-- The exclusive or of the five planes. -/
def foldPlanes (s : Nat) : Nat := Nat.xor (planeOf s 0) (Nat.xor (planeOf s 1) (Nat.xor (planeOf s 2) (Nat.xor (planeOf s 3) (planeOf s 4))))

/-- A plane repeated in all five places. -/
def everyPlane (p : Nat) : Nat := p * ((2 ^ (5 * planeBits) - 1) / (2 ^ planeBits - 1))

/-- The step theta: each lane takes the parity of the column before it and that of the column after, rotated. -/
def theta (s : Nat) : Nat :=
  let c := foldPlanes s
  Nat.xor s (everyPlane (Nat.xor (turnPlane 4 c) (rotatePlane (turnPlane 1 c))))

/-- A lane rotated by `r` places towards its high end. -/
def rotateLane (v r : Nat) : Nat := (v * 2 ^ (r % 64)) % 2 ^ 64 + (v * 2 ^ (r % 64)) / 2 ^ 64

/-- The steps rho and pi at once: starting at column `x`, plane `y`, each lane goes, rotated by the next triangular number, to
the place where the walk goes on. -/
def scatter (s : Nat) : Nat → Nat → Nat → Nat → Nat
  | 0, _, _, out => out
  | n + 1, x, y, out =>
    let t := 24 - n
    let v := (s >>> (planeBits * y + 64 * x)) % 2 ^ 64
    let y' := (2 * x + 3 * y) % 5
    scatter s n y y' (Nat.lor out (rotateLane v (t * (t + 1) / 2) <<< (planeBits * y' + 64 * y)))

/-- The step chi on one plane: each lane is changed by the two after it. -/
def chiPlane (p : Nat) : Nat :=
  Nat.xor p (Nat.land (2 ^ planeBits - 1 - turnPlane 1 p) (turnPlane 2 p))

/-- The step chi. -/
def chi (s : Nat) : Nat := (List.range 5).foldr (fun y acc => chiPlane (planeOf s y) + acc * 2 ^ planeBits) 0

/-- One step of the register that makes the round constants, modulo x^8 + x^6 + x^5 + x^4 + 1. -/
def iotaStep (r : Nat) : Nat := if r < 128 then 2 * r else Nat.xor (2 * r) 0x171

/-- The constant of a round, and the register after it: seven steps, whose bits stand at the places one below a power of two. -/
def iotaBits : Nat → Nat → Nat → Nat × Nat
  | 0, r, k => (k, r)
  | n + 1, r, k => iotaBits n (iotaStep r) (k + r % 2 * 2 ^ (2 ^ (6 - n) - 1))

/-- The rounds of the permutation from the constants' register `r`. -/
def rounds : Nat → Nat → Nat → Nat
  | 0, _, s => s
  | n + 1, r, s =>
    let t := theta s
    let k := iotaBits 7 r 0
    rounds n k.2 (Nat.xor (chi (scatter t 24 1 0 (t % 2 ^ 64))) k.1)

/-- The permutation: 24 rounds. -/
def permute (s : Nat) : Nat := rounds 24 1 s

/-- Bytes of the state that a block of SHAKE256 fills or gives. -/
def shakeRate : Nat := 136

/-- The state after `n` whole blocks of a padded input. -/
def takeIn : Nat → Nat → Bytes → Nat
  | 0, s, _ => s
  | n + 1, s, bs => takeIn n (permute (Nat.xor s (leNat (bs.take shakeRate)))) (bs.drop shakeRate)

/-- The input with the SHAKE suffix and padded to whole blocks: the suffix byte and the closing bit add in one byte where they
meet. -/
def padded (bs : Bytes) : Bytes :=
  let room := shakeRate - bs.length % shakeRate
  bs ++ leBytes room (0x1F + 2 ^ (8 * room - 1))

/-- `n` blocks of output. -/
def giveOut : Nat → Nat → Bytes
  | 0, _ => []
  | n + 1, s => leBytes shakeRate s ++ giveOut n (permute s)

/-- SHAKE256 of a byte string, `n` bytes of output. -/
def shake256 (bs : Bytes) (n : Nat) : Bytes :=
  let p := padded bs
  (giveOut ((n + 135) / 136) (takeIn (p.length / shakeRate) 0 p)).take n

end Sys2Proof.Machine
end

