-- ==== Sys2Proof/Machine/State.lean ====
section
/-! DEFINITION. What the FD512 holds: every register (in one sparse map keyed by register address), and every piece of
state that the spec gives the machine beside its registers, as plain data. -/

namespace Sys2Proof.Machine

/-! ### Device, power, pins -/

/-- The device state of GCTL_STATE (R37). -/
inductive DevState where
  | off | recovery | coldStart | warmStart | ready | active | draining | fenced | detached
  deriving DecidableEq, Repr

/-- The sources of a device reset, in the order of the bits of RSTC_CAUSE (R417). -/
inductive Source where
  | por | bor | pin | wdt | swr | dbg | cfd | lck
  deriving DecidableEq, Repr

/-- The sub-state that SMBus reports in OFF (R495). -/
inductive SubState where
  | standby | sequencing | railFault | brownOut | noRefclk | heldInReset
  deriving DecidableEq, Repr

/-- Whether a start keeps HBM contents (R436). -/
inductive StartKind where
  | cold | warm
  deriving DecidableEq, Repr

/-- Power rails, pins, reference clocks, straps and sensors (R34, R486 to R493). -/
structure Power where
  standby : Bool
  railsOn : Bool
  porDone : Bool
  pwrEn : Bool
  pgood : Bool
  resetLow : Bool
  dbgLow : Bool
  thermLow : Bool
  smbAlertLow : Bool
  refSys : Bool
  refNet : Bool
  sub : SubState
  railLatch : Bool
  brownOut : Bool
  recoveryCycle : Bool
  heldPin : Bool
  heldDbg : Bool
  heldScan : Bool
  heldCfd : Bool
  startPending : Bool
  startWarm : Bool
  causes : List Source
  straps : Straps
  sensors : Sensors
  deriving DecidableEq, Repr

/-- The start under way (R436, R439). -/
structure Boot where
  running : Bool
  stage : BitVec 3
  kind : StartKind
  fromPor : Bool
  source : Source
  timer : Option Dword
  booted : BitVec 2
  pufOk : Bool
  recovery : Option Byte
  recoveryTime : Dword
  deriving DecidableEq, Repr

/-! ### Module flash -/

/-- The start-attempt record in flash unit 14 (R438). -/
structure StartRecord where
  inProgress : Bool
  failed : Nat
  limit : Nat
  starts : Nat
  recoveryPending : Option Byte
  lastSource : Byte
  lastTime : Dword
  deriving DecidableEq, Repr

/-- The boot state in flash unit 14 (R444, R454): the active slot, whether the staged runtime is CONFIRMED, and the highest
CONFIG_SERIAL seen. -/
structure BootState where
  slotB : Bool
  confirmed : Bool
  highestSerial : Dword
  deriving DecidableEq, Repr

/-- A row in the repair log (R282). -/
structure RowRepair where
  stack : Nat
  row : RowAddr
  hard : Bool
  trigger : Byte
  left : Byte
  deriving DecidableEq, Repr

/-- A frame redirect (R284): `frame` is served by spare `spare` of the stack. -/
structure Redirect where
  stack : Nat
  frame : BitVec 19
  spare : BitVec 3
  deriving DecidableEq, Repr

/-- A checkpoint image on a layer (R385, R390). -/
structure Image where
  job : BitVec 16
  rank : BitVec 21
  step : Dword
  tainted : Bool
  durable : Bool
  bytes : Bytes
  deriving DecidableEq, Repr

/-- An entry of the audit ledger (R456). -/
structure AuditEntry where
  seq : Dword
  time : Dword
  cls : BitVec 3
  kind : BitVec 5
  flags : Byte
  originId : BitVec 48
  target : Dword
  old : Dword
  new : Dword
  chain : BitVec 128
  deriving DecidableEq, Repr

/-- A firmware slot supplies its stage 1 and its runtime together (R444). -/
structure FwSlot where
  stage1 : Option SignedObj
  runtime : Option SignedObj
  deriving DecidableEq, Repr

/-- The regions of module flash (R435, R401). -/
structure Flash where
  part0 : Option SignedObj
  part1 : Option SignedObj
  cfgA : Option SignedObj
  cfgB : Option SignedObj
  golden : FwSlot
  slotA : FwSlot
  slotB : FwSlot
  staging : Option SignedObj
  boot : BootState
  start : StartRecord
  rows : List RowRepair
  redirects : List Redirect
  substs : List (Nat × Nat)
  health : Word
  coreMask : Byte
  savedCal : Bool
  resetRecs : List Bytes
  auditArea : List AuditEntry
  images : List Image
  deriving DecidableEq, Repr

/-! ### Security engine -/

/-- An entry of the measurement log (R449). -/
structure MeasEntry where
  index : Word
  stage : Byte
  kind : Byte
  svn : Word
  digest : Bytes
  deriving DecidableEq, Repr

/-- The signed configuration in force (R444). -/
structure SignedConfig where
  serial : Dword
  failLimit : Nat
  minSvn : Word
  fabricPub : Bytes
  debugPub : Bytes
  deriving DecidableEq, Repr

/-- The security engine (R448 to R454): the runtime in force, the one that ran before an ACTIVATE, and the one that a
management-only restart goes to. -/
structure Secu where
  log : List MeasEntry
  logDigest : Bytes
  cdi1 : Bytes
  cdi2 : Bytes
  quoteSeed : Bytes
  dbgNonce : BitVec 256
  caps : BitVec 4
  capsExpire : Dword
  debugSeen : Bool
  liveUpdated : Bool
  config : Option SignedConfig
  svn : Word
  loading : Option (BitVec 3)
  quote : Option Bool
  activateAt : Option Dword
  restart : Bool
  staged : Bool
  running : Option SignedObj
  before : Option SignedObj
  next : Option SignedObj
  deriving DecidableEq, Repr

/-! ### Audit logic -/

/-- The audit ledger (R455 to R461): `next` is the SEQ the next entry gets; `ring` the entries not yet durable,
oldest first; `reserve` hardware entries waiting; `sent` the SEQ from which entries have not been mirrored; `stalled` the
commands that wait for a slot. -/
structure Audit where
  next : Dword
  chain : BitVec 128
  ring : List AuditEntry
  reserve : List AuditEntry
  lostRun : Dword
  drained : Dword
  sent : Dword
  drainFailed : Bool
  stalled : List Instr
  stallRaised : Bool
  rdEntry : Option AuditEntry
  /-- The next fetch of an entry from the ring returns uncorrectable (R280). -/
  rdUe : Bool
  deriving DecidableEq, Repr

/-! ### HBM -/

/-- A frame move in progress (R284). -/
structure Move where
  frame : BitVec 19
  spare : BitVec 3
  trigger : Byte
  deriving DecidableEq, Repr

/-- One of the 256 most recently erring rows (R281): the times of its latest corrected reads, newest first, as many as a limit can
ask for, and whether it has read uncorrectable. -/
structure ErringRow where
  row : RowAddr
  times : List Dword
  ue : Bool
  deriving DecidableEq, Repr

/-- A channel due for training (R285, R287): why, and since when. -/
structure DueChannel where
  channel : Nat
  reason : Byte
  since : Dword
  deriving DecidableEq, Repr

/-- A stack controller (R262, R281 to R287, R291). `state` as HBMC_STATUS.STATE; `upAt` is when it became READY, `lastTrain` and
`lastTemp` when and at what temperature each channel was last trained. -/
structure Stack where
  state : BitVec 3
  hot : Bool
  temp : Int
  due : List DueChannel
  fails : NMap Nat
  erring : List ErringRow
  move : Option Move
  repairing : Option (RowAddr × Byte × Nat)
  retired : Nat
  ueFrames : NMap Nat
  ceSince : Word
  ceEvent : Option Dword
  upAt : Dword
  lastTrain : NMap Dword
  lastTemp : NMap Int
  deriving DecidableEq, Repr

/-- What the Margin Scheduler's slots have used in the aligned 10 ms window number `window` of TIME (R286): ns of full bandwidth by stack,
ns of cluster time for pip checks and for crosschecks by quire, and whether a share held a slot back. -/
structure MrgnUse where
  window : Nat
  byStack : NMap Nat
  pip : NMap Nat
  cross : NMap Nat
  limited : Bool
  deriving DecidableEq, Repr

/-- No slot has run in a window. -/
def MrgnUse.empty (window : Nat) : MrgnUse := { window := window, byStack := [], pip := [], cross := [], limited := false }

/-! ### Trepel Link and Boundary Unit -/

/-- A line of the coherent cache: its state beyond Invalid (R349) and its 64 bytes. -/
structure CacheLine where
  modified : Bool
  exclusive : Bool
  data : Bytes
  deriving DecidableEq, Repr

/-- Why the device read something over the link, by TAG. -/
inductive ReadUse where
  | pointer (ctx ring : Nat)
  | entries (ctx ring pos : Nat)
  | other
  deriving DecidableEq, Repr

/-- The Trepel Link controller (R345 to R350). `state` as TRPL_STATUS.STATE. Of the flits that carry the transactions sent so far,
those before `txBase` were sent before the link last trained from reset, those before `acked` are acknowledged, and the replay
buffer holds the others. -/
structure Trepel where
  state : BitVec 2
  width : BitVec 2
  laneFail : BitVec 16
  txBase : Nat
  acked : Nat
  rxSeq : BitVec 12
  replays : Nat
  cache : NMap CacheLine
  watch : NMap Dword
  marks : List Nat
  outstanding : List (BitVec 16 × ReadUse)
  nextTag : BitVec 16
  deriving DecidableEq, Repr

/-- A DMA window as last applied (R355, R356): byte base, 4 KiB pages, and its three bits. -/
structure Win where
  base : Dword
  pages : BitVec 28
  valid : Bool
  read : Bool
  write : Bool
  deriving DecidableEq, Repr

/-- The Boundary Unit (R353 to R364). -/
structure Bndy where
  wins : NMap Win
  winPending : Bool
  serials : NMap Word
  desc : Option Dword
  descResult : BitVec 4
  descJob : BitVec 16
  clampTherm : Bool
  clampPower : Bool
  trip : Bool
  calm : Nat
  tableFrames : List Nat
  txClamp : BitVec 3
  deriving DecidableEq, Repr

/-! ### Fabric -/

/-- A packet: the transport header of R303 by fields, and its payload. -/
structure Packet where
  epoch : Bool
  cls : BitVec 2
  addrMode : Bool
  poison : Bool
  mc : Bool
  dst : BitVec 21
  op : Byte
  src : BitVec 21
  job : BitVec 16
  counter : BitVec 16
  seq : Word
  retx : Bool
  last : Bool
  mcSpan : BitVec 6
  mcDim : BitVec 2
  target : Dword
  info : Word
  altRank : BitVec 21
  vc : Bool
  hops : Byte
  payload : Bytes
  deriving DecidableEq, Repr

/-- A packet waiting at an output (R326): whether it is in transit, came through the turnaround buffer (R325), has its FCS
inverted (R305), since when it waits, and the uplink address entry it goes by. A version-0 frame is kept as its bytes up to
its FCS (R313). -/
structure Queued where
  pkt : Packet
  transit : Bool
  turned : Bool
  stomp : Bool
  since : Dword
  v0 : Option Bytes
  /-- The uplink address entry it was resolved with (R308, R311). -/
  uplink : Nat
  deriving DecidableEq, Repr

/-- A packet delivered to this device and not yet executed: the port it came by, and the context if any (R310). -/
structure Delivered where
  port : Nat
  ctx : Option Nat
  pkt : Packet
  /-- What the memory does to its execution (R276, R280, R281), as the frame that brought it has it. -/
  env : Env := { ue := [], ce := [], faults := [] }
  deriving DecidableEq, Repr

/-- A receive flow (R330): newest SEQ accepted, and those accepted in the window up to it. -/
structure RxFlow where
  job : BitVec 16
  src : BitVec 21
  dst : BitVec 21
  cls : BitVec 2
  newest : Word
  seen : List Word
  last : Dword
  deriving DecidableEq, Repr

/-- A send flow (R330). -/
structure TxFlow where
  job : BitVec 16
  src : BitVec 21
  dst : BitVec 21
  cls : BitVec 2
  next : Word
  last : Dword
  deriving DecidableEq, Repr

/-- The states of a fabric operation (R333). -/
inductive OpState where
  | sending | waiting | done
  | failed (status : Byte)
  deriving DecidableEq, Repr

/-- A fabric operation of a task (R333): its unacknowledged packets and its timer; for a child value of a collective the
receivers, each with the number of packets it has not acknowledged (R340). -/
structure FabOp where
  id : Nat
  task : Option TaskRef
  ctx : Nat
  port : Nat
  state : OpState
  unacked : List Packet
  retries : Nat
  timer : Dword
  first : Dword
  tile0 : Nat
  acks : List (BitVec 21 × Nat)
  deriving DecidableEq, Repr

/-- A receive window of the collective unit (R340): whether its task has read its input, the COL_DATA that has arrived (INFO,
TARGET, payload), the child values sent, the packets that wait for credits with their operations, the credits one sender
gets, and the senders that have none yet. -/
structure ColWindow where
  ctx : Nat
  job : BitVec 16
  collId : BitVec 10
  task : TaskRef
  started : Bool
  vals : List (Word × Dword × Bytes)
  sent : List (Word × Nat)
  outbox : List (Nat × List (BitVec 21) × Packet)
  share : Nat
  ungranted : List (BitVec 21)
  deriving DecidableEq, Repr

/-- A fabric port (R296, R297, R319): `state` as PORT_STATUS.STATE; the place of the round robin, the transit packets sent in a row
by class, and the token bucket of its injection cap (R326, R360). -/
structure Port where
  state : BitVec 3
  halfInUse : Bool
  pcsLock : Bool
  anDone : Bool
  ptpSlave : Bool
  laneFail : Byte
  upTime : Dword
  /-- It last came up at half width (R297). -/
  wasHalf : Bool
  /-- Its next training is that of a port reset (R297). -/
  srst : Bool
  isolated : Bool
  queue : List Queued
  wrr : Nat
  alt : List Nat
  tokens : Nat
  tokenAt : Dword
  /-- The timestamp of the last Pdelay_Req that arrived, in 1/16 ns (R315). -/
  pdelayAt : Nat
  deriving DecidableEq, Repr

/-- The Fabric Engine beside its registers (R307 to R340). -/
structure Fabric where
  /-- The part of a nanosecond that TIME has run, in 10^-12 ns (R314). -/
  timeFrac : Nat
  rtt : NMap Dword
  jobdir : NMap Dword
  uplinks : NMap (BitVec 256)
  exc : NMap Dword
  ports : NMap Port
  delivered : List Delivered
  mgmt : List Packet
  rx : List RxFlow
  tx : List TxFlow
  ops : List FabOp
  nextOp : Nat
  windows : List ColWindow
  credits : NMap Nat
  discards : NMap Word
  discardEvent : NMap Dword
  epochDrained : Word
  epochTime : Dword
  epochOpen : Bool
  servoGood : Nat
  syncAt : Dword
  deriving DecidableEq, Repr

/-! ### Contexts -/

/-- The states of a context (R60). -/
inductive CtxState where
  | invalid | configured | active | quiescing | killed
  deriving DecidableEq, Repr

/-- A ring (R65 to R69): the device's count, the companion's count, the entries fetched and not yet taken, the segment
descriptor whose task table is being read, the expected sequence number, its error, whether the error still stops it,
its interrupt bookkeeping, whether its device line is still to be written as the link was not in service (R65), and the
CANCELs that still apply: the first SEGMENT_ID of each and the one it ends before (R64). -/
structure Ring where
  devPtr : Word
  compPtr : Word
  fetched : List Bytes
  fetchedTo : Word
  taken : Option Bytes
  expect : Word
  err : Bool
  errCause : BitVec 3
  stopped : Bool
  unsignalled : Nat
  firstAt : Option Dword
  lineDue : Bool
  cancel : List (Word × Word)
  deriving DecidableEq, Repr

/-- The rotation record of a tile or of a level-2 version (R112, R220). -/
structure RotRec where
  rot : BitVec 3
  axis : Bool
  stream : Word
  ctrHi : Word
  deriving DecidableEq, Repr

/-- The copy record of R222: the master and scale-table handles, the parameters, and whether the copy is turned. -/
structure CopyRec where
  master : Nat
  table : Option Nat
  params : Bytes
  turned : Bool
  deriving DecidableEq, Repr

/-- What the Graph Engine keeps of a handle's current version (R43, R55, R196, R218 to R221); `wide` is the IN0 handle of
the QUANTIZE that wrote it and the writer of the version it read (R229); `copy` the copy record of a version that an UPDATE or a
REQUANT wrote (R222). -/
structure Version where
  orient : Bool
  level : Nat
  rotRec : Option RotRec
  failed : Option Byte
  working : Bool
  writer : Option TaskRef
  wide : Option (Nat × Option TaskRef)
  copy : Option CopyRec
  deriving DecidableEq, Repr

/-- What an import keeps once its source context is released (R61, R62): the root of the tables that map the tensor, the side of a
FOLIO source, the version read, and its shadow. -/
structure Kept where
  root : Dword
  side : Bool
  ver : Version
  shadow : Option Nat
  deriving DecidableEq, Repr

/-- A handle (R46, R61, R62, R122, R221). -/
structure Handle where
  addrA : Dword
  addrB : Dword
  tiles : Nat
  format : Byte
  flags : Byte
  rows : Nat
  cols : Nat
  source : Option (Nat × Nat)
  clipBound : Bool
  charge : Nat
  shadow : Option Nat
  kept : Option Kept
  deriving DecidableEq, Repr

/-- Where a task stands. -/
inductive TaskState where
  | queued | issued | waiting | ran | complete
  deriving DecidableEq, Repr

/-- A contribution to a scale slot (R109, R125, R207): table handle, slot, T used, amax, E and S. -/
structure SlotUse where
  table : Nat
  slot : Nat
  folds : Bool
  t : Word
  amax : Word
  e : Word
  s : Word
  deriving DecidableEq, Repr

/-- What a task's run produced beside its outputs (R77, R97, R108, R125, R211, R216, R228). -/
structure Result where
  status : Byte
  detail : BitVec 16
  counts : List Nat
  flushedBlocks : Nat
  invalidBlocks : Nat
  exc : List Nat
  clamped : Bool
  amax : Word
  e : Word
  s : Word
  elements : Nat
  blocks : Nat
  ovfThresh : Nat
  slot : BitVec 16
  uses : List SlotUse
  nonfinite : Option (Byte × Word × Word × Word)
  stateNonfinite : Bool
  dw2 : Word
  w2 : Word
  zeroG : Nat
  n : Nat
  deriving DecidableEq, Repr

/-- A completion record before it is laid out (R70). -/
structure CRec where
  type : Byte
  status : Byte
  detail : BitVec 16
  index : BitVec 16
  layer : BitVec 16
  seq : Word
  kind : Byte
  ovf : Byte
  formatUsed : Byte
  attempt : Byte
  tag : Dword
  time : Dword
  counts : List Word
  clusterNs : Word
  deriving DecidableEq, Repr

/-- A pip check that has started (R230 to R233): its output tile, the logical cluster that runs it, and what it is to find: the result
code of R238 and the element with its difference, threshold, H and ratio. `dropped` once a repeat of its group has superseded the
task. -/
structure PipRun where
  tile : Nat
  check : Nat
  result : Nat
  row : Nat
  col : Nat
  diff : Nat
  tau : Nat
  h : Nat
  ratio : Nat
  dropped : Bool
  deriving DecidableEq, Repr

/-- What an imported FOLIO handle is bound to at admission (R62): the side of the source, and the version there. -/
structure Bind where
  side : Bool
  ver : Version
  deriving DecidableEq, Repr

/-- A task in flight or kept until its step ends (R48, R52, R70): whether it names a stepped stream reference (R248), since when it is
issued, the status its outputs are still to take where it ended without running (R43, R55), the orientation of what it writes (R196),
what its imported FOLIO inputs are bound to (R62), what its outputs overwrote where a repeat may drop them (R223), its pip checks
not yet started (R229), how many of them gave AGREE, DISAGREE, HARD, SKIPPED and NOT_CHECKED and the largest ratio of R231 (R237),
where its ledger record stands (R236), and its completion record while the instance is not settled
(R223). -/
structure Task where
  ref : TaskRef
  order : Nat
  step : Dword
  desc : Bytes
  ext : Bytes
  attempt : Nat
  level : Nat
  st : TaskState
  cluster : Option (Fin 512)
  engine : Option (Fin 32)
  trips : BitVec 4
  superseded : Bool
  deadline : Dword
  issuedAt : Dword
  stepped : Bool
  verDue : Option Byte
  orient : Bool
  binds : List (Nat × Bind)
  undo : List (Nat × Nat × Bytes)
  undoVers : List (Nat × Version)
  pip : List Nat
  pipRes : List Nat
  pipMax : Word
  ledger : Option Word
  held : Option (Nat × CRec)
  res : Result
  deriving DecidableEq, Repr

/-- A group instance (R214, R219, R223): its segment and layer, its step, the level of attempt 0 once an issue has fixed it,
the level in force, the attempt, the causes seen in attempt 0 and in the repeat, the first tripping INDEX, whether a repeat
is due, whether it has settled, and its outcome (R237). -/
structure Group where
  ring : Fin 4
  seg : Word
  layer : BitVec 16
  step : Dword
  start : Option Nat
  level : Nat
  attempt : Nat
  causes : BitVec 4
  causesRep : BitVec 4
  first : Option Nat
  due : Bool
  settled : Bool
  outcome : Nat
  deriving DecidableEq, Repr

/-- An admitted segment (R56, R59), and what its imported FOLIO predicate is bound to (R57, R62). -/
structure Segment where
  ring : Fin 4
  id : Word
  order : Nat
  entry : Bytes
  closed : Bool
  predWait : Bool
  predBind : Option Bind
  deriving DecidableEq, Repr

/-- An event record before it is laid out (R71). -/
structure ERec where
  type : Byte
  severity : Byte
  code : BitVec 16
  ctx : Byte
  layer : BitVec 16
  time : Dword
  step : Dword
  seq : Word
  index : BitVec 16
  unit : BitVec 16
  detail : Bytes
  deriving DecidableEq, Repr

/-- A CHECKPOINT WRITE whose layers are not all decided (R387 to R390): the image, whether the twin was CORRELATED at
capture, ADDR, the layers not yet decided (4 for the L2 copy of an L1 image, R390), whether L1 was redirected to L2, whether
L2 failed, whether L3 has been sent, and the status of the first layer that failed. -/
structure CkpRun where
  task : TaskRef
  step : Dword
  image : Bytes
  tainted : Bool
  correlated : Bool
  addr : Dword
  waiting : List Nat
  redirected : Bool
  l2Bad : Bool
  l3Sent : Bool
  status : Byte
  deriving DecidableEq, Repr

/-- What a STEP_END has prepared when it casts its vote (R370, R374): the write set, the stream table if it was written, the
cursor the step carries and whether it was carried over, whether a slot passed its period (R246), the write digest (R257),
and the counts and flags of its STEP record (R238, R373). -/
structure Prep where
  written : List Nat
  table : Option Nat
  cursor : Option Dword
  carried : Bool
  wrap : Bool
  digest : BitVec 128
  tasks : Nat
  layers : Nat
  deriving DecidableEq, Repr

/-- A context beside its registers; `lateWords` what the commit area could not take while its stack was fenced (R428), `vstep`
and `vjob` the step of the last vote cast and the job, which the vote logic keeps through a reset of the rest (R375, R417);
`hardPip` the steps with a HARD pip check (R232); `pipRuns` the pip checks that run, with the sampled tasks (R230, R233); `adminWait` the admin command that waits, with the image it has read (R64,
R185). -/
structure Ctx where
  st : CtxState
  killCause : Byte
  overcommit : Bool
  rings : NMap Ring
  handles : NMap Handle
  vers : NMap Version
  commVers : NMap Version
  groups : List Group
  segs : List Segment
  tasks : List Task
  order : Nat
  cqBuf : List (Nat × CRec)
  evBuf : List ERec
  evLost : Bool
  cursors : List (Dword × Dword)
  realign : Bool
  posSets : List Nat
  map : NMap Bool
  mapSel : Bool
  mapValid : Bool
  phase : BitVec 3
  tries : Nat
  castAt : Option Dword
  prep : Option Prep
  childWords : NMap Dword
  timedOut : List Nat
  history : List (Dword × Dword)
  stepTask : Option TaskRef
  overrides : NMap Nat
  funcs : NMap Bytes
  ledSeq : Word
  ledGap : Bool
  adminWait : Option Bytes
  ckp : Option CkpRun
  ckpReq : BitVec 3
  ckpPair : Bool
  abortArmed : Bool
  hardPip : List Dword
  pipRuns : List (Task × PipRun)
  lostPoison : Bool
  started : Bool
  lateWords : List (Nat × Bytes)
  vstep : Dword
  vjob : BitVec 16
  stale : List Nat
  deriving DecidableEq, Repr

/-! ### Clusters, decisions, resets -/

/-- A cluster beside its registers (R135, R138, R148, R151, R406): `busy` while a task of the array or of the VECTOR unit stands on it,
`run` while a run of the array is in progress, `rampDown` once the run has ended until the ramp-down is granted. -/
structure Cluster where
  busy : Bool
  run : Bool
  rampDown : Bool
  bank : Bool
  mode : BitVec 2
  ramping : Bool
  rampWait : Bool
  mvpBusy : Bool
  ctx : Byte
  groups : Byte
  armed : Bool
  reset : Bool
  heldBack : Bool
  lastCtx : Option Nat
  lastClean : Dword
  deriving DecidableEq, Repr

/-- The kinds of decision (R407 to R410). -/
inductive DecisionKind where
  | abft | crosscheck | pip | plausibility
  deriving DecidableEq, Repr

/-- A decision under way (R407, R412); `restarted` once its bound has begun again. -/
structure Decision where
  id : Nat
  kind : DecisionKind
  clusters : List Nat
  task : Option TaskRef
  since : Dword
  observed : Int
  checksum : Int
  n : Word
  element : BitVec 16
  xor : Word
  restarted : Bool
  deriving DecidableEq, Repr

/-- The stages of a domain reset (R422). -/
inductive RStage where
  | fence | drain | record | assert | release
  deriving DecidableEq, Repr

/-- A domain reset under way (R420 to R428); `parts` the parts asserted and not yet ready, in the order of R425, `queue` the
QUEUE entries of its record as the fence found them (R424). -/
structure DomReset where
  id : Nat
  domain : Nat
  unit : Nat
  stage : RStage
  source : Byte
  fenceAt : Dword
  boundAt : Dword
  answered : Word
  recSeq : Option Word
  prevSeq : Option Word
  gated : Bool
  parts : List Nat
  ctxs : List Nat
  queue : List Bytes
  deriving DecidableEq, Repr

/-- The reset controller and the fault logic beside their registers (R404 to R426). -/
structure Faults where
  /-- Times at which the flit that a spine link resends has failed its CRC, newest first (R27). -/
  spine : List (Nat × List Dword)
  decisions : List Decision
  nextId : Nat
  resets : List DomReset
  tcsCount : Nat
  tcsHour : Dword
  suspects : List Nat
  diagnosing : Bool
  draining : Bool
  drainDetach : Bool
  wdtKick : Dword
  dblFault : Option Dword
  deriving DecidableEq, Repr

/-- The twin (R392, R393); the partner area is HBM (R394). -/
structure Twin where
  state : BitVec 3
  correlated : Bool
  feed : BitVec 4
  coord : BitVec 21
  size : Nat
  hello : Bool
  confirmed : Bool
  lastBeat : Dword
  deriving DecidableEq, Repr

/-- The Cadence service (R391). -/
structure Cadence where
  last : Option Dword
  gaps : List Dword
  lastDurable : Dword
  l1Count : Nat
  b2 : Nat
  powerOn : Dword
  deriving DecidableEq, Repr

/-- The SMBus responder (R494, R495). -/
structure Smb where
  copies : NMap Bytes
  alerts : Byte
  deriving DecidableEq, Repr

/-- The JTAG TAP (R496, R497). -/
structure Jtag where
  ir : Byte
  dr : BitVec 72
  deriving DecidableEq, Repr

/-- What belongs to one register path (R472, R476). -/
structure PathState where
  staged : Option (Nat × Word)
  shadow : Option (Nat × Word)
  bcast : Word
  diff : Word
  deriving DecidableEq, Repr

/-- What leaves the module. -/
inductive Out where
  /-- A 64-byte line written whole into companion memory (R68, R349). -/
  | line (addr : Dword) (bytes : Bytes)
  /-- A message-signalled interrupt (R69). -/
  | msi (vector : BitVec 11)
  /-- A link transaction towards the companion (R348): opcode, status, tag, address, data. -/
  | link (op status : Byte) (tag : BitVec 16) (addr : Dword) (data : Bytes)
  /-- A link flit (R346). -/
  | flit (bytes : Bytes)
  /-- The value a register read returns on a path (R466). -/
  | regRead (path : Path) (value : Word)
  /-- A frame on a port (R299, R300, R313). -/
  | frame (port : Nat) (bytes : Bytes)
  /-- The two-step egress timestamp of a PTP message, in 1/16 ns, that a port reports to the firmware (R315, R316). -/
  | ptpStamp (port kind stamp : Nat)
  /-- The bytes an SMBus command returns (R495). -/
  | smb (bytes : Bytes)
  /-- The data register a JTAG instruction shows (R497): length in bits and contents. -/
  | jtag (bits : Nat) (value : BitVec 72)
  deriving DecidableEq, Repr

/-- The stops of the model. -/
inductive Fault where
  /-- An access to a device physical address outside the 40-bit address space (R263). No command raises it: the spec answers
  every access it lets a command make (R268, R354), so the model does too. Safe: the machine has no such address. -/
  | noSuchAddress
  deriving DecidableEq, Repr

/-- What the model does not give a meaning to. -/
inductive Refusal where
  /-- Raised by an arm of Machine/Dispatch.lean for a command whose meaning is not written; every command has its meaning, so no
  arm raises it. Safe: the machine goes on where the model stops. -/
  | notModelled (mnemonic : String)
  deriving DecidableEq, Repr

/-- The part number (R2). -/
inductive Part where
  | h768 | h576
  deriving DecidableEq, Repr

/-- The machine. -/
structure State where
  part : Part
  time : Dword
  dev : DevState
  prev : DevState
  devSince : Dword
  power : Power
  boot : Boot
  flash : Flash
  secu : Secu
  audit : Audit
  regs : NMap Word
  paths : NMap PathState
  mem : List Host.Cell
  hbm : NMap Stack
  mrgnRecal : Option Dword
  mrgnUse : MrgnUse
  mrgnLast : MrgnUse
  trepel : Trepel
  bndy : Bndy
  fabric : Fabric
  ctxs : NMap Ctx
  clusters : NMap Cluster
  ramps : NMap (List Nat)
  faults : Faults
  twin : Twin
  cadence : Cadence
  smb : Smb
  jtag : Jtag
  probe : Option (BitVec 128 × Dword)
  outputs : List Out
  fresh : Nat
  pending : List Instr
  deriving DecidableEq, Repr

/-! ### Reset -/

/-- The sensors before the first reading: every reading zero. DESIGN CHOICE: log entry 5. -/
def sensorsZero : Sensors :=
  { junction := [], stack := [], inlet := 0, outlet := 0, volt10mV := 0, amp10mA := 0, watt1ms := 0, watt1s := 0 }

/-- Power and pins with the 48 V supply absent. DESIGN CHOICE: log entry 16. -/
def Power.reset : Power :=
  { standby := false, railsOn := false, porDone := false, pwrEn := false, pgood := false, resetLow := false,
    dbgLow := false, thermLow := false, smbAlertLow := false, refSys := true, refNet := true, sub := .standby,
    railLatch := false, brownOut := false, recoveryCycle := false, heldPin := false, heldDbg := false,
    heldScan := false, heldCfd := false, startPending := false, startWarm := false, causes := [],
    straps := { feedId := 0, slotId := 0, txClamp := 0 }, sensors := sensorsZero }

/-- No start under way. -/
def Boot.reset : Boot :=
  { running := false, stage := 0, kind := .cold, fromPor := true, source := .por, timer := none, booted := 0,
    pufOk := true, recovery := none, recoveryTime := 0 }

/-- Empty firmware slot. -/
def FwSlot.empty : FwSlot := { stage1 := none, runtime := none }

/-- A module flash with nothing written. -/
def Flash.blank : Flash :=
  { part0 := none, part1 := none, cfgA := none, cfgB := none, golden := FwSlot.empty, slotA := FwSlot.empty,
    slotB := FwSlot.empty, staging := none,
    boot := { slotB := false, confirmed := false, highestSerial := 0 },
    start := { inProgress := false, failed := 0, limit := 3, starts := 0, recoveryPending := none, lastSource := 0,
               lastTime := 0 },
    rows := [], redirects := [], substs := [], health := 0, coreMask := 0xFF, savedCal := false, resetRecs := [],
    auditArea := [], images := [] }

/-- The security engine before a start. -/
def Secu.reset : Secu :=
  { log := [], logDigest := [], cdi1 := [], cdi2 := [], quoteSeed := [], dbgNonce := 0, caps := 0, capsExpire := 0,
    debugSeen := false, liveUpdated := false, config := none, svn := 0, loading := none, quote := none,
    activateAt := none, restart := false, staged := false, running := none,
    before := none, next := none }

/-- The audit logic before a start. -/
def Audit.reset : Audit :=
  { next := 0, chain := 0, ring := [], reserve := [], lostRun := 0, drained := 0, sent := 0, drainFailed := false, stalled := [],
    stallRaised := false, rdEntry := none, rdUe := false }

/-- The Trepel Link down, its cache empty. -/
def Trepel.reset : Trepel :=
  { state := 0, width := 0, laneFail := 0, txBase := 0, acked := 0, rxSeq := 0, replays := 0, cache := [], watch := [],
    marks := [], outstanding := [], nextTag := 0 }

/-- The Boundary Unit at reset. -/
def Bndy.reset : Bndy :=
  { wins := [], winPending := false, serials := [], desc := none, descResult := 0, descJob := 0, clampTherm := false,
    clampPower := false, trip := false, calm := 0, tableFrames := [], txClamp := 0 }

/-- The fabric at reset. -/
def Fabric.reset : Fabric :=
  { timeFrac := 0, rtt := [], jobdir := [], uplinks := [], exc := [], ports := [], delivered := [], mgmt := [], rx := [],
    tx := [], ops := [], nextOp := 0, windows := [], credits := [], discards := [], discardEvent := [], epochDrained := 0,
    epochTime := 0, epochOpen := false, servoGood := 0, syncAt := 0 }

/-- The fault logic at reset. -/
def Faults.reset : Faults :=
  { spine := [], decisions := [], nextId := 0, resets := [], tcsCount := 0, tcsHour := 0, suspects := [], diagnosing := false,
    draining := false, drainDetach := false, wdtKick := 0, dblFault := none }

/-- No twin. -/
def Twin.reset : Twin :=
  { state := 0, correlated := false, feed := 0, coord := 0, size := 0, hello := false, confirmed := false, lastBeat := 0 }

/-- The Cadence service at reset. -/
def Cadence.reset : Cadence :=
  { last := none, gaps := [], lastDurable := 0, l1Count := 0, b2 := 0, powerOn := 0 }

/-- The machine before power: OFF, every register at its reset value, memory clear, no command waiting. DESIGN CHOICE: log entry 3. DESIGN CHOICE: log entry 6. -/
def State.reset : State :=
  { part := .h768, time := 0, dev := .off, prev := .off, devSince := 0, power := Power.reset, boot := Boot.reset,
    flash := Flash.blank, secu := Secu.reset, audit := Audit.reset, regs := [], paths := [], mem := [], hbm := [],
    mrgnRecal := none, mrgnUse := MrgnUse.empty 0, mrgnLast := MrgnUse.empty 0, trepel := Trepel.reset, bndy := Bndy.reset, fabric := Fabric.reset, ctxs := [],
    clusters := [], ramps := [], faults := Faults.reset, twin := Twin.reset, cadence := Cadence.reset,
    smb := { copies := [], alerts := 0 }, jtag := { ir := 1, dr := 0 }, probe := none, outputs := [], fresh := 0,
    pending := [] }

end Sys2Proof.Machine
end

