-- ==== Sys2Proof/Machine/Ops.lean ====
section
/-! DEFINITION. The named operations over the state: registers and counters, contexts, rings and records, events, DMA
windows, and the audit ledger. -/

namespace Sys2Proof.Machine

/-! ### What an unlisted member holds -/

/-- A ring that is not enabled (R65). -/
def Ring.empty : Ring :=
  { devPtr := 0, compPtr := 0, fetched := [], fetchedTo := 0, taken := none, expect := 0, err := false, errCause := 0,
    stopped := false, unsignalled := 0,
    firstAt := none, lineDue := false, cancel := [] }

/-- A context in INVALID (R60). -/
def Ctx.empty : Ctx :=
  { st := .invalid, killCause := 0, overcommit := false, rings := [], handles := [], vers := [], commVers := [], groups := [], segs := [], tasks := [],
    order := 0, cqBuf := [], evBuf := [], evLost := false, cursors := [], realign := false, posSets := [], map := [],
    mapSel := false, mapValid := false, phase := 0, tries := 0, castAt := none, prep := none, childWords := [],
    timedOut := [], history := [], stepTask := none, overrides := [], funcs := [], ledSeq := 0,
    ledGap := false, adminWait := none, ckp := none, ckpReq := 0, ckpPair := false, abortArmed := false,
    hardPip := [], pipRuns := [], lostPoison := false, started := false, lateWords := [], vstep := 0, vjob := 0, stale := [] }

/-- A cluster with nothing running (R148, R481). -/
def Cluster.empty : Cluster :=
  { busy := false, run := false, rampDown := false, bank := false, mode := 0, ramping := false, rampWait := false, mvpBusy := false, ctx := 0xFF,
    groups := 0, armed := false, reset := false, heldBack := false, lastCtx := none, lastClean := 0 }

/-- A stack held in reset (R262). -/
def Stack.empty : Stack :=
  { state := 0, hot := false, temp := 0, due := [], fails := [], erring := [], move := none, repairing := none,
    retired := 0, ueFrames := [], ceSince := 0, ceEvent := none, upAt := 0, lastTrain := [], lastTemp := [] }

/-- A stack that becomes READY with all its channels trained at its temperature (R262, R287). -/
def Stack.ready (k : Stack) (now : Dword) : Stack :=
  { k with state := 2, due := [], upAt := now, lastTrain := [], lastTemp := (List.range 32).map fun i => (i, k.temp) }

/-- A disabled port (R296). -/
def Port.empty : Port :=
  { state := 0, halfInUse := false, pcsLock := false, anDone := false, ptpSlave := false, laneFail := 0, upTime := 0,
    wasHalf := false, srst := false, isolated := false, queue := [], wrr := 0, alt := [0, 0, 0, 0], tokens := 65536, tokenAt := 0, pdelayAt := 0 }

/-- A path that has read and staged nothing. -/
def PathState.empty : PathState := { staged := none, shadow := none, bcast := 0, diff := 0 }

/-- A window never applied (R481). -/
def Win.empty : Win := { base := 0, pages := 0, valid := false, read := false, write := false }

/-! ### Members -/

/-- Context `c`. -/
def State.ctx (s : State) (c : Nat) : Ctx := NMap.get (fun _ => Ctx.empty) s.ctxs c

/-- The state with context `c` replaced. -/
def State.setCtx (s : State) (c : Nat) (x : Ctx) : State :=
  { s with ctxs := NMap.set (fun _ => Ctx.empty) s.ctxs c x }

/-- Ring `r` of a context. -/
def Ctx.ring (x : Ctx) (r : Nat) : Ring := NMap.get (fun _ => Ring.empty) x.rings r

/-- The context with ring `r` replaced. -/
def Ctx.setRing (x : Ctx) (r : Nat) (g : Ring) : Ctx :=
  { x with rings := NMap.set (fun _ => Ring.empty) x.rings r g }

/-- Ring `r` of context `c`. -/
def State.ring (s : State) (c r : Nat) : Ring := (s.ctx c).ring r

/-- The state with ring `r` of context `c` replaced. -/
def State.setRing (s : State) (c r : Nat) (g : Ring) : State := s.setCtx c ((s.ctx c).setRing r g)

/-- Cluster `n`. -/
def State.clus (s : State) (n : Nat) : Cluster := NMap.get (fun _ => Cluster.empty) s.clusters n

/-- The state with cluster `n` replaced. -/
def State.setClus (s : State) (n : Nat) (x : Cluster) : State :=
  { s with clusters := NMap.set (fun _ => Cluster.empty) s.clusters n x }

/-- Stack `n`. -/
def State.stack (s : State) (n : Nat) : Stack := NMap.get (fun _ => Stack.empty) s.hbm n

/-- The state with stack `n` replaced. -/
def State.setStack (s : State) (n : Nat) (x : Stack) : State :=
  { s with hbm := NMap.set (fun _ => Stack.empty) s.hbm n x }

/-- Port `p`. -/
def State.port (s : State) (p : Nat) : Port := NMap.get (fun _ => Port.empty) s.fabric.ports p

/-- The state with port `p` replaced. -/
def State.setPort (s : State) (p : Nat) (x : Port) : State :=
  { s with fabric := { s.fabric with ports := NMap.set (fun _ => Port.empty) s.fabric.ports p x } }

/-- What belongs to register path `p`. -/
def State.path (s : State) (p : Nat) : PathState := NMap.get (fun _ => PathState.empty) s.paths p

/-- The state with path `p` replaced. -/
def State.setPath (s : State) (p : Nat) (x : PathState) : State :=
  { s with paths := NMap.set (fun _ => PathState.empty) s.paths p x }

/-- Window `i` as last applied (R356). -/
def State.win (s : State) (i : Nat) : Win := NMap.get (fun _ => Win.empty) s.bndy.wins i

/-! ### Registers -/

/-- The word that register address `a` stores. DEDUCED: log entry 30. -/
def State.reg (s : State) (a : Nat) : Word := NMap.get regReset s.regs a

/-- The state with `v` stored at register address `a`. -/
def State.setReg (s : State) (a : Nat) (v : Word) : State := { s with regs := NMap.set regReset s.regs a v }

/-- The 64-bit value of the pair whose `_LO` is at `a` (R9). -/
def State.reg64 (s : State) (a : Nat) : Dword := s.reg (a + 4) ++ s.reg a

/-- The state with the pair at `a` holding `v`. -/
def State.setReg64 (s : State) (a : Nat) (v : Dword) : State :=
  (s.setReg a (v.setWidth 32)).setReg (a + 4) ((v >>> 32).setWidth 32)

/-- Bit `i` of register `a`. -/
def State.regBit (s : State) (a i : Nat) : Bool := (s.reg a).getLsbD i

/-- Bits `hi` to `lo` of register `a` as a number. -/
def State.regField (s : State) (a hi lo : Nat) : Nat := bitsN (s.reg a).toNat hi lo

/-- The state with bit `i` of register `a` set to `b`. -/
def State.setRegBit (s : State) (a i : Nat) (b : Bool) : State :=
  s.setReg a (if b then s.reg a ||| ((1 : Word) <<< i) else s.reg a &&& ~~~((1 : Word) <<< i))

/-! ### Enables (R477) -/

def State.clusEn (s : State) : Bool := s.regBit 0x10 0
def State.hbmEn (s : State) : Bool := s.regBit 0x10 1
def State.fabrEn (s : State) : Bool := s.regBit 0x10 2
def State.uplinkEn (s : State) : Bool := s.regBit 0x10 3
def State.twinEn (s : State) : Bool := s.regBit 0x10 4
def State.trplEn (s : State) : Bool := s.regBit 0x10 5
def State.gengEn (s : State) : Bool := s.regBit 0x10 6
def State.flshEn (s : State) : Bool := s.regBit 0x10 7

/-! ### Contexts -/

/-- Whether a context counts as active (R39, R60). -/
def CtxState.isActive : CtxState → Bool
  | .active | .quiescing | .killed => true
  | .invalid | .configured => false

/-- CTX_STATUS.STATE (R60). -/
def CtxState.code : CtxState → Nat
  | .invalid => 0
  | .configured => 1
  | .active => 2
  | .quiescing => 3
  | .killed => 4

/-- The numbers of the active contexts, rising. -/
def State.activeCtxs (s : State) : List Nat := (s.ctxs.filter fun e => e.2.st.isActive).map fun e => e.1

/-- GCTL_STATE.LOCKED: whether any context is active (R470). -/
def State.locked (s : State) : Bool := s.ctxs.any fun e => e.2.st.isActive

/-- The device-state code of R37. -/
def DevState.code : DevState → Nat
  | .off => 0
  | .recovery => 1
  | .coldStart => 2
  | .warmStart => 3
  | .ready => 4
  | .active => 5
  | .draining => 6
  | .fenced => 7
  | .detached => 8

/-- Whether a start is under way (R38). -/
def State.starting (s : State) : Bool := decide (s.dev = .coldStart ∨ s.dev = .warmStart)

/-- The step under way of a context: RNGS_STEP + 1 (R372). -/
def State.stepOf (s : State) (c : Nat) : Dword := s.reg64 (aRngs c 0x20) + 1

/-! ### Companion memory -/

/-- Whether an access of `len` bytes at `addr` lies wholly in a VALID window that allows its direction (R355). -/
def State.winAllows (s : State) (addr len : Nat) (write : Bool) : Bool :=
  s.bndy.wins.any fun e =>
    let w := e.2
    w.valid && (if write then w.write else w.read) && decide (w.base.toNat ≤ addr) &&
      decide (addr + len ≤ w.base.toNat + w.pages.toNat * 4096)

/-- Whether the link carries device transactions: TRPL_EN is set and the link is UP, or retraining with its replay
buffer kept (R346, R347, R478). -/
def State.linkServes (s : State) : Bool := s.trplEn && (s.trepel.state == 1 || s.trepel.state == 2)

/-- The machine with an output appended. -/
def State.emit (s : State) (o : Out) : State := { s with outputs := s.outputs ++ [o] }

/-! ### Counters (R15) -/

/-- The 48-bit counter at `a`, and whether it has overflowed. -/
def State.count (s : State) (a : Nat) : Nat := (s.reg a).toNat + 2 ^ 32 * ((s.reg (a + 4)).toNat % 2 ^ 16)

/-- The sticky OVF bit of the counter at `a`. -/
def State.countOvf (s : State) (a : Nat) : Bool := s.regBit (a + 4) 31

/-- Add `n` to the counter at `a`: it stops at 2^48 − 1 and sets OVF; the flag says whether it did so now. -/
def countRaw (a n : Nat) (s : State) : State × Bool :=
  if s.countOvf a then (s, false)
  else if s.count a + n < 2 ^ 48 - 1 then
    (s.setReg64 a (BitVec.ofNat 64 (s.count a + n)), false)
  else if n = 0 then (s, false)
  else ((s.setReg a 0xFFFFFFFF).setReg (a + 4) 0x8000FFFF, true)

/-- Clear a counter and its OVF bit (R15). -/
def countClear (a : Nat) (s : State) : State := s.setReg64 a 0

/-! ### Records (R68, R70, R71) -/

/-- A completion record as its 64 bytes (R70). -/
def CRec.bytes (r : CRec) (phase : Nat) : Bytes :=
  withCheck (leBytes 1 r.type.toNat ++ leBytes 1 r.status.toNat ++ leBytes 2 r.detail.toNat ++ leBytes 2 r.index.toNat
    ++ leBytes 2 r.layer.toNat ++ leBytes 4 r.seq.toNat ++ leBytes 1 r.kind.toNat ++ leBytes 1 r.ovf.toNat
    ++ leBytes 1 r.formatUsed.toNat ++ leBytes 1 r.attempt.toNat ++ leBytes 8 r.tag.toNat ++ leBytes 8 r.time.toNat
    ++ ((List.range 5).flatMap fun i => leBytes 4 (r.counts.getD i 0).toNat) ++ leBytes 4 r.clusterNs.toNat
    ++ leBytes 3 0 ++ leBytes 1 phase)

/-- An event record as its 64 bytes (R71); `lost` is the LOST bit. -/
def ERec.bytes (e : ERec) (phase : Nat) (lost : Bool) : Bytes :=
  withCheck (leBytes 1 e.type.toNat ++ leBytes 1 e.severity.toNat ++ leBytes 2 e.code.toNat ++ leBytes 1 e.ctx.toNat
    ++ leBytes 1 0 ++ leBytes 2 e.layer.toNat ++ leBytes 8 e.time.toNat ++ leBytes 8 e.step.toNat
    ++ leBytes 4 e.seq.toNat ++ leBytes 2 e.index.toNat ++ leBytes 2 e.unit.toNat ++ sliceB e.detail 0 24
    ++ leBytes 3 0 ++ leBytes 1 (phase + if lost then 2 else 0))

/-- N of ring `r` of context `c` (R65): LOG2_ENTRIES 6 to 16, other values act as 6. -/
def State.ringSize (s : State) (c r : Nat) : Nat :=
  let l := s.regField (aRing c r 8) 12 8
  2 ^ (if 6 ≤ l ∧ l ≤ 16 then l else 6)

/-- Whether EN of ring `r` of context `c` is set. -/
def State.ringEn (s : State) (c r : Nat) : Bool := s.regBit (aRing c r 8) 0

/-- Whether a device-written ring is full (R68). -/
def State.ringFull (s : State) (c r : Nat) : Bool :=
  decide (s.ringSize c r ≤ ((s.ring c r).devPtr - (s.ring c r).compPtr).toNat)

/-- The address of entry `k` of a ring (R65). -/
def State.entryAddr (s : State) (c r k : Nat) : Nat := (s.reg64 (aRing c r 0)).toNat + 64 * (k % s.ringSize c r)

/-- PHASE of record `k` (R68). -/
def State.phaseOf (s : State) (c r k : Nat) : Nat := 1 - k / s.ringSize c r % 2

/-- The line that RING_SHADOW holds: the count, then zeros. -/
def shadowLine (n : Word) : Bytes := leBytes 4 n.toNat ++ List.replicate 60 0

/-- Send a ring's interrupt: vector RING_MSI.VECTOR (R69). -/
def sendMsi (c r : Nat) (s : State) : State := s.emit (.msi ((s.reg (aRing c r 0x24)).setWidth 11))

/-- A ring error (R67): the ring stops, ERR and ERR_CAUSE are set, its interrupt is sent if enabled. -/
def ringError (c r : Nat) (cause : BitVec 3) (s : State) : State :=
  let s1 := s.setRing c r { s.ring c r with err := true, errCause := cause, stopped := true }
  if s1.regBit (aRing c r 8) 1 then sendMsi c r s1 else s1

/-- MSI_COUNT of a ring: 0 acts as 1 (R72). -/
def State.msiCount (s : State) (c r : Nat) : Nat :=
  let n := s.regField (aRing c r 0x24) 23 16
  if n = 0 then 1 else n

/-- Count a record just written, and send the interrupt when MSI_COUNT have been written since the last (R69). -/
def noteRecord (c r : Nat) (s : State) : State :=
  let g := s.ring c r
  let n := g.unsignalled + 1
  if s.regBit (aRing c r 8) 1 && decide (s.msiCount c r ≤ n) then
    sendMsi c r (s.setRing c r { g with unsignalled := 0, firstAt := none })
  else
    s.setRing c r { g with unsignalled := n, firstAt := if g.firstAt.isSome then g.firstAt else some s.time }

/-- Whether a ring of a context is still served: those of a KILLED context stop, its completion rings once the records of its tasks are
written (R60, R61). DEDUCED: log entry 100. -/
def State.ringOpen (s : State) (c r : Nat) : Bool :=
  decide ((s.ctx c).st ≠ .killed) || (s.ctx c).cqBuf.any fun e => e.1 == r

/-- Whether a record can be written to a device-written ring now: the ring is enabled, without error and not stopped by a kill, it is
not full, and the link carries transactions. -/
def State.ringTakes (s : State) (c r : Nat) : Bool :=
  s.ringEn c r && !(s.ring c r).stopped && s.ringOpen c r && !s.ringFull c r && s.linkServes

/-- Write one record line into a device-written ring (R68, R349): ownership, the whole line, then the device line. -/
def putRecord (c r : Nat) (line : Bytes) (s : State) : State :=
  let g := s.ring c r
  let a := s.entryAddr c r g.devPtr.toNat
  let s1 := (s.emit (.link 0x02 0 0 (BitVec.ofNat 64 a) [])).emit (.line (BitVec.ofNat 64 a) line)
  let s2 := s1.setRing c r { g with devPtr := g.devPtr + 1 }
  let s3 := s2.emit (.line (s2.reg64 (aRing c r 0x14)) (shadowLine (g.devPtr + 1)))
  noteRecord c r s3

/-! ### Audit entries (R455 to R461) -/

/-- Slots of the audit ring (R459). -/
def auditSlots : Nat := 1048576

/-- Places in the on-die reserve (R460). -/
def reserveSlots : Nat := 4096

/-- Whether no slot of the audit ring is free (R460). -/
def State.auditFull (s : State) : Bool := decide (auditSlots ≤ s.audit.ring.length)

/-- Bytes 0x00 to 0x2F of an entry (R456). -/
def AuditEntry.head (e : AuditEntry) : Bytes :=
  leBytes 8 e.seq.toNat ++ leBytes 8 e.time.toNat ++ leBytes 1 (e.cls.toNat + 8 * e.kind.toNat)
    ++ leBytes 1 e.flags.toNat ++ leBytes 6 e.originId.toNat ++ leBytes 8 e.target.toNat ++ leBytes 8 e.old.toNat
    ++ leBytes 8 e.new.toNat

/-- The 64 bytes of an entry (R456). -/
def AuditEntry.bytes (e : AuditEntry) : Bytes := e.head ++ leBytes 16 e.chain.toNat

/-- The next CHAIN (R458). -/
def chainNext (prev : BitVec 128) (e : AuditEntry) : BitVec 128 :=
  BitVec.ofNat 128 (leNat (shake256 (leBytes 16 prev.toNat ++ e.head) 16))

/-- An entry that is about to be appended. -/
def mkEntry (cls : BitVec 3) (kind : BitVec 5) (flags : Byte) (originId : BitVec 48) (target old new : Dword) :
    AuditEntry :=
  { seq := 0, time := 0, cls := cls, kind := kind, flags := flags, originId := originId, target := target, old := old,
    new := new, chain := 0 }

/-- Append an entry to the ring: it takes the next SEQ, TIME and CHAIN. -/
def auditPush (e : AuditEntry) (s : State) : State :=
  let e1 := { e with seq := s.audit.next, time := s.time }
  let e2 := { e1 with chain := chainNext s.audit.chain e1 }
  { s with audit := { s.audit with next := s.audit.next + 1, chain := e2.chain, ring := s.audit.ring ++ [e2] } }

/-- The first entry after a run of losses is preceded by a GAP entry that holds the run's length (R460). -/
def auditGap (s : State) : State :=
  if s.audit.lostRun = 0 then s
  else
    let n := s.audit.lostRun
    auditPush (mkEntry 5 6 0 8 0 0 n) { s with audit := { s.audit with lostRun := 0 } }

/-- An origin's audit entry, once there is a slot for it. -/
def auditAppend (e : AuditEntry) (s : State) : State := auditPush e (auditGap s)

/-! ### Shares of the Margin Scheduler (R286) -/

/-- The number of the aligned 10 ms window of TIME. -/
def State.window (s : State) : Nat := s.time.toNat / 10000000

/-- What slots have used in the window under way. -/
def State.use (s : State) : MrgnUse := if s.mrgnUse.window = s.window then s.mrgnUse else MrgnUse.empty s.window

/-- The use of the window under way replaced; the window before it is kept until it has been shown. -/
def setUse (u : MrgnUse) (s : State) : State :=
  { s with mrgnUse := u, mrgnLast := if s.mrgnUse.window = u.window then s.mrgnLast else s.mrgnUse }

/-- A share register, in 0.1%, of the 10 ms of a window, in ns. -/
def State.shareNs (s : State) (off : Nat) : Nat := s.regField (aMrgn off) 7 0 * 10000

/-- Whether a slot of `ns` fits the HBM share of a stack. -/
def State.stackFits (s : State) (n ns : Nat) : Bool :=
  decide (NMap.get (fun _ => 0) s.use.byStack n + ns ≤ s.shareNs 0x08)

/-- Note the bandwidth that a slot uses. -/
def useStack (n ns : Nat) (s : State) : State :=
  let u := s.use
  setUse { u with byStack := NMap.set (fun _ => 0) u.byStack n (NMap.get (fun _ => 0) u.byStack n + ns) } s

/-- Whether a pip check of `ns` fits the pip share of a quire's 16 clusters. -/
def State.pipFits (s : State) (q ns : Nat) : Bool :=
  decide (NMap.get (fun _ => 0) s.use.pip q + ns ≤ 16 * s.shareNs 0x10)

/-- Note the cluster time of a pip check. -/
def usePip (q ns : Nat) (s : State) : State :=
  let u := s.use
  setUse { u with pip := NMap.set (fun _ => 0) u.pip q (NMap.get (fun _ => 0) u.pip q + ns) } s

/-- Whether a crosscheck of `ns` fits the crosscheck share of a quire's 16 clusters. -/
def State.crossFits (s : State) (q ns : Nat) : Bool :=
  decide (NMap.get (fun _ => 0) s.use.cross q + ns ≤ 16 * s.shareNs 0x0C)

/-- Note the cluster time of a crosscheck. -/
def useCross (q ns : Nat) (s : State) : State :=
  let u := s.use
  setUse { u with cross := NMap.set (fun _ => 0) u.cross q (NMap.get (fun _ => 0) u.cross q + ns) } s

/-- A share holds a slot back in this window. -/
def noteLimited (s : State) : State := setUse { s.use with limited := true } s

end Sys2Proof.Machine
end

