-- ==== Sys2Proof/Machine/Events.lean ====
section
/-! DEFINITION. Events, counters with their saturation event, completion records, and the audit entries of autonomous
actions. An event can saturate a counter and a saturated counter raises an event (R15), so the operations take the
raising of a further event as an argument and are closed by a depth of nesting that no chain of saturations exceeds. -/

namespace Sys2Proof.Machine

/-- UNIT of an event that concerns no cluster, stack, port or quire: R71 states no value, and 0 is taken as for LAYER, SEQ and
INDEX (DESIGN CHOICE). DEDUCED: log entry 37. -/
def noUnit : Nat := 0

/-- A device event before TIME and STEP are stamped; `ctx` 0xFF goes to every active context (R71). -/
def mkEvent (code : BitVec 16) (sev : Byte) (ctx : Nat) (unit : Nat) (detail : Bytes) : ERec :=
  { type := 0x10, severity := sev, code := code, ctx := BitVec.ofNat 8 ctx, layer := 0, time := 0, step := 0, seq := 0,
    index := 0, unit := BitVec.ofNat 16 unit, detail := detail }

/-- The context whose registers the counter at `a` stands among, or 0xFF (R72, R241, R259, R400). -/
def counterCtx (a : Nat) : Nat :=
  if 0x100000 ≤ a ∧ a < 0x110000 then (a - 0x100000) / 0x400
  else if 0x200000 ≤ a ∧ a < 0x204000 then (a - 0x200000) / 0x100
  else if 0x210000 ≤ a ∧ a < 0x214000 then (a - 0x210000) / 0x100
  else if 0x220000 ≤ a ∧ a < 0x224000 then (a - 0x220000) / 0x100
  else 0xFF

/-- CNT_SATURATED for the counter at `a`, with UNIT 0xFFFF (R15); that of a context's counter belongs to the context (DEDUCED). -/
def cntSaturated (a : Nat) : ERec := mkEvent 0x0001 0 (counterCtx a) 0xFFFF (leBytes 4 a)

/-- Add to a counter, raising CNT_SATURATED when it stops (R15). -/
def countWith (rz : ERec → State → State) (a n : Nat) (s : State) : State :=
  let (s1, sat) := countRaw a n s
  if sat then rz (cntSaturated a) s1 else s1

/-- Append a HARDWARE entry (R460): to the ring, to the reserve while the ring has no slot or the reserve is in use, or
lost. -/
def auditHwWith (rz : ERec → State → State) (e : AuditEntry) (s : State) : State :=
  if s.audit.reserve = [] ∧ ¬ s.auditFull then auditAppend e s
  else if s.audit.reserve.length < reserveSlots then
    { s with audit := { s.audit with reserve := s.audit.reserve ++ [{ e with flags := e.flags ||| 8 }] } }
  else
    let first := s.audit.lostRun
    let s1 := countWith rz (aAudt 0x40) 1 { s with audit := { s.audit with lostRun := s.audit.lostRun + 1 } }
    if first = 0 then rz (mkEvent 0x0504 2 0xFF noUnit (leBytes 8 1 ++ leBytes 8 s.time.toNat)) s1 else s1

/-- The entry of an autonomous action: acting block, action, address or unit (R457, R465). -/
def actionEntry (block action unit : Nat) : AuditEntry :=
  mkEntry 5 5 0 (BitVec.ofNat 48 block)
    (BitVec.ofNat 64 (8 * 2 ^ 56 + (Config.actionCode action).toNat * 2 ^ 40 + unit % 2 ^ 40))
    (Config.actionOld action unit) (Config.actionNew action unit)

/-- A refused access, injection, setting or flash operation of the Boundary Unit (R355, R363). -/
def violationWith (rz : ERec → State → State) (unit : Nat) (s : State) : State :=
  auditHwWith rz (actionEntry 2 1 unit) (countWith rz (aBndy 0x08) 1 s)

/-- Whether the next record of a device-written ring and its device line lie in WRITE windows (R355). -/
def State.recordAllowed (s : State) (c r : Nat) : Bool :=
  s.winAllows (s.entryAddr c r (s.ring c r).devPtr.toNat) 64 true
    && s.winAllows (s.reg64 (aRing c r 0x14)).toNat 64 true

/-- A record write outside every window is not issued: the ring stops with ERR_CAUSE 4 (R355). -/
def ringOutsideWith (rz : ERec → State → State) (c r : Nat) (s : State) : State :=
  ringError c r 4 (violationWith rz (s.entryAddr c r (s.ring c r).devPtr.toNat) s)

/-- The line of an event record at the ring's next place. -/
def State.eventLine (s : State) (c : Nat) (e : ERec) : Bytes :=
  e.bytes (s.phaseOf c 6 (s.ring c 6).devPtr.toNat) (s.ctx c).evLost

/-- Buffer an event: 64 per context; beyond that it is dropped and counted, and the next record carries LOST (R68). -/
def bufferEventWith (rz : ERec → State → State) (c : Nat) (e : ERec) (s : State) : State :=
  let x := s.ctx c
  if x.evBuf.length < 64 then s.setCtx c { x with evBuf := x.evBuf ++ [e] }
  else countWith rz (aCtx c 0x30) 1 (s.setCtx c { x with evLost := true })

/-- Give one event to the event ring of context `c`: it is stamped with TIME itself, from which the copies that R32 lets a domain use may
lag by up to 10 ns. DESIGN CHOICE: log entry 101. -/
def deliverWith (rz : ERec → State → State) (c : Nat) (e : ERec) (s : State) : State :=
  let e1 := { e with time := s.time, step := s.stepOf c }
  if (s.ctx c).evBuf = [] ∧ s.ringTakes c 6 then
    if s.recordAllowed c 6 then
      let s1 := putRecord c 6 (s.eventLine c e1) s
      s1.setCtx c { s1.ctx c with evLost := false }
    else bufferEventWith rz c e1 (ringOutsideWith rz c 6 s)
  else bufferEventWith rz c e1 s

/-- Raise an event: to its context, or to every active context when it belongs to none (R71). -/
def raiseN : Nat → ERec → State → State
  | 0, _, s => s
  | n + 1, e, s =>
    if e.ctx = 0xFF then s.activeCtxs.foldl (fun t c => deliverWith (raiseN n) c e t) s
    else deliverWith (raiseN n) e.ctx.toNat e s

/-- Raise an event. Each further event of the chain stands for a counter that has just stopped, and raising counts only
CTX_EVENTS_LOST of the 64 contexts, BNDY_VIOLATIONS and AUDT_LOST, each of which stops once: a chain from any first counter is at most 67
events long (R15). DEDUCED: log entry 38. -/
def raise (e : ERec) (s : State) : State := raiseN 72 e s

/-- Add `n` to the counter at `a` (R15). -/
def count (a n : Nat) (s : State) : State := countWith raise a n s

/-- Append a HARDWARE entry (R460). -/
def auditHw (e : AuditEntry) (s : State) : State := auditHwWith raise e s

/-- Record an autonomous action (R465): block, action, address or unit. -/
def auditAction (block action unit : Nat) (s : State) : State := auditHw (actionEntry block action unit) s

/-- A refusal of the Boundary Unit, counted and recorded (R355, R363). -/
def violation (unit : Nat) (s : State) : State := violationWith raise unit s

/-- An entry of space STATE: which state, old and new value (R457); `block` acted. DEDUCED: log entry 36. -/
def auditState (block which unit old new : Nat) (s : State) : State :=
  auditHw (mkEntry 5 4 0 (BitVec.ofNat 48 block) (BitVec.ofNat 64 (5 * 2 ^ 56 + unit * 256 + which))
    (BitVec.ofNat 64 old) (BitVec.ofNat 64 new)) s

/-- Set bits of ALERT_STATUS: SMB_ALERT_N goes low when one is newly set (R494). -/
def smbAlert (i : Nat) (s : State) : State :=
  if s.smb.alerts.getLsbD i then s
  else { s with smb := { s.smb with alerts := s.smb.alerts ||| ((1 : Byte) <<< i) },
                power := { s.power with smbAlertLow := true } }

/-- A transition of the device state (R37, R38, R40): recorded, with its TIME and the state before it, and alerted (R495). -/
def setDev (d : DevState) (s : State) : State :=
  if s.dev = d then s
  else
    smbAlert 0 (auditState 1 1 0 s.dev.code d.code { s with dev := d, prev := s.dev, devSince := s.time })

/-- A transition of a context's state (R60), recorded (R10, R457). -/
def setCtxState (c : Nat) (st : CtxState) (s : State) : State :=
  if (s.ctx c).st = st then s
  else auditState 4 2 c (s.ctx c).st.code st.code (s.setCtx c { s.ctx c with st := st })

/-- Whose work raises an event: the context, and the layer, SEGMENT_ID and INDEX of the task, if any (R71). -/
structure Who where
  ctx : Nat
  layer : BitVec 16
  seq : Word
  index : BitVec 16
  deriving DecidableEq, Repr

/-- The work of a context outside any task. -/
def Who.ofCtx (c : Nat) : Who := { ctx := c, layer := 0, seq := 0, index := 0 }

/-- An event of a task or a context. -/
def raiseWho (w : Who) (code : BitVec 16) (sev : Byte) (unit : Nat) (detail : Bytes) (s : State) : State :=
  raise { mkEvent code sev w.ctx unit detail with layer := w.layer, seq := w.seq, index := w.index } s

/-- An event of context `c`. -/
def raiseCtx (c : Nat) (code : BitVec 16) (sev : Byte) (unit : Nat) (detail : Bytes) (s : State) : State :=
  raise (mkEvent code sev c unit detail) s

/-- An event that belongs to no context (R71). -/
def raiseDev (code : BitVec 16) (sev : Byte) (unit : Nat) (detail : Bytes) (s : State) : State :=
  raise (mkEvent code sev 0xFF unit detail) s

/-! ### Completion records -/

/-- Write one completion record to ring `r` (4 or 5) of context `c`, or hold it in the context's buffer (R68). -/
def putCompletion (c r : Nat) (rec : CRec) (s : State) : State :=
  let x := s.ctx c
  let hold := fun (t : State) => t.setCtx c { t.ctx c with cqBuf := (t.ctx c).cqBuf ++ [(r, rec)] }
  if (x.cqBuf.all fun e => e.1 != r) ∧ s.ringTakes c r then
    if s.recordAllowed c r then putRecord c r (rec.bytes (s.phaseOf c r (s.ring c r).devPtr.toNat)) s
    else hold (ringOutsideWith raise c r s)
  else hold s

/-- The oldest held record of ring `r`, and the others. -/
def takeHeld (r : Nat) : List (Nat × CRec) → Option (CRec × List (Nat × CRec))
  | [] => none
  | (q, rec) :: t =>
    if q = r then some (rec, t)
    else match takeHeld r t with
      | none => none
      | some (x, u) => some (x, (q, rec) :: u)

/-- Write the held completion records of ring `r` while it takes them, oldest first. -/
def flushCq : Nat → Nat → Nat → State → State
  | 0, _, _, s => s
  | n + 1, c, r, s =>
    match takeHeld r (s.ctx c).cqBuf with
    | none => s
    | some (rec, rest) =>
      if s.ringTakes c r && s.recordAllowed c r then
        flushCq n c r (putRecord c r (rec.bytes (s.phaseOf c r (s.ring c r).devPtr.toNat))
          (s.setCtx c { s.ctx c with cqBuf := rest }))
      else s

/-- Write held event records while the event ring takes them. -/
def flushEq : Nat → Nat → State → State
  | 0, _, s => s
  | n + 1, c, s =>
    match (s.ctx c).evBuf with
    | [] => s
    | e :: t =>
      if s.ringTakes c 6 && s.recordAllowed c 6 then
        let s1 := putRecord c 6 (s.eventLine c e) (s.setCtx c { s.ctx c with evBuf := t })
        flushEq n c (s1.setCtx c { s1.ctx c with evLost := false })
      else s

/-- Write what a context holds back, as far as its rings take it. -/
def flushRecords (c : Nat) (s : State) : State :=
  let n := (s.ctx c).cqBuf.length
  flushEq (s.ctx c).evBuf.length c (flushCq n c 5 (flushCq n c 4 s))

/-- Whether the completion buffer of a context is full, which stops the issue of its tasks (R68). -/
def State.cqBufFull (s : State) (c : Nat) : Bool := decide (256 ≤ (s.ctx c).cqBuf.length)

/-- An admin record: one per command, in CQ0 (R64). -/
def adminRecord (c : Nat) (status : Byte) (detail : BitVec 16) (seq : Word) (tag : Dword) (s : State) : State :=
  putCompletion c 4
    { type := 3, status := status, detail := detail, index := 0, layer := 0, seq := seq, kind := 0, ovf := 0,
      formatUsed := 0, attempt := 0, tag := tag, time := s.time, counts := [], clusterNs := 0 } s

/-- A segment record (R59, R70). -/
def segmentRecord (c cq : Nat) (status : Byte) (detail : BitVec 16) (seg : Word) (s : State) : State :=
  putCompletion c cq
    { type := 2, status := status, detail := detail, index := 0, layer := 0, seq := seg, kind := 0, ovf := 0,
      formatUsed := 0, attempt := 0, tag := 0, time := s.time, counts := [], clusterNs := 0 } s

end Sys2Proof.Machine
end

