-- ==== Sys2Proof/Machine/Float.lean ====
section
/-! DEFINITION. IEEE 754 arithmetic over encodings held as numbers (R76 to R80): every operation computes the exact
value and rounds once. The five exception conditions of R77 are returned as counts. -/

namespace Sys2Proof.Machine

/-- The five exception conditions of R77, as counts. -/
structure Exc where
  inv : Nat
  dz : Nat
  ovf : Nat
  unf : Nat
  inx : Nat
  deriving DecidableEq, Repr

/-- No exception. -/
def Exc.none : Exc := { inv := 0, dz := 0, ovf := 0, unf := 0, inx := 0 }

/-- One invalid operation. -/
def Exc.invalid : Exc := { inv := 1, dz := 0, ovf := 0, unf := 0, inx := 0 }

/-- The sum of two counts. -/
def Exc.add (a b : Exc) : Exc :=
  { inv := a.inv + b.inv, dz := a.dz + b.dz, ovf := a.ovf + b.ovf, unf := a.unf + b.unf, inx := a.inx + b.inx }

/-- A binary format: fraction bits and exponent bits. -/
structure FFmt where
  f : Nat
  w : Nat
  deriving DecidableEq, Repr

/-- binary32. -/
def fmt32 : FFmt := { f := 23, w := 8 }
/-- binary16. -/
def fmt16 : FFmt := { f := 10, w := 5 }
/-- BF16 (R78). -/
def fmtBf : FFmt := { f := 7, w := 8 }
/-- binary64. -/
def fmt64 : FFmt := { f := 52, w := 11 }

/-- The exponent bias. -/
def FFmt.bias (k : FFmt) : Int := 2 ^ (k.w - 1) - 1
/-- The exponent of the least significant bit of a subnormal. -/
def FFmt.qmin (k : FFmt) : Int := 1 - k.bias - k.f
/-- The code of +infinity. -/
def FFmt.inf (k : FFmt) : Nat := (2 ^ k.w - 1) * 2 ^ k.f
/-- The sign bit. -/
def FFmt.signBit (k : FFmt) : Nat := 2 ^ (k.f + k.w)
/-- The canonical quiet NaN (R79). -/
def FFmt.qnan (k : FFmt) : Nat := k.inf + 2 ^ (k.f - 1)

/-- A decoded value: a NaN with its code, an infinity, or the finite value (−1)^s · m · 2^e. -/
inductive FVal where
  | nan (code : Nat)
  | inf (s : Bool)
  | fin (s : Bool) (m : Nat) (e : Int)
  deriving DecidableEq, Repr

/-- Decode a code of a format. -/
def FFmt.dec (k : FFmt) (c : Nat) : FVal :=
  let s := c.testBit (k.f + k.w)
  let ex := (c >>> k.f) % 2 ^ k.w
  let fr := c % 2 ^ k.f
  if ex = 2 ^ k.w - 1 then (if fr = 0 then .inf s else .nan (c % 2 ^ (k.f + k.w + 1)))
  else if ex = 0 then .fin s fr k.qmin
  else .fin s (fr + 2 ^ k.f) (k.qmin + ex - 1)

/-- A rounding attribute (R76); STOCH carries the element's draw (R96). -/
inductive Rnd where
  | rne | rta | rtp | rtn | rtz
  | stoch (u : Nat)
  deriving DecidableEq, Repr

/-- The rounding attribute that an RM field names (R76); `u` is the draw for STOCH. -/
def Rnd.ofRm (rm u : Nat) : Rnd :=
  match rm with
  | 1 => .rta
  | 2 => .rtp
  | 3 => .rtn
  | 4 => .rtz
  | 5 => .stoch u
  | _ => .rne

/-- Whether the magnitude rounds up: `rem` is the part below a quantum of 2^`sh`, `sticky` whether more lies below. -/
def Rnd.up (r : Rnd) (s : Bool) (odd : Bool) (rem sh : Nat) (sticky : Bool) : Bool :=
  match r with
  | .rne => decide (2 ^ sh < 2 * rem) || (decide (2 * rem = 2 ^ sh) && (sticky || odd) && decide (rem ≠ 0))
  | .rta => decide (2 ^ sh ≤ 2 * rem)
  | .rtp => !s && (decide (rem ≠ 0) || sticky)
  | .rtn => s && (decide (rem ≠ 0) || sticky)
  | .rtz => false
  | .stoch u => decide (u < rem * 2 ^ 32 / 2 ^ sh)

/-- Length in bits. -/
def bitLen (m : Nat) : Nat := if m = 0 then 0 else Nat.log2 m + 1

/-- Round m · 2^e (plus less than one unit when `sticky`) to a multiple of 2^q: the multiple, and whether it is
inexact. -/
def roundQ (r : Rnd) (s : Bool) (m : Nat) (e : Int) (sticky : Bool) (q : Int) : Nat × Bool :=
  if q ≤ e then (m <<< (e - q).toNat, sticky)
  else
    let sh := (q - e).toNat
    let hi := m >>> sh
    let rem := m % 2 ^ sh
    (if r.up s (decide (hi % 2 = 1)) rem sh sticky then hi + 1 else hi, decide (rem ≠ 0) || sticky)

/-- The code a magnitude beyond the largest finite value takes (R78). -/
def FFmt.overflowed (k : FFmt) (r : Rnd) (s : Bool) : Nat :=
  let up := match r with
    | .rne | .rta | .stoch _ => true
    | .rtp => !s
    | .rtn => s
    | .rtz => false
  (if s then k.signBit else 0) + (if up then k.inf else k.inf - 1)

/-- Round an exact finite value to a format: its code and its exceptions. Underflow is tiny after rounding and inexact
(R77). -/
def FFmt.pack (k : FFmt) (r : Rnd) (s : Bool) (m : Nat) (e : Int) (sticky : Bool) : Nat × Exc :=
  if m = 0 ∧ ¬ sticky then (if s then k.signBit else 0, Exc.none)
  else
    let top := e + bitLen m - 1
    let q := max (top - k.f) k.qmin
    let (v, inx) := roundQ r s m e sticky q
    let code := (q - k.qmin).toNat * 2 ^ k.f + v
    if k.inf ≤ code then
      (k.overflowed r s, { Exc.none with ovf := 1, inx := 1 })
    else
      let tiny := decide (top < k.qmin + k.f) && decide ((roundQ r s m e sticky (top - k.f)).1 < 2 ^ (k.f + 1)
        ∨ top < k.qmin + k.f - 1)
      ((if s then k.signBit else 0) + code,
        { Exc.none with inx := if inx then 1 else 0, unf := if inx && tiny then 1 else 0 })

/-- Round an exact value to a format. -/
def FFmt.enc (k : FFmt) (r : Rnd) (v : FVal) : Nat × Exc :=
  match v with
  | .nan _ => (k.qnan, Exc.none)
  | .inf s => ((if s then k.signBit else 0) + k.inf, Exc.none)
  | .fin s m e => k.pack r s m e false

/-- Whether a code is a NaN. -/
def FFmt.isNan (k : FFmt) (c : Nat) : Bool := match k.dec c with | .nan _ => true | _ => false
/-- Whether a code is an infinity. -/
def FFmt.isInf (k : FFmt) (c : Nat) : Bool := match k.dec c with | .inf _ => true | _ => false
/-- Whether a code is finite. -/
def FFmt.isFin (k : FFmt) (c : Nat) : Bool := match k.dec c with | .fin _ _ _ => true | _ => false
/-- Whether a code is a zero. -/
def FFmt.isZero (k : FFmt) (c : Nat) : Bool := decide (c % k.signBit = 0)
/-- Whether a code is a signalling NaN. -/
def FFmt.isSnan (k : FFmt) (c : Nat) : Bool := k.isNan c && !c.testBit (k.f - 1)
/-- A NaN quieted. -/
def FFmt.quiet (k : FFmt) (c : Nat) : Nat := if c.testBit (k.f - 1) then c else c + 2 ^ (k.f - 1)
/-- The sign of a code. -/
def FFmt.sign (k : FFmt) (c : Nat) : Bool := c.testBit (k.f + k.w)
/-- The code with its sign cleared. -/
def FFmt.abs (k : FFmt) (c : Nat) : Nat := c % k.signBit
/-- The code with its sign inverted. -/
def FFmt.neg (k : FFmt) (c : Nat) : Nat := if k.sign c then c - k.signBit else c + k.signBit

/-- The NaN result of an operation with NaN operands: the first in operand order, quieted; a signalling operand counts
invalid (R79). -/
def FFmt.nanOf (k : FFmt) (ops : List Nat) : Option (Nat × Exc) :=
  match ops.find? k.isNan with
  | none => none
  | some c => some (k.quiet c, if ops.any k.isSnan then Exc.invalid else Exc.none)

/-- The signed significand of (−1)^s · m · 2^e at exponent `q` ≤ e. -/
def alignInt (s : Bool) (m : Nat) (e q : Int) : Int :=
  let v : Int := ((m <<< (e - q).toNat : Nat) : Int)
  if s then -v else v

/-- The sum of two finite values, rounded once. -/
def FFmt.addFin (k : FFmt) (r : Rnd) (s1 : Bool) (m1 : Nat) (e1 : Int) (s2 : Bool) (m2 : Nat) (e2 : Int) : Nat × Exc :=
  let q := min e1 e2
  let v := alignInt s1 m1 e1 q + alignInt s2 m2 e2 q
  if v = 0 then
    let s := if s1 = s2 then s1 else decide (r = .rtn)
    (if s then k.signBit else 0, Exc.none)
  else k.pack r (decide (v < 0)) v.natAbs q false

/-- Addition. -/
def FFmt.add (k : FFmt) (r : Rnd) (a b : Nat) : Nat × Exc :=
  match k.nanOf [a, b] with
  | some x => x
  | none =>
    match k.dec a, k.dec b with
    | .inf s, .inf t => if s = t then (a, Exc.none) else (k.qnan, Exc.invalid)
    | .inf _, _ => (a, Exc.none)
    | _, .inf _ => (b, Exc.none)
    | .fin s1 m1 e1, .fin s2 m2 e2 => k.addFin r s1 m1 e1 s2 m2 e2
    | _, _ => (k.qnan, Exc.none)

/-- Subtraction: a NaN operand keeps its own sign. -/
def FFmt.sub (k : FFmt) (r : Rnd) (a b : Nat) : Nat × Exc :=
  match k.nanOf [a, b] with
  | some x => x
  | none => k.add r a (k.neg b)

/-- Multiplication. -/
def FFmt.mul (k : FFmt) (r : Rnd) (a b : Nat) : Nat × Exc :=
  match k.nanOf [a, b] with
  | some x => x
  | none =>
    let s := k.sign a != k.sign b
    match k.dec a, k.dec b with
    | .fin _ m1 e1, .fin _ m2 e2 => k.pack r s (m1 * m2) (e1 + e2) false
    | _, _ =>
      if k.isZero a || k.isZero b then (k.qnan, Exc.invalid)
      else ((if s then k.signBit else 0) + k.inf, Exc.none)

/-- A quotient of significands to `n` bits at least: quotient, exponent, and whether a remainder is left. -/
def divBits (n m1 : Nat) (e1 : Int) (m2 : Nat) (e2 : Int) : Nat × Int × Bool :=
  let sh := n + bitLen m2 - bitLen m1
  ((m1 <<< sh) / m2, e1 - e2 - sh, decide ((m1 <<< sh) % m2 ≠ 0))

/-- Division. -/
def FFmt.div (k : FFmt) (r : Rnd) (a b : Nat) : Nat × Exc :=
  match k.nanOf [a, b] with
  | some x => x
  | none =>
    let s := k.sign a != k.sign b
    let z := if s then k.signBit else 0
    match k.dec a, k.dec b with
    | .inf _, .inf _ => (k.qnan, Exc.invalid)
    | .inf _, _ => (z + k.inf, Exc.none)
    | _, .inf _ => (z, Exc.none)
    | .fin _ m1 e1, .fin _ m2 e2 =>
      if m2 = 0 then (if m1 = 0 then (k.qnan, Exc.invalid) else (z + k.inf, { Exc.none with dz := 1 }))
      else if m1 = 0 then (z, Exc.none)
      else
        let (q, e, st) := divBits (k.f + 3) m1 e1 m2 e2
        k.pack r s q e st
    | _, _ => (k.qnan, Exc.none)

/-- Integer square root, bit by bit from bit `n`. -/
def isqrtFrom : Nat → Nat → Nat → Nat
  | 0, _, acc => acc
  | n + 1, v, acc => isqrtFrom n v (if (acc + 2 ^ n) * (acc + 2 ^ n) ≤ v then acc + 2 ^ n else acc)

/-- Integer square root. -/
def isqrt (v : Nat) : Nat := isqrtFrom (bitLen v / 2 + 1) v 0

/-- Square root. -/
def FFmt.sqrt (k : FFmt) (r : Rnd) (a : Nat) : Nat × Exc :=
  match k.nanOf [a] with
  | some x => x
  | none =>
    match k.dec a with
    | .fin s m e =>
      if m = 0 then (a, Exc.none)
      else if s then (k.qnan, Exc.invalid)
      else
        let sh := 2 * (k.f + 3) + (if (e - 2 * (k.f + 3)) % 2 = 0 then 0 else 1)
        let v := m <<< sh
        let q := isqrt v
        k.pack r false q ((e - sh) / 2) (decide (q * q ≠ v))
    | .inf s => if s then (k.qnan, Exc.invalid) else (a, Exc.none)
    | .nan _ => (k.qnan, Exc.none)

/-- Fused multiply-add a · b + c. Zero times infinity with a NaN addend counts as invalid operation, which IEEE 754 leaves to
the implementation. DESIGN CHOICE: log entry 97. -/
def FFmt.fma (k : FFmt) (r : Rnd) (a b c : Nat) : Nat × Exc :=
  let bad := (k.isInf a && k.isZero b) || (k.isZero a && k.isInf b)
  match k.nanOf [a, b, c] with
  | some (x, ex) => (x, if bad then Exc.invalid else ex)
  | none =>
    if bad then (k.qnan, Exc.invalid)
    else
      let s := k.sign a != k.sign b
      match k.dec a, k.dec b, k.dec c with
      | .fin _ m1 e1, .fin _ m2 e2, .fin s3 m3 e3 => k.addFin r s (m1 * m2) (e1 + e2) s3 m3 e3
      | .fin _ _ _, .fin _ _ _, _ => (c, Exc.none)
      | _, _, .inf s3 => if s3 = s then (c, Exc.none) else (k.qnan, Exc.invalid)
      | _, _, _ => ((if s then k.signBit else 0) + k.inf, Exc.none)

/-- Exact comparison of two finite values. -/
def cmpFin (s1 : Bool) (m1 : Nat) (e1 : Int) (s2 : Bool) (m2 : Nat) (e2 : Int) : Ordering :=
  compare (alignInt s1 m1 e1 (min e1 e2)) (alignInt s2 m2 e2 (min e1 e2))

/-- IEEE comparison; none when unordered. -/
def FFmt.cmp (k : FFmt) (a b : Nat) : Option Ordering :=
  match k.dec a, k.dec b with
  | .nan _, _ => none
  | _, .nan _ => none
  | .inf s, .inf t => some (if s = t then .eq else if s then .lt else .gt)
  | .inf s, _ => some (if s then .lt else .gt)
  | _, .inf t => some (if t then .gt else .lt)
  | .fin s1 m1 e1, .fin s2 m2 e2 => some (cmpFin s1 m1 e1 s2 m2 e2)

/-- a < b. -/
def FFmt.lt (k : FFmt) (a b : Nat) : Bool := k.cmp a b == some .lt
/-- a ≤ b. -/
def FFmt.le (k : FFmt) (a b : Nat) : Bool := k.cmp a b == some .lt || k.cmp a b == some .eq

/-- IEEE 754-2019 maximum (R80). -/
def FFmt.max (k : FFmt) (a b : Nat) : Nat × Exc :=
  match k.nanOf [a, b] with
  | some x => x
  | none =>
    if k.isZero a && k.isZero b then (if k.sign a && k.sign b then a else 0, Exc.none)
    else (if k.lt a b then b else a, Exc.none)

/-- IEEE 754-2019 minimum (R80). -/
def FFmt.min (k : FFmt) (a b : Nat) : Nat × Exc :=
  match k.nanOf [a, b] with
  | some x => x
  | none =>
    if k.isZero a && k.isZero b then (if k.sign a || k.sign b then k.signBit else 0, Exc.none)
    else (if k.lt b a then b else a, Exc.none)

/-- Convert between long formats (R78, R79): a NaN keeps its sign and the leading payload bits, quieted; where those
would be an infinity code the canonical NaN is written. -/
def FFmt.conv (k dst : FFmt) (r : Rnd) (c : Nat) : Nat × Exc :=
  match k.dec c with
  | .nan _ =>
    let s := if k.sign c then dst.signBit else 0
    let fr := c % 2 ^ k.f
    let fr1 := if k.f ≤ dst.f then fr <<< (dst.f - k.f) else fr >>> (k.f - dst.f)
    let ex := if k.isSnan c then Exc.invalid else Exc.none
    if fr1 = 0 then (dst.qnan, ex)
    else (s + dst.quiet (dst.inf + fr1), ex)
  | .inf s => ((if s then dst.signBit else 0) + dst.inf, Exc.none)
  | .fin s m e => dst.pack r s m e false

/-! ### binary32 shorthands -/

/-- A 32-bit result without its exceptions, RNE. -/
def add32 (a b : Nat) : Nat := (fmt32.add .rne a b).1
def sub32 (a b : Nat) : Nat := (fmt32.sub .rne a b).1
def mul32 (a b : Nat) : Nat := (fmt32.mul .rne a b).1
def div32 (a b : Nat) : Nat := (fmt32.div .rne a b).1

/-- The larger of two amax values (R80, R108): a NaN is the canonical quiet NaN. -/
def amax32 (a b : Nat) : Nat :=
  let a' := if fmt32.isNan a then fmt32.qnan else fmt32.abs a
  let b' := if fmt32.isNan b then fmt32.qnan else fmt32.abs b
  if fmt32.isNan a' || fmt32.isNan b' then fmt32.qnan else if a' < b' then b' else a'

end Sys2Proof.Machine
end

