-- ==== Sys2Proof/Machine/Formats.lean ====
section
/-! DEFINITION. Element formats, S8 scales, block conversion and its inverse (R74, R75, R81 to R99), the choice of husk or
clip position (R118, R123), and the layout of a tile's side record (R111, R112, R119, R121, R270, R272). -/

namespace Sys2Proof.Machine

/-- A FORMAT byte by fields (R74): ELEM 0 binary32, 1 binary16, 2 BF16, 3 F8A, 4 F8B, 5 F4A, 6 N4. -/
structure Fmt where
  elem : Nat
  husks : Bool
  block32 : Bool
  deriving DecidableEq, Repr

/-- A FORMAT byte; none where R75 calls it invalid. -/
def Fmt.ofByte (b : Nat) : Option Fmt :=
  let e := b % 16
  let h := b.testBit 4
  let k := b.testBit 5
  if 7 ≤ e ∨ (h ∧ e ≠ 5 ∧ e ≠ 6) ∨ (k ∧ e ≠ 3 ∧ e ≠ 4) ∨ 64 ≤ b then none
  else some { elem := e, husks := h, block32 := k }

/-- binary32 as a format. -/
def Fmt.f32 : Fmt := { elem := 0, husks := false, block32 := false }

/-- Element width in bits (R74). -/
def Fmt.width (k : Fmt) : Nat :=
  match k.elem with
  | 0 => 32
  | 1 | 2 => 16
  | 3 | 4 => 8
  | _ => 4

/-- Whether the format is block-scaled (R74). -/
def Fmt.short (k : Fmt) : Bool := decide (3 ≤ k.elem)

/-- Elements per block (R89). -/
def Fmt.blk (k : Fmt) : Nat := if k.block32 then 32 else 16

/-- Columns of a tile (R270). -/
def Fmt.cw (k : Fmt) : Nat := 512 / k.width

/-- Elements of a tile (R270). -/
def Fmt.elems (k : Fmt) : Nat := 128 * k.cw

/-- S8 codes of a tile (R111). -/
def Fmt.codes (k : Fmt) : Nat := if k.short then k.elems / k.blk else 0

/-- Bytes of the scale block: its codes and the trailer (R111). -/
def Fmt.scaleLen (k : Fmt) : Nat := if k.short then k.codes + 16 else 0

/-- Offset of the CRC slot in the side record (R272). -/
def Fmt.crcOff (k : Fmt) : Nat := k.scaleLen + if k.husks then 264 else 0

/-- SIDE: bytes of a side record (R272). -/
def Fmt.side (k : Fmt) : Nat :=
  if !k.short then 64
  else if k.width = 4 then (if k.husks then 1344 else 1088)
  else if k.block32 then 320 else 576

/-- Stored length of a tile (R272). -/
def Fmt.stored (k : Fmt) : Nat := 8192 + k.crcOff + 8

/-- Tiles across and down for a shape (R270). -/
def Fmt.gridCols (k : Fmt) (cols : Nat) : Nat := (cols + k.cw - 1) / k.cw

/-- Tiles of a shape (R270). -/
def Fmt.grid (k : Fmt) (rows cols : Nat) : Nat := (rows + 127) / 128 * k.gridCols cols

/-- The encoding of a long format. -/
def Fmt.long (k : Fmt) : FFmt :=
  match k.elem with
  | 1 => fmt16
  | 2 => fmtBf
  | _ => fmt32

/-- The encoding of a short float format, apart from its special codes (R81, R84, R85). -/
def shortEnc (elem : Nat) : FFmt :=
  match elem with
  | 3 => { f := 3, w := 4 }
  | 4 => { f := 2, w := 5 }
  | _ => { f := 1, w := 2 }

/-- The value of a code that is not the escape code (R81, R82, R84, R85). -/
def shortVal (elem c : Nat) : FVal :=
  let k := shortEnc elem
  match elem with
  | 6 => if 8 ≤ c then .fin true (16 - c) 0 else .fin false c 0
  | 5 => .fin (c.testBit 3) ((c % 2) + if c % 8 < 2 then 0 else 2) (if c % 8 < 2 then -1 else c / 2 % 4 - 2)
  | 3 => if c % 128 = 127 then .nan c
         else .fin (c.testBit 7) (c % 8 + if c % 128 < 8 then 0 else 8) (if c % 128 < 8 then -9 else c / 8 % 16 - 10)
  | _ => k.dec c

/-- Fmax as a significand and an exponent (R91). -/
def fmaxOf (elem : Nat) : Nat × Int :=
  match elem with
  | 3 => (448, 0)
  | 4 => (57344, 0)
  | 5 => (6, 0)
  | _ => (7, 0)

/-- Fmax in binary32. -/
def fmax32 (elem : Nat) : Nat := (fmt32.pack .rne false (fmaxOf elem).1 (fmaxOf elem).2 false).1

/-- The value of an S8 code: none for 0xFF and the reserved codes (R88). -/
def s8Val (c : Nat) : Option (Nat × Int) :=
  if c = 0 then some (0, 0)
  else if c < 8 ∨ 0xF8 ≤ c then none
  else some (8 + c % 8, (c / 8 : Int) - 18)

/-- The smallest S8 code not less than the positive value m · 2^e and not less than 2^−14; 0xF7 beyond 61,440 (R92). -/
def s8For (m : Nat) (e : Int) : Nat :=
  let top := e + bitLen m - 1
  if top < -14 then 8
  else if 16 ≤ top then 0xF7
  else
    let v := (roundQ .rtp false m e false (top - 3)).1
    let c := (top + 15).toNat * 8 + (v - 8)
    if 0xF7 < c then 0xF7 else c

/-- Exact comparison a < b of magnitudes. -/
def magLt (m1 : Nat) (e1 : Int) (m2 : Nat) (e2 : Int) : Bool := cmpFin false m1 e1 false m2 e2 == .lt

/-- Round a magnitude at most Fmax onto the grid of a short format and give its code without sign (R94 to R96). -/
def gridCode (elem : Nat) (r : Rnd) (m : Nat) (e : Int) : Nat :=
  if m = 0 then 0
  else if elem = 6 then (roundQ r false m e false 0).1
  else
    let k := shortEnc elem
    let q := max (e + bitLen m - 1 - k.f) k.qmin
    (q - k.qmin).toNat * 2 ^ k.f + (roundQ r false m e false q).1

/-- A magnitude code with its sign; zero is +0 (R86). -/
def signedCode (elem : Nat) (s : Bool) (c : Nat) : Nat :=
  if c = 0 then 0
  else if ¬ s then c
  else match elem with
    | 6 => 16 - c
    | 5 => 8 + c
    | _ => 128 + c

/-- The code of ±Fmax. -/
def fmaxCode (elem : Nat) : Nat := gridCode elem .rne (fmaxOf elem).1 (fmaxOf elem).2

/-- The six conversion counts of R97. -/
structure QCounts where
  sat : Nat
  flushed : Nat
  zeroBlocks : Nat
  satBlocks : Nat
  huskOvf : Nat
  flushedBlocks : Nat
  deriving DecidableEq, Repr

/-- No conversion. -/
def QCounts.zero : QCounts := { sat := 0, flushed := 0, zeroBlocks := 0, satBlocks := 0, huskOvf := 0, flushedBlocks := 0 }

/-- The sum of two counts. -/
def QCounts.add (a b : QCounts) : QCounts :=
  { sat := a.sat + b.sat, flushed := a.flushed + b.flushed, zeroBlocks := a.zeroBlocks + b.zeroBlocks,
    satBlocks := a.satBlocks + b.satBlocks, huskOvf := a.huskOvf + b.huskOvf,
    flushedBlocks := a.flushedBlocks + b.flushedBlocks }

/-- The clamp of a tensor scale (R90), and whether it acted. -/
def clampT (t : Nat) : Nat × Bool :=
  if fmt32.isNan t then (0x7F000000, true)
  else if fmt32.sign t then (0x00800000, true)
  else if t = fmt32.inf then (0x7F000000, true)
  else if t < 0x00800000 then (0x00800000, true)
  else (t, false)

/-- The magnitude of a finite binary32 code. -/
def magOf (c : Nat) : Nat × Int :=
  match fmt32.dec c with
  | .fin _ m e => (m, e)
  | _ => (0, 0)

/-- The largest magnitude code among the positions that `keep` holds. -/
def maxMag : List Nat → List Bool → Nat
  | x :: xs, k :: ks => max (if k then fmt32.abs x else 0) (maxMag xs ks)
  | _, _ => 0

/-- A converted block: S8 code, element codes, counts. -/
structure QBlock where
  s8 : Nat
  codes : List Nat
  counts : QCounts
  deriving DecidableEq, Repr

/-- One element of a block (R93): code, whether it saturates, whether it flushes. -/
def quantElem (elem e : Nat) (r : Rnd) (x : Nat) : Nat × Bool × Bool :=
  let (m, q) := magOf (fmt32.div .rtz x e).1
  let s := fmt32.sign x
  if magLt (fmaxOf elem).1 (fmaxOf elem).2 m q then (signedCode elem s (fmaxCode elem), true, false)
  else
    let c := gridCode elem r m q
    (signedCode elem s c, false, decide (c = 0) && !fmt32.isZero x)

/-- The elements of a block (R98). -/
def quantElems (elem e : Nat) (h : Option Nat) (rnd : Nat → Rnd) : Nat → List Nat → List (Nat × Bool × Bool)
  | _, [] => []
  | i, x :: xs =>
    (if h = some i then (8, false, false) else quantElem elem e (rnd i) x) :: quantElems elem e h rnd (i + 1) xs

/-- `quantise_block` of R98 over the block's positions: `valid` marks those that are not padding, `h` the husk position,
`clip` the position that clip mode leaves out of the maximum (R123), `rnd` the rounding of each position. -/
def quantiseBlock (elem t0 : Nat) (x : List Nat) (valid : List Bool) (h clip : Option Nat) (rnd : Nat → Rnd) : QBlock :=
  let t := (clampT t0).1
  let n := x.length
  let zeros := List.replicate n 0
  let live := (x.zip valid).filterMap fun p => if p.2 then some p.1 else none
  if live.any fun c => !fmt32.isFin c then { s8 := 0xFF, codes := zeros, counts := QCounts.zero }
  else if live.all fmt32.isZero then { s8 := 0, codes := zeros, counts := { QCounts.zero with zeroBlocks := 1 } }
  else
    let tm := magOf t
    let excl := if h.isSome then h else clip
    let m0 := maxMag x ((List.range n).map fun i => valid.getD i false && decide (some i ≠ excl))
    let low := fun (c : Nat) => magLt (magOf c).1 (magOf c).2 tm.1 (tm.2 - 14)
    let h1 := if h.isSome && low m0 then none else h
    let m := if h.isSome && low m0 then maxMag x valid else m0
    if low m then
      { s8 := 0, codes := zeros, counts := { QCounts.zero with flushed := live.length, flushedBlocks := 1 } }
    else
      let d := (fmt32.mul .rtn t (fmax32 elem)).1
      let r := (fmt32.div .rtp m d).1
      let s8 := if fmt32.isInf r then 0xF7 else s8For (magOf r).1 (magOf r).2
      let sv := (s8Val s8).getD (0, 0)
      let e := (fmt32.pack .rtp false (sv.1 * tm.1) (sv.2 + tm.2) false).1
      let out := quantElems elem e h1 rnd 0 x
      let sat := (out.filter fun o => o.2.1).length
      { s8 := s8, codes := out.map fun o => o.1,
        counts := { QCounts.zero with sat := sat, flushed := (out.filter fun o => o.2.2).length,
                                      satBlocks := if sat = 0 then 0 else 1 } }

/-- What the outlier test of R118 decides. -/
inductive Outlier where
  | plain
  | husk (p : Nat)
  | clip (p : Nat)
  | full
  deriving DecidableEq, Repr

/-- `choose_outlier` of R118: OUTLIER mode 0 PLAIN, 1 HUSK, 2 CLIP; `room` whether the husk region has room. -/
def chooseOutlier (mode t rho : Nat) (x : List Nat) (valid : List Bool) (room : Bool) : Outlier :=
  let live := (x.zip valid).filterMap fun p => if p.2 then some p.1 else none
  if mode = 0 ∨ (live.any fun c => !fmt32.isFin c) ∨ live.all fmt32.isZero then .plain
  else
    let a1 := maxMag x valid
    let p := ((List.range x.length).find? fun i =>
      valid.getD i false && decide (fmt32.abs (x.getD i 0) = a1)).getD 0
    let a2 := maxMag x ((List.range x.length).map fun i => valid.getD i false && decide (i ≠ p))
    let tm := magOf t
    if ¬ magLt ((magOf a2).1 * rho) (magOf a2).2 (magOf a1).1 (magOf a1).2
        ∨ magLt (magOf a2).1 (magOf a2).2 tm.1 (tm.2 - 14) then .plain
    else if mode = 2 then .clip p
    else if room then .husk p
    else .full

/-- The BF16 value of a husk entry (R118): an infinite result is the largest finite value of that sign. -/
def huskVal (x : Nat) : Nat × Exc :=
  let (v, ex) := fmt32.conv fmtBf .rne x
  (if fmtBf.isInf v then (if fmtBf.sign v then 0xFF7F else 0x7F7F) else v, ex)

/-- `dequantise` of R99: code, S8 code, tensor scale, and the husk value at the position, if any. -/
def dequant (k : Fmt) (c s8 t : Nat) (husk : Option Nat) : Nat × Exc :=
  match s8Val s8 with
  | none => (fmt32.qnan, Exc.none)
  | some (sm, se) =>
    if sm = 0 then (0, Exc.none)
    else if k.width = 4 ∧ c = 8 then
      match k.husks, husk with
      | true, some v => (fmtBf.conv fmt32 .rne v)
      | _, _ => (0, Exc.none)
    else
      match shortVal k.elem c with
      | .nan _ => (fmt32.qnan, Exc.none)
      | .inf s => ((if s then fmt32.signBit else 0) + fmt32.inf, Exc.none)
      | .fin s m e => fmt32.mul .rne (fmt32.pack .rne s (m * sm) (e + se) false).1 t

/-! ### Tiles as stored -/

/-- A storage tile: its 8,192 data bytes and its side record up to and with the CRC slot (R272). -/
structure TileImg where
  data : Bytes
  side : Bytes
  deriving DecidableEq, Repr

/-- The CRC slot's value. -/
def TileImg.slot (k : Fmt) (t : TileImg) : Nat := fieldLe t.side k.crcOff 8

/-- The CRC-64 of a tile: data, scale block, husk region (R273). -/
def TileImg.crc (k : Fmt) (t : TileImg) : Nat := crc64 (t.data ++ t.side.take k.crcOff)

/-- A tile with its CRC slot written (R273). -/
def TileImg.seal (k : Fmt) (t : TileImg) : TileImg :=
  { t with side := sliceB t.side 0 k.crcOff ++ leBytes 8 (t.crc k) }

/-- The mark of a poisoned slot (R277). -/
def poisonMark : Nat := 0xB1C53A0F6E92

/-- Whether a tile is poisoned (R277). -/
def TileImg.poisoned (k : Fmt) (t : TileImg) : Bool :=
  decide (t.slot k / 2 ^ 16 = poisonMark) && decide (t.slot k ≠ t.crc k)

/-- The trailer of a scale block (R112): T, ROT, AXIS, MODE byte, ROT_STREAM, ROT_CTR_HI. -/
structure Trailer where
  t : Nat
  rot : Nat
  axis : Bool
  mode : Nat
  stream : Nat
  ctrHi : Nat
  deriving DecidableEq, Repr

/-- The trailer of a tile (R112). -/
def TileImg.trailer (k : Fmt) (t : TileImg) : Trailer :=
  let o := k.codes
  { t := fieldLe t.side o 4, rot := fieldLe t.side (o + 4) 1 % 8, axis := (fieldLe t.side (o + 4) 1).testBit 3,
    mode := fieldLe t.side (o + 5) 1, stream := fieldLe t.side (o + 8) 4, ctrHi := fieldLe t.side (o + 12) 4 }

/-- A trailer as bytes (R112). -/
def Trailer.bytes (r : Trailer) : Bytes :=
  leBytes 4 r.t ++ leBytes 1 (r.rot + if r.axis then 8 else 0) ++ leBytes 1 r.mode ++ leBytes 2 0
    ++ leBytes 4 r.stream ++ leBytes 4 r.ctrHi

/-- The husk region of a tile (R119); empty where the tile carries none. -/
def TileImg.huskRegion (k : Fmt) (t : TileImg) : Bytes := if k.husks then sliceB t.side k.scaleLen 264 else []

/-- The entries in use: position and value (R119). -/
def huskEntries (region : Bytes) : List (Nat × Nat) :=
  (List.range (min (fieldLe region 0 1) 64)).map fun i =>
    let w := fieldLe region (8 + 4 * i) 4
    (w % 2 ^ 14, w / 2 ^ 16)

/-- Whether a list rises strictly. -/
def risesStrictly : List Nat → Bool
  | [] => true
  | [_] => true
  | a :: b :: t => decide (a < b) && risesStrictly (b :: t)

/-- Whether the husk region is well formed (R121). -/
def TileImg.huskOk (k : Fmt) (t : TileImg) : Bool :=
  if !k.husks then true
  else
    let g := t.huskRegion k
    let n := fieldLe g 0 1
    let cap := fieldLe g 1 1
    decide (8 ≤ cap) && decide (cap ≤ 64) && decide (n ≤ cap) && decide (fieldLe g 4 4 = 0)
      && risesStrictly ((huskEntries g).map fun e => e.1)
      && ((List.range 64).all fun i =>
        let w := fieldLe g (8 + 4 * i) 4
        if i < n then decide (w / 2 ^ 14 % 4 = 0) && decide (w % 2 ^ 14 < k.elems) else decide (w = 0))

/-- A husk region as bytes (R119). -/
def huskBytes (cap ovf : Nat) (es : List (Nat × Nat)) : Bytes :=
  leBytes 1 es.length ++ leBytes 1 cap ++ leBytes 2 ovf ++ leBytes 4 0 ++ es.flatMap (fun e => leBytes 4 (e.1 + e.2 * 2 ^ 16))
    ++ List.replicate (256 - 4 * es.length) 0

/-- The element codes of a tile, in element order (R87). -/
def TileImg.codes (k : Fmt) (t : TileImg) : Array Nat :=
  match k.width with
  | 4 => (t.data.flatMap fun b => [b.toNat % 16, b.toNat / 16]).toArray
  | 8 => (t.data.map fun b => b.toNat).toArray
  | w =>
    let n := w / 8
    let a := t.data.toArray
    ((List.range k.elems).map fun i =>
      (List.range n).foldr (fun j acc => (a.getD (i * n + j) 0).toNat + 256 * acc) 0).toArray

/-- Pairs of nibbles as bytes. -/
def packNibbles : List Nat → Bytes
  | a :: b :: t => BitVec.ofNat 8 (a % 16 + 16 * (b % 16)) :: packNibbles t
  | [a] => [BitVec.ofNat 8 (a % 16)]
  | [] => []

/-- Element codes packed into data bytes (R87). -/
def packCodes (k : Fmt) (cs : List Nat) : Bytes :=
  match k.width with
  | 4 => packNibbles cs
  | w => cs.flatMap fun c => leBytes (w / 8) c

/-- The binary32 values of a tile's elements, in element order: long formats widened (R78, R79), short ones by R99. -/
def TileImg.values (k : Fmt) (t : TileImg) : Array (Nat × Exc) :=
  let cs := t.codes k
  if !k.short then
    if k.elem = 0 then cs.map fun c => (c, Exc.none) else cs.map fun c => k.long.conv fmt32 .rne c
  else
    let hs := huskEntries (t.huskRegion k)
    let sc := (t.side.take k.codes).toArray
    let tt := (t.trailer k).t
    ((List.range cs.size).map fun i =>
      let c := cs.getD i 0
      dequant k c (sc.getD (i / k.blk) 0).toNat tt
        (if c = 8 ∧ k.width = 4 then (hs.find? fun e => e.1 = i).map fun e => e.2 else none)).toArray

end Sys2Proof.Machine
end

