-- ==== Sys2Proof/Machine/Mem.lean ====
section
/-! DEFINITION. HBM: device physical addresses, the context address spaces, reads and writes of bytes and of storage
tiles, their checks, and what corrected and uncorrectable reads do (R263 to R281, R284, R353). -/

namespace Sys2Proof.Machine

/-- What a byte of HBM reads as when nothing has written it: a cold start clears HBM (R37, R481). DESIGN CHOICE: log entry 4. -/
def hbmClear (_ : Nat) : Byte := 0

/-- The canonical form of HBM's contents: addresses rise, and no listed byte is what an unlisted one reads as. -/
def Memory.wf (m : List Host.Cell) : Bool := NMap.wf hbmClear m

/-- GiB per stack of a part (R2, R263). -/
def Part.gib : Part → Nat
  | .h768 => 64
  | .h576 => 48

/-- Bytes of a stack that are not reserved (R265). -/
def State.usable (s : State) : Nat := s.part.gib * 2 ^ 30 - 2 ^ 27

/-- Bytes of a stack that are populated (R263). -/
def State.populated (s : State) : Nat := s.part.gib * 2 ^ 30

/-- Whether a frame exists and is not reserved (R263, R265). -/
def State.frameOk (s : State) (frame : Nat) : Bool :=
  decide (frame / 32768 < 12) && decide (frame % 32768 * 2 ^ 21 < s.usable)

/-- First frame of the eight spare frames of a stack (R265). -/
def State.spareBase (s : State) (stack : Nat) : Nat := stack * 32768 + (s.usable + 96 * 2 ^ 20) / 2 ^ 21

/-- The frame that serves a frame: its spare where a redirect names one (R284). -/
def State.redirect (s : State) (frame : Nat) : Nat :=
  match s.flash.redirects.find? fun r => r.frame.toNat = frame with
  | none => frame
  | some r => s.spareBase r.stack + r.spare.toNat

/-- A location after redirects (R284). -/
def State.resolve (s : State) (dpa : Nat) : Nat := s.redirect (dpa / 2 ^ 21) * 2 ^ 21 + dpa % 2 ^ 21

/-- The row of a location: pseudo-channel, bank, row (R264). -/
def rowOf (dpa : Nat) : RowAddr :=
  let a := dpa % 2 ^ 36
  { pc := BitVec.ofNat 6 (Nat.xor (bitsN a 13 8) (bitsN a 25 20)),
    bank := BitVec.ofNat 4 (Nat.xor (bitsN a 19 16) (bitsN a 23 20)),
    row := BitVec.ofNat 16 (bitsN a 35 20) }

/-- The column of a location, and its byte within the burst (R264). -/
def columnOf (dpa : Nat) : Nat := bitsN dpa 15 14 * 8 + bitsN dpa 7 5
def burstByte (dpa : Nat) : Nat := bitsN dpa 4 0

/-- The channel of a row's pseudo-channel, and the bank group of its bank (R264). -/
def RowAddr.channel (r : RowAddr) : Nat := r.pc.toNat / 2
def RowAddr.group (r : RowAddr) : Nat := r.bank.toNat / 4

/-- The bytes of a run of cells from address `a`. -/
def readRun : Nat → Nat → List Host.Cell → Bytes
  | 0, _, _ => []
  | n + 1, a, [] => hbmClear a :: readRun n (a + 1) []
  | n + 1, a, (k, v) :: t => if k = a then v :: readRun n (a + 1) t else hbmClear a :: readRun n (a + 1) ((k, v) :: t)

/-- One byte of HBM. -/
def State.readByte (s : State) (dpa : Nat) : Byte := NMap.get hbmClear s.mem (s.resolve dpa)

/-- `n` bytes from a location, within one frame. -/
def State.readPhys (s : State) (dpa n : Nat) : Bytes :=
  readRun n (s.resolve dpa) (s.mem.dropWhile fun e => decide (e.1 < s.resolve dpa))

/-- Where a frame move also sends writes (R284). -/
def State.dual (s : State) (dpa : Nat) : Option Nat :=
  match (s.stack (dpa / 2 ^ 36)).move with
  | none => none
  | some m =>
    if m.frame.toNat = dpa / 2 ^ 21 then
      some ((s.spareBase (dpa / 2 ^ 36) + m.spare.toNat) * 2 ^ 21 + dpa % 2 ^ 21)
    else none

/-- Write bytes at a location, within one frame; a frame under move is written in both places (R284). -/
def writePhys (dpa : Nat) (bs : Bytes) (s : State) : State :=
  let s1 := { s with mem := NMap.setRun hbmClear s.mem (s.resolve dpa) bs }
  match s.dual dpa with
  | none => s1
  | some d => { s1 with mem := NMap.setRun hbmClear s1.mem d bs }

/-! ### Severities (R281, R283) -/

/-- Note a read of a row: the controller tracks the 256 most recently erring rows (R281). -/
def noteRow (stack : Nat) (row : RowAddr) (ue : Bool) (s : State) : State :=
  let k := s.stack stack
  let e := (k.erring.find? fun e => e.row = row).getD { row := row, times := [], ue := false }
  let e1 := { e with times := if ue then e.times else (s.time :: e.times).take 255, ue := e.ue || ue }
  s.setStack stack { k with erring := (e1 :: k.erring.filter fun e => e.row ≠ row).take 256 }

/-- Corrected reads of a row within the last HBMC_CE_ROW.WINDOW hours (R282). -/
def State.rowCount (s : State) (stack : Nat) (e : ErringRow) : Nat :=
  let hours := s.regField (aHbmc stack 0x40) 31 16
  let window := (if hours = 0 then 24 else hours) * 3600000000000
  (e.times.filter fun t => decide (s.time.toNat ≤ t.toNat + window)).length

/-- A corrected read (R281). -/
def noteCe (dpa : Nat) (s : State) : State :=
  let st := dpa / 2 ^ 36
  let row := rowOf dpa
  let s1 := noteRow st row false (count (aHbmc st 0x10) 1 s)
  let k := s1.stack st
  let n := k.ceSince + 1
  let ms := s1.regField (aHbmc st 0x4C) 15 0
  let due : Bool := match k.ceEvent with
    | none => true
    | some t => decide (t.toNat + ms * 1000000 ≤ s1.time.toNat)
  if ms ≠ 0 ∧ due then
    raiseDev 0x0201 0 st (leBytes 4 n.toNat ++ leBytes 4 ms ++ leBytes 1 row.pc.toNat ++ leBytes 1 row.bank.toNat
      ++ leBytes 2 row.row.toNat) (s1.setStack st { k with ceSince := 0, ceEvent := some s1.time })
  else s1.setStack st { k with ceSince := n }

/-- An uncorrectable read: HBMC_UE, HBMC_LAST_ERR, and towards R283. -/
def noteUe (dpa : Nat) (s : State) : State :=
  let st := dpa / 2 ^ 36
  let row := rowOf dpa
  let s1 := noteRow st row true (count (aHbmc st 0x18) 1 s)
  let s2 := s1.setReg (aHbmc st 0x38)
    (BitVec.ofNat 32 (row.pc.toNat + row.bank.toNat * 64 + row.row.toNat * 2 ^ 16))
  let k := s2.stack st
  let f := dpa / 2 ^ 21
  s2.setStack st { k with ueFrames := NMap.set (fun _ => 0) k.ueFrames f (NMap.get (fun _ => 0) k.ueFrames f + 1) }

/-- The bursts of a range of `n` bytes. -/
def bursts (dpa n : Nat) : List Nat := if n = 0 then [] else
  (List.range ((dpa + n - 1) / 32 - dpa / 32 + 1)).map fun i => dpa / 32 + i

/-- The first burst of a range that an environment reads as uncorrectable. -/
def envUe (env : Env) (dpa n : Nat) : Option Nat := (bursts dpa n).find? fun b => env.ue.contains b

/-- No error from outside. -/
def envQuiet : Env := { ue := [], ce := [], faults := [] }

/-- Count the corrected reads of a range. -/
def noteCes (env : Env) (dpa n : Nat) (s : State) : State :=
  ((bursts dpa n).filter fun b => env.ce.contains b).foldl (fun t b => noteCe (b * 32) t) s

/-- Note uncorrectable reads, by burst. -/
def noteUes (bs : List Nat) (s : State) : State := bs.foldl (fun t b => noteUe (b * 32) t) s

/-- Whether a stack serves accesses: READY (R291), its die not fenced. -/
def State.stackUp (s : State) (stack : Nat) : Bool := (s.stack stack).state == 2

/-! ### Translation (R266 to R268, R353) -/

/-- Why an access fails. -/
inductive MemErr where
  /-- ACCESS_VIOLATION (R268). -/
  | access
  /-- An uncorrectable page-table entry at this location (R280). -/
  | pte (dpa : Nat)
  /-- The stack is fenced or in reset: DOMAIN_RESET (R55, R420). -/
  | fenced
  deriving DecidableEq, Repr

/-- The root of the tables of context `c` (CTX_PT_BASE, R266). -/
def State.root (s : State) (c : Nat) : Nat := (s.reg64 (aCtx c 0x10)).toNat

/-- The entry at `a` of the tables under `root`, as a walk for context `c` reads it: the table must lie in a table frame (R353). An entry
that changed while it was in use is free (R269). -/
def State.walkEntry (s : State) (env : Env) (c root a : Nat) : Except MemErr Nat :=
  if ¬ s.frameOk (a / 2 ^ 21) then .error .access
  else if ¬ s.bndy.tableFrames.contains (a / 2 ^ 21) then .error .access
  else if ¬ s.stackUp (a / 2 ^ 36) then .error .fenced
  else if (envUe env a 8).isSome then .error (.pte a)
  else if decide (root = s.root c) && (s.ctx c).stale.contains a then .ok (Config.staleEntry s.fresh a).toNat
  else .ok (leNat (s.readPhys a 8))

/-- Whether a frame lies in the partner area (R394). -/
def State.partnerFrame (s : State) (frame : Nat) : Bool :=
  let base := s.regField (aComtDev 0x0C) 18 0
  decide (base ≤ frame) && decide (frame < base + s.regField (aComtDev 0x10) 15 0)

/-- The address field of an entry that is VALID and not malformed (R267, R268). -/
def State.entryAddr? (s : State) (e : Nat) (leaf : Bool) : Option Nat :=
  let a := bitsN e 39 12 * 4096
  if ¬ e.testBit 0 ∨ bitsN e 11 2 ≠ 0 ∨ e / 2 ^ 40 ≠ 0 ∨ (¬ leaf ∧ e.testBit 1) ∨ (leaf ∧ a % 2 ^ 21 ≠ 0)
      ∨ ¬ s.frameOk (a / 2 ^ 21) ∨ s.partnerFrame (a / 2 ^ 21) then none
  else some a

/-- A walk for context `c` of the tables under `root`, from the table at `table`, which stands `n` levels above the leaves: the location
of `va`, and the entries read on the way (R266, R268). -/
def State.walk (s : State) (env : Env) (c root va : Nat) (write : Bool) : Nat → Nat → Except MemErr Nat × List Nat
  | n, table =>
    let a := table + 8 * (va / 2 ^ (21 + 9 * n) % 512)
    match s.walkEntry env c root a with
    | .error x => (.error x, [])
    | .ok e =>
      match n, s.entryAddr? e (decide (n = 0)) with
      | _, none => (.error .access, [a])
      | n + 1, some t => let (r, as) := s.walk env c root va write n t
        (r, a :: as)
      | 0, some f =>
        (if write ∧ ¬ e.testBit 1 then .error .access
          else if ¬ s.stackUp (f / 2 ^ 36) then .error .fenced
          else .ok (f + va % 2 ^ 21), [a])

/-- Translate one virtual address of context `c` through the tables under `root`. -/
def State.translateAt (s : State) (env : Env) (c root va : Nat) (write : Bool) : Except MemErr Nat :=
  if 2 ^ 48 ≤ va then .error .access else (s.walk env c root va write 2 root).1

/-- Translate one virtual address through the tables of context `c`. -/
def State.translate (s : State) (env : Env) (c va : Nat) (write : Bool) : Except MemErr Nat := s.translateAt env c (s.root c) va write

/-- The tables that the entries of the table at `t` name. -/
def State.tablesUnder (s : State) (t : Nat) : List Nat :=
  let r := s.resolve t
  let used := ((s.mem.filter fun e => decide (r ≤ e.1) && decide (e.1 < r + 4096)).map fun e => (e.1 - r) / 8).eraseDups
  used.filterMap fun i => s.entryAddr? (leNat (s.readPhys (t + 8 * i) 8)) false

/-- Whether a table is one of context `c`'s (R266). -/
def State.ownsTable (s : State) (c t : Nat) : Bool :=
  let top := (s.reg64 (aCtx c 0x10)).toNat
  let mids := s.tablesUnder top
  decide (t = top) || mids.contains t || mids.any fun m => (s.tablesUnder m).contains t

/-- Note that the table aperture changes the entry at `a` to `v`: where it was VALID, its translation is undefined from then on for
the ACTIVE and QUIESCING contexts whose tables it belongs to (R269). -/
def noteTableChange (a v : Nat) (s : State) : State :=
  let old := leNat (s.readPhys a 8)
  if ¬ old.testBit 0 ∨ old = v then s
  else
    let hit := fun (e : Nat × Ctx) => (decide (e.2.st = .active) || decide (e.2.st = .quiescing)) && s.ownsTable e.1 (a / 4096 * 4096)
    (s.ctxs.filter hit).foldl (fun t e => t.setCtx e.1 { t.ctx e.1 with stale := a :: (t.ctx e.1).stale }) s

/-- A virtual range as pieces within frames: location and length. -/
def State.pieces (s : State) (env : Env) (c root : Nat) (write : Bool) : Nat → Nat → Nat → Except MemErr (List (Nat × Nat))
  | 0, _, _ => .ok []
  | fuel + 1, va, n =>
    if n = 0 then .ok []
    else
      let k := min n (2 ^ 21 - va % 2 ^ 21)
      match s.translateAt env c root va write with
      | .error x => .error x
      | .ok d =>
        match s.pieces env c root write fuel (va + k) (n - k) with
        | .error x => .error x
        | .ok r => .ok ((d, k) :: r)

/-- The pieces of a range of `n` bytes in the tables under `root`. -/
def State.rangeAt (s : State) (env : Env) (c root va n : Nat) (write : Bool) : Except MemErr (List (Nat × Nat)) :=
  s.pieces env c root write (n / 2 ^ 21 + 2) va n

/-- The pieces of a range of `n` bytes of context `c`. -/
def State.range (s : State) (env : Env) (c va n : Nat) (write : Bool) : Except MemErr (List (Nat × Nat)) :=
  s.rangeAt env c (s.root c) va n write

/-- Count the corrected reads of the table entries that translate a range (R281). -/
def noteWalks (env : Env) (c root va n : Nat) (write : Bool) (s : State) : State :=
  let pages := if n = 0 then [] else (List.range ((va + n - 1) / 2 ^ 21 + 1 - va / 2 ^ 21)).map fun i => (va / 2 ^ 21 + i) * 2 ^ 21
  (pages.flatMap fun p => (s.walk env c root p write 2 root).2).foldl (fun t a => noteCes env a 8 t) s

/-- Count the corrected reads of a read of a range: of its table entries and of its bytes (R281). -/
def noteReads (env : Env) (c root va n : Nat) (s : State) : State :=
  match s.rangeAt env c root va n false with
  | .error _ => noteWalks env c root va n false s
  | .ok ps => ps.foldl (fun t p => noteCes env p.1 p.2 t) (noteWalks env c root va n false s)

/-- The bytes of pieces. -/
def State.readPieces (s : State) (ps : List (Nat × Nat)) : Bytes := ps.flatMap fun p => s.readPhys p.1 p.2

/-- Write bytes over pieces. -/
def writePieces : List (Nat × Nat) → Bytes → State → State
  | [], _, s => s
  | (d, k) :: t, bs, s => writePieces t (bs.drop k) (writePhys d (bs.take k) s)

/-- Read `n` bytes of a context's address space: bytes, and the first uncorrectable burst if any. -/
def State.readVa (s : State) (env : Env) (c va n : Nat) : Except MemErr (Bytes × Option Nat) :=
  match s.range env c va n false with
  | .error x => .error x
  | .ok ps => .ok (s.readPieces ps, ps.findSome? fun p => envUe env p.1 p.2)

/-- Read `n` bytes of a context's address space: its corrected reads are counted and its uncorrectable bursts are noted, of which
the first is answered (R280, R281). -/
def fetchVa (env : Env) (c va n : Nat) (s : State) : Except MemErr (Bytes × Option Nat) × State :=
  let s1 := noteReads env c (s.root c) va n s
  match s.range env c va n false with
  | .error x => (.error x, s1)
  | .ok ps =>
    let bad := ps.flatMap fun p => (bursts p.1 p.2).filter fun b => env.ue.contains b
    (.ok (s.readPieces ps, bad.head?), noteUes bad s1)

/-- Write bytes into the address space under `root`: nothing is written when any page of the range fails. -/
def writeAt (env : Env) (c root va : Nat) (bs : Bytes) (s : State) : Except MemErr State :=
  match s.rangeAt env c root va bs.length true with
  | .error x => .error x
  | .ok ps => .ok (writePieces ps bs (noteWalks env c root va bs.length true s))

/-- Write bytes into a context's address space. -/
def writeVa (env : Env) (c va : Nat) (bs : Bytes) (s : State) : Except MemErr State := writeAt env c (s.root c) va bs s

/-! ### Storage tiles -/

/-- Where a tile stands: the context whose tables reach it, the root of its tables where that context has been released (R61), the base
of its copy, the handle's TILES, and its format. -/
structure TileLoc where
  ctx : Nat
  root : Option Dword
  base : Nat
  tiles : Nat
  fmt : Fmt
  handle : Nat
  deriving DecidableEq, Repr

/-- Virtual address of the data of tile `i` (R271). -/
def TileLoc.dataVa (l : TileLoc) (i : Nat) : Nat := l.base + 8192 * i

/-- Virtual address of the side record of tile `i` (R271). -/
def TileLoc.sideVa (l : TileLoc) (i : Nat) : Nat := l.base + 8192 * l.tiles + l.fmt.side * i

/-- The root of the tables that reach a tile. -/
def TileLoc.rootIn (l : TileLoc) (s : State) : Nat :=
  match l.root with
  | some r => r.toNat
  | none => s.root l.ctx

/-- What a tile-aware reader finds (R274 to R278). -/
inductive TileRead where
  /-- A checked tile. -/
  | ok (img : TileImg)
  /-- A poisoned tile, with CAUSE and OWNER of its mark and the location of its slot. -/
  | poison (img : TileImg) (cause owner slot : Nat)
  /-- A tile that fails its check: CAUSE 1 CRC or 2 husk region, and the stored and computed CRC. -/
  | bad (img : TileImg) (cause stored computed slot : Nat)
  /-- The access itself fails. -/
  | fail (e : MemErr)
  deriving DecidableEq, Repr

/-- The location of byte `o` within pieces. -/
def pieceAt : List (Nat × Nat) → Nat → Nat
  | [], _ => 0
  | (d, k) :: t, o => if o < k then d + o else pieceAt t (o - k)

/-- A poison mark (R277). -/
def markBytes (cause owner : Nat) : Bytes := leBytes 8 (cause + owner * 256 + poisonMark * 2 ^ 16)

/-- Create poison (R276): the mark is written, POISON_CREATED raised for `w`; the uncorrectable reads are noted before. -/
def createPoison (w : Who) (l : TileLoc) (i burst slot : Nat) (s : State) : State :=
  let st := burst * 32 / 2 ^ 36
  let row := rowOf (burst * 32)
  let s1 := if s.stackUp (slot / 2 ^ 36) then
      count (aHbmc (slot / 2 ^ 36) 0x20) 1 (writePhys slot (markBytes 1 l.ctx) s)
    else s
  raiseWho w 0x0202 1 st (leBytes 1 row.pc.toNat ++ leBytes 1 row.bank.toNat ++ leBytes 2 row.row.toNat
    ++ leBytes 4 l.handle ++ leBytes 8 slot ++ leBytes 4 i) s1

/-- Load tile `i` as the tile-aware reader `w` does: the severity of every burst first, then poison, then the CRC and the husk
region (R274 to R277, R281, R121). -/
def loadTile (env : Env) (w : Who) (l : TileLoc) (i : Nat) (s : State) : State × TileRead :=
  let root := l.rootIn s
  match s.rangeAt env l.ctx root (l.dataVa i) 8192 false, s.rangeAt env l.ctx root (l.sideVa i) l.fmt.side false with
  | .error e, _ => (noteWalks env l.ctx root (l.dataVa i) 8192 false s, .fail e)
  | _, .error e => (noteWalks env l.ctx root (l.sideVa i) l.fmt.side false s, .fail e)
  | .ok pd, .ok ps =>
    let slot := pieceAt ps l.fmt.crcOff
    let s0 := noteReads env l.ctx root (l.sideVa i) l.fmt.side (noteReads env l.ctx root (l.dataVa i) 8192 s)
    let img : TileImg := { data := s0.readPieces pd, side := (s0.readPieces ps).take (l.fmt.crcOff + 8) }
    match (pd ++ ps).flatMap fun p => (bursts p.1 p.2).filter fun b => env.ue.contains b with
    | b :: rest =>
      (createPoison w l i b slot (noteUes (b :: rest) s0), .poison img 1 l.ctx slot)
    | [] =>
      let v := img.slot l.fmt
      let crc := img.crc l.fmt
      if img.poisoned l.fmt then (s0, .poison img (v % 256) (v / 256 % 256) slot)
      else if v ≠ crc then (s0, .bad img 1 v crc slot)
      else if ¬ img.huskOk l.fmt then (s0, .bad img 2 v crc slot)
      else (s0, .ok img)

/-- Tile `i` if it passes its checks, as it stands (R261). -/
def State.goodTile (s : State) (l : TileLoc) (i : Nat) : Option TileImg :=
  match (loadTile envQuiet (Who.ofCtx l.ctx) l i s).2 with
  | .ok img => some img
  | _ => none

/-- Write tile `i` whole (R271 to R273); a poison mark that it carries is counted (R291). -/
def storeTile (env : Env) (l : TileLoc) (i : Nat) (img : TileImg) (s : State) : Except MemErr State :=
  let root := l.rootIn s
  match s.rangeAt env l.ctx root (l.dataVa i) 8192 true, s.rangeAt env l.ctx root (l.sideVa i) l.fmt.side true with
  | .error e, _ => .error e
  | _, .error e => .error e
  | .ok pd, .ok ps =>
    let s1 := noteWalks env l.ctx root (l.sideVa i) l.fmt.side true (noteWalks env l.ctx root (l.dataVa i) 8192 true s)
    let s2 := if img.poisoned l.fmt then count (aHbmc (pieceAt ps l.fmt.crcOff / 2 ^ 36) 0x20) 1 s1 else s1
    .ok (writePieces ps (sliceB img.side 0 l.fmt.side) (writePieces pd img.data s2))

/-- Count a TILE_CHECKSUM event in its aligned hour of TIME (R411). -/
def noteChecksum (s : State) : State :=
  let hour := BitVec.ofNat 64 (s.time.toNat / 3600000000000)
  let f := s.faults
  { s with faults := { f with tcsHour := hour, tcsCount := if f.tcsHour = hour then f.tcsCount + 1 else 1 } }

/-- Raise TILE_CHECKSUM for `w`: use, cause, handle, tile, stored and computed CRC, source rank (R290). DEDUCED: log entry 93. -/
def raiseChecksum (w : Who) (use cause handle tile stored computed rank stack : Nat) (s : State) : State :=
  raiseWho w 0x0204 2 stack (leBytes 1 use ++ leBytes 1 cause ++ leBytes 2 0 ++ leBytes 4 handle ++ leBytes 4 tile
    ++ leBytes 4 (stored % 2 ^ 32) ++ leBytes 4 (computed % 2 ^ 32) ++ leBytes 4 rank) (noteChecksum s)

/-- Raise POISON_CONSUMED for `w`: cause, owner, consumer, handle, location, tile (R290). -/
def raisePoisonConsumed (w : Who) (cause owner consumer handle dpa tile : Nat) (s : State) : State :=
  raiseWho w 0x0203 3 (dpa / 2 ^ 36) (leBytes 1 cause ++ leBytes 1 owner ++ leBytes 1 consumer ++ leBytes 1 0
    ++ leBytes 4 handle ++ leBytes 8 dpa ++ leBytes 4 tile) s

end Sys2Proof.Machine
end

