-- ==== Sys2Proof/Machine/Flags.lean ====
section
/-! DEFINITION. Status codes (R11), DETAIL codes (R59), task kinds (R49), and the bits of the vote word (R375, R376). -/

namespace Sys2Proof.Machine

/-! ### Status (R11) -/

def stOk : Byte := 0x00
def stPoison : Byte := 0x01
def stChecksum : Byte := 0x02
def stFabricTimeout : Byte := 0x03
def stDomainReset : Byte := 0x04
def stNonfinite : Byte := 0x05
def stFallback : Byte := 0x06
def stAbft : Byte := 0x07
def stAccess : Byte := 0x08
def stStepAborted : Byte := 0x09
def stKilled : Byte := 0x0A
def stPlausibility : Byte := 0x0B
def stDiscarded : Byte := 0x0C
def stInternal : Byte := 0xFF

/-- Whether a status is success (R11). -/
def stGood (s : Byte) : Bool := s == stOk || s == stFallback

/-! ### DETAIL (R59) -/

def dNone : BitVec 16 := 0
def dBadCheck : BitVec 16 := 1
def dBadKind : BitVec 16 := 2
def dBadIndex : BitVec 16 := 3
def dBadHandle : BitVec 16 := 4
def dReadOnly : BitVec 16 := 5
def dPredFalse : BitVec 16 := 6
def dCancelled : BitVec 16 := 7
def dInherited : BitVec 16 := 8
def dOverrun : BitVec 16 := 9
def dBadSequence : BitVec 16 := 0xA
def dTooLarge : BitVec 16 := 0xB
def dStaleStep : BitVec 16 := 0xC
def dBusy : BitVec 16 := 0xD

/-- The STATUS that goes with a rejection's DETAIL: ACCESS_VIOLATION for a handle or rights violation (R59). -/
def rejectStatus (d : BitVec 16) : Byte := if d = dBadHandle ∨ d = dReadOnly then stAccess else stDiscarded

/-! ### Kinds (R49) -/

def kMatmul : Nat := 1
def kMatvec : Nat := 2
def kVector : Nat := 3
def kQuantize : Nat := 4
def kOptimize : Nat := 5
def kCollective : Nat := 6
def kCopy : Nat := 7
def kCheckpoint : Nat := 8
def kStepEnd : Nat := 9
def kEvent : Nat := 10
def kWait : Nat := 11

/-- Kinds that are repeated within a layer group (R214). -/
def kindRepeats (k : Nat) : Bool := decide (1 ≤ k ∧ k ≤ 4)

/-- Kinds that run on a cluster (R53, R198, R386; COLLECTIVE runs on the collective unit, R340). -/
def kindOnCluster (k : Nat) : Bool := decide (1 ≤ k ∧ k ≤ 4)

/-! ### The vote word (R376) -/

def vFault : Nat := 0
def vNonfinite : Nat := 1
def vSaturated : Nat := 2
def vAbft : Nat := 3
def vPoison : Nat := 4
def vTimeout : Nat := 5
def vDomainReset : Nat := 6
def vPlausibility : Nat := 7
def vStepMismatch : Nat := 8
def vRetryWide : Nat := 16
def vSkipReq : Nat := 17
def vCkp1 : Nat := 18
def vCkp2 : Nat := 19
def vCkp3 : Nat := 20
def vTriesExhausted : Nat := 21
def vHalt : Nat := 22

/-- The vote bit that a task's status sets (R375): CONTEXT_KILLED counts as FAULT, poison being voted at the kill. -/
def voteOfStatus (s : Byte) : Option Nat :=
  if s = stChecksum ∨ s = stAccess ∨ s = stInternal ∨ s = stKilled then some vFault
  else if s = stNonfinite then some vNonfinite
  else if s = stAbft then some vAbft
  else if s = stPoison then some vPoison
  else if s = stFabricTimeout then some vTimeout
  else if s = stDomainReset then some vDomainReset
  else if s = stPlausibility then some vPlausibility
  else none

/-- A word with bit `i` set. -/
def orBit (w : Dword) (i : Nat) (b : Bool) : Dword := if b then w ||| ((1 : Dword) <<< i) else w

/-- Combine two vote words (R376, R377): flags are ORed, STEP_MIN is the minimum, and differing steps set STEP_MISMATCH. -/
def voteCombine (a b : Dword) : Dword :=
  let sa := a >>> 32
  let sb := b >>> 32
  let flags := (a ||| b) &&& 0xFFFFFFFF
  orBit (flags ||| ((if sa ≤ sb then sa else sb) <<< 32)) vStepMismatch (decide (sa ≠ sb))

/-- The three outcomes of R379; an abort carries whether its decision is HOLD. -/
inductive VoteOutcome where
  | commit | skip
  | abort (hold : Bool)
  deriving DecidableEq, Repr

/-- The first matching row of R379. -/
def voteDecide (w : Dword) : VoteOutcome :=
  let numeric := w.getLsbD vNonfinite || w.getLsbD vSaturated
  if w.getLsbD 0 || w.getLsbD 3 || w.getLsbD 4 || w.getLsbD 5 || w.getLsbD 6 || w.getLsbD 7 || w.getLsbD 8 then .abort true
  else if w.getLsbD vSkipReq then .skip
  else if numeric && w.getLsbD vTriesExhausted && w.getLsbD vHalt then .abort true
  else if numeric && w.getLsbD vTriesExhausted then .skip
  else if numeric then .abort false
  else .commit

end Sys2Proof.Machine
end

