-- ==== Sys2Proof/Machine/Rng.lean ====
section
/-! DEFINITION. The generator of random draws, its keys, and stream references (R243 to R247). -/

namespace Sys2Proof.Machine

/-- 32-bit left rotation. -/
def rotl32 (v n : Nat) : Nat := Nat.lor ((v <<< n) % 2 ^ 32) (v >>> (32 - n))

/-- The four words of the generator. -/
structure RngState where
  x0 : Nat
  x1 : Nat
  x2 : Nat
  x3 : Nat
  deriving DecidableEq, Repr

/-- A half step: x0 += x1; x3 := rotl(x3 ^ x0, a); x2 += x3; x1 := rotl(x1 ^ x2, b). -/
def rngHalf (a b : Nat) (x : RngState) : RngState :=
  let x0 := (x.x0 + x.x1) % 2 ^ 32
  let x3 := rotl32 (Nat.xor x.x3 x0) a
  let x2 := (x.x2 + x3) % 2 ^ 32
  { x0 := x0, x1 := rotl32 (Nat.xor x.x1 x2) b, x2 := x2, x3 := x3 }

/-- Round `r` under key `k` (R243). -/
def rngRound (k : Nat) (x : RngState) (r : Nat) : RngState :=
  let y := rngHalf 8 7 (rngHalf 16 12 x)
  { y with x0 := (y.x0 + (if r % 2 = 0 then bitsN k 95 64 else bitsN k 127 96) + r) % 2 ^ 32 }

/-- The draw of key `k` at counter `c` (R243). -/
def draw (k c : Nat) : Nat :=
  let x := (List.range 10).foldl (rngRound k)
    { x0 := bitsN c 31 0, x1 := bitsN c 63 32, x2 := bitsN k 31 0, x3 := bitsN k 63 32 }
  Nat.xor x.x0 x.x2

/-- A key: job seed, effective stream ID, lane ID (R243). -/
def rngKey (seed stream lane : Nat) : Nat := seed % 2 ^ 64 + stream % 2 ^ 32 * 2 ^ 64 + lane % 2 ^ 32 * 2 ^ 96

/-- The class of a stream reference (R245). -/
def refClass (r : Nat) : Nat := bitsN r 31 29

/-- Whether a stream reference is stepped (R245). -/
def refStepped (r : Nat) : Bool := r.testBit 28

/-- The slot of a stepped reference (R245). -/
def refSlot (r : Nat) : Nat := bitsN r 11 0

/-- The effective stream ID of a stepped reference at position `p` of a table of 2^`log2` slots (R246). -/
def steppedId (r p log2 : Nat) : Nat :=
  refClass r * 2 ^ 29 + 2 ^ 28 + (p * 2 ^ log2 + refSlot r) % 2 ^ 28

/-- Sign bit of contraction index `k` (R116). -/
def rotSign (key ctrHi k : Nat) : Bool := (draw key (ctrHi * 2 ^ 32 + k / 32)).testBit (k % 32)

end Sys2Proof.Machine
end

