-- ==== Sys2Proof/Machine/QuantCore.lean ====
section
/-! DEFINITION. The conversion of a whole tensor to a short format (R104 to R108, R111, R115 to R123, R125): tensor scale,
rotation, tiles with their scale block and husk region, counts, amax and error sums. -/

namespace Sys2Proof.Machine

/-- A matrix of binary32 codes, by rows. -/
abbrev Mat := Array (Array Nat)

/-- Element (r, c) of a matrix. -/
def Mat.at (m : Mat) (r c : Nat) : Nat := (m.getD r #[]).getD c 0

/-- A matrix from a function. -/
def Mat.build (rows cols : Nat) (f : Nat → Nat → Nat) : Mat :=
  ((List.range rows).map fun r => ((List.range cols).map fun c => f r c).toArray).toArray

/-- The transposed matrix of a rows × cols matrix. -/
def Mat.turn (m : Mat) (rows cols : Nat) : Mat := Mat.build cols rows fun r c => m.at c r

/-! ### Scale-table entries (R105 to R109) -/

/-- A scale-table entry by effective values (R106). -/
structure ScaleEntry where
  h : Nat
  next : Nat
  rho : Nat
  cap : Nat
  ovf : Nat
  margin : Nat
  initT : Nat
  nonfinite : Nat
  folds : Nat
  hist : List Nat
  deriving DecidableEq, Repr

/-- A field whose zero acts as a default, held within a range. -/
def orDefault (v dflt lo hi : Nat) : Nat := if v = 0 then dflt else clampNat v lo hi

/-- MARGIN: 0, negative values and NaN act as 1.0; others clamp to 2^−8 to 2^8 (R106). -/
def marginOf (m : Nat) : Nat :=
  if fmt32.isZero m || fmt32.isNan m || fmt32.sign m then 0x3F800000 else clampNat m 0x3B800000 0x43800000

/-- The entry that 512 bytes hold (R106). -/
def ScaleEntry.ofBytes (b : Bytes) : ScaleEntry :=
  { h := orDefault (fieldLe b 0 1) 16 1 64, next := fieldLe b 1 1, rho := orDefault (fieldLe b 2 1) 4 2 16,
    cap := orDefault (fieldLe b 3 1) 32 8 64, ovf := orDefault (fieldLe b 4 2) 50 1 10000,
    margin := marginOf (fieldLe b 8 4),
    initT := (let t := fieldLe b 12 4; if fmt32.isZero t then 0x3F800000 else t),
    nonfinite := fieldLe b 0x10 4, folds := fieldLe b 0x14 4,
    hist := (List.range 64).map fun i => fieldLe b (0x40 + 4 * i) 4 }

/-- The defaults that hold where no slot is named (R118). -/
def ScaleEntry.dflt : ScaleEntry := ScaleEntry.ofBytes (List.replicate 512 0)

/-- The tensor scale of a slot (R107), clamped (R90), and whether the clamp acted. -/
def ScaleEntry.tensorScale (x : ScaleEntry) (elem : Nat) : Nat × Bool :=
  let hmax := (x.hist.take x.h).foldl (fun a v => (fmt32.max a v).1) ((x.hist.headD 0))
  if fmt32.isZero hmax then clampT x.initT
  else clampT (fmt32.mul .rtp (fmt32.div .rtp hmax (fmax32 elem)).1 x.margin).1

/-- Fold an amax into an entry (R109). -/
def foldEntry (b : Bytes) (amax : Nat) : Bytes :=
  let x := ScaleEntry.ofBytes b
  let n := x.next % x.h
  let fin := fmt32.isFin amax
  let b1 := putB b (0x40 + 4 * n) (leBytes 4 (if fin then amax else 0))
  let b2 := if fin then b1 else putB b1 0x10 (leBytes 4 (min (x.nonfinite + 1) (2 ^ 32 - 1)))
  putB (putB b2 1 (leBytes 1 ((n + 1) % x.h))) 0x14 (leBytes 4 (min (x.folds + 1) (2 ^ 32 - 1)))

/-! ### Rotation (R115, R116) -/

/-- Rotation size of a ROT code (R101). -/
def rotSize (rot : Nat) : Nat :=
  match rot with
  | 1 => 16
  | 2 => 32
  | 3 => 64
  | 4 => 128
  | _ => 0

/-- c(n) (R115). -/
def rotScale (n : Nat) : Nat := if n ≤ 32 then 0x3E800000 else 0x3E000000

/-- One butterfly pass at distance `half`. -/
def butterfly (half : Nat) (x : Array Nat × Exc) : Array Nat × Exc :=
  (List.range x.1.size).foldl (fun acc i =>
    if (i / half) % 2 = 0 then
      let a := acc.1.getD i 0
      let b := acc.1.getD (i + half) 0
      let (s, e1) := fmt32.add .rne a b
      let (d, e2) := fmt32.sub .rne a b
      ((acc.1.set! i s).set! (i + half) d, (acc.2.add e1).add e2)
    else acc) x

/-- The distances 1, 2, … below n. -/
def halves (n : Nat) : List Nat := [1, 2, 4, 8, 16, 32, 64].filter fun h => decide (h < n)

/-- Rotate a group whose first contraction index is `k0` (R115). -/
def rotateGroup (key ctrHi k0 : Nat) (x : Array Nat) : Array Nat × Exc :=
  let n := x.size
  let signed := ((List.range n).map fun i =>
    if rotSign key ctrHi (k0 + i) then fmt32.neg (x.getD i 0) else x.getD i 0).toArray
  let y := (halves n).foldl (fun acc h => butterfly h acc) (signed, Exc.none)
  y.1.foldl (fun acc v =>
    let (p, e) := fmt32.mul .rne v (rotScale n)
    (acc.1.push p, acc.2.add e)) (#[], y.2)

/-- A non-finite value produced from finite inputs: where it arose, row, column and value (R216, R240). -/
structure NonFin where
  origin : Nat
  row : Nat
  col : Nat
  val : Nat
  deriving DecidableEq, Repr

/-- Keep the first of two. -/
def firstNf (a b : Option NonFin) : Option NonFin := if a.isSome then a else b

/-- Rotate a row along its columns. -/
def rotateRow (n key ctrHi r : Nat) (row : Array Nat) : Array Nat × Exc × Option NonFin :=
  (List.range (row.size / n)).foldl (fun acc g =>
    let x := row.extract (g * n) (g * n + n)
    let (y, e) := rotateGroup key ctrHi (g * n) x
    let nf := if x.all fmt32.isFin then
        ((List.range n).find? fun i => !fmt32.isFin (y.getD i 0)).map fun i =>
          { origin := 3, row := r, col := g * n + i, val := y.getD i 0 }
      else none
    (acc.1 ++ y, acc.2.1.add e, firstNf acc.2.2 nf)) (#[], Exc.none, none)

/-! ### Tiles -/

/-- The parameters of a conversion: format, tensor scale, OUTLIER mode, STOCH with its stream, seed, ρ, CAP, and the
rotation record to write. -/
structure QParams where
  fmt : Fmt
  t : Nat
  mode : Nat
  stoch : Bool
  seed : Nat
  stream : Nat
  rho : Nat
  cap : Nat
  rot : Nat
  axis : Bool
  rotStream : Nat
  ctrHi : Nat
  deriving DecidableEq, Repr

/-- What a tile's conversion has gathered. -/
structure QTile where
  s8 : List Nat
  codes : List (List Nat)
  husks : List (Nat × Nat)
  ovf : Nat
  counts : QCounts
  ex : Exc
  invalid : Nat
  elements : Nat
  blocks : Nat
  amax : Nat
  e : Nat
  s : Nat
  deriving DecidableEq, Repr

/-- A tile not begun. -/
def QTile.start : QTile :=
  { s8 := [], codes := [], husks := [], ovf := 0, counts := QCounts.zero, ex := Exc.none, invalid := 0, elements := 0,
    blocks := 0, amax := 0, e := 0, s := 0 }

/-- Sums of adjacent pairs. -/
def pairSums : List Nat → List Nat
  | a :: b :: t => add32 a b :: pairSums t
  | l => l

/-- The pairwise tree of adjacent pairs (R125). -/
def pairTree : Nat → List Nat → Nat
  | 0, l => l.headD 0
  | n + 1, l => pairTree n (pairSums l)

/-- The error sums of a block: E and S (R125). -/
def blockErr (k : Fmt) (x : List Nat) (valid : List Bool) (codes : List Nat) (s8 t : Nat) (husk : Option (Nat × Nat)) :
    Nat × Nat :=
  let es := (List.range x.length).map fun i =>
    if valid.getD i false then
      let v := (dequant k (codes.getD i 0) s8 t (match husk with | some (p, h) => if p = i then some h else none | none => none)).1
      let d := sub32 (x.getD i 0) v
      mul32 d d
    else 0
  let ss := (List.range x.length).map fun i => if valid.getD i false then mul32 (x.getD i 0) (x.getD i 0) else 0
  (pairTree 5 es, pairTree 5 ss)

/-- The exceptions of converting elements: each signalling NaN is one invalid operation (R79); taking it into an amax counts
nothing further. DESIGN CHOICE: log entry 97. -/
def snanExc (live : List Nat) : Exc := { Exc.none with inv := (live.filter fmt32.isSnan).length }

/-- Convert one block of a tile: `b` its index, `x` its values, `valid` its non-padding positions. -/
def quantBlock (p : QParams) (tile b : Nat) (x : List Nat) (valid : List Bool) (q : QTile) : QTile :=
  let n := p.fmt.blk
  if valid.all fun v => !v then { q with s8 := 0 :: q.s8, codes := List.replicate n 0 :: q.codes }
  else
    let live := (x.zip valid).filterMap fun e => if e.2 then some e.1 else none
    let o := chooseOutlier p.mode p.t p.rho x valid (decide (q.husks.length < p.cap))
    let key := rngKey p.seed p.stream tile
    let rnd := fun i => if p.stoch then Rnd.stoch (draw key (n * b + i)) else Rnd.rne
    let h := match o with | .husk i => some i | _ => none
    let c := match o with | .clip i => some i | _ => none
    let (hv, he) := match h with | some i => huskVal (x.getD i 0) | none => (0, Exc.none)
    let r := quantiseBlock p.fmt.elem p.t x valid h c rnd
    let full := decide (o = .full)
    let inv := decide (r.s8 = 0xFF)
    let (e, s) := if inv then (0, 0) else blockErr p.fmt x valid r.codes r.s8 p.t (h.map fun i => (i, hv))
    { s8 := r.s8 :: q.s8, codes := r.codes :: q.codes,
      husks := match h with | some i => q.husks ++ [(n * b + i, hv)] | none => q.husks,
      ovf := q.ovf + (if full then 1 else 0),
      counts := q.counts.add { r.counts with huskOvf := if full then 1 else 0 },
      ex := (q.ex.add he).add (snanExc live), invalid := q.invalid + (if inv then 1 else 0),
      elements := q.elements + live.length, blocks := q.blocks + 1,
      amax := live.foldl amax32 q.amax,
      e := if inv then q.e else add32 q.e e, s := if inv then q.s else add32 q.s s }

/-- Convert tile `tile` of a rows × cols matrix (R111, R120). -/
def quantTile (p : QParams) (x : Mat) (rows cols tile : Nat) : QTile :=
  let g := p.fmt.gridCols cols
  let r0 := tile / g * 128
  let c0 := tile % g * p.fmt.cw
  let n := p.fmt.blk
  (List.range p.fmt.codes).foldl (fun q b =>
    let r := r0 + n * b / p.fmt.cw
    let c := c0 + n * b % p.fmt.cw
    let xs := (List.range n).map fun i => if r < rows ∧ c + i < cols then x.at r (c + i) else 0
    let vs := (List.range n).map fun i => decide (r < rows ∧ c + i < cols)
    quantBlock p tile b xs vs q) QTile.start

/-- The stored tile (R111, R112, R119, R273). -/
def QTile.img (p : QParams) (q : QTile) : TileImg :=
  let tr : Trailer := { t := p.t, rot := p.rot, axis := p.axis, mode := p.mode + if p.stoch then 4 else 0,
                        stream := if p.rot = 0 then 0 else p.rotStream, ctrHi := if p.rot = 0 then 0 else p.ctrHi }
  TileImg.seal p.fmt
    { data := packCodes p.fmt q.codes.reverse.flatten,
      side := q.s8.reverse.map (BitVec.ofNat 8) ++ tr.bytes
        ++ if p.fmt.husks then huskBytes p.cap q.ovf q.husks else [] }

/-- What a conversion produced. -/
structure QOut where
  tiles : List TileImg
  counts : QCounts
  ex : Exc
  invalid : Nat
  elements : Nat
  blocks : Nat
  amax : Nat
  e : Nat
  s : Nat
  deriving DecidableEq, Repr

/-- Convert a rows × cols matrix, tile by tile (R100, R125). -/
def quantMat (p : QParams) (x : Mat) (rows cols : Nat) : QOut :=
  (List.range (p.fmt.grid rows cols)).foldl (fun o i =>
    let q := quantTile p x rows cols i
    { tiles := o.tiles ++ [q.img p], counts := o.counts.add q.counts, ex := o.ex.add q.ex, invalid := o.invalid + q.invalid,
      elements := o.elements + q.elements, blocks := o.blocks + q.blocks, amax := amax32 o.amax q.amax,
      e := add32 o.e q.e, s := add32 o.s q.s })
    { tiles := [], counts := QCounts.zero, ex := Exc.none, invalid := 0, elements := 0, blocks := 0, amax := 0, e := 0, s := 0 }

/-! ### Long formats -/

/-- The tiles of a rows × cols matrix in a long format, narrowed with `rnd` by row and column (R78, R79, R270), and the
exceptions of the narrowing. -/
def longTiles (k : Fmt) (x : Mat) (rows cols : Nat) (rnd : Nat → Nat → Rnd) : List TileImg × Exc :=
  let g := k.gridCols cols
  (List.range (k.grid rows cols)).foldl (fun o i =>
    let cs := (List.range k.elems).map fun p =>
      let r := i / g * 128 + p / k.cw
      let c := i % g * k.cw + p % k.cw
      if r < rows ∧ c < cols then
        (if k.elem = 0 then (x.at r c, Exc.none) else fmt32.conv k.long (rnd r c) (x.at r c))
      else (0, Exc.none)
    (o.1 ++ [TileImg.seal k { data := packCodes k (cs.map fun c => c.1), side := [] }],
      cs.foldl (fun e c => e.add c.2) o.2)) ([], Exc.none)

end Sys2Proof.Machine
end

