-- ==== Sys2Proof/Machine/VectorCore.lean ====
section
/-! DEFINITION. The arithmetic of the vector unit: op lists, row reductions, function tables, the fused kernels and the
plausibility checks (R170 to R183, R189 to R194). -/

namespace Sys2Proof.Machine

/-! ### Arithmetic that counts its exceptions -/

/-- A computation that counts the exception conditions of R77. -/
abbrev FM := StateM Exc

/-- Count the exceptions of a result. -/
def fm (x : Nat × Exc) : FM Nat := fun e => (x.1, e.add x.2)

def fAdd (a b : Nat) : FM Nat := fm (fmt32.add .rne a b)
def fSub (a b : Nat) : FM Nat := fm (fmt32.sub .rne a b)
def fMul (a b : Nat) : FM Nat := fm (fmt32.mul .rne a b)
def fDiv (a b : Nat) : FM Nat := fm (fmt32.div .rne a b)
def fFma (a b c : Nat) : FM Nat := fm (fmt32.fma .rne a b c)
def fSqrt (a : Nat) : FM Nat := fm (fmt32.sqrt .rne a)

/-- An integer in binary32. -/
def nat32 (n : Nat) : Nat := (fmt32.pack .rne false n 0 false).1

/-! ### Row reductions (R177) -/

/-- One level of a pairwise tree; an absent member takes no part. -/
def pairsWith (f : Nat → Nat → FM Nat) : List (Option Nat) → FM (List (Option Nat))
  | some a :: some b :: t => do
    let x ← f a b
    let r ← pairsWith f t
    pure (some x :: r)
  | none :: b :: t => do
    let r ← pairsWith f t
    pure (b :: r)
  | a :: none :: t => do
    let r ← pairsWith f t
    pure (a :: r)
  | l => pure l

/-- A pairwise tree of `n` levels. -/
def treeWith (f : Nat → Nat → FM Nat) : Nat → List (Option Nat) → FM (Option Nat)
  | 0, l => pure (l.headD none)
  | n + 1, l => do
    let r ← pairsWith f l
    treeWith f n r

/-- Chunk `c` of a row; positions beyond its end hold `pad`. -/
def rowChunk (pad : Option Nat) (row : Array (Option Nat)) (c : Nat) : List (Option Nat) :=
  (List.range 128).map fun i => if 128 * c + i < row.size then row.getD (128 * c + i) none else pad

/-- The row sum: chunks of 128 in a pairwise tree, added from +0 in ascending order. -/
def rowSum (row : Array (Option Nat)) : FM Nat :=
  (List.range ((row.size + 127) / 128)).foldlM (fun acc c => do
    let x ← treeWith fAdd 7 (rowChunk (some 0) row c)
    match x with
    | none => pure acc
    | some v => fAdd acc v) 0

/-- maximum (R80). -/
def fMax (a b : Nat) : FM Nat := fm (fmt32.max a b)

/-- The row maximum; −∞ where no position takes part (R191). -/
def rowMax (row : Array (Option Nat)) : FM Nat := do
  let r ← (List.range ((row.size + 127) / 128)).foldlM (fun (acc : Option Nat) c => do
    let x ← treeWith fMax 7 (rowChunk none row c)
    match acc, x with
    | none, _ => pure x
    | _, none => pure acc
    | some a, some v => do
      let y ← fMax a v
      pure (some y)) none
  pure (r.getD (fmt32.inf + fmt32.signBit))

/-! ### Function tables (R180 to R184) -/

/-- Where `x` lies in a uniform table from `lo` with segments of 2^`lw`: below it, above it, or in segment `i` at `t`. -/
inductive Place where
  | below | above
  | seg (i t : Nat)
  deriving DecidableEq, Repr

/-- Segment and position of the dyadic m · 2^q in segments of 2^`lw`. -/
def segOf (m : Nat) (q lw : Int) : Nat × Nat :=
  if lw ≤ q then (m <<< (q - lw).toNat, 0)
  else
    let sh := (lw - q).toNat
    (m >>> sh, (fmt32.pack .rne false (m % 2 ^ sh) (-(sh : Int)) false).1)

/-- Place a value that is not a NaN. -/
def placeIn (lo : Nat) (lw : Int) (x : Nat) : Place :=
  match fmt32.dec x, fmt32.dec lo with
  | .inf s, _ => if s then .below else .above
  | .fin s m e, .fin s1 m1 e1 =>
    let q := min e e1
    let d := alignInt s m e q - alignInt s1 m1 e1 q
    if d < 0 then .below
    else if ¬ magLt d.toNat q 1024 lw then .above
    else
      let (i, t) := segOf d.toNat q lw
      .seg i t
  | _, _ => .above

/-- The polynomial of a segment (R180), and what it meets: an invalid operation or an overflow of either step, and the underflow of
its result (R183). -/
def segEval (coef : Nat → Nat → Nat) (i t : Nat) : Nat × Exc :=
  let (p, e1) := fmt32.fma .rne (coef i 2) t (coef i 1)
  let (y, e2) := fmt32.fma .rne p t (coef i 0)
  (y, { e2 with inv := e1.inv + e2.inv, ovf := e1.ovf + e2.ovf })

/-- Coefficients of a built-in table (R181): table 2·ID for the value, 2·ID + 1 for the derivative. -/
def builtinCoef (tbl : Nat) (i k : Nat) : Nat := (Config.tableCoef tbl i k).toNat

/-- g · 2^k, rounded once where it must be (R182). -/
def scale32 (g : Nat) (k : Int) : Nat × Exc :=
  match fmt32.dec g with
  | .fin s m e => fmt32.pack .rne s m (e + k) false
  | _ => (g, Exc.none)

/-- Whether an operand is one of the zeros and infinities that R182 lists as special values. -/
def specialOperand (x : Nat) : Bool := fmt32.isZero x || fmt32.isInf x

/-- The counts of one evaluation at `x`, which is one operation (R183): each condition at most once, and inexact unless the operand
is a special value. -/
def evalExc (x : Nat) (ex : Exc) : Exc :=
  { inv := min 1 ex.inv, dz := min 1 ex.dz, ovf := min 1 ex.ovf, unf := min 1 ex.unf, inx := if specialOperand x then 0 else 1 }

/-- A table value scaled by 2^`k`, and what both meet (R182). -/
def scaleSeg (g : Nat × Exc) (k : Int) : Nat × Exc :=
  let (r, e) := scale32 g.1 k
  (r, { e with inv := g.2.inv + e.inv, ovf := g.2.ovf + e.ovf })

/-- log2(e) to 48 bits, as a multiple of 2^−47 (R182). -/
def log2e48 : Nat := 203041276517400

/-- The EXP path (R182). -/
def fnExp (x : Nat) : Nat × Exc :=
  match fmt32.dec x with
  | .nan _ => (fmt32.nanOf [x]).getD (fmt32.qnan, Exc.none)
  | .inf s => (if s then 0 else fmt32.inf, Exc.none)
  | .fin s m e =>
    if m = 0 then (0x3F800000, Exc.none)
    else
      let p := m * log2e48
      let q := e - 47
      let sh := bitLen p - 48
      let v := (roundQ .rne false p q false (q + sh)).1
      let k := q + sh
      let top := k + bitLen v
      let (n, f) : Int × Nat :=
        if 11 < top then (if s then -1000 else 1000, 0)
        else if 0 ≤ k then ((if s then -1 else 1) * ((v <<< k.toNat : Nat) : Int), 0)
        else
          let d := (-k).toNat
          let w : Int := if s then -(v : Int) else v
          (w / 2 ^ d, (w % 2 ^ d).toNat)
      let (i, t) := segOf f k (-10)
      let (r, ex) := scaleSeg (segEval (builtinCoef 12) i t) n
      (r, evalExc x ex)

/-- A positive finite value as 2^e · m with m in [1, 2): the exponent, and m as a multiple of 2^−23. -/
def normal32 (m : Nat) (e : Int) : Int × Nat :=
  let n := bitLen m
  (e + n - 1, m <<< (24 - n))

/-- The RECIP path, value or derivative (R182). -/
def fnRecip (deriv : Bool) (x : Nat) : Nat × Exc :=
  match fmt32.dec x with
  | .nan _ => (fmt32.nanOf [x]).getD (fmt32.qnan, Exc.none)
  | .inf s =>
    if deriv then ((Config.derivCorner 8 (BitVec.ofNat 32 x)).toNat, Exc.none)
    else (if s then fmt32.signBit else 0, Exc.none)
  | .fin s m e =>
    if m = 0 then
      if deriv then ((Config.derivCorner 8 (BitVec.ofNat 32 x)).toNat, Exc.none)
      else ((if s then fmt32.signBit else 0) + fmt32.inf, { Exc.none with dz := 1 })
    else
      let (k, v) := normal32 m e
      let (i, t) := segOf (v - 2 ^ 23) (-23) (-10)
      if deriv then
        let (r, ex) := scaleSeg (segEval (builtinCoef 17) i t) (-2 * k)
        (r, evalExc x ex)
      else
        let (r, ex) := scaleSeg (segEval (builtinCoef 16) i t) (-k)
        (if s then fmt32.neg r else r, evalExc x ex)

/-- The LOG path (R182). -/
def fnLog (x : Nat) : Nat × Exc :=
  match fmt32.dec x with
  | .nan _ => (fmt32.nanOf [x]).getD (fmt32.qnan, Exc.none)
  | .inf s => if s then (fmt32.qnan, Exc.invalid) else (fmt32.inf, Exc.none)
  | .fin s m e =>
    if m = 0 then (fmt32.signBit + fmt32.inf, { Exc.none with dz := 1 })
    else if s then (fmt32.qnan, Exc.invalid)
    else
      let (k, v) := normal32 m e
      let (n, i, t) : Int × Nat × Nat :=
        if v < 0xC00000 then
          let (i, t) := segOf (v - 2 ^ 23) (-23) (-10)
          (k, i + 512, t)
        else
          let (i, t) := segOf (v - 0xC00000) (-24) (-11)
          (k + 1, i, t)
      let en := (fmt32.pack .rne (decide (n < 0)) n.natAbs 0 false).1
      let g := segEval (builtinCoef 14) i t
      let (r, ex) := fmt32.fma .rne en 0x3F317218 g.1
      (r, evalExc x { ex with inv := g.2.inv + ex.inv, ovf := g.2.ovf + ex.ovf })

/-- The RSQRT path, value or derivative (R182). -/
def fnRsqrt (deriv : Bool) (x : Nat) : Nat × Exc :=
  let corner := ((Config.derivCorner 9 (BitVec.ofNat 32 x)).toNat, Exc.none)
  match fmt32.dec x with
  | .nan _ => (fmt32.nanOf [x]).getD (fmt32.qnan, Exc.none)
  | .inf s => if deriv then corner else if s then (fmt32.qnan, Exc.invalid) else (0, Exc.none)
  | .fin s m e =>
    if m = 0 then
      if deriv then corner
      else ((if s then fmt32.signBit else 0) + fmt32.inf, { Exc.none with dz := 1 })
    else if s then (if deriv then corner else (fmt32.qnan, Exc.invalid))
    else
      let (k, v) := normal32 m e
      let (i, t) : Nat × Nat :=
        if k % 2 = 0 then segOf (v - 2 ^ 23) (-23) (-9)
        else
          let (i, t) := segOf (v - 2 ^ 23) (-22) (-8)
          (i + 512, t)
      let h := k / 2
      let (r, ex) := scaleSeg (segEval (builtinCoef (if deriv then 19 else 18)) i t) (if deriv then -3 * h else -h)
      (r, evalExc x ex)

/-- LO and log2 of the segment width of a built-in uniform table (R181). -/
def builtinTable (fn : Nat) : Option (Nat × Int) :=
  match fn with
  | 1 | 2 | 5 => some (0xC1000000, -6)
  | 3 | 4 | 10 => some (0xC1800000, -5)
  | _ => none

/-- What a built-in uniform table gives below it (R181); a product of SILU underflows by its own result. -/
def builtinBelow (fn : Nat) (deriv : Bool) (x : Nat) : Nat × Exc :=
  match fn with
  | 3 =>
    let e := fnExp x
    if deriv then e
    else
      let p := fmt32.mul .rne x e.1
      (p.1, { p.2 with ovf := e.2.ovf + p.2.ovf })
  | 4 | 10 => fnExp x
  | 5 => (if deriv then 0 else 0xBF800000, Exc.none)
  | _ => (0, Exc.none)

/-- What a built-in uniform table gives above it (R181). -/
def builtinAbove (fn : Nat) (deriv : Bool) (x : Nat) : Nat :=
  match fn with
  | 4 | 5 => if deriv then 0 else 0x3F800000
  | _ => if deriv then 0x3F800000 else x

/-- One coefficient of a user image (R184). -/
def userCoef (img : Bytes) (deriv : Bool) (i k : Nat) : Nat :=
  fieldLe img ((if deriv then 0x3040 else 0x40) + 12 * i + 4 * k) 4

/-- A tail of a user image (R184): 0 CONST, 1 IDENTITY, 2 LINEAR, 3 NAN. -/
def userTail (img : Bytes) (tail x : Nat) : Nat × Exc :=
  let a := fieldLe img (0x0C + 8 * tail) 4
  let b := fieldLe img (0x10 + 8 * tail) 4
  match fieldLe img (2 + tail) 1 with
  | 0 => (b, Exc.none)
  | 1 => (x, Exc.none)
  | 2 => fmt32.fma .rne a x b
  | _ => (fmt32.qnan, Exc.invalid)

/-- LOG2_W of a user image (R184). -/
def userLog2w (img : Bytes) : Int := (BitVec.ofNat 8 (fieldLe img 1 1)).toInt

/-- f(x) or f′(x) of function `fn`; `img` is the user image in force (R180 to R184). -/
def evalFn (img : Bytes) (fn : Nat) (deriv : Bool) (x : Nat) : Nat × Exc :=
  if fmt32.isNan x then (fmt32.nanOf [x]).getD (fmt32.qnan, Exc.none)
  else
    match fn with
    | 6 => fnExp x
    | 7 => if deriv then fnRecip false x else fnLog x
    | 8 => fnRecip deriv x
    | 9 => fnRsqrt deriv x
    | _ =>
      match builtinTable fn with
      | some (lo, lw) =>
        match placeIn lo lw x with
        | .below =>
          let (r, ex) := builtinBelow fn deriv x
          (r, evalExc x ex)
        | .above => (builtinAbove fn deriv x, evalExc x Exc.none)
        | .seg i t =>
          let (r, ex) := segEval (builtinCoef (2 * fn + if deriv then 1 else 0)) i t
          (r, evalExc x ex)
      | none =>
        match placeIn (fieldLe img 8 4) (userLog2w img) x with
        | .below =>
          let (r, ex) := userTail img (if deriv then 2 else 0) x
          (r, evalExc x ex)
        | .above =>
          let (r, ex) := userTail img (if deriv then 3 else 1) x
          (r, evalExc x ex)
        | .seg i t =>
          let (r, ex) := segEval (userCoef img deriv) i t
          (r, evalExc x ex)

/-! ### Op lists (R175, R176, R178, R179) -/

/-- An op word (R175). -/
structure VOp where
  op : Nat
  dst : Nat
  a : Nat
  b : Nat
  c : Nat
  rm : Nat
  fn : Nat
  imm : Nat
  deriving DecidableEq, Repr

/-- An op word by fields. -/
def VOp.ofWord (w : Nat) : VOp :=
  { op := bitsN w 7 0, dst := bitsN w 10 8, a := bitsN w 13 11, b := bitsN w 16 14, c := bitsN w 19 17,
    rm := bitsN w 22 20, fn := bitsN w 31 24, imm := bitsN w 63 32 }

/-- Whether an op ends a pass (R176). -/
def VOp.isRow (o : VOp) : Bool := decide (o.op = 0x11 ∨ o.op = 0x12)

/-- Whether an op word is well formed by itself; `loaded` tells which user functions are loaded (R176, R178). -/
def VOp.ok (loaded : Nat → Bool) (w : Nat) : Bool :=
  let o := VOp.ofWord w
  let fnOk := (decide (1 ≤ o.fn) && decide (o.fn ≤ 0x0A)) || (decide (0x80 ≤ o.fn) && decide (o.fn ≤ 0xBF) && loaded o.fn)
  decide (1 ≤ o.op) && decide (o.op ≤ 0x14) && !w.testBit 23 && decide (o.rm ≤ 4)
    && (match o.op with
        | 0x0B | 0x0C => fnOk
        | 0x0D => decide (1 ≤ o.fn) && decide (o.fn ≤ 6)
        | 0x10 => fmt32.isFin o.imm && fmt32.lt o.imm 0x3F800000 && fmt32.le 0 o.imm
        | 0x13 => decide (o.fn = 1) || decide (o.fn = 2)
        | 0x14 => decide (o.fn ≤ 1)
        | _ => true)

/-- The op words of an extended block (R175). -/
def opWords (blk : Bytes) : List Nat := (List.range (fieldLe blk 0 1)).map fun i => fieldLe blk (0x40 + 8 * i) 8

/-- Comparison by PRED_OP (R56, R57): false for a NaN, except NE. -/
def predHolds (k : FFmt) (op a b : Nat) : Bool :=
  match k.cmp a b with
  | none => decide (op = 2)
  | some o =>
    match op with
    | 1 => o == .eq
    | 2 => o != .eq
    | 3 => o == .lt
    | 4 => o != .gt
    | 5 => o == .gt
    | _ => o != .lt

/-- What an op list needs beside its registers: BF16 mode, the job seed, the dropout stream, the user images. -/
structure VEnv where
  bf : Bool
  seed : Nat
  drop : Nat
  img : Nat → Bytes

/-- The register format (R179). -/
def VEnv.fmt (v : VEnv) : FFmt := if v.bf then fmtBf else fmt32

/-- A register value in binary32. -/
def VEnv.widen (v : VEnv) (x : Nat) : Nat := if v.bf then (fmtBf.conv fmt32 .rne x).1 else x

/-- A binary32 value into the register format. -/
def VEnv.narrow (v : VEnv) (r : Rnd) (x : Nat) : Nat × Exc := if v.bf then fmt32.conv fmtBf r x else (x, Exc.none)

/-- A kept element of DROPOUT: A × g (R178); the two roundings that form g count nothing. DESIGN CHOICE: log entry 97. -/
def dropKeep (k : FFmt) (r : Rnd) (a p : Nat) : Nat × Exc :=
  let g := div32 0x3F800000 (sub32 0x3F800000 p)
  match k.dec a, fmt32.dec g with
  | .fin s m e, .fin _ m1 e1 => k.pack r s (m * m1) (e + e1) false
  | .nan _, _ => (k.nanOf [a]).getD (k.qnan, Exc.none)
  | _, _ => (a, Exc.none)

/-- The result of an op other than a row op at row `m`, column `n` (R176). A CMP counts a signalling NaN as invalid and a quiet one
not. DESIGN CHOICE: log entry 97. -/
def VOp.elem (v : VEnv) (o : VOp) (a b c m n : Nat) : Nat × Exc :=
  let k := v.fmt
  let r := Rnd.ofRm o.rm 0
  let one := if v.bf then 0x3F80 else 0x3F800000
  match o.op with
  | 0x01 => k.add r a b
  | 0x02 => k.sub r a b
  | 0x03 => k.mul r a b
  | 0x04 => k.fma r a b c
  | 0x05 => k.div r a b
  | 0x06 => k.sqrt r a
  | 0x07 => k.max a b
  | 0x08 => k.min a b
  | 0x09 => (k.abs a, Exc.none)
  | 0x0A => (k.neg a, Exc.none)
  | 0x0B =>
    let (y, e) := evalFn (v.img o.fn) o.fn false (v.widen a)
    let (z, e1) := v.narrow .rne y
    (z, e.add e1)
  | 0x0C =>
    let (y, e) := evalFn (v.img o.fn) o.fn true (v.widen a)
    let (z, e1) := v.narrow .rne y
    (z, e.add e1)
  | 0x0D => (if predHolds k o.fn a b then one else 0, if k.isSnan a || k.isSnan b then Exc.invalid else Exc.none)
  | 0x0E => (if k.isZero c then b else a, Exc.none)
  | 0x0F => v.narrow r o.imm
  | 0x10 =>
    let (pm, pe) := magOf o.imm
    let lim := (roundQ .rtz false pm pe false (-32)).1
    if draw (rngKey v.seed v.drop m) n < lim then (0, Exc.none) else dropKeep k r a o.imm
  | 0x13 =>
    let dst := if o.fn = 1 then fmt16 else fmtBf
    let (y, e) := fmt32.conv dst r (v.widen a)
    let (z, e1) := dst.conv fmt32 .rne y
    let (w, e2) := v.narrow r z
    (w, (e.add e1).add e2)
  | _ => v.narrow .rne (nat32 (if o.fn = 0 then m else n))

/-- The result of a row op over a row: ROWSUM or ROWMAX (R177), rounded once to BF16 under the op's RM (R179). -/
def VOp.row (v : VEnv) (o : VOp) (row : Array Nat) : Nat × Exc :=
  let xs := row.map fun x => some (v.widen x)
  let (y, e) := (if o.op = 0x11 then rowSum xs else rowMax xs) Exc.none
  let (z, e1) := v.narrow (Rnd.ofRm o.rm 0) y
  (z, e.add e1)

/-- Run one op over the whole registers. -/
def VOp.run (v : VEnv) (rows cols : Nat) (o : VOp) (st : Array Mat × Exc) : Array Mat × Exc :=
  let reg := fun i => st.1.getD i #[]
  let (out, ex) := (List.range rows).foldl (fun (acc : Mat × Exc) m =>
    if o.isRow then
      let (y, e) := o.row v ((reg o.a).getD m #[])
      (acc.1.push ((List.replicate cols y).toArray), acc.2.add e)
    else
      let (row, e) := (List.range cols).foldl (fun (r : Array Nat × Exc) n =>
        let (y, e) := o.elem v ((reg o.a).at m n) ((reg o.b).at m n) ((reg o.c).at m n) m n
        (r.1.push y, r.2.add e)) (#[], acc.2)
      (acc.1.push row, e)) (#[], st.2)
  (st.1.set! o.dst out, ex)

/-! ### What a VECTOR produces -/

/-- A failed check (R192, R194): CHECK, lowest row, how many, value observed and bound there. -/
structure VCheck where
  check : Nat
  row : Nat
  count : Nat
  observed : Nat
  bound : Nat
  deriving DecidableEq, Repr

/-- The outputs in binary32 before narrowing; OUT1 with its columns; exceptions; the checks that fail. -/
structure VOut where
  out0 : Mat
  out1 : Mat
  ex : Exc
  checks : List VCheck
  deriving DecidableEq, Repr

/-- Keep a failing row or element of check `c`: the first gives ROW, OBSERVED and BOUND. -/
def noteCheck (c row observed bound : Nat) : List VCheck → List VCheck
  | [] => [{ check := c, row := row, count := 1, observed := observed, bound := bound }]
  | x :: t =>
    if x.check = c then { x with count := min (x.count + 1) (2 ^ 32 - 1) } :: t else x :: noteCheck c row observed bound t

/-- The parameters of R173. -/
structure VParams where
  kernel : Nat
  causal : Bool
  chkRange : Bool
  chkNorm : Bool
  chkSoftmax : Bool
  p0 : Nat
  lo : Nat
  hi : Nat
  tolS : Nat
  tolN : Nat
  offset : Int
  deriving DecidableEq, Repr

/-- The parameters that 24 PARAMS bytes hold (R173). -/
def VParams.ofBytes (p : Bytes) : VParams :=
  let mode := fieldLe p 1 1
  { kernel := fieldLe p 0 1, causal := mode.testBit 1, chkRange := mode.testBit 2, chkNorm := mode.testBit 3,
    chkSoftmax := mode.testBit 4, p0 := fieldLe p 4 4, lo := fieldLe p 8 4, hi := fieldLe p 0xC 4,
    tolS := if fieldLe p 0x14 1 = 0 then 10 else fieldLe p 0x14 1,
    tolN := if fieldLe p 0x15 1 = 0 then 8 else fieldLe p 0x15 1,
    offset := (BitVec.ofNat 16 (fieldLe p 0x16 2)).toInt }

/-- Whether column `j` of row `i` is masked (R191). -/
def VParams.masked (p : VParams) (i j : Nat) : Bool := p.causal && decide ((i : Int) + p.offset < j)

/-- 2^−n in binary32. -/
def powNeg (n : Nat) : Nat := (127 - n) * 2 ^ 23

/-- The range check over OUT0 before narrowing (R192); a row with every element masked has no check (R191). -/
def rangeChecks (p : VParams) (out : Mat) (cs : List VCheck) : List VCheck :=
  if ¬ p.chkRange then cs
  else
    (List.range out.size).foldl (fun acc r =>
      (out.getD r #[]).foldl (fun acc x =>
        if p.masked r 0 || !fmt32.isFin x then acc
        else if fmt32.lt x p.lo then noteCheck 4 r x p.lo acc
        else if fmt32.lt p.hi x then noteCheck 4 r x p.hi acc
        else acc) acc) cs

/-- A row check: a compared value that is a NaN makes no check (R192). -/
def rowCheck (c row observed diff tol : Nat) (cs : List VCheck) : List VCheck :=
  if fmt32.isNan diff then cs else if fmt32.lt tol (fmt32.abs diff) then noteCheck c row observed tol cs else cs

/-- Run an op list (R175 to R179): inputs by register, then the two output registers. -/
def runOpList (v : VEnv) (p : VParams) (rows cols : Nat) (ins : List Mat) (ops : List VOp) (o0 o1 : Nat) : VOut :=
  let load := fun (m : Mat) => (List.range rows).foldl (fun (acc : Mat × Exc) r =>
    let (row, e) := (List.range cols).foldl (fun (a : Array Nat × Exc) c =>
      let (y, e) := v.narrow .rne (m.at r c)
      (a.1.push y, a.2.add e)) (#[], acc.2)
    (acc.1.push row, e)) (#[], Exc.none)
  let st0 := (List.range 8).foldl (fun (acc : Array Mat × Exc) i =>
    let (m, e) := load (ins.getD i #[])
    (acc.1.push m, acc.2.add e)) (#[], Exc.none)
  let st := ops.foldl (fun acc o => o.run v rows cols acc) st0
  let out := fun i => (st.1.getD i #[]).map fun row => row.map v.widen
  let y := out o0
  { out0 := y, out1 := if o1 = 0xFF then #[] else out o1, ex := st.2, checks := rangeChecks p y [] }

/-! ### Kernels (R189 to R191) -/

/-- What a kernel gives for one row: output, statistics, the terms of its band sums, and its checks. -/
structure KRow where
  y : Array Nat
  stats : List Nat
  band : List (Array Nat)
  checks : List VCheck → List VCheck

/-- Every position of a row takes part. -/
def allIn (x : List Nat) : Array (Option Nat) := (x.map some).toArray

/-- rsqrt, exp and recip as the built-in paths (R190). -/
def fRsqrt (x : Nat) : FM Nat := fm (fnRsqrt false x)
def fExp (x : Nat) : FM Nat := fm (fnExp x)
def fRecip (x : Nat) : FM Nat := fm (fnRecip false x)

/-- The sum that the checker forms, outside the counts of R77 (R192). DEDUCED: log entry 49. -/
def chkSum (x : List Nat) : Nat := (rowSum (allIn x) Exc.none).1

/-- rmsnorm_fwd of a row. -/
def rmsnormFwdRow (p : VParams) (i : Nat) (x gam : List Nat) : FM KRow := do
  let n := nat32 x.length
  let sq ← x.mapM fun v => fMul v v
  let sum ← rowSum (allIn sq)
  let ms ← fDiv sum n
  let me ← fAdd ms p.p0
  let r ← fRsqrt me
  let xh ← x.mapM fun v => fMul v r
  let y ← (xh.zip gam).mapM fun v => fMul v.1 v.2
  let obs := div32 (chkSum (xh.map fun v => mul32 v v)) n
  pure { y := y.toArray, stats := [r], band := [],
         checks := fun cs => if p.chkNorm then rowCheck 3 i obs (sub32 obs (mul32 (mul32 ms r) r)) (powNeg p.tolN) cs else cs }

/-- rmsnorm_bwd of a row. -/
def rmsnormBwdRow (dy x gam : List Nat) (r : Nat) : FM KRow := do
  let n := nat32 x.length
  let g ← (dy.zip gam).mapM fun v => fMul v.1 v.2
  let gx ← (g.zip x).mapM fun v => fMul v.1 v.2
  let a ← rowSum (allIn gx)
  let k0 ← fDiv a n
  let k1 ← fMul k0 r
  let k2 ← fMul k1 r
  let k ← fMul k2 r
  let dx ← (x.zip g).mapM fun v => do
    let rg ← fMul r v.2
    fFma (fmt32.neg v.1) k rg
  let xh ← x.mapM fun v => fMul v r
  let t ← (dy.zip xh).mapM fun v => fMul v.1 v.2
  pure { y := dx.toArray, stats := [], band := [t.toArray], checks := fun cs => cs }

/-- layernorm_fwd of a row. -/
def layernormFwdRow (p : VParams) (i : Nat) (x gam beta : List Nat) : FM KRow := do
  let n := nat32 x.length
  let s ← rowSum (allIn x)
  let mu ← fDiv s n
  let d ← x.mapM fun v => fSub v mu
  let sq ← d.mapM fun v => fMul v v
  let s2 ← rowSum (allIn sq)
  let var ← fDiv s2 n
  let ve ← fAdd var p.p0
  let r ← fRsqrt ve
  let xh ← d.mapM fun v => fMul v r
  let y ← (xh.zip (gam.zip beta)).mapM fun v => fFma v.1 v.2.1 v.2.2
  let mean := div32 (chkSum xh) n
  let obs := div32 (chkSum (xh.map fun v => mul32 v v)) n
  pure { y := y.toArray, stats := [mu, r], band := [],
         checks := fun cs =>
           if p.chkNorm then
             rowCheck 3 i obs (sub32 obs (mul32 (mul32 var r) r)) (powNeg p.tolN)
               (rowCheck 2 i mean mean (powNeg p.tolN) cs)
           else cs }

/-- layernorm_bwd of a row. -/
def layernormBwdRow (dy x gam : List Nat) (mu r : Nat) : FM KRow := do
  let n := nat32 x.length
  let xh ← x.mapM fun v => do
    let d ← fSub v mu
    fMul d r
  let g ← (dy.zip gam).mapM fun v => fMul v.1 v.2
  let sa ← rowSum (allIn g)
  let a ← fDiv sa n
  let gx ← (g.zip xh).mapM fun v => fMul v.1 v.2
  let sb ← rowSum (allIn gx)
  let b ← fDiv sb n
  let dx ← (xh.zip g).mapM fun v => do
    let ga ← fSub v.2 a
    let t ← fFma (fmt32.neg v.1) b ga
    fMul r t
  let t ← (dy.zip xh).mapM fun v => fMul v.1 v.2
  pure { y := dx.toArray, stats := [], band := [t.toArray, dy.toArray], checks := fun cs => cs }

/-- softmax_fwd of a row. -/
def softmaxFwdRow (p : VParams) (i : Nat) (x : List Nat) : FM KRow := do
  let js := List.range x.length
  let live := fun j => !p.masked i j
  if js.all fun j => !live j then
    pure { y := (x.map fun _ => 0).toArray, stats := [fmt32.inf + fmt32.signBit, 0], band := [], checks := fun cs => cs }
  else do
    let u ← (x.zip js).mapM fun (v : Nat × Nat) => if live v.2 then do
        let t ← fMul v.1 p.p0
        pure (some t)
      else pure none
    let m ← rowMax u.toArray
    let e ← u.mapM fun (v : Option Nat) => match v with
      | none => pure none
      | some t => do
        let d ← fSub t m
        let y ← fExp d
        pure (some y)
    let z ← rowSum e.toArray
    let y ← e.mapM fun (v : Option Nat) => match v with
      | none => pure 0
      | some t => do
        let q ← fRecip z
        fMul t q
    let sum := (rowSum ((y.zip js).map fun (v : Nat × Nat) => if live v.2 then some v.1 else none).toArray Exc.none).1
    pure { y := y.toArray, stats := [m, z], band := [],
           checks := fun cs =>
             if p.chkSoftmax then rowCheck 1 i sum (sub32 sum 0x3F800000) (powNeg p.tolS) cs else cs }

/-- softmax_bwd of a row. -/
def softmaxBwdRow (p : VParams) (i : Nat) (dy y : List Nat) : FM KRow := do
  let js := List.range y.length
  let live := fun j => !p.masked i j
  let t ← ((dy.zip y).zip js).mapM fun (v : (Nat × Nat) × Nat) => if live v.2 then do
      let q ← fMul v.1.1 v.1.2
      pure (some q)
    else pure none
  let c ← rowSum t.toArray
  let dx ← ((dy.zip y).zip js).mapM fun (v : (Nat × Nat) × Nat) => if live v.2 then do
      let d ← fSub v.1.1 c
      let q ← fMul v.1.2 d
      fMul q p.p0
    else pure 0
  pure { y := dx.toArray, stats := [], band := [], checks := fun cs => cs }

/-- A band-sum tensor (R189): row β holds, by column, the pairwise tree over rows 128β to 128β + 127. -/
def bandSums (rows : Nat) (terms : Array (Array Nat)) (cols : Nat) : FM Mat := do
  let rs ← (List.range ((rows + 127) / 128)).mapM fun b => do
    let row ← (List.range cols).mapM fun c => do
      let x ← treeWith fAdd 7 ((List.range 128).map fun i =>
        some (if 128 * b + i < rows then (terms.getD (128 * b + i) #[]).getD c 0 else 0))
      pure (x.getD 0)
    pure row.toArray
  pure rs.toArray

/-- Run a fused kernel over its rows (R189, R190). The inputs are broadcast over the task's shape (R172); only the stats input keeps
its own columns. -/
def runKernel (p : VParams) (rows cols : Nat) (ins : List Mat) (stats1 : Bool) : VOut :=
  let inp := fun i r => (((ins.getD i #[]).getD r #[]).toList)
  let go : FM (List KRow) := (List.range rows).mapM fun r =>
    let a := inp 0 r
    let b := inp 1 r
    let c := inp 2 r
    let d := inp 3 r
    match p.kernel with
    | 1 => rmsnormFwdRow p r a b
    | 2 => rmsnormBwdRow a b c (d.getD 0 0)
    | 3 => layernormFwdRow p r a b c
    | 4 => layernormBwdRow a b c (d.getD 0 0) (d.getD 1 0)
    | 5 => softmaxFwdRow p r a
    | _ => softmaxBwdRow p r a b
  let (ks, e0) := go Exc.none
  let y := (ks.map fun k => k.y).toArray
  let bands := (ks.map fun k => (k.band.foldl (fun a b => a ++ b) #[])).toArray
  let width := if p.kernel = 4 then 2 * cols else cols
  let (o1, e1) :=
    if p.kernel = 2 ∨ p.kernel = 4 then bandSums rows bands width e0
    else ((ks.map fun k => k.stats.toArray).toArray, e0)
  { out0 := y, out1 := if stats1 then o1 else #[], ex := e1,
    checks := rangeChecks p y (ks.foldl (fun cs k => k.checks cs) []) }

/-- A non-finite element of a stored output whose inputs are all finite (R193), in row order; `fine` tells whether the
inputs for the output at a place are all finite. -/
def vectorNonFin (k : FFmt) (out : Mat) (fine : Nat → Nat → Bool) : Option NonFin :=
  (List.range out.size).findSome? fun r =>
    let row := out.getD r #[]
    ((List.range row.size).find? fun c =>
      (let y := (fmt32.conv k .rne (row.getD c 0)).1; !k.isFin y) && fine r c).map fun c =>
        { origin := 2, row := r, col := c,
          val := (k.conv fmt32 .rne (fmt32.conv k .rne (row.getD c 0)).1).1 }

end Sys2Proof.Machine
end

