-- ==== Sys2Proof/Machine/OptimCore.lean ====
section
/-! DEFINITION. The arithmetic of the update engine: scalar constants, ADAM and SGDM, moments at rest, compression with
error feedback, squared norms, masks and the update sums (R203 to R211), and one conversion as QUANTIZE makes it (R104
to R108, R115 to R118). -/

namespace Sys2Proof.Machine

/-! ### Conversion parameters (R101) -/

/-- The PARAMS of a QUANTIZE (R101), also those of a copy (R200). -/
structure QSpec where
  outlier : Nat
  axis : Bool
  tFixed : Bool
  stoch : Bool
  rot : Nat
  slot : Nat
  rotStream : Nat
  ctrHi : Nat
  srStream : Nat
  fixedT : Nat
  deriving DecidableEq, Repr

/-- The parameters that 24 bytes hold. -/
def QSpec.ofBytes (p : Bytes) : QSpec :=
  let mode := fieldLe p 0 1
  let rot := fieldLe p 2 1 % 8
  { outlier := mode % 4, axis := mode.testBit 2, tFixed := mode.testBit 3, stoch := decide (fieldLe p 1 1 % 8 = 5),
    rot := rot, slot := fieldLe p 4 2, rotStream := if rot = 0 then 0 else fieldLe p 8 4,
    ctrHi := if rot = 0 then 0 else fieldLe p 0xC 4, srStream := fieldLe p 0x10 4, fixedT := fieldLe p 0x14 4 }

/-- What one conversion of a tensor gives: its tiles and counts, the tensor scale, whether R90 clamped it, the rotation's
exceptions and its non-finite value. -/
structure Conversion where
  out : QOut
  t : Nat
  clamped : Bool
  ex : Exc
  nonFin : Option NonFin
  deriving DecidableEq, Repr

/-- Rotate a matrix along its columns (R115). -/
def rotateMat (rot seed stream ctrHi : Nat) (x : Mat) : Mat × Exc × Option NonFin :=
  if rot = 0 then (x, Exc.none, none)
  else
    (List.range x.size).foldl (fun (acc : Mat × Exc × Option NonFin) r =>
      let (row, e, nf) := rotateRow (rotSize rot) (rngKey seed stream 0) ctrHi r (x.getD r #[])
      (acc.1.push row, acc.2.1.add e, firstNf acc.2.2 nf)) (#[], Exc.none, none)

/-- Convert a matrix whose rows lie along the contraction (R104 to R108, R118, R120): format, parameters with their
streams resolved, the scale-table entry, the outlier mode in force, and the rotation record the tiles carry when the
source is short. -/
def convert (fmt : Fmt) (q : QSpec) (entry : ScaleEntry) (outlier : Nat) (seed rotStream srStream : Nat) (x : Mat)
    (rows cols : Nat) (kept : Option (Nat × Bool × Nat × Nat)) : Conversion :=
  let (t, cl) := if q.tFixed then clampT q.fixedT else entry.tensorScale fmt.elem
  let (y, e, nf) := rotateMat q.rot seed rotStream q.ctrHi x
  let rec4 := kept.getD (q.rot, q.axis, rotStream, q.ctrHi)
  let p : QParams :=
    { fmt := fmt, t := t, mode := outlier, stoch := q.stoch, seed := seed, stream := srStream, rho := entry.rho,
      cap := entry.cap, rot := rec4.1, axis := rec4.2.1, rotStream := rec4.2.2.1, ctrHi := rec4.2.2.2 }
  { out := quantMat p y rows cols, t := t, clamped := cl, ex := e, nonFin := nf }

/-! ### Sums in the order of R125 -/

/-- The sum over a rows × cols matrix in the tile and block order of a format (R125 steps 1 to 3). -/
def orderedSum (fmt : Fmt) (rows cols : Nat) (f : Nat → Nat → Nat) : FM Nat :=
  let g := fmt.gridCols cols
  let n := if fmt.short then fmt.blk else 16
  (List.range (fmt.grid rows cols)).foldlM (fun total i => do
    let tile ← (List.range (fmt.elems / n)).foldlM (fun acc b => do
      let r := i / g * 128 + n * b / fmt.cw
      let c := i % g * fmt.cw + n * b % fmt.cw
      if r < rows ∧ c < cols then do
        let x ← treeWith fAdd 5 ((List.range n).map fun k => some (if c + k < cols then f r (c + k) else 0))
        fAdd acc (x.getD 0)
      else pure acc) 0
    fAdd total tile) 0

/-! ### Scalar constants (R203) -/

/-- binary32 widened to binary64. -/
def to64 (x : Nat) : Nat := (fmt32.conv fmt64 .rne x).1

/-- One rounding of a binary64 value to binary32. -/
def r32 (x : Nat) : Nat := (fmt64.conv fmt32 .rne x).1

/-- 1.0 in binary64. -/
def one64 : Nat := 0x3FF0000000000000

def mul64 (a b : Nat) : Nat := (fmt64.mul .rne a b).1
def sub64 (a b : Nat) : Nat := (fmt64.sub .rne a b).1
def div64 (a b : Nat) : Nat := (fmt64.div .rne a b).1
def sqrt64 (a : Nat) : Nat := (fmt64.sqrt .rne a).1

/-- b^t by square-and-multiply, least significant bit of t first. -/
def pow64 : Nat → Nat → Nat → Nat → Nat
  | 0, _, _, acc => acc
  | n + 1, b, t, acc =>
    if t = 0 then acc else pow64 n (mul64 b b) (t / 2) (if t % 2 = 1 then mul64 acc b else acc)

/-- The hyperparameters of an extended block (R200). -/
structure Hyper where
  lr : Nat
  beta1 : Nat
  beta2 : Nat
  eps : Nat
  wd : Nat
  dampen : Nat
  clipNorm : Nat
  gradScale : Nat
  origin : Nat
  deriving DecidableEq, Repr

/-- The hyperparameters that a block holds. -/
def Hyper.ofBytes (b : Bytes) : Hyper :=
  { lr := fieldLe b 0x20 4, beta1 := fieldLe b 0x24 4, beta2 := fieldLe b 0x28 4, eps := fieldLe b 0x2C 4,
    wd := fieldLe b 0x30 4, dampen := fieldLe b 0x34 4, clipNorm := fieldLe b 0x38 4, gradScale := fieldLe b 0x40 4,
    origin := fieldLe b 0x48 8 }

/-- The constants of an UPDATE (R203). -/
structure UpdK where
  adam : Bool
  nesterov : Bool
  beta1 : Nat
  beta2 : Nat
  alpha : Nat
  eps : Nat
  lrwd : Nat
  omb1 : Nat
  omb2 : Nat
  omd : Nat
  k : Nat
  deriving DecidableEq, Repr

/-- c of R203; `g2` is the squared norm when CLIP is set. -/
def clipFactor (clipNorm : Nat) (g2 : Option Nat) : Nat :=
  match g2 with
  | none => one64
  | some g =>
    if fmt32.isNan g then fmt64.qnan
    else
      let q := sqrt64 (to64 g)
      if fmt64.lt (to64 clipNorm) q then div64 (to64 clipNorm) q else one64

/-- Form the constants for step `step`. The binary64 operations and the roundings to binary32 count no exceptions. DESIGN CHOICE: log
entry 97. -/
def updConsts (adam nesterov noBias : Bool) (h : Hyper) (g2 : Option Nat) (step : Nat) : UpdK :=
  let t := if step + 1 ≤ h.origin then 1 else max 1 (step + 1 - h.origin)
  let bias := adam && !noBias
  let bc := fun b => if bias then sub64 one64 (pow64 64 (to64 b) t one64) else one64
  let bc1 := bc h.beta1
  let root := sqrt64 (bc h.beta2)
  let omx := fun x => r32 (sub64 one64 (to64 x))
  let gs := if fmt32.isZero h.gradScale then 0x3F800000 else h.gradScale
  { adam := adam, nesterov := nesterov, beta1 := h.beta1, beta2 := h.beta2,
    alpha := if adam then r32 (div64 (mul64 (to64 h.lr) root) bc1) else h.lr,
    eps := r32 (mul64 (to64 h.eps) root), lrwd := r32 (mul64 (to64 h.lr) (to64 h.wd)),
    omb1 := omx h.beta1, omb2 := omx h.beta2, omd := omx h.dampen,
    k := r32 (mul64 (clipFactor h.clipNorm g2) (to64 gs)) }

/-! ### Elements (R204, R205) -/

/-- An element's results: new weight, moments, and dw. -/
structure UpdElt where
  w : Nat
  m : Nat
  v : Nat
  dw : Nat
  deriving DecidableEq, Repr

/-- One element under ADAM or SGDM. -/
def updElt (k : UpdK) (g w mOld vOld : Nat) : FM UpdElt := do
  let g1 ← fMul g k.k
  let (m, v, d) ← if k.adam then do
      let a ← fMul k.omb1 g1
      let m ← fFma k.beta1 mOld a
      let sq ← fMul g1 g1
      let b ← fMul k.omb2 sq
      let v ← fFma k.beta2 vOld b
      let rt ← fSqrt v
      let den ← fAdd rt k.eps
      let d ← fDiv m den
      pure (m, v, d)
    else do
      let a ← fMul k.omd g1
      let m ← fFma k.beta1 mOld a
      let d ← if k.nesterov then fFma k.beta1 m g1 else pure m
      pure (m, 0, d)
  let ad ← fMul k.alpha d
  let u ← fFma k.lrwd w ad
  let wn ← fSub w u
  pure { w := wn, m := m, v := v, dw := sub32 wn w }

/-! ### Moments at rest (R206) -/

/-- T := 2^⌈log2(a/Fmax)⌉, 1.0 where a is 0 or non-finite, clamped by R90, and whether the clamp acted. -/
def momentScale (elem a : Nat) : Nat × Bool :=
  if fmt32.isZero a || !fmt32.isFin a then (0x3F800000, false)
  else
    let (m, e) := magOf a
    let s : Int := if elem = 3 then 6 else 13
    let k0 := e + bitLen m - s - 4
    let k := k0 + (((List.range 6).find? fun (i : Nat) => !magLt 7 (s + k0 + (i : Int)) m e).getD 5 : Nat)
    if k < -126 then (0x00800000, true) else if 127 < k then (0x7F000000, true) else ((k + 127).toNat * 2 ^ 23, false)

/-- What the encoding of a moment gives. -/
structure MomOut where
  tiles : List TileImg
  counts : QCounts
  invalid : Nat
  elements : Nat
  blocks : Nat
  clamped : Bool
  deriving DecidableEq, Repr

/-- Encode tile `i` of a moment of shape rows × cols; `lane` 0 for M, 1 for V. -/
def momentTile (fmt : Fmt) (seed stream lane : Nat) (x : Mat) (rows cols i : Nat) (o : MomOut) : MomOut :=
  let g := fmt.gridCols cols
  let r0 := i / g * 128
  let c0 := i % g * fmt.cw
  let n := fmt.blk
  let inside := fun r c => decide (r < rows) && decide (c < cols)
  let a := (List.range fmt.elems).foldl (fun acc p =>
    let r := r0 + p / fmt.cw
    let c := c0 + p % fmt.cw
    if inside r c then amax32 acc (x.at r c) else acc) 0
  let (t, cl) := momentScale fmt.elem a
  let key := rngKey seed stream lane
  let out := (List.range fmt.codes).foldl (fun (acc : List Nat × List (List Nat) × MomOut) b =>
    let r := r0 + n * b / fmt.cw
    let c := c0 + n * b % fmt.cw
    let vs := (List.range n).map fun k => inside r (c + k)
    if vs.all fun v => !v then (0 :: acc.1, List.replicate n 0 :: acc.2.1, acc.2.2)
    else
      let xs := (List.range n).map fun k => if inside r (c + k) then x.at r (c + k) else 0
      let q := quantiseBlock fmt.elem t xs vs none none fun k => .stoch (draw key ((r * cols + c + k) % 2 ^ 64))
      let m := acc.2.2
      (q.s8 :: acc.1, q.codes :: acc.2.1,
        { m with counts := m.counts.add q.counts, invalid := m.invalid + (if q.s8 = 0xFF then 1 else 0),
                 elements := m.elements + (vs.filter id).length, blocks := m.blocks + 1 })) ([], [], o)
  let tr : Trailer := { t := t, rot := 0, axis := false, mode := 4, stream := 0, ctrHi := 0 }
  let img := TileImg.seal fmt
    { data := packCodes fmt out.2.1.reverse.flatten, side := out.1.reverse.map (BitVec.ofNat 8) ++ tr.bytes }
  { out.2.2 with tiles := out.2.2.tiles ++ [img], clamped := out.2.2.clamped || cl }

/-- Encode a moment; a tile that `keep` names is rewritten unchanged (R208). -/
def moments (fmt : Fmt) (seed stream lane : Nat) (x : Mat) (rows cols : Nat) (keep : Nat → Option TileImg) : MomOut :=
  (List.range (fmt.grid rows cols)).foldl (fun o i =>
    match keep i with
    | some img => { o with tiles := o.tiles ++ [img] }
    | none => momentTile fmt seed stream lane x rows cols i o)
    { tiles := [], counts := QCounts.zero, invalid := 0, elements := 0, blocks := 0, clamped := false }

/-! ### Whole updates -/

/-- What the element part of an UPDATE gives. -/
structure UpdOut where
  w : Mat
  m : Mat
  v : Mat
  dw : Mat
  ex : Exc
  nonFin : Option NonFin
  zeroG : Nat
  n : Nat
  deriving DecidableEq, Repr

/-- The elements of an UPDATE; `disc` tells which are discarded (R208). -/
def updAll (k : UpdK) (g w m v : Mat) (rows cols : Nat) (scalarsFinite : Bool) (disc : Nat → Nat → Bool) : UpdOut :=
  (List.range rows).foldl (fun (o : UpdOut) r =>
    let (ws, ms, vs, ds, o1) := (List.range cols).foldl
      (fun (acc : Array Nat × Array Nat × Array Nat × Array Nat × UpdOut) c =>
        let (aw, am, av, ad, o) := acc
        let w0 := w.at r c
        let m0 := m.at r c
        let v0 := if k.adam then v.at r c else 0
        if disc r c then (aw.push w0, am.push m0, av.push v0, ad.push 0, o)
        else
          let g0 := g.at r c
          let (x, ex) := updElt k g0 w0 m0 v0 o.ex
          let fine := scalarsFinite && [g0, w0, m0, v0].all fmt32.isFin
          let nf := if fine then ([x.m, x.v, x.w].find? fun y => !fmt32.isFin y).map fun y =>
              { origin := 4, row := r, col := c, val := y } else none
          (aw.push x.w, am.push x.m, av.push x.v, ad.push x.dw,
            { o with ex := ex, nonFin := firstNf o.nonFin nf, n := o.n + 1,
                     zeroG := o.zeroG + if fmt32.isZero g0 then 1 else 0 })) (#[], #[], #[], #[], o)
    { o1 with w := o1.w.push ws, m := o1.m.push ms, v := o1.v.push vs, dw := o1.dw.push ds })
    { w := #[], m := #[], v := #[], dw := #[], ex := Exc.none, nonFin := none, zeroG := 0, n := 0 }

/-- DW2 and W2 over the elements that are not discarded (R211). -/
def updSums (dw w : Mat) (rows cols : Nat) (disc : Nat → Nat → Bool) : Nat × Nat :=
  let sq := fun (x : Mat) r c => if disc r c then 0 else mul32 (x.at r c) (x.at r c)
  ((orderedSum Fmt.f32 rows cols (sq dw) Exc.none).1, (orderedSum Fmt.f32 rows cols (sq w) Exc.none).1)

/-- NORM (R210): the sum of squares, discarded elements as +0. -/
def normSum (fmt : Fmt) (g : Mat) (rows cols : Nat) (disc : Nat → Nat → Bool) : Nat × Exc :=
  let (sq, e) := (List.range rows).foldl (fun (acc : Mat × Exc) r =>
    let (row, e) := (List.range cols).foldl (fun (a : Array Nat × Exc) c =>
      let x := if disc r c then 0 else g.at r c
      let (y, ex) := fmt32.mul .rne x x
      (a.1.push y, a.2.add ex)) (#[], acc.2)
    (acc.1.push row, e)) (#[], Exc.none)
  orderedSum fmt rows cols (fun r c => sq.at r c) e

/-- x of COMPRESS (R209): g, or g plus the residual. -/
def compressIn (g : Mat) (resid : Option Mat) (rows cols : Nat) : Mat × Exc :=
  match resid with
  | none => (g, Exc.none)
  | some e =>
    (List.range rows).foldl (fun (acc : Mat × Exc) r =>
      let (row, x) := (List.range cols).foldl (fun (a : Array Nat × Exc) c =>
        let (y, ex) := fmt32.add .rne (g.at r c) (e.at r c)
        (a.1.push y, a.2.add ex)) (#[], acc.2)
      (acc.1.push row, x)) (#[], Exc.none)

/-- A residual in BF16, widened (R209): the largest finite value of its sign where the rounding is infinite. -/
def residBf (r : Nat) : Nat × Exc :=
  let (v, e) := fmt32.conv fmtBf .rne r
  let v1 := if fmtBf.isInf v then (if fmtBf.sign v then 0xFF7F else 0x7F7F) else v
  (v1 * 65536, e)

/-- The new residual of COMPRESS (R209): `q` are the decoded values, `bad` the elements of invalid blocks. -/
def compressResid (x q : Mat) (rows cols : Nat) (bad : Nat → Nat → Bool) : Mat × Exc :=
  (List.range rows).foldl (fun (acc : Mat × Exc) r =>
    let (row, e) := (List.range cols).foldl (fun (a : Array Nat × Exc) c =>
      if bad r c then (a.1.push 0, a.2)
      else
        let (d, e1) := fmt32.sub .rne (x.at r c) (q.at r c)
        let (y, e2) := residBf d
        (a.1.push y, (a.2.add e1).add e2)) (#[], acc.2)
    (acc.1.push row, e)) (#[], Exc.none)

/-- Whether a mask entry discards (R208): anything but ±0. -/
def discards (x : Nat) : Bool := !fmt32.isZero x

end Sys2Proof.Machine
end

