-- ==== Sys2Proof/Machine/Operands.lean ====
section
/-! DEFINITION. What the descriptors carry, by fields: slots (R50), task descriptors (R48), segment descriptors (R56), the
PARAMS of the products (R126, R127, R145), of collectives (R337) and of STEP_END and CHECKPOINT (R373, R386), and the
handles that a task reads and writes (R43, R51, R52, R200). -/

namespace Sys2Proof.Machine

/-! ### Slots (R50) -/

/-- A slot. -/
structure Slot where
  valid : Bool
  reduce : Bool
  handle : Nat
  deriving DecidableEq, Repr

/-- A slot by fields. -/
def Slot.ofWord (w : Nat) : Slot := { valid := w.testBit 31, reduce := w.testBit 29, handle := w % 2 ^ 20 }

/-- Whether a slot word is well formed by itself (R50): reserved bits clear when VALID, every bit clear when not. -/
def slotWordOk (w : Nat) : Bool := if w.testBit 31 then decide (bitsN w 28 20 = 0) && !w.testBit 30 else decide (w = 0)

/-- Whether no valid slot follows one that is not valid (R50). -/
def slotsOrdered : List Slot → Bool
  | a :: b :: t => (a.valid || !b.valid) && slotsOrdered (b :: t)
  | _ => true

/-! ### Task descriptors (R48) -/

/-- A task descriptor by fields. -/
structure Desc where
  kind : Nat
  flags : Nat
  layer : Nat
  index : Nat
  cost : Nat
  inWords : List Nat
  outWords : List Nat
  params : Bytes
  ext : Nat
  deriving DecidableEq, Repr

/-- The fields of a 64-byte descriptor. -/
def Desc.ofBytes (b : Bytes) : Desc :=
  { kind := fieldLe b 0 1, flags := fieldLe b 1 1, layer := fieldLe b 2 2, index := fieldLe b 4 2, cost := fieldLe b 6 2,
    inWords := (List.range 4).map fun i => fieldLe b (8 + 4 * i) 4,
    outWords := (List.range 2).map fun i => fieldLe b (0x18 + 4 * i) 4, params := sliceB b 0x20 24,
    ext := fieldLe b 0x38 4 }

def Desc.inLayer (d : Desc) : Bool := d.flags.testBit 0
def Desc.layerEnd (d : Desc) : Bool := d.flags.testBit 1
def Desc.noPip (d : Desc) : Bool := d.flags.testBit 2
def Desc.fence (d : Desc) : Bool := d.flags.testBit 3
/-- Input slot `i`. -/
def Desc.inp (d : Desc) (i : Nat) : Slot := Slot.ofWord (d.inWords.getD i 0)
/-- Output slot `i`. -/
def Desc.out (d : Desc) (i : Nat) : Slot := Slot.ofWord (d.outWords.getD i 0)
def Desc.ins (d : Desc) : List Slot := d.inWords.map Slot.ofWord
def Desc.outs (d : Desc) : List Slot := d.outWords.map Slot.ofWord
/-- OP of an OPTIMIZE (R198), KERNEL of a VECTOR (R173), OP of a COLLECTIVE: the first byte of PARAMS. -/
def Desc.op (d : Desc) : Nat := fieldLe d.params 0 1
/-- No extended block (R48). -/
def noExt : Nat := 0xFFFFFFFF
/-- Whether the task names an extended block. -/
def Desc.hasExt (d : Desc) : Bool := decide (d.ext ≠ noExt)
/-- Whether the group's repeat set holds the task (R214). -/
def Desc.repeats (d : Desc) : Bool := d.inLayer && kindRepeats d.kind

/-- The descriptor of a task. -/
def Task.d (t : Task) : Desc := Desc.ofBytes t.desc

/-- XS slot `i` of an extended block (R200). -/
def xsSlot (ext : Bytes) (i : Nat) : Slot := Slot.ofWord (fieldLe ext (4 * i) 4)

/-- Whether a task carries XS slots (R200). -/
def Desc.hasXs (d : Desc) : Bool := decide (d.kind = kOptimize) && (decide (d.op = 3) || decide (d.op = 4))

/-- The input slots of a task, XS slots included: IN0 to IN3, XS3 to XS6. -/
def taskIns (d : Desc) (ext : Bytes) : List Slot :=
  d.ins ++ if d.hasXs then [3, 4, 5, 6].map (xsSlot ext) else []

/-- The output slots of a task, XS slots included: OUT0, OUT1, XS0 to XS2. -/
def taskOuts (d : Desc) (ext : Bytes) : List Slot :=
  d.outs ++ if d.hasXs then [0, 1, 2].map (xsSlot ext) else []

/-- The handles a task writes (R52). -/
def taskWrites (d : Desc) (ext : Bytes) : List Nat :=
  ((taskOuts d ext).filter fun s => s.valid).map fun s => s.handle

/-- The handles a task reads through its slots, REDUCE outputs included (R51, R52). -/
def taskReads (d : Desc) (ext : Bytes) : List Nat :=
  (((taskIns d ext).filter fun s => s.valid).map fun s => s.handle)
    ++ ((taskOuts d ext).filter fun s => s.valid && s.reduce).map fun s => s.handle

def Task.reads (t : Task) : List Nat := taskReads t.d t.ext
def Task.writes (t : Task) : List Nat := taskWrites t.d t.ext

/-! ### Segment descriptors (R56) -/

/-- A segment descriptor by fields. -/
structure SegDesc where
  type : Nat
  flags : Nat
  count : Nat
  id : Word
  table : Nat
  paramBase : Nat
  predWord : Nat
  predOp : Nat
  report : Nat
  predValue : Nat
  afterMask : Nat
  after : List Word
  deriving DecidableEq, Repr

/-- The fields of a 64-byte entry. -/
def SegDesc.ofBytes (b : Bytes) : SegDesc :=
  { type := fieldLe b 0 1, flags := fieldLe b 1 1, count := fieldLe b 2 2, id := BitVec.ofNat 32 (fieldLe b 4 4),
    table := fieldLe b 8 8, paramBase := fieldLe b 0x10 8, predWord := fieldLe b 0x18 4, predOp := fieldLe b 0x1C 1,
    report := fieldLe b 0x1D 1, predValue := fieldLe b 0x20 4, afterMask := fieldLe b 0x24 4,
    after := (List.range 4).map fun i => BitVec.ofNat 32 (fieldLe b (0x28 + 4 * i) 4) }

def SegDesc.inDevice (g : SegDesc) : Bool := g.flags.testBit 0
def SegDesc.predicated (g : SegDesc) : Bool := g.flags.testBit 1
/-- The completion ring of a segment: ring 4 or 5 (R56, R64). -/
def SegDesc.cq (g : SegDesc) : Nat := if g.flags.testBit 2 then 5 else 4

/-- The descriptor of a segment. -/
def Segment.d (g : Segment) : SegDesc := SegDesc.ofBytes g.entry

/-! ### PARAMS of the products (R126, R127, R145) -/

/-- The PARAMS of a MATMUL (R127) or of a MATVEC (R145) by effective values; `row0` and `row1` are the first rows used of
the operand that gives the output's rows and of the one that gives its columns. -/
structure MmParams where
  passes : Nat
  promote : Nat
  log2 : Nat
  stream : Nat
  row0 : Nat
  row1 : Nat
  k0 : Nat
  klen : Nat
  deriving DecidableEq, Repr

/-- The PARAMS of a MATMUL. -/
def MmParams.ofMatmul (p : Bytes) : MmParams :=
  { passes := fieldLe p 0 1 % 4, promote := if fieldLe p 2 1 = 0 then 8 else fieldLe p 2 1,
    log2 := if fieldLe p 3 1 = 0 then 16 else fieldLe p 3 1, stream := fieldLe p 0x14 4, row0 := fieldLe p 4 4,
    row1 := fieldLe p 8 4, k0 := fieldLe p 0xC 4, klen := fieldLe p 0x10 4 }

/-- The PARAMS of a MATVEC, as those of the MATMUL of R164: its vectors give the rows and its weights the columns. -/
def MmParams.ofMatvec (p : Bytes) : MmParams :=
  { passes := 1, promote := if fieldLe p 0 1 = 0 then 8 else fieldLe p 0 1,
    log2 := if fieldLe p 1 1 = 0 then 16 else fieldLe p 1 1, stream := fieldLe p 0x10 4, row0 := 0, row1 := fieldLe p 4 4,
    k0 := fieldLe p 8 4, klen := fieldLe p 0xC 4 }

/-! ### Sequence numbers (R17) -/

/-- Whether `b` is newer than `a`. -/
def newer (b a : Word) : Bool := decide (1 ≤ (b - a).toNat) && decide ((b - a).toNat ≤ 2 ^ 31 - 1)

/-- Bytes of a string that are all zero from offset `o` on for `n` bytes. -/
def zeroB (b : Bytes) (o n : Nat) : Bool := (sliceB b o n).all fun x => x == 0

/-! ### The work of a task -/

/-- Whose work a task's events name (R71). -/
def Task.who (t : Task) : Who :=
  { ctx := t.ref.ctx, layer := if t.d.inLayer then BitVec.ofNat 16 t.d.layer else 0, seq := t.ref.seg,
    index := BitVec.ofNat 16 t.ref.index }

/-- A result with nothing in it. -/
def Result.empty : Result :=
  { status := 0, detail := 0, counts := [], flushedBlocks := 0, invalidBlocks := 0, exc := [], clamped := false, amax := 0,
    e := 0, s := 0, elements := 0, blocks := 0, ovfThresh := 50, slot := 0xFFFF, uses := [], nonfinite := none,
    stateNonfinite := false, dw2 := 0, w2 := 0, zeroG := 0, n := 0 }

end Sys2Proof.Machine
end

