-- ==== Sys2Proof/Machine/Tensors.lean ====
section
/-! DEFINITION. Handles and their versions as tensors in memory: which copy a reader or a writer works on (R47, R62, R196,
R218 to R221, R368), whole-tensor reads and writes with their checks (R270 to R280), REDUCE (R51), and the tables that a
context names: scale tables, the layer-state table, the stream table (R105, R225, R246 to R250). -/

namespace Sys2Proof.Machine

/-! ### Runs -/

/-- Why a task's run ends without success: its status and DETAIL, the cause of a kill of the context that follows its
completion (R61, R279, R280). -/
structure RunStop where
  status : Byte
  detail : BitVec 16
  kill : Option Byte
  deriving DecidableEq, Repr

/-- A task's run: it works on the state and may stop with a status. -/
abbrev Run := ExceptT RunStop (StateM State)

/-- The state. -/
def getS : Run State := fun s => (.ok s, s)

/-- Change the state. -/
def modS (f : State → State) : Run Unit := fun s => (.ok (), f s)

/-- Stop with a status. -/
def stop {α : Type} (status : Byte) (detail : BitVec 16) : Run α :=
  fun s => (.error { status := status, detail := detail, kill := none }, s)

/-- Stop with a status and kill the context. -/
def stopKill {α : Type} (status cause : Byte) : Run α :=
  fun s => (.error { status := status, detail := dNone, kill := some cause }, s)

/-- A failed access of task work `w`, whose tables are those of context `owner` (R55, R268, R280). -/
def stopMem {α : Type} (w : Who) (owner : Nat) (e : MemErr) : Run α := do
  match e with
  | .access => stop stAccess dNone
  | .fenced => stop stDomainReset dNone
  | .pte dpa =>
    modS (noteUe dpa)
    modS (raisePoisonConsumed w 1 owner 4 0xFFFFFFFF dpa 0xFFFFFFFF)
    stopKill stKilled stInternal

/-! ### Handles, sides, versions -/

/-- A version that no task has written: orientation 0, as compiled (R196). -/
def Version.plain : Version :=
  { orient := false, level := 0, rotRec := none, failed := none, working := false, writer := none, wide := none, copy := none }

/-- Handle `h` of a context, if defined. -/
def Ctx.handle? (x : Ctx) (h : Nat) : Option Handle := NMap.find? x.handles h

/-- FOLIO, READ_ONLY and SHAREABLE (R46). -/
def Handle.folio (d : Handle) : Bool := d.flags.getLsbD 0
def Handle.readOnly (d : Handle) : Bool := d.flags.getLsbD 1
def Handle.shareable (d : Handle) : Bool := d.flags.getLsbD 2
def Handle.imported (d : Handle) : Bool := d.source.isSome
/-- The format of a handle (R74): DEFINE_HANDLE has checked the byte. -/
def Handle.fmt (d : Handle) : Fmt := (Fmt.ofByte d.format.toNat).getD Fmt.f32

/-- The current version of handle `h`. -/
def Ctx.ver (x : Ctx) (h : Nat) : Version := NMap.get (fun _ => Version.plain) x.vers h

/-- The committed version of FOLIO handle `h`. -/
def Ctx.commVer (x : Ctx) (h : Nat) : Version := NMap.get (fun _ => Version.plain) x.commVers h

/-- The context with the current version of handle `h` set. -/
def Ctx.setVer (x : Ctx) (h : Nat) (v : Version) : Ctx :=
  { x with vers := NMap.set (fun _ => Version.plain) x.vers h v }

/-- The committed side of a FOLIO handle: false A, true B (R368). -/
def Ctx.side (x : Ctx) (h : Nat) : Bool := NMap.get (fun _ => false) x.map h

/-- The address of a side. -/
def Handle.addr (d : Handle) (b : Bool) : Nat := if b then d.addrB.toNat else d.addrA.toNat

/-- The format a short handle is written in at a level (R218): FOLIO handles and handles without a shadow as compiled. -/
def Handle.fmtAt (d : Handle) (level : Nat) : Fmt :=
  let k := d.fmt
  if !k.short || d.folio || d.shadow.isNone || level = 0 then k
  else if level = 2 then { elem := 2, husks := false, block32 := false }
  else if k.width = 4 then { elem := 3, husks := false, block32 := false }
  else k

/-- Whether a handle is widened at a level. -/
def Handle.widened (d : Handle) (level : Nat) : Bool := decide (d.fmtAt level ≠ d.fmt)

/-- The grid of a shape taken over both orientations (R221, R271). -/
def Fmt.gridBoth (k : Fmt) (rows cols : Nat) : Nat := max (k.grid rows cols) (k.grid cols rows)

/-- A tensor as it stands in memory: where its tiles lie, its handle's ROWS and COLS, its orientation, and the rotation
record held with a level-2 version (R220). -/
structure Tensor where
  loc : TileLoc
  rows : Nat
  cols : Nat
  orient : Bool
  rot : Option RotRec
  deriving DecidableEq, Repr

/-- Rows of the laid-out shape (R270). -/
def Tensor.laidRows (t : Tensor) : Nat := if t.orient then t.cols else t.rows
/-- Columns of the laid-out shape. -/
def Tensor.laidCols (t : Tensor) : Nat := if t.orient then t.rows else t.cols
/-- Tiles that hold the tensor. -/
def Tensor.tiles (t : Tensor) : Nat := t.loc.fmt.grid t.laidRows t.laidCols

/-- The tensor of a definition on one copy: `shadow` the wide shadow with the version's level. -/
def Handle.tensor (d : Handle) (owner h level : Nat) (b : Bool) (orient : Bool) (rot : Option RotRec) : Tensor :=
  let k := d.fmtAt level
  let root := d.kept.map fun k => k.root
  let loc : TileLoc :=
    if d.widened level then
      { ctx := owner, root := root, base := d.shadow.getD 0, tiles := k.gridBoth d.rows d.cols, fmt := k, handle := h }
    else { ctx := owner, root := root, base := d.addr (d.folio && b), tiles := d.tiles, fmt := k, handle := h }
  { loc := loc, rows := d.rows, cols := d.cols, orient := orient, rot := rot }

/-- Where a handle's definition and versions are kept: the context and handle it was imported from, or itself. -/
def Handle.home (d : Handle) (c h : Nat) : Nat × Nat := d.source.getD (c, h)

/-- The committed side and version of a handle's home; an import whose source context has been released keeps them (R61, R62). -/
def State.committed (s : State) (c h : Nat) (d : Handle) : Bind :=
  match d.kept with
  | some k => { side := k.side, ver := k.ver }
  | none =>
    let (oc, oh) := d.home c h
    { side := (s.ctx oc).side oh, ver := (s.ctx oc).commVer oh }

/-- The version of handle `h` that a reader of context `c` sees; `bind` what an imported FOLIO was bound to (R43, R62). -/
def State.readVer (s : State) (c h : Nat) (bind : Option Bind) : Version :=
  match (s.ctx c).handle? h with
  | none => Version.plain
  | some d =>
    let (oc, oh) := d.home c h
    if d.imported && (d.folio || d.kept.isSome) then (bind.getD (s.committed c h d)).ver else (s.ctx oc).ver oh

/-- The shadow of a handle: that of its source for an import. -/
def State.shadowOf (s : State) (c h : Nat) (d : Handle) : Option Nat :=
  let (oc, oh) := d.home c h
  match d.kept, (s.ctx oc).handle? oh with
  | some k, _ => k.shadow
  | none, some o => o.shadow
  | none, none => d.shadow

/-- The tensor that a reader of context `c` reads as handle `h` (R47, R62). -/
def State.readTensor (s : State) (c h : Nat) (bind : Option Bind) : Option Tensor :=
  match (s.ctx c).handle? h with
  | none => none
  | some d =>
    let oc := (d.home c h).1
    let v := s.readVer c h bind
    let comm := s.committed c h d
    let b := if d.imported then (bind.getD comm).side else (comm.side != v.working)
    some ({ d with shadow := s.shadowOf c h d }.tensor oc h v.level b v.orient v.rotRec)

/-- The tensor that a writer writes as handle `h` at a level (R47, R218). -/
def State.writeTensor (s : State) (c h level : Nat) (orient : Bool) (rot : Option RotRec) : Option Tensor :=
  match (s.ctx c).handle? h with
  | none => none
  | some d => some (d.tensor c h level (!(s.ctx c).side h) orient rot)

/-- The committed copy of a FOLIO handle. -/
def State.commTensor (s : State) (c h : Nat) : Option Tensor :=
  match (s.ctx c).handle? h with
  | none => none
  | some d =>
    let v := s.committed c h d
    some (d.tensor (d.home c h).1 h 0 v.side v.ver.orient none)

/-! ### Whole-tensor reads -/

/-- One tile as a consumer reads it (R274 to R279): `consumer` as POISON_CONSUMED, `use` as TILE_CHECKSUM names it. -/
def readTile (env : Env) (w : Who) (consumer use : Nat) (l : TileLoc) (i : Nat) : Run TileImg := do
  let s ← getS
  let (s1, r) := loadTile env w l i s
  modS fun _ => s1
  match r with
  | .ok img => pure img
  | .fail e => stopMem w l.ctx e
  | .poison _ cause owner slot =>
    modS (raisePoisonConsumed w cause owner consumer l.handle slot i)
    stopKill stPoison stPoison
  | .bad _ cause stored computed slot =>
    modS (raiseChecksum w use cause l.handle i stored computed 0xFFFFFFFF (slot / 2 ^ 36))
    stop stChecksum dNone

/-- Every tile of a tensor. -/
def readTiles (env : Env) (w : Who) (consumer use : Nat) (t : Tensor) : Run (Array TileImg) :=
  (List.range t.tiles).foldlM (fun acc i => do
    let img ← readTile env w consumer use t.loc i
    pure (acc.push img)) #[]

/-- The elements of a tensor from its tiles, in binary32, with the exceptions of their decoding (R78, R99, R270). -/
def tilesMat (t : Tensor) (imgs : Array TileImg) : Mat × Exc :=
  let k := t.loc.fmt
  let vals := imgs.map fun img => img.values k
  let g := k.gridCols t.laidCols
  let at' := fun r c => (vals.getD (r / 128 * g + c / k.cw) #[]).getD (r % 128 * k.cw + c % k.cw) (0, Exc.none)
  (List.range t.rows).foldl (fun (acc : Mat × Exc) r =>
    let (row, e) := (List.range t.cols).foldl (fun (a : Array Nat × Exc) c =>
      let (v, x) := if t.orient then at' c r else at' r c
      (a.1.push v, a.2.add x)) (#[], acc.2)
    (acc.1.push row, e)) (#[], Exc.none)

/-- A whole tensor in binary32. -/
def readMat (env : Env) (w : Who) (consumer use : Nat) (t : Tensor) : Run (Mat × Exc) := do
  let imgs ← readTiles env w consumer use t
  pure (tilesMat t imgs)

/-! ### Whole-tensor writes -/

/-- The stored bytes of tile `i`, to be put back where a repeat drops what overwrites them (R223). -/
def keepTile (l : TileLoc) (i : Nat) (s : State) : List (Nat × Nat × Bytes) :=
  let one := fun va n => match s.readVa envQuiet l.ctx va n with
    | .ok (b, _) => [(l.ctx, va, b)]
    | .error _ => []
  one (l.dataVa i) 8192 ++ one (l.sideVa i) l.fmt.side

/-- Write tiles in order; what `keep` asks for is returned. -/
def writeTiles (env : Env) (w : Who) (l : TileLoc) (imgs : List TileImg) (keep : Bool) : Run (List (Nat × Nat × Bytes)) :=
  (List.range imgs.length).foldlM (fun acc i => do
    let s ← getS
    let old := if keep then keepTile l i s else []
    match storeTile env l i (imgs.getD i { data := [], side := [] }) s with
    | .ok s1 => do
      modS fun _ => s1
      pure (acc ++ old)
    | .error e => stopMem w l.ctx e) []

/-- Put back what was kept. -/
def putBack : List (Nat × Nat × Bytes) → State → State
  | [], s => s
  | (c, va, b) :: t, s =>
    match writeVa envQuiet c va b (putBack t s) with
    | .ok s1 => s1
    | .error _ => putBack t s

/-- Element data of tile `i` of a table in binary32, as a tile store loads it. -/
def tableData (env : Env) (w : Who) (consumer use : Nat) (t : Tensor) (i : Nat) : Run Bytes := do
  let img ← readTile env w consumer use t.loc i
  pure img.data

/-- `n` bytes of a table at offset `o` of tile `i`: zeros where the tile cannot be read or fails its check, which never yields a value
(R261). Who uses them has made that check before (`readTile`). -/
def State.tableBytes (s : State) (t : Tensor) (i o n : Nat) : Bytes :=
  match s.goodTile t.loc i with
  | some img => sliceB img.data o n
  | none => List.replicate n 0

/-- Change the element data of tile `i` of a binary32 table, with a fresh CRC. -/
def editTile (env : Env) (w : Who) (consumer use : Nat) (t : Tensor) (i : Nat) (f : Bytes → Bytes) : Run Unit := do
  let img ← readTile env w consumer use t.loc i
  let s ← getS
  match storeTile env t.loc i (TileImg.seal t.loc.fmt { data := sliceB (f img.data) 0 8192, side := [] }) s with
  | .ok s1 => modS fun _ => s1
  | .error e => stopMem w t.loc.ctx e

/-! ### The stream table (R245 to R250) -/

/-- S = 2^LOG2 of RNGS_SLOTS; LOG2 is 6 to 12, other values act as 8 (R259). -/
def State.slotsLog2 (s : State) (c : Nat) : Nat :=
  let v := s.regField (aRngs c 0x0C) 3 0
  if 6 ≤ v ∧ v ≤ 12 then v else 8

/-- The handle that a register holding a slot names, if it is VALID and defined. -/
def State.slotHandle (s : State) (c a : Nat) : Option Nat :=
  let w := Slot.ofWord (s.reg a).toNat
  if w.valid ∧ ((s.ctx c).handle? w.handle).isSome then some w.handle else none

/-- The handle of the context's stream table: binary32, FOLIO, at least 1 + S/512 tiles (R250). -/
def State.streamHandle (s : State) (c : Nat) : Option Nat :=
  match s.slotHandle c (aRngs c 0x08) with
  | none => none
  | some h =>
    match (s.ctx c).handle? h with
    | none => none
    | some d =>
      if d.format = 0 ∧ d.folio ∧ 1 + (2 ^ s.slotsLog2 c + 511) / 512 ≤ d.tiles then some h else none

/-- A slot of the stream table (R250). -/
structure StreamSlot where
  pos : Nat
  advance : Nat
  cls : Nat
  flags : Nat
  deriving DecidableEq, Repr

/-- Slot `j` of a stream table. -/
def State.streamSlot (s : State) (t : Tensor) (j : Nat) : StreamSlot :=
  let b := s.tableBytes t (1 + j / 512) (j % 512 * 16) 16
  { pos := fieldLe b 0 8, advance := fieldLe b 8 4, cls := fieldLe b 12 1, flags := fieldLe b 13 1 }

/-- The 16 bytes of a slot (R250). -/
def StreamSlot.bytes (x : StreamSlot) : Bytes :=
  leBytes 8 x.pos ++ leBytes 4 x.advance ++ leBytes 1 x.cls ++ leBytes 1 x.flags ++ leBytes 2 0

/-- The job seed (R243, R259). -/
def State.seed (s : State) (c : Nat) : Nat := (s.reg64 (aRngs c 0)).toNat

/-- The effective stream ID of a reference (R246, R248); `ahead` for the copies of an UPDATE or REQUANT. -/
def State.stream (s : State) (c ref : Nat) (ahead : Bool) : Nat :=
  if !refStepped ref then ref
  else
    match s.streamHandle c with
    | none => ref
    | some h =>
      match s.readTensor c h none with
      | none => ref
      | some t =>
        let x := s.streamSlot t (refSlot ref)
        steppedId ref ((x.pos + if ahead then x.advance else 0) % 2 ^ 64) (s.slotsLog2 c)

/-! ### Scale tables (R105, R106) -/

/-- Scale-table entry `slot` of a table: its 512 bytes through the tile store. -/
def readEntry (env : Env) (w : Who) (consumer use : Nat) (t : Tensor) (slot : Nat) : Run Bytes := do
  let d ← tableData env w consumer use t (slot / 16)
  pure (sliceB d (slot % 16 * 512) 512)

/-! ### The layer-state table (R225) -/

/-- The layer-state table: a binary32 FOLIO handle. -/
def State.layerHandle (s : State) (c : Nat) : Option Nat :=
  match s.slotHandle c (aNumc c 0x28) with
  | none => none
  | some h =>
    match (s.ctx c).handle? h with
    | none => none
    | some d => if d.format = 0 ∧ d.folio then some h else none

/-- The 32 bytes of a layer's entry in the committed table; none beyond it. -/
def State.layerEntry (s : State) (c layer : Nat) : Option Bytes :=
  match s.layerHandle c with
  | none => none
  | some h =>
    match s.commTensor c h with
    | none => none
    | some t =>
      if t.loc.tiles ≤ layer / 256 then none else some (s.tableBytes t (layer / 256) (layer % 256 * 32) 32)

/-- Whether a layer's entry lies beyond a valid layer-state table (R225, R241). -/
def State.layerShort (s : State) (c layer : Nat) : Bool :=
  (s.layerHandle c).isSome && (s.layerEntry c layer).isNone

/-- The retry override of a layer in step `step` (R226): an override is kept as 4 × step + level. -/
def State.overrideOf (s : State) (c layer : Nat) (step : Dword) : Option Nat :=
  match NMap.find? (s.ctx c).overrides layer with
  | none => none
  | some v => if v / 4 = step.toNat then some (v % 4) else none

/-- The start level of a layer in a step (R219): the higher of its committed LEVEL and any override. -/
def State.startLevel (s : State) (c layer : Nat) (step : Dword) : Nat :=
  let committed := match s.layerEntry c layer with
    | none => 0
    | some b => min (fieldLe b 0 1) 2
  max committed ((s.overrideOf c layer step).getD 0)

/-- The slots' tiles of the stream table that references read, and the tile of the layer-state table that holds a layer's entry: each is
read and checked before its contents are used (R248, R261, R268). PRESUMED: log entry 96. -/
def readTables (w : Who) (consumer use : Nat) (refs : List Nat) (layer : Option Nat) : Run Unit := do
  let s ← getS
  let streams := match s.streamHandle w.ctx with
    | none => none
    | some h => s.readTensor w.ctx h none
  let levels := match layer, s.layerHandle w.ctx with
    | some l, some h => (s.commTensor w.ctx h).map fun t => (t, l / 256)
    | _, _ => none
  let fromStreams := match streams with
    | none => []
    | some t => ((refs.filter refStepped).map fun r => 1 + refSlot r / 512).eraseDups.map fun i => (t, i)
  let fromLevels := (levels.toList.filter fun e => decide (e.2 < e.1.loc.tiles))
  (fromStreams ++ fromLevels).foldlM (fun _ e => do
    let _ ← readTile envQuiet w consumer use e.1.loc e.2
    pure ()) ()

end Sys2Proof.Machine
end

