-- ==== Sys2Proof/Machine/Validate.lean ====
section
/-! DEFINITION. Admission validation (R59): the checks of segment descriptors, task descriptors and every kind's PARAMS,
extended block, slots and rights, in the order in which the first failure is reported. -/

namespace Sys2Proof.Machine

/-- A task of a segment under validation: its descriptor, its extended block (empty when none), its 64 bytes. -/
structure VTask where
  d : Desc
  ext : Bytes
  raw : Bytes
  deriving DecidableEq, Repr

/-- What a kind's validation may look at: the state, the context, the orientations that earlier tasks of the segment
write (R196), and the segment's tasks. -/
structure Look where
  s : State
  c : Nat
  pend : NMap Bool
  tasks : List VTask

/-- The handle that a valid slot names, if defined. -/
def Look.defn (k : Look) (x : Slot) : Option Handle := if x.valid then (k.s.ctx k.c).handle? x.handle else none

/-- The last task, in admission order, that is still to leave its version of handle `h` of a context (R43). -/
def Ctx.lastWriter (x : Ctx) (h : Nat) : Option Task :=
  (x.tasks.filter fun t => (decide (t.st ≠ .complete) || t.verDue.isSome) && t.writes.contains h).getLast?

/-- The orientation of the version of handle `h` that a task admitted now reads (R43, R196). -/
def Look.orient (k : Look) (h : Nat) : Bool :=
  match NMap.find? k.pend h with
  | some o => o
  | none =>
    match (k.s.ctx k.c).lastWriter h with
    | some t => t.orient
    | none => (k.s.readVer k.c h none).orient

/-- ROWS and COLS of an operand, exchanged under orientation 1 (R196). -/
def Look.shape (k : Look) (x : Slot) : Option (Nat × Nat) :=
  match k.defn x with
  | none => none
  | some d => some (if k.orient x.handle then (d.cols, d.rows) else (d.rows, d.cols))

/-- Whether a condition holds of a defined handle; an undefined one is judged with the handles. -/
def whenDef {α : Type} (o : Option α) (p : α → Bool) : Bool := match o with | none => false | some a => p a

/-- Whether a condition fails of a handle that must be defined. -/
def lacks {α : Type} (o : Option α) (p : α → Bool) : Bool := match o with | none => true | some a => !p a

/-- Two failure flags of a task: BAD_KIND and BAD_HANDLE (R59). -/
structure Faulty where
  kind : Bool
  handle : Bool
  deriving DecidableEq, Repr

/-- Both flags together. -/
def Faulty.or (a b : Faulty) : Faulty := { kind := a.kind || b.kind, handle := a.handle || b.handle }

/-! ### Stream references (R247, R250) -/

/-- The check of a stream reference against the committed stream table: the failure, BAD_KIND or BAD_HANDLE. -/
def Look.refCheck (k : Look) (ref : Nat) (classes : List Nat) : Faulty :=
  let cls := refClass ref
  if cls ≠ 0 ∧ cls ∉ classes then { kind := true, handle := false }
  else if !refStepped ref then { kind := false, handle := false }
  else if bitsN ref 27 12 ≠ 0 ∨ 2 ^ k.s.slotsLog2 k.c ≤ refSlot ref then { kind := true, handle := false }
  else
    match k.s.streamHandle k.c with
    | none => { kind := false, handle := true }
    | some h =>
      match k.s.commTensor k.c h with
      | none => { kind := false, handle := true }
      | some t =>
        let x := k.s.streamSlot t (refSlot ref)
        if !x.flags.testBit 0 then { kind := false, handle := true } else { kind := decide (x.cls ≠ cls), handle := false }

/-! ### The stream references of a task (R247) -/

/-- The references of conversion parameters; a field that its rule ignores is not named. -/
def QSpec.refs (q : QSpec) : List (Nat × List Nat) :=
  (if q.rot = 0 then [] else [(q.rotStream, [2])]) ++ if q.stoch then [(q.srStream, [1])] else []

/-- Effective contraction length of a product (R127): 0 means to the end of the operand. -/
def MmParams.len (p : MmParams) (cols : Nat) : Nat := if p.klen = 0 then cols - p.k0 else p.klen

/-- The references of a product whose operand has `cols` contraction indices (R162). -/
def MmParams.refs (p : MmParams) (cols : Nat) : List (Nat × List Nat) :=
  if 2 ^ p.log2 ≤ p.len cols then [(p.stream, [1])] else []

/-- PLAIN and TURNED of an extended block (R200). -/
def plainSpec (ext : Bytes) : QSpec := QSpec.ofBytes (sliceB ext 0x50 24)
def turnedSpec (ext : Bytes) : QSpec := QSpec.ofBytes (sliceB ext 0x68 24)

/-- Whether the op list of a block holds a DROPOUT (R178). -/
def hasDropout (ext : Bytes) : Bool := (opWords ext).any fun w => (VOp.ofWord w).op == 0x10

/-- The stream references a task names, with the classes their field admits; `cols` the contraction length of a
product's operands. -/
def taskRefs (d : Desc) (ext : Bytes) (cols : Nat) : List (Nat × List Nat) :=
  if d.kind = kQuantize then (QSpec.ofBytes d.params).refs
  else if d.kind = kMatmul then (MmParams.ofMatmul d.params).refs cols
  else if d.kind = kMatvec then (MmParams.ofMatvec d.params).refs cols
  else if d.kind = kVector then
    if d.op = 0 ∧ hasDropout ext then [(fieldLe d.params 0x10 4, [3, 4])] else []
  else if d.kind = kOptimize then
    (if d.op = 1 then if fieldLe d.params 3 1 % 8 = 5 then [(fieldLe d.params 4 4, [1])] else []
     else if d.op = 3 then [(fieldLe d.params 4 4, [5])] else [])
    ++ (if d.hasXs then
          (if (xsSlot ext 1).valid then (plainSpec ext).refs else [])
          ++ if (xsSlot ext 2).valid then (turnedSpec ext).refs else []
        else [])
  else []

/-- Whether any reference is stepped. -/
def anyStepped (rs : List (Nat × List Nat)) : Bool := rs.any fun r => refStepped r.1

/-! ### QUANTIZE (R101 to R103) -/

/-- Reserved bits and values of the parameters of a conversion (R101, R103, R499). -/
def quantReserved (p : Bytes) : Bool :=
  let mode := fieldLe p 0 1
  let rm := fieldLe p 1 1
  decide (mode % 4 = 3) || decide (16 ≤ mode) || decide (rm ≠ 0 ∧ rm ≠ 5) || decide (4 < fieldLe p 2 1) || !zeroB p 3 1
    || !zeroB p 6 2

/-- The BAD_KIND rows of R103 for a conversion: of `cols` contraction indices, from a format into a format. With ROT 0 the fields of the
rotation are 0 (R101). DESIGN CHOICE: log entry 107. -/
def quantKind (p : Bytes) (cols : Option Nat) (src dst : Option Fmt) : Bool :=
  let q := QSpec.ofBytes p
  quantReserved p || (decide (q.outlier = 1) && whenDef dst fun k => !k.husks)
    || (!q.tFixed && decide (q.slot = 0xFFFF))
    || (decide (q.rot ≠ 0) && ((whenDef cols fun n => decide (n % rotSize q.rot ≠ 0)) || whenDef src fun k => k.short))
    || (decide (q.rot = 0) && !zeroB p 8 8)

/-- Whether a scale table does not hold slot `slot` (R103, R105). -/
def tableBad (t : Option Handle) (slot : Nat) : Bool :=
  lacks t fun d => decide (d.format = 0) && d.folio && decide (slot / 16 + 1 ≤ d.tiles)

/-- Whether exactly the first `i` input and `o` output slots are valid. -/
def slotsAre (d : Desc) (i o : Nat) : Bool :=
  decide ((d.ins.filter fun x => x.valid).length = i) && decide ((d.outs.filter fun x => x.valid).length = o)

/-- Whether two handles differ in ROWS or COLS. -/
def shapeNe (a b : Handle) : Bool := decide (a.rows ≠ b.rows ∨ a.cols ≠ b.cols)

/-- A QUANTIZE (R103). -/
def checkQuantize (k : Look) (d : Desc) : Faulty :=
  let q := QSpec.ofBytes d.params
  let src := k.defn (d.inp 0)
  let dst := k.defn (d.out 0)
  { kind := quantKind d.params (src.map fun h => if q.axis then h.rows else h.cols) (src.map fun h => h.fmt)
      (dst.map fun h => h.fmt),
    handle := !slotsAre d (if q.slot = 0xFFFF then 1 else 2) 1
      || (lacks src fun a => match dst with
            | none => false
            | some b => b.fmt.short && !shapeNe a b)
      || (decide (q.slot ≠ 0xFFFF) && tableBad (k.defn (d.inp 1)) q.slot) }

/-! ### MATMUL and MATVEC (R128, R145, R186) -/

/-- Whether a fused pair is not valid (R186): the MATMUL `d` with its block, the segment's tasks. -/
def fuseBad (k : Look) (d : Desc) (ext : Bytes) : Bool :=
  let partner := fieldLe ext 2 2
  decide (fieldLe ext 0 1 ≠ 1) || !zeroB ext 1 1 || !zeroB ext 4 0x38 || decide (partner ≤ d.index)
    || (lacks (k.tasks[partner]?) fun v =>
          decide (v.d.kind = kVector) && decide (fieldLe v.d.params 2 2 = d.index)
            && decide ((v.d.inp 0).handle = (d.out 0).handle) && (v.d.inp 0).valid && (d.out 0).valid)
    || (d.out 0).reduce

/-- A MATMUL or MATVEC; `mv` for MATVEC, whose vectors are the product's rows. -/
def checkProduct (k : Look) (d : Desc) (ext : Bytes) (mv : Bool) : Faulty :=
  let p := if mv then MmParams.ofMatvec d.params else MmParams.ofMatmul d.params
  let xa := if mv then d.inp 1 else d.inp 0
  let xb := if mv then d.inp 0 else d.inp 1
  let fa := (k.defn xa).map fun h => h.fmt
  let fb := (k.defn xb).map fun h => h.fmt
  let sa := k.shape xa
  let sb := k.shape xb
  let out := k.defn (d.out 0)
  let cols := ((k.shape (d.inp 0)).map fun x => x.2).getD 0
  let len := p.len cols
  let reserved :=
    if mv then !zeroB d.params 2 2 || !zeroB d.params 0x14 4
    else decide (4 ≤ fieldLe d.params 0 1) || !zeroB d.params 1 1
  let kinds := whenDef fa fun a => whenDef fb fun b =>
    let la := decide (a.elem = 0)
    let lb := decide (b.elem = 0)
    (!mv && ((decide (2 ≤ p.passes) && !(la && lb)) || (la != lb)))
      || ((a.block32 || b.block32) && decide (p.k0 % 32 ≠ 0))
  { kind := reserved || decide (64 < p.promote) || decide (31 < p.log2) || decide (p.row0 % 16 ≠ 0)
      || decide (p.row1 % 16 ≠ 0) || decide (p.k0 % 16 ≠ 0) || kinds
      || (sa.isSome && sb.isSome && decide (len % 16 ≠ 0) && decide (p.k0 + len ≠ cols))
      || (whenDef out fun h => h.fmt.short) || (d.hasExt && fuseBad k d ext),
    handle := !slotsAre d 2 1
      || (lacks sa fun a => match sb, out with
            | some b, some o =>
              decide (a.2 = b.2) && decide (p.row0 + o.rows ≤ a.1) && decide (p.row1 + o.cols ≤ b.1)
                && decide (p.k0 + len ≤ a.2) && (!mv || (decide (a.1 = o.rows) && decide (1 ≤ a.1 ∧ a.1 ≤ 16)))
            | _, _ => false)
      || (mv && ((lacks fa fun a => a.short) || lacks fb fun b => b.short)) }

/-! ### VECTOR (R172 to R176, R189) -/

/-- Whether an op list is malformed (R175, R176); `loaded` tells which functions are. -/
def opListBad (loaded : Nat → Bool) (ext : Bytes) (out1 : Bool) : Bool :=
  let n := fieldLe ext 0 1
  let r1 := fieldLe ext 2 1
  let ws := opWords ext
  decide (n = 0) || decide (32 < n) || decide (8 ≤ fieldLe ext 1 1) || (out1 && decide (8 ≤ r1))
    || (!out1 && decide (r1 ≠ 0xFF)) || !zeroB ext 3 57 || (ws.any fun w => !VOp.ok loaded w)
    || decide (4 < (ws.filter fun w => (VOp.ofWord w).isRow).length)

/-- Whether the PRODUCER of a VECTOR does not satisfy R186. -/
def producerBad (k : Look) (d : Desc) : Bool :=
  let p := fieldLe d.params 2 2
  if p = 0xFFFF then false
  else decide (d.index ≤ p) || lacks (k.tasks[p]?) fun v =>
    decide (v.d.kind = kMatmul) && v.d.hasExt && decide (fieldLe v.ext 2 2 = d.index)
      && decide ((v.d.out 0).handle = (d.inp 0).handle) && !(v.d.out 0).reduce

/-- Shapes of a kernel (R189): inputs, then OUT1 and whether it may be absent, for an M × N task. -/
def kernelShapes (kernel m n : Nat) : List (Nat × Nat) × Option (Nat × Nat) × Bool :=
  let bands := (m + 127) / 128
  match kernel with
  | 1 => ([(m, n), (1, n)], some (m, 1), false)
  | 2 => ([(m, n), (m, n), (1, n), (m, 1)], some (bands, n), false)
  | 3 => ([(m, n), (1, n), (1, n)], some (m, 2), false)
  | 4 => ([(m, n), (m, n), (1, n), (m, 2)], some (bands, 2 * n), false)
  | 5 => ([(m, n)], some (m, 2), true)
  | _ => ([(m, n), (m, n)], none, true)

/-- Whether the shape of a kernel's input is the one R189 gives, or one that is broadcast to the task's whole shape (R172). -/
def kernelShapeOk (m n : Nat) (want got : Nat × Nat) : Bool :=
  decide (got = want) || (decide (want = (m, n)) && decide (got.1 = m ∨ got.1 = 1) && decide (got.2 = n ∨ got.2 = 1))

/-- Whether slots or shapes of a VECTOR differ from R172 or R189. -/
def vectorSlotsBad (k : Look) (d : Desc) : Bool :=
  lacks (k.defn (d.out 0)) fun o =>
    let m := o.rows
    let n := o.cols
    let ins := d.ins.filter fun x => x.valid
    if d.op = 0 then
      (ins.all fun x => whenDef (k.defn x) fun q => decide (q.rows = m ∨ q.rows = 1) && decide (q.cols = n ∨ q.cols = 1))
        && (!(d.out 1).valid || whenDef (k.defn (d.out 1)) fun h => !shapeNe h o)
    else
      let (shapes, out1, opt) := kernelShapes d.op m n
      decide (ins.length = shapes.length)
        && ((List.range shapes.length).all fun i =>
              whenDef (k.defn (d.inp i)) fun q => kernelShapeOk m n (shapes.getD i (0, 0)) (q.rows, q.cols))
        && (match out1 with
            | none => !(d.out 1).valid
            | some q => (opt && !(d.out 1).valid)
                || whenDef (k.defn (d.out 1)) fun h => decide ((h.rows, h.cols) = q))

/-- A VECTOR (R174). -/
def checkVector (k : Look) (d : Desc) (ext : Bytes) : Faulty :=
  let mode := fieldLe d.params 1 1
  let tolS := fieldLe d.params 0x14 1
  let tolN := fieldLe d.params 0x15 1
  let lo := fieldLe d.params 8 4
  let hi := fieldLe d.params 0xC 4
  let loaded := fun fn => (NMap.find? (k.s.ctx k.c).funcs fn).isSome
  { kind := decide (6 < d.op) || decide (32 ≤ mode) || (mode.testBit 0 && decide (d.op ≠ 0))
      || (mode.testBit 1 && decide (d.op ≠ 5 ∧ d.op ≠ 6)) || decide (tolS ≠ 0 ∧ (tolS < 6 ∨ 20 < tolS))
      || decide (tolN ≠ 0 ∧ (tolN < 4 ∨ 20 < tolN)) || (mode.testBit 2 && !fmt32.le lo hi)
      || decide (d.op = 0 ∧ ¬ d.hasExt) || decide (d.op ≠ 0 ∧ d.hasExt)
      || (decide (d.op = 0) && opListBad loaded ext (d.out 1).valid) || producerBad k d
      || (whenDef (k.defn (d.out 0)) fun h => h.fmt.short) || whenDef (k.defn (d.out 1)) fun h => h.fmt.short,
    handle := vectorSlotsBad k d }

/-! ### OPTIMIZE (R198 to R201, R207, R208) -/

/-- Whether a hyperparameter is finite and within [`lo`, `hi`]. -/
def inRange (x lo hi : Nat) : Bool := fmt32.isFin x && fmt32.le lo x && fmt32.le x hi

/-- Greatest binary32 below 1, 1, and the greatest finite value. -/
def below1 : Nat := 0x3F7FFFFF
def one32 : Nat := 0x3F800000
def max32 : Nat := 0x7F7FFFFF

/-- Whether the hyperparameters of an UPDATE are out of range or set where the algorithm does not read them (R200). -/
def hyperBad (adam clip : Bool) (h : Hyper) : Bool :=
  !inRange h.lr 0 max32 || !inRange h.wd 0 max32 || !inRange h.beta1 0 below1 || !inRange h.gradScale 0 max32
    || h.gradScale == 0x80000000
    || (if adam then !inRange h.beta2 0 below1 || !inRange h.eps 0x0D800000 one32 || decide (h.dampen ≠ 0)
        else !inRange h.dampen 0 below1 || decide (h.beta2 ≠ 0 ∨ h.eps ≠ 0))
    || (if clip then !inRange h.clipNorm 1 max32 else decide (h.clipNorm ≠ 0))

/-- The BAD_KIND checks of a copy (R200, R201, R103). -/
def copyKind (k : Look) (x : Slot) (p : Bytes) (w : Option Handle) (turned : Bool) : Bool :=
  if !x.valid then !zeroB p 0 24
  else
    (QSpec.ofBytes p).axis || quantKind p (w.map fun h => if turned then h.rows else h.cols) (w.map fun h => h.fmt)
      ((k.defn x).map fun h => h.fmt)

/-- Whether a copy's handle is not a short FOLIO handle of W's shape, turned or not (R207). -/
def copyHandle (k : Look) (x : Slot) (w : Handle) (turned : Bool) : Bool :=
  x.valid && lacks (k.defn x) fun h => h.fmt.short && h.folio
    && (if turned then decide (h.rows = w.cols ∧ h.cols = w.rows) else !shapeNe h w)

/-- A gradient format of UPDATE and NORM: binary32, binary16, BF16 or F8A (R199). -/
def gradFmt (h : Handle) : Bool := decide (h.fmt.elem ≤ 3)

/-- A mask of `n` columns (R208). -/
def maskOk (h : Handle) (n : Nat) : Bool := !h.fmt.short && decide (h.rows = 1) && decide (h.cols = n)

/-- A moment handle (R199): its element format, no husks, FOLIO, W's shape. -/
def momentOk (h w : Handle) (elem : Nat) : Bool :=
  decide (h.fmt.elem = elem) && (decide (elem ≠ 3) || !h.fmt.husks) && h.folio && !shapeNe h w

/-- A one-element binary32 handle. -/
def scalarOk (h : Handle) : Bool := decide (h.format = 0) && decide (h.rows * h.cols = 1)

/-- An XS slot that is malformed by itself: reserved bits, REDUCE, or not valid and not 0 (R50, R200). -/
def xsBad (ext : Bytes) (i : Nat) : Bool :=
  let w := fieldLe ext (4 * i) 4
  !slotWordOk w || (Slot.ofWord w).reduce

/-- The slots of a COMPRESS (R199): the residual in IN1 with EF only, the scale table in IN2 always. DEDUCED: log entry 99. -/
def compressSlots (k : Look) (d : Desc) : Bool :=
  let ef := (fieldLe d.params 2 1).testBit 0
  (d.ins.map fun x => x.valid) != [true, ef, true, false] || (ef != (d.out 1).valid)
    || tableBad (k.defn (d.inp 2)) (fieldLe d.params 8 2)
    || (lacks (k.defn (d.inp 0)) fun g => decide (g.fmt.elem ≤ 2)
          && (whenDef (k.defn (d.out 0)) fun o => decide (o.fmt.elem = 3) && !o.fmt.husks && !shapeNe o g)
          && (!ef || (decide ((d.out 1).handle = (d.inp 1).handle)
                && whenDef (k.defn (d.inp 1)) fun e => decide (e.format = 2) && e.folio && !shapeNe e g)))

/-- The slots of a NORM (R199, R208). -/
def normSlots (k : Look) (d : Desc) : Bool :=
  let rows := (fieldLe d.params 2 1).testBit 1
  let cols := (fieldLe d.params 2 1).testBit 2
  !slotsAre d (1 + (if rows then 1 else 0) + if cols then 1 else 0) 1
    || (lacks (k.defn (d.inp 0)) fun g => gradFmt g
          && (!rows || whenDef (k.defn (d.inp 1)) fun m => maskOk m g.rows)
          && (!cols || whenDef (k.defn (d.inp (if rows then 2 else 1))) fun m => maskOk m g.cols))
    || lacks (k.defn (d.out 0)) scalarOk

/-- Whether a copy names a scale slot (R200). -/
def copySlot? (x : Slot) (q : QSpec) : Option Nat := if x.valid ∧ q.slot ≠ 0xFFFF then some q.slot else none

/-- The slots of an UPDATE (R199, R200, R207, R208). -/
def updateSlots (k : Look) (d : Desc) (ext : Bytes) : Bool :=
  let flags := fieldLe d.params 2 1
  let adam := decide (fieldLe d.params 1 1 % 4 = 0)
  let xs := xsSlot ext
  let slots := (copySlot? (xs 1) (plainSpec ext)).toList ++ (copySlot? (xs 2) (turnedSpec ext)).toList
  !slotsAre d (if adam then 4 else 3) 2
    || decide ((d.out 0).handle ≠ (d.inp 1).handle) || decide ((d.out 1).handle ≠ (d.inp 2).handle)
    || (adam != (xs 0).valid) || (adam && decide ((xs 0).handle ≠ (d.inp 3).handle))
    || ((xs 3).valid != !slots.isEmpty) || (slots.any fun j => tableBad (k.defn (xs 3)) j)
    || ((xs 4).valid != flags.testBit 3) || ((xs 5).valid != flags.testBit 1) || ((xs 6).valid != flags.testBit 2)
    || lacks (k.defn (d.inp 1)) fun w =>
        decide (w.format = 0) && w.folio
          && (whenDef (k.defn (d.inp 0)) fun g => gradFmt g && !shapeNe g w)
          && (whenDef (k.defn (d.inp 2)) fun m => momentOk m w 3)
          && (!adam || whenDef (k.defn (d.inp 3)) fun v => momentOk v w 4)
          && !copyHandle k (xs 1) w false && !copyHandle k (xs 2) w true
          && (!(xs 4).valid || whenDef (k.defn (xs 4)) scalarOk)
          && (!(xs 5).valid || whenDef (k.defn (xs 5)) fun m => maskOk m w.rows)
          && (!(xs 6).valid || whenDef (k.defn (xs 6)) fun m => maskOk m w.cols)

/-- The slots of a REQUANT. -/
def requantSlots (k : Look) (d : Desc) (ext : Bytes) : Bool :=
  let xs := xsSlot ext
  let slots := (copySlot? (xs 1) (plainSpec ext)).toList ++ (copySlot? (xs 2) (turnedSpec ext)).toList
  !slotsAre d 1 0 || ((xs 3).valid != !slots.isEmpty) || (slots.any fun j => tableBad (k.defn (xs 3)) j)
    || lacks (k.defn (d.inp 0)) fun w =>
        decide (w.format = 0) && !copyHandle k (xs 1) w false && !copyHandle k (xs 2) w true

/-- Whether a field or bit that the OP does not use is set, or a reserved value (R198, R201). -/
def optimReserved (d : Desc) : Bool :=
  let alg := fieldLe d.params 1 1
  let flags := fieldLe d.params 2 1
  let used := if d.op = 1 then 1 else if d.op = 2 then 6 else if d.op = 3 then 0xE else 0
  decide (d.op = 0 ∨ 4 < d.op) || decide (Nat.land flags (255 - used) ≠ 0) || !zeroB d.params 0xA 14
    || (if d.op = 3 then decide (2 ≤ alg % 4) || decide (16 ≤ alg) || (alg.testBit 2 && decide (alg % 4 ≠ 1))
          || (alg.testBit 3 && decide (alg % 4 ≠ 0))
        else decide (alg ≠ 0))
    || (if d.op = 1 then decide (fieldLe d.params 8 2 = 0xFFFF) || decide (fieldLe d.params 3 1 ≠ 0 ∧ fieldLe d.params 3 1 ≠ 5)
        else !zeroB d.params 3 1 || !zeroB d.params 8 2)
    || (decide (d.op = 2 ∨ d.op = 4) && !zeroB d.params 4 4)

/-- Whether an input of an OPTIMIZE has orientation 1 (R199). -/
def anyTurned (k : Look) (d : Desc) (ext : Bytes) : Bool :=
  (taskIns d ext).any fun x => x.valid && k.orient x.handle

/-- An OPTIMIZE (R201). -/
def checkOptimize (k : Look) (d : Desc) (ext : Bytes) : Faulty :=
  let w := k.defn (if d.op = 3 then d.inp 1 else d.inp 0)
  let xs := xsSlot ext
  let body :=
    (d.op == 3 && hyperBad (decide (fieldLe d.params 1 1 % 4 = 0)) ((fieldLe d.params 2 1).testBit 3) (Hyper.ofBytes ext))
      || (d.op == 4 && (!zeroB ext 0x20 28 || !zeroB ext 0x40 4 || !zeroB ext 0x48 8 || !zeroB ext 0 4
            || !zeroB ext 0x10 12))
      || !zeroB ext 0x1C 4 || !zeroB ext 0x44 4
      || copyKind k (xs 1) (sliceB ext 0x50 24) w false || copyKind k (xs 2) (sliceB ext 0x68 24) w true
  { kind := optimReserved d || (d.hasXs != d.hasExt) || (d.hasXs && body),
    handle := (d.outs.any fun x => x.valid && x.reduce) || anyTurned k d ext
      || (if d.op = 1 then compressSlots k d
          else if d.op = 2 then normSlots k d
          else ((List.range 7).any fun i => xsBad ext i)
            || if d.op = 3 then updateSlots k d ext else requantSlots k d ext) }

/-! ### COLLECTIVE (R254, R337) -/

/-- A COLLECTIVE's PARAMS (R337) by fields. -/
structure ColParams where
  op : Nat
  func : Nat
  accBf : Bool
  wire : Nat
  q : Nat
  bits : Nat
  counter : Nat
  id : Nat
  peer : Nat
  remote : Nat
  tile0 : Nat
  deriving DecidableEq, Repr

/-- The fields. -/
def ColParams.ofBytes (p : Bytes) : ColParams :=
  { op := fieldLe p 0 1, func := fieldLe p 1 1 % 4, accBf := (fieldLe p 1 1).testBit 2, wire := fieldLe p 2 1,
    q := fieldLe p 3 1, bits := fieldLe p 4 1, counter := fieldLe p 6 2, id := fieldLe p 8 2, peer := fieldLe p 0xC 4,
    remote := fieldLe p 0x10 4, tile0 := fieldLe p 0x14 4 }

/-- Whether an OP combines (R337). -/
def ColParams.reducing (p : ColParams) : Bool := decide (p.op = 1 ∨ p.op = 2)

/-- Whether an OP works on a group of shards. -/
def ColParams.group (p : ColParams) : Bool := decide (p.op ≤ 5)

/-- LOG2_L of RNGS_SHARD: 6 to 17, others act as 0 (R259). -/
def State.shardLog2 (s : State) (c : Nat) : Nat :=
  let v := s.regField (aRngs c 0x10) 4 0
  if 6 ≤ v ∧ v ≤ 17 then v else 0

/-- SHARD_FIRST and SHARD_COUNT of a context (R259): 0 shards act as 1. -/
def State.shards (s : State) (c : Nat) : Nat × Nat :=
  let n := s.regField (aRngs c 0x18) 17 0
  (s.regField (aRngs c 0x14) 16 0, if n = 0 then 1 else n)

/-- q and k of the group: GRP_BITS 0 means all of L. -/
def ColParams.span (p : ColParams) (log2L : Nat) : Nat × Nat := if p.bits = 0 then (0, log2L) else (p.q, p.bits)

/-- Member number of a shard. -/
def memberOf (q k shard : Nat) : Nat := shard / 2 ^ q % 2 ^ k

/-- Whether two shards agree outside bits q to q + k − 1. -/
def sameGroup (q k a b : Nat) : Bool := decide (a % 2 ^ q = b % 2 ^ q) && decide (a / 2 ^ (q + k) = b / 2 ^ (q + k))

/-- The context's own members of its group, in shard order: the group of its first shard. -/
def State.ownMembers (s : State) (c : Nat) (p : ColParams) : List Nat :=
  let (first, n) := s.shards c
  let (q, k) := p.span (s.shardLog2 c)
  (((List.range n).map fun i => first + i).filter fun x => sameGroup q k first x).map fun x => memberOf q k x

/-- Whether the shard map of a context does not hold L entries (R342). -/
def State.shardMap? (s : State) (c : Nat) : Option Nat :=
  match s.slotHandle c (aFabr (0x308 + 16 * c)) with
  | none => none
  | some h =>
    match (s.ctx c).handle? h with
    | none => none
    | some d => if 2 ^ s.shardLog2 c ≤ d.tiles * 2048 ∧ d.fmt.elem = 0 then some h else none

/-- Whether shapes differ from what the OP needs: elements of IN0 and OUT0, own members, group size. -/
def colShapesBad (op own size : Nat) (i o : Handle) : Bool :=
  let n := i.rows * i.cols
  let m := o.rows * o.cols
  let e := n / own
  let parted := decide (i.rows % own = 0) && decide (e % (16 * size) = 0)
  !(match op with
    | 1 => parted && decide (m = e)
    | 2 => parted && decide (m = own * (e / size))
    | 3 => decide (i.rows % own = 0) && decide (m = e * size)
    | 4 => decide (m = n)
    | _ => decide (i.rows % own = 0) && decide (e % size = 0) && decide (m = n))

/-- A COLLECTIVE. -/
def checkCollective (k : Look) (d : Desc) : Faulty :=
  let p := ColParams.ofBytes d.params
  let log2L := k.s.shardLog2 k.c
  let (q, kb) := p.span log2L
  let (first, n) := k.s.shards k.c
  let own := (k.s.ownMembers k.c p).length
  let i := k.defn (d.inp 0)
  let o := k.defn (d.out 0)
  let nIn := if p.op = 7 then 0 else 1
  let nOut := if p.op = 6 then 0 else 1
  { kind := decide (p.op = 0 ∨ 7 < p.op) || decide (8 ≤ fieldLe d.params 1 1) || (p.reducing && decide (p.func = 0))
      || decide (p.wire ≠ 0 ∧ p.wire ≠ 2 ∧ p.wire ≠ 3) || !zeroB d.params 5 1 || decide (1023 < p.id)
      || !zeroB d.params 0xA 2
      || (p.group && (decide (log2L = 0) || decide (log2L < q + kb)))
      || (p.reducing && decide (2 ^ log2L < first + n))
      || (p.reducing && whenDef i fun h => h.fmt.husks)
      || whenDef i fun h => decide (h.fmt.elem ≠ p.wire ∧ h.fmt.elem ≠ 0),
    handle := !slotsAre d nIn nOut || (decide (p.op = 7) && (d.out 0).reduce) || (decide (nIn = 1) && i.isNone) || (decide (nOut = 1) && o.isNone)
      || (p.group && (k.s.shardMap? k.c).isNone)
      || (p.group && whenDef i fun a => whenDef o fun b => colShapesBad p.op own (2 ^ kb) a b)
      || (p.reducing && whenDef o fun b => b.fmt.short && (decide (b.fmt.elem ≠ p.wire) || b.fmt.husks))
      || (p.group && !p.reducing && whenDef i fun a => whenDef o fun b => decide (a.format ≠ b.format)) }

/-! ### COPY, CHECKPOINT, STEP_END, EVENT, WAIT (R53, R372, R373, R386) -/

/-- Tiles that a COPY copies: COUNT, or from SRC_TILE to the source's last (R53). -/
def copyCount (p : Bytes) (tiles : Nat) : Nat :=
  if fieldLe p 8 4 = 0 then tiles - fieldLe p 0 4 else fieldLe p 8 4

/-- A COPY. -/
def checkCopy (k : Look) (d : Desc) : Faulty :=
  { kind := !zeroB d.params 0xC 12,
    handle := !slotsAre d 1 1 || (d.out 0).reduce || lacks (k.defn (d.inp 0)) fun i =>
      whenDef (k.defn (d.out 0)) fun o =>
        decide (i.format = o.format) && decide (fieldLe d.params 0 4 + copyCount d.params i.tiles ≤ i.tiles)
          && decide (fieldLe d.params 4 4 + copyCount d.params i.tiles ≤ o.tiles) }

/-- A CHECKPOINT. -/
def checkCheckpoint (d : Desc) : Faulty :=
  let mode := fieldLe d.params 0 1
  let sel := fieldLe d.params 1 1
  let flags := fieldLe d.params 2 1
  { kind := decide (mode ≠ 1 ∧ mode ≠ 2) || !zeroB d.params 3 5
      || (decide (mode = 1) && (decide (16 ≤ sel) || decide (2 ≤ flags) || !zeroB d.params 0x10 8))
      || (decide (mode = 2) && (decide (4 ≤ sel) || decide (flags ≠ 0 ∧ flags ≠ 2))),
    handle := !slotsAre d 0 0 }

/-- A STEP_END: the context needs a VALID vote parent or ROOT. -/
def checkStepEnd (k : Look) (d : Desc) : Faulty :=
  { kind := !zeroB d.params 0 1 || decide (128 ≤ fieldLe d.params 1 1) || !zeroB d.params 2 6 || !zeroB d.params 0x10 8,
    handle := !slotsAre d 0 0 || decide (k.s.regField (aComt k.c 0x10) 31 30 = 0) }

/-- An EVENT. -/
def checkEvent (d : Desc) : Faulty :=
  { kind := !zeroB d.params 2 6 || !zeroB d.params 0x10 8, handle := false }

/-- A WAIT: a TIME target lies at most 2 ms in the future. COUNTER and TIMEOUT, which serve COUNTER mode only, are 0 in TIME mode. DESIGN
CHOICE: log entry 107. -/
def checkWait (k : Look) (d : Desc) : Faulty :=
  let mode := fieldLe d.params 0 1
  { kind := !zeroB d.params 1 1 || !zeroB d.params 4 4 || !zeroB d.params 0x14 4
      || !((decide (mode = 1) && decide (fieldLe d.params 0x10 4 ≤ 2000))
            || (decide (mode = 2) && decide (fieldLe d.params 8 8 ≤ k.s.time.toNat + 2000000)
                 && zeroB d.params 2 2 && zeroB d.params 0x10 4)),
    handle := false }

/-! ### One task (R59 step 4) -/

/-- The check of a kind. -/
def checkKind (k : Look) (d : Desc) (ext : Bytes) : Faulty :=
  if d.kind = kMatmul then checkProduct k d ext false
  else if d.kind = kMatvec then checkProduct k d ext true
  else if d.kind = kVector then checkVector k d ext
  else if d.kind = kQuantize then checkQuantize k d
  else if d.kind = kOptimize then checkOptimize k d ext
  else if d.kind = kCollective then checkCollective k d
  else if d.kind = kCopy then checkCopy k d
  else if d.kind = kCheckpoint then checkCheckpoint d
  else if d.kind = kStepEnd then checkStepEnd k d
  else if d.kind = kEvent then checkEvent d
  else if d.kind = kWait then checkWait k d
  else { kind := true, handle := false }

/-- Whether a task takes an extended block (R48). -/
def Desc.takesExt (d : Desc) : Bool :=
  decide (d.kind = kMatmul) || (decide (d.kind = kVector) && decide (d.op = 0)) || d.hasXs

/-- Whether a task names a block that admission reads. -/
def Desc.readsExt (d : Desc) : Bool := d.hasExt && d.takesExt && decide (d.ext % 64 = 0)

/-- Length of a block: a fusion block 64 bytes (R186), XS blocks 128 (R200), an op list its header and words (R175). -/
def Desc.extLen (d : Desc) (count : Nat) : Nat :=
  if d.kind = kMatmul then 64 else if d.kind = kVector then 64 + 8 * min count 32 else 128

/-- Whether the CHECK of a block is right: over everything but itself. -/
def extCheckOk (ext : Bytes) : Bool :=
  decide (fieldLe ext 0x3C 4 = crc32c (ext.take 0x3C ++ ext.drop 0x40))

/-- Contraction length of a product's operands, for its stream reference. -/
def Look.prodCols (k : Look) (d : Desc) : Nat := ((k.shape (d.inp 0)).map fun x => x.2).getD 0

/-- Whether a task leaves IN1 out and names IN2: a COMPRESS without error feedback (R199). DEDUCED: log entry 99. -/
def Desc.skipsIn1 (d : Desc) : Bool := decide (d.kind = kOptimize ∧ d.op = 1) && !(fieldLe d.params 2 1).testBit 0 && !(d.inp 1).valid

/-- Slot malformations and undefined handles (R50), on the task's own slots. -/
def slotsBad (k : Look) (d : Desc) : Bool :=
  ((d.inWords ++ d.outWords).any fun w => !slotWordOk w) || (d.ins.any fun x => x.valid && x.reduce)
    || !slotsOrdered (if d.skipsIn1 then d.ins.eraseIdx 1 else d.ins) || !slotsOrdered d.outs
    || (d.ins ++ d.outs).any fun x => x.valid && (k.defn x).isNone

/-- Whether an orientation-1 write finds too few tiles (R271). -/
def turnedTooSmall (k : Look) (d : Desc) (o : Bool) : Bool :=
  o && whenDef (k.defn (d.out 0)) fun h => decide (h.tiles < h.fmt.grid h.cols h.rows)

/-- The orientation of what a task writes (R196). -/
def Look.writesTurned (k : Look) (d : Desc) : Bool :=
  if d.kind = kQuantize then (QSpec.ofBytes d.params).axis
  else if d.kind = kCopy then k.orient (d.inp 0).handle
  else false

/-- Whether a task's reference is stepped. -/
def Look.stepped (k : Look) (v : VTask) : Bool := anyStepped (taskRefs v.d v.ext (k.prodCols v.d))

/-- The first failure of task `i` (R59 step 4). DEDUCED: log entry 43. -/
def checkTask (k : Look) (i : Nat) (v : VTask) : Option (BitVec 16) :=
  let d := v.d
  let f := checkKind k d v.ext
  let r := (taskRefs d v.ext (k.prodCols d)).foldl (fun (a : Faulty) x => a.or (k.refCheck x.1 x.2))
    { kind := false, handle := false }
  let outs := (taskOuts d v.ext).filter fun x => x.valid
  if !checkOk v.raw || (d.readsExt && !extCheckOk v.ext) then some dBadCheck
  else if d.index ≠ i then some dBadIndex
  else if d.kind = 0 ∨ 11 < d.kind ∨ 16 ≤ d.flags ∨ (d.hasExt ∧ (d.ext % 64 ≠ 0 ∨ ¬ d.takesExt)) then some dBadKind
  else if f.kind || r.kind then some dBadKind
  else if slotsBad k d || f.handle || r.handle || turnedTooSmall k d (k.writesTurned d) then some dBadHandle
  else if outs.any fun x => whenDef (k.defn x) fun h => h.readOnly || h.imported then some dReadOnly
  else none

/-- The look after task `v`, which writes its outputs. -/
def Look.after (k : Look) (v : VTask) : Look :=
  let o := k.writesTurned v.d
  { k with pend := (taskWrites v.d v.ext).foldl (fun m h => NMap.insert m h o) k.pend }

/-- The first failure of the tasks in ascending INDEX. -/
def checkTasks : Look → Nat → List VTask → Option (BitVec 16)
  | _, _, [] => none
  | k, i, v :: t =>
    match checkTask k i v with
    | some d => some d
    | none => checkTasks (k.after v) (i + 1) t

/-- The orientation each task's outputs take, in INDEX order. -/
def orientsOf : Look → List VTask → List Bool
  | _, [] => []
  | k, v :: t => k.writesTurned v.d :: orientsOf (k.after v) t

/-- Whether each task names a stepped reference, in INDEX order (R248). -/
def steppedOf : Look → List VTask → List Bool
  | _, [] => []
  | k, v :: t => k.stepped v :: steppedOf (k.after v) t

/-- Whether any task names a stepped reference (R258). -/
def anySteppedTask : Look → List VTask → Bool
  | _, [] => false
  | k, v :: t => k.stepped v || anySteppedTask (k.after v) t

/-! ### The segment (R56, R59, R214, R372) -/

/-- Whether a group instance with a non-empty repeat set does not end in its one LAYER_END task (R214). -/
def groupsBad (ts : List VTask) : Bool :=
  let layers := ((ts.filter fun v => v.d.inLayer).map fun v => v.d.layer).eraseDups
  layers.any fun l =>
    let g := ts.filter fun v => v.d.inLayer && decide (v.d.layer = l)
    (g.any fun v => v.d.repeats)
      && !(decide ((g.filter fun v => v.d.layerEnd).length = 1) && (whenDef (g.getLast?) fun v => v.d.layerEnd))

/-- The first failure of a segment descriptor (R59 step 2). A segment that is not PREDICATED may carry PRED_OP 0, and its PRED_HANDLE
sets no reserved bit (R499); that of a PREDICATED one is judged as a slot (`predBad`). -/
def checkSegDesc (e : Bytes) : Option (BitVec 16) :=
  let g := SegDesc.ofBytes e
  if g.type ≠ 1 ∨ 8 ≤ g.flags ∨ 1 < g.report ∨ ¬ zeroB e 0x1E 2 ∨ ¬ zeroB e 0x38 4 ∨ 16 ≤ g.afterMask
      ∨ 6 < g.predOp ∨ (if g.predicated then g.predOp = 0 else bitsN g.predWord 28 20 ≠ 0 ∨ g.predWord.testBit 30) then some dBadKind
  else if g.count = 0 ∨ 16384 < g.count then some dTooLarge
  else if g.table % 64 ≠ 0 then some dBadKind
  else none

/-- Whether PRED_HANDLE does not name a defined one-element binary32 tensor (R56). -/
def predBad (k : Look) (g : SegDesc) : Bool :=
  !slotWordOk g.predWord || (Slot.ofWord g.predWord).reduce || lacks (k.defn (Slot.ofWord g.predWord)) scalarOk

/-- The first failure of an admitted candidate's tasks and of the segment as a whole. -/
def checkSegTasks (k : Look) (g : SegDesc) : Option (BitVec 16) :=
  match checkTasks k 0 k.tasks with
  | some d => some d
  | none =>
    if groupsBad k.tasks then some dBadKind
    else if g.predicated ∧ (k.tasks.any fun v => v.d.kind = kStepEnd) then some dBadKind
    else if g.predicated ∧ predBad k g then some dBadHandle
    else if (k.s.ctx k.c).realign ∧ anySteppedTask k k.tasks then some dBusy
    else none

end Sys2Proof.Machine
end

