-- ==== Sys2Proof/Machine/Complete.lean ====
section
/-! DEFINITION. The completion of tasks: the step ledger (R234 to R236), trips and layer fallback (R216 to R223),
completion and segment records (R70, R223), and what a completion releases. -/

namespace Sys2Proof.Machine

/-! ### Tasks of a context -/

/-- Whether a task is in flight: not complete, its record held until its instance settles, or its attempt superseded and
its repeat still to run (R223). -/
def Task.isOpen (t : Task) : Bool := decide (t.st ≠ .complete) || t.held.isSome || t.superseded

/-- Tasks in flight of a context (CTX_INFLIGHT). -/
def Ctx.inflight (x : Ctx) : Nat := (x.tasks.filter fun t => t.isOpen).length

/-- The task a reference names: the newest one in flight, else the newest. -/
def Ctx.task? (x : Ctx) (r : TaskRef) : Option Task :=
  let ts := x.tasks.filter fun t => decide (t.ref = r)
  match ts.find? fun t => t.isOpen with
  | some t => some t
  | none => ts.getLast?

/-- The context with a task replaced: tasks are told apart by their place in the admission order. -/
def Ctx.setTask (x : Ctx) (t : Task) : Ctx :=
  { x with tasks := x.tasks.map fun u => if u.order = t.order then t else u }

/-- The task a reference names. -/
def State.task? (s : State) (r : TaskRef) : Option Task := (s.ctx r.ctx).task? r

/-- The state with a task replaced. -/
def State.setTask (s : State) (t : Task) : State := s.setCtx t.ref.ctx ((s.ctx t.ref.ctx).setTask t)

/-- The admitted segment of a task. -/
def Ctx.seg? (x : Ctx) (ring : Fin 4) (id : Word) : Option Segment :=
  x.segs.find? fun g => decide (g.ring = ring) && decide (g.id = id) && !g.closed

/-- The group instance of a task, if it lies in one's repeat set (R214). -/
def Ctx.group? (x : Ctx) (t : Task) : Option Group :=
  if t.d.repeats then
    x.groups.find? fun g => decide (g.ring = t.ref.ring) && decide (g.seg = t.ref.seg)
      && decide (g.layer.toNat = t.d.layer) && decide (g.step = t.step)
  else none

/-- Whether two group records are of one instance. -/
def Group.same (a b : Group) : Bool :=
  decide (a.ring = b.ring) && decide (a.seg = b.seg) && decide (a.layer = b.layer) && decide (a.step = b.step)

/-- The context with a group record replaced. -/
def Ctx.setGroup (x : Ctx) (g : Group) : Ctx :=
  { x with groups := x.groups.map fun h => if h.same g then g else h }

/-- The repeat set of an instance, in INDEX order. -/
def Ctx.repeatSet (x : Ctx) (g : Group) : List Task :=
  x.tasks.filter fun t => match x.group? t with
    | none => false
    | some h => h.same g

/-! ### What a task stands before, and what it touches (R42, R43, R52) -/

/-- Whether a task still stands between a reader and the version it writes: it has not completed, or its instance has not
settled (R215). -/
def Ctx.pendingIn (x : Ctx) (u : Task) (own : Option Group) : Bool :=
  decide (u.st ≠ .complete) ||
    match x.group? u with
    | none => false
    | some g => !g.settled && !(match own with | some o => o.same g | none => false)

/-- Tasks of a context before a place in the admission order. -/
def Ctx.before (x : Ctx) (order : Nat) : List Task := x.tasks.filter fun u => decide (u.order < order)

/-- Whether two lists share a member. -/
def meets (a b : List Nat) : Bool := a.any fun h => b.contains h

/-! ### What a task touches beside its slots (R109, R225, R248, R251) -/

/-- Whether STEP_END may write a table: FOLIO, not READ_ONLY, not imported (R109). -/
def Ctx.tableWritable (x : Ctx) (h : Nat) : Bool := match x.handle? h with
  | none => false
  | some d => d.folio && !d.readOnly && !d.imported

/-- The scale tables that a task names a slot of (R106, R199, R200). -/
def Task.tables (t : Task) : List Nat :=
  let d := t.d
  let named := fun (x : Slot) => if x.valid then [x.handle] else []
  if d.kind = kQuantize then (if (QSpec.ofBytes d.params).slot = 0xFFFF then [] else named (d.inp 1))
  else if d.kind ≠ kOptimize then []
  else if d.op = 1 then named (d.inp 2)
  else if d.hasXs then named (xsSlot t.ext 3)
  else []

/-- The handles that a task reads beside its slots: the stream table for a stepped reference, the layer-state table for a
task of a repeat set. -/
def State.implicitReads (s : State) (c : Nat) (t : Task) : List Nat :=
  (if t.stepped then (s.streamHandle c).toList else []) ++ (if t.d.repeats then (s.layerHandle c).toList else [])

/-- The handles that STEP_END writes: the scale tables that its step's tasks name, the layer-state table, the stream table (R52, R109,
R225, R251). -/
def State.implicitWrites (s : State) (c : Nat) (t : Task) : List Nat :=
  if t.d.kind ≠ kStepEnd then []
  else
    let x := s.ctx c
    ((((x.tasks.filter fun u => decide (u.step = t.step)).flatMap fun u => u.tables) ++ (s.layerHandle c).toList
      ++ (s.streamHandle c).toList).filter fun h => x.tableWritable h).eraseDups

/-- Every handle that a task touches. -/
def State.touches (s : State) (t : Task) : List Nat :=
  t.reads ++ t.writes ++ s.implicitReads t.ref.ctx t ++ s.implicitWrites t.ref.ctx t

/-! ### Saturating fields (R16) -/

/-- A 32-bit saturating count. -/
def sat32 (n : Nat) : Word := BitVec.ofNat 32 (min n (2 ^ 32 - 1))

/-- Its OVF bit. -/
def ovf32 (n : Nat) : Bool := decide (2 ^ 32 ≤ n)

/-- OVF bits of counts in order. -/
def ovfBits : List Nat → Nat
  | [] => 0
  | n :: t => (if ovf32 n then 1 else 0) + 2 * ovfBits t

/-- The first `n` members of a list of counts, zeros where it ends. -/
def padCounts (n : Nat) (l : List Nat) : List Nat := (List.range n).map fun i => l.getD i 0

/-! ### The step ledger (R234, R235) -/

/-- Bytes of the ledger ring: LEDGER_SIZE 16 to 30, other values act as 24 (R241). -/
def State.ledgerSize (s : State) (c : Nat) : Nat :=
  let l := s.regField (aNumc c 0x48) 4 0
  2 ^ (if 16 ≤ l ∧ l ≤ 30 then l else 24)

/-- The address of byte count `w` of a ledger. -/
def State.ledgerVa (s : State) (c : Nat) (w : Word) : Nat :=
  (s.reg64 (aNumc c 0x40)).toNat + w.toNat % s.ledgerSize c

/-- A ledger record: header, body, CHECK (R235). -/
def ledgerBytes (typ flags c ring : Nat) (seq : Word) (step : Dword) (body : Bytes) (len : Nat) : Bytes :=
  let b := sliceB (leBytes 1 typ ++ leBytes 1 flags ++ leBytes 1 c ++ leBytes 1 ring ++ leBytes 4 seq.toNat
    ++ leBytes 8 step.toNat ++ body) 0 (len - 4)
  b ++ leBytes 4 (crc32c b)

/-- Set or clear NUMC_STATUS bits. -/
def setNumcStatus (c i : Nat) (b : Bool) (s : State) : State := s.setRegBit (aNumc c 0x5C) i b

/-- A record that does not fit is dropped whole and counted, and the next one written carries GAP. -/
def ledgerLose (c : Nat) (s : State) : State :=
  let s1 := count (aNumc c 0x54) 1 (setNumcStatus c 0 true s)
  s1.setCtx c { s1.ctx c with ledGap := true }

/-- Write one record at WR, which has room for it. -/
def ledgerWrite (c typ flags ring : Nat) (step : Dword) (body : Bytes) (len : Nat) (s : State) : State :=
  let x := s.ctx c
  let wr := s.reg (aNumc c 0x4C)
  match writeVa envQuiet c (s.ledgerVa c wr) (ledgerBytes typ flags c ring x.ledSeq step body len) s with
  | .error _ => ledgerLose c s
  | .ok s1 =>
    (s1.setReg (aNumc c 0x4C) (wr + BitVec.ofNat 32 len)).setCtx c { s1.ctx c with ledSeq := x.ledSeq + 1 }

/-- Append a record (R234): a 128-byte record is aligned by a pad record; the answer also holds the byte count at which it
was written. DEDUCED: log entry 53. -/
def ledgerPut (c typ flags ring : Nat) (step : Dword) (body : Bytes) (len : Nat) (s : State) : State × Option Word :=
  if ¬ s.regBit (aNumc c 0) 5 then (s, none)
  else
    let wr := s.reg (aNumc c 0x4C)
    let pad := if len = 128 ∧ wr.toNat % 128 ≠ 0 then 64 else 0
    let used := (wr - s.reg (aNumc c 0x50)).toNat
    if s.ledgerSize c < used + pad + len then (ledgerLose c s, none)
    else
      let s1 := if pad = 0 then s else ledgerWrite c 0 0 0xFF step [] 64 s
      let gap := (s1.ctx c).ledGap
      let s2 := ledgerWrite c typ (flags + if gap then 1 else 0) ring step body len
        (setNumcStatus c 0 false (s1.setCtx c { s1.ctx c with ledGap := false }))
      (s2, if (s2.ctx c).ledGap then none else some (wr + BitVec.ofNat 32 pad))

/-- FORMAT_USED: the level of a repeat-set task, else 0 (R70, R218). -/
def Task.formatUsed (t : Task) : Nat := if t.d.repeats then t.level else 0

/-- Whether a kind has TASK records (R236). -/
def kindLedgered (k : Nat) : Bool := decide (1 ≤ k ∧ k ≤ 5)

/-- E/S under RNE, +0 when S is 0 (R125). -/
def relMse (e s : Nat) : Nat := if fmt32.isZero s then 0 else div32 e s

/-- The body of a TASK record (R236). -/
def taskBody (t : Task) (status : Byte) (ns : Word) : Bytes :=
  let r := t.res
  let cs := padCounts 5 r.counts
  let ex := padCounts 5 r.exc
  leBytes 4 t.ref.seg.toNat ++ leBytes 2 t.ref.index ++ leBytes 2 (if t.d.inLayer then t.d.layer else 0)
    ++ leBytes 1 t.d.kind ++ leBytes 1 t.attempt ++ leBytes 1 t.formatUsed ++ leBytes 1 status.toNat
    ++ leBytes 2 r.slot.toNat ++ leBytes 1 t.trips.toNat ++ leBytes 1 (ovfBits (cs ++ [r.flushedBlocks]))
    ++ (cs.flatMap fun n => leBytes 4 (sat32 n).toNat) ++ leBytes 4 (sat32 r.flushedBlocks).toNat
    ++ leBytes 4 (sat32 r.invalidBlocks).toNat ++ leBytes 4 r.amax.toNat ++ leBytes 8 r.elements ++ leBytes 8 r.blocks
    ++ (ex.flatMap fun n => leBytes 4 (sat32 n).toNat) ++ leBytes 1 (ovfBits ex)
    ++ leBytes 1 (if r.clamped then 1 else 0) ++ leBytes 2 0 ++ leBytes 4 r.e.toNat ++ leBytes 4 r.s.toNat
    ++ leBytes 4 (relMse r.e.toNat r.s.toNat) ++ leBytes 4 ns.toNat

/-- Write the TASK record of a task that completes with `status`; the task with its record's place. -/
def ledgerTask (t : Task) (status : Byte) (ns : Word) (s : State) : State × Task :=
  if ¬ kindLedgered t.d.kind then (s, t)
  else
    let flags := if t.d.inLayer then 4 else 0
    let (s1, at') := ledgerPut t.ref.ctx 1 flags t.ref.ring t.step (taskBody t status ns) 128 s
    (s1, { t with ledger := at' })

/-- Mark the TASK record of a superseded attempt, while it has not been consumed (R223, R235). -/
def markSuperseded (t : Task) (s : State) : State :=
  match t.ledger with
  | none => s
  | some w =>
    let c := t.ref.ctx
    let size := s.ledgerSize c
    if size < (s.reg (aNumc c 0x4C) - w).toNat ∨ (s.reg (aNumc c 0x4C) - s.reg (aNumc c 0x50)).toNat < (s.reg (aNumc c 0x4C) - w).toNat then s
    else
      match s.readVa envQuiet c (s.ledgerVa c w) 128 with
      | .error _ => s
      | .ok (b, _) =>
        let b1 := putB b 1 (leBytes 1 (Nat.lor (fieldLe b 1 1) 8))
        match writeVa envQuiet c (s.ledgerVa c w) (b1.take 124 ++ leBytes 4 (crc32c (b1.take 124))) s with
        | .ok s1 => s1
        | .error _ => s

/-! ### Versions -/

/-- Note the versions that a task's outputs replace, once (R223). -/
def Ctx.noteVers (x : Ctx) (t : Task) : Task :=
  { t with undoVers := t.undoVers
      ++ ((t.writes.eraseDups.filter fun h => !(t.undoVers.any fun u => u.1 = h)).map fun h => (h, x.ver h)) }

/-- Whether handle `h` of a context is FOLIO. -/
def Ctx.isFolio (x : Ctx) (h : Nat) : Bool := match x.handle? h with
  | none => false
  | some d => d.folio

/-- The versions of a task's outputs once it has completed with `status` (R55, R57): what a run has written stays written. -/
def Ctx.finishVers (x : Ctx) (t : Task) (status : Byte) : Ctx :=
  t.writes.foldl (fun y h =>
    y.setVer h { y.ver h with orient := t.orient, writer := some t.ref, failed := if stGood status then none else some status }) x

/-- Whether the versions that a task which ended without running leaves must wait: an earlier task or an undecided predicate touches one
of its outputs, or one is FOLIO and the task's step is not under way (R42, R43, R52, R372). -/
def State.versHeld (s : State) (t : Task) : Bool :=
  let x := s.ctx t.ref.ctx
  let hs := t.writes
  ((x.before t.order).any fun u => (x.pendingIn u none || u.verDue.isSome) && meets (s.touches u) hs)
    || (x.segs.any fun g => g.predWait && decide (g.order ≤ t.order) && hs.contains (Slot.ofWord g.d.predWord).handle)
    || (decide (t.step ≠ s.stepOf t.ref.ctx) && hs.any fun h => x.isFolio h)

/-- The context with the versions that a task which ended without running leaves. -/
def Ctx.leaveVers (x : Ctx) (t : Task) (status : Byte) : Ctx := (x.finishVers t status).setTask { t with verDue := none }

/-- Leave the versions of tasks that ended without running, in admission order, as far as no earlier task stands before them. -/
def settleVers (c : Nat) (s : State) : State :=
  (s.ctx c).tasks.foldl (fun u t => match t.verDue with
    | none => u
    | some st => if u.versHeld t then u else u.setCtx c ((u.ctx c).leaveVers t st)) s

/-! ### Records -/

/-- The completion record of a task (R70). -/
def Task.record (t : Task) (status : Byte) (detail : BitVec 16) (ns : Word) (s : State) : CRec :=
  let cs := padCounts 5 t.res.counts
  { type := 1, status := status, detail := detail, index := BitVec.ofNat 16 t.ref.index,
    layer := if t.d.inLayer then BitVec.ofNat 16 t.d.layer else 0, seq := t.ref.seg, kind := BitVec.ofNat 8 t.d.kind,
    ovf := BitVec.ofNat 8 (ovfBits cs), formatUsed := BitVec.ofNat 8 t.formatUsed, attempt := BitVec.ofNat 8 t.attempt,
    tag := 0, time := s.time, counts := cs.map sat32, clusterNs := ns }

/-- REPORT and CQ of a task's segment (R56). -/
def Ctx.reporting (x : Ctx) (t : Task) : Nat × Nat :=
  match x.seg? t.ref.ring t.ref.seg with
  | none => (0, 4)
  | some g => (g.d.report, g.d.cq)

/-- Write a task record, unless REPORT asks only for tasks that did not complete OK (R56). -/
def putTaskRecord (c report cq : Nat) (r : CRec) (s : State) : State :=
  if report = 1 ∧ r.status = stOk then s else putCompletion c cq r s

/-- The status and DETAIL of a segment record: those of the first failed task in INDEX order (R70). -/
def segStatus : List Task → Byte × BitVec 16
  | [] => (stOk, dNone)
  | t :: r => if stGood t.res.status then segStatus r else (t.res.status, t.res.detail)

/-- Whether a task belongs to a segment. -/
def Segment.holds (g : Segment) (t : Task) : Bool :=
  decide (t.ref.ring = g.ring) && decide (t.ref.seg = g.id) && decide (g.order ≤ t.order)
    && decide (t.order < g.order + g.d.count)

/-- Close a segment whose last task has completed: its record is written (R70). -/
def closeSegment (c : Nat) (g : Segment) (s : State) : State :=
  let ts := (s.ctx c).tasks.filter fun t => g.holds t
  if g.closed || ts.any (fun t => t.isOpen) then s
  else
    let (st, d) := segStatus ts
    let x := s.ctx c
    segmentRecord c g.d.cq st d g.id (s.setCtx c
      { x with segs := x.segs.map fun h => if h.order = g.order then { h with closed := true } else h })

/-- Drop what no rule looks at any more: the tasks of closed segments whose step has an outcome, and their groups. -/
def prune (c : Nat) (s : State) : State :=
  let x := s.ctx c
  let under := s.stepOf c
  let open' := x.segs.filter fun g => !g.closed
  let ts := x.tasks.filter fun t => t.isOpen || t.verDue.isSome || decide (under ≤ t.step)
    || open'.any fun g => g.holds t
  s.setCtx c { x with tasks := ts, segs := x.segs.filter fun g => !g.closed || ts.any fun t => g.holds t,
                      groups := x.groups.filter fun g => decide (under ≤ g.step) || !g.settled }

/-- Close the segments of a context that are complete. -/
def closeSegments (c : Nat) (s : State) : State :=
  prune c (settleVers c ((s.ctx c).segs.foldl (fun t g => closeSegment c g t) s))

/-! ### Settling (R215, R223) -/

/-- Whether the attempt that an instance keeps holds a failure, which governs over any trip (R219, R224): a NONFINITE that
a trip gives is none, nor is one inherited from it. -/
def groupFailed (ts : List Task) : Bool :=
  let tripNf := ts.any fun t => t.trips.getLsbD 3
  ts.any fun t => decide (t.st = .complete) && !stGood t.res.status
    && !(t.res.status == stNonfinite && t.trips.getLsbD 3) && !(tripNf && t.res.status == stNonfinite && t.res.detail == dInherited)

/-- The causes that are left when an instance settles. -/
def Group.left (g : Group) : BitVec 4 := if g.attempt = 1 then g.causesRep else g.causes

/-- The outcome of a settled instance (R223, R237): its event, its counter. -/
def settleOutcome (c : Nat) (g : Group) (ts : List Task) (s : State) : State × Group :=
  if g.left = 0 ∨ groupFailed ts then (s, { g with outcome := g.attempt })
  else if g.attempt = 1 ∧ g.level < 2 then (s, { g with outcome := 2 })
  else
    let nf := g.left.getLsbD 3
    let sat := decide (g.left.toNat % 8 ≠ 0)
    let s1 := raiseWho { ctx := c, layer := g.layer, seq := g.seg, index := BitVec.ofNat 16 (g.first.getD 0) } 0x0108 2 noUnit
      (leBytes 1 g.level ++ leBytes 1 g.left.toNat ++ leBytes 1 ((if nf then 1 else 0) + if sat then 2 else 0))
      (count (aNumc c 0x68) 1 s)
    (s1, { g with outcome := 3 })

/-- Write the held records of an instance in completion order. -/
def releaseHeld (c report : Nat) : Nat → List Task → State → State
  | 0, _, s => s
  | n + 1, ts, s =>
    match ts.foldl (fun (m : Option (Nat × CRec)) t => match t.held, m with
        | none, m => m
        | some h, none => some h
        | some h, some k => if h.1 < k.1 then some h else some k) none with
    | none => s
    | some h =>
      releaseHeld c report n (ts.map fun t => if t.held = some h then { t with held := none } else t)
        (putTaskRecord c report (h.1 % 8) h.2 s)

/-- A failure in attempt 0 takes precedence over the trips seen (R219, R224): the instance is not repeated, and a task
with a non-finite trip completes with NONFINITE. DEDUCED: log entry 102. -/
def dropRepeat (c : Nat) (g : Group) (s : State) : State :=
  let x := s.ctx c
  let ts := x.repeatSet g
  if ¬ g.due ∨ ¬ groupFailed ts then s
  else
    let nf := fun (t : Task) => t.trips.getLsbD 3 && stGood t.res.status && decide (t.st = .complete)
    let keep := fun (t : Task) =>
      let u := { t with superseded := false }
      if nf t then { u with res := { u.res with status := stNonfinite },
                            held := u.held.map fun h => (h.1, { h.2 with status := stNonfinite }) }
      else u
    let y := (ts.filter nf).foldl (fun y t => y.finishVers t stNonfinite) x
    let z : Ctx := { y with tasks := y.tasks.map fun t => if ts.any fun u => u.order = t.order then keep t else t }
    s.setCtx c (z.setGroup { g with due := false, level := g.start.getD 0 })

/-- Settle an instance whose repeat set has completed in the attempt the step keeps. -/
def settleGroup (c : Nat) (g : Group) (s : State) : State :=
  let ts := (s.ctx c).repeatSet g
  if g.settled || g.due || ts.any (fun t => decide (t.st ≠ .complete)) then s
  else
    let (s1, g1) := settleOutcome c g ts s
    let report := match ts with
      | [] => 0
      | t :: _ => ((s.ctx c).reporting t).1
    let x := s1.ctx c
    let x1 : Ctx := { x with tasks := x.tasks.map fun t => if ts.any fun u => u.order = t.order then { t with held := none } else t }
    releaseHeld c report ts.length ts (s1.setCtx c (x1.setGroup { g1 with settled := true }))

/-! ### Completion -/

/-- Free the cluster of a task (R63, R135, R148). -/
def freeCluster (t : Task) (s : State) : State :=
  match t.cluster with
  | none => s
  | some n =>
    let k := s.clus n
    s.setClus n (if t.d.kind = kMatvec ∧ t.level < 2 then { k with mvpBusy := false, lastCtx := some t.ref.ctx.val }
      else { k with busy := false, rampWait := false, ctx := 0xFF, lastCtx := some t.ref.ctx.val })

/-- CLUSTER_NS of a task that ends before a TASK_COMPLETE gives it: since its issue, 0 without a cluster (R70). -/
def State.nsOf (s : State) (t : Task) : Word :=
  if kindOnCluster t.d.kind && decide (t.st ≠ .queued) then sat32 (s.time.toNat - t.issuedAt.toNat) else 0

/-- A task completes: versions, ledger, record; `hold` whether its record waits for its instance (R215, R223, R236). -/
def completeWith (t0 : Task) (status : Byte) (detail : BitVec 16) (ns : Word) (hold : Bool) (s0 : State) : State :=
  let c := t0.ref.ctx
  let x0 := s0.ctx c
  let t1 := x0.noteVers t0
  let (s1, t2) := ledgerTask t1 status ns s0
  let x := s1.ctx c
  let ran := decide (t2.st ≠ .queued)
  let x1 := if ran then x.finishVers t2 status else x
  let due := if ran || decide (detail = dPredFalse) then none else some status
  let (report, cq) := x.reporting t2
  let rec1 := t2.record status detail ns s1
  let wait := hold && (x.group? t0).isSome
  let done : Task := { t2 with st := .complete, pip := if ran || !refStepped (s1.reg (aNumc c 0x20)).toNat then t2.pip else [], verDue := due, superseded := wait && t2.superseded,
                               res := { t2.res with status := status, detail := detail } }
  let place := match x.group? t0 with
    | none => 0
    | some g => ((x.repeatSet g).filter fun u => u.held.isSome).length
  let done1 := if wait then { done with held := some (8 * place + cq, rec1) } else done
  let s2 := freeCluster t0 (s1.setCtx c (x1.setTask done1))
  if wait then s2 else putTaskRecord c report cq rec1 s2

/-- What follows a completion: the instance settles, segments close. -/
def afterComplete (t : Task) (s : State) : State :=
  let c := t.ref.ctx
  let s1 := match (s.ctx c).group? t with
    | none => s
    | some g => dropRepeat c g s
  let s2 := match (s1.ctx c).group? t with
    | none => s1
    | some g => settleGroup c g s1
  closeSegments c s2

/-- A task ends without having run, or without its result (R55, R57, R61, R64, R380). -/
def endTask (t : Task) (status : Byte) (detail : BitVec 16) (s : State) : State :=
  afterComplete t (completeWith { t with res := Result.empty } status detail (s.nsOf t) true s)

/-- End a task at once, its record not held (R61, R380). -/
def endTaskNow (t : Task) (status : Byte) (detail : BitVec 16) (s : State) : State :=
  match t.superseded, t.held with
  | false, some h =>
    putTaskRecord t.ref.ctx ((s.ctx t.ref.ctx).reporting t).1 (h.1 % 8) h.2 (s.setTask { t with held := none })
  | _, _ => completeWith { t with res := Result.empty, superseded := false, held := none } status detail (s.nsOf t) false s

/-- End every task of a context in flight, in admission order, that `p` selects. -/
def endTasks (c : Nat) (p : Task → Bool) (status : Byte) (detail : BitVec 16) (s : State) : State :=
  let s1 := ((s.ctx c).tasks.filter fun t => t.isOpen && p t).foldl (fun u t => endTaskNow t status detail u) s
  let x := s1.ctx c
  let beyond := fun (g : Group) => (x.repeatSet g).all fun t => !t.isOpen
  closeSegments c (s1.setCtx c
    { x with groups := x.groups.map fun g => if beyond g then { g with settled := true, due := false } else g })

/-! ### Trips (R216, R217) -/

/-- The trips of a task's run. -/
def tripBits (t : Task) (s : State) : BitVec 4 :=
  let c := t.ref.ctx
  let r := t.res
  let n := fun i => r.counts.getD i 0
  let fall := s.regBit (aNumc c 0) 0 && decide (t.d.kind ≠ kOptimize)
  let ppm := fun a => min (s.regField a 19 0) 1000000
  let a := fall && decide (ppm (aNumc c 4) * r.elements < n 0 * 1000000)
  let b := fall && decide (ppm (aNumc c 8) * r.blocks < n 3 * 1000000)
  let h := fall && s.regBit (aNumc c 0) 2 && decide (r.ovfThresh * r.blocks < n 4 * 10000)
  let nf := s.regBit (aNumc c 0) 1 && r.nonfinite.isSome
  BitVec.ofNat 4 ((if a then 1 else 0) + (if b then 2 else 0) + (if h then 4 else 0) + if nf then 8 else 0)

/-- The events of trips, each once per task and attempt (R216, R240). -/
def reportTrips (t : Task) (s : State) : State :=
  let r := t.res
  let b := t.trips.toNat
  let n := fun i => leBytes 4 (sat32 (r.counts.getD i 0)).toNat
  let s1 := if b % 4 = 0 then s
    else raiseWho t.who 0x0101 1 noUnit (leBytes 1 (b % 4) ++ leBytes 1 t.level ++ leBytes 2 0 ++ n 0 ++ n 3
      ++ leBytes 4 (sat32 r.elements).toNat ++ leBytes 4 (sat32 r.blocks).toNat) s
  let s2 := if ¬ b.testBit 2 then s1
    else raiseWho t.who 0x0102 1 noUnit (leBytes 4 1 ++ leBytes 4 (t.d.out 0).handle ++ n 4
      ++ leBytes 4 (sat32 r.blocks).toNat ++ leBytes 2 r.ovfThresh) s1
  match r.nonfinite with
  | none => s2
  | some (origin, row, col, v) =>
    if ¬ b.testBit 3 then s2
    else raiseWho t.who 0x0107 1 noUnit (leBytes 1 origin.toNat ++ leBytes 1 t.level ++ leBytes 2 0
      ++ leBytes 4 row.toNat ++ leBytes 4 col.toNat ++ leBytes 4 v.toNat) s2

/-- The smallest level above `start` at which every tripping QUANTIZE writes wider and some output of the instance changes
format (R219). -/
def repeatLevel (x : Ctx) (ts : List Task) (start : Nat) : Option Nat :=
  let outs := (ts.flatMap fun t => t.writes).filterMap x.handle?
  let qs := (((ts.filter fun t => decide (t.d.kind = kQuantize ∧ t.trips ≠ 0)).map fun t => (t.d.out 0).handle)).filterMap x.handle?
  [1, 2].find? fun l =>
    decide (start < l) && (qs.all fun h => decide ((h.fmtAt start).width < (h.fmtAt l).width))
      && outs.any fun h => decide (h.fmtAt l ≠ h.fmtAt start)

/-- The first trip of an instance (R223 step 1): LAYER_FALLBACK; no more of attempt 0 issues, and what has run is to be superseded. -/
def startRepeat (t : Task) (g : Group) (level : Nat) (s : State) : State :=
  let c := t.ref.ctx
  let s1 := raiseWho t.who 0x0103 0 noUnit (leBytes 1 (g.start.getD 0) ++ leBytes 1 level ++ leBytes 1 g.causes.toNat
    ++ leBytes 1 0 ++ leBytes 2 (g.first.getD 0)) (count (aNumc c 0x60) 1 s)
  let ts := (s1.ctx c).repeatSet g
  let x := s1.ctx c
  let x1 : Ctx := { x with tasks := x.tasks.map fun v =>
    if (ts.any fun u => u.order = v.order) && decide (v.st ≠ .queued) then { v with superseded := true } else v }
  s1.setCtx c (x1.setGroup { g with due := true, level := level })

/-- A repeat-set task's trips and failures in its instance (R217, R219, R223): the status it completes with. -/
def groupTrip (t : Task) (g : Group) (s : State) : State × Byte :=
  let c := t.ref.ctx
  let r := t.res
  let base := if stGood r.status ∧ r.nonfinite.isSome ∧ ¬ t.trips.getLsbD 3 then stNonfinite else r.status
  let nfStatus := if stGood base ∧ t.trips.getLsbD 3 then stNonfinite else base
  let x := (s.ctx c).setTask t
  if t.attempt = 1 then
    (s.setCtx c (x.setGroup { g with causesRep := g.causesRep ||| t.trips }), nfStatus)
  else if t.trips = 0 then (s, base)
  else
    let g1 := { g with causes := g.causes ||| t.trips, first := if g.first.isSome then g.first else some t.ref.index }
    let ts := x.repeatSet g1
    let start := g.start.getD 0
    let level := if stGood base ∧ ¬ groupFailed ts then repeatLevel x ts start else none
    let s1 := s.setCtx c (x.setGroup g1)
    if g.due then
      (match level with
        | none => s1
        | some l => s1.setCtx c ((s1.ctx c).setGroup { g1 with level := max l g1.level }), base)
    else
      match level with
      | none => (s1, nfStatus)
      | some l => (startRepeat t g1 l s1, base)

/-- The completion of a task that has run (R70, R216 to R223). -/
def finishRun (t0 : Task) (ns : Word) (s : State) : State :=
  let t := { t0 with trips := tripBits t0 s }
  let s1 := reportTrips t (s.setTask t)
  let r := t.res
  match (s1.ctx t.ref.ctx).group? t with
  | none =>
    let st := if stGood r.status ∧ r.nonfinite.isSome then stNonfinite else r.status
    afterComplete t (completeWith t st r.detail ns true s1)
  | some g =>
    let (s2, st) := groupTrip t g s1
    let u := ((s2.ctx t.ref.ctx).task? t.ref).getD t
    let st1 := if u.attempt = 1 ∧ st = stOk then stFallback else st
    afterComplete t (completeWith u st1 r.detail ns true s2)

end Sys2Proof.Machine
end

