-- ==== Sys2Proof/Machine/FabricCore.lean ====
section
/-! DEFINITION. The transport header (R303, R304), rank translation (R307 to R312), routing on the torus with exceptions,
turns and multicast (R322 to R327), injection and its sequence numbers (R310, R330), and discards (R305, R343). -/

namespace Sys2Proof.Machine

/-! ### The transport header (R303) -/

/-- Words 0 to 9 of a header. -/
def Packet.words (p : Packet) : List Nat :=
  let b := fun (x : Bool) (i : Nat) => if x then 2 ^ i else 0
  [ 2 ^ 28 + b p.epoch 27 + p.cls.toNat * 2 ^ 25 + b p.addrMode 24 + b p.poison 23 + b p.mc 22 + p.dst.toNat,
    p.op.toNat * 2 ^ 24 + p.src.toNat, p.job.toNat * 2 ^ 16 + p.counter.toNat, p.seq.toNat,
    b p.retx 25 + b p.last 24 + p.mcSpan.toNat * 2 ^ 16 + p.mcDim.toNat * 2 ^ 14 + p.payload.length % 2 ^ 14,
    p.target.toNat / 2 ^ 32, p.target.toNat % 2 ^ 32, p.info.toNat, p.altRank.toNat, 0 ]

/-- The 48 bytes of a header, each word in network byte order. -/
def Packet.header (p : Packet) : Bytes :=
  let h := p.words.flatMap fun w => beBytes 4 w
  h ++ beBytes 4 ((if p.vc then 2 ^ 31 else 0) + p.hops.toNat) ++ beBytes 4 (crc32c h)

/-- The packet of 48 header bytes and a payload. -/
def Packet.ofBytes (h payload : Bytes) : Packet :=
  let w := fun i => fieldBe h (4 * i) 4
  { epoch := (w 0).testBit 27, cls := BitVec.ofNat 2 (w 0 / 2 ^ 25), addrMode := (w 0).testBit 24,
    poison := (w 0).testBit 23, mc := (w 0).testBit 22, dst := BitVec.ofNat 21 (w 0), op := BitVec.ofNat 8 (w 1 / 2 ^ 24),
    src := BitVec.ofNat 21 (w 1), job := BitVec.ofNat 16 (w 2 / 2 ^ 16), counter := BitVec.ofNat 16 (w 2),
    seq := BitVec.ofNat 32 (w 3), retx := (w 4).testBit 25, last := (w 4).testBit 24,
    mcSpan := BitVec.ofNat 6 (w 4 / 2 ^ 16), mcDim := BitVec.ofNat 2 (w 4 / 2 ^ 14),
    target := BitVec.ofNat 64 (w 5 * 2 ^ 32 + w 6), info := BitVec.ofNat 32 (w 7), altRank := BitVec.ofNat 21 (w 8),
    vc := (w 10).testBit 31, hops := BitVec.ofNat 8 (w 10), payload := payload }

/-- The class each operation travels in (R304). -/
def opClass (op : Nat) : Option Nat :=
  if op = 1 ∨ op = 2 ∨ op = 3 then some 0
  else if op = 4 ∨ op = 5 ∨ op = 6 then some 1
  else if op = 0x10 ∨ op = 0x11 then some 2
  else if op = 0x20 ∨ op = 0x21 then some 3
  else none

/-- FABR_HOP_LIMIT: smaller values act as 16 (R318). -/
def State.hopLimit (s : State) : Nat := max 16 (s.regField (aFabr 0x0C) 7 0)

/-- Whether a version-1 header sets a reserved bit, has an unknown OP or one outside its class, or a wrong LENGTH (R303,
R305): multicast fields are 0 except in multicast packets, which are COL or CTL (R327). -/
def headerBad (h payload : Bytes) : Bool :=
  let w := fun i => fieldBe h (4 * i) 4
  let cls := bitsN (w 0) 26 25
  (w 0).testBit 21 || decide (bitsN (w 1) 23 21 ≠ 0) || decide (bitsN (w 4) 31 26 ≠ 0) || decide (bitsN (w 4) 23 22 ≠ 0)
    || decide (w 8 / 2 ^ 21 ≠ 0) || decide (w 9 ≠ 0) || decide (bitsN (w 10) 30 8 ≠ 0)
    || (!(w 0).testBit 24 && decide (w 8 ≠ 0))
    || decide (opClass (w 1 / 2 ^ 24) ≠ some cls) || decide (9600 < w 4 % 2 ^ 14) || decide (w 4 % 2 ^ 14 ≠ payload.length)
    || (if (w 0).testBit 22 then decide (bitsN (w 4) 15 14 = 3) || decide (cls < 2) else decide (bitsN (w 4) 21 14 ≠ 0))

/-- The checks of R305 on a header: the reason of the first that fails. -/
def State.headerReason (s : State) (h payload : Bytes) : Option Nat :=
  if fieldBe h 44 4 ≠ crc32c (h.take 40) then some 2
  else if headerBad h payload then some 3
  else if s.hopLimit ≤ fieldBe h 43 1 then some 6
  else none

/-! ### Discards (R305, R343) -/

/-- Whether a port is up. -/
def Port.up (p : Port) : Bool := p.state == 2 || p.state == 3

/-- PORT_EVENT_INTERVAL in ns: 0 acts as 1,000 ms. -/
def State.eventInterval (s : State) (p : Nat) : Nat :=
  let v := s.regField (aPort p 0x14) 15 0
  (if v = 0 then 1000 else v) * 1000000

/-- Discard a packet at port `p`: counted, and PACKET_DISCARD at most once per interval for each port and reason. -/
def discardAt (p reason : Nat) (pkt : Option Packet) (s : State) : State :=
  let k := p * 32 + reason
  let s1 := count (aPort p 0xA0) 1 s
  let s2 := if reason = 5 then count (aFabr 0x68) 1 s1 else if reason = 4 then count (aFabr 0x78) 1 s1 else s1
  let n := NMap.get (fun _ => 0) s2.fabric.discards k + 1
  let due : Bool := match NMap.find? s2.fabric.discardEvent k with
    | none => true
    | some t => decide (t.toNat + s2.eventInterval p ≤ s2.time.toNat)
  if ¬ due then { s2 with fabric := { s2.fabric with discards := NMap.set (fun _ => 0) s2.fabric.discards k n } }
  else
    let named := match pkt with
      | some q => if reason = 1 ∨ reason = 2 ∨ reason = 8 then none else some q
      | none => none
    let j := match named with
      | some q => leBytes 2 q.job.toNat ++ leBytes 2 0 ++ leBytes 4 q.dst.toNat ++ leBytes 4 q.src.toNat
      | none => leBytes 2 0xFFFF ++ leBytes 2 0 ++ leBytes 4 0xFFFFFFFF ++ leBytes 4 0xFFFFFFFF
    raiseDev 0x0302 0 p (leBytes 1 reason ++ leBytes 3 0 ++ leBytes 4 n.toNat ++ j)
      { s2 with fabric := { s2.fabric with discards := NMap.set (fun _ => 0) s2.fabric.discards k 0,
                                            discardEvent := NMap.insert s2.fabric.discardEvent k s2.time } }

/-! ### Coordinates and translation (R307 to R312) -/

/-- Coordinate `d` (0 X, 1 Y, 2 Z) of a 21-bit coordinate. -/
def coordOf (c d : Nat) : Nat := c / 2 ^ (14 - 7 * d) % 128

/-- The device's own coordinate. -/
def State.ownCoord (s : State) : Nat := s.regField (aFabr 0) 20 0

/-- Size of dimension `d`: 0 acts as 1; X and Y at most 64, Z at most 32. -/
def State.dimSize (s : State) (d : Nat) : Nat :=
  let v := s.regField (aFabr 4) (8 * d + 6) (8 * d)
  min (max v 1) (if d = 2 then 32 else 64)

/-- An RTT entry by fields (R308). -/
structure RttEntry where
  coord : Nat
  via : Nat
  coordOut : Bool
  uplink : Nat
  deriving DecidableEq, Repr

/-- The directory entry of a job: BASE and COUNT, if VALID (R307). -/
def State.jobRange (s : State) (job : Nat) : Option (Nat × Nat) :=
  let e := (NMap.get (fun _ => 0) s.fabric.jobdir job).toNat
  if e.testBit 63 then some (bitsN e 20 0, bitsN e 42 21) else none

/-- The RTT entry of a rank of a job, if VALID. -/
def State.rttOf (s : State) (job rank : Nat) : Option RttEntry :=
  match s.jobRange job with
  | none => none
  | some (base, n) =>
    let e := (NMap.get (fun _ => 0) s.fabric.rtt (base + rank)).toNat
    if rank < n ∧ e.testBit 63 then
      some { coord := bitsN e 20 0, via := bitsN e 22 21, coordOut := e.testBit 23, uplink := bitsN e 35 24 }
    else none

/-- Where a packet goes at a hop (R309). -/
inductive Hop where
  | drop (reason : Nat)
  | uplink (index : Nat)
  | twin
  | here
  | torus (coord : Nat)
  deriving DecidableEq, Repr

/-- Resolve a packet's next destination (R309); `arrival` none for injection. -/
def State.resolveHop (s : State) (p : Packet) (arrival : Option Nat) : Hop :=
  let entry : Bool := match arrival with | none => true | some a => decide (6 ≤ a)
  let land := fun coord => if coord = s.ownCoord then Hop.here else if arrival = some 8 then Hop.drop 5 else Hop.torus coord
  if p.addrMode then land p.dst.toNat
  else
    match s.rttOf p.job.toNat p.dst.toNat with
    | none => .drop 4
    | some e =>
      if entry ∧ e.via = 1 then
        if arrival = some 6 ∨ arrival = some 7 then .drop 5 else .uplink e.uplink
      else if entry ∧ e.via = 2 then
        if arrival = some 8 then .drop 5 else .twin
      else land e.coord

/-! ### Routing on the torus (R322 to R327) -/

/-- The entry of an exception table that applies to a destination (R324). -/
def State.excFor (s : State) (epoch : Bool) (dest : Nat) : Option Nat :=
  let i := coordOf dest 0 % 32 * 2048 + coordOf dest 1 * 32 + coordOf dest 2
  ((List.range 4).map fun k => (NMap.get (fun _ => 0) s.fabric.exc ((if epoch then 65536 else 0) + (i + k) % 65536)).toNat).find?
    fun e => e.testBit 63 && decide (bitsN e 62 46 = 0) && decide (bitsN e 20 0 = dest)

/-- The dimension a packet arrived in and whether it travels in the + direction: it comes in on the − side's port. -/
def arrivalDim (arrival : Option Nat) : Option (Nat × Bool) :=
  match arrival with
  | none => none
  | some p => if p < 6 then some (p / 2, decide (p % 2 = 1)) else none

/-- Devices from coordinate `c` on to `t` in the + direction of a ring of `n` (R322): (t − c) mod n. -/
def ringDist (n c t : Nat) : Nat := (t + 128 * n - c) % n

/-- Output port and virtual channel towards a target, or none where R322 discards; `flip` bits by dimension. -/
def State.routeTo (s : State) (target flip : Nat) (arr : Option (Nat × Bool)) : Option (Nat × Bool) :=
  let own := s.ownCoord
  match (List.range 3).find? fun d => coordOf own d ≠ coordOf target d with
  | none => none
  | some d =>
    let n := s.dimSize d
    let c := coordOf own d
    let t := coordOf target d
    let natural := decide (ringDist n c t ≤ ringDist n t c)
    let plus := match arr with
      | some (a, dir) => if a = d then dir else (natural != flip.testBit d)
      | none => natural != flip.testBit d
    let back := match arr with
      | some (a, _) => decide (d < a)
      | none => false
    if back then none else some (2 * d + (if plus then 0 else 1), if plus then decide (c < t) else decide (t < c))

/-- Drop a packet at this hop: discarded with its reason, or, where its frame has been discarded as FCS already, not sent on (R305). -/
def dropAt (p reason : Nat) (pkt : Packet) (stomp : Bool) (s : State) : State :=
  if stomp then s else discardAt p reason (some pkt) s

/-- Append a packet to the queue of a port, or discard it there when the port is down (R296). -/
def enqueue (p : Nat) (q : Queued) (s : State) : State :=
  if (s.port p).up then
    let f := s.fabric
    let old := f.epochOpen && q.v0.isNone && (q.pkt.epoch != s.regBit (aFabr 0x200) 0)
    let t := { s with fabric := { f with epochDrained := if old then f.epochDrained + 1 else f.epochDrained } }
    t.setPort p { t.port p with queue := (t.port p).queue ++ [{ q with since := t.time }] }
  else dropAt p 7 q.pkt q.stomp s

/-- CTX_JOB of a context; through a reset that keeps D2 the vote logic's own copy (R375, R417). -/
def State.ctxJob (s : State) (c : Nat) : BitVec 16 :=
  if (s.ctx c).st = .invalid then (s.ctx c).vjob else BitVec.ofNat 16 (s.regField (aCtx c 8) 15 0)

/-- Whether a context takes packets: an active one, and through a start, or for votes, one that the vote logic still holds
(R336, R375). -/
def Ctx.takes (x : Ctx) (starting vote : Bool) : Bool :=
  x.st.isActive || (decide (x.st = .invalid) && decide (x.vjob ≠ 0) && (starting || vote))

/-- The context that a delivered packet is for (R310, R327). -/
def State.deliverTo (s : State) (p : Packet) : Option Nat :=
  let live := ((s.ctxs.filter fun e => e.2.takes s.starting (p.cls == 3)).map fun e => e.1).filter fun c =>
    decide (s.ctxJob c = p.job)
  if p.mc ∧ p.cls = 2 then
    (s.fabric.windows.find? fun w => decide (w.job = p.job) && decide (w.collId.toNat = p.info.toNat % 1024)
      && live.contains w.ctx).map fun w => w.ctx
  else
    let rank := if p.addrMode then p.altRank.toNat else p.dst.toNat
    live.find? fun c => s.regBit (aFabr (0x100 + 4 * c)) 31 && decide (s.regField (aFabr (0x100 + 4 * c)) 20 0 = rank)

/-- Deliver a packet that came by port `p`: to its context, to the management cores (job 0, R312), to the partner area (on W
only, R389), or NOT_LOCAL. -/
def deliverPacket (p : Nat) (pkt : Packet) (s : State) : State :=
  let put := fun c => { s with fabric := { s.fabric with delivered := s.fabric.delivered ++ [{ port := p, ctx := c, pkt := pkt }] } }
  let partner := decide (p = 8) && (decide (pkt.altRank = 1) || decide (pkt.altRank = 2))
  if pkt.job = 0 ∧ pkt.addrMode ∧ (pkt.altRank = 0 ∨ partner) then put none
  else match (if pkt.job = 0 then none else s.deliverTo pkt) with
    | some c => put (some c)
    | none => discardAt p 5 (some pkt) s

/-- Bytes in the turnaround buffer (FABR_TURN_USED). -/
def State.turnUsed (s : State) : Nat :=
  (s.fabric.ports.flatMap fun e => (e.2.queue.filter fun q => q.turned).map fun q => 48 + q.pkt.payload.length).foldl (· + ·) 0

/-- Send a packet on towards a torus coordinate, turning it where its exception says so (R322 to R325); `p` is the port
that counts a discard. -/
def torusSend (p : Nat) (arrival : Option Nat) (pkt : Packet) (dest : Nat) (stomp : Bool) (s : State) : State :=
  let exc := s.excFor pkt.epoch dest
  let e := exc.getD 0
  let flip := bitsN e 23 21
  let wp := bitsN e 44 24
  let turnHere := e.testBit 45 && decide (wp = s.ownCoord)
  let target := if e.testBit 45 && !turnHere then wp else dest
  let transit := (match arrival with | some a => decide (a < 6) | none => false) && !turnHere
  if turnHere ∧ 2 ^ 20 < s.turnUsed + 48 + pkt.payload.length then dropAt 0 12 pkt stomp s
  else
    let s1 := if turnHere then count (aFabr 0x258) 1 s else s
    let pkt1 := if turnHere then { pkt with epoch := s.regBit (aFabr 0x200) 0 } else pkt
    match s1.routeTo target flip (if turnHere then none else arrivalDim arrival) with
    | none => dropAt p 13 pkt stomp s1
    | some (o, vc) =>
      enqueue o { pkt := { pkt1 with vc := vc, hops := pkt1.hops + 1 }, transit := transit, turned := turnHere, stomp := stomp,
                  since := 0, v0 := none, uplink := 0 } s1

/-- The flow hash of R300. -/
def Packet.flowHash (p : Packet) : Nat :=
  crc32c (beBytes 2 p.job.toNat ++ beBytes 4 p.src.toNat ++ beBytes 4 p.dst.toNat ++ beBytes 2 p.cls.toNat)

/-- An uplink address entry (R308), its 32 bytes with byte 0 lowest. -/
def State.uplinkEntry (s : State) (i : Nat) : Nat := (NMap.get (fun _ => 0) s.fabric.uplinks i).toNat

/-- The uplink that an uplink address entry gives a packet (R308); none where the entry allows none. -/
def State.uplinkPick (s : State) (pkt : Packet) (index : Nat) : Option Nat :=
  let e := s.uplinkEntry index
  let allowed := fun u => e.testBit (0x18 * 8 + (u - 6))
  let first := if (allowed 6 && allowed 7) then (if pkt.flowHash.testBit 14 then 7 else 6) else if allowed 7 then 7 else 6
  if ¬ e.testBit (0x19 * 8) ∨ (¬ allowed 6 ∧ ¬ allowed 7) then none
  else some (if !(s.port first).up && allowed (13 - first) then 13 - first else first)

/-- Send a packet by an uplink (R300, R302, R308). -/
def uplinkSend (p : Nat) (pkt : Packet) (index : Nat) (stomp : Bool) (s : State) : State :=
  match s.uplinkPick pkt index with
  | none => dropAt p 4 pkt stomp s
  | some u =>
    if s.regField (aFabr 8) 15 0 = 0 then dropAt u 9 pkt stomp s
    else enqueue u { pkt := { pkt with hops := pkt.hops + 1 }, transit := false, turned := false, stomp := stomp, since := 0,
                     v0 := none, uplink := s.uplinkEntry index } s

/-- Whether a multicast packet is on its ring leg here (R327): its offset from the first device, if so. -/
def State.mcOffset (s : State) (pkt : Packet) (first : Nat) (arrival : Option Nat) : Option Nat :=
  let d := pkt.mcDim.toNat
  let n := s.dimSize d
  let o := ringDist n (coordOf first d) (coordOf s.ownCoord d)
  let others := (List.range 3).all fun k => decide (k = d) || decide (coordOf s.ownCoord k = coordOf first k)
  let came := decide (o = 0) || decide (arrivalDim arrival = some (d, true))
  if pkt.mc ∧ others ∧ came ∧ o ≤ pkt.mcSpan.toNat then some o else none

/-- The last device of a multicast range (R327). -/
def State.mcLast (s : State) (pkt : Packet) (first : Nat) : Nat :=
  let d := pkt.mcDim.toNat
  (coordOf first d + pkt.mcSpan.toNat) % s.dimSize d

/-- Send a multicast packet one link on along its leg: the + direction, the virtual channel by the last device. -/
def mcForward (pkt : Packet) (first : Nat) (transit stomp : Bool) (s : State) : State :=
  let d := pkt.mcDim.toNat
  let vc := decide (coordOf s.ownCoord d < s.mcLast pkt first)
  enqueue (2 * d) { pkt := { pkt with vc := vc, hops := pkt.hops + 1 }, transit := transit, turned := false, stomp := stomp,
                    since := 0, v0 := none, uplink := 0 } s

/-- Handle a packet at this hop (R309, R327): deliver it, forward it, or discard it. A packet whose frame check fails is
only forwarded, with its FCS inverted (R305). -/
def hopPacket (arrival : Option Nat) (pkt : Packet) (stomp : Bool) (s : State) : State :=
  let p := arrival.getD 0
  let deliver := fun t => if stomp then t else deliverPacket p pkt t
  let transit := match arrival with | some a => decide (a < 6) | none => false
  match s.resolveHop pkt arrival with
  | .drop r => dropAt p r pkt stomp s
  | .uplink i => uplinkSend p pkt i stomp s
  | .twin => enqueue 8 { pkt := { pkt with hops := pkt.hops + 1 }, transit := false, turned := false, stomp := stomp, since := 0,
                         v0 := none, uplink := 0 } s
  | .here =>
    if pkt.mc ∧ 0 < pkt.mcSpan.toNat then mcForward pkt s.ownCoord transit stomp (deliver s) else deliver s
  | .torus c =>
    match s.mcOffset pkt c arrival with
    | none => torusSend p arrival pkt c stomp s
    | some o => if o < pkt.mcSpan.toNat then mcForward pkt c transit stomp (deliver s) else deliver s

/-! ### Injection (R310, R329, R330, R359) -/

/-- The next sequence number of a flow, which it takes. -/
def takeSeq (job : BitVec 16) (src dst : BitVec 21) (cls : BitVec 2) (s : State) : State × Word :=
  let same := fun (f : TxFlow) => decide (f.job = job) && decide (f.src = src) && decide (f.dst = dst) && decide (f.cls = cls)
  match s.fabric.tx.find? same with
  | some f =>
    let bump := fun (g : TxFlow) => if same g then { g with next := g.next + 1, last := s.time } else g
    ({ s with fabric := { s.fabric with tx := s.fabric.tx.map bump } }, f.next)
  | none =>
    let f : TxFlow := { job := job, src := src, dst := dst, cls := cls, next := 1, last := s.time }
    ({ s with fabric := { s.fabric with tx := s.fabric.tx ++ [f] } }, 0)

/-- The rank of a context, if VALID. -/
def State.ctxRank (s : State) (c : Nat) : Option (BitVec 21) :=
  if s.regBit (aFabr (0x100 + 4 * c)) 31 then some (BitVec.ofNat 21 (s.regField (aFabr (0x100 + 4 * c)) 20 0)) else none

/-- Whether the Boundary Unit passes an injection of context `c` towards rank `dst` (R310, R359): a held SRC that a
descriptor placed on this device, a VALID destination. -/
def State.mayInject (s : State) (c : Nat) (dst : BitVec 21) : Bool :=
  match s.ctxRank c with
  | none => false
  | some r =>
    match s.rttOf (s.ctxJob c).toNat r.toNat, s.rttOf (s.ctxJob c).toNat dst.toNat with
    | some e, some _ => (decide (e.via = 0) || decide (e.via = 2)) && decide (e.coord = s.ownCoord)
    | _, _ => false

/-- A packet of context `c` to a rank of its job, before its sequence number. -/
def State.mkPacket (s : State) (c : Nat) (dst : BitVec 21) (cls : BitVec 2) (op : Byte) (counter : BitVec 16) (target : Dword)
    (info : Word) (poison last : Bool) (payload : Bytes) : Packet :=
  { epoch := false, cls := cls, addrMode := false, poison := poison, mc := false, dst := dst, op := op,
    src := (s.ctxRank c).getD 0, job := s.ctxJob c, counter := counter, seq := 0, retx := false, last := last, mcSpan := 0,
    mcDim := 0, target := target, info := info, altRank := 0, vc := false, hops := 0, payload := payload }

/-- The destination rank of a packet: ALT_RANK in coordinate mode. -/
def Packet.rank (p : Packet) : BitVec 21 := if p.addrMode then p.altRank else p.dst

/-- A packet with its sequence number as it enters the fabric: EPOCH is INJECT; coordinate mode where the entry asks for it
(R312, R329). -/
def State.launched (s : State) (pkt : Packet) : Packet :=
  let p1 := { pkt with epoch := s.regBit (aFabr 0x200) 0, hops := 0, vc := false }
  if p1.addrMode then p1 else match s.rttOf p1.job.toNat p1.dst.toNat with
    | some e => if e.coordOut then { p1 with addrMode := true, dst := BitVec.ofNat 21 e.coord, altRank := p1.dst } else p1
    | none => p1

/-- Send a packet on its first hop. -/
def launch (pkt : Packet) (s : State) : State := hopPacket none (s.launched pkt) false s

/-- The port by which a packet leaves (R334); 0 for one that does not. -/
def State.portFirst (s : State) (pkt : Packet) : Nat :=
  let p := s.launched pkt
  match s.resolveHop p none with
  | .uplink i => (s.uplinkPick p i).getD 6
  | .twin => 8
  | .torus c =>
    match s.mcOffset p c none with
    | some _ => 2 * p.mcDim.toNat
    | none =>
      let e := (s.excFor p.epoch c).getD 0
      let turnHere := e.testBit 45 && decide (bitsN e 44 24 = s.ownCoord)
      ((s.routeTo (if e.testBit 45 && !turnHere then bitsN e 44 24 else c) (bitsN e 23 21) none).getD (0, false)).1
  | .here => if p.mc ∧ 0 < p.mcSpan.toNat then 2 * p.mcDim.toNat else 0
  | .drop _ => 0

/-- Inject a packet: it takes its flow's next sequence number; the packet as sent is also answered. -/
def inject (pkt : Packet) (s : State) : State × Packet :=
  let (s1, n) := takeSeq pkt.job pkt.src pkt.rank pkt.cls s
  let p := { pkt with seq := n }
  (launch p s1, p)

/-! ### Receive flows (R330, R331) -/

/-- What the sequence check says of a packet. -/
inductive SeqCheck where
  | fresh | dup | full
  deriving DecidableEq, Repr

/-- FABR_FLOW_IDLE in ns. -/
def State.flowIdle (s : State) : Nat := clampNat (s.reg (aFabr 0x230)).toNat 10 10000 * 1000000

/-- Room for a new receive flow: where all are in use, one that is idle is evicted. -/
def State.flowRoom (s : State) : Option (List RxFlow) :=
  if s.fabric.rx.length < 262144 then some s.fabric.rx
  else (s.fabric.rx.findIdx? fun f => decide (f.last.toNat + s.flowIdle ≤ s.time.toNat)).map fun i => s.fabric.rx.eraseIdx i

/-- The sequence check of a delivered packet: a fresh one is noted. -/
def seqCheck (pkt : Packet) (s : State) : State × SeqCheck :=
  let same := fun (f : RxFlow) =>
    decide (f.job = pkt.job) && decide (f.src = pkt.src) && decide (f.dst = pkt.rank) && decide (f.cls = pkt.cls)
  match s.fabric.rx.find? same with
  | none =>
    match s.flowRoom with
    | none => (s, .full)
    | some rx =>
      let f : RxFlow := { job := pkt.job, src := pkt.src, dst := pkt.rank, cls := pkt.cls, newest := pkt.seq,
                          seen := [pkt.seq], last := s.time }
      ({ s with fabric := { s.fabric with rx := rx ++ [f] } }, .fresh)
  | some f =>
    let isNew := newer pkt.seq f.newest
    let age := (f.newest - pkt.seq).toNat
    if ¬ isNew ∧ (4096 ≤ age ∨ f.seen.contains pkt.seq) then
      (count (aFabr 0x250) 1 { s with fabric := { s.fabric with rx := s.fabric.rx.map fun h => if same h then { h with last := s.time } else h } },
       .dup)
    else
      let newest := if isNew then pkt.seq else f.newest
      let g := { f with newest := newest, last := s.time,
                        seen := (pkt.seq :: f.seen).filter fun q => decide ((newest - q).toNat < 4096) }
      ({ s with fabric := { s.fabric with rx := s.fabric.rx.map fun h => if same h then g else h } }, .fresh)

/-- The sequence check of a packet that came by port `p`: one whose flow finds no room is discarded (R331). -/
def seqNote (p : Nat) (pkt : Packet) (s : State) : State × SeqCheck :=
  let (t, q) := seqCheck pkt s
  (if q = .full then discardAt p 14 (some pkt) t else t, q)

/-! ### Operations (R333 to R335) -/

/-- FABR_OP_TIMEOUT in ns, 50 to 65,535 µs. -/
def State.opTimeout (s : State) : Nat := clampNat (s.reg (aFabr 0x220)).toNat 50 65535 * 1000

/-- Start a fabric operation: its packets are sent, its timer runs; `tile0` for the replies of a FETCH. -/
def startOp (c : Nat) (task : Option TaskRef) (tile0 : Nat) (pkts : List Packet) (s : State) : State :=
  let (s1, sent) := pkts.foldl (fun (acc : State × List Packet) p =>
    let (t, q) := inject p acc.1
    (t, acc.2 ++ [q])) (s, [])
  let port := match pkts with
    | [] => 0
    | p :: _ => s.portFirst p
  let o : FabOp := { id := s1.fabric.nextOp, task := task, ctx := c, port := port, state := .waiting, unacked := sent,
                     retries := 0, timer := s1.time + BitVec.ofNat 64 s1.opTimeout, first := s1.time, tile0 := tile0, acks := [] }
  { s1 with fabric := { s1.fabric with nextOp := s1.fabric.nextOp + 1, ops := s1.fabric.ops ++ [o] } }

/-- End every operation of a context with a status: they send nothing more (R333, R380). -/
def failOps (c : Nat) (status : Byte) (s : State) : State :=
  let fail := fun (o : FabOp) =>
    if o.ctx = c ∧ (o.state = .waiting ∨ o.state = .sending) then { o with state := .failed status, unacked := [] } else o
  let ws := s.fabric.windows.filter fun w => decide (w.ctx ≠ c)
  { s with fabric := { s.fabric with ops := s.fabric.ops.map fail, windows := ws } }

end Sys2Proof.Machine
end

