-- ==== Sys2Proof/Machine/Parts.lean ====
section
/-! DEFINITION. Signed objects (R443), the part record in use, and the spare map (R20, R21, R446, R447). -/

namespace Sys2Proof.Machine

/-! ### Signed objects (R443) -/

/-- The payload of an object. -/
def objPayload (o : SignedObj) : Bytes := o.bytes.drop 256

/-- TYPE of an object. -/
def objType (o : SignedObj) : Nat := fieldLe o.bytes 5 1

/-- SVN of an object. -/
def objSvn (o : SignedObj) : Word := BitVec.ofNat 32 (fieldLe o.bytes 8 4)

/-- SERIAL of an object. -/
def objSerial (o : SignedObj) : Bytes := sliceB o.bytes 0x10 16

/-- The first 128 bits of DIGEST, as two halves. -/
def objDigest (o : SignedObj) : Dword × Dword :=
  (BitVec.ofNat 64 (fieldLe o.bytes 0x30 8), BitVec.ofNat 64 (fieldLe o.bytes 0x38 8))

/-- Why an object is not valid, as REASON of IMAGE_REJECTED: 1 format, 2 digest, 3 signature, 4 serial, 5 SVN. -/
def objReason (o : SignedObj) (typ : Nat) (serial : Bytes) (minSvn : Word) : Option Nat :=
  let b := o.bytes
  let free := (objSerial o).all fun x => x == 0
  if b.length < 256 ∨ fieldLe b 0 4 ≠ 0x4D494446 ∨ fieldLe b 4 1 ≠ 1 ∨ objType o ≠ typ ∨ 2 ≤ fieldLe b 6 2
      ∨ fieldLe b 0xC 4 ≠ b.length - 256 ∨ 2 ^ 26 < b.length ∨ ¬ ((sliceB b 0x70 30).all fun x => x == 0) then some 1
  else if shake256 (objPayload o) 64 ≠ sliceB b 0x30 64 then some 2
  else if ¬ o.sigOk then some 3
  else if (free ∧ (typ = 4 ∨ typ = 5)) ∨ (¬ free ∧ typ ≠ 4 ∧ (objSerial o) ≠ serial) then some 4
  else if (typ = 1 ∨ typ = 2) ∧ (objSvn o) < minSvn then some 5
  else none

/-! ### The part record and its spare map (R20, R21, R446, R447) -/

/-- The default home of a logical cluster (R20). -/
def homeOf (n : Nat) : Nat := n / 128 * 132 + n % 128

/-- Whether a SPARE_MAP keeps every cluster on its own die and names no physical cluster twice: a map that names a default home moves
that home's own cluster elsewhere. -/
def spareMapOk (o : SignedObj) : Bool :=
  let m := o.spareMap
  (m.all fun e => decide (e.1 < 512) && decide (e.2 / 132 = e.1 / 128)
      && (decide (128 ≤ e.2 % 132) || m.any fun f => decide (homeOf f.1 = e.2)))
    && decide (m.map Prod.fst).Nodup && decide (m.map Prod.snd).Nodup

/-- The part record in use: copy 0 when it is valid, copy 1 otherwise (R446, R447). -/
def State.partObj (s : State) : Option SignedObj :=
  let valid := fun (o : SignedObj) => (objReason o 4 [] 0).isNone && spareMapOk o
  match s.flash.part0.filter valid with
  | some o => some o
  | none => s.flash.part1.filter valid

/-- Its bytes. -/
def State.partRecord (s : State) : Bytes := match s.partObj with
  | some o => o.bytes
  | none => []

/-- PORT_TS_TX_LAT, or PORT_TS_RX_LAT, of a port by the part record. DESIGN CHOICE: log entry 94. -/
def State.portLat (s : State) (p : Nat) (rx : Bool) : Word := match s.partObj with
  | some o => (o.tsLat.getD (2 * p + if rx then 1 else 0) 0).setWidth 32
  | none => 0

/-- The physical cluster that the part record gives a logical one. -/
def State.factoryHome (s : State) (n : Nat) : Nat :=
  match (match s.partObj with | some o => o.spareMap.find? fun (e : Nat × Nat) => decide (e.1 = n) | none => none) with
  | some e => e.2
  | none => homeOf n

/-- The newest entry of the cluster repair log for a logical cluster (R414). -/
def State.repairOf (s : State) (n : Nat) : Option (Nat × Nat) := s.flash.substs.reverse.find? fun e => decide (e.1 = n)

/-- Whether an entry of the repair log keeps the rules of R447 over the part record's map. -/
def State.substOk (s : State) (e : Nat × Nat) : Bool :=
  decide (e.2 / 132 = e.1 / 128) && (s.flash.substs.all fun f => decide (f.1 = e.1) || decide (f.2 ≠ e.2))
    && ((List.range 128).all fun i =>
      let m := e.1 / 128 * 128 + i
      decide (m = e.1) || (s.repairOf m).isSome || decide (s.factoryHome m ≠ e.2))

/-- The physical cluster that carries a logical number (R21): the repair log over the part record's spare map. DESIGN CHOICE: log entry 19. -/
def State.phys (s : State) (n : Nat) : Nat :=
  match (s.repairOf n).filter s.substOk with
  | some e => e.2
  | none => s.factoryHome n

/-- The logical number that a physical cluster carries, if any (R21). -/
def State.logical? (s : State) (p : Nat) : Option Nat := (List.range 512).find? fun n => decide (s.phys n = p)

/-- Whether a spare has been used: the repair log or the part record's map names it. -/
def State.spareUsed (s : State) (p : Nat) : Bool :=
  (s.flash.substs.any fun e => decide (e.2 = p))
    || (match s.partObj with | some o => o.spareMap.any fun (e : Nat × Nat) => decide (e.2 = p) | none => false)

/-- The spares of a die that have not been used (R20). -/
def State.sparesOf (s : State) (die : Nat) : List Nat :=
  ((List.range 4).map fun i => die * 132 + 128 + i).filter fun p => !s.spareUsed p

/-- Spares left on a die (R433). -/
def State.sparesLeft (s : State) (die : Nat) : Nat := (s.sparesOf die).length

/-- The first of them. -/
def State.freeSpare (s : State) (die : Nat) : Option Nat := (s.sparesOf die).head?

end Sys2Proof.Machine
end

