-- ==== Sys2Proof/Machine/StepTables.lean ====
section
/-! DEFINITION. What STEP_END writes before its vote (R374 steps 1 to 6): the scale-table folds (R109), the layer-state
table and its watch (R225 to R228), the stream table (R251), the write digest (R256, R257), the prepared map and the prepare
word (R369, R370), and the step's ledger records (R237 to R239). -/

namespace Sys2Proof.Machine

/-! ### Tasks of a step -/

/-- The complete tasks of a step in the attempts that the step keeps. -/
def Ctx.stepTasks (x : Ctx) (step : Dword) : List Task :=
  x.tasks.filter fun t => decide (t.step = step) && !t.superseded && decide (t.st = .complete)

/-- Submission ring, then SEGMENT_ID, then INDEX (R125, R211). -/
def Task.orderKey (t : Task) : Nat := (t.ref.ring.val * 2 ^ 32 + t.ref.seg.toNat) * 2 ^ 16 + t.ref.index

/-- Tasks in ascending order of ring, SEGMENT_ID and INDEX. -/
def sortTasks (ts : List Task) : List Task :=
  (ts.foldl (fun (m : NMap Task) t => NMap.insert m t.orderKey t) []).map fun e => e.2

/-- Numbers in ascending order, each once. -/
def sortNats (l : List Nat) : List Nat := (l.foldl (fun (m : NMap Unit) n => NMap.insert m n ()) []).map fun e => e.1

/-- The FOLIO handles written in the step under way: those whose current version is a working one. -/
def Ctx.writtenSet (x : Ctx) : List Nat := (x.vers.filter fun e => e.2.working && x.isFolio e.1).map fun e => e.1

/-! ### Tables -/

/-- The working copy of a table: a table that the step has not written is carried over from its committed copy (R47). -/
def workTable (env : Env) (w : Who) (writer : TaskRef) (h : Nat) : Run (Option Tensor) := do
  let s ← getS
  match s.commTensor w.ctx h, s.writeTensor w.ctx h 0 false none with
  | some old, some new =>
    if ((s.ctx w.ctx).ver h).working then pure (some new)
    else do
      let imgs ← (List.range old.loc.tiles).foldlM (fun acc i => do
        let img ← readTile env w 1 1 old.loc i
        pure (acc ++ [img])) []
      let _ ← writeTiles env w new.loc imgs false
      let v : Version := { Version.plain with working := true, writer := some writer }
      modS fun u => u.setCtx w.ctx ((u.ctx w.ctx).setVer h v)
      pure (some new)
  | _, _ => pure none

/-! ### Scale-table folds (R109) -/

/-- The contributions to each scale slot, by table × 2^16 + slot, in the order of R125. -/
def slotUses (ts : List Task) : NMap (List SlotUse) :=
  ts.foldl (fun m t => t.res.uses.foldl (fun m u =>
    let k := u.table * 65536 + u.slot
    NMap.insert m k ((NMap.find? m k).getD [] ++ [u])) m) []

/-- The maximum of the amaxes of a slot's contributing tasks. -/
def slotAmax (us : List SlotUse) : Nat := us.foldl (fun a u => amax32 a u.amax.toNat) 0

/-- Whether a slot's contributions fold. -/
def Ctx.slotFolds (x : Ctx) (k : Nat) (us : List SlotUse) : Bool := x.tableWritable (k / 65536) && us.any fun u => u.folds

/-- Fold every slot named in the step. -/
def foldSlots (env : Env) (w : Who) (writer : TaskRef) (m : NMap (List SlotUse)) : Run Unit :=
  m.foldlM (fun _ e => do
    let s ← getS
    if (s.ctx w.ctx).slotFolds e.1 e.2 then
      match ← workTable env w writer (e.1 / 65536) with
      | none => pure ()
      | some t =>
        let slot := e.1 % 65536
        let o := slot % 16 * 512
        if slot / 16 < t.loc.tiles then
          editTile env w 1 1 t (slot / 16) fun b =>
            putB b o (foldEntry (sliceB b o 512) (slotAmax (e.2.filter fun u => u.folds)))
        else pure ()
    else pure ()) ()

/-- The body of a SLOT record (R238). -/
def Ctx.slotBody (x : Ctx) (k : Nat) (us : List SlotUse) : Bytes :=
  let a := slotAmax us
  let es := us.foldl (fun a u => add32 a u.e.toNat) 0
  let ss := us.foldl (fun a u => add32 a u.s.toNat) 0
  let folded := if x.slotFolds k us then (if fmt32.isFin a then 1 else 2) else 0
  leBytes 4 (k / 65536) ++ leBytes 2 (k % 65536) ++ leBytes 1 folded ++ leBytes 1 0
    ++ leBytes 4 ((us.head?.map fun u => u.t.toNat).getD 0) ++ leBytes 4 a ++ leBytes 4 es ++ leBytes 4 ss
    ++ leBytes 4 (relMse es ss) ++ leBytes 4 us.length

/-! ### Layers (R211, R225 to R228, R237) -/

/-- What a layer group did in a step. -/
structure LayerUse where
  layer : Nat
  level : Nat
  tripped : Bool
  causes : BitVec 4
  outcome : Nat
  dw2 : Nat
  w2 : Nat
  zeroG : Nat
  n : Nat
  deriving DecidableEq, Repr

/-- The layers that ran in a step: those of a group with an issued task, and those of other IN_LAYER tasks that completed. -/
def Ctx.layersOf (x : Ctx) (step : Dword) : List Nat :=
  sortNats (((x.groups.filter fun g => decide (g.step = step) && g.start.isSome).map fun g => g.layer.toNat)
    ++ ((x.stepTasks step).filter fun t => t.d.inLayer && !t.d.repeats && stGood t.res.status).map fun t => t.d.layer)

/-- Whether a task is an UPDATE (R198). -/
def Task.isUpdate (t : Task) : Bool := decide (t.d.kind = kOptimize) && decide (t.d.op = 3)

/-- The sums of a layer (R211, R228) and what its groups kept. -/
def State.layerUse (s : State) (c : Nat) (step : Dword) (layer : Nat) : LayerUse :=
  let x := s.ctx c
  let gs := x.groups.filter fun g => decide (g.step = step) && decide (g.layer.toNat = layer) && g.start.isSome
  let ups := sortTasks ((x.stepTasks step).filter fun t => t.isUpdate && t.d.inLayer && decide (t.d.layer = layer))
  { layer := layer, level := gs.foldl (fun a g => max a g.level) 0,
    tripped := (gs.any fun g => decide (g.causes ||| g.causesRep ≠ 0)) || ((s.overrideOf c layer step).isSome && !gs.isEmpty),
    causes := gs.foldl (fun a g => a ||| g.causes ||| g.causesRep) 0, outcome := gs.foldl (fun a g => max a g.outcome) 0,
    dw2 := ups.foldl (fun a t => add32 a t.res.dw2.toNat) 0, w2 := ups.foldl (fun a t => add32 a t.res.w2.toNat) 0,
    zeroG := ups.foldl (fun a t => a + t.res.zeroG) 0, n := ups.foldl (fun a t => a + t.res.n) 0 }

/-- The ratio of a layer (R211). -/
def LayerUse.ratio (u : LayerUse) : Nat :=
  if fmt32.isZero u.w2 && fmt32.isZero u.dw2 then 0
  else if fmt32.isZero u.w2 && fmt32.lt 0 u.dw2 then fmt32.inf
  else (fmt32.sqrt .rne (div32 u.dw2 u.w2)).1

/-- NUMC_HOLD: 1 to 1,024 (R241). -/
def State.hold (s : State) (c : Nat) : Nat := clampNat (s.regField (aNumc c 0x0C) 10 0) 1 1024

/-- LEVEL, HOLD_LEFT and TRIPS of a layer's entry after the step (R225). -/
def levelNext (hold : Nat) (u : LayerUse) (e : Bytes) : Bytes :=
  let level := fieldLe e 0 1
  let left := fieldLe e 2 2
  if u.tripped then
    putB (putB (putB e 0 (leBytes 1 u.level)) 2 (leBytes 2 hold)) 8 (leBytes 4 (min (fieldLe e 8 4 + 1) (2 ^ 32 - 1)))
  else if level = 0 then e
  else
    let left1 := left - 1
    if left1 ≠ 0 then putB e 2 (leBytes 2 left1)
    else putB (putB e 0 (leBytes 1 (level - 1))) 2 (leBytes 2 (if 0 < level - 1 then hold else 0))

/-- A run that saturates at 65,535: its new value, and whether it has reached STALL_STEPS or a multiple of it. -/
def nextRun (steps run : Nat) (holds : Bool) : Nat × Bool :=
  if ¬ holds then (0, false)
  else if 65535 ≤ run then (65535, false)
  else (run + 1, decide ((run + 1) % steps = 0))

/-- The watch of a layer (R228): the entry with its runs, and the WATCH bits of R237. -/
def State.watchLayer (s : State) (c : Nat) (u : LayerUse) (e : Bytes) : Bytes × Nat :=
  if ¬ s.regBit (aNumc c 0) 4 ∨ u.n = 0 then (e, 0)
  else
    let fl := (s.reg (aNumc c 0x10)).toNat
    let floor := if fmt32.isNan fl || fmt32.sign fl then 0 else fl
    let ce := (s.reg (aNumc c 0x14)).toNat
    let ceil := if fmt32.isNan ce then fmt32.inf else ce
    let st := s.regField (aNumc c 0x18) 15 0
    let steps := if st = 0 then 64 else st
    let frac := min (s.regField (aNumc c 0x18) 26 16) 1024
    let (r1, b1) := nextRun steps (fieldLe e 4 2) (fmt32.lt u.ratio floor)
    let (r2, b2) := nextRun steps (fieldLe e 6 2) (decide (0 < frac) && decide (frac * u.n ≤ u.zeroG * 1024))
    (putB (putB e 4 (leBytes 2 r1)) 6 (leBytes 2 r2),
      (if b1 then 1 else 0) + (if b2 then 2 else 0) + if fmt32.lt ceil u.ratio then 4 else 0)

/-- The events of a watch (R228, R240). -/
def watchEvents (c : Nat) (u : LayerUse) (e : Bytes) (watch : Nat) (s : State) : State :=
  let w : Who := { ctx := c, layer := BitVec.ofNat 16 u.layer, seq := 0, index := 0 }
  let stalled := fun cause run (t : State) => raiseWho w 0x0104 1 noUnit (leBytes 1 cause ++ leBytes 1 0 ++ leBytes 2 run
    ++ leBytes 4 u.ratio ++ leBytes 8 u.zeroG ++ leBytes 8 u.n) t
  let s1 := if watch.testBit 0 then stalled 1 (fieldLe e 4 2) s else s
  let s2 := if watch.testBit 1 then stalled 2 (fieldLe e 6 2) s1 else s1
  if watch.testBit 2 then
    raiseWho w 0x0105 1 noUnit (leBytes 4 u.ratio ++ leBytes 4 u.dw2 ++ leBytes 4 u.w2) s2
  else s2

/-- The body of a LAYER record (R237); `e` is the entry written, zeros where there is none. -/
def Ctx.layerBody (x : Ctx) (step : Dword) (u : LayerUse) (e : Bytes) (watch : Nat) : Bytes :=
  let ts := sortTasks ((x.stepTasks step).filter fun t => t.d.inLayer && decide (t.d.layer = u.layer))
  let qs := ts.filter fun t => decide (t.d.kind = kQuantize)
  let es := qs.foldl (fun a t => add32 a t.res.e.toNat) 0
  let ss := qs.foldl (fun a t => add32 a t.res.s.toNat) 0
  let sumOf := fun (f : Task → Nat) => ts.foldl (fun a t => a + f t) 0
  let pip := fun i => sumOf fun t => t.pipRes.getD i 0
  leBytes 2 u.layer ++ leBytes 1 u.level ++ leBytes 1 (fieldLe e 0 1) ++ leBytes 2 (fieldLe e 2 2)
    ++ leBytes 1 u.causes.toNat ++ leBytes 1 u.outcome
    ++ ((List.range 5).flatMap fun i => leBytes 4 (sat32 (sumOf fun t => t.res.counts.getD i 0)).toNat)
    ++ leBytes 4 (sat32 (sumOf fun t => t.res.flushedBlocks)).toNat
    ++ leBytes 4 (ts.filter fun t => t.trips.getLsbD 3).length
    ++ leBytes 4 (qs.foldl (fun a t => amax32 a t.res.amax.toNat) 0) ++ leBytes 4 (relMse es ss) ++ leBytes 4 0
    ++ leBytes 4 u.dw2 ++ leBytes 4 u.w2 ++ leBytes 4 u.ratio ++ leBytes 4 0 ++ leBytes 8 u.zeroG ++ leBytes 8 u.n
    ++ leBytes 2 (fieldLe e 4 2) ++ leBytes 2 (fieldLe e 6 2) ++ leBytes 1 watch ++ leBytes 1 0
    ++ leBytes 2 (min 65535 (sumOf fun t => t.pipRes.foldl (· + ·) 0)) ++ leBytes 2 (min 65535 (pip 0))
    ++ leBytes 2 (min 65535 (pip 1)) ++ leBytes 2 (min 65535 (pip 2)) ++ leBytes 2 (min 65535 (pip 3))
    ++ leBytes 4 (ts.foldl (fun a t => amax32 a t.pipMax.toNat) 0)

/-- Update one layer's entry and watch it: the body of its LAYER record (R225, R228). -/
def layerStep (env : Env) (w : Who) (writer : TaskRef) (step : Dword) (layer : Nat) : Run Bytes := do
  let s ← getS
  let c := w.ctx
  let u := s.layerUse c step layer
  let body := fun (t : State) (e : Bytes) (watch : Nat) => (t.ctx c).layerBody step u e watch
  match s.layerHandle c with
  | none => pure (body s [] 0)
  | some h =>
    if ¬ (s.ctx c).tableWritable h then pure (body s [] 0)
    else
      match ← workTable env w writer h with
      | none => pure (body s [] 0)
      | some t =>
        if t.loc.tiles ≤ layer / 256 then do
          modS (setNumcStatus c 2 true)
          pure (body s [] 0)
        else do
          let o := layer % 256 * 32
          let old ← readTile env w 1 1 t.loc (layer / 256)
          let (e, watch) := s.watchLayer c u (levelNext (s.hold c) u (sliceB old.data o 32))
          editTile env w 1 1 t (layer / 256) fun b => putB b o e
          modS (watchEvents c u e watch)
          pure (body s e watch)

/-! ### The stream table (R251) -/

/-- The cursor pending for a step. -/
def Ctx.cursorOf (x : Ctx) (step : Dword) : Option Dword := (x.cursors.find? fun e => decide (e.1 = step)).map fun e => e.2

/-- What writing the stream table gives: its handle, the cursor it carries, whether it was carried over, whether a slot
passed its period. -/
structure StreamOut where
  table : Option Nat
  cursor : Option Dword
  carried : Bool
  wrap : Bool
  deriving DecidableEq, Repr

/-- The header of the stream table after a step (R250, R251). -/
def headerNext (seed : Nat) (step : Dword) (log2 : Nat) (pend : Option Dword) (b : Bytes) : Bytes :=
  let cur := match pend with | some v => v.toNat | none => fieldLe b 0x10 8
  let flags := fieldLe b 0x19 1 / 2 * 2 + if pend.isNone then 1 else 0
  putB b 0 (leBytes 8 seed ++ leBytes 8 step.toNat ++ leBytes 8 cur ++ leBytes 1 log2 ++ leBytes 1 flags)

/-- Advance one 16-byte slot: POSITION := POSITION + ADVANCE where VALID (R251). -/
def slotNext (e : Bytes) : Bytes :=
  if (fieldLe e 0xD 1).testBit 0 then putB e 0 (leBytes 8 ((fieldLe e 0 8 + fieldLe e 8 4) % 2 ^ 64)) else e

/-- Advance `n` slots of a tile's data. -/
def slotsNext (n : Nat) (b : Bytes) : Bytes :=
  ((List.range n).flatMap fun j => slotNext (sliceB b (16 * j) 16)) ++ b.drop (16 * n)

/-- Whether one of `n` slots of a tile stands at or beyond 2^28/S (R246). -/
def slotsWrap (log2 n : Nat) (b : Bytes) : Bool :=
  (List.range n).any fun j =>
    (fieldLe b (16 * j + 0xD) 1).testBit 0 && decide (2 ^ (28 - log2) ≤ fieldLe b (16 * j) 8)

/-- Write the stream table and the cursor (R251). -/
def writeStreams (env : Env) (w : Who) (writer : TaskRef) (step : Dword) : Run StreamOut := do
  let s ← getS
  let c := w.ctx
  let pend := (s.ctx c).cursorOf step
  match s.streamHandle c with
  | none => pure { table := none, cursor := none, carried := false, wrap := false }
  | some h =>
    if ¬ (s.ctx c).tableWritable h then pure { table := none, cursor := none, carried := false, wrap := false }
    else
      match ← workTable env w writer h with
      | none => pure { table := none, cursor := none, carried := false, wrap := false }
      | some t => do
        let lg := s.slotsLog2 c
        let per := min 512 (2 ^ lg)
        editTile env w 1 1 t 0 (headerNext (s.seed c) step lg pend)
        let wrap ← (List.range ((2 ^ lg + 511) / 512)).foldlM (fun acc i => do
          editTile env w 1 1 t (1 + i) (slotsNext per)
          let u ← getS
          pure (acc || slotsWrap lg per (u.tableBytes t (1 + i) 0 8192))) false
        let u ← getS
        pure { table := some h, cursor := some (BitVec.ofNat 64 (fieldLe (u.tableBytes t 0 0x10 8) 0 8)),
               carried := pend.isNone, wrap := wrap }

/-- The bodies of the STREAMS records (R253): three entries each, slots rising. -/
def streamBodies : Nat → List (Nat × Nat) → List Bytes
  | 0, _ => []
  | _, [] => []
  | n + 1, l =>
    let e := l.take 3
    (leBytes 1 e.length ++ leBytes 3 0 ++ e.flatMap fun x => leBytes 4 x.1 ++ leBytes 8 x.2) :: streamBodies n (l.drop 3)

/-- Reference and POSITION after the vote of each slot that POSITION_STREAMS set since the last vote. -/
def State.posEntries (s : State) (c : Nat) : List (Nat × Nat) :=
  match s.streamHandle c with
  | none => []
  | some h =>
    match s.writeTensor c h 0 false none with
    | none => []
    | some t => (sortNats (s.ctx c).posSets).map fun j =>
        let x := s.streamSlot t j
        (x.cls * 2 ^ 29 + 2 ^ 28 + j, x.pos)

/-! ### The write digest (R256, R257) -/

/-- The tile hash of stored bytes (R256). -/
def tileHash (shard h i : Nat) (stored : Bytes) : BitVec 128 :=
  BitVec.ofNat 128 (leNat (shake256 (leBytes 4 shard ++ leBytes 4 h ++ leBytes 4 i ++ leBytes 4 stored.length ++ stored) 16))

/-- The shard of a handle: `none` for device-own handles, and for replicated ones its answer is 0xFFFFFFFF (R256). -/
def State.shardOf (s : State) (c h : Nat) : Option Nat :=
  let shift := min (s.regField (aRngs c 0x1C) 4 0) 20
  let (first, n) := s.shards c
  let j := h / 2 ^ shift
  if j < n then some (first + j) else if j = 2 ^ (20 - shift) - 1 then some 0xFFFFFFFF else none

/-- The bytes of tile `i` as stored (R272). -/
def State.storedTile (s : State) (l : TileLoc) (i : Nat) : Bytes :=
  let part := fun va n => match s.readVa envQuiet l.ctx va n with
    | .ok (b, _) => b
    | .error _ => List.replicate n 0
  part (l.dataVa i) 8192 ++ part (l.sideVa i) (l.fmt.stored - 8192)

/-- The XOR of the tile hashes of a tensor's tiles. -/
def State.tensorHash (s : State) (c : Nat) (t : Tensor) (shard : Nat) : BitVec 128 :=
  let shift := min (s.regField (aRngs c 0x1C) 4 0) 20
  (List.range t.tiles).foldl (fun a i => a ^^^ tileHash shard (t.loc.handle % 2 ^ shift) i (s.storedTile t.loc i)) 0

/-- W of the step under way (R257): 0 while DIGEST_EN is clear. -/
def State.writeDigest (s : State) (c : Nat) : BitVec 128 :=
  if ¬ s.regBit (aRngs c 0x1C) 9 then 0
  else
    (s.ctx c).writtenSet.foldl (fun a h =>
      match s.shardOf c h with
      | none => a
      | some shard =>
        if shard = 0xFFFFFFFF ∧ ¬ s.regBit (aRngs c 0x1C) 8 then a
        else match s.writeTensor c h 0 ((s.ctx c).ver h).orient none with
          | none => a
          | some t => a ^^^ s.tensorHash c t shard) 0

/-- RNGS_DIGEST0 to RNGS_DIGEST3. -/
def setDigest (c : Nat) (d : BitVec 128) (s : State) : State :=
  (s.setReg64 (aRngs c 0x38) (d.setWidth 64)).setReg64 (aRngs c 0x40) ((d >>> 64).setWidth 64)

/-! ### The commit area (R369, R370) -/

/-- COMT_MAP_BASE. -/
def State.mapBase (s : State) (c : Nat) : Nat := (s.reg64 (aComt c 8)).toNat

/-- n of R369: bytes of a map. -/
def State.mapBytes (s : State) (c : Nat) : Nat := ((s.reg (aCtx c 0x20)).toNat + 7) / 8 |> fun b => (b + 4095) / 4096 * 4096

/-- A map as bytes: bit h is the committed side of handle h. -/
def mapImage (n : Nat) (m : NMap Bool) : Bytes :=
  (m.filter fun e => e.2).foldl (fun b e =>
    putB b (e.1 / 8) (leBytes 1 (Nat.lor (fieldLe b (e.1 / 8) 1) (2 ^ (e.1 % 8))))) (List.replicate n 0)

/-- A map with the bits of some handles inverted. -/
def flipMap (m : NMap Bool) (hs : List Nat) : NMap Bool :=
  hs.foldl (fun m h => NMap.set (fun _ => false) m h (!(NMap.get (fun _ => false) m h))) m

/-- Write bytes of a context's commit area; the flag says whether they could be written. -/
def areaWrite (c off : Nat) (b : Bytes) (s : State) : State × Bool :=
  match writeVa envQuiet c (s.mapBase c + off) b s with
  | .ok s1 => (s1, true)
  | .error _ => (s, false)

/-- Write bytes of the commit area once its stack is out of its reset, if it is fenced now (R428). -/
def areaWriteLate (c off : Nat) (b : Bytes) (s : State) : State × Bool :=
  match writeVa envQuiet c (s.mapBase c + off) b s with
  | .ok s1 => (s1, true)
  | .error .fenced => (s.setCtx c { s.ctx c with lateWords := (s.ctx c).lateWords ++ [(off, b)] }, true)
  | .error _ => (s, false)

/-- Write what waited for a stack (R428). -/
def flushLate (c : Nat) (s : State) : State :=
  (s.ctx c).lateWords.foldl (fun t w => (areaWriteLate c w.1 w.2 t).1) (s.setCtx c { s.ctx c with lateWords := [] })

/-- Write map `i` (R369). -/
def writeMap (c : Nat) (i : Bool) (m : NMap Bool) (s : State) : State × Bool :=
  areaWrite c (0x1000 + if i then s.mapBytes c else 0) (mapImage (s.mapBytes c) m) s

/-- A commit word or a prepare word (R369). -/
def areaWord (step : Dword) (map : Bool) (outcome : Nat) (time : Dword) (digest : BitVec 128) : Bytes :=
  withCheck (leBytes 8 step.toNat ++ leBytes 1 (if map then 1 else 0) ++ leBytes 1 outcome ++ leBytes 6 0
    ++ leBytes 8 time.toNat ++ leBytes 16 digest.toNat ++ leBytes 20 0)

/-- Write the commit word (offset 0) or the prepare word (offset 0x40). -/
def writeWord (c off : Nat) (step : Dword) (map : Bool) (outcome : Nat) (digest : BitVec 128) (s : State) : State × Bool :=
  areaWrite c off (areaWord step map outcome s.time digest) s

/-! ### Pip records (R233, R238) -/

/-- A PIP record. -/
def pipRecord (t : Task) (flags tile row col result : Nat) (diff tau h : Nat) (check : Nat) (s : State) : State :=
  (ledgerPut t.ref.ctx 4 (flags + if t.d.inLayer then 4 else 0) t.ref.ring t.step
    (leBytes 4 t.ref.seg.toNat ++ leBytes 2 t.ref.index ++ leBytes 2 (if t.d.inLayer then t.d.layer else 0) ++ leBytes 4 tile
      ++ leBytes 2 row ++ leBytes 2 col ++ leBytes 1 result ++ leBytes 3 0 ++ leBytes 4 diff ++ leBytes 4 tau ++ leBytes 4 h
      ++ leBytes 2 ((t.cluster.map fun n => s.phys n.val).getD 0xFFFF) ++ leBytes 2 check ++ leBytes 8 s.time.toNat) 64 s).1

/-- Note a pip result in the task that was sampled: place 0 AGREE, 1 DISAGREE, 2 HARD, 3 SKIPPED, 4 NOT_CHECKED. -/
def Task.notePip (t : Task) (i : Nat) : Task :=
  { t with pipRes := (List.range 5).map fun k => t.pipRes.getD k 0 + if k = i then 1 else 0 }

/-- A check is skipped (R233): counted, and recorded. -/
def skipRecord (t : Task) (j : Nat) (s : State) : State := pipRecord t 0 j 0 0 3 0 0 0 0xFFFF (count (aNumc t.ref.ctx 0x78) 1 s)

/-- The checks of a task that have not started are not run (R233). -/
def skipPips (t : Task) (s : State) : State :=
  let s1 := t.pip.foldl (fun u j => skipRecord t j u) s
  s1.setTask { t.pip.foldl (fun u _ => u.notePip 3) t with pip := [] }

/-- A check that the pip share cannot take is not run (R233, R293). -/
def skipShort (t : Task) (j : Nat) (s : State) : State :=
  let s1 := skipRecord t j (noteLimited (count (aMrgn 0x38) 1 s))
  s1.setTask { t.notePip 3 with pip := t.pip.erase j }

/-- Skip the checks of the tasks of a step that have not started. -/
def skipStepPips (c : Nat) (step : Dword) (s : State) : State :=
  ((s.ctx c).tasks.filter fun t => decide (t.step = step) && !t.pip.isEmpty).foldl (fun u t => skipPips t u) s

/-! ### The tables of a step -/

/-- What the tables of a step gave. -/
structure TableOut where
  layers : List Bytes
  streams : StreamOut
  deriving DecidableEq, Repr

/-- R374 steps 1 to 3. -/
def writeTables (env : Env) (w : Who) (writer : TaskRef) (step : Dword) : Run TableOut := do
  let s ← getS
  foldSlots env w writer (slotUses (sortTasks ((s.ctx w.ctx).stepTasks step)))
  let layers ← ((s.ctx w.ctx).layersOf step).foldlM (fun acc l => do
    let b ← layerStep env w writer step l
    pure (acc ++ [b])) []
  let so ← writeStreams env w writer step
  pure { layers := layers, streams := so }

/-- The ledger records of a vote but the STEP record (R239). -/
def voteRecords (c : Nat) (step : Dword) (layers : List Bytes) (s : State) : State :=
  let x := s.ctx c
  let put := fun typ len (u : State) b => (ledgerPut c typ 0 0xFF step b len u).1
  let s1 := (slotUses (sortTasks (x.stepTasks step))).foldl (fun u e => put 3 64 u (x.slotBody e.1 e.2)) s
  let s2 := layers.foldl (put 2 128) s1
  let es := s2.posEntries c
  let s3 := (streamBodies es.length es).foldl (put 6 64) s2
  s3.setCtx c { s3.ctx c with posSets := [] }

end Sys2Proof.Machine
end

