-- ==== Sys2Proof/Machine/Commit.lean ====
section
/-! DEFINITION. The vote and its outcomes (R372 to R384), the kill of a context (R61), votes cast without STEP_END (R375),
the Cadence service (R391), and STEP_END itself (R374). -/

namespace Sys2Proof.Machine

/-! ### The Cadence service (R391) -/

/-- Weighted sums of the gaps, newest first, with w_i = (31/32)^(i−1): numerator and denominator. -/
def gapSums : List Nat → Nat × Nat
  | [] => (0, 0)
  | g :: t =>
    let (n, d) := gapSums t
    let k := t.length
    (g * 32 ^ k + 31 * n, 32 ^ k + 31 * d)

/-- M in seconds. -/
def State.cadM (s : State) : Nat :=
  let init := clampNat (s.reg (aComtDev 0x1C)).toNat 300 86400
  match s.cadence.gaps with
  | [] => init
  | gs =>
    let (n, d) := gapSums (gs.map fun g => g.toNat)
    clampNat (n / d / 1000000000) 300 86400

/-- Whether the twin is PAIRED and CORRELATED (R392). -/
def State.correlated (s : State) : Bool := (s.twin.state == 2) && s.twin.correlated

/-- F in seconds (R391): the wear floor. -/
def State.cadFloor (s : State) : Nat :=
  let rem := 220903200 - (s.time.toNat + s.cadence.powerOn.toNat) / 1000000000
  let rated := (s.reg (aFlsh 0x14)).toNat * 10 ^ 15
  let written := s.count (aFlsh 0x18) * 2 ^ 30
  if rated ≤ written then 2 ^ 32 - 1 else min (2 ^ 32 - 1) (s.cadence.b2 * rem / (rated - written))

/-- √(2·C·M) in ms, of C in ms and M in s. -/
def cadRoot (ms m : Nat) : Nat := Nat.sqrt (2 * ms * (m * 1000))

/-- I1 in ms: while CORRELATED the wear floor applies to it. DEDUCED: log entry 63. -/
def State.cadI1 (s : State) : Nat :=
  let i := cadRoot (s.reg (aComtDev 0x34)).toNat s.cadM
  if s.correlated then max i (s.cadFloor * 1000) else i

/-- ⌈a/b⌉, 1 to 65,535. -/
def cadEvery (a b : Nat) : Nat := if b = 0 then 1 else clampNat ((a + b - 1) / b) 1 65535

/-- E2. -/
def State.cadE2 (s : State) : Nat :=
  let r := cadRoot (s.reg (aComtDev 0x38)).toNat s.cadM
  cadEvery (if s.correlated then r else max r (s.cadFloor * 1000)) s.cadI1

/-- E3: 0 while C3 is 0, which disables L3 requests. -/
def State.cadE3 (s : State) : Nat :=
  let c3 := (s.reg (aComtDev 0x3C)).toNat
  if c3 = 0 then 0 else cadEvery (cadRoot c3 s.cadM) s.cadI1

/-- Write the service's values into its registers. -/
def cadRefresh (s : State) : State :=
  let w := fun n => BitVec.ofNat 32 (min n (2 ^ 32 - 1))
  ((((s.setReg (aComtDev 0x20) (w s.cadM)).setReg (aComtDev 0x2C) (w s.cadI1)).setReg (aComtDev 0x30)
    (w (s.cadE2 + 65536 * s.cadE3))).setReg (aComtDev 0x40) (w s.cadFloor))

/-- The layers the service requests in a vote of context `c` now (R391, R393). -/
def State.cadBits (s : State) (c : Nat) : BitVec 3 :=
  let en := s.regBit (aComtDev 0x18) 0
  let due := en && decide (s.cadence.lastDurable.toNat + s.cadI1 * 1000000 ≤ s.time.toNat)
  let n := s.cadence.l1Count + 1
  let l1 := due || (s.ctx c).ckpPair
  let l2 := due && decide (n % s.cadE2 = 0)
  let l3 := due && s.regBit (aComtDev 0x18) 1 && decide (s.cadE3 ≠ 0) && decide (n % s.cadE3 = 0)
  BitVec.ofNat 3 ((if l1 then 1 else 0) + (if l2 then 2 else 0) + if l3 then 4 else 0)

/-! ### The vote tree (R377) -/

/-- Whether a context takes part in votes: its COMT_VOTE_PARENT is VALID or marks it ROOT (R367, R372). -/
def State.participant (s : State) (c : Nat) : Bool := s.regBit (aComt c 0x10) 31 || s.regBit (aComt c 0x10) 30

/-- Whether a context is ROOT. -/
def State.voteRoot (s : State) (c : Nat) : Bool := s.regBit (aComt c 0x10) 30

/-- The VALID children: index and rank. -/
def State.voteChildren (s : State) (c : Nat) : List (Nat × BitVec 21) :=
  ((List.range 16).filter fun i => s.regBit (aComt c (0x20 + 4 * i)) 31).map fun i =>
    (i, BitVec.ofNat 21 (s.regField (aComt c (0x20 + 4 * i)) 20 0))

/-- The rank of the parent. -/
def State.voteParent (s : State) (c : Nat) : BitVec 21 := BitVec.ofNat 21 (s.regField (aComt c 0x10) 20 0)

/-- The payload of a VOTE packet: the word and its CRC-32C (R304). -/
def votePayload (w : Dword) : Bytes := leBytes 8 w.toNat ++ leBytes 4 (crc32c (leBytes 8 w.toNat))

/-- The step that a context's vote is about: the step under way, or the last one voted on once the context is gone. -/
def State.voteStep (s : State) (c : Nat) : Dword := if (s.ctx c).st = .invalid then (s.ctx c).vstep else s.stepOf c

/-- Send a vote word for a step to a rank (R377); `again` repeats the sequence number of the flow's last packet (R378). -/
def sendVote (c : Nat) (dst : BitVec 21) (step : Word) (w : Dword) (again : Bool) (s : State) : State :=
  let p := s.mkPacket c dst 3 0x20 0 0 step false true (votePayload w)
  if ¬ s.mayInject c dst then violation dst.toNat s
  else if again then
    match s.fabric.tx.find? fun f => decide (f.job = p.job) && decide (f.src = p.src) && decide (f.dst = dst) && decide (f.cls = 3) with
    | some f => launch { p with seq := f.next - 1, retx := true } s
    | none => (inject p s).1
  else (inject p s).1

/-- The combined word of a participant: its own and its children's (R376, R377). -/
def State.combined (s : State) (c : Nat) : Dword :=
  (s.ctx c).childWords.foldl (fun w e => voteCombine w e.2) (s.reg64 (aComt c 0x60))

/-- Whether every VALID child has a word. -/
def State.childrenIn (s : State) (c : Nat) : Bool :=
  (s.voteChildren c).all fun e => ((s.ctx c).childWords.find? e.1).isSome

/-! ### The local vote word (R375) -/

/-- The flags that the tasks and the groups of a step set. -/
def State.stepFlags (s : State) (c : Nat) (step : Dword) : Dword :=
  let x := s.ctx c
  let ts := (x.stepTasks step).filter fun t => decide (t.d.kind ≠ kCheckpoint ∧ t.d.kind ≠ kStepEnd)
  let byTask := fun (w : Dword) (t : Task) =>
    let w1 := orBit w vNonfinite t.res.stateNonfinite
    if t.res.status = stKilled then orBit w1 (if x.killCause = stPoison then vPoison else vFault) true
    else match voteOfStatus t.res.status with
      | some i => orBit w1 i true
      | none => w1
  let byGroup := fun (w : Dword) (g : Group) =>
    if decide (g.step = step) && decide (2 ≤ g.outcome) then
      orBit (orBit (orBit w vSaturated (decide (g.left.toNat % 8 ≠ 0))) vNonfinite (g.left.getLsbD 3)) vRetryWide
        (decide (g.outcome = 2))
    else w
  x.groups.foldl byGroup (ts.foldl byTask 0)

/-- Whether a domain with work of context `c` is fenced or in reset (R428, R429). -/
def State.ctxFenced (s : State) (c : Nat) : Bool := s.faults.resets.any fun r => r.ctxs.contains c

/-- What the device adds to any vote that context `c` casts now: the pip, the abort request, decisions, the drain, a fenced
domain. -/
def State.castFlags (s : State) (c : Nat) : Dword :=
  let x := s.ctx c
  orBit (orBit 0 vFault (x.hardPip.contains (s.stepOf c) || x.abortArmed || !s.faults.decisions.isEmpty)) vDomainReset (s.ctxFenced c)

/-- The retry limit and the flags of a STEP_END (R373, R375). -/
def stepEndFlags (params : Bytes) (step : Dword) (tries : Nat) : Dword :=
  let f := fieldLe params 1 1
  let limit := if f.testBit 0 then 0 else 1 + bitsN f 3 1
  orBit (orBit (orBit (orBit 0 vSkipReq (f.testBit 5))
    vStepMismatch (f.testBit 6 && decide (fieldLe params 8 8 ≠ step.toNat)))
    vTriesExhausted (decide (limit ≤ tries))) vHalt (f.testBit 4)

/-- The whole local word: flags, the layers requested, STEP_MIN. -/
def State.localWord (s : State) (c : Nat) (step : Dword) (params : Bytes) (extra : Dword) : Dword :=
  let k := s.cadBits c
  let w := s.stepFlags c step ||| s.castFlags c ||| stepEndFlags params step (s.ctx c).tries ||| extra
  orBit (orBit (orBit w vCkp1 (k.getLsbD 0)) vCkp2 (k.getLsbD 1)) vCkp3 (k.getLsbD 2) ||| (step <<< 32)

/-! ### Outcomes (R380) -/

/-- The STEP record of a step (R238): its cursor is the one the stream table carries, or the one pending where there is none (R250). -/
def stepRecord (c : Nat) (step : Dword) (reduced : Dword) (outcome : Nat) (p : Prep) (pend : Option Dword) (s : State) : State :=
  let x := s.ctx c
  let cur := (p.cursor.or pend).getD 0
  (ledgerPut c 5 0 0xFF step
    (leBytes 8 reduced.toNat ++ leBytes 8 (s.reg64 (aComt c 0x60)).toNat ++ leBytes 1 outcome ++ leBytes 1 x.tries
      ++ leBytes 1 (if x.mapSel then 1 else 0) ++ leBytes 1 0 ++ leBytes 4 p.tasks ++ leBytes 8 cur.toNat
      ++ leBytes 16 p.digest.toNat ++ leBytes 8 ((x.castAt.getD 0).toNat) ++ leBytes 8 s.time.toNat ++ leBytes 4 p.layers)
    128 s).1

/-- What a vote cast without STEP_END has prepared: nothing. -/
def Prep.none : Prep :=
  { written := [], table := Option.none, cursor := Option.none, carried := false, wrap := false, digest := 0, tasks := 0, layers := 0 }

/-- The current versions of some handles become committed (R368). -/
def Ctx.commitVers (x : Ctx) (hs : List Nat) : Ctx :=
  hs.foldl (fun y h =>
    let v := { y.ver h with working := false }
    { y.setVer h v with commVers := NMap.set (fun _ => Version.plain) y.commVers h v }) x

/-- The working versions are dropped: the committed ones of every FOLIO handle are current again (R380). -/
def Ctx.dropWorking (x : Ctx) : Ctx :=
  ((x.vers.filter fun e => x.isFolio e.1).map fun e => e.1).foldl (fun y h => y.setVer h (y.commVer h)) x

/-- The versions that tasks of a step, or of a later one, still have to leave. -/
def Ctx.leaveStep (x : Ctx) (step : Dword) : Ctx :=
  x.tasks.foldl (fun y t => match t.verDue with
    | some st => if step ≤ t.step then y.leaveVers t st else y
    | none => y) x

/-- STEP_END's task completes. -/
def endStepTask (c : Nat) (status : Byte) (s : State) : State :=
  match (s.ctx c).stepTask with
  | none => s
  | some r =>
    let s1 := s.setCtx c { s.ctx c with stepTask := none }
    match s1.task? r with
    | none => s1
    | some t => if t.st = .complete then s1 else afterComplete t (completeWith t status dNone 0 false s1)

/-- The state after a step that commits or is skipped (R251, R380): the words, the maps, RNGS_STEP, the cursor. -/
def settleStep (c : Nat) (step : Dword) (p : Prep) (written : List Nat) (outcome : Nat) (digest : BitVec 128) (s : State) :
    State :=
  let x := s.ctx c
  let map := flipMap x.map written
  let sel := !x.mapSel
  let s1 := if outcome = 3 then (areaWriteLate c (0x1000 + if sel then s.mapBytes c else 0) (mapImage (s.mapBytes c) map) s).1 else s
  let (s2, ok) := areaWriteLate c 0 (areaWord step sel outcome s1.time digest) s1
  let y := (s2.ctx c).commitVers written
  let y1 := y.dropWorking
  let s3 := s2.setCtx c
    { y1 with map := map, mapSel := sel, mapValid := y1.mapValid || ok, tries := 0, overrides := [], prep := none,
              cursors := y1.cursors.filter fun e => decide (step < e.1), phase := 0, castAt := none, childWords := [],
              timedOut := [] }
  let s4 := s3.setReg64 (aRngs c 0x20) step
  match p.cursor with
  | none => s4
  | some v =>
    let s5 := s4.setReg64 (aRngs c 0x28) v
    let s6 := if p.carried then count (aRngs c 0x48) 1 s5 else s5
    if p.wrap then s6.setRegBit (aRngs c 0x50) 1 true else s6

/-- A step commits (R380). -/
def commitStep (c : Nat) (reduced : Dword) (s : State) : State :=
  let step := s.stepOf c
  let x := s.ctx c
  let p := x.prep.getD Prep.none
  let ns := (s.time - (x.castAt.getD s.time)).toNat
  let s1 := settleStep c step p p.written 1 p.digest s
  let s2 := stepRecord c step reduced 1 p (x.cursorOf step) (s1.setCtx c { s1.ctx c with tries := x.tries, castAt := x.castAt })
  let s3 := s2.setCtx c { s2.ctx c with tries := 0, castAt := none, ckpReq := (reduced >>> 18).setWidth 3, ckpPair := false }
  let s4 := endStepTask c stOk (count (aComt c 0x70) 1 s3)
  if s4.regBit (aComt c 0) 3 then
    raiseCtx c 0x0601 0 noUnit (leBytes 8 step.toNat ++ leBytes 8 reduced.toNat ++ leBytes 4 (min ns (2 ^ 32 - 1))) s4
  else s4

/-- A step is skipped (R380). -/
def skipStep (c : Nat) (reduced : Dword) (s : State) : State :=
  let step := s.stepOf c
  let x := s.ctx c
  let p := x.prep.getD Prep.none
  let written := match p.table with
    | some h => p.written.filter fun k => k = h
    | none => []
  let s1 := settleStep c step p written 3 0 s
  let s2 := stepRecord c step reduced 3 p (x.cursorOf step) (s1.setCtx c { s1.ctx c with tries := x.tries, castAt := x.castAt })
  let s3 := s2.setCtx c { s2.ctx c with tries := 0, castAt := none }
  raiseCtx c 0x0603 1 noUnit (leBytes 8 step.toNat ++ leBytes 8 reduced.toNat ++ leBytes 1 x.tries)
    (endStepTask c stStepAborted (count (aComt c 0x80) 1 s3))

/-- A step aborts (R380): nothing of it is kept; the quiet period begins. DEDUCED: log entry 62. -/
def abortStep (c : Nat) (reduced : Dword) (s : State) : State :=
  let step := s.stepOf c
  let x := s.ctx c
  let s1 := endStepTask c stStepAborted (stepRecord c step reduced 2 (x.prep.getD Prep.none) (x.cursorOf step) s)
  let s2 := endTasks c (fun t => decide (step ≤ t.step) && decide (t.d.kind ≠ kCheckpoint)) stStepAborted dNone (skipStepPips c step s1)
  let s3 := count (aComt c 0x78) 1 (failOps c stStepAborted s2)
  let y := ((s3.ctx c).leaveStep step).dropWorking
  s3.setCtx c
    { y with tries := min 15 (y.tries + 1), prep := none, phase := 5, castAt := some s3.time, childWords := [],
             tasks := y.tasks.filter fun t => t.isOpen || decide (t.step < step),
             groups := y.groups.filter fun g => decide (g.step < step) }

/-- Cast a vote whose STEP_END can no longer run (R375): when its step comes under way, FAULT. -/
def State.stepEndLost (s : State) (c : Nat) : Bool :=
  (s.ctx c).tasks.any fun t => decide (t.d.kind = kStepEnd) && decide (t.step = s.stepOf c) && decide (t.st = .complete)

/-- Put a reduced word into effect in one context, and pass it on (R377, R379); the caller has seen that it has cast. -/
def applyReduced (c : Nat) (reduced : Dword) (s : State) : State :=
  let step := s.voteStep c
  let x := s.ctx c
  let s1 := (s.setReg64 (aComt c 0x68) reduced).setCtx c { x with history := ((step, reduced) :: x.history).take 16 }
  let s2 := (s1.voteChildren c).foldl (fun t e => sendVote c e.2 (step.setWidth 32) reduced false t) s1
  if x.st = .invalid then
    s2.setCtx c { s2.ctx c with phase := 0, castAt := none, childWords := [], timedOut := [] }
  else
    match voteDecide reduced with
    | .commit => commitStep c reduced s2
    | .skip => skipStep c reduced s2
    | .abort _ => abortStep c reduced s2

/-- Whether a context has cast and waits for the reduced word: VOTED or IN_DOUBT. -/
def Ctx.voted (x : Ctx) : Bool := x.phase == 3 || x.phase == 4

/-- A participant whose children have all voted sends its word up; the root decides (R377). -/
def tryCombine (c : Nat) (s : State) : State :=
  if ¬ (s.ctx c).voted ∨ ¬ s.childrenIn c then s
  else if s.voteRoot c then applyReduced c (s.combined c) s
  else sendVote c (s.voteParent c) ((s.voteStep c).setWidth 32) (s.combined c) false s

/-- The retry overrides that a vote with RETRY_WIDE records (R226): for each layer concerned, the level above the one that tripped. -/
def noteOverrides (c : Nat) (step : Dword) (s : State) : State :=
  ((s.ctx c).groups.filter fun g => decide (g.step = step) && decide (g.outcome = 2)).foldl (fun u g =>
    let next := max (g.level + 1) ((u.overrideOf c g.layer.toNat step).getD 0)
    let x := u.ctx c
    u.setCtx c { x with overrides := NMap.set (fun _ => 0) x.overrides g.layer.toNat (4 * step.toNat + next) }) s

/-- Cast the local vote word (R374 step 8). -/
def castVote (c : Nat) (w : Dword) (s : State) : State :=
  let s0 := if w.getLsbD vRetryWide then noteOverrides c (s.stepOf c) s else s
  let s1 := s0.setReg64 (aComt c 0x60) w
  let left := (s1.ctx c).hardPip.filter fun h => decide (h ≠ s1.stepOf c)
  tryCombine c (s1.setCtx c
    { s1.ctx c with phase := 3, castAt := some s1.time, abortArmed := false, hardPip := left, vstep := s1.stepOf c,
                      vjob := s1.ctxJob c })

/-- Cast a vote without STEP_END (R375), unless the vote of the step is cast already. -/
def forcedVote (c bit : Nat) (s : State) : State :=
  let x := s.ctx c
  if ¬ s.participant c ∨ 3 ≤ x.phase.toNat then s
  else castVote c (s.localWord c (s.stepOf c) [] (orBit 0 bit true)) s

/-- A step that comes under way with its STEP_END already cancelled votes FAULT (R375); `n` bounds the steps in a row. -/
def castLost : Nat → Nat → State → State
  | 0, _, s => s
  | n + 1, c, s =>
    if s.stepEndLost c && !(s.ctx c).voted && !((s.ctx c).phase == 5) && s.participant c then castLost n c (forcedVote c vFault s)
    else s

/-- The reduced word of the step under way arrives or is decided (R377, R378). -/
def gotReduced (c : Nat) (reduced : Dword) (s : State) : State :=
  if (s.ctx c).voted then castLost (s.ctx c).tasks.length c (applyReduced c reduced s) else s

/-! ### The kill (R61) -/

/-- Kill a context: it must be ACTIVE or QUIESCING. -/
def killCtx (c : Nat) (cause : Byte) (s : State) : State :=
  let x := s.ctx c
  if x.st ≠ .active ∧ x.st ≠ .quiescing then s
  else
    let s1 := s.setCtx c { x with killCause := cause }
    let s2 := endTasks c (fun _ => true) stKilled dNone s1
    let s3 := failOps c stKilled (setCtxState c .killed s2)
    forcedVote c (if cause = stPoison then vPoison else vFault) s3

/-- Kill the context whose run asks for it. -/
def killIf (c : Nat) (k : Option Byte) (s : State) : State := match k with
  | none => s
  | some cause => killCtx c cause s

/-! ### STEP_END (R374) -/

/-- Whether a row repair runs, which STEP_END waits for (R288, R374). -/
def State.repairRuns (s : State) : Bool := s.hbm.any fun e => e.2.repairing.isSome

/-- Prepare the map and the prepare word, and cast the vote (R370, R374 steps 4 to 8). -/
def prepareAndCast (c : Nat) (step : Dword) (params : Bytes) (out : Option TableOut) (extra : Dword) (s : State) : State :=
  let so : StreamOut := match out with
    | some o => o.streams
    | none => { table := none, cursor := none, carried := false, wrap := false }
  let layers := match out with | some o => o.layers | none => []
  let w := s.writeDigest c
  let s1 := setDigest c w s
  let x := s1.ctx c
  let written := x.writtenSet
  let (s2, ok1) := writeMap c (!x.mapSel) (flipMap x.map written) s1
  let (s3, ok2) := writeWord c 0x40 step (!x.mapSel) 0 w s2
  let p : Prep := { written := written, table := so.table, cursor := so.cursor, carried := so.carried, wrap := so.wrap,
                    digest := w, tasks := (x.stepTasks step).length, layers := layers.length }
  let s4 := voteRecords c step layers s3
  let s5 := s4.setCtx c { s4.ctx c with prep := some p, phase := 2 }
  castVote c (s5.localWord c step params (orBit extra vFault (!(ok1 && ok2)))) s5

/-- STEP_END runs: the checks that have not started are skipped (R233), the tables are written, then the vote is cast. A poisoned tile of a
table ends it, and the context is killed (R279). -/
def runStepEnd (task : TaskRef) (env : Env) (s : State) : State :=
  let c := task.ctx.val
  let x := s.ctx c
  match s.task? task with
  | none => s
  | some t =>
    if t.d.kind ≠ kStepEnd ∨ t.st ≠ .issued ∨ t.step ≠ s.stepOf c ∨ 3 ≤ x.phase.toNat ∨ s.repairRuns then s
    else
      let s0 := skipStepPips c t.step (s.setCtx c { x with stepTask := some task })
      let (r, s1) := (writeTables env t.who task t.step).run s0
      match r with
      | .ok out => castLost x.tasks.length c (prepareAndCast c t.step t.d.params (some out) 0 s1)
      | .error e =>
        match e.kill with
        | some cause => killCtx c cause (endStepTask c e.status s1)
        | none =>
          let bit := (voteOfStatus e.status).getD vFault
          castLost x.tasks.length c (prepareAndCast c t.step t.d.params none (orBit 0 bit true) s1)

/-! ### Timers of the vote (R378, R380) -/

/-- COMT_VOTE_TIMEOUT in ns. -/
def State.voteTimeoutNs (s : State) (c : Nat) : Nat := clampNat (s.reg (aComt c 0x14)).toNat 100 10000000 * 1000

/-- COMT_VOTE_RESEND in ns. -/
def State.voteResendNs (s : State) (c : Nat) : Nat := clampNat (s.reg (aComt c 0x18)).toNat 20 65535 * 1000

/-- COMT_QUIET in ns. -/
def State.quietNs (s : State) (c : Nat) : Nat := clampNat (s.reg (aComt c 0x1C)).toNat 1000 1000000 * 1000

/-- A child that has not voted in time is combined as a word with TIMEOUT set (R378). -/
def voteTimeout (c child : Nat) (s : State) : State :=
  let x := s.ctx c
  if ¬ x.voted ∨ (x.childWords.find? child).isSome ∨ ¬ s.regBit (aComt c (0x20 + 4 * child)) 31 then s
  else
    let w := orBit ((s.voteStep c) <<< 32) vTimeout true
    castLost x.tasks.length c (tryCombine c (s.setCtx c
      { x with childWords := NMap.insert x.childWords child w, timedOut := x.timedOut ++ [child] }))

/-- Whether a participant has sent its word and waits for the reduced word. -/
def State.waitsReduced (s : State) (c : Nat) : Bool := (s.ctx c).voted && s.childrenIn c && !s.voteRoot c

/-- Send the word again (R378). -/
def voteResend (c : Nat) (s : State) : State :=
  if s.waitsReduced c then sendVote c (s.voteParent c) ((s.voteStep c).setWidth 32) (s.combined c) true s else s

/-- The quiet period ends (R380): STEP_ABORTED, then admission again. -/
def quietExpire (c : Nat) (s : State) : State :=
  let x := s.ctx c
  if x.phase ≠ 5 then s
  else
    let reduced := s.reg64 (aComt c 0x68)
    let step := s.stepOf c
    let decision := match voteDecide reduced with | .abort false => 1 | _ => 2
    let first := (s.voteChildren c).find? fun e => x.timedOut.contains e.1
    let rank := match first with | some e => e.2.toNat | none => 0xFFFFFFFF
    raiseCtx c 0x0602 1 noUnit (leBytes 8 step.toNat ++ leBytes 8 reduced.toNat ++ leBytes 1 decision ++ leBytes 1 x.tries
      ++ leBytes 2 0 ++ leBytes 4 rank) (s.setCtx c { x with phase := 0, castAt := none, timedOut := [] })

end Sys2Proof.Machine
end

