-- ==== Sys2Proof/Machine/Rings.lean ====
section
/-! DEFINITION. The ring engine (R65 to R69), the watch table (R350), and what follows a context's rings and tasks: ACTIVE,
CONFIGURED, and the device states READY and ACTIVE (R38, R39, R60). -/

namespace Sys2Proof.Machine

/-! ### Contexts and the device state (R38, R39, R60) -/

/-- Whether any ring of a context is enabled. -/
def State.anyRing (s : State) (c : Nat) : Bool := (List.range 8).any fun r => s.ringEn c r

/-- READY becomes ACTIVE with the first active context, and ACTIVE becomes READY when the last is released (R38). -/
def recount (s : State) : State :=
  if s.dev = .ready ∧ s.locked then setDev .active s
  else if s.dev = .active ∧ ¬ s.locked then setDev .ready s
  else s

/-- The state of a context as its rings have it (R60): ACTIVE once one is enabled, CONFIGURED again when every ring is disabled
and nothing is in flight. -/
def ctxRings (c : Nat) (s : State) : State :=
  let x := s.ctx c
  if x.st = .configured ∧ s.anyRing c then recount (setCtxState c .active s)
  else if (x.st = .active ∨ x.st = .quiescing) ∧ ¬ s.anyRing c ∧ x.inflight = 0 then recount (setCtxState c .configured s)
  else s

/-- What a context that becomes INVALID keeps: what its status registers show, until it is written or a ring starts again (R61, R72), and
what the vote logic answers with. -/
def Ctx.released (x : Ctx) : Ctx :=
  { Ctx.empty with
    history := x.history, vstep := x.vstep, overcommit := x.overcommit, killCause := x.killCause,
    rings := x.rings.map fun e => (e.1, { Ring.empty with err := e.2.err, errCause := e.2.errCause, devPtr := e.2.devPtr }) }

/-- What the imports of a handle keep of it once the handle or its context goes (R61, R62). DEDUCED: log entry 104. -/
def State.keptOf (s : State) (c h : Nat) : Kept :=
  let x := s.ctx c
  { root := s.reg64 (aCtx c 0x10), side := x.side h, ver := if x.isFolio h then x.commVer h else x.ver h,
    shadow := match x.handle? h with | some d => d.shadow | none => none }

/-- The imports of those handles of a context that `p` names, as they outlive them. -/
def keepImports (c : Nat) (p : Nat → Bool) (s : State) : State :=
  let keep := fun (d : Handle) => match d.source with
    | some (k, h) => if decide (k = c) && p h && d.kept.isNone then { d with kept := some (s.keptOf c h) } else d
    | none => d
  { s with ctxs := s.ctxs.map fun e => (e.1, { e.2 with handles := e.2.handles.map fun g => (g.1, keep g.2) }) }

/-! ### Reads over the link (R348 to R350) -/

/-- Index of a ring in the watch table. -/
def watchIdx (c r : Nat) : Nat := c * 8 + r

/-- Whether the pointer line of a ring is being read. -/
def State.readingPtr (s : State) (c r : Nat) : Bool := s.trepel.outstanding.any fun o => decide (o.2 = .pointer c r)

/-- Whether entry `k` of a ring is being read. -/
def State.readingEntry (s : State) (c r k : Nat) : Bool :=
  s.trepel.outstanding.any fun o => decide (o.2 = .entries c r k)

/-- Issue an RD_SHARED of a companion line (R348). -/
def readLine (addr : Nat) (use : ReadUse) (s : State) : State :=
  let t := s.trepel
  { s with trepel := { t with outstanding := t.outstanding ++ [(t.nextTag, use)], nextTag := t.nextTag + 1 },
           outputs := s.outputs ++ [.link 0x01 0 t.nextTag (BitVec.ofNat 64 addr) []] }

/-- A ring-engine access outside every window is not issued: the ring stops with ERR_CAUSE 4 (R355). -/
def ringOutside (c r addr : Nat) (s : State) : State := ringError c r 4 (violation addr s)

/-- Whether the ring engine works on a ring: enabled, not stopped by an error or a kill, the link in service (R61, R67, R478). -/
def State.ringWorks (s : State) (c r : Nat) : Bool :=
  s.ringEn c r && !(s.ring c r).stopped && s.ringOpen c r && s.linkServes

/-- Read a ring's companion line (R66); while a read of it is outstanding the watch entry is marked (R350). -/
def readPointer (c r : Nat) (s : State) : State :=
  let addr := (s.reg64 (aRing c r 0x0C)).toNat
  if ¬ s.ringWorks c r then s
  else if s.readingPtr c r then { s with trepel := { s.trepel with marks := (watchIdx c r :: s.trepel.marks).eraseDups } }
  else if ¬ s.winAllows addr 64 false then ringOutside c r addr s
  else readLine addr (.pointer c r) s

/-- Read the entries of a companion-written ring up to its tail (R66). -/
def readEntries (c r : Nat) (s : State) : State :=
  let g := s.ring c r
  (List.range (g.compPtr - g.fetchedTo).toNat).foldl (fun t i =>
    let k := g.fetchedTo.toNat + i
    let addr := t.entryAddr c r k
    if ¬ t.ringWorks c r ∨ t.readingEntry c r k then t
    else if ¬ t.winAllows addr 64 false then ringOutside c r addr t
    else readLine addr (.entries c r k) t) s

/-- Take the entries that have come, in ring order. -/
def takeEntries (c r : Nat) : Nat → State → State
  | 0, s => s
  | n + 1, s =>
    let g := s.ring c r
    let k := g.fetchedTo.toNat
    let addr := s.entryAddr c r k
    match NMap.find? s.trepel.cache addr with
    | none => s
    | some l =>
      if g.fetchedTo = g.compPtr ∨ s.readingEntry c r k then s
      else
        let s1 := { s with trepel := { s.trepel with cache := NMap.erase s.trepel.cache addr } }
        takeEntries c r n (s1.setRing c r { g with fetched := g.fetched ++ [l.data], fetchedTo := g.fetchedTo + 1 })

/-- Drop an outstanding read. -/
def endRead (use : ReadUse) (s : State) : State :=
  { s with trepel := { s.trepel with outstanding := s.trepel.outstanding.filter fun o => o.2 ≠ use } }

/-- Hold a companion line Shared (R349). -/
def cacheShared (addr : Nat) (line : Bytes) (s : State) : State :=
  { s with trepel := { s.trepel with
      cache := NMap.insert s.trepel.cache addr { modified := false, exclusive := false, data := sliceB line 0 64 } } }

/-- A pointer line has been read (R66, R67): the tail of a companion-written ring, the head of a device-written one. -/
def gotPointer (c r : Nat) (line : Bytes) (s : State) : State :=
  if ¬ s.readingPtr c r then s
  else
    let s0 := endRead (.pointer c r) s
    let again := s0.trepel.marks.contains (watchIdx c r)
    let s1 := { s0 with trepel := { s0.trepel with marks := s0.trepel.marks.filter fun m => m ≠ watchIdx c r } }
    let s2 := if again then s1 else cacheShared (s.reg64 (aRing c r 0x0C)).toNat line s1
    let g := s2.ring c r
    let n := BitVec.ofNat 32 (fieldLe line 0 4)
    let s3 :=
      if ¬ s2.ringWorks c r then s2
      else if 4 ≤ r ∧ r ≤ 6 then flushRecords c (s2.setRing c r { g with compPtr := n })
      else if newer g.compPtr n then ringError c r 1 s2
      else if s2.ringSize c r < (n - g.devPtr).toNat then ringError c r 2 s2
      else readEntries c r (s2.setRing c r { g with compPtr := n })
    if again then readPointer c r s3 else s3

/-- Lines of ring entries have come, from the first one outstanding on (R66). -/
def gotEntries (c r : Nat) (lines : List Bytes) (s : State) : State :=
  let ks := s.trepel.outstanding.filterMap fun o => match o.2 with
    | .entries c' r' k => if c' = c ∧ r' = r then some k else none
    | _ => none
  let s1 := (ks.zip lines).foldl (fun t e => cacheShared (t.entryAddr c r e.1) e.2 (endRead (.entries c r e.1) t)) s
  takeEntries c r ks.length s1

/-- One outstanding entry has come. -/
def gotEntry (c r k : Nat) (line : Bytes) (s : State) : State :=
  let s1 := cacheShared (s.entryAddr c r k) line (endRead (.entries c r k) s)
  takeEntries c r ((s1.ring c r).compPtr - (s1.ring c r).fetchedTo).toNat s1

/-- A doorbell (R66, R350): the ring engine wakes through the watch table. -/
def wakeRing (c r : Nat) (s : State) : State :=
  if s.ringWorks c r then readPointer c r (count (aGeng 0x28) 1 s) else s

/-- Rings whose watch entries hold a line. -/
def State.watchers (s : State) (line : Nat) : List Nat :=
  (s.trepel.watch.filter fun e => decide (e.2.toNat = line)).map fun e => e.1

/-- A SNOOP (R349, R350): answered, with the line if it is Modified here; an invalidating one of a watched line wakes its
owner. -/
def snoop (line : Nat) (invalidate : Bool) (s : State) : State :=
  if ¬ s.linkServes then s
  else
    let l := NMap.find? s.trepel.cache line
    let data := match l with | some x => if x.modified then x.data else [] | none => []
    let s1 := s.emit (.link 0x05 0 0 (BitVec.ofNat 64 line) data)
    let cache := match l with
      | none => s1.trepel.cache
      | some x => if invalidate then NMap.erase s1.trepel.cache line
                  else NMap.insert s1.trepel.cache line { x with modified := false, exclusive := false }
    let s2 := { s1 with trepel := { s1.trepel with cache := cache } }
    if ¬ invalidate then s2
    else ((s2.watchers line).filter fun i => decide (i < 512)).foldl (fun t i => wakeRing (i / 8) (i % 8) t) s2

/-- The backstop (R66): every companion line is read again; an interval of 0 disables it. -/
def pollRings (s : State) : State :=
  if s.regField (aGeng 0) 15 0 = 0 then s
  else
    (s.activeCtxs.flatMap fun c => (List.range 8).map fun r => (c, r)).foldl (fun t e =>
      if t.readingPtr e.1 e.2 then t else readPointer e.1 e.2 t) s

/-! ### Consuming entries -/

/-- The device's head moves past an entry: RING_DEV_PTR and the device line (R65). -/
def consume (c r : Nat) (s : State) : State :=
  let g := s.ring c r
  let s1 := s.setRing c r { g with devPtr := g.devPtr + 1, fetched := g.fetched.tail }
  let a := s1.reg64 (aRing c r 0x14)
  if s1.winAllows a.toNat 64 true then s1.emit (.line a (shadowLine (g.devPtr + 1))) else ringOutside c r a.toNat s1

/-- The entry at the head of a companion-written ring, if it may be taken: an entry whose CHECK fails is a ring error
instead (R67). -/
def State.headEntry (s : State) (c r : Nat) : Option Bytes := if s.ringWorks c r then (s.ring c r).fetched.head? else none

/-- Write a ring's position into its device line (R65); while the link carries nothing, the write stays due. -/
def writeDevLine (c r : Nat) (s : State) : State :=
  let a := s.reg64 (aRing c r 0x14)
  if ¬ s.linkServes then s.setRing c r { s.ring c r with lineDue := true }
  else
    let s1 := s.setRing c r { s.ring c r with lineDue := false }
    if s1.winAllows a.toNat 64 true then s1.emit (.line a (shadowLine (s1.ring c r).devPtr)) else ringOutside c r a.toNat s1

/-- A ring's EN is set (R65, R67, R350): positions and the expected number restart at 0, the watch entry is filled, the device line
written, and the companion line read. DEDUCED: log entry 39. -/
def enableRing (c r : Nat) (s : State) : State :=
  let g := s.ring c r
  let s1 := s.setRing c r { Ring.empty with err := g.err, errCause := g.errCause }
  let s2 := { s1 with trepel := { s1.trepel with
                watch := NMap.insert s1.trepel.watch (watchIdx c r) (s1.reg64 (aRing c r 0x0C)) } }
  readPointer c r (ctxRings c (writeDevLine c r s2))

/-- The link carries transactions again: the device lines of rings enabled meanwhile are written and their companion lines read
(R65, R66). DEDUCED: log entry 39. -/
def writeDueLines (s : State) : State :=
  if ¬ s.linkServes then s
  else
    (s.activeCtxs.flatMap fun c => (List.range 8).map fun r => (c, r)).foldl (fun t e =>
      if (t.ring e.1 e.2).lineDue then readPointer e.1 e.2 (writeDevLine e.1 e.2 t) else t) s

/-- A ring's EN is cleared (R72, R350): the watch entry is cleared, entries fetched and not taken are dropped. -/
def disableRing (c r : Nat) (s : State) : State :=
  let g := s.ring c r
  let s1 := s.setRing c r { g with fetched := [], fetchedTo := g.devPtr, compPtr := g.compPtr, lineDue := false }
  let mine := fun (o : BitVec 16 × ReadUse) => match o.2 with
    | .pointer c' r' => decide (c' = c ∧ r' = r)
    | .entries c' r' _ => decide (c' = c ∧ r' = r)
    | .other => false
  let t := s1.trepel
  ctxRings c { s1 with trepel := { t with watch := NMap.erase t.watch (watchIdx c r),
                                           outstanding := t.outstanding.filter fun o => !mine o } }

/-- The interrupt timer of a completion ring (R69): MSI_TIME µs after the first unsignalled record. -/
def msiTimer (c r : Nat) (s : State) : State :=
  let g := s.ring c r
  let us := max 1 (s.regField (aRing c r 0x28) 15 0)
  match g.firstAt with
  | none => s
  | some t =>
    if s.regBit (aRing c r 8) 1 ∧ t.toNat + us * 1000 ≤ s.time.toNat then
      sendMsi c r (s.setRing c r { g with unsignalled := 0, firstAt := none })
    else s

end Sys2Proof.Machine
end

