-- ==== Sys2Proof/Machine/MatCore.lean ====
section
/-! DEFINITION. The arithmetic of the matrix array and the matrix-vector path: operand delivery (R130 to R132, R165),
block sums, run register, promotion, drain and husk terms (R137, R153 to R166), and the checks of the checksum lines
(R139 to R144, R147). -/

namespace Sys2Proof.Machine

/-- A delivered element (R131): the value that enters the product as an exact dyadic, the husk value (BF16), the
non-finite flag, and the code delivered with its S8 code for a husk partner's term. -/
structure Elt where
  m : Int
  e : Int
  husk : Option Nat
  nf : Bool
  code : Nat
  s8 : Nat
  deriving DecidableEq, Repr

/-- Contraction padding and positions beyond the operand's edge (R131). -/
def Elt.zero : Elt := { m := 0, e := 0, husk := none, nf := false, code := 0, s8 := 0 }

/-- An operand: its format, its rows over the contraction range, the scale of each 16-element array block of each row,
and the tensor scale of each row's tiles. -/
structure Opnd where
  fmt : Fmt
  rows : Array (Array Elt)
  scales : Array (Array (Nat × Int))
  t : Array Nat

/-- The exponent of a short format's smallest step (R139). -/
def stepExp (elem : Nat) : Int :=
  match elem with
  | 3 => -9
  | 4 => -16
  | 5 => -1
  | _ => 0

/-- The mode of two operands: 1 4-bit, 2 8-bit, 3 16-bit (R130). -/
def modeOf (a b : Fmt) : Nat :=
  if ¬ a.short ∨ ¬ b.short then 3 else if a.width = 4 ∧ b.width = 4 then 1 else 2

/-- Deliver an element of a short operand (R131); `wide` is 16-bit mode, where the value is code × S8 (R130). -/
def shortElt (k : Fmt) (code s8 : Nat) (husk : Option Nat) (wide : Bool) : Elt :=
  let z : Elt := { Elt.zero with s8 := s8 }
  match s8Val s8 with
  | none => { z with nf := true }
  | some (sm, se) =>
    if sm = 0 then z
    else if k.width = 4 ∧ code = 8 then
      match k.husks, husk with
      | true, some h => { z with husk := some h }
      | _, _ => z
    else
      match shortVal k.elem code with
      | .nan _ => { z with nf := true }
      | .inf _ => { z with nf := true }
      | .fin s m e =>
        -- a zero is delivered as code 0 (R131)
        let y := { z with code := if m = 0 then 0 else code }
        if wide then { y with m := if s then -((m * sm : Nat) : Int) else ((m * sm : Nat) : Int), e := e + se }
        else
          let st := stepExp k.elem
          let v : Int := ((m <<< (e - st).toNat : Nat) : Int)
          { y with m := if s then -v else v, e := st }

/-- Deliver an element of a long operand (R158, R159); `c` in binary32. -/
def longElt (c : Nat) : Elt :=
  match fmt32.dec c with
  | .fin s m e => { Elt.zero with m := if s then -(m : Int) else (m : Int), e := e, code := c }
  | _ => { Elt.zero with nf := true, code := c }

/-- The value a husk partner brings (R137): the long value, or round_ne(code × s × T). -/
def Elt.partner (k : Fmt) (t : Nat) (x : Elt) : Nat × Exc :=
  if ¬ k.short then (x.code, Exc.none) else dequant { k with husks := false } x.code x.s8 t none

/-- The value of one side of a husk term (R137): its husk value widened, where a signalling NaN counts as invalid operation in
each term it enters (R78), or what a partner brings. DESIGN CHOICE: log entry 97. -/
def Elt.term (k : Fmt) (t : Nat) (x : Elt) : Nat × Exc := match x.husk with
  | some h => fmtBf.conv fmt32 .rne h
  | none => x.partner k t

/-! ### Run register and promotion -/

/-- An exact dyadic. -/
structure Dy where
  m : Int
  e : Int
  deriving DecidableEq, Repr

/-- The exact sum. -/
def Dy.add (a b : Dy) : Dy :=
  if a.m = 0 then b
  else if b.m = 0 then a
  else
    let q := min a.e b.e
    { m := a.m * 2 ^ (a.e - q).toNat + b.m * 2 ^ (b.e - q).toNat, e := q }

/-- Round to 28 significant bits, ties to even (R155). -/
def Dy.round28 (a : Dy) : Dy :=
  let n := bitLen a.m.natAbs
  if n ≤ 28 then a
  else
    let q := a.e + (n - 28)
    let v : Int := ((roundQ .rne false a.m.natAbs a.e false q).1 : Nat)
    { m := if a.m < 0 then -v else v, e := q }

/-- A run-register addition (R155, R158). -/
def runAdd (r v : Dy) : Dy := (r.add v).round28

/-- The binary32 value of a dyadic as RNE gives it. -/
def Dy.to32 (a : Dy) : Nat × Exc := fmt32.pack .rne (decide (a.m < 0)) a.m.natAbs a.e false

/-- A promoted value with a fault: `delta` units of its least significant bit (R151), which is the last of the run register's
28 bits, and 2^−149 where the value is zero. DESIGN CHOICE: log entry 47. -/
def Dy.faulted (r : Dy) (delta : Int) : Dy :=
  let n := bitLen r.m.natAbs
  if r.m = 0 then { m := delta, e := -149 }
  else Dy.add r { m := delta, e := r.e + n - 28 }

/-- A promotion W := round_w(W + R) (R156, R160, R161); `u` is the draw under stochastic promotion. Where W is not finite, R is
rounded to binary32 and added. DESIGN CHOICE: log entry 98. -/
def promote (w : Nat) (r : Dy) (u : Option Nat) : Nat × Exc :=
  match fmt32.dec w with
  | .fin s m e =>
    let z := Dy.add { m := if s then -(m : Int) else m, e := e } r
    match u with
    | none => z.to32
    | some d =>
      let rn := z.to32
      if rn.2.inx = 0 then rn
      else if magLt 0xFFFFFF 104 z.m.natAbs z.e then rn
      else
        let v := (fmt32.pack (.stoch d) (decide (z.m < 0)) z.m.natAbs z.e false).1
        (if fmt32.isZero v then 0 else v,
          { Exc.none with inx := 1, unf := if fmt32.abs v < 0x00800000 then 1 else 0 })
  | _ => if r.m = 0 then (w, Exc.none) else fmt32.add .rne w r.to32.1

/-- The parameters of an accumulation; `faults` are faults of this cell that no check reports, by block (16-bit mode,
R143). -/
structure AccParams where
  passes : Nat
  promote : Nat
  stoch : Bool
  key : Nat
  klen : Nat
  half : Bool
  faults : List (Nat × Int)
  deriving DecidableEq, Repr

/-- A cell's accumulation: run register, wide accumulator, promotions so far, exceptions. -/
structure Acc where
  r : Dy
  w : Nat
  q : Nat
  ex : Exc
  deriving DecidableEq, Repr

/-- The draw of promotion `q` at output (m, n) (R162). -/
def promoDraw (p : AccParams) (q m n : Nat) : Option Nat :=
  if p.stoch then
    some (draw (p.key + q % 2 ^ 32 * 2 ^ 96) (min m n * 2 ^ 32 + max m n))
  else none

/-- Promote after block `b` of `total` when the interval closes (R156). -/
def accPromote (p : AccParams) (m n b total : Nat) (a : Acc) : Acc :=
  if (b + 1) % p.promote = 0 ∨ b + 1 = total then
    let d := p.faults.foldl (fun (d : Int) f => if b / p.promote * p.promote ≤ f.1 ∧ f.1 ≤ b then d + f.2 else d) 0
    let (w, ex) := promote a.w (if d = 0 then a.r else a.r.faulted d) (promoDraw p a.q m n)
    { r := { m := 0, e := 0 }, w := w, q := a.q + 1, ex := a.ex.add ex }
  else a

/-- The exact sum of the products of block `b` (R154). -/
def blockSum (x y : Array Elt) (b : Nat) : Int :=
  (List.range 16).foldl (fun acc i => acc + (x.getD (16 * b + i) Elt.zero).m * (y.getD (16 * b + i) Elt.zero).m) 0

/-- The scaled block sum (R154). -/
def scaledSum (ka kb : Fmt) (x y : Array Elt) (sx sy : Array (Nat × Int)) (b : Nat) : Dy :=
  let a := sx.getD b (0, 0)
  let c := sy.getD b (0, 0)
  { m := blockSum x y b * a.1 * c.1, e := stepExp ka.elem + stepExp kb.elem + a.2 + c.2 }

/-- The 16 additions of a block in 16-bit mode (R158). -/
def wideBlock (x y : Array Elt) (b : Nat) (r : Dy) : Dy :=
  (List.range 16).foldl (fun acc i =>
    let u := x.getD (16 * b + i) Elt.zero
    let v := y.getD (16 * b + i) Elt.zero
    runAdd acc { m := u.m * v.m, e := u.e + v.e }) r

/-- Accumulate one part of a product over `blocks` blocks, numbered from `b0` of `total` (R156, R166). -/
def accPart (p : AccParams) (wide : Bool) (ka kb : Fmt) (m n b0 total blocks : Nat) (x y : Array Elt)
    (sx sy : Array (Nat × Int)) (a0 : Acc) : Acc :=
  (List.range blocks).foldl (fun a b =>
    let r := if wide then wideBlock x y b a.r else runAdd a.r (scaledSum ka kb x y sx sy b)
    accPromote p m n (b0 + b) total { a with r := r }) a0

/-- The three BF16 parts of a binary32 value (R165). -/
def splitParts (c : Nat) : Nat × Nat × Nat :=
  if ¬ fmt32.isFin c then (0, 0, 0)
  else
    let h0 := (fmt32.conv fmtBf .rne c).1
    let h := if fmtBf.isInf h0 then (if fmtBf.sign h0 then 0xFF7F else 0x7F7F) else h0
    let r1 := sub32 c (h * 65536)
    let l := (fmt32.conv fmtBf .rne r1).1
    let l2 := (fmt32.conv fmtBf .rne (sub32 r1 (l * 65536))).1
    (h * 65536, l * 65536, l2 * 65536)

/-- A row of parts, by selector 0 hi, 1 lo, 2 lo2. -/
def partRow (x : Array Elt) (sel : Nat) : Array Elt :=
  x.map fun e =>
    let (h, l, l2) := splitParts e.code
    { longElt (match sel with | 0 => h | 1 => l | _ => l2) with nf := e.nf }

/-- The part products of PASSES, in order (R166). -/
def passParts (passes : Nat) : List (Nat × Nat) :=
  match passes with
  | 2 => [(0, 0), (0, 1), (1, 0)]
  | 3 => [(0, 0), (0, 1), (1, 0), (1, 1), (0, 2), (2, 0)]
  | _ => [(0, 0)]

/-- The husk register X of a cell (R137): terms added in ascending k. -/
def huskReg (ka kb : Fmt) (ta tb : Nat) (x y : Array Elt) : Nat × Exc :=
  let ks := (List.range x.size).filter fun k => (x.getD k Elt.zero).husk.isSome || (y.getD k Elt.zero).husk.isSome
  let r := ks.foldl (fun (acc : Option Nat × Exc) k =>
    let u := x.getD k Elt.zero
    let v := y.getD k Elt.zero
    let (a, ea) := u.term ka ta
    let (b, eb) := v.term kb tb
    let (t, et) := fmt32.mul .rne a b
    match acc.1 with
    | none => (some t, ((acc.2.add ea).add eb).add et)
    | some s =>
      let (z, ez) := fmt32.add .rne s t
      (some z, (((acc.2.add ea).add eb).add et).add ez)) (none, Exc.none)
  (r.1.getD 0, r.2)

/-- Drain (R157): D := round_ne(W · TA · TB · g), y := round_ne(D + X · g); a zero is +0. -/
def drain (w ta tb : Nat) (half : Bool) (x : Nat) : Nat × Exc :=
  let g := if half then 0x3F000000 else 0x3F800000
  let (d, ed) :=
    match fmt32.dec w, fmt32.dec ta, fmt32.dec tb with
    | .fin s m e, .fin s1 m1 e1, .fin s2 m2 e2 =>
      fmt32.pack .rne ((s != s1) != s2) (m * m1 * m2) (e + e1 + e2 - if half then 1 else 0) false
    | _, _, _ =>
      let (p, e1) := fmt32.mul .rne w ta
      let (q, e2) := fmt32.mul .rne p tb
      (q, e1.add e2)
  let (xg, ex) := if half then fmt32.mul .rne x g else (x, Exc.none)
  let (y, ey) := fmt32.add .rne d xg
  (if fmt32.isZero y then 0 else y, (ed.add ex).add ey)

/-- The output of cell (i, j) at output coordinates (m, n): value, exceptions, and whether the NaN flag is set
(R132, R159). A cell whose NaN flag is set counts no exception. DESIGN CHOICE: log entry 98. -/
def cellOut (p : AccParams) (a b : Opnd) (i j m n : Nat) : Nat × Exc × Bool :=
  let x := a.rows.getD i #[]
  let y := b.rows.getD j #[]
  if (x.any fun e => e.nf) || (y.any fun e => e.nf) then (fmt32.qnan, Exc.none, true)
  else
    let wide := modeOf a.fmt b.fmt == 3
    let blocks := (p.klen + 15) / 16
    let parts := if a.fmt.elem = 0 ∧ b.fmt.elem = 0 then passParts p.passes else [(0, 0)]
    let total := parts.length * blocks
    let split := decide (a.fmt.elem = 0 ∧ b.fmt.elem = 0)
    let acc := (List.range parts.length).foldl (fun acc q =>
      let s := parts.getD q (0, 0)
      accPart p wide a.fmt b.fmt m n (q * blocks) total blocks
        (if split then partRow x s.1 else x) (if split then partRow y s.2 else y)
        (a.scales.getD i #[]) (b.scales.getD j #[]) acc)
      { r := { m := 0, e := 0 }, w := 0, q := 0, ex := Exc.none }
    let ta := a.t.getD i 0x3F800000
    let tb := b.t.getD j 0x3F800000
    let (hx, eh) := huskReg a.fmt b.fmt ta tb x y
    let (v, ed) := drain acc.w ta tb p.half hx
    (v, (acc.ex.add eh).add ed, false)

/-! ### Checksum lines (R139 to R144) -/

/-- A mismatch (R142, R144): kind, located row and column (0xFFFF none), first block, plain and weighted difference,
whether an injection caused it. -/
structure Mismatch where
  kind : Nat
  row : Nat
  col : Nat
  block : Nat
  plain : Int
  weighted : Int
  injected : Bool
  deriving DecidableEq, Repr

/-- A fault of a cell in a tile: row, column, block, amount, whether injected. -/
structure TileFault where
  row : Nat
  col : Nat
  block : Nat
  delta : Int
  injected : Bool
  deriving DecidableEq, Repr

/-- Column differences of a block: for column `j`, plain and weighted, observed minus checksum side (R140, R142). -/
def colDiff (fs : List TileFault) (j : Nat) : Int × Int :=
  fs.foldl (fun d f =>
    if f.col ≠ j then d
    else if f.row < 128 then (d.1 + f.delta, d.2 + (f.row + 1) * f.delta)
    else if f.row = 128 then (d.1 - f.delta, d.2)
    else (d.1, d.2 - f.delta)) (0, 0)

/-- Row differences of a block (R140, R142). -/
def rowDiff (fs : List TileFault) (i : Nat) : Int × Int :=
  fs.foldl (fun d f =>
    if f.row ≠ i then d
    else if f.col < 128 then (d.1 + f.delta, d.2 + (f.col + 1) * f.delta)
    else if f.col = 128 then (d.1 - f.delta, d.2)
    else (d.1, d.2 - f.delta)) (0, 0)

/-- Which check of a failing line fails alone: 128 plain, 129 weighted, else 0xFFFF (R142). -/
def soleLine (ds : List (Int × Int)) : Nat :=
  if ds.all fun d => decide (d.2 = 0) then 128
  else if ds.all fun d => decide (d.1 = 0) then 129
  else 0xFFFF

/-- Classify the differences of one block (R142): failing columns and rows with their differences. -/
def classify (cols rows : List (Nat × Int × Int)) (block : Nat) (inj exact : Bool) : Option Mismatch :=
  let mk := fun kind row col (d : Int × Int) =>
    some { kind := kind, row := row, col := col, block := block, plain := d.1, weighted := d.2, injected := inj }
  match cols, rows with
  | [], [] => none
  | [(c, dc, wc)], [(r, dr, wr)] =>
    if ¬ exact ∨ (dc = dr ∧ dc ≠ 0 ∧ wc = (r + 1) * dc ∧ wr = (c + 1) * dr) then mk 0 r c (dc, wc)
    else mk 3 0xFFFF 0xFFFF (dc, wc)
  | (_, d) :: t, [] => mk 1 (if exact then soleLine (d :: t.map fun x => x.2) else 0xFFFF) 0xFFFF d
  | [], (_, d) :: t => mk 2 0xFFFF (if exact then soleLine (d :: t.map fun x => x.2) else 0xFFFF) d
  | (_, d) :: _, _ => mk 3 0xFFFF 0xFFFF d

/-- The faults that act: masked data cells take no part in any check (R136), and corner cells are not used (R139). -/
def liveFaults (mr nc : Nat) (fs : List TileFault) : List TileFault :=
  fs.filter fun f => (decide (f.row < mr) || decide (128 ≤ f.row)) && (decide (f.col < nc) || decide (128 ≤ f.col))
    && (decide (f.row < 128) || decide (f.col < 128)) && decide (f.row < 130) && decide (f.col < 130)

/-- The first failing block of a tile in 4-bit and 8-bit modes (R141): every check is exact, so the differences are
those that the faults make. -/
def tileMismatch (mr nc : Nat) (fs0 : List TileFault) : Nat → Nat → Option Mismatch
  | 0, _ => none
  | n + 1, b =>
    let fs := (liveFaults mr nc fs0).filter fun f => f.block = b
    let cs := ((List.range nc).map fun j => (j, colDiff fs j)).filter fun x => decide (x.2 ≠ (0, 0))
    let rs := ((List.range mr).map fun i => (i, rowDiff fs i)).filter fun x => decide (x.2 ≠ (0, 0))
    match classify cs rs b (fs.any fun f => f.injected) true with
    | some x => some x
    | none => tileMismatch mr nc fs0 n (b + 1)

/-- The run-register value that a cell promotes after blocks `b0` to `b0 + n − 1` in 16-bit mode. -/
def promoted (x y : Array Elt) (b0 n : Nat) : Dy :=
  (List.range n).foldl (fun r b => wideBlock x y (b0 + b) r) { m := 0, e := 0 }

/-- The element of a checksum line at index k: the binary32 sum of a column of operands, or of their magnitudes (R143). -/
def lineElt (rows : List (Array Elt)) (k : Nat) (mag : Bool) : Elt :=
  longElt (rows.foldl (fun acc r =>
    let v := (Dy.to32 { m := (r.getD k Elt.zero).m, e := (r.getD k Elt.zero).e }).1
    add32 acc (if mag then fmt32.abs v else v)) 0)

/-- A whole checksum line over `len` contraction indices. -/
def lineRow (rows : List (Array Elt)) (len : Nat) (mag : Bool) : Array Elt :=
  ((List.range len).map fun k => lineElt rows k mag).toArray

/-- An element with its magnitude (R143). -/
def Elt.absMag (x : Elt) : Elt := { x with m := x.m.natAbs }

/-- A finite binary32 value as an exact dyadic. -/
def Dy.of32 (c : Nat) : Dy := match fmt32.dec c with
  | .fin s m e => { m := if s then -(m : Int) else m, e := e }
  | _ => { m := 0, e := 0 }

/-- The negated value. -/
def Dy.neg (a : Dy) : Dy := { a with m := -a.m }

/-- The value with its sign cleared. -/
def Dy.abs (a : Dy) : Dy := { a with m := a.m.natAbs }

/-- The excess of a 16-bit line check over its bound 2^−12 · G + 2^−126, and the difference; none where the check holds
or a compared value is non-finite (R143). `us` are the promoted values of the line, `g` and `gm` the plain and magnitude
checksum values. The comparison is exact; what it reports is rounded to binary32 (R144). -/
def lineCheck (us : List Nat) (g gm : Nat) : Option (Nat × Nat) :=
  let sum := us.foldl add32 0
  if (us.any fun u => !fmt32.isFin u) || !fmt32.isFin g || !fmt32.isFin gm || !fmt32.isFin sum then none
  else
    let d := (Dy.of32 sum).add (Dy.of32 g).neg
    let m := Dy.of32 gm
    let bound := Dy.add { m with e := m.e - 12 } { m := 1, e := -126 }
    let excess := d.abs.add bound.neg
    if 0 < excess.m then some (d.to32.1, excess.to32.1) else none

/-- The 16-bit check of a promotion interval that starts at block `b0` (R143), over the rows and columns that carry a
fault; a line without one never exceeds the bound. -/
def wideMismatch (xs ys : List (Array Elt)) (fs : List TileFault) (b0 n len : Nat) : Option Mismatch :=
  let delta := fun i j => fs.foldl (fun (d : Int) f => if f.row = i ∧ f.col = j then d + f.delta else d) 0
  let u := fun i j => (Dy.to32 ((promoted (xs.getD i #[]) (ys.getD j #[]) b0 n).faulted (delta i j))).1
  let ra := lineRow xs len false
  let rm := lineRow xs len true
  let ca := lineRow ys len false
  let cm := lineRow ys len true
  let val := fun (x y : Array Elt) (d : Int) =>
    (Dy.to32 (let r := promoted x y b0 n; if d = 0 then r else r.faulted d)).1
  let cols := ((List.range ys.length).filter fun j => fs.any fun f => f.col = j).filterMap fun j =>
    let y := ys.getD j #[]
    (lineCheck ((List.range xs.length).map fun i => u i j) (val ra y (delta 128 j))
      (val rm (y.map Elt.absMag) (delta 129 j))).map fun d => (j, d)
  let rows := ((List.range xs.length).filter fun i => fs.any fun f => f.row = i).filterMap fun i =>
    let x := xs.getD i #[]
    (lineCheck ((List.range ys.length).map fun j => u i j) (val x ca (delta i 128))
      (val (x.map Elt.absMag) cm (delta i 129))).map fun d => (i, d)
  let int := fun (l : List (Nat × Nat × Nat)) => l.map fun e => (e.1, ((e.2.1 : Nat) : Int), ((e.2.2 : Nat) : Int))
  classify (int cols) (int rows) b0 (fs.any fun f => f.injected) false

end Sys2Proof.Machine
end

