-- ==== Sys2Proof/Machine/Runs.lean ====
section
/-! DEFINITION. The run of a task: what every kind's command shares — the tensors its slots name, its long outputs with
REDUCE (R51, R78, R79), the version it leaves (R43, R218 to R220), and how a run ends (R11, R55, R61, R194, R407). -/

namespace Sys2Proof.Machine

/-! ### Clusters (R71) -/

/-- UNIT of a task's fault events: the physical cluster it runs on (R71). -/
def State.unitOf (s : State) (t : Task) : Nat := match t.cluster with
  | some n => s.phys n.val
  | none => noUnit

/-- Whether a task runs on the array of its cluster: a MATMUL, or a MATVEC at level 2 (R138, R220). -/
def onArray (kind level : Nat) : Bool := decide (kind = kMatmul) || (decide (kind = kMatvec) && decide (2 ≤ level))

/-- Whether an array task waits for a ramp grant before its operands enter (R136, R138); the MVP takes none (R146). -/
def State.rampWaits (s : State) (t : Task) : Bool :=
  onArray t.d.kind t.level && match t.cluster with | some n => (s.clus n.val).rampWait | none => false

/-! ### A decision begins (R404, R407) -/

/-- Start a decision over clusters (R407): a second mismatch on a cluster that is deciding starts none (R412). -/
def startDecision (kind : DecisionKind) (clusters : List Nat) (task : Option TaskRef) (observed checksum : Int) (n : Word)
    (element : BitVec 16) (xor : Word) (s : State) : State :=
  if s.faults.decisions.any fun d => d.clusters.any fun c => clusters.contains c then s
  else
    let d : Decision := { id := s.faults.nextId, kind := kind, clusters := clusters, task := task, since := s.time,
                          observed := observed, checksum := checksum, n := n, element := element, xor := xor, restarted := false }
    { s with faults := { s.faults with decisions := s.faults.decisions ++ [d], nextId := s.faults.nextId + 1 } }

/-! ### What a run leaves -/

/-- What a task's run leaves beside the state: its result and what its outputs overwrote. -/
structure RunOut where
  res : Result
  undo : List (Nat × Nat × Bytes)
  deriving DecidableEq, Repr

/-- Exception counts in the order of R236. DEDUCED: log entry 48. -/
def Exc.list (e : Exc) : List Nat := [e.inv, e.dz, e.ovf, e.unf, e.inx]

/-- The five COUNTS of R70: saturated, flushed, zero blocks, saturated blocks, husk overflow. -/
def QCounts.list (q : QCounts) : List Nat := [q.sat, q.flushed, q.zeroBlocks, q.satBlocks, q.huskOvf]

/-- A first non-finite value as the events hold it (R240). -/
def NonFin.tuple (x : NonFin) : Byte × Word × Word × Word :=
  (BitVec.ofNat 8 x.origin, BitVec.ofNat 32 x.row, BitVec.ofNat 32 x.col, BitVec.ofNat 32 x.val)

/-- A result that reports exceptions and a non-finite value. -/
def Result.ofExc (e : Exc) (nf : Option NonFin) : Result :=
  { Result.empty with exc := e.list, nonfinite := nf.map fun x => x.tuple }

/-! ### Tensors of a task -/

/-- What an imported FOLIO input is bound to (R62). -/
def Task.bindOf (t : Task) (h : Nat) : Option Bind := (t.binds.find? fun b => b.1 = h).map fun b => b.2

/-- The tensor of an input slot. -/
def inTensor (t : Task) (x : Slot) : Run Tensor := do
  let s ← getS
  match s.readTensor t.ref.ctx x.handle (t.bindOf x.handle) with
  | some y => pure y
  | none => stop stAccess dNone

/-- The tensor of an output slot, written at a level with an orientation and a rotation record. -/
def outTensor (t : Task) (x : Slot) (level : Nat) (orient : Bool) (rot : Option RotRec) : Run Tensor := do
  let s ← getS
  match s.writeTensor t.ref.ctx x.handle level orient rot with
  | some y => pure y
  | none => stop stAccess dNone

/-- Whether what a task overwrites must be kept: attempt 0 of a repeat-set task (R223). -/
def Task.keeps (t : Task) : Bool := t.d.repeats && decide (t.attempt = 0)

/-- The version that a task's write leaves at handle `h`: level where the handle is widened, rotation record, wide source. A copy record
belongs to the version before it (R222). -/
def noteOut (t : Task) (h level : Nat) (orient : Bool) (rot : Option RotRec) (wide : Option (Nat × Option TaskRef)) (s : State) :
    State :=
  let x := s.ctx t.ref.ctx
  let lv := match x.handle? h with
    | none => 0
    | some d => if d.widened level then level else 0
  s.setCtx t.ref.ctx (x.setVer h
    { orient := orient, level := lv, rotRec := rot, failed := none, working := (x.ver h).working || x.isFolio h,
      writer := some t.ref, wide := wide, copy := none })

/-! ### Long outputs -/

/-- A long output as written. -/
structure LongOut where
  undo : List (Nat × Nat × Bytes)
  ex : Exc
  nf : Option NonFin

/-- Whether the element stored at (r, c) is non-finite without a non-finite operand: `fine` tells so of the result, and a
REDUCE sum or a narrowing is judged by its finite addends (R51, R216). -/
def madeNonFin (k : FFmt) (origin : Nat) (y x stored : Mat) (prev : Option Mat) (fine : Nat → Nat → Bool) : Option NonFin :=
  (List.range y.size).findSome? fun r =>
    ((List.range (y.getD r #[]).size).find? fun c =>
      !k.isFin (stored.at r c) && (if fmt32.isFin (y.at r c) then
          (match prev with | none => true | some p => fmt32.isFin (p.at r c))
        else fine r c)).map fun c =>
      { origin := origin, row := r, col := c,
        val := if ¬ fmt32.isFin (y.at r c) then y.at r c
          else if ¬ fmt32.isFin (x.at r c) then x.at r c
          else (k.conv fmt32 .rne (stored.at r c)).1 }

/-- The stored codes of a matrix narrowed to a long format under RNE (R79). -/
def narrowMat (k : Fmt) (x : Mat) : Mat :=
  if k.elem = 0 then x else x.map fun row => row.map fun v => (fmt32.conv k.long .rne v).1

/-- Write a binary32 result into a long output slot (R51, R79, R270): with REDUCE the previous version is added first. -/
def writeLong (env : Env) (t : Task) (x : Slot) (origin : Nat) (y : Mat) (fine : Nat → Nat → Bool) : Run LongOut := do
  let prev ← if x.reduce then do
      let p ← inTensor t { x with reduce := false }
      let m ← readMat env t.who (if t.d.kind = kOptimize then 2 else 1) (if t.d.kind = kOptimize then 3 else 1) p
      pure (some m)
    else pure none
  let o ← outTensor t x 0 t.orient none
  let lay := fun (m : Mat) => if t.orient then m.turn o.rows o.cols else m
  let (sum, e1) := match prev with
    | none => (y, Exc.none)
    | some (p, ep) => (List.range o.rows).foldl (fun (acc : Mat × Exc) r =>
        let (row, e) := (List.range o.cols).foldl (fun (a : Array Nat × Exc) c =>
          let (v, ex) := fmt32.add .rne (p.at r c) (y.at r c)
          (a.1.push v, a.2.add ex)) (#[], acc.2)
        (acc.1.push row, e)) (#[], ep)
  let (imgs, e2) := longTiles o.loc.fmt (lay sum) o.laidRows o.laidCols fun _ _ => .rne
  let undo ← writeTiles env t.who o.loc imgs t.keeps
  modS (noteOut t x.handle 0 t.orient none none)
  pure { undo := undo, ex := e1.add e2,
         nf := madeNonFin o.loc.fmt.long origin y sum (narrowMat o.loc.fmt sum) (prev.map fun p => p.1) fine }

/-! ### Plausibility (R194) -/

/-- Raise PLAUSIBILITY for a task. -/
def raisePlaus (t : Task) (check slot row count observed bound : Nat) (s : State) : State :=
  raiseWho t.who 0x0403 2 (s.unitOf t) (leBytes 1 check ++ leBytes 1 t.d.kind ++ leBytes 1 slot ++ leBytes 1 0
    ++ leBytes 4 row ++ leBytes 4 (min count (2 ^ 32 - 1)) ++ leBytes 4 observed ++ leBytes 4 bound) s

/-- A whole input in binary32: its tensor, tiles, elements and the exceptions of their decoding. -/
structure TensorIn where
  t : Tensor
  imgs : Array TileImg
  m : Mat
  ex : Exc

/-- Read a whole input slot. -/
def readIn (env : Env) (t : Task) (consumer use : Nat) (x : Slot) : Run TensorIn := do
  let y ← inTensor t x
  let imgs ← readTiles env t.who consumer use y
  let (m, e) := tilesMat y imgs
  pure { t := y, imgs := imgs, m := m, ex := e }

/-- The tiles of an input slot whose trailer AXIS differs from the orientation of the version read (R196). DEDUCED: log entry 52. -/
def TensorIn.axisBad (x : TensorIn) (slot : Nat) : List (Nat × Nat) :=
  let k := x.t.loc.fmt
  if ¬ k.short then []
  else (List.range x.imgs.size).filterMap fun i => match x.imgs[i]? with
    | some img => if (img.trailer k).axis != x.t.orient then some (slot, i) else none
    | none => none

/-- The operand-record failure that the event names, of the failing tiles by slot and index: the lowest slot, its lowest tile, and how
many tiles fail (R194). -/
def recordHead (bad : List (Nat × Nat)) : Option (Nat × Nat × Nat) :=
  match sortNats ((bad.map fun b => b.1 * 2 ^ 32 + b.2).eraseDups) with
  | [] => none
  | x :: t => some (x / 2 ^ 32, x % 2 ^ 32, t.length + 1)

/-- The end of a run whose operand tiles `bad` do not match in their records (R104, R114, R194, R196): it has gone on to its end, and
completes with PLAUSIBILITY. -/
def withRecords (t : Task) (bad : List (Nat × Nat)) (o : RunOut) : Run RunOut :=
  match recordHead bad with
  | none => pure o
  | some (slot, tile, n) => do
    modS (raisePlaus t 5 slot tile n 0 0)
    pure { o with res := { o.res with status := stPlausibility } }

/-! ### Running -/

/-- The state after a task's run: its result is kept until TASK_COMPLETE; a run that consumes poison, or meets a page-table
entry that cannot be read, completes at once and its context is killed (R61, R279, R280). `sel` tells the descriptors that the
command runs. -/
def runTask (task : TaskRef) (sel : Desc → Bool) (body : Task → Run RunOut) (s : State) : State :=
  match s.task? task with
  | none => s
  | some t0 =>
    if t0.st ≠ .issued ∨ sel t0.d = false ∨ (s.ctx task.ctx).st.isActive = false then s
    else
      let t := (s.ctx task.ctx).noteVers t0
      let (r, s1) := (body t).run s
      match r with
      | .ok o => s1.setTask { t with st := .ran, res := o.res, undo := t.undo ++ o.undo }
      | .error e =>
        let res := { Result.empty with status := e.status, detail := e.detail }
        match e.kill with
        | none => s1.setTask { t with st := .ran, res := res }
        | some cause =>
          killCtx task.ctx.val cause
            (afterComplete t (completeWith { t with res := res } e.status e.detail (s1.nsOf t) false (s1.setTask { t with res := res })))

end Sys2Proof.Machine
end

