-- ==== Sys2Proof/Machine/Quantise.lean ====
section
/-! DEFINITION. QUANTIZE as a task (R100 to R108, R115 to R125, R218 to R220): its source and the source's rotation record,
the scale-table entry it names, its output at the level in force, and what it reports. -/

namespace Sys2Proof.Machine

/-- A rotation record as tuples: ROT, AXIS, ROT_STREAM, ROT_CTR_HI. -/
abbrev RotTuple := Nat × Bool × Nat × Nat

/-- The rotation record of a version as a tuple (R220). -/
def RotRec.tuple (r : RotRec) : RotTuple := (r.rot.toNat, r.axis, r.stream.toNat, r.ctrHi.toNat)

/-- The rotation record of each tile of a source: those of short tiles, or that held with a level-2 version (R104). -/
def sourceRecs (x : Tensor) (imgs : Array TileImg) : List RotTuple :=
  if x.loc.fmt.short then
    imgs.toList.map fun img =>
      let r := img.trailer x.loc.fmt
      (r.rot, r.axis, r.stream, r.ctrHi)
  else match x.rot with
    | some r => imgs.toList.map fun _ => r.tuple
    | none => []

/-- The tiles of a source whose record differs from the first tile's, or whose AXIS is not the task's (R104). -/
def recsBad (axis : Bool) (rs : List RotTuple) : List Nat :=
  ((List.range rs.length).filter fun i => rs.getD i (0, false, 0, 0) ≠ rs.headD (0, false, 0, 0)
    || (rs.getD i (0, false, 0, 0)).2.1 != axis)

/-- A matrix whose rows lie along the contraction: turned where AXIS is 1. -/
def alongAxis (axis : Bool) (x : Mat) (rows cols : Nat) : Mat := if axis then x.turn rows cols else x

/-- The OUTLIER mode in force for an output of format `k`: PLAIN where a repeat has cleared HUSKS (R220), CLIP where the
handle is clip-bound (R122). -/
def outlierFor (k : Fmt) (clipBound : Bool) (q : QSpec) : Nat :=
  if q.outlier = 1 then (if ¬ k.husks then 0 else if clipBound then 2 else 1) else q.outlier


/-- What a conversion reports (R70, R97, R108, R125). -/
def Conversion.result (c : Conversion) (ovf : Nat) (ex : Exc) (slot : Nat) (uses : List SlotUse) : Result :=
  { Result.empty with
    counts := c.out.counts.list, flushedBlocks := c.out.counts.flushedBlocks, invalidBlocks := c.out.invalid,
    exc := (ex.add (c.ex.add c.out.ex)).list, clamped := c.clamped, amax := BitVec.ofNat 32 c.out.amax,
    e := BitVec.ofNat 32 c.out.e, s := BitVec.ofNat 32 c.out.s, elements := c.out.elements, blocks := c.out.blocks,
    ovfThresh := ovf, slot := BitVec.ofNat 16 slot, uses := uses, nonfinite := c.nonFin.map fun x => x.tuple }

/-- The contribution of a conversion to a scale slot (R109, R125); `folds` is clear for a READ_ONLY or imported table. -/
def Conversion.use (c : Conversion) (table slot : Nat) (folds : Bool) : SlotUse :=
  { table := table, slot := slot, folds := folds, t := BitVec.ofNat 32 c.t, amax := BitVec.ofNat 32 c.out.amax,
    e := BitVec.ofNat 32 c.out.e, s := BitVec.ofNat 32 c.out.s }

/-- Whether a table folds for this context (R109). -/
def Ctx.folds (x : Ctx) (h : Nat) : Bool := match x.handle? h with
  | none => false
  | some d => !d.readOnly && !d.imported

/-- The scale-table entry that a conversion names, the defaults where it names none (R106, R118). -/
def slotEntry (env : Env) (t : Task) (consumer use : Nat) (table : Slot) (slot : Nat) : Run ScaleEntry :=
  if slot = 0xFFFF then pure ScaleEntry.dflt
  else do
    let x ← inTensor t table
    let b ← readEntry env t.who consumer use x slot
    pure (ScaleEntry.ofBytes b)

/-- The elementwise sum of two matrices in binary32, with its exceptions (R51). -/
def addMats (p q : Mat) (rows cols : Nat) : Mat × Exc :=
  (List.range rows).foldl (fun (acc : Mat × Exc) i =>
    let (row, e) := (List.range cols).foldl (fun (a : Array Nat × Exc) j =>
      let (v, x) := fmt32.add .rne (p.at i j) (q.at i j)
      (a.1.push v, a.2.add x)) (#[], acc.2)
    (acc.1.push row, e)) (#[], Exc.none)

/-- The first non-finite sum of two finite addends (R216). -/
def sumNonFin (origin : Nat) (sum p q : Mat) (rows cols : Nat) : Option NonFin :=
  (List.range rows).findSome? fun r => ((List.range cols).find? fun c =>
    !fmt32.isFin (sum.at r c) && fmt32.isFin (p.at r c) && fmt32.isFin (q.at r c)).map fun c =>
      { origin := origin, row := r, col := c, val := sum.at r c }

/-- The sum of the previous version and a conversion's result, converted again without a second rotation (R51). DEDUCED: log entry 50. -/
def reduceConversion (o : Tensor) (prev : Mat × Exc) (fmt : Fmt) (q : QSpec) (entry : ScaleEntry) (mode seed sr : Nat)
    (kept : RotTuple) (c : Conversion) : Conversion :=
  let (rows, cols) := (o.laidRows, o.laidCols)
  let laid : Tensor := { o with rows := rows, cols := cols, orient := false }
  let (r, er) := tilesMat laid c.out.tiles.toArray
  let (sum, es) := addMats prev.1 r rows cols
  let d := convert fmt { q with rot := 0 } entry mode seed 0 sr sum rows cols (some kept)
  { d with ex := ((((d.ex.add c.ex).add c.out.ex).add er).add es).add prev.2, nonFin := firstNf c.nonFin (firstNf (sumNonFin 3 sum prev.1 r rows cols) d.nonFin),
           out := { d.out with amax := c.out.amax, e := c.out.e, s := c.out.s } }

/-- The BF16 tiles of a level-2 conversion (R220): rotated, added to the previous version under REDUCE (R51), narrowed under RNE;
exceptions and a first non-finite value. -/
def wideConvert (rot seed stream ctrHi : Nat) (x : Mat) (rows cols : Nat) (prev : Option (Mat × Exc)) :
    List TileImg × Exc × Option NonFin :=
  let (y, e, nf) := rotateMat rot seed stream ctrHi x
  let k : Fmt := { elem := 2, husks := false, block32 := false }
  let (z, e1) := match prev with
    | none => (y, e)
    | some (p, ep) => let (t, es) := addMats p y rows cols
      (t, (e.add ep).add es)
  let (imgs, e2) := longTiles k z rows cols fun _ _ => .rne
  (imgs, e1.add e2, firstNf nf (madeNonFin fmtBf 3 y z (narrowMat k z) (prev.map fun p => p.1) fun _ _ => false))

/-- The previous version that a reducing output adds to, its rows along the contraction (R51). -/
def prevAlong (env : Env) (t : Task) (x : Slot) (axis : Bool) : Run (Option (Mat × Exc)) :=
  if ¬ x.reduce then pure none
  else do
    let p ← inTensor t x
    let (pm, pe) ← readMat env t.who 1 1 p
    pure (some (alongAxis axis pm p.rows p.cols, pe))

/-- A QUANTIZE (R100). -/
def quantizeBody (env : Env) (t : Task) : Run RunOut := do
  let d := t.d
  let q := QSpec.ofBytes d.params
  let c := t.ref.ctx.val
  let x ← inTensor t (d.inp 0)
  let imgs ← readTiles env t.who 1 1 x
  let recs := sourceRecs x imgs
  let (m, ex) := tilesMat x imgs
  let bad := (recsBad q.axis recs).map (fun i => (0, i)) ++ TensorIn.axisBad { t := x, imgs := imgs, m := m, ex := ex } 0
  let (rows, cols) := if q.axis then (x.cols, x.rows) else (x.rows, x.cols)
  let src := alongAxis q.axis m x.rows x.cols
  let s ← getS
  let rs := s.stream c q.rotStream false
  let kept := if x.loc.fmt.short || x.rot.isSome then recs.head? else none
  let rec4 : RotTuple := kept.getD (q.rot, q.axis, if q.rot = 0 then 0 else rs, q.ctrHi)
  let o ← outTensor t (d.out 0) t.level q.axis none
  let prev ← prevAlong env t (d.out 0) q.axis
  let wide := some ((d.inp 0).handle, (s.readVer c (d.inp 0).handle (t.bindOf (d.inp 0).handle)).writer)
  if ¬ o.loc.fmt.short then do
    let (tiles, e, nf) := wideConvert q.rot (s.seed c) rs q.ctrHi src rows cols prev
    let undo ← writeTiles env t.who o.loc tiles t.keeps
    let rec1 : RotRec := { rot := BitVec.ofNat 3 rec4.1, axis := rec4.2.1, stream := BitVec.ofNat 32 rec4.2.2.1,
                           ctrHi := BitVec.ofNat 32 rec4.2.2.2 }
    modS (noteOut t (d.out 0).handle t.level q.axis (some rec1) wide)
    withRecords t bad { res := Result.ofExc (ex.add e) nf, undo := undo }
  else do
    let entry ← slotEntry env t 1 1 (d.inp 1) q.slot
    let clip := match (s.ctx c).handle? (d.out 0).handle with | some h => h.clipBound | none => false
    let mode := outlierFor o.loc.fmt clip q
    let sr := s.stream c q.srStream false
    let c0 := convert o.loc.fmt q entry mode (s.seed c) rs sr src rows cols (kept.map fun _ => rec4)
    let c1 := match prev with
      | none => c0
      | some p => reduceConversion o p o.loc.fmt q entry mode (s.seed c) sr rec4 c0
    let undo ← writeTiles env t.who o.loc c1.out.tiles t.keeps
    modS (noteOut t (d.out 0).handle t.level q.axis none wide)
    let uses := if q.slot = 0xFFFF then [] else [c1.use (d.inp 1).handle q.slot ((s.ctx c).folds (d.inp 1).handle)]
    withRecords t bad { res := c1.result entry.ovf ex q.slot uses, undo := undo }

end Sys2Proof.Machine
end

