-- ==== Sys2Proof/Machine/Collective.lean ====
section
/-! DEFINITION. COLLECTIVE tasks (R254, R333 to R340): the group and its members, the canonical tree and its node function, the
payload tiles, receive windows, credits, and the runs of the seven OPs. -/

namespace Sys2Proof.Machine

/-! ### Payload values -/

/-- A value that travels: the tiles of a rows × cols matrix in a format. -/
structure NodeVal where
  fmt : Fmt
  rows : Nat
  cols : Nat
  tiles : List TileImg
  deriving DecidableEq, Repr

/-- A FORMAT byte of its fields (R74). -/
def Fmt.byte (k : Fmt) : Nat := k.elem + (if k.husks then 16 else 0) + if k.block32 then 32 else 0

/-- A value decoded to binary32 by R99, with the exceptions of the decoding. -/
def NodeVal.mat (v : NodeVal) : Mat × Exc :=
  tilesMat { loc := { ctx := 0, root := none, base := 0, tiles := 0, fmt := v.fmt, handle := 0 }, rows := v.rows, cols := v.cols,
             orient := false, rot := none } v.tiles.toArray

/-- T of a wire tile whose largest |x| is `a` (R338): 2^⌈log2(a/448)⌉, 1.0 for 0 or a non-finite `a`, clamped by R90. -/
def wireScale (a : Nat) : Nat :=
  let (m, e) := magOf a
  if ¬ fmt32.isFin a ∨ m = 0 then 0x3F800000
  else
    let top : Int := e + bitLen m - 1
    let k := if magLt 448 (top - 8) m e then top - 7 else top - 8
    (clampT (fmt32.pack .rne false 1 k false).1).1

/-- The largest |x| of the elements of tile `i` of a matrix. -/
def tileAmax (k : Fmt) (m : Mat) (rows cols i : Nat) : Nat :=
  let g := k.gridCols cols
  (List.range (min 128 (rows - i / g * 128))).foldl (fun a r =>
    (List.range (min k.cw (cols - i % g * k.cw))).foldl (fun b c => amax32 b (m.at (i / g * 128 + r) (i % g * k.cw + c))) a) 0

/-- A conversion that has made nothing. -/
def QOut.none : QOut :=
  { tiles := [], counts := QCounts.zero, ex := Exc.none, invalid := 0, elements := 0, blocks := 0, amax := 0, e := 0, s := 0 }

/-- Two conversions together: tiles in order, counts added. -/
def QOut.and (a b : QOut) : QOut :=
  { tiles := a.tiles ++ b.tiles, counts := a.counts.add b.counts, ex := a.ex.add b.ex, invalid := a.invalid + b.invalid,
    elements := a.elements + b.elements, blocks := a.blocks + b.blocks, amax := amax32 a.amax b.amax, e := add32 a.e b.e,
    s := add32 a.s b.s }

/-- A matrix in a format: a short one per tile with the T of R338, outlier CLIP (R123, R124), ρ = 4, RNE; a long one narrowed
under RNE (R78). -/
def wireEncode (k : Fmt) (m : Mat) (rows cols : Nat) : QOut :=
  if k.short then
    (List.range (k.grid rows cols)).foldl (fun o i =>
      let p : QParams := { fmt := k, t := wireScale (tileAmax k m rows cols i), mode := 2, stoch := false, seed := 0,
                           stream := 0, rho := 4, cap := 0, rot := 0, axis := false, rotStream := 0, ctrHi := 0 }
      let q := quantTile p m rows cols i
      o.and { tiles := [q.img p], counts := q.counts, ex := q.ex, invalid := q.invalid, elements := q.elements,
              blocks := q.blocks, amax := q.amax, e := q.e, s := q.s }) QOut.none
  else
    let (ts, e) := longTiles k m rows cols fun _ _ => .rne
    { QOut.none with tiles := ts, ex := e }

/-! ### The view of a group collective -/

/-- What a group collective works on: its context, PARAMS, q and k of its group, the context's own members, the members'
ranks, its input as it stands, rows per member (BROADCAST moves the whole input), and the shape of its output. -/
structure Col where
  c : Nat
  p : ColParams
  q : Nat
  k : Nat
  own : List Nat
  t : Tensor
  per : Nat
  out : Slot
  outRows : Nat
  outCols : Nat

/-- Members of the group. -/
def Col.size (v : Col) : Nat := 2 ^ v.k

/-- Elements of a chunk; of a whole partial for the OPs that move whole ones. DEDUCED: log entry 56. -/
def Col.chunkLen (v : Col) : Nat :=
  let e := v.per * v.t.cols
  if v.p.op = 3 ∨ v.p.op = 4 then e else e / v.size

/-- The shape a run of `n` elements travels in: whole rows of the input where it fills them, else rows of 16. -/
def Col.shape (v : Col) (n : Nat) : Nat × Nat := if n % v.t.cols = 0 then (n / v.t.cols, v.t.cols) else (n / 16, 16)

/-- Whether runs of `n` elements are whole tile rows of the input as it is stored, so that its tiles travel unchanged. -/
def Col.aligned (v : Col) (n : Nat) : Bool :=
  decide (n % v.t.cols = 0) && decide (n / v.t.cols % 128 = 0) && decide (v.per % 128 = 0) && !v.t.orient

/-- Trailing bits in which two member indices agree, at most k. -/
def Col.agree (v : Col) (o j : Nat) : Nat := ((List.range v.k).takeWhile fun b => o.testBit b == j.testBit b).length

/-- The shard of a member (R337): the context's first shard with its group bits replaced. -/
def State.memberShard (s : State) (v : Col) (m : Nat) : Nat :=
  let first := (s.shards v.c).1
  first / 2 ^ (v.q + v.k) * 2 ^ (v.q + v.k) + m % v.size * 2 ^ v.q + first % 2 ^ v.q

/-- The shard map as it stands (R337). -/
def State.shardTable (s : State) (c : Nat) : Option Tensor := match s.shardMap? c with
  | none => none
  | some h => s.readTensor c h none

/-- The rank that holds a member: the entry of the shard map (R337), whose tile `mapFails` has checked. -/
def State.memberRank (s : State) (v : Col) (m : Nat) : BitVec 21 :=
  let i := s.memberShard v m
  match s.shardTable v.c with
  | none => 0
  | some t => BitVec.ofNat 21 (fieldLe (s.tableBytes t (i / 2048) (i % 2048 * 4) 4) 0 4)

/-- The tiles of the shard map that hold the entries of a group. -/
def State.mapTiles (s : State) (v : Col) : List Nat := ((List.range v.size).map fun m => s.memberShard v m / 2048).eraseDups

/-- Whether a tile of the shard map that a group needs cannot be read, or fails its check (R261, R274). -/
def State.mapFails (s : State) (v : Col) : Bool := match s.shardTable v.c with
  | none => false
  | some t => (s.mapTiles v).any fun i => (s.goodTile t.loc i).isNone

/-- Read the tiles of the shard map that a group needs, as the collective unit reads its input (R261, R274, R279). -/
def readMap (w : Who) (v : Col) : Run Unit := do
  let s ← getS
  match s.shardTable v.c with
  | none => pure ()
  | some t => (s.mapTiles v).foldlM (fun _ i => do
      let _ ← readTile envQuiet w 3 6 t.loc i
      pure ()) ()

/-- The view of a task's collective; `none` where its handles are gone. -/
def State.colView (s : State) (t : Task) : Option Col :=
  let c := t.ref.ctx.val
  let p := ColParams.ofBytes t.d.params
  let (q, k) := p.span (s.shardLog2 c)
  let own := s.ownMembers c p
  match s.readTensor c (t.d.inp 0).handle (t.bindOf (t.d.inp 0).handle), (s.ctx c).handle? (t.d.out 0).handle with
  | some x, some o =>
    some { c := c, p := p, q := q, k := k, own := own, t := x, per := if p.op = 4 then x.rows else x.rows / max own.length 1, out := t.d.out 0,
           outRows := o.rows, outCols := o.cols }
  | _, _ => none

/-! ### Identities (R339) -/

/-- The identity of a value on the wire: level of the child, side, chunk or member j, and the destination member. -/
structure ColKey where
  lvl : Nat
  side : Bool
  j : Nat
  dest : Nat
  deriving DecidableEq, Repr

/-- The INFO word of COL_DATA (R339). -/
def ColKey.info (x : ColKey) (collId : Nat) : Word :=
  BitVec.ofNat 32 (collId % 1024 + x.lvl % 32 * 2 ^ 10 + (if x.side then 2 ^ 15 else 0) + x.j % 65536 * 2 ^ 16)

/-- What tells apart the values of one INFO that a device sends: the part of j beyond 16 bits, and the destination member. -/
def ColKey.hi (x : ColKey) : Nat := x.j / 65536 % 2 + 2 * (x.dest % 2 ^ 17)

/-- The format that the values of a level travel in: a node's result in WIRE, else as `Col.piece` has it. -/
def Col.fmtAt (v : Col) (lvl : Nat) : Fmt :=
  if v.p.reducing ∧ 0 < lvl then { elem := v.p.wire, husks := false, block32 := false }
  else if v.t.loc.fmt.short ∧ ¬ v.aligned v.chunkLen then Fmt.f32
  else v.t.loc.fmt

/-- Tiles of a value of a format. -/
def Col.tilesIn (v : Col) (k : Fmt) : Nat := let (r, c) := v.shape v.chunkLen; k.grid r c

/-- Bytes that a tile takes in a window: whole cells (R340). -/
def Fmt.windowLen (k : Fmt) : Nat := (k.stored + 63) / 64 * 64

/-- TARGET of a COL_DATA: the offset in the receive window of tile `i` of a value (R304). The values that share an INFO stand one after
another: by the part of j beyond its 16 bits, then by the place of their destination among the receiver's own members. -/
def Col.offset (v : Col) (x : ColKey) (place i : Nat) : Dword :=
  let k := v.fmtAt x.lvl
  BitVec.ofNat 64 (((x.j / 65536 % 2 + 2 * place) * v.tilesIn k + i) * k.windowLen)

/-- The place of a destination member among those its holder has. -/
def State.placeOf (s : State) (v : Col) (m : Nat) : Nat :=
  if v.p.op ≠ 5 then 0
  else ((List.range v.size).filter fun n => decide (s.memberRank v n = s.memberRank v m)).idxOf m

/-- A value that has arrived whole: every tile of it. -/
def Col.value? (v : Col) (w : ColWindow) (x : ColKey) : Option NodeVal :=
  let k := v.fmtAt x.lvl
  let (rows, cols) := v.shape v.chunkLen
  let place := if v.p.op ≠ 5 then 0 else v.own.idxOf x.dest
  let ts := (List.range (v.tilesIn k)).map fun i =>
    (w.vals.find? fun e => decide (e.1 = x.info w.collId.toNat) && decide (e.2.1 = v.offset x place i)).map fun e =>
      ({ data := e.2.2.take 8192, side := e.2.2.drop 8192 } : TileImg)
  if ts.all fun t => t.isSome then some { fmt := k, rows := rows, cols := cols, tiles := ts.filterMap id } else none

/-! ### The canonical tree (R254, R338, R339) -/

/-- The input read once: its elements and its tiles. -/
structure ColIn where
  m : Mat
  imgs : Array TileImg

/-- Elements from `a` on, `n` of them in row-major order of the input, as a matrix. -/
def Col.runOf (v : Col) (x : ColIn) (a n : Nat) : Mat :=
  let (r, c) := v.shape n
  Mat.build r c fun i k => let e := a + i * c + k; x.m.at (e / v.t.cols) (e % v.t.cols)

/-- `n` elements of member `o`'s partial from element `a` of it: in the input's own tiles where these can travel unchanged, else
in the input's long format, or in binary32 where a short input does not lie in whole tile rows. -/
def Col.piece (v : Col) (x : ColIn) (o a n : Nat) : NodeVal :=
  let (r, c) := v.shape n
  let base := (if v.p.op = 4 then 0 else v.own.idxOf o) * v.per * v.t.cols + a
  let k := v.t.loc.fmt
  if v.aligned n then
    let g := k.gridCols v.t.cols
    { fmt := k, rows := r, cols := c,
      tiles := (x.imgs.toList.drop (base / v.t.cols / 128 * g)).take (r / 128 * g) }
  else
    let f := if k.short then Fmt.f32 else k
    { fmt := f, rows := r, cols := c, tiles := (longTiles f (v.runOf x base n) r c fun _ _ => .rne).1 }

/-- WIRE as a format. -/
def Col.wire (v : Col) : Fmt := { elem := v.p.wire, husks := false, block32 := false }

/-- What forming a node gives: its value, what its conversions counted, whether it made a non-finite value of finite ones. -/
structure NodeOut where
  val : NodeVal
  out : QOut
  nf : Bool

/-- The node function f (R338). -/
def Col.nodeFun (v : Col) (l r : NodeVal) : NodeOut :=
  let (a, ea) := l.mat
  let (b, eb) := r.mat
  let op := fun x y =>
    if v.p.func = 2 then fmt32.max x y else if v.p.func = 3 then fmt32.min x y else fmt32.add .rne x y
  let acc := fun (x : Nat × Exc) =>
    if v.p.accBf then
      let (h, e) := fmt32.conv fmtBf .rne x.1
      ((fmtBf.conv fmt32 .rne h).1, x.2.add e)
    else x
  let cells := (List.range l.rows).map fun i => (List.range l.cols).map fun j => acc (op (a.at i j) (b.at i j))
  let y : Mat := (cells.map fun row => (row.map fun z => z.1).toArray).toArray
  let ex := cells.foldl (fun e row => row.foldl (fun e z => e.add z.2) e) (ea.add eb)
  let q := wireEncode v.wire y l.rows l.cols
  let val : NodeVal := { fmt := v.wire, rows := l.rows, cols := l.cols, tiles := q.tiles }
  let z := if v.wire.short then y else val.mat.1
  let nf := (List.range l.rows).any fun i => (List.range l.cols).any fun j =>
    !fmt32.isFin (z.at i j) && fmt32.isFin (a.at i j) && fmt32.isFin (b.at i j)
  { val := val, out := { q with tiles := [], ex := ex.add q.ex }, nf := nf }

/-- Node (ℓ, o / 2^ℓ) for chunk j, where `o` is its owner's leaf; `none` while a child value is missing. -/
def Col.node (v : Col) (x : ColIn) (w : ColWindow) (j : Nat) : Nat → Nat → Option NodeVal
  | 0, o => some (v.piece x o (j * v.chunkLen) v.chunkLen)
  | l + 1, o =>
    let q := Nat.xor o (2 ^ l)
    let sib := if v.own.contains q then v.node x w j l q
      else v.value? w { lvl := l, side := !o.testBit l, j := j, dest := 0 }
    match v.node x w j l o, sib with
    | some a, some b => some (if o.testBit l then v.nodeFun b a else v.nodeFun a b).val
    | _, _ => none

/-- What the nodes that leaf `o` owns for chunk j counted, and whether one made a non-finite value. -/
def Col.nodeCounts (v : Col) (x : ColIn) (w : ColWindow) (j o : Nat) : QOut × Bool :=
  (List.range (v.agree o j)).foldl (fun acc l =>
    let q := Nat.xor o (2 ^ l)
    let sib := if v.own.contains q then v.node x w j l q
      else v.value? w { lvl := l, side := !o.testBit l, j := j, dest := 0 }
    match v.node x w j l o, sib with
    | some a, some b =>
      let y := if o.testBit l then v.nodeFun b a else v.nodeFun a b
      (acc.1.and y.out, acc.2 || y.nf)
    | _, _ => acc) (QOut.none, false)

/-- The root of chunk j: formed here, or received. -/
def Col.root (v : Col) (x : ColIn) (w : ColWindow) (j : Nat) : Option NodeVal :=
  if v.own.contains j then v.node x w j v.k j
  else v.value? w { lvl := v.k, side := false, j := j, dest := 0 }

/-! ### What a device sends and expects -/

/-- Member indices not held here. -/
def Col.others (v : Col) : List Nat := (List.range v.size).filter fun m => !v.own.contains m

/-- The values to come: identity and the member whose holder sends it. -/
def Col.expected (v : Col) : List (ColKey × Nat) :=
  let whole := fun m d => ({ lvl := v.k, side := false, j := m, dest := d }, m)
  if v.p.reducing then
    (v.own.flatMap fun o => (List.range v.size).flatMap fun j =>
      ((List.range (v.agree o j)).filter fun l => !v.own.contains (Nat.xor o (2 ^ l))).map fun l =>
        ({ lvl := l, side := !o.testBit l, j := j, dest := 0 }, Nat.xor o (2 ^ l)))
      ++ if v.p.op = 1 then v.others.map fun m => whole m 0 else []
  else if v.p.op = 3 then v.others.map fun m => whole m 0
  else if v.p.op = 4 then if v.own.contains v.p.peer then [] else [whole v.p.peer 0]
  else v.others.flatMap fun m => v.own.map fun d => whole m d

/-- The values to send: identity, the members they go to, and the value once it is there. -/
def Col.sends (v : Col) (x : ColIn) (w : ColWindow) : List (ColKey × List Nat × Option NodeVal) :=
  let n := v.chunkLen
  let whole := fun m d => ({ lvl := v.k, side := false, j := m, dest := d } : ColKey)
  if v.p.reducing then
    (v.own.flatMap fun o => (List.range v.size).filterMap fun j =>
      let t := v.agree o j
      let q := Nat.xor o (2 ^ t)
      if t = v.k ∨ v.own.contains q then none
      else some ({ lvl := t, side := o.testBit t, j := j, dest := 0 }, [q], v.node x w j t o))
      ++ if v.p.op = 1 then v.own.map fun o => (whole o 0, v.others, v.node x w o v.k o) else []
  else if v.p.op = 3 then v.own.map fun o => (whole o 0, v.others, some (v.piece x o 0 n))
  else if v.p.op = 4 then
    if v.own.contains v.p.peer then [(whole v.p.peer 0, v.others, some (v.piece x v.p.peer 0 n))] else []
  else v.own.flatMap fun o => v.others.map fun d => (whole o d, [d], some (v.piece x o (d * n) n))

/-! ### Legs of a multicast (R327, R339) -/

/-- Receivers of one packet: the first device's rank, MC_SPAN, and every receiver. -/
structure Leg where
  first : BitVec 21
  span : Nat
  rs : List (BitVec 21)
  deriving DecidableEq, Repr

/-- The legs to some ranks: ranks that stand alone on their devices along one X ring share a packet; others get their own. -/
def State.legs (s : State) (c : Nat) (rs : List (BitVec 21)) : List Leg :=
  let place := fun (r : BitVec 21) => match s.rttOf (s.ctxJob c).toNat r.toNat with
    | some e => if e.via = 0 ∧ ¬ e.coordOut ∧ e.coord ≠ s.ownCoord then some e.coord else none
    | none => none
  let alone := fun r => match place r with
    | none => false
    | some x => decide ((rs.filter fun q => place q = some x).length = 1)
  let n := s.dimSize 0
  let lines := ((rs.filter alone).filterMap fun r => (place r).map fun x => x % 2 ^ 14).eraseDups
  let arc := fun (f : Nat) (ps : List Nat) => ps.foldl (fun a p => max a ((p / 2 ^ 14 + n - f / 2 ^ 14 % n) % n)) 0
  ((rs.filter fun r => !alone r).map fun r => { first := r, span := 0, rs := [r] }) ++ lines.filterMap fun y =>
    let on := rs.filter fun r => alone r && match place r with | some x => decide (x % 2 ^ 14 = y) | none => false
    let ps := on.filterMap place
    let best := on.foldl (fun (b : Option (BitVec 21 × Nat)) r =>
      match place r with
      | none => b
      | some f =>
        let a := arc f ps
        match b with
        | some (_, m) => if a < m then some (r, a) else b
        | none => some (r, a)) none
    best.map fun b => { first := b.1, span := b.2, rs := on }

/-! ### Credits and packets (R340) -/

/-- The key under which the credits of a peer for a collective of a context stand. -/
def creditKey (c collId peer : Nat) : Nat := (c * 1024 + collId) * 2 ^ 21 + peer

/-- Cells of 64 bytes that a packet takes in a window. -/
def Packet.cells (p : Packet) : Nat := (p.payload.length + 63) / 64

/-- Credits held towards a peer. -/
def State.creditsFor (s : State) (c collId : Nat) (peer : BitVec 21) : Nat :=
  NMap.get (fun _ => 0) s.fabric.credits (creditKey c collId peer.toNat)

/-- Set the credits held towards a peer. -/
def setCredits (c collId : Nat) (peer : BitVec 21) (n : Nat) (s : State) : State :=
  { s with fabric := { s.fabric with credits := NMap.set (fun _ => 0) s.fabric.credits (creditKey c collId peer.toNat) n } }

/-- The window of a task. -/
def State.window? (s : State) (t : TaskRef) : Option ColWindow := s.fabric.windows.find? fun w => decide (w.task = t)

/-- Replace the window of the same task. -/
def setWindow (w : ColWindow) (s : State) : State :=
  { s with fabric := { s.fabric with windows := s.fabric.windows.map fun u => if u.task = w.task then w else u } }

/-- Replace an operation. -/
def setOp (o : FabOp) (s : State) : State :=
  { s with fabric := { s.fabric with ops := s.fabric.ops.map fun u => if u.id = o.id then o else u } }

/-- Send the packets of a window that wait, in order, as far as every receiver's credits reach (R340). -/
def pump (task : TaskRef) : Nat → State → State
  | 0, s => s
  | n + 1, s =>
    match s.window? task with
    | none => s
    | some w =>
      match w.outbox.find? fun e => e.2.1.all fun r => decide (e.2.2.cells ≤ s.creditsFor w.ctx w.collId.toNat r) with
      | none => s
      | some e =>
        let rest := w.outbox.erase e
        let s1 := e.2.1.foldl (fun u r => setCredits w.ctx w.collId.toNat r (u.creditsFor w.ctx w.collId.toNat r - e.2.2.cells) u) s
        let (s2, sent) := inject e.2.2 s1
        let s3 := setWindow { w with outbox := rest } s2
        let last := rest.all fun q => q.1 != e.1
        let s4 := match s3.fabric.ops.find? fun o => o.id = e.1 with
          | none => s3
          | some o =>
            let o1 := { o with unacked := o.unacked ++ [sent], acks := o.acks.map fun a => (a.1, a.2 + 1) }
            setOp (if last ∧ o.state = .sending then
              { o1 with state := .waiting, timer := s3.time + BitVec.ofNat 64 s3.opTimeout } else o1) s3
        pump task n s4

/-- Queue one child value for one leg: an operation with a packet per tile (R333). -/
def queueLeg (v : Col) (w : ColWindow) (x : ColKey) (val : NodeVal) (leg : Leg) (s : State) : State :=
  let id := s.fabric.nextOp
  let n := val.tiles.length
  let pkt := fun i =>
    let t := val.tiles.getD i { data := [], side := [] }
    let p := s.mkPacket w.ctx leg.first 2 0x10 0 (v.offset x (s.placeOf v x.dest) i) (x.info w.collId.toNat) false (decide (i + 1 = n))
      (t.data ++ t.side.take (val.fmt.crcOff + 8))
    { p with mc := decide (0 < leg.span), mcSpan := BitVec.ofNat 6 leg.span }
  let ok := leg.rs.all fun r => s.mayInject w.ctx r
  let o : FabOp := { id := id, task := some w.task, ctx := w.ctx, port := s.portFirst (pkt 0), state := if ok then .sending else .failed stAccess,
                     unacked := [], retries := 0, timer := 0, first := s.time, tile0 := 0, acks := leg.rs.map fun r => (r, 0) }
  let s1 := { s with fabric := { s.fabric with nextOp := id + 1, ops := s.fabric.ops ++ [o] } }
  if ¬ ok then violation leg.first.toNat s1
  else
    match s1.window? w.task with
    | none => s1
    | some u => setWindow { u with outbox := u.outbox ++ (List.range n).map fun i => (id, leg.rs, pkt i) } s1

/-- Send what a started collective can send now: values not sent before, then the packets that credits allow. Nothing is formed of a
tile that cannot be read or fails its check (R261, R274); the run of the task finds it and ends. -/
def colAdvance (task : TaskRef) (s : State) : State :=
  match s.task? task, s.window? task with
  | some t, some w =>
    if ¬ w.started then s
    else
      match s.colView t with
      | none => s
      | some v =>
        let read := (List.range v.t.tiles).map fun i => s.goodTile v.t.loc i
        let imgs := (read.filterMap id).toArray
        let x : ColIn := { m := (tilesMat v.t imgs).1, imgs := imgs }
        if s.mapFails v ∨ read.any fun i => i.isNone then s
        else
        let s1 := (v.sends x w).foldl (fun u e =>
          let key := (e.1.info w.collId.toNat, e.1.hi)
          match e.2.2 with
          | none => u
          | some val =>
            if w.sent.contains key then u
            else
              let rs := (e.2.1.map fun m => u.memberRank v m).eraseDups
              let u1 := (u.legs w.ctx rs).foldl (fun a l => queueLeg v w e.1 val l a) u
              match u1.window? task with
              | none => u1
              | some y => setWindow { y with sent := y.sent ++ [key] } u1) s
        let n := match s1.window? task with | some y => y.outbox.length | none => 0
        pump task n s1
  | _, _ => s

/-- FABR_COL_WINDOW in bytes: 1 to 128 of 64 KiB (R342). -/
def State.colWindowBytes (s : State) : Nat := clampNat (s.regField (aFabr 0x238) 7 0) 1 128 * 65536

/-- Grant credits to a sender (R340): INFO [9:0] COLL_ID, [31:10] cells. -/
def sendGrant (w : ColWindow) (dst : BitVec 21) (cells : Nat) (s : State) : State :=
  if s.mayInject w.ctx dst then
    (inject (s.mkPacket w.ctx dst 2 0x11 0 0 (BitVec.ofNat 32 (w.collId.toNat + cells * 1024)) false true []) s).1
  else violation dst.toNat s

/-- COL_WINDOW_OPEN (R340): a window is free, so the task's window opens and its senders get their credits. DESIGN CHOICE: log entry 57. -/
def colWindowOpen (task : TaskRef) (s : State) : State :=
  match s.task? task with
  | none => s
  | some t =>
    let p := ColParams.ofBytes t.d.params
    if t.d.kind ≠ kCollective ∨ (t.st ≠ .issued ∧ t.st ≠ .waiting) ∨ ¬ p.group ∨ (s.window? task).isSome
        ∨ 32 * 2 ^ 20 < (s.fabric.windows.length + 1) * s.colWindowBytes then s
    else
      match s.colView t with
      | none => s
      | some v =>
        if s.mapFails v then s
        else
        let senders := (v.expected.map fun e => s.memberRank v e.2).eraseDups
        let cells := s.colWindowBytes / 64
        let n := max 1 (min senders.length (cells / 140))
        let w : ColWindow := { ctx := v.c, job := s.ctxJob v.c, collId := BitVec.ofNat 10 p.id, task := task, started := false,
                               vals := [], sent := [], outbox := [], share := cells / n, ungranted := senders.drop n }
        (senders.take n).foldl (fun u r => sendGrant w r (cells / n) u)
          { s with fabric := { s.fabric with windows := s.fabric.windows ++ [w] } }

/-! ### The run of a collective -/

/-- A run that may have to wait: `none` leaves the task waiting, and its command goes on with it. -/
def runWait (task : TaskRef) (sel : Desc → Bool) (body : Task → Run (Option RunOut)) (s : State) : State :=
  match s.task? task with
  | none => s
  | some t0 =>
    if (t0.st ≠ .issued ∧ t0.st ≠ .waiting) ∨ sel t0.d = false ∨ (s.ctx task.ctx).st.isActive = false then s
    else
      let t := (s.ctx task.ctx).noteVers t0
      let (r, s1) := (body t).run s
      match r with
      | .ok none => s1.setTask { t with st := .waiting }
      | .ok (some o) => s1.setTask { t with st := .ran, res := o.res, undo := t.undo ++ o.undo }
      | .error e =>
        let res := { Result.empty with status := e.status, detail := e.detail }
        match e.kill with
        | none => s1.setTask { t with st := .ran, res := res }
        | some cause =>
          killCtx task.ctx.val cause
            (afterComplete t (completeWith { t with res := res } e.status e.detail (s1.nsOf t) false (s1.setTask { t with res := res })))

/-- The operations of a task. -/
def State.opsOf (s : State) (task : TaskRef) : List FabOp := s.fabric.ops.filter fun o => decide (o.task = some task)

/-- Whether an operation has ended. -/
def FabOp.ended (o : FabOp) : Bool := match o.state with
  | .done => true
  | .failed _ => true
  | _ => false

/-- Forget a task's operations, its window and the credits of its collective. -/
def closeOps (task : TaskRef) (s : State) : State :=
  let gone := match s.window? task with
    | none => fun _ => false
    | some w => fun (k : Nat) => decide (k / 2 ^ 21 = w.ctx * 1024 + w.collId.toNat)
  let f := s.fabric
  { s with fabric := { f with ops := f.ops.filter fun o => decide (o.task ≠ some task),
                              windows := f.windows.filter fun w => decide (w.task ≠ task),
                              credits := f.credits.filter fun e => !gone e.1 } }

/-- The operations of a task, which are its to wait for (R333, R335): whether all have ended; a failed one stops the run with
its status. -/
def opsSettled (t : Task) : Run Bool := do
  let s ← getS
  let os := s.opsOf t.ref
  if os.all FabOp.ended then
    match os.findSome? fun o => match o.state with | .failed st => some st | _ => none with
    | some st => do
      modS (closeOps t.ref)
      stop st dNone
    | none => pure true
  else pure false

/-- Write a value as a task's whole output: a long one narrowed under RNE (R78, R79), a short one as R338 converts. -/
def writeValue (env : Env) (t : Task) (m : Mat) : Run (List (Nat × Nat × Bytes) × QOut) := do
  let o ← outTensor t (t.d.out 0) 0 false none
  if ¬ o.loc.fmt.short then do
    let w ← writeLong env t (t.d.out 0) 1 m fun _ _ => true
    pure (w.undo, { QOut.none with ex := w.ex })
  else do
    let y ← if (t.d.out 0).reduce then do
        let p ← inTensor t { t.d.out 0 with reduce := false }
        let (pm, _) ← readMat env t.who 3 6 p
        pure (Mat.build o.rows o.cols fun r c => add32 (pm.at r c) (m.at r c))
      else pure m
    let q := wireEncode o.loc.fmt y o.rows o.cols
    let undo ← writeTiles env t.who o.loc q.tiles t.keeps
    modS (noteOut t (t.d.out 0).handle 0 false none none)
    pure (undo, { q with tiles := [] })

/-- Write values as a task's output, in order: their tiles unchanged where each is whole tile rows of the output in its format,
else their elements in row-major order. -/
def writeValues (env : Env) (t : Task) (vals : List NodeVal) : Run (List (Nat × Nat × Bytes) × QOut) := do
  let o ← outTensor t (t.d.out 0) 0 false none
  let whole := vals.all fun v => decide (v.fmt = o.loc.fmt) && decide (v.cols = o.cols) && decide (v.rows % 128 = 0)
  if whole ∧ ¬ (t.d.out 0).reduce then do
    let undo ← writeTiles env t.who o.loc (vals.flatMap fun v => v.tiles) t.keeps
    modS (noteOut t (t.d.out 0).handle 0 false none none)
    pure (undo, QOut.none)
  else do
    let ms := vals.map fun v => (v, v.mat)
    let flat : Array Nat := ms.foldl (fun a e => (List.range e.1.rows).foldl (fun a r => a ++ e.2.1.getD r #[]) a) #[]
    let ex := ms.foldl (fun (a : Exc) e => a.add e.2.2) Exc.none
    let (undo, q) ← writeValue env t (Mat.build o.rows o.cols fun r c => flat.getD (r * o.cols + c) 0)
    pure (undo, { q with ex := ex.add q.ex })

/-- The values that make up a group collective's output, in member order; `none` while one is missing. -/
def Col.outputs (v : Col) (x : ColIn) (w : ColWindow) : List (Option NodeVal) :=
  let n := v.chunkLen
  let got := fun m d => v.value? w { lvl := v.k, side := false, j := m, dest := d }
  if v.p.op = 1 then (List.range v.size).map fun j => v.root x w j
  else if v.p.op = 2 then v.own.map fun j => v.root x w j
  else if v.p.op = 3 then
    (List.range v.size).map fun m => if v.own.contains m then some (v.piece x m 0 n) else got m 0
  else if v.p.op = 4 then
    [if v.own.contains v.p.peer then some (v.piece x v.p.peer 0 n) else got v.p.peer 0]
  else v.own.flatMap fun d => (List.range v.size).map fun m =>
    if v.own.contains m then some (v.piece x m (d * n) n) else got m d

/-- A group collective: it reads its input through the collective unit, sends what it owes, and ends when its output is there and
its operations are done. -/
def groupBody (env : Env) (t : Task) : Run (Option RunOut) := do
  let s0 ← getS
  match s0.colView t with
  | some v => readMap t.who v
  | none => pure ()
  let s ← getS
  match s.window? t.ref, s.colView t with
  | some w, some v => do
    let imgs ← readTiles (if w.started then envQuiet else env) t.who 3 6 v.t
    let (m, _) := tilesMat v.t imgs
    modS (setWindow { w with started := true })
    modS (colAdvance t.ref)
    let settled ← opsSettled t
    let s1 ← getS
    let w1 := (s1.window? t.ref).getD w
    let x : ColIn := { m := m, imgs := imgs }
    let outs := v.outputs x w1
    if ¬ settled ∨ ¬ w1.outbox.isEmpty ∨ (outs.any fun o => o.isNone) then pure none
    else do
      let (undo, q) ← writeValues env t (outs.filterMap id)
      let nodes := if v.p.reducing then
          v.own.foldl (fun a o => (List.range v.size).foldl (fun (b : QOut × Bool) j =>
            let y := v.nodeCounts x w1 j o
            (b.1.and y.1, b.2 || y.2)) a) (QOut.none, false)
        else (QOut.none, false)
      let all := q.and nodes.1
      modS (closeOps t.ref)
      pure (some { res := { Result.empty with
                              status := if nodes.2 then stNonfinite else stOk, counts := all.counts.list,
                              flushedBlocks := all.counts.flushedBlocks, invalidBlocks := all.invalid, exc := all.ex.list,
                              amax := BitVec.ofNat 32 all.amax, e := BitVec.ofNat 32 all.e, s := BitVec.ofNat 32 all.s,
                              elements := all.elements, blocks := all.blocks }, undo := undo })
  | _, _ => pure none

/-! ### SEND and FETCH -/

/-- A tile as the fabric sends it (R278): its bytes and whether it is poisoned. -/
def sendTile (env : Env) (t : Task) (l : TileLoc) (i : Nat) : Run (TileImg × Bool) := do
  let s ← getS
  let (s1, r) := loadTile env t.who l i s
  modS fun _ => s1
  match r with
  | .ok img => pure (img, false)
  | .poison img _ _ _ => pure (img, true)
  | .fail e => stopMem t.who l.ctx e
  | .bad _ cause stored computed slot =>
    modS (raiseChecksum t.who 6 cause l.handle i stored computed 0xFFFFFFFF (slot / 2 ^ 36))
    stop stChecksum dNone

/-- Begin the one operation of a SEND or a FETCH, which the Boundary Unit must pass (R310, R359). -/
def beginOp (t : Task) (p : ColParams) (pkts : State → List Packet) : Run (Option RunOut) := do
  let s ← getS
  if ¬ s.mayInject t.ref.ctx (BitVec.ofNat 21 p.peer) then do
    modS (violation p.peer)
    stop stAccess dNone
  else do
    modS fun u => startOp t.ref.ctx (some t.ref) p.tile0 (pkts u) u
    pure none

/-- TARGET of a tile-form operation (R304). -/
def tileTarget (handle tile : Nat) : Dword := BitVec.ofNat 64 (handle % 2 ^ 20 + tile % 2 ^ 28 * 2 ^ 20)

/-- SEND: IN0's tiles as TILE_WRITEs (R304, R337). -/
def sendBody (env : Env) (t : Task) : Run (Option RunOut) := do
  let p := ColParams.ofBytes t.d.params
  if t.st = .issued then do
    let x ← inTensor t (t.d.inp 0)
    let imgs ← (List.range x.tiles).foldlM (fun acc i => do
      let y ← sendTile env t x.loc i
      pure (acc ++ [y])) []
    beginOp t p fun s => (List.range imgs.length).map fun i =>
      let y := imgs.getD i ({ data := [], side := [] }, false)
      s.mkPacket t.ref.ctx (BitVec.ofNat 21 p.peer) 0 1 (BitVec.ofNat 16 p.counter) (tileTarget p.remote (p.tile0 + i)) 0 y.2
        (decide (i + 1 = imgs.length)) (y.1.data ++ y.1.side)
  else do
    let settled ← opsSettled t
    if settled then do
      modS (closeOps t.ref)
      pure (some { res := Result.empty, undo := [] })
    else pure none

/-- FETCH: READ_REQs for the tiles of OUT0 (R304, R337); READ_DATA writes them. DEDUCED: log entry 58. -/
def fetchBody (t : Task) : Run (Option RunOut) := do
  let p := ColParams.ofBytes t.d.params
  let o ← outTensor t (t.d.out 0) 0 false none
  if t.st = .issued then
    beginOp t p fun s => (List.range o.tiles).map fun i =>
      s.mkPacket t.ref.ctx (BitVec.ofNat 21 p.peer) 0 3 (BitVec.ofNat 16 p.counter) (tileTarget p.remote (p.tile0 + i))
        (BitVec.ofNat 32 (o.loc.fmt.stored + 2 ^ 31)) false (decide (i + 1 = o.tiles)) []
  else do
    let settled ← opsSettled t
    if settled then do
      modS (noteOut t (t.d.out 0).handle 0 false none none)
      modS (closeOps t.ref)
      pure (some { res := Result.empty, undo := [] })
    else pure none

end Sys2Proof.Machine
end

