-- ==== Sys2Proof/Machine/CopyRuns.lean ====
section
/-! DEFINITION. COPY, EVENT and WAIT (R53, R278), and the completion counters that WAIT reads (R332). -/

namespace Sys2Proof.Machine

/-! ### Completion counters (R332) -/

/-- The address of counter `id` of a context. -/
def State.counterVa (s : State) (c id : Nat) : Nat := (s.reg64 (aFabr (0x300 + 16 * c))).toNat / 64 * 64 + 8 * id

/-- The value of a counter; none where the context has no valid counter array there (R342). -/
def State.counter? (s : State) (c id : Nat) : Option Nat :=
  match s.readVa envQuiet c (s.counterVa c id) 8 with
  | .ok (b, _) => some (leNat b)
  | .error _ => none

/-- Add to a counter: a context without a valid array drops the counting (R342). -/
def addCounter (c id n : Nat) (s : State) : State :=
  match s.counter? c id with
  | none => s
  | some v =>
    match writeVa envQuiet c (s.counterVa c id) (leBytes 8 ((v + n) % 2 ^ 64)) s with
    | .ok s1 => s1
    | .error _ => s

/-! ### COPY -/

/-- A source tile as COPY takes it (R274, R278): a poisoned one with a mark of CAUSE 2 and the same OWNER. -/
def copyTile (env : Env) (t : Task) (l : TileLoc) (i : Nat) : Run TileImg := do
  let s ← getS
  let (s1, r) := loadTile env t.who l i s
  modS fun _ => s1
  match r with
  | .ok img => pure img
  | .poison img _ owner _ => pure { img with side := img.side.take l.fmt.crcOff ++ markBytes 2 owner }
  | .fail e => stopMem t.who l.ctx e
  | .bad _ cause stored computed slot =>
    modS (raiseChecksum t.who 5 cause l.handle i stored computed 0xFFFFFFFF (slot / 2 ^ 36))
    stop stChecksum dNone

/-- COPY (R53, R221): the tiles of the range, in the version's own format, into the destination's copy or, for a widened version,
its wide shadow. -/
def copyBody (env : Env) (t : Task) : Run RunOut := do
  let p := t.d.params
  let s ← getS
  let c := t.ref.ctx.val
  let x ← inTensor t (t.d.inp 0)
  let v := s.readVer c (t.d.inp 0).handle (t.bindOf (t.d.inp 0).handle)
  let o ← outTensor t (t.d.out 0) v.level t.orient v.rotRec
  if o.loc.fmt ≠ x.loc.fmt then stop stAccess dNone
  else do
    let (src, dst, n) := (fieldLe p 0 4, fieldLe p 4 4, copyCount p x.loc.tiles)
    if x.loc.tiles < src + n ∨ o.loc.tiles < dst + n then stop stAccess dNone
    else do
      (List.range n).foldlM (fun _ i => do
        let img ← copyTile env t x.loc (src + i)
        let u ← getS
        match storeTile env o.loc (dst + i) img u with
        | .ok u1 => modS fun _ => u1
        | .error e => stopMem t.who c e) ()
      modS (noteOut t (t.d.out 0).handle v.level t.orient v.rotRec none)
      pure { res := Result.empty, undo := [] }

/-! ### EVENT and WAIT -/

/-- EVENT (R53, R71): a USER record with USER_CODE and VALUE. -/
def eventBody (t : Task) : Run RunOut := do
  let w := t.who
  let e := mkEvent (BitVec.ofNat 16 (fieldLe t.d.params 0 2)) 0 w.ctx noUnit (sliceB t.d.params 8 8)
  modS (raise { e with type := 0x11, layer := w.layer, seq := w.seq, index := w.index })
  pure { res := Result.empty, undo := [] }

/-- A WAIT that completes with a status. -/
def waitBody (status : Byte) (_ : Task) : Run RunOut := pure { res := { Result.empty with status := status }, undo := [] }

/-- Whether a descriptor is a WAIT in a mode. -/
def waitMode (m : Nat) (d : Desc) : Bool := decide (d.kind = kWait) && decide (d.op = m)

/-- TIMEOUT of a WAIT in ns: 0 means 500 µs (R53). -/
def waitNs (d : Desc) : Nat := (if fieldLe d.params 0x10 4 = 0 then 500 else fieldLe d.params 0x10 4) * 1000

/-- Whether the counter that a WAIT names has reached TARGET. -/
def State.counterReached (s : State) (t : Task) : Bool :=
  match s.counter? t.ref.ctx (fieldLe t.d.params 2 2) with
  | none => false
  | some v => decide (fieldLe t.d.params 8 8 ≤ v)

end Sys2Proof.Machine
end

