-- ==== Sys2Proof/Machine/OptimRuns.lean ====
section
/-! DEFINITION. OPTIMIZE as a task on the update engines (R198 to R212): COMPRESS, NORM, UPDATE and REQUANT. -/

namespace Sys2Proof.Machine

/-- Read an input slot: consumer 2 and use 3 are the update engine (R290). -/
def optIn (env : Env) (t : Task) (x : Slot) : Run TensorIn := readIn env t 2 3 x

/-- Read an input slot if it is valid. -/
def optIn? (env : Env) (t : Task) (x : Slot) : Run (Option TensorIn) := do
  if x.valid then do
    let y ← optIn env t x
    pure (some y)
  else pure none

/-- The elements that masks discard (R208). -/
def maskDisc (row col : Option TensorIn) (r c : Nat) : Bool :=
  (match row with | some x => discards (x.m.at 0 r) | none => false)
    || match col with | some x => discards (x.m.at 0 c) | none => false

/-- Write tiles of one output of an OPTIMIZE. -/
def optWrite (env : Env) (t : Task) (x : Slot) (imgs : List TileImg) : Run Unit := do
  let o ← outTensor t x 0 false none
  let _ ← writeTiles env t.who o.loc imgs false
  modS (noteOut t x.handle 0 false none none)

/-- The f32 tiles of a matrix. -/
def f32Tiles (x : Mat) (rows cols : Nat) : List TileImg := (longTiles Fmt.f32 x rows cols fun _ _ => .rne).1

/-- Whether a matrix holds a non-finite element. -/
def anyNonFin (x : Mat) : Bool := x.any fun row => row.any fun v => !fmt32.isFin v

/-! ### COMPRESS (R209) -/

/-- The elements of invalid blocks of a conversion's tiles. -/
def badBlocks (k : Fmt) (imgs : Array TileImg) (cols r c : Nat) : Bool :=
  let g := k.gridCols cols
  match imgs[r / 128 * g + c / k.cw]? with
  | none => false
  | some img => decide (fieldLe img.side ((r % 128 * k.cw + c % k.cw) / k.blk) 1 = 0xFF)

/-- COMPRESS. -/
def compressBody (env : Env) (t : Task) : Run RunOut := do
  let d := t.d
  let p := d.params
  let c := t.ref.ctx.val
  let g ← optIn env t (d.inp 0)
  let ef := (fieldLe p 2 1).testBit 0
  let old ← if ef then optIn? env t (d.inp 1) else pure none
  let o ← outTensor t (d.out 0) 0 false none
  let s ← getS
  let slot := fieldLe p 8 2
  let entry ← slotEntry env t 2 3 (d.inp 2) slot
  let q : QSpec := { outlier := 2, axis := false, tFixed := false, stoch := decide (fieldLe p 3 1 % 8 = 5), rot := 0, slot := slot,
                     rotStream := 0, ctrHi := 0, srStream := fieldLe p 4 4, fixedT := 0 }
  let (x, ex) := compressIn g.m (old.map fun y => y.m) o.rows o.cols
  let cv := convert o.loc.fmt q entry 2 (s.seed c) 0 (s.stream c q.srStream false) x o.rows o.cols none
  let eOld := match old with | some y => y.ex | none => Exc.none
  optWrite env t (d.out 0) cv.out.tiles
  let use := cv.use (d.inp 2).handle slot ((s.ctx c).folds (d.inp 2).handle)
  if ¬ ef then withRecords t (g.axisBad 0) { res := cv.result entry.ovf ((g.ex.add eOld).add ex) slot [use], undo := [] }
  else do
    let laid : Tensor := { o with orient := false }
    let (dq, e2) := tilesMat laid cv.out.tiles.toArray
    let (res, e3) := compressResid x dq o.rows o.cols (badBlocks o.loc.fmt cv.out.tiles.toArray o.cols)
    let kb : Fmt := { elem := 2, husks := false, block32 := false }
    optWrite env t (d.out 1) (longTiles kb res o.rows o.cols fun _ _ => .rne).1
    let r := cv.result entry.ovf ((((g.ex.add eOld).add ex).add e2).add e3) slot [use]
    let made : Option NonFin := (List.range o.rows).findSome? fun i =>
      ((List.range o.cols).find? fun j => !fmt32.isFin (x.at i j) && fmt32.isFin (g.m.at i j)
        && match old with | some y => fmt32.isFin (y.m.at i j) | none => true).map fun j =>
          { origin := 4, row := i, col := j, val := x.at i j }
    withRecords t (g.axisBad 0) { res := { r with nonfinite := made.map fun y => y.tuple, stateNonfinite := anyNonFin res }, undo := [] }

/-! ### NORM (R210) -/

/-- NORM: the squared norm of a gradient, discarded elements as +0. -/
def normBody (env : Env) (t : Task) : Run RunOut := do
  let d := t.d
  let flags := fieldLe d.params 2 1
  let g ← optIn env t (d.inp 0)
  let m1 ← optIn? env t (d.inp 1)
  let m2 ← optIn? env t (d.inp 2)
  let row := if flags.testBit 1 then m1 else none
  let col := if flags.testBit 2 then (if flags.testBit 1 then m2 else m1) else none
  let disc := maskDisc row col
  let (v, ex) := normSum g.t.loc.fmt g.m g.t.rows g.t.cols disc
  let fine := (List.range g.t.rows).all fun r => (List.range g.t.cols).all fun c => disc r c || fmt32.isFin (g.m.at r c)
  optWrite env t (d.out 0) (f32Tiles #[#[v]] 1 1)
  let nf : Option NonFin := if !fmt32.isFin v && fine then some { origin := 4, row := 0, col := 0, val := v } else none
  withRecords t (g.axisBad 0) { res := Result.ofExc (g.ex.add ex) nf, undo := [] }

/-! ### Copies (R207, R222) -/

/-- What the copies of a master gave together. -/
structure CopyOut where
  counts : QCounts
  invalid : Nat
  elements : Nat
  blocks : Nat
  ex : Exc
  clamped : Bool
  amax : Nat
  e : Nat
  s : Nat
  uses : List SlotUse
  nonFin : Option NonFin

/-- No copy. -/
def CopyOut.none : CopyOut :=
  { counts := QCounts.zero, invalid := 0, elements := 0, blocks := 0, ex := Exc.none, clamped := false, amax := 0, e := 0, s := 0,
    uses := [], nonFin := Option.none }

/-- Write one copy of a master (R207), and its copy record (R222). -/
def writeCopy (env : Env) (t : Task) (x table : Slot) (params : Bytes) (turned : Bool) (master : Nat) (w : Mat) (rows cols : Nat)
    (acc : CopyOut) : Run CopyOut := do
  if ¬ x.valid then pure acc
  else do
    let c := t.ref.ctx.val
    let q := QSpec.ofBytes params
    let o ← outTensor t x 0 false none
    let entry ← slotEntry env t 2 3 table q.slot
    let s ← getS
    let clip := match (s.ctx c).handle? x.handle with | some h => h.clipBound | none => false
    let src := if turned then w.turn rows cols else w
    let cv := convert o.loc.fmt q entry (outlierFor o.loc.fmt clip q) (s.seed c) (s.stream c q.rotStream true)
      (s.stream c q.srStream true) src o.rows o.cols none
    optWrite env t x cv.out.tiles
    let rec1 : CopyRec := { master := master, table := if table.valid then some table.handle else none, params := params, turned := turned }
    modS fun u => u.setCtx c ((u.ctx c).setVer x.handle { (u.ctx c).ver x.handle with copy := some rec1 })
    let use := if q.slot = 0xFFFF then [] else [cv.use table.handle q.slot ((s.ctx c).folds table.handle)]
    pure { counts := acc.counts.add cv.out.counts, invalid := acc.invalid + cv.out.invalid,
           elements := acc.elements + cv.out.elements, blocks := acc.blocks + cv.out.blocks,
           ex := (acc.ex.add cv.ex).add cv.out.ex, clamped := acc.clamped || cv.clamped, amax := amax32 acc.amax cv.out.amax,
           e := add32 acc.e cv.out.e, s := add32 acc.s cv.out.s, uses := acc.uses ++ use, nonFin := firstNf acc.nonFin cv.nonFin }

/-- Write both copies that an UPDATE or REQUANT names. -/
def writeCopies (env : Env) (t : Task) (master : Nat) (w : Mat) (rows cols : Nat) : Run CopyOut := do
  let a ← writeCopy env t (xsSlot t.ext 1) (xsSlot t.ext 3) (sliceB t.ext 0x50 24) false master w rows cols CopyOut.none
  writeCopy env t (xsSlot t.ext 2) (xsSlot t.ext 3) (sliceB t.ext 0x68 24) true master w rows cols a

/-- SCALE_SLOT of the task's record: the plain copy's, else the turned copy's (R207). -/
def copiesSlot (ext : Bytes) : Nat :=
  let p := (plainSlot ext)
  if p ≠ 0xFFFF then p else turnedSlot ext
where
  plainSlot (ext : Bytes) : Nat := if (xsSlot ext 1).valid then fieldLe ext 0x54 2 else 0xFFFF
  turnedSlot (ext : Bytes) : Nat := if (xsSlot ext 2).valid then fieldLe ext 0x6C 2 else 0xFFFF

/-- What a task with copies reports (R207, R212). -/
def CopyOut.result (k : CopyOut) (ext : Bytes) (ex : Exc) (nf : Option NonFin) : Result :=
  { Result.empty with
    counts := k.counts.list, flushedBlocks := k.counts.flushedBlocks, invalidBlocks := k.invalid, exc := (ex.add k.ex).list,
    clamped := k.clamped, amax := BitVec.ofNat 32 k.amax, e := BitVec.ofNat 32 k.e, s := BitVec.ofNat 32 k.s,
    elements := k.elements, blocks := k.blocks, slot := BitVec.ofNat 16 (copiesSlot ext), uses := k.uses,
    nonfinite := (firstNf nf k.nonFin).map fun x => x.tuple }

/-- REQUANT (R207). -/
def requantBody (env : Env) (t : Task) : Run RunOut := do
  let w ← optIn env t (t.d.inp 0)
  let k ← writeCopies env t (t.d.inp 0).handle w.m w.t.rows w.t.cols
  withRecords t (w.axisBad 0) { res := k.result t.ext w.ex none, undo := [] }

/-! ### UPDATE (R203 to R208, R211) -/

/-- Write one moment: its tiles and what its encoding counts. A tile wholly discarded keeps its bytes (R208). -/
def writeMoment (env : Env) (t : Task) (x : Slot) (old : TensorIn) (new : Mat) (stream lane : Nat) (disc : Nat → Nat → Bool) : Run MomOut := do
  let s ← getS
  let k := old.t.loc.fmt
  let (rows, cols) := (old.t.rows, old.t.cols)
  let g := k.gridCols cols
  let whole := fun i => (List.range 128).all fun r => (List.range k.cw).all fun c =>
    let (a, b) := (i / g * 128 + r, i % g * k.cw + c)
    !(decide (a < rows) && decide (b < cols)) || disc a b
  let m := moments k (s.seed t.ref.ctx) stream lane new rows cols fun i => if whole i then old.imgs[i]? else none
  optWrite env t x m.tiles
  pure m

/-- UPDATE. -/
def updateBody (env : Env) (t : Task) : Run RunOut := do
  let d := t.d
  let c := t.ref.ctx.val
  let alg := fieldLe d.params 1 1
  let flags := fieldLe d.params 2 1
  let adam := decide (alg % 4 = 0)
  let g ← optIn env t (d.inp 0)
  let w ← optIn env t (d.inp 1)
  let m ← optIn env t (d.inp 2)
  let v ← if adam then optIn? env t (d.inp 3) else pure none
  let g2 ← if flags.testBit 3 then optIn? env t (xsSlot t.ext 4) else pure none
  let row ← if flags.testBit 1 then optIn? env t (xsSlot t.ext 5) else pure none
  let col ← if flags.testBit 2 then optIn? env t (xsSlot t.ext 6) else pure none
  let disc := maskDisc row col
  let s ← getS
  let norm := g2.map fun x => x.m.at 0 0
  let k := updConsts adam (alg.testBit 2) (alg.testBit 3) (Hyper.ofBytes t.ext) norm (s.stepOf c).toNat
  let (rows, cols) := (w.t.rows, w.t.cols)
  let vm : Mat := match v with | some x => x.m | none => #[]
  let u := updAll k g.m w.m m.m vm rows cols (match norm with | some x => fmt32.isFin x | none => true) disc
  let stream := s.stream c (fieldLe d.params 4 4) false
  optWrite env t (d.out 0) (f32Tiles u.w rows cols)
  let mo ← writeMoment env t (d.out 1) m u.m stream 0 disc
  let vo ← match v with
    | some x => do
      let y ← writeMoment env t (xsSlot t.ext 0) x u.v stream 1 disc
      pure (some y)
    | none => pure none
  let cp ← writeCopies env t (d.inp 1).handle u.w rows cols
  let ms : List MomOut := mo :: match vo with | some x => [x] | none => []
  let exIn := [some g, some w, some m, v, g2, row, col].foldl (fun (e : Exc) x => match x with | some y => e.add y.ex | none => e) Exc.none
  let all : CopyOut :=
    { cp with counts := ms.foldl (fun a x => a.add x.counts) cp.counts, invalid := ms.foldl (fun a x => a + x.invalid) cp.invalid,
              elements := ms.foldl (fun a x => a + x.elements) cp.elements, blocks := ms.foldl (fun a x => a + x.blocks) cp.blocks,
              clamped := cp.clamped || ms.any fun x => x.clamped }
  let (dw2, w2) := updSums u.dw w.m rows cols disc
  let bad := g.axisBad 0 ++ w.axisBad 1 ++ m.axisBad 2 ++ match v with | some x => x.axisBad 3 | none => []
  withRecords t bad { res := { all.result t.ext (exIn.add u.ex) u.nonFin with
                  stateNonfinite := anyNonFin u.w || ms.any fun x => decide (x.invalid ≠ 0), dw2 := BitVec.ofNat 32 dw2,
                  w2 := BitVec.ofNat 32 w2, zeroG := u.zeroG, n := u.n }, undo := [] }

end Sys2Proof.Machine
end

