-- ==== Sys2Proof/Machine/Widen.lean ====
section
/-! DEFINITION. The operands of a repeated product that are copies of a master (R222): the wide shadow that the repeat reads
in place of the copy as compiled. -/

namespace Sys2Proof.Machine

/-- A definition whose widened versions a repeat may write though it is FOLIO: the shadow is no folio. -/
def Handle.wideForm (d : Handle) : Handle := { d with flags := d.flags &&& 0xFE }

/-- Whether a task is a product (R220). -/
def Task.isProduct (t : Task) : Bool := decide (t.d.kind = kMatmul ∨ t.d.kind = kMatvec)

/-- The rotation record of a copy at level 2 (R220, R222). -/
def State.copyRot (s : State) (c : Nat) (r : CopyRec) : RotRec :=
  let q := QSpec.ofBytes r.params
  { rot := BitVec.ofNat 3 q.rot, axis := q.axis, stream := BitVec.ofNat 32 (if q.rot = 0 then 0 else s.stream c q.rotStream false),
    ctrHi := BitVec.ofNat 32 q.ctrHi }

/-- The copy record of operand handle `h` of a repeated product and the tensor in its shadow, if the repeat converts it: a
copy with a record and a shadow that the repeat level widens, which the instance did not write (R222). DEDUCED: log entry 51. -/
def State.repeatCopy (s : State) (t : Task) (h : Nat) : Option (CopyRec × Tensor) :=
  let c := t.ref.ctx.val
  let x := s.ctx c
  let wrote : Bool := match x.group? t with
    | none => false
    | some g => (x.repeatSet g).any fun u => u.writes.contains h
  if ¬ t.isProduct ∨ t.attempt ≠ 1 ∨ wrote then none
  else
    match (s.readVer c h (t.bindOf h)).copy, x.handle? h with
    | some r, some d =>
      if d.wideForm.widened t.level then
        some (r, d.wideForm.tensor c h t.level false (x.ver h).orient (if t.level = 2 then some (s.copyRot c r) else none))
      else none
    | _, _ => none

/-- The tensor of a product's input slot (R222). -/
def opTensor (t : Task) (x : Slot) : Run Tensor := do
  let s ← getS
  match s.repeatCopy t x.handle with
  | some (_, y) => pure y
  | none => inTensor t x

end Sys2Proof.Machine
end

