-- ==== Sys2Proof/Machine/Products.lean ====
section
/-! DEFINITION. MATMUL and MATVEC (R126 to R147, R153 to R166): operand tiles and their records, checksum mismatches and
injected faults, and the outputs. -/

namespace Sys2Proof.Machine

/-! ### Operands -/

/-- The rotation record and tensor scale that a tile brings to a product: T, ROT, ROT_STREAM, ROT_CTR_HI (R112, R220). -/
structure OpRec where
  t : Nat
  rot : Nat
  stream : Nat
  ctrHi : Nat
  deriving DecidableEq, Repr

/-- The record of a tile: its trailer, or the record held with a level-2 version; a long operand has scale 1. -/
def tileRec (t : Tensor) (img : TileImg) : OpRec :=
  if t.loc.fmt.short then
    let r := img.trailer t.loc.fmt
    { t := r.t, rot := r.rot, stream := r.stream, ctrHi := r.ctrHi }
  else match t.rot with
    | some r => { t := 0x3F800000, rot := r.rot.toNat, stream := r.stream.toNat, ctrHi := r.ctrHi.toNat }
    | none => { t := 0x3F800000, rot := 0, stream := 0, ctrHi := 0 }

/-- Two records agree in what R114 compares across operands. -/
def OpRec.sameRot (a b : OpRec) : Bool := decide (a.rot = b.rot) && decide (a.stream = b.stream) && decide (a.ctrHi = b.ctrHi)

/-- An operand of a product: its tensor, its first row used, how many rows, and its tiles by index. -/
structure OpSide where
  slot : Nat
  t : Tensor
  row0 : Nat
  rows : Nat
  tiles : NMap TileImg
  deriving DecidableEq, Repr

/-- The tile indices that rows `r0` to `r0 + n − 1` and contraction indices `k0` to `k0 + len − 1` touch, rising. -/
def Tensor.tilesOf (t : Tensor) (r0 n k0 len : Nat) : List Nat :=
  if n = 0 ∨ len = 0 then []
  else
    let g := t.loc.fmt.gridCols t.laidCols
    let w := t.loc.fmt.cw
    (List.range ((r0 + n - 1) / 128 - r0 / 128 + 1)).flatMap fun i =>
      (List.range ((k0 + len - 1) / w - k0 / w + 1)).map fun j => (r0 / 128 + i) * g + (k0 / w + j)

/-- Load the tiles of an operand (R113, R274). -/
def loadSide (env : Env) (t : Task) (slot row0 rows k0 len : Nat) : Run OpSide := do
  let x ← opTensor t (t.d.inp slot)
  let tiles ← (x.tilesOf row0 rows k0 len).foldlM (fun (m : NMap TileImg) i => do
    let img ← readTile env t.who 1 1 x.loc i
    pure (NMap.insert m i img)) []
  pure { slot := slot, t := x, row0 := row0, rows := rows, tiles := tiles }

/-- The tiles of a side whose trailer AXIS differs from the orientation of the version read (R196). DEDUCED: log entry 52. -/
def OpSide.axisBad (a : OpSide) : List Nat :=
  if a.t.loc.fmt.short then (a.tiles.filter fun e => (e.2.trailer a.t.loc.fmt).axis != a.t.orient).map fun e => e.1 else []

/-- The tiles of a side that enter output rows `r` to `r + 127` of the product. -/
def OpSide.band (a : OpSide) (i k0 len : Nat) : List (Nat × OpRec) :=
  (a.t.tilesOf (a.row0 + 128 * i) (min 128 (a.rows - 128 * i)) k0 len).filterMap fun j =>
    (NMap.find? a.tiles j).map fun img => (j, tileRec a.t img)

/-- The tiles of a band that differ from its first. -/
def bandBad (b : List (Nat × OpRec)) : List Nat := match b with
  | [] => []
  | (_, r) :: t => (t.filter fun e => e.2 ≠ r).map fun e => e.1

/-- The operand tiles of a product whose records fail (R114, R196), by slot and index: an AXIS that is not the version's orientation,
tiles of one band that differ, tiles of the second operand that differ from the first's, and a rotation that K0 does not divide. -/
def recordFaults (a b : OpSide) (k0 len : Nat) : List (Nat × Nat) :=
  let bands := fun (x : OpSide) => (List.range ((x.rows + 127) / 128)).map fun i => x.band i k0 len
  let heads := fun (x : OpSide) => (bands x).filterMap fun b => b.head?
  let own := fun (x : OpSide) => (x.axisBad ++ (bands x).flatMap bandBad).map fun i => (x.slot, i)
  let cross := ((heads b).filter fun e => (heads a).any fun f => !f.2.sameRot e.2).map fun e => (b.slot, e.1)
  let start := match (heads a).head? with
    | some (i, r) => if r.rot ≠ 0 ∧ k0 % rotSize r.rot ≠ 0 then [(a.slot, i)] else []
    | none => []
  own a ++ own b ++ cross ++ start

/-- The codes, scales and husks of a tile, decoded once. -/
structure TileDec where
  codes : Array Nat
  side : Array Nat
  husks : NMap Nat
  t : Nat
  deriving DecidableEq, Repr

/-- Decode a tile for delivery. -/
def decTile (k : Fmt) (t : Tensor) (img : TileImg) : TileDec :=
  { codes := img.codes k, side := ((img.side.take k.codes).map fun b => b.toNat).toArray,
    husks := (huskEntries (img.huskRegion k)).foldl (fun m e => NMap.insert m e.1 e.2) [], t := (tileRec t img).t }

/-- An operand as delivered (R130, R131): row `i` is row `row0 + i` over the contraction range. -/
def OpSide.opnd (a : OpSide) (k0 len : Nat) (wide : Bool) : Opnd :=
  let k := a.t.loc.fmt
  let g := k.gridCols a.t.laidCols
  let dec : NMap TileDec := a.tiles.map fun e => (e.1, decTile k a.t e.2)
  let dflt : TileDec := { codes := #[], side := #[], husks := [], t := 0x3F800000 }
  let tileOf := fun r c => (NMap.find? dec (r / 128 * g + c / k.cw)).getD dflt
  let posOf := fun r c => r % 128 * k.cw + c % k.cw
  let elt := fun r c =>
    let x := tileOf r c
    let p := posOf r c
    if k.short then shortElt k (x.codes.getD p 0) (x.side.getD (p / k.blk) 0) (NMap.find? x.husks p) wide
    else longElt (if k.elem = 0 then x.codes.getD p 0 else (k.long.conv fmt32 .rne (x.codes.getD p 0)).1)
  let rowIds := (List.range a.rows).map fun i => a.row0 + i
  let blocks := (len + 15) / 16
  { fmt := k,
    rows := (rowIds.map fun r => ((List.range (16 * blocks)).map fun j =>
      if j < len then elt r (k0 + j) else Elt.zero).toArray).toArray,
    scales := (rowIds.map fun r => ((List.range blocks).map fun b =>
      if k.short ∧ ¬ wide then
        let x := tileOf r (k0 + 16 * b)
        (s8Val (x.side.getD (posOf r (k0 + 16 * b) / k.blk) 0)).getD (0, 0)
      else (1, 0)).toArray).toArray,
    t := (rowIds.map fun r => (tileOf r k0).t).toArray }

/-! ### Faults and injection (R142 to R151) -/

/-- The armed injection of a cluster (R148, R151): row, column, signed amount. -/
def State.injection (s : State) (n : Nat) : Option (Nat × Nat × Int) :=
  if (s.clus n).armed then
    let w := s.reg (aClus n 0x40)
    some ((w.toNat % 256), (w.toNat / 256 % 256), ((w >>> 16).setWidth 16 : BitVec 16).toInt)
  else none

/-- Disarm a cluster's injection: the next block computed has consumed it. -/
def disarm (n : Nat) (s : State) : State := s.setClus n { s.clus n with armed := false }

/-- Whether the target of an injection is a cell that computes blocks of the array (R139, R148). -/
def arrayTarget (x : Nat × Nat × Int) : Bool :=
  decide (x.1 < 130) && decide (x.2.1 < 130) && (decide (x.1 < 128) || decide (x.2.1 < 128))

/-- Whether the target of an injection is a lane of the matrix-vector path (R148). -/
def mvpTarget (x : Nat × Nat × Int) : Bool := decide (x.1 < 65)

/-- Take the armed injection of a cluster whose target is one that the coming blocks compute; another stays armed (R151). -/
def takeInjection (n : Nat) (here : Nat × Nat × Int → Bool) : Run (Option (Nat × Nat × Int)) := do
  let s ← getS
  match s.injection n with
  | none => pure none
  | some x => if here x then do modS (disarm n); pure (some x) else pure none

/-- The faults of output tile `tile`. -/
def tileFaults (env : Env) (inj : Option (Nat × Nat × Int)) (tile : Nat) : List TileFault :=
  ((env.faults.filter fun f => f.tile = tile).map fun f =>
    { row := f.row, col := f.col, block := f.block, delta := f.delta, injected := false })
  ++ match inj with
    | some (r, c, d) => if tile = 0 ∧ d ≠ 0 then [{ row := r, col := c, block := 0, delta := d, injected := true }] else []
    | none => []

/-- A signed value saturated to ±(2^31 − 1), as 4 bytes (R144). -/
def satBytes (v : Int) : Bytes :=
  leBytes 4 (BitVec.ofInt 32 (max (-(2 ^ 31 - 1)) (min (2 ^ 31 - 1) v))).toNat

/-- A mismatch ends the run (R144): the counters, the event, the decision unless an injection caused it. -/
def stopAbft {α : Type} (t : Task) (source mode tile : Nat) (x : Mismatch) (observed checksum : Int) : Run α := do
  let n := (t.cluster.map fun c => c.val).getD 0
  let b8 := fun v => if v = 0xFFFF then 0xFF else v
  let last := b8 x.row + 256 * b8 x.col + 2 ^ 16 * x.kind + 2 ^ 18 * source + 2 ^ 19 * mode + if x.injected then 2 ^ 21 else 0
  let diff := fun (v : Int) => if mode = 3 then leBytes 4 v.toNat else satBytes v
  modS fun s =>
    let s1 := count (aClus n 0x28) 1 s
    let s2 := ((s1.setReg (aClus n 0x30) (BitVec.ofNat 32 last)).setReg (aClus n 0x34) (BitVec.ofNat 32 x.block)).setReg64
      (aClus n 0x38) s1.time
    let s3 := raiseWho t.who 0x0401 2 (s2.unitOf t) (leBytes 1 source ++ leBytes 1 mode ++ leBytes 1 x.kind
      ++ leBytes 1 (if x.injected then 1 else 0) ++ leBytes 2 x.row ++ leBytes 2 x.col ++ leBytes 4 x.block ++ leBytes 4 tile
      ++ diff x.plain ++ diff x.weighted) s2
    if x.injected then s3 else startDecision .abft [n] (some t.ref) observed checksum 0 0 0 s3
  stop stAbft dNone

/-- The observed and the checksum side of the first failing check of a mismatch in the exact modes (R140 to R142). -/
def mismatchSides (a b : Opnd) (i0 j0 mr nc : Nat) (fs0 : List TileFault) (x : Mismatch) : Int × Int :=
  let fs := (liveFaults mr nc fs0).filter fun f => f.block = x.block
  let sum := fun i j => blockSum (a.rows.getD (i0 + i) #[]) (b.rows.getD (j0 + j) #[]) x.block
  match (List.range nc).find? fun j => colDiff fs j ≠ (0, 0) with
  | some j =>
    let d := colDiff fs j
    let w := decide (d.1 = 0)
    let base := (List.range mr).foldl (fun (acc : Int) i => acc + (if w then ((i + 1 : Nat) : Int) else 1) * sum i j) 0
    let chk := fs.foldl (fun (acc : Int) f => if f.col = j ∧ f.row = (if w then 129 else 128) then acc + f.delta else acc) base
    (chk + (if w then d.2 else d.1), chk)
  | none =>
    match (List.range mr).find? fun i => rowDiff fs i ≠ (0, 0) with
    | some i =>
      let d := rowDiff fs i
      let w := decide (d.1 = 0)
      let base := (List.range nc).foldl (fun (acc : Int) j => acc + (if w then ((j + 1 : Nat) : Int) else 1) * sum i j) 0
      let chk := fs.foldl (fun (acc : Int) f => if f.row = i ∧ f.col = (if w then 129 else 128) then acc + f.delta else acc) base
      (chk + (if w then d.2 else d.1), chk)
    | none => (0, 0)

/-- The first mismatch of an output tile in 16-bit mode: part by part, promotion interval by promotion interval (R143,
R166). -/
def wideTile (p : AccParams) (a b : Opnd) (i0 j0 mr nc : Nat) (fs0 : List TileFault) : Option Mismatch :=
  let fs := liveFaults mr nc fs0
  let blocks := (p.klen + 15) / 16
  let split := decide (a.fmt.elem = 0 ∧ b.fmt.elem = 0)
  let parts := if split then passParts p.passes else [(0, 0)]
  let total := parts.length * blocks
  let ends := (List.range total).filter fun q => decide ((q + 1) % p.promote = 0 ∨ q + 1 = total ∨ (q + 1) % blocks = 0)
  let starts := 0 :: ends.map fun q => q + 1
  (List.zip starts ends).findSome? fun (lo, hi) =>
    let g := fs.filter fun f => decide (lo ≤ f.block ∧ f.block ≤ hi)
    if g.isEmpty then none
    else
      let sel := parts.getD (lo / blocks) (0, 0)
      let xs := (List.range mr).map fun i =>
        let r := a.rows.getD (i0 + i) #[]
        if split then partRow r sel.1 else r
      let ys := (List.range nc).map fun j =>
        let r := b.rows.getD (j0 + j) #[]
        if split then partRow r sel.2 else r
      (wideMismatch xs ys g (lo % blocks) (hi - lo + 1) (16 * blocks)).map fun m => { m with block := lo / p.promote * p.promote }

/-- Check the output tiles of an array product in order; the first mismatch ends the run. `inj` is the injection taken.
DESIGN CHOICE: log entry 47. -/
def checkArray (env : Env) (inj : Option (Nat × Nat × Int)) (t : Task) (p : AccParams) (a b : Opnd) (m n : Nat) : Run Unit := do
  let mode := modeOf a.fmt b.fmt
  let tn := (n + 127) / 128
  (List.range ((m + 127) / 128 * tn)).foldlM (fun _ q => do
    let fs := tileFaults env inj q
    if fs.isEmpty then pure ()
    else
      let i0 := q / tn * 128
      let j0 := q % tn * 128
      let mr := min 128 (m - i0)
      let nc := min 128 (n - j0)
      if mode = 3 then
        match wideTile p a b i0 j0 mr nc fs with
        | none => pure ()
        | some x => stopAbft t 0 3 q x x.plain x.weighted
      else
        match tileMismatch mr nc fs ((p.klen + 15) / 16) 0 with
        | none => pure ()
        | some x =>
          let (ob, ck) := mismatchSides a b i0 j0 mr nc fs x
          stopAbft t 0 mode q x ob ck) ()

/-- The faults of 16-bit mode that no check reports act on their cell (R143). -/
def cellFaults (env : Env) (inj : Option (Nat × Nat × Int)) (wide : Bool) (tn i j : Nat) : List (Nat × Int) :=
  if ¬ wide then []
  else
    ((tileFaults env inj (i / 128 * tn + j / 128)).filter fun f => f.row = i % 128 ∧ f.col = j % 128).map fun f => (f.block, f.delta)

/-- Check the groups of a MATVEC on the matrix-vector path (R147): lane, block and vector of each fault. -/
def checkMvp (env : Env) (inj : Option (Nat × Nat × Int)) (t : Task) (p : AccParams) (a b : Opnd) (batch n : Nat) : Run Unit := do
  let mode := modeOf a.fmt b.fmt
  (List.range ((n + 63) / 64)).foldlM (fun _ g => do
    let lanes := min 64 (n - 64 * g)
    let fs0 := tileFaults env (inj.map fun x => (x.1, 0, x.2.2)) g
    let fs := fs0.filter fun f => (decide (f.row < lanes) || decide (f.row = 64)) && decide (f.col < batch)
      && decide (f.block < (p.klen + 15) / 16)
    let diff := fun blk v => fs.foldl (fun (d : Int) f =>
      if f.block = blk ∧ f.col = v then (if f.row = 64 then d - f.delta else d + f.delta) else d) 0
    let places := (sortNats (fs.map fun f => f.block * 16 + f.col)).filter fun q => diff (q / 16) (q % 16) ≠ 0
    match places with
    | [] => pure ()
    | q :: _ =>
      let blk := q / 16
      let base := (List.range lanes).foldl (fun (acc : Int) i =>
        acc + blockSum (a.rows.getD (q % 16) #[]) (b.rows.getD (64 * g + i) #[]) blk) 0
      let chk := fs.foldl (fun (acc : Int) f => if f.block = blk ∧ f.col = q % 16 ∧ f.row = 64 then acc + f.delta else acc) base
      stopAbft t 1 mode g
        { kind := 3, row := 0xFFFF, col := 0xFFFF, block := blk, plain := diff blk (q % 16), weighted := 0,
          injected := fs.any fun f => f.injected && decide (f.block = blk) } (chk + diff blk (q % 16)) chk) ()

/-! ### The products -/

/-- MATMUL, or MATVEC as the MATMUL of R164 with its operands exchanged. -/
def productBody (mv : Bool) (env : Env) (t : Task) : Run RunOut := do
  let d := t.d
  let p := if mv then MmParams.ofMatvec d.params else MmParams.ofMatmul d.params
  let o ← outTensor t (d.out 0) 0 false none
  let x0 ← opTensor t (d.inp 0)
  let len := p.len x0.laidCols
  let (ia, ib) := if mv then (1, 0) else (0, 1)
  let first ← loadSide env t 0 (if mv then p.row1 else p.row0) (if mv then o.cols else o.rows) p.k0 len
  let second ← loadSide env t 1 (if mv then p.row0 else p.row1) (if mv then o.rows else o.cols) p.k0 len
  let sa := if ia = 0 then first else second
  let sb := if ib = 0 then first else second
  let mode := modeOf sa.t.loc.fmt sb.t.loc.fmt
  let wide := decide (mode = 3)
  let a := sa.opnd p.k0 len wide
  let b := sb.opnd p.k0 len wide
  let rot := ((sa.tiles.head?.map fun e => (tileRec sa.t e.2).rot).getD 0)
  let s ← getS
  let c := t.ref.ctx.val
  let acc : AccParams :=
    { passes := if p.passes = 0 then 1 else p.passes, promote := p.promote, stoch := decide (2 ^ p.log2 ≤ len),
      key := rngKey (s.seed c) (s.stream c p.stream false) 0, klen := len, half := decide (rot = 2 ∨ rot = 4), faults := [] }
  let lanes := decide (mv ∧ t.level < 2)
  let inj ← takeInjection ((t.cluster.map fun c => c.val).getD 0) (if lanes then mvpTarget else arrayTarget)
  if lanes then checkMvp env inj t acc a b o.rows o.cols else checkArray env inj t acc a b o.rows o.cols
  let tn := (o.cols + 127) / 128
  let cells := (List.range o.rows).map fun i => (List.range o.cols).map fun j =>
    cellOut { acc with faults := cellFaults env inj wide tn i j } a b i j i j
  let y : Mat := (cells.map fun r => (r.map fun v => v.1).toArray).toArray
  let nfFlag : Array (Array Bool) := (cells.map fun r => (r.map fun v => v.2.2).toArray).toArray
  let ex := cells.foldl (fun e r => r.foldl (fun e v => e.add v.2.1) e) Exc.none
  let out ← writeLong env t (d.out 0) 1 y fun i j => !((nfFlag.getD i #[]).getD j false)
  match t.cluster with
  | none => pure ()
  | some n =>
    if mv ∧ t.level < 2 then modS (count (aClus n.val 0x20) (o.cols * ((len + 15) / 16)))
    else
      modS fun u =>
        let u1 := count (aClus n.val 8) ((o.rows + 127) / 128 * tn) u
        let k := u1.clus n.val
        u1.setClus n.val { k with mode := BitVec.ofNat 2 mode,
                                  bank := k.bank != decide (((o.rows + 127) / 128 * tn) % 2 = 1) }
  withRecords t (recordFaults first second p.k0 len) { res := Result.ofExc (ex.add out.ex) out.nf, undo := out.undo }

end Sys2Proof.Machine
end

