-- ==== Sys2Proof/Machine/VectorRuns.lean ====
section
/-! DEFINITION. VECTOR as a task (R172 to R194): its inputs broadcast over the task's shape, op lists and fused kernels,
the plausibility checks it reports, and its non-finite outputs. -/

namespace Sys2Proof.Machine

/-- A matrix broadcast over rows × cols where one of its dimensions is 1 (R172). -/
def broadcast (x : Mat) (xr xc rows cols : Nat) : Mat :=
  Mat.build rows cols fun r c => x.at (if xr = 1 then 0 else r) (if xc = 1 then 0 else c)

/-- The inputs of a VECTOR in slot order: matrix and shape, empty for an invalid slot; with the exceptions of their decoding and the
tiles whose records fail. -/
def vectorInputs (env : Env) (t : Task) : Run (List (Mat × Nat × Nat) × Exc × List (Nat × Nat)) :=
  (List.range 4).foldlM (fun (acc : List (Mat × Nat × Nat) × Exc × List (Nat × Nat)) i => do
    if (t.d.inp i).valid then do
      let x ← readIn env t 1 1 (t.d.inp i)
      pure (acc.1 ++ [(x.m, x.t.rows, x.t.cols)], acc.2.1.add x.ex, acc.2.2 ++ x.axisBad i)
    else pure (acc.1 ++ [(#[], 0, 0)], acc.2)) ([], Exc.none, [])

/-- The inputs of a kernel over the task's shape (R172, R189): the gradient, activation or output inputs are broadcast to rows × cols;
γ, β and the statistics keep their own columns. -/
def kernelInputs (kernel rows cols : Nat) (ins : List (Mat × Nat × Nat)) : List (Mat × Nat × Nat) :=
  let wide := if kernel = 1 ∨ kernel = 3 ∨ kernel = 5 then 1 else 2
  (List.range ins.length).map fun i =>
    let x := ins.getD i (#[], 0, 0)
    if x.2.1 = 0 then x
    else
      let n := if i < wide then cols else x.2.2
      (broadcast x.1 x.2.1 x.2.2 rows n, rows, n)

/-- Whether every element of row `r` of a matrix is finite. -/
def rowFinite (x : Mat) (r : Nat) : Bool := (x.getD r #[]).all fmt32.isFin

/-- Whether the inputs that OUT0's element (r, c) depends on are all finite (R193). -/
def vectorFine (p : VParams) (rowOps : Bool) (ins : List (Mat × Nat × Nat)) (r c : Nat) : Bool :=
  (List.range ins.length).all fun i =>
    let (m, xr, xc) := ins.getD i (#[], 0, 0)
    if xr = 0 then true
    else
      let row := if xr = 1 then 0 else r
      if p.kernel = 0 ∧ ¬ rowOps then fmt32.isFin (m.at row (if xc = 1 then 0 else c))
      else if p.kernel = 5 ∨ p.kernel = 6 then
        (List.range xc).all fun j => p.masked r j || fmt32.isFin (m.at row j)
      else if (p.kernel = 1 ∨ p.kernel = 3) ∧ 1 ≤ i then fmt32.isFin (m.at row c)
      else rowFinite m row

/-- Whether the inputs that OUT1's element (r, c) depends on are all finite (R189, R193); `cols` is N. -/
def vectorFine1 (p : VParams) (rowOps : Bool) (cols rows : Nat) (ins : List (Mat × Nat × Nat)) (r c : Nat) : Bool :=
  let get := fun i => (ins.getD i (#[], 0, 0)).1
  let band := (List.range (min 128 (rows - 128 * r))).map fun i => 128 * r + i
  match p.kernel with
  | 0 => vectorFine p rowOps ins r c
  | 2 => band.all fun i => fmt32.isFin ((get 0).at i c) && fmt32.isFin ((get 1).at i c) && fmt32.isFin ((get 3).at i 0)
  | 4 => band.all fun i => fmt32.isFin ((get 0).at i (c % cols)) && (decide (cols ≤ c)
      || (fmt32.isFin ((get 1).at i c) && rowFinite (get 3) i))
  | 5 => (List.range cols).all fun j => p.masked r j || fmt32.isFin ((get 0).at r j)
  | _ => rowFinite (get 0) r

/-- The check that the event of a failing task names: the lowest CHECK number. -/
def worstCheck : List VCheck → Option VCheck
  | [] => none
  | x :: t => match worstCheck t with
    | none => some x
    | some y => if y.check < x.check then some y else some x

/-- Report a failing VECTOR (R194, R410). -/
def reportChecks (t : Task) (cs : List VCheck) (s : State) : State :=
  match worstCheck cs with
  | none => s
  | some x =>
    let s1 := raisePlaus t x.check 0xFF x.row x.count x.observed x.bound s
    if x.check ≤ 3 then
      startDecision .plausibility [(t.cluster.map fun n => n.val).getD 0] (some t.ref) 0 0 (BitVec.ofNat 32 x.row) 0 0 s1
    else s1

/-- A VECTOR. DESIGN CHOICE: log entry 46. -/
def vectorBody (env : Env) (t : Task) : Run RunOut := do
  let d := t.d
  let c := t.ref.ctx.val
  let p := VParams.ofBytes d.params
  let o ← outTensor t (d.out 0) 0 false none
  let (ins, ei, bad) ← vectorInputs env t
  let s ← getS
  let ops := (opWords t.ext).map VOp.ofWord
  let rowOps := ops.any fun x => x.isRow
  let wide := if p.kernel = 0 then ins else kernelInputs p.kernel o.rows o.cols ins
  let out :=
    if p.kernel = 0 then
      let v : VEnv :=
        { bf := (fieldLe d.params 1 1).testBit 0, seed := s.seed c, drop := s.stream c (fieldLe d.params 0x10 4) false,
          img := fun fn => (NMap.find? (s.ctx c).funcs fn).getD [] }
      runOpList v p o.rows o.cols (ins.map fun x => if x.2.1 = 0 then Mat.build o.rows o.cols fun _ _ => 0
        else broadcast x.1 x.2.1 x.2.2 o.rows o.cols) ops (fieldLe t.ext 1 1) (fieldLe t.ext 2 1)
    else runKernel p o.rows o.cols (wide.map fun x => x.1) (d.out 1).valid
  let o0 ← writeLong env t (d.out 0) 2 out.out0 (vectorFine p rowOps wide)
  let o1 ← if (d.out 1).valid then writeLong env t (d.out 1) 2 out.out1 (vectorFine1 p rowOps o.cols o.rows wide)
    else pure { undo := [], ex := Exc.none, nf := none }
  modS (reportChecks t out.checks)
  let res := Result.ofExc (((ei.add out.ex).add o0.ex).add o1.ex) (firstNf o0.nf o1.nf)
  if out.checks.isEmpty then withRecords t bad { res := res, undo := o0.undo ++ o1.undo }
  else pure { res := { res with status := stPlausibility }, undo := o0.undo ++ o1.undo }

end Sys2Proof.Machine
end

