-- ==== Sys2Proof/Machine/TaskKinds.lean ====
section
/-! DEFINITION. The commands that run an issued task, one for each kind and OP (R49, R53, R126 to R212, R337). A command that
names no issued task of its kind and OP changes nothing: the event it stands for does not happen. -/

namespace Sys2Proof.Machine

/-- The answer of a command. -/
abbrev Answer := Host.Outcome State Fault Refusal

/-- Whether a descriptor is of a kind, whatever its OP. -/
def isKind (k : Nat) (d : Desc) : Bool := decide (d.kind = k)

/-- Whether a descriptor is of a kind with an OP (R173, R198, R337). -/
def isOp (k op : Nat) (d : Desc) : Bool := decide (d.kind = k) && decide (d.op = op)

/-- MATMUL (R126). -/
def execMatmul (task : TaskRef) (env : Env) (s : State) : Answer :=
  match s.task? task with
  | none => .next s
  | some t =>
    if s.rampWaits t then .next s
    else .next (runTask task (isKind kMatmul) (productBody false env) s)

/-- MATVEC (R145, R164): at level 2 its weights are BF16 and it runs on the array. -/
def execMatvec (task : TaskRef) (env : Env) (s : State) : Answer :=
  match s.task? task with
  | none => .next s
  | some t =>
    if s.rampWaits t then .next s
    else .next (runTask task (isKind kMatvec) (productBody true env) s)

/-- QUANTIZE (R100 to R125). -/
def execQuantize (task : TaskRef) (env : Env) (s : State) : Answer :=
  .next (runTask task (isKind kQuantize) (quantizeBody env) s)

/-- VECTOR with KERNEL OPLIST (R175 to R180). -/
def execOplist (task : TaskRef) (env : Env) (s : State) : Answer :=
  .next (runTask task (isOp kVector 0) (vectorBody env) s)

/-- RMSNORM_FWD (R190). -/
def execRmsnormFwd (task : TaskRef) (env : Env) (s : State) : Answer :=
  .next (runTask task (isOp kVector 1) (vectorBody env) s)

/-- RMSNORM_BWD (R190). -/
def execRmsnormBwd (task : TaskRef) (env : Env) (s : State) : Answer :=
  .next (runTask task (isOp kVector 2) (vectorBody env) s)

/-- LAYERNORM_FWD (R190). -/
def execLayernormFwd (task : TaskRef) (env : Env) (s : State) : Answer :=
  .next (runTask task (isOp kVector 3) (vectorBody env) s)

/-- LAYERNORM_BWD (R190). -/
def execLayernormBwd (task : TaskRef) (env : Env) (s : State) : Answer :=
  .next (runTask task (isOp kVector 4) (vectorBody env) s)

/-- SOFTMAX_FWD (R190). -/
def execSoftmaxFwd (task : TaskRef) (env : Env) (s : State) : Answer :=
  .next (runTask task (isOp kVector 5) (vectorBody env) s)

/-- SOFTMAX_BWD (R190). -/
def execSoftmaxBwd (task : TaskRef) (env : Env) (s : State) : Answer :=
  .next (runTask task (isOp kVector 6) (vectorBody env) s)

/-- COMPRESS (R209). -/
def execCompress (task : TaskRef) (env : Env) (s : State) : Answer :=
  .next (runTask task (isOp kOptimize 1) (compressBody env) s)

/-- NORM (R210). -/
def execNorm (task : TaskRef) (env : Env) (s : State) : Answer :=
  .next (runTask task (isOp kOptimize 2) (normBody env) s)

/-- UPDATE (R203 to R208). -/
def execUpdate (task : TaskRef) (env : Env) (s : State) : Answer :=
  .next (runTask task (isOp kOptimize 3) (updateBody env) s)

/-- REQUANT (R207). -/
def execRequant (task : TaskRef) (env : Env) (s : State) : Answer :=
  .next (runTask task (isOp kOptimize 4) (requantBody env) s)

/-- ALL_REDUCE (R337 to R339). -/
def execAllReduce (task : TaskRef) (env : Env) (s : State) : Answer :=
  .next (runWait task (isOp kCollective 1) (groupBody env) s)

/-- REDUCE_SCATTER (R337 to R339). -/
def execReduceScatter (task : TaskRef) (env : Env) (s : State) : Answer :=
  .next (runWait task (isOp kCollective 2) (groupBody env) s)

/-- ALL_GATHER (R337). -/
def execAllGather (task : TaskRef) (env : Env) (s : State) : Answer :=
  .next (runWait task (isOp kCollective 3) (groupBody env) s)

/-- BROADCAST (R337). -/
def execBroadcast (task : TaskRef) (env : Env) (s : State) : Answer :=
  .next (runWait task (isOp kCollective 4) (groupBody env) s)

/-- ALL_TO_ALL (R337). -/
def execAllToAll (task : TaskRef) (env : Env) (s : State) : Answer :=
  .next (runWait task (isOp kCollective 5) (groupBody env) s)

/-- SEND (R337). -/
def execSend (task : TaskRef) (env : Env) (s : State) : Answer :=
  .next (runWait task (isOp kCollective 6) (sendBody env) s)

/-- FETCH (R337): it reads nothing here, so no read of its own can fail. -/
def execFetch (task : TaskRef) (_ : Env) (s : State) : Answer :=
  .next (runWait task (isOp kCollective 7) fetchBody s)

/-- COL_WINDOW_OPEN (R340). -/
def execColWindowOpen (task : TaskRef) (s : State) : Answer := .next (colWindowOpen task s)

/-- COPY (R53). -/
def execCopy (task : TaskRef) (env : Env) (s : State) : Answer :=
  .next (runTask task (isKind kCopy) (copyBody env) s)

/-- EVENT (R53). -/
def execEvent (task : TaskRef) (s : State) : Answer := .next (runTask task (isKind kEvent) eventBody s)

/-- WAIT in COUNTER mode completes OK when the counter has reached TARGET (R53). -/
def execWaitCounter (task : TaskRef) (s : State) : Answer :=
  match s.task? task with
  | none => .next s
  | some t => if s.counterReached t then .next (runTask task (waitMode 1) (waitBody stOk) s) else .next s

/-- TIMEOUT of a WAIT in COUNTER mode expires first (R53). -/
def execWaitTimeout (task : TaskRef) (s : State) : Answer :=
  match s.task? task with
  | none => .next s
  | some t =>
    if t.deadline ≤ s.time then .next (runTask task (waitMode 1) (waitBody stFabricTimeout) s) else .next s

/-- WAIT in TIME mode completes when TIME has reached TARGET (R53). -/
def execWaitTime (task : TaskRef) (s : State) : Answer :=
  match s.task? task with
  | none => .next s
  | some t =>
    if fieldLe t.d.params 8 8 ≤ s.time.toNat then .next (runTask task (waitMode 2) (waitBody stOk) s) else .next s

end Sys2Proof.Machine
end

