-- ==== Sys2Proof/Machine/Segments.lean ====
section
/-! DEFINITION. Submission rings and tasks: taking and validating segments (R44, R45, R56 to R59, R280), predicates (R57),
dependences and issue (R52 to R55, R62, R63, R372), completion, the overrun limit, and ramps (R138). -/

namespace Sys2Proof.Machine

/-! ### Room (R44) -/

/-- Tasks in flight device-wide (GENG_INFLIGHT). -/
def State.inflightAll (s : State) : Nat := s.ctxs.foldl (fun n e => n + e.2.inflight) 0

/-- Slots that a segment needs: none where its TASK_COUNT is out of range, since it is rejected (R45). -/
def SegDesc.places (g : SegDesc) : Nat := if 16384 < g.count then 0 else g.count

/-- Slots that the tasks of a context take: those in flight, and those of the segments whose tables are being read. -/
def Ctx.slots (x : Ctx) : Nat :=
  x.inflight + (List.range 4).foldl (fun n r => n + match (x.ring r).taken with
    | some e => (SegDesc.ofBytes e).places
    | none => 0) 0

/-- CTX_TASK_QUOTA: values outside 1 to 65,536 clamp (R72). -/
def State.quota (s : State) (c : Nat) : Nat := clampNat (s.reg (aCtx c 0x24)).toNat 1 65536

/-- Slots held for the reserves of the other active contexts. -/
def State.reserved (s : State) (c : Nat) : Nat :=
  let r := min (s.reg (aGeng 8)).toNat 1024
  s.ctxs.foldl (fun n e =>
    if e.1 ≠ c ∧ (e.2.st = .active ∨ e.2.st = .quiescing) then n + (r - e.2.slots) else n) 0

/-- Whether `n` more tasks of a context fit: within its quota, and beside what the others use and may still claim. DEDUCED: log entry 41. -/
def State.room (s : State) (c n : Nat) : Bool :=
  decide ((s.ctx c).slots + n ≤ s.quota c)
    && decide (s.ctxs.foldl (fun m e => m + e.2.slots) 0 + n + s.reserved c ≤ 65536)

/-! ### Taking segments (R56, R58, R67) -/

/-- Whether the segments that AFTER names have been admitted (R58). -/
def State.afterMet (s : State) (c : Nat) (g : SegDesc) : Bool :=
  (List.range 4).all fun r =>
    !g.afterMask.testBit r
      || decide (((s.ring c r).expect - 1 - g.after.getD r 0).toNat < 2 ^ 31)

/-- Whether a context's submission rings are read: it is ACTIVE, GENG_EN is set, the device takes segments, and no quiet
period runs (R38, R60, R73, R380). -/
def State.admits (s : State) (c : Nat) : Bool :=
  decide ((s.ctx c).st = .active) && s.gengEn && decide (s.dev = .active) && !((s.ctx c).phase == 5)

/-- The entry that submission ring `r` can take now: none while another is being read. -/
def State.sqHead (s : State) (c r : Nat) : Option Bytes :=
  if s.admits c && (s.ring c r).taken.isNone then s.headEntry c r else none

/-- SEGMENT: the entry at the head is taken and the reading of its table begins. -/
def takeSegment (c r : Nat) (s : State) : State :=
  match s.sqHead c r with
  | none => s
  | some e =>
    let g := SegDesc.ofBytes e
    if ¬ checkOk e then ringError c r 3 s
    else if g.type = 0 ∨ ¬ s.room c g.places ∨ ¬ s.afterMet c g then s
    else
      let s1 := consume c r s
      s1.setRing c r { s1.ring c r with taken := some e }

/-- NOP: the entry is consumed and ignored. -/
def takeNop (c r : Nat) (s : State) : State :=
  match s.sqHead c r with
  | none => s
  | some e =>
    if ¬ checkOk e then ringError c r 3 s
    else if fieldLe e 0 1 = 0 then consume c r s
    else s

/-! ### Reading the table and the blocks (R59 step 3, R280) -/

/-- What reading gives: the tasks, a rejection, or an uncorrectable page-table entry. An uncorrectable read is DISCARDED with BAD_CHECK
(R280). -/
inductive ReadOut where
  | tasks (vs : List VTask)
  | reject (status : Byte) (detail : BitVec 16)
  | pte (dpa : Nat)

/-- A failed access at admission: only one that is a rights violation is ACCESS_VIOLATION (R59). -/
def readFail : MemErr → ReadOut
  | .access => .reject stAccess dNone
  | .fenced => .reject stDiscarded dNone
  | .pte a => .pte a

/-- A read of a table or a block: its bytes, or how the segment ends. -/
def fetchBlock (env : Env) (c va n : Nat) (s : State) : Except ReadOut Bytes × State :=
  match fetchVa env c va n s with
  | (.error e, s1) => (.error (readFail e), s1)
  | (.ok (_, some _), s1) => (.error (.reject stDiscarded dBadCheck), s1)
  | (.ok (b, none), s1) => (.ok b, s1)

/-- The extended block of a task: its header says how long it is. -/
def readBlock (env : Env) (c base : Nat) (d : Desc) (s : State) : Except ReadOut Bytes × State :=
  if ¬ d.readsExt then (.ok [], s)
  else
    let n := match s.readVa env c (base + d.ext) 64 with
      | .ok (h, none) => d.extLen (fieldLe h 0 1)
      | _ => 64
    fetchBlock env c (base + d.ext) n s

/-- The tasks of a table with their blocks. -/
def readBlocks (env : Env) (c base : Nat) : List Bytes → State → ReadOut × State
  | [], s => (.tasks [], s)
  | b :: t, s =>
    match readBlock env c base (Desc.ofBytes b) s with
    | (.error r, s1) => (r, s1)
    | (.ok ext, s1) =>
      match readBlocks env c base t s1 with
      | (.tasks vs, s2) => (.tasks ({ d := Desc.ofBytes b, ext := ext, raw := b } :: vs), s2)
      | (r, s2) => (r, s2)

/-- Cut a string into 64-byte lines. -/
def lines64 (n : Nat) (b : Bytes) : List Bytes := (List.range n).map fun i => sliceB b (64 * i) 64

/-- The table's lines; `table` is what companion memory returns. -/
def readLines (env : Env) (c : Nat) (g : SegDesc) (table : List Bytes) (s : State) : Except ReadOut (List Bytes) × State :=
  if g.inDevice then
    match fetchBlock env c g.table (64 * g.count) s with
    | (.error r, s1) => (.error r, s1)
    | (.ok b, s1) => (.ok (lines64 g.count b), s1)
  else if s.winAllows g.table (64 * g.count) false then (.ok ((List.range g.count).map fun i => sliceB (table.getD i []) 0 64), s)
  else (.error (.reject stAccess dNone), violation g.table s)

/-- The table and its blocks. DESIGN CHOICE: log entry 42. -/
def readTable (env : Env) (c : Nat) (g : SegDesc) (table : List Bytes) (s : State) : ReadOut × State :=
  match readLines env c g table s with
  | (.error r, s1) => (r, s1)
  | (.ok bs, s1) =>
    if (bs.any fun b => (Desc.ofBytes b).readsExt) ∧ g.paramBase % 64 ≠ 0 then (.reject stDiscarded dBadKind, s1)
    else readBlocks env c g.paramBase bs s1

/-! ### Admission (R59, R214, R229) -/

/-- The draw that decides sampling of output tile `j` of a MATMUL (R229), from an effective stream ID. DEDUCED: log entry 54. -/
def State.pipDraw (s : State) (c stream ring : Nat) (seg : Word) (index : Nat) (step : Dword) (j : Nat) : Bool :=
  let log2 := min (s.regField (aNumc c 0x1C) 4 0) 20
  let lane := ring * 2 ^ 30 + seg.toNat % 2 ^ 16 * 2 ^ 14 + index % 2 ^ 14
  log2 ≠ 0 && decide (draw (rngKey (s.seed c) stream lane) (step.toNat % 2 ^ 32 * 2 ^ 32 + j) < 2 ^ (32 - log2))

/-- NUMC_PIP_STREAM, where its class lets it sample: GENERAL or PIP (R247). -/
def State.pipStream (s : State) (c : Nat) : Option Nat :=
  let r := (s.reg (aNumc c 0x20)).toNat
  if refClass r = 0 ∨ refClass r = 6 then some r else none

/-- Output tiles of 128 × 128 of a shape (R129). -/
def outTiles (rows cols : Nat) : Nat := (rows + 127) / 128 * ((cols + 127) / 128)

/-- The sampled output tiles of a task as its admission decides them (R229). A stepped NUMC_PIP_STREAM is resolved when the task issues
(R248): until then every tile stands. -/
def State.pipTiles (s : State) (c ring : Nat) (seg : Word) (index : Nat) (step : Dword) (d : Desc) : List Nat :=
  if d.kind ≠ kMatmul ∨ d.noPip ∨ (d.out 0).reduce ∨ ¬ s.regBit (aNumc c 0) 3 then []
  else
    match s.pipStream c, (s.ctx c).handle? (d.out 0).handle with
    | some r, some h =>
      (List.range (outTiles h.rows h.cols)).filter fun j => refStepped r || s.pipDraw c r ring seg index step j
    | _, _ => []

/-- The sampled output tiles of a task that issues: a stepped NUMC_PIP_STREAM has its effective ID now (R246, R248). -/
def State.pipIssued (s : State) (t : Task) : List Nat :=
  let c := t.ref.ctx.val
  let r := (s.reg (aNumc c 0x20)).toNat
  if ¬ refStepped r then t.pip
  else t.pip.filter fun j => s.pipDraw c (s.stream c r false) t.ref.ring t.ref.seg t.ref.index t.step j

/-- The imported FOLIO inputs of a task, bound to the committed side and version of the source (R62). -/
def State.bindsOf (s : State) (c : Nat) (hs : List Nat) : List (Nat × Bind) :=
  hs.eraseDups.filterMap fun h =>
    match (s.ctx c).handle? h with
    | none => none
    | some d => if d.imported && d.folio then some (h, s.committed c h d) else none

/-- Steps of the tasks of a segment: those after a STEP_END belong to the next step (R372). -/
def stepsOf : Dword → List VTask → List Dword
  | _, [] => []
  | k, v :: t => k :: stepsOf (if v.d.kind = kStepEnd then k + 1 else k) t

/-- The step that a task admitted now belongs to. -/
def State.admitStep (s : State) (c : Nat) : Dword :=
  let n := ((s.ctx c).tasks.filter fun t => decide (t.d.kind = kStepEnd) && decide (s.stepOf c ≤ t.step)).length
  s.stepOf c + BitVec.ofNat 64 n

/-- The task records of an admitted segment. -/
def State.newTasks (s : State) (c : Fin 64) (r : Fin 4) (g : SegDesc) (vs : List VTask) : List Task :=
  let k : Look := { s := s, c := c, pend := [], tasks := vs }
  let os := orientsOf k vs
  let sts := steppedOf k vs
  let steps := stepsOf (s.admitStep c) vs
  (List.range vs.length).filterMap fun i => (vs[i]?).map fun v =>
    let step := steps.getD i 0
    let pip := s.pipTiles c r g.id i step v.d
    { ref := { ctx := c, ring := r, seg := g.id, index := i }, order := (s.ctx c).order + i, step := step,
      desc := v.raw, ext := v.ext, attempt := 0, level := 0, st := .queued, cluster := none, engine := none, trips := 0,
      superseded := false, deadline := 0, issuedAt := 0,
      stepped := sts.getD i false || (!pip.isEmpty && refStepped (s.reg (aNumc c 0x20)).toNat), verDue := none,
      orient := os.getD i false, binds := s.bindsOf c (taskReads v.d v.ext), undo := [], undoVers := [], pip := pip, pipRes := [], pipMax := 0, ledger := none,
      held := none, res := Result.empty }

/-- The group records of the layers of a segment whose repeat set is not empty (R214). -/
def newGroups (r : Fin 4) (seg : Word) (ts : List Task) : List Group :=
  ((ts.filter fun t => t.d.repeats).map fun t => (t.d.layer, t.step)).eraseDups.map fun e =>
    { ring := r, seg := seg, layer := BitVec.ofNat 16 e.1, step := e.2, start := none, level := 0, attempt := 0,
      causes := 0, causesRep := 0, first := none, due := false, settled := false, outcome := 0 }

/-- A rejected segment (R59): one segment record; the expected number advances except after BAD_SEQUENCE. -/
def rejectSegment (c r : Nat) (g : SegDesc) (status : Byte) (detail : BitVec 16) (s : State) : State :=
  let x := s.ring c r
  segmentRecord c g.cq status detail g.id
    (s.setRing c r { x with taken := none, expect := if detail = dBadSequence then x.expect else x.expect + 1 })

/-- A segment just admitted that a CANCEL before its admission names: its tasks complete DISCARDED (R64). DEDUCED: log entry 44. -/
def cancelAdmitted (c : Fin 64) (r : Fin 4) (id : Word) (s : State) : State :=
  let q := s.ring c r
  let due := q.cancel.filter fun e => newer e.2 id
  let s0 := s.setRing c r { q with cancel := due }
  if ¬ due.any fun e => !newer e.1 id then s0
  else
    let s1 := endTasks c (fun t => decide (t.ref.ring = r) && decide (t.ref.seg = id) && decide (t.st = .queued)) stDiscarded dCancelled s0
    castLost (s1.ctx c).tasks.length c s1

/-- An admitted segment (R58, R59). -/
def admitSegment (c : Fin 64) (r : Fin 4) (e : Bytes) (vs : List VTask) (s : State) : State :=
  let g := SegDesc.ofBytes e
  let ts := s.newTasks c r g vs
  let x := s.ctx c
  let q := x.ring r
  let ph := (Slot.ofWord g.predWord).handle
  let bind := if g.predicated then ((s.bindsOf c [ph]).find? fun b => b.1 = ph).map fun b => b.2 else none
  let seg : Segment := { ring := r, id := g.id, order := x.order, entry := e, closed := false, predWait := g.predicated, predBind := bind }
  let y := x.setRing r { q with taken := none, expect := q.expect + 1 }
  cancelAdmitted c r g.id
    (s.setCtx c { y with segs := y.segs ++ [seg], tasks := y.tasks ++ ts, groups := y.groups ++ newGroups r g.id ts,
                         order := y.order + ts.length, started := true })

/-- SEGMENT_VALIDATE (R59): an error that has stopped the ring meanwhile does not undo an entry taken before it (R67). -/
def segmentValidate (c : Fin 64) (r : Fin 4) (table : List Bytes) (env : Env) (s : State) : State :=
  let q := s.ring c r
  match q.taken with
  | none => s
  | some e =>
    let g := SegDesc.ofBytes e
    if ¬ s.admits c ∨ ¬ s.ringEn c r then s
    else if g.id ≠ q.expect then rejectSegment c r g stDiscarded dBadSequence s
    else
      match checkSegDesc e with
      | some d => rejectSegment c r g (rejectStatus d) d s
      | none =>
        match readTable env c g table s with
        | (.pte dpa, s1) =>
          let w : Who := { Who.ofCtx c with seq := g.id }
          killCtx c stInternal (raisePoisonConsumed w 1 c 4 0xFFFFFFFF dpa 0xFFFFFFFF (noteUe dpa s1))
        | (.reject st d, s1) => rejectSegment c r g st d s1
        | (.tasks vs, s1) =>
          match checkSegTasks { s := s1, c := c, pend := [], tasks := vs } g with
          | some d => rejectSegment c r g (rejectStatus d) d s1
          | none => admitSegment c r e vs s1

/-- SQ_RESUME (R44): the rings are read again, each while it has entries that fit. DESIGN CHOICE: log entry 15. -/
def sqResume (c : Nat) (s : State) : State := (List.range 4).foldl (fun t r => readEntries c r t) s

/-! ### Predicates (R57) -/

/-- Whether the predicate version of a segment is ready. -/
def State.predReady (s : State) (c : Nat) (g : Segment) : Bool :=
  let x := s.ctx c
  let h := (Slot.ofWord g.d.predWord).handle
  !((x.before g.order).any fun u =>
    (x.pendingIn u none || u.verDue.isSome) && (u.writes ++ s.implicitWrites c u).contains h)

/-- End every task of a segment (R57). -/
def endSegment (c : Nat) (g : Segment) (status : Byte) (detail : BitVec 16) (s : State) : State :=
  ((s.ctx c).tasks.filter fun t => g.holds t && decide (t.st = .queued)).foldl (fun u t => endTask t status detail u) s

/-- PREDICATE_DECIDE (R57). -/
def predicateDecide (c : Nat) (r : Fin 4) (id : Word) (s : State) : State :=
  let x := s.ctx c
  match x.segs.find? fun g => decide (g.ring = r) && decide (g.id = id) && g.predWait with
  | none => s
  | some g =>
    let h := (Slot.ofWord g.d.predWord).handle
    if ¬ s.predReady c g then s
    else
      let s1 := s.setCtx c { x with segs := x.segs.map fun k => if k.order = g.order then { k with predWait := false } else k }
      match (s1.readVer c h g.predBind).failed with
      | some st => closeSegments c (endSegment c g st dInherited s1)
      | none =>
        match s1.readTensor c h g.predBind with
        | none => closeSegments c (endSegment c g stAccess dInherited s1)
        | some t =>
          let w : Who := { Who.ofCtx c with seq := id }
          let (m, s2) := (readMat envQuiet w 1 1 t).run s1
          match m with
          | .ok (v, _) =>
            closeSegments c
              (if predHolds fmt32 g.d.predOp (v.at 0 0) g.d.predValue then s2 else endSegment c g stDiscarded dPredFalse s2)
          | .error e =>
            let s3 := closeSegments c (endSegment c g e.status dInherited s2)
            match e.kill with
            | some k => killCtx c k s3
            | none => s3

/-! ### Dependences (R52, R57, R62, R215, R229, R372) -/

/-- The wide source of an operand of a sampled MATMUL (R229). -/
def State.wideSource (s : State) (c h : Nat) : Nat :=
  let v := (s.ctx c).ver h
  match v.wide, v.copy with
  | some (g, _), _ => g
  | none, some r => r.master
  | none, none => h

/-- The handles that the pip checks of a task read: its wide sources, and the operands and the output themselves. -/
def State.pipReads (s : State) (u : Task) : List Nat :=
  (u.d.out 0).handle :: ([u.d.inp 0, u.d.inp 1]).flatMap fun x => [x.handle, s.wideSource u.ref.ctx x.handle]

/-- Whether a check that waits or runs, of a task before a place in the admission order, reads one of some handles (R229, R233). -/
def State.pipHolds (s : State) (c order : Nat) (hs : List Nat) : Bool :=
  let x := s.ctx c
  ((x.before order).filter fun u => !u.pip.isEmpty).any (fun u => meets (s.pipReads u) hs)
    || x.pipRuns.any fun e => decide (e.1.order < order) && meets (s.pipReads e.1) hs

/-- Whether an import of handle `h` of context `c` is bound to the side that a write of it goes to: by a task in flight of another
context, or by a predicate that waits (R57, R62). -/
def State.importersRead (s : State) (c h : Nat) : Bool :=
  let side := !(s.ctx c).side h
  let mine := fun (y : Ctx) (l : Nat) => match y.handle? l with
    | some d => decide (d.source = some (c, h)) && d.kept.isNone
    | none => false
  s.ctxs.any fun e =>
    (e.2.tasks.any fun u => u.isOpen && u.binds.any fun b => decide (b.2.side = side) && mine e.2 b.1)
      || e.2.segs.any fun g => g.predWait && mine e.2 (Slot.ofWord g.d.predWord).handle
          && match g.predBind with | some b => decide (b.side = side) | none => false

/-- Whether task `u` stands before task `t` by R52: a dependence through a handle, of which the one or the other writes its version. -/
def State.hazard (s : State) (u t : Task) : Bool :=
  let c := t.ref.ctx.val
  let x := s.ctx c
  let rd := t.reads ++ s.implicitReads c t
  let wr := t.writes ++ s.implicitWrites c t
  let uw := u.writes ++ s.implicitWrites c u
  ((x.pendingIn u (x.group? t) || u.verDue.isSome) && (meets uw rd || meets uw wr))
    || (x.pendingIn u (x.group? t) && meets (u.reads ++ s.implicitReads c u) wr)

/-- Whether a task may issue now as far as other tasks go, those that `skip` names left out. -/
def State.depsMetBut (s : State) (skip : Task → Bool) (t : Task) : Bool :=
  let c := t.ref.ctx.val
  let x := s.ctx c
  let own := x.group? t
  let earlier := (x.before t.order).filter fun u => !skip u
  let wr := t.writes ++ s.implicitWrites c t
  let hazard := (earlier.any fun u => s.hazard u t) || s.pipHolds c t.order wr
  let preds := x.segs.any fun g => g.predWait && decide (g.order ≤ t.order)
    && (g.holds t || wr.contains (Slot.ofWord g.d.predWord).handle)
  let fence := t.d.fence && earlier.any fun u => decide (u.ref.ring = t.ref.ring ∧ u.ref.seg = t.ref.seg ∧ u.st ≠ .complete)
  let stepEnd := decide (t.d.kind = kStepEnd) && (decide (t.step ≠ s.stepOf c)
    || earlier.any fun u => decide (u.d.kind ≠ kCheckpoint) && (x.pendingIn u none || u.verDue.isSome))
  let folio := decide (t.step ≠ s.stepOf c) && wr.any fun h => x.isFolio h
  let imports := wr.any fun h => x.isFolio h && s.importersRead c h
  let repeating := match own with | some g => g.due | none => false
  let pinned := s.faults.decisions.any fun d => match d.task with
    | none => false
    | some r => decide (r.ctx = t.ref.ctx) && match s.task? r with
      | none => false
      | some u => meets wr u.reads
  !(hazard || preds || fence || stepEnd || folio || imports || repeating || pinned)

/-- Whether a task may issue now as far as other tasks go (R52, R57, R62, R215, R229, R372). -/
def State.depsMet (s : State) (t : Task) : Bool := s.depsMetBut (fun _ => false) t

/-- The fused partner of a MATMUL (R186): the VECTOR that its extended block names. -/
def Ctx.partner? (x : Ctx) (t : Task) : Option Task :=
  if t.d.kind = kMatmul ∧ t.d.hasExt then
    x.task? { t.ref with index := fieldLe t.ext 2 2 }
  else none

/-- The tasks from a MATMUL on, before its partner, that wait for it directly or through one another. -/
def State.behind (s : State) (m v : Task) : List Nat :=
  ((s.ctx m.ref.ctx).before v.order).foldl (fun (l : List Nat) u =>
    if m.order < u.order ∧ ((s.ctx m.ref.ctx).tasks.any fun w => l.contains w.order && s.hazard w u) then l ++ [u.order] else l)
    [m.order]

/-- Whether the fused partner of a MATMUL is ready as far as tasks go that do not wait for the MATMUL itself (R187). DESIGN CHOICE: log entry 46. -/
def State.partnerReady (s : State) (m : Task) : Bool :=
  match (s.ctx m.ref.ctx).partner? m with
  | none => true
  | some v =>
    let late := s.behind m v
    decide (v.st ≠ .queued) || s.depsMetBut (fun u => late.contains u.order) v

/-- Whether cluster `n` can take a task of context `c` (R21, R135, R148, R407, R413): while its array or its MVP works, it keeps to one
context (R63). -/
def State.clusterFree (s : State) (c n kind level : Nat) : Bool :=
  let k := s.clus n
  s.clusEn && !s.regBit (aClus n 0) 1 && !k.reset && !k.heldBack && !(s.faults.decisions.any fun d => d.clusters.contains n)
    && (if kind = kMatvec ∧ level < 2 then !k.mvpBusy else !k.busy)
    && (!(k.busy || k.mvpBusy) || decide (k.lastCtx = some c))

/-- The quire of a cluster. -/
def quireFin (n : Fin 512) : Fin 32 := ⟨n.val / 16, by omega⟩

/-- Whether an update engine is in service: its quire is not in reset (R202, R420). -/
def State.engineUp (s : State) (q : Fin 32) : Bool := (List.range 16).any fun i => !(s.clus (16 * q.val + i)).reset

/-- The status of a failed input version (R55). -/
def State.inheritedOf (s : State) (t : Task) : Option Byte :=
  t.reads.findSome? fun h => (s.readVer t.ref.ctx h (t.bindOf h)).failed

/-! ### Issue (R52 to R55, R63, R138, R219) -/

/-- GENG_TASK_LIMIT in ns. DEDUCED: log entry 45. -/
def State.taskLimitNs (s : State) : Nat := clampNat (s.reg (aGeng 4)).toNat 2000 16000 * 1000

/-- The quire of a cluster (R21). -/
def quireOf (n : Nat) : Nat := n / 16

/-- Requests waiting in a quire, in order of arrival. -/
def State.rampQueue (s : State) (q : Nat) : List Nat := NMap.get (fun _ => []) s.ramps q

/-- Ask for a ramp (R138). -/
def askRamp (n : Nat) (s : State) : State :=
  { s with ramps := NMap.set (fun _ => []) s.ramps (quireOf n) (s.rampQueue (quireOf n) ++ [n]) }

/-- The row groups of 16 that an output of some rows uses (R136). -/
def groupMask (rows : Nat) : Byte := BitVec.ofNat 8 (2 ^ min 8 ((rows + 15) / 16) - 1)

/-- The row groups that a task's tiles use. -/
def State.taskGroups (s : State) (t : Task) : Byte :=
  match (s.ctx t.ref.ctx).handle? (t.d.out 0).handle with
  | some h => groupMask h.rows
  | none => 0

/-- The mode that the operands of an array task select (R130), those actually used in a repeat (R148, R222). -/
def State.taskMode (s : State) (t : Task) : Nat :=
  let fmtOf := fun i =>
    let h := (t.d.inp i).handle
    match s.repeatCopy t h, s.readTensor t.ref.ctx h (t.bindOf h) with
    | some (_, y), _ => y.loc.fmt
    | none, some y => y.loc.fmt
    | none, none => Fmt.f32
  modeOf (fmtOf 0) (fmtOf 1)

/-- Whether a cluster has a ramp pending or under way: it has at most one (R138). -/
def State.rampPending (s : State) (n : Nat) : Bool := (s.clus n).ramping || (s.rampQueue (quireOf n)).contains n

/-- A run ends (R135): its ramp-down is asked for (R138). -/
def endRun (n : Nat) (s : State) : State := askRamp n (s.setClus n { s.clus n with run := false, rampDown := true, mode := 0 })

/-- An array task is placed on cluster `n`: it joins the run in progress if its mode is the run's and its row groups are enabled. A group
gated so far waits for a grant (R136); the tile of another mode ends the run (R135); and the first tile of a run waits for its ramp-up,
asked for once no ramp-down is pending (R138). -/
def joinRun (t : Task) (n : Nat) (s : State) : State :=
  let k := s.clus n
  let wait := fun (u : State) => u.setClus n { u.clus n with rampWait := true }
  if k.run && decide (k.mode.toNat = s.taskMode t) then
    if s.taskGroups t &&& ~~~k.groups = 0 ∨ s.rampPending n then s else askRamp n (wait s)
  else if k.run then (if s.rampPending n then wait s else wait (endRun n s))
  else if s.rampPending n then wait s
  else askRamp n (wait s)

/-- Place a task on a cluster (R63, R136, R138). -/
def placeTask (t : Task) (n : Fin 512) (s : State) : State :=
  let k := s.clus n
  let c := t.ref.ctx.val
  let s1 := if k.lastCtx.isSome ∧ k.lastCtx ≠ some c then count (aGeng 0x20) 1 s else s
  if t.d.kind = kMatvec ∧ t.level < 2 then s1.setClus n { k with mvpBusy := true, lastCtx := some c }
  else if ¬ onArray t.d.kind t.level then s1.setClus n { k with busy := true, lastCtx := some c }
  else joinRun t n (s1.setClus n { k with busy := true, ctx := BitVec.ofNat 8 c, lastCtx := some c })

/-- The group of a task once it issues: its start level is fixed by the first issue (R219). -/
def fixLevel (t : Task) (s : State) : State × Nat :=
  let c := t.ref.ctx.val
  match (s.ctx c).group? t with
  | none => (s, 0)
  | some g =>
    if g.start.isSome then (s, g.level)
    else
      let l := s.startLevel c g.layer.toNat g.step
      let s1 := if s.layerShort c g.layer.toNat then setNumcStatus c 2 true s else s
      (s1.setCtx c ((s1.ctx c).setGroup { g with start := some l, level := l }), l)

/-- The stream references that a task resolves when it issues (R248). -/
def State.taskStreams (s : State) (t : Task) : List Nat :=
  let c := t.ref.ctx.val
  let cols := match s.readTensor c (t.d.inp 0).handle (t.bindOf (t.d.inp 0).handle) with | some x => x.laidCols | none => 0
  ((taskRefs t.d t.ext cols).map fun r => r.1) ++ if t.pip.isEmpty then [] else (s.pipStream c).toList

/-- How the reads of a task's tables are named in POISON_CONSUMED and TILE_CHECKSUM (R290): the update engine for an OPTIMIZE. -/
def tableConsumer (kind : Nat) : Nat := if kind = kOptimize then 2 else 1
def tableUse (kind : Nat) : Nat := if kind = kOptimize then 3 else 1

/-- TASK_ISSUE: on cluster `n`, or for an OPTIMIZE on the update engine of its quire (R202). DEDUCED: log entries 44 and 84. -/
def taskIssue (task : TaskRef) (n : Fin 512) (s : State) : State :=
  match s.task? task with
  | none => s
  | some t =>
    let c := task.ctx.val
    let x := s.ctx c
    if t.st ≠ .queued ∨ t.superseded ∨ (x.st ≠ .active ∧ x.st ≠ .quiescing) ∨ s.cqBufFull c
        ∨ ¬ x.lateWords.isEmpty ∨ ¬ s.depsMet t ∨ ¬ s.partnerReady t then s
    else
      match s.inheritedOf t with
      | some st => endTask t st dInherited s
      | none =>
        let layer := if t.d.repeats ∧ t.attempt = 0 then some t.d.layer else none
        match (readTables t.who (tableConsumer t.d.kind) (tableUse t.d.kind) (s.taskStreams t) layer).run s with
        | (.error e, s0) =>
          let s1 := endTask t e.status e.detail s0
          (match e.kill with | some k => killCtx c k s1 | none => s1)
        | (.ok _, s0) =>
        let (s1, level) := fixLevel t s0
        let onCluster := kindOnCluster t.d.kind
        if (onCluster ∧ ¬ s.clusterFree c n t.d.kind level) ∨ (t.d.kind = kOptimize ∧ ¬ s.engineUp (quireFin n)) then s
        else
          let wait := if onCluster then s.taskLimitNs else if t.d.kind = kWait ∧ t.d.op = 1 then waitNs t.d else 0
          let t1 := { t with st := .issued, level := level, cluster := if onCluster then some n else none,
                             engine := if t.d.kind = kOptimize then some (quireFin n) else none,
                             deadline := s.time + BitVec.ofNat 64 wait, issuedAt := s.time, pip := s.pipIssued t }
          let s2 := count (aGeng 0x18) 1 (s1.setTask t1)
          if onCluster then placeTask t1 n s2 else s2

/-! ### Completion and overrun (R54, R70) -/

/-- TASK_COMPLETE. -/
def taskComplete (task : TaskRef) (ns : Word) (s : State) : State :=
  match s.task? task with
  | none => s
  | some t =>
    if t.st = .ran ∧ (s.ctx task.ctx).st.isActive then
      finishRun t (if kindOnCluster t.d.kind then ns else 0) (closeOps task s)
    else s

/-! ### Ramps (R138) -/

/-- The row groups that the tasks placed on a cluster's array use. -/
def State.neededGroups (s : State) (n : Nat) : Byte :=
  s.ctxs.foldl (fun m e => e.2.tasks.foldl (fun m t =>
    if (t.st = .issued ∨ t.st = .ran) ∧ (t.cluster.map fun x => x.val) = some n ∧ onArray t.d.kind t.level then m ||| s.taskGroups t else m) m) 0

/-- A ramp of cluster `n` has taken its window. A ramp-down leaves the array idle, and a run that waits asks for its ramp-up; a ramp-up
or a group enable has enabled the groups that the tiles need. -/
def rampDone (n : Nat) (s : State) : State :=
  let k := s.clus n
  if ¬ k.ramping then s
  else if k.rampDown then
    let s1 := s.setClus n { k with ramping := false, rampDown := false, groups := 0, bank := false }
    if k.rampWait then askRamp n s1 else s1
  else s.setClus n { k with ramping := false, groups := k.groups ||| s.neededGroups n }

/-- The request of cluster `n` is granted: a ramp-down begins, or a run does, or the groups it waits for are being enabled. -/
def rampBegin (n : Nat) (s : State) : State :=
  let k := s.clus n
  if ¬ k.rampDown ∧ ¬ k.rampWait then s
  else s.setClus n (if k.rampDown then { k with ramping := true } else { k with ramping := true, run := true, rampWait := false })

/-- RAMP_GRANT: ramps under way in the quire have taken their window; up to four requests begin. -/
def rampGrant (q : Nat) (s : State) : State :=
  let s1 := ((List.range 16).map fun i => 16 * q + i).foldl (fun u n => rampDone n u) s
  let queue := s1.rampQueue q
  let s2 := (queue.take 4).foldl (fun u n => rampBegin n u) s1
  { s2 with ramps := NMap.set (fun _ => []) s2.ramps q (queue.drop 4) }

/-- RUN_END (R135): the tile queue has been empty for 512 cycles, and the ramp-down is asked for. -/
def runEnd (n : Nat) (s : State) : State :=
  let k := s.clus n
  if ¬ k.run ∨ k.ctx ≠ 0xFF ∨ s.rampPending n then s else endRun n s

/-! ### Commands -/

/-- SEGMENT. -/
def execSegment (ctx : Fin 64) (ring : Fin 4) (s : State) : Answer := .next (takeSegment ctx ring s)

/-- NOP. -/
def execNop (ctx : Fin 64) (ring : Fin 4) (s : State) : Answer := .next (takeNop ctx ring s)

/-- SEGMENT_VALIDATE. -/
def execSegmentValidate (ctx : Fin 64) (ring : Fin 4) (table : List Bytes) (env : Env) (s : State) : Answer :=
  .next (segmentValidate ctx ring table env s)

/-- PREDICATE_DECIDE. -/
def execPredicateDecide (ctx : Fin 64) (ring : Fin 4) (seg : Word) (s : State) : Answer :=
  .next (predicateDecide ctx ring seg s)

/-- SQ_RESUME. -/
def execSqResume (ctx : Fin 64) (s : State) : Answer := .next (sqResume ctx s)

/-- TASK_ISSUE. -/
def execTaskIssue (task : TaskRef) (cluster : Fin 512) (s : State) : Answer := .next (taskIssue task cluster s)

/-- TASK_COMPLETE. -/
def execTaskComplete (task : TaskRef) (clusterNs : Word) (s : State) : Answer := .next (taskComplete task clusterNs s)

/-- RAMP_GRANT. -/
def execRampGrant (quire : Fin 32) (s : State) : Answer := .next (rampGrant quire s)

/-- RUN_END. -/
def execRunEnd (cluster : Fin 512) (s : State) : Answer := .next (runEnd cluster s)

end Sys2Proof.Machine
end

