-- ==== Sys2Proof/Machine/RegRead.lean ====
section
/-! DEFINITION. What registers read as (R466 to R477): the value of every register, those that show a state of the machine
computed from it, the shadow of a pair (R472), and reads through aliases (R473 to R476). -/

namespace Sys2Proof.Machine

/-! ### Fields -/

/-- Put bits together: value and position. -/
def packBits (fs : List (Nat × Nat)) : Word := BitVec.ofNat 32 (fs.foldl (fun n f => n + f.1 * 2 ^ f.2) 0)

/-- A bit as a number. -/
def bit (b : Bool) : Nat := if b then 1 else 0

/-- The half of a 64-bit value that a row shows. -/
def halfOf (h : Half) (v : Nat) : Word := BitVec.ofNat 32 (if h = .hi then v / 2 ^ 32 else v)

/-- Word `k` of a value. -/
def wordOf (k v : Nat) : Word := BitVec.ofNat 32 (v / 2 ^ (32 * k))

/-! ### What the blocks show -/

/-- GCTL (R477). -/
def State.gctlReg (s : State) (off k : Nat) (h : Half) : Word :=
  match off with
  | 0x000 => packBits [(match s.part with | .h768 => 1 | .h576 => 2, 0), (0xB1, 8), (0xFD51, 16)]
  | 0x004 => packBits [(s.part.gib, 0), (12, 8), (512, 16)]
  | 0x014 => packBits [(s.dev.code, 0), (s.prev.code, 4), (s.activeCtxs.length, 8), (bit s.locked, 15)]
  | 0x018 | 0x01C => halfOf h s.devSince.toNat
  | 0x040 => BitVec.ofNat 32 (fieldLe s.partRecord (0x10 + 4 * k) 4)
  | _ => 0

/-- RSTC (R433). -/
def State.rstcReg (s : State) (off : Nat) : Word :=
  match off with
  | 0x008 => packBits [(min 15 s.flash.start.failed, 0), (s.flash.start.limit, 4), (min 65535 s.flash.start.starts, 16)]
  | 0x020 => packBits [(bit !s.faults.resets.isEmpty, 0), (bit (s.faults.resets.any fun r => decide (r.source = 6)), 1),
      (bit !s.faults.decisions.isEmpty, 2), (bit !s.power.refNet, 3)]
  | 0x024 => s.flash.health
  | 0x028 => packBits ((List.range 4).map fun d => (s.sparesLeft d, 4 * d))
  | 0x02C => s.flash.coreMask.setWidth 32
  | _ => 0

/-- The highest SEQ appended. -/
def State.headSeq (s : State) : Dword := s.audit.next - 1

/-- AUDT (R464). -/
def State.audtReg (s : State) (off k : Nat) (h : Half) : Word :=
  match off with
  | 0x000 | 0x004 => halfOf h s.headSeq.toNat
  | 0x008 => wordOf k s.audit.chain.toNat
  | 0x018 | 0x01C => halfOf h s.audit.drained.toNat
  | 0x030 | 0x034 => halfOf h (match s.flash.auditArea with | [] => 0 | e :: _ => e.seq.toNat)
  | 0x038 => packBits [(bit s.auditFull, 0), (bit !s.audit.reserve.isEmpty, 1), (bit (s.twin.state == 2), 2),
      (bit s.audit.drainFailed, 3)]
  | 0x03C => BitVec.ofNat 32 s.audit.reserve.length
  | 0x080 => match s.audit.rdEntry with
    | none => 0
    | some e => wordOf k (leNat e.bytes)
  | _ => 0

/-- SECU (R463). -/
def State.secuReg (s : State) (off k : Nat) (h : Half) : Word :=
  let x := s.secu
  match off with
  | 0x000 => packBits [(if s.dev = .recovery then 7 else s.boot.stage.toNat, 0), (s.boot.booted.toNat, 3),
      (bit s.boot.pufOk, 5), (bit (x.caps != 0), 6), (bit x.activateAt.isSome, 7)]
  | 0x004 => x.svn
  | 0x008 | 0x00C => halfOf h (match x.config with | some c => c.serial.toNat | none => 0)
  | 0x060 => wordOf k x.dbgNonce.toNat
  | _ => 0

/-- BNDY (R366). -/
def State.bndyReg (s : State) (off : Nat) : Word :=
  let x := s.bndy
  match off with
  | 0x000 => packBits [(bit x.winPending, 0), (bit x.clampTherm, 1), (bit x.clampPower, 2), (bit x.trip, 3), (bit x.desc.isSome, 4)]
  | 0x01C => packBits [(x.descResult.toNat, 0), (x.descJob.toNat, 16)]
  | 0x028 => x.txClamp.setWidth 32
  | _ => 0

/-- CTXR: registers of a context and its rings (R72). -/
def State.ctxrReg (s : State) (c off k : Nat) (stored : Word) : Word :=
  let x := s.ctx c
  match off with
  | 0x000 => packBits [(bit (x.st ≠ .invalid), 0), (bit (x.st = .quiescing), 1)]
  | 0x004 => packBits [(x.st.code, 0), (x.killCause.toNat, 4), (bit x.overcommit, 12)]
  | 0x028 => BitVec.ofNat 32 x.inflight
  | 0x11C => (x.ring k).devPtr
  | 0x120 => packBits [(bit (x.ring k).err, 0), ((x.ring k).errCause.toNat, 1), (bit (decide (4 ≤ k ∧ k ≤ 6) && s.ringFull c k), 4)]
  | _ => stored

/-- Defined and imported handles (GENG_HANDLES_LIVE). -/
def State.handlesLive (s : State) : Nat := s.ctxs.foldl (fun n e => n + e.2.handles.length) 0

/-- Bytes of a handle's shadow (R221). -/
def Handle.shadowBytes (d : Handle) : Nat :=
  let k : Fmt := { elem := 2, husks := false, block32 := false }
  (k.gridBoth d.rows d.cols * 8256 + 65535) / 65536 * 65536

/-- The 2 MiB pages that hold shadows (NUMC_ARENA_USED). -/
def Ctx.arenaUsed (x : Ctx) : Nat :=
  ((x.handles.flatMap fun e => match e.2.shadow with
    | none => []
    | some a => (List.range ((a % 2 ^ 21 + e.2.shadowBytes + 2 ^ 21 - 1) / 2 ^ 21)).map fun i => a / 2 ^ 21 + i).eraseDups).length

/-- The packets of an epoch that the device holds (R329). -/
def State.epochHeld (s : State) (e : Bool) : Nat :=
  (s.fabric.ports.flatMap fun p => p.2.queue.filter fun q => q.v0.isNone && q.pkt.epoch == e).length
    + (s.fabric.delivered.filter fun d => d.pkt.epoch == e).length

/-- COMT_STATUS.PHASE: RUNNING while the step under way has tasks in flight (R400). DEDUCED: log entry 59. -/
def State.phaseNow (s : State) (c : Nat) : Nat :=
  let x := s.ctx c
  if x.phase = 0 ∧ (x.tasks.any fun t => t.isOpen && decide (t.step = s.stepOf c)) then 1 else x.phase.toNat

/-- Whether a D5, D6 or D7 reset of a unit, or the hold that follows one, is under way. -/
def State.unitReset (s : State) (domain unit : Nat) : Bool :=
  s.faults.resets.any fun r => decide (r.domain = domain) && decide (r.unit = unit)

/-- MRGN_STATUS.VOTE_WINDOW (R288): from the moment a STEP_END becomes ready until its outcome is known. -/
def State.voteWindow (s : State) : Bool :=
  s.ctxs.any fun e => (decide (2 ≤ e.2.phase.toNat) && decide (e.2.phase.toNat ≤ 4))
    || e.2.tasks.any fun t => decide (t.d.kind = kStepEnd) && decide (t.st = .issued)

/-- CLUS (R148). -/
def State.clusReg (s : State) (n off : Nat) (stored : Word) : Word :=
  let k := s.clus n
  match off with
  | 0x000 => packBits [(bit (s.unitReset 5 n || k.heldBack), 0), (bit (stored.getLsbD 1), 1)]
  | 0x004 => packBits [(bit k.run, 0), (bit k.bank, 1), (k.mode.toNat, 2), (bit k.ramping, 4),
      (bit ((NMap.get (fun _ => []) s.ramps (n / 16)).contains n), 5), (bit (s.regBit (aClus n 0) 1 && !k.busy && !k.mvpBusy), 6), (bit k.mvpBusy, 7), (k.ctx.toNat, 8),
      (k.groups.toNat, 16), (bit k.armed, 24)]
  | _ => stored

/-- Redirects of a stack. -/
def State.redirectsOf (s : State) (n : Nat) : List Redirect := s.flash.redirects.filter fun r => decide (r.stack = n)

/-- HBMC (R291). -/
def State.hbmcReg (s : State) (n off k : Nat) (stored : Word) : Word :=
  let x := s.stack n
  match off with
  | 0x000 => packBits [(bit (s.unitReset 6 n), 0)]
  | 0x004 => packBits [(x.state.toNat, 0), (bit x.hot, 3), (bit x.move.isSome, 4), (x.temp.toNat % 256, 8)]
  | 0x008 => packBits [(s.part.gib, 0), (8, 8)]
  | 0x028 => packBits [(stored.toNat % 65536, 0), ((s.flash.rows.filter fun r => decide (r.stack = n) && r.hard).length % 65536, 16)]
  | 0x02C => packBits [(8 - min 8 (s.redirectsOf n).length, 0), (min 255 x.retired, 8)]
  | 0x100 => match (s.redirectsOf n).find? fun r => decide (r.spare.toNat = k) with
    | none => 0
    | some r => packBits [(r.frame.toNat, 0), (r.spare.toNat, 19), (1, 31)]
  | _ => stored

/-- FABR_TIME_STATUS.SOURCE (R314): the source that TIME follows now. -/
def State.timeSource (s : State) : Nat :=
  let slave := s.fabric.ports.any fun e => e.2.ptpSlave
  let edge := (s.reg64 (aFabr 0x60)).toNat
  let pulses := s.regBit (aFabr 0x54) 2 && decide (0 < edge) && decide (s.time.toNat < edge + 2000000000)
  match s.regField (aFabr 0x54) 1 0 with
  | 0 => if slave && s.regBit (aFabr 0x58) 2 then 1 else if pulses then 2 else 0
  | 1 => if slave then 1 else 0
  | 2 => if pulses then 2 else 0
  | _ => 0

/-- FABR (R318, R342). -/
def State.fabrReg (s : State) (off : Nat) (h : Half) (stored : Word) : Word :=
  match off with
  | 0x040 | 0x044 => halfOf h s.time.toNat
  | 0x058 => packBits [(s.timeSource, 0), (stored.toNat / 4 % 16, 2)]
  | 0x200 => packBits [(stored.toNat % 2, 0), (bit (decide (s.epochHeld (!stored.getLsbD 0) ≠ 0)), 8)]
  | 0x218 => BitVec.ofNat 32 (s.epochHeld false)
  | 0x21C => BitVec.ofNat 32 (s.epochHeld true)
  | 0x23C => BitVec.ofNat 32 s.turnUsed
  | 0x260 => packBits [(min 65535 (s.fabric.rx.length / 4), 0), (min 65535 (s.fabric.tx.length / 4), 16)]
  | 0x264 => BitVec.ofNat 32 s.fabric.windows.length
  | _ => stored

/-- Fabric ports (R319); the timestamp latencies are the part record's (R446). -/
def State.portReg (s : State) (p off : Nat) (stored : Word) : Word :=
  let x := s.port p
  match off with
  | 0x000 =>
    let up := decide (p = 6 ∨ p = 7)
    packBits [(stored.toNat % 64 / 8 * 8 + stored.toNat % 2, 0), (bit (s.unitReset 7 p), 1), (bit (up || stored.getLsbD 2), 2)]
  | 0x004 => packBits [(x.state.toNat, 0), (bit x.halfInUse, 3), (bit x.pcsLock, 4), (bit x.anDone, 5), (bit x.ptpSlave, 6),
      (x.laneFail.toNat, 8)]
  | 0x03C => s.portLat p false
  | 0x040 => s.portLat p true
  | _ => stored

/-- TRPL (R365). -/
def State.trplReg (s : State) (off : Nat) (stored : Word) : Word :=
  match off with
  | 0x004 => packBits [(s.trepel.state.toNat, 0), (s.trepel.width.toNat, 2), (s.trepel.laneFail.toNat, 16)]
  | 0x020 => BitVec.ofNat 32 s.trepel.cache.length
  | 0x024 => BitVec.ofNat 32 s.trepel.watch.length
  | _ => stored

/-- FLSH (R401). -/
def State.flshReg (s : State) (off : Nat) (stored : Word) : Word :=
  match off with
  | 0x004 => packBits [(bit s.flshEn, 0), (bit (s.ctxs.any fun e => e.2.ckp.isSome), 1), (if s.flshEn then 255 else 0, 8)]
  | 0x030 => BitVec.ofNat 32 (s.flash.images.filter fun i => i.durable).length
  | _ => stored

/-! ### The value of a register -/

/-- What the register at a location reads as, on no particular path. -/
def State.locValue (s : State) (l : RegLoc) (a : Nat) : Word :=
  let off := l.row.off
  let stored := s.reg a
  match l.blk with
  | .gctl => if off ∈ [0x000, 0x004, 0x014, 0x018, 0x01C, 0x040] then s.gctlReg off l.k l.row.half else stored
  | .rstc => if off ∈ [0x008, 0x020, 0x024, 0x028, 0x02C] then s.rstcReg off else stored
  | .audt => if off ∈ [0x000, 0x004, 0x008, 0x018, 0x01C, 0x030, 0x034, 0x038, 0x03C, 0x080] then s.audtReg off l.k l.row.half
    else stored
  | .secu => if off ∈ [0x000, 0x004, 0x008, 0x00C, 0x060] then s.secuReg off l.k l.row.half else stored
  | .bndy => if off ∈ [0x000, 0x01C, 0x028] then s.bndyReg off else stored
  | .ctxr => s.ctxrReg l.inst off l.k stored
  | .geng => match off with
    | 0x00C => BitVec.ofNat 32 s.inflightAll
    | 0x010 => BitVec.ofNat 32 s.handlesLive
    | _ => stored
  | .numc => if off = 0x03C then BitVec.ofNat 32 (s.ctx l.inst).arenaUsed else stored
  | .rngs => match off with
    | 0x030 | 0x034 => halfOf l.row.half (((s.ctx l.inst).cursorOf (s.stepOf l.inst)).getD 0).toNat
    | 0x050 => packBits [(bit ((s.ctx l.inst).cursorOf (s.stepOf l.inst)).isSome, 0), (bit (stored.getLsbD 1), 1),
        (bit (s.ctx l.inst).realign, 2)]
    | _ => stored
  | .probe => if off = 0x01C then packBits [(bit s.probe.isSome, 0)] else stored
  | .comt => match off with
    | 0x000 => packBits [(bit (s.ctx l.inst).abortArmed, 0), (bit (stored.getLsbD 3), 3)]
    | 0x004 => packBits [(s.phaseNow l.inst, 0), (bit (s.ctx l.inst).mapSel, 3), ((s.ctx l.inst).tries, 4),
        (bit (s.ctx l.inst).mapValid, 8)]
    | _ => stored
  | .comtDev => match off with
    | 0x004 => packBits [(s.twin.state.toNat, 0), (bit s.twin.correlated, 3), (s.power.straps.feedId.toNat, 4), (s.twin.feed.toNat, 8)]
    | 0x008 => s.twin.coord.setWidth 32
    | _ => stored
  | .clus => s.clusReg l.inst off stored
  | .hbmc => s.hbmcReg l.inst off l.k stored
  | .fabr => s.fabrReg off l.row.half stored
  | .port => s.portReg l.inst off stored
  | .trpl => s.trplReg off stored
  | .flsh => s.flshReg off stored
  | .mrgn => if off = 0x018 then packBits [(bit s.voteWindow, 0), (stored.toNat / 2 % 4, 1)] else stored
  | .clusMask | .hbmcMask | .portMask => stored

/-- The register at an address: reserved offsets read 0 (R469). -/
def State.regValue (s : State) (a : Nat) : Word :=
  match locate a with
  | none => 0
  | some l => s.locValue l a

/-! ### Aliases (R473 to R476) -/

/-- An alias access: the block (1 CLUS, 2 HBMC, 3 ports), the alias (0 to 15 a group, 16 broadcast), and the offset. -/
structure AliasAt where
  block : Nat
  sel : Nat
  off : Nat
  deriving DecidableEq, Repr

/-- The alias that an address names, with the offsets it reaches (R473). -/
def findAlias (a : Nat) : Option AliasAt :=
  let one := fun (block base reach : Nat) => if base ≤ a ∧ a < base + reach then some { block := block, sel := 16, off := a - base : AliasAt } else none
  let grp := fun (block base reach : Nat) =>
    if base ≤ a ∧ a < base + 16 * 0x1000 ∧ (a - base) % 0x1000 < reach then
      some { block := block, sel := (a - base) / 0x1000, off := (a - base) % 0x1000 : AliasAt }
    else none
  ((((one 1 0x1800000 0x44).or (grp 1 0x1810000 0x44)).or (one 2 0x20F0000 0x50)).or (grp 2 0x20E0000 0x50)).or
    ((one 3 0x301F000 0x100).or (grp 3 0x3020000 0x100))

/-- The members of an alias. -/
def State.aliasMembers (s : State) (x : AliasAt) : List Nat :=
  match x.block with
  | 1 => (List.range 512).filter fun n => x.sel == 16 || (s.reg (0x1800800 + x.sel * 0x40 + n / 32 * 4)).getLsbD (n % 32)
  | 2 => (List.range 12).filter fun n => x.sel == 16 || (s.reg (0x20F0800 + x.sel * 4)).getLsbD n
  | _ => (List.range 9).filter fun n => x.sel == 16 || (s.reg (0x301F800 + x.sel * 4)).getLsbD n

/-- The address of a member's register. -/
def AliasAt.addr (x : AliasAt) (n : Nat) : Nat :=
  match x.block with
  | 1 => aClus n x.off
  | 2 => aHbmc n x.off
  | _ => aPort n x.off

/-- Whether a reset of a domain that contains the member is under way, or the member is held or isolated (R474). -/
def State.memberOut (s : State) (block n : Nat) : Bool :=
  match block with
  | 1 => (s.clus n).heldBack || s.faults.resets.any fun r =>
      decide ((r.domain = 5 ∧ r.unit = n) ∨ (r.domain = 4 ∧ r.unit = n / 16) ∨ (r.domain = 3 ∧ r.unit = n / 128))
  | 2 => s.faults.resets.any fun r => decide ((r.domain = 6 ∧ r.unit = n) ∨ (r.domain = 3 ∧ r.unit = n / 3))
  | _ => (s.port n).isolated || s.unitReset 7 n

/-- The paths by number (R466). -/
def pathNo : Path → Nat
  | .aperture _ => 0
  | .core n => n.val + 1
  | .jtag => 9

/-- Read an address through an alias: the OR of the participating members (R475), with the status of R476. -/
def aliasRead (p : Path) (x : AliasAt) (s : State) : State × Word :=
  let ms := s.aliasMembers x
  let inn := ms.filter fun n => !s.memberOut x.block n
  let vals := inn.map fun n => s.regValue (x.addr n)
  let v := vals.foldl (fun w u => w ||| u) 0
  let first := vals.headD 0
  let diff := (inn.zip vals).find? fun e => e.2 != first
  let ps := s.path (pathNo p)
  let sticky := ps.bcast.getLsbD 2 || diff.isSome
  let bcast := packBits [(bit diff.isSome, 0), (bit inn.isEmpty, 1), (bit sticky, 2), (x.block, 4), (x.sel, 8), (inn.length, 16)]
  let d := packBits [((match diff with | some e => e.1 | none => 0), 0), (ms.length - inn.length, 16)]
  (s.setPath (pathNo p) { ps with bcast := bcast, diff := d }, v)

/-! ### Reads on a path (R466, R472) -/

/-- The value that a path reads, and what the read leaves: a `_LO` captures its `_HI` in the path's shadow. -/
def readValue (p : Path) (a : Nat) (s : State) : State × Word :=
  let ps := s.path (pathNo p)
  let (half, s1, v, hi) : Half × State × Word × Word :=
    match findAlias a with
    | some x =>
      let row := match locate (x.addr 0) with | some l => l.row.half | none => .one
      let (s1, v) := aliasRead p x s
      let hi := ((s.aliasMembers x).filter fun n => !s.memberOut x.block n).foldl (fun w n => w ||| s.regValue (x.addr n + 4)) 0
      (row, s1, v, hi)
    | none =>
      match locate a with
      | none => (.one, s, 0, 0)
      | some l =>
        let v := if a = 0x020 then ps.bcast else if a = 0x024 then ps.diff
          else if a = 0x034 then BitVec.ofNat 32 (pathNo p) else s.locValue l a
        (l.row.half, s, v, s.regValue (a + 4))
  match half with
  | .lo => (s1.setPath (pathNo p) { s1.path (pathNo p) with shadow := some (a + 4, hi) }, v)
  | .hi =>
    let out := match ps.shadow with
      | some (b, w) => if b = a then w else v
      | none => v
    (s1.setPath (pathNo p) { s1.path (pathNo p) with shadow := none }, out)
  | .one => (s1.setPath (pathNo p) { s1.path (pathNo p) with shadow := none }, v)

end Sys2Proof.Machine
end

