-- ==== Sys2Proof/Machine/Admin.lean ====
section
/-! DEFINITION. The admin ring (R46, R62, R64, R122, R184, R185, R221, R251, R252, R258): each command's checks and effect, the
commands that wait, and their records. -/

namespace Sys2Proof.Machine

/-! ### Handles (R46, R122, R221) -/

/-- A handle with tasks in flight (R64): a task that touches it has not completed, its instance has not settled, or it has still to leave
its versions; or a predicate that reads it is undecided, or a pip check that reads it. -/
def State.handleBusy (s : State) (c h : Nat) : Bool :=
  let x := s.ctx c
  (x.tasks.any fun u => (x.pendingIn u none || u.verDue.isSome) && (s.touches u).contains h)
    || (x.segs.any fun g => g.predWait && decide ((Slot.ofWord g.d.predWord).handle = h)) || s.pipHolds c x.order [h]

/-- A command's status and detail. -/
abbrev AdminEnd := Byte × BitVec 16

def adminOk : AdminEnd := (stOk, dNone)

/-- A command refused with DISCARDED. -/
def adminNo (d : BitVec 16) : AdminEnd := (stDiscarded, d)

/-- Whether a handle number lies beyond the context's quota (R64). -/
def State.beyondHtab (s : State) (c h : Nat) : Bool :=
  decide ((s.reg (aCtx c 0x20)).toNat ≤ h) || decide (2 ^ 20 ≤ h)

/-- The grid below which TILES may not lie (R271). -/
def defnGrid (b : Bytes) : Nat := match Fmt.ofByte (fieldLe b 0x14 1) with
  | none => 0
  | some k => k.grid (fieldLe b 0x18 4) (fieldLe b 0x1C 4)

/-- The checks of a definition (R46, R75, R271, R499). -/
def checkDefn (b : Bytes) : Option (BitVec 16) :=
  let folio := (fieldLe b 0x15 1).testBit 0
  let a := fieldLe b 0 8
  let z := fieldLe b 8 8
  let tiles := fieldLe b 0x10 4
  if (Fmt.ofByte (fieldLe b 0x14 1)).isNone ∨ 8 ≤ fieldLe b 0x15 1 ∨ fieldLe b 0x16 2 ≠ 0 then some dBadKind
  else if a % 8192 ≠ 0 ∨ decide (z ≠ 0) ≠ folio ∨ z % 8192 ≠ 0 ∨ tiles = 0 ∨ 2 ^ 28 < tiles ∨ tiles < defnGrid b then
    some dBadHandle
  else none

/-- First fit in the fallback arena (R221): the lowest place, at its base or behind a shadow, that holds `n` bytes. -/
def arenaFit (base limit n : Nat) (used : List (Nat × Nat)) : Option Nat :=
  (sortNats (base :: used.map fun u => u.1 + u.2)).find? fun a =>
    decide (base ≤ a) && decide (a + n ≤ limit) && used.all fun u => decide (a + n ≤ u.1) || decide (u.1 + u.2 ≤ a)

/-- The shadows of a context: start and length. -/
def Ctx.shadows (x : Ctx) : List (Nat × Nat) :=
  x.handles.filterMap fun e => e.2.shadow.map fun a => (a, e.2.shadowBytes)

/-- Forget a handle: its definition with its charge and shadow, its version, its copy record. -/
def Ctx.forgetHandle (x : Ctx) (h : Nat) : Ctx :=
  { x with handles := NMap.erase x.handles h, vers := NMap.erase x.vers h }

/-- Handle `h` of a context goes: who imported it keeps what it reads (R61, R62). -/
def dropHandle (c h : Nat) (s : State) : State :=
  let s1 := keepImports c (fun k => k == h) s
  s1.setCtx c ((s1.ctx c).forgetHandle h)

/-- Define handle `h` (R46): the husk charge (R122), the shadow (R221), orientation 0 (R196). -/
def defineHandle (c h : Nat) (b : Bytes) (s : State) : State :=
  let s0 := dropHandle c h s
  let x := s0.ctx c
  let d0 : Handle :=
    { addrA := BitVec.ofNat 64 (fieldLe b 0 8), addrB := BitVec.ofNat 64 (fieldLe b 8 8), tiles := fieldLe b 0x10 4,
      format := BitVec.ofNat 8 (fieldLe b 0x14 1), flags := BitVec.ofNat 8 (fieldLe b 0x15 1), rows := fieldLe b 0x18 4,
      cols := fieldLe b 0x1C 4, source := none, clipBound := false, charge := 0, shadow := none,
      kept := none }
  let cost := if d0.fmt.husks then d0.tiles * 264 * (if d0.folio then 2 else 1) else 0
  let used := x.handles.foldl (fun n e => n + e.2.charge) 0
  let beyond := decide (s.regField (aNumc c 0x24) 15 0 * 2 ^ 20 < used + cost) && decide (0 < cost)
  let d1 := { d0 with clipBound := beyond, charge := if beyond then 0 else cost }
  let base := (s.reg64 (aNumc c 0x30)).toNat
  let need : Handle := { d1 with shadow := some 0 }
  let place : Option Nat := arenaFit base (base + s.regField (aNumc c 0x38) 15 0 * 2 ^ 21) need.shadowBytes x.shadows
  let d2 := if d1.fmt.short then { d1 with shadow := place } else d1
  let s1 := s0.setCtx c { x with handles := NMap.insert x.handles h d2, commVers := NMap.erase x.commVers h }
  let s2 := if d1.fmt.short && place.isNone then setNumcStatus c 1 true s1 else s1
  if beyond then raiseCtx c 0x0102 1 noUnit (leBytes 1 2 ++ leBytes 3 0 ++ leBytes 4 h) s2 else s2

/-! ### Admin entries (R64, R499) -/

/-- The operand bytes that R64 places for a TYPE: offset and length. -/
def adminPlaced (typ mode : Nat) : List (Nat × Nat) :=
  match typ with
  | 0x20 => [(0x10, 4), (0x18, 32)]
  | 0x21 => [(0x10, 1), (0x14, 8)]
  | 0x22 => [(0x10, 4)]
  | 0x23 => [(0x10, 1), (0x14, 4)]
  | 0x24 => [(0x10, 16)]
  | 0x25 => [(0x10, 2), (0x18, 12)]
  | 0x26 => if mode = 0 then [(0x10, 1), (0x12, 2), (0x18, 14)] else [(0x10, 1), (0x18, 8)]
  | _ => []

/-- Whether an admin entry sets reserved bytes: those before the operands and those that R64 does not place. -/
def adminReserved (e : Bytes) : Bool :=
  let placed := adminPlaced (fieldLe e 0 1) (fieldLe e 0x10 1)
  fieldLe e 1 3 ≠ 0 || (List.range 44).any fun i =>
    !(placed.any fun p => decide (p.1 ≤ 0x10 + i) && decide (0x10 + i < p.1 + p.2)) && decide (fieldLe e (0x10 + i) 1 ≠ 0)

/-- What an admin command comes to: it completes, or it waits. -/
inductive AdminOut where
  | done (e : AdminEnd) (s : State)
  | wait

/-- DEFINE_HANDLE. -/
def adminDefine (c : Nat) (e : Bytes) (s : State) : AdminOut :=
  let h := fieldLe e 0x10 4
  let b := sliceB e 0x18 32
  match checkDefn b with
  | some d => if d = dBadKind ∨ ¬ s.beyondHtab c h then .done (adminNo d) s else .done (adminNo dBadHandle) s
  | none =>
    if s.beyondHtab c h then .done (adminNo dBadHandle) s
    else if s.handleBusy c h then .wait
    else .done adminOk (defineHandle c h b s)

/-- SHARE_HANDLE (R62). -/
def adminShare (c : Nat) (e : Bytes) (s : State) : AdminOut :=
  let sc := fieldLe e 0x10 1
  let sh := fieldLe e 0x14 4
  let h := fieldLe e 0x18 4
  let y := s.ctx sc
  match (if 64 ≤ sc ∨ y.st = .invalid then none else y.handle? sh) with
  | none => .done (adminNo dBadHandle) s
  | some d =>
    if s.beyondHtab c h then .done (adminNo dBadHandle) s
    else if s.ctxJob c ≠ s.ctxJob sc ∨ ¬ d.shareable then .done (stAccess, dNone) s
    else if s.handleBusy c h then .wait
    else
      let s1 := dropHandle c h s
      let x := s1.ctx c
      let imp : Handle := { d with flags := d.flags ||| 2, source := some (d.home sc sh), clipBound := false, charge := 0, shadow := none }
      .done adminOk (s1.setCtx c { x with handles := NMap.insert x.handles h imp })

/-- DROP_HANDLE. -/
def adminDrop (c : Nat) (e : Bytes) (s : State) : AdminOut :=
  let h := fieldLe e 0x10 4
  if s.beyondHtab c h ∨ ((s.ctx c).handle? h).isNone then .done (adminNo dBadHandle) s
  else if s.handleBusy c h then .wait
  else .done adminOk (dropHandle c h s)

/-- CANCEL: a STEP_END that is cancelled leaves its step to a forced vote (R375). Segments of the ring that its tail line already covers and
that are not admitted yet are cancelled as they are admitted. -/
def adminCancel (c : Nat) (e : Bytes) (s : State) : AdminOut :=
  let r := fieldLe e 0x10 1
  let first := BitVec.ofNat 32 (fieldLe e 0x14 4)
  if 4 ≤ r then .done (adminNo dBadKind) s
  else
    let s1 := endTasks c (fun t => decide (t.ref.ring.val = r) && decide (t.st = .queued) && !newer first t.ref.seg)
      stDiscarded dCancelled s
    let g := s1.ring c r
    let next := g.expect + BitVec.ofNat 32 g.taken.toList.length + (g.compPtr - g.devPtr)
    let s2 := if newer next first then s1.setRing c r { g with cancel := g.cancel ++ [(first, next)] } else s1
    .done adminOk (castLost (s2.ctx c).tasks.length c s2)

/-- DATA_CURSOR (R251). -/
def adminCursor (c : Nat) (e : Bytes) (s : State) : AdminOut :=
  let step := BitVec.ofNat 64 (fieldLe e 0x10 8)
  let x := s.ctx c
  if step ≤ s.reg64 (aRngs c 0x20) then .done (adminNo dStaleStep) s
  else
    .done adminOk (s.setCtx c
      { x with cursors := (x.cursors.filter fun k => k.1 ≠ step) ++ [(step, BitVec.ofNat 64 (fieldLe e 0x18 8))] })

/-! ### User functions (R184, R185) -/

/-- A binary32 value is a multiple of 2^q. -/
def multipleOf (v : Nat) (q : Int) : Bool := match fmt32.dec v with
  | .fin _ m e => decide (m = 0) || decide (q ≤ e) || decide (m % 2 ^ (q - e).toNat = 0)
  | _ => false

/-- The checks of an image (R184). -/
def checkImage (img : Bytes) : Option (BitVec 16) :=
  let fin := fun o => fmt32.isFin (fieldLe img o 4)
  let lo := fieldLe img 8 4
  let w := userLog2w img
  if fieldLe img 0x3C 4 ≠ crc32c (sliceB img 0 0x3C ++ img.drop 0x40) then some dBadCheck
  else if fieldLe img 0 1 ≠ 1 ∨ w < -20 ∨ 10 < w ∨ fieldLe img 6 2 ≠ 0 ∨ zeroB img 0x2C 16 = false
      ∨ ((List.range 4).any fun i => decide (3 < fieldLe img (2 + i) 1)) ∨ ¬ multipleOf lo w
      ∨ ¬ fmt32.isFin (add32 lo (fmt32.pack .rne false 1 (w + 10) false).1)
      ∨ ((List.range 8).any fun i => !fin (0x0C + 4 * i)) ∨ (List.range 6144).any fun i => !fin (0x40 + 4 * i) then some dBadKind
  else none

/-- Whether tasks in flight of a context use function slot `fn`. -/
def Ctx.funcBusy (x : Ctx) (fn : Nat) : Bool :=
  x.tasks.any fun u => x.pendingIn u none && decide (u.d.kind = kVector) && (opWords u.ext).any fun w =>
    let o := VOp.ofWord w
    (decide (o.op = 0x0B) || decide (o.op = 0x0C)) && decide (o.fn = fn)

/-- What a LOAD_FUNCTION reads: the image, or how the command ends. -/
def readImage (c : Nat) (e : Bytes) (image : Bytes) (env : Env) (s : State) : Except AdminEnd Bytes × State :=
  let a := fieldLe e 0x18 8
  let fn := fieldLe e 0x10 1
  if fn < 0x80 ∨ 0xBF < fn ∨ 2 ≤ fieldLe e 0x11 1 ∨ fieldLe e 0x20 4 ≠ 24640 then (.error (adminNo dBadKind), s)
  else if fieldLe e 0x11 1 = 0 then
    if s.winAllows a 24640 false then (.ok (sliceB image 0 24640), s) else (.error (stAccess, dNone), violation a s)
  else
    match fetchVa env c a 24640 s with
    | (.error _, s1) => (.error (stAccess, dNone), s1)
    | (.ok (_, some _), s1) => (.error (adminNo dBadCheck), s1)
    | (.ok (b, none), s1) => (.ok b, s1)

/-- LOAD_FUNCTION with its image: it is audited as a table load before it takes effect (R184, R455, R457). -/
def adminFunction (c : Nat) (e img : Bytes) (s : State) : AdminOut :=
  let fn := fieldLe e 0x10 1
  match checkImage img with
  | some d => .done (adminNo d) s
  | none =>
    if (s.ctx c).funcBusy fn ∨ s.auditFull then .wait
    else
      let d := leNat (shake256 img 16)
      let s1 := auditAppend (mkEntry 1 2 0 (BitVec.ofNat 48 c) (BitVec.ofNat 64 (4 * 2 ^ 56 + c * 256 + fn))
        (BitVec.ofNat 64 d) (BitVec.ofNat 64 (d / 2 ^ 64))) s
      .done adminOk (s1.setCtx c { s1.ctx c with funcs := NMap.insert (s1.ctx c).funcs fn img })

/-! ### POSITION_STREAMS (R252, R258) -/

/-- Whether POSITION_STREAMS is turned away as BUSY. -/
def Ctx.streamsBusy (x : Ctx) : Bool := decide (x.inflight ≠ 0) || x.segs.any fun g => !g.closed

/-- Raise STREAM_REALIGNED and count the command (R258, R259). -/
def noteRealign (c mode slot step value : Nat) (s : State) : State :=
  let n := (s.reg (aRngs c 0x54)).toNat
  raiseCtx c 0x0606 0 noUnit (leBytes 1 mode ++ leBytes 1 0 ++ leBytes 2 slot ++ leBytes 4 0 ++ leBytes 8 step ++ leBytes 8 value)
    (s.setReg (aRngs c 0x54) (BitVec.ofNat 32 (min (n + 1) (2 ^ 32 - 1))))

/-- The copies of a FOLIO table: both sides. -/
def State.bothCopies (s : State) (c h : Nat) : List Tensor := match (s.ctx c).handle? h with
  | none => []
  | some d => [d.tensor c h 0 false false none, d.tensor c h 0 true false none]

/-- What a command reads and changes of a table (R261, R268): a tile that fails its checks or cannot be reached ends it. DEDUCED: log entry 78. -/
def adminTable {α : Type} (c : Nat) (m : Run α) (k : α → State → AdminOut) (s : State) : AdminOut :=
  match m.run s with
  | (.ok a, s1) => k a s1
  | (.error e, s1) => .done (e.status, e.detail) (match e.kill with | some st => killCtx c st s1 | none => s1)

/-- SET_SLOT. -/
def adminSetSlot (c : Nat) (e : Bytes) (s : State) : AdminOut :=
  let slot := fieldLe e 0x12 2
  let v : StreamSlot := { pos := fieldLe e 0x18 8, advance := fieldLe e 0x20 4, cls := fieldLe e 0x24 1, flags := fieldLe e 0x25 1 }
  if 6 < v.cls ∨ 1 < v.flags ∨ 2 ^ s.slotsLog2 c ≤ slot then .done (adminNo dBadKind) s
  else
    match s.streamHandle c with
    | none => .done (adminNo dBadHandle) s
    | some h =>
      if (s.ctx c).streamsBusy then .done (adminNo dBusy) s
      else
        adminTable c ((s.bothCopies c h).foldlM (fun _ t =>
            editTile envQuiet (Who.ofCtx c) 1 1 t (1 + slot / 512) fun b => putB b (slot % 512 * 16) v.bytes) ())
          (fun _ s1 =>
            let s2 := s1.setCtx c { s1.ctx c with posSets := (s1.ctx c).posSets ++ [slot] }
            .done adminOk (noteRealign c 0 slot (s.reg64 (aRngs c 0x20)).toNat v.pos s2)) s

/-- REALIGN. -/
def adminRealign (c : Nat) (e : Bytes) (s : State) : AdminOut :=
  match s.streamHandle c with
  | none => .done (adminNo dBadHandle) s
  | some h =>
    match s.commTensor c h with
    | none => .done (adminNo dBadHandle) s
    | some t =>
      adminTable c (tableData envQuiet (Who.ofCtx c) 1 1 t 0) (fun hd s =>
      let step := fieldLe hd 8 8
      let cur := fieldLe hd 0x10 8
      if fieldLe hd 0 8 ≠ s.seed c then .done (adminNo dBadCheck) s
      else if fieldLe hd 0x18 1 ≠ s.slotsLog2 c then .done (adminNo dBadKind) s
      else if step ≠ fieldLe e 0x18 8 then .done (adminNo dStaleStep) s
      else if (s.ctx c).streamsBusy then .done (adminNo dBusy) s
      else
        let s1 := (s.setReg64 (aRngs c 0x20) (BitVec.ofNat 64 step)).setReg64 (aRngs c 0x28) (BitVec.ofNat 64 cur)
        let s2 := s1.setCtx c { s1.ctx c with cursors := [], realign := false }
        .done adminOk (noteRealign c 1 0xFFFF step cur s2)) s

/-! ### The ring -/

/-- An admin command's effect; `img` what a LOAD_FUNCTION has read. DEDUCED: log entry 78. -/
def adminRun (c : Nat) (e img : Bytes) (s : State) : AdminOut :=
  if adminReserved e then .done (adminNo dBadKind) s
  else
    match fieldLe e 0 1 with
    | 0x20 => adminDefine c e s
    | 0x21 => adminShare c e s
    | 0x22 => adminDrop c e s
    | 0x23 => adminCancel c e s
    | 0x24 => adminCursor c e s
    | 0x25 => adminFunction c e img s
    | 0x26 => if fieldLe e 0x10 1 = 0 then adminSetSlot c e s
              else if fieldLe e 0x10 1 = 1 then adminRealign c e s else .done (adminNo dBadKind) s
    | 0x27 =>
      let s1 := if (s.ctx c).st = .active then setCtxState c .quiescing s else s
      if (s1.ctx c).inflight = 0 then .done adminOk s1 else .wait
    | 0x28 => .done adminOk s
    | _ => .done (adminNo dBadKind) s

/-- The record of an admin command. -/
def adminDone (c : Nat) (e : Bytes) (r : AdminEnd) (s : State) : State :=
  adminRecord c r.1 r.2 (BitVec.ofNat 32 (fieldLe e 4 4)) (BitVec.ofNat 64 (fieldLe e 8 8)) s

/-- A command just taken: it completes, or it holds the ring. -/
def adminStart (c : Nat) (e img : Bytes) (s : State) : State := match adminRun c e img s with
  | .done r s1 => adminDone c e r s1
  | .wait =>
    let s1 := if fieldLe e 0 1 = 0x27 ∧ (s.ctx c).st = .active then setCtxState c .quiescing s else s
    s1.setCtx c { s1.ctx c with adminWait := some (e ++ img) }

/-- The entry at the head of the admin ring: the ring is read while the context is ACTIVE or QUIESCING and no command
waits. -/
def State.adminHead (s : State) (c : Nat) : Option Bytes :=
  let x := s.ctx c
  if (x.st = .active ∨ x.st = .quiescing) ∧ x.adminWait.isNone then s.headEntry c 7 else none

/-- The TYPEs of R64. -/
def adminType (t : Nat) : Bool := decide (0x20 ≤ t) && decide (t ≤ 0x28)

/-- The command at the head of the admin ring, if it is of TYPE `typ` (and MODE `mode`, if given): a CHECK failure is a ring error,
an ADMIN_SEQ out of turn and a reserved TYPE are answered by the first command that meets them (R64, R67). -/
def takeAdmin (c typ : Nat) (mode : Option Nat) (run : Bytes → State → State) (s : State) : State :=
  match s.adminHead c with
  | none => s
  | some e =>
    let t := fieldLe e 0 1
    let m := fieldLe e 0x10 1
    let other := decide (t ≠ typ) || (match mode with | some k => decide (m ≠ k) && decide (m ≤ 1) | none => false)
    if ¬ checkOk e then ringError c 7 3 s
    else if BitVec.ofNat 32 (fieldLe e 4 4) ≠ (s.ring c 7).expect then adminDone c e (adminNo dBadSequence) (consume c 7 s)
    else if adminType t ∧ other then s
    else
      let s1 := consume c 7 s
      let s2 := s1.setRing c 7 { s1.ring c 7 with expect := (s1.ring c 7).expect + 1 }
      if adminType t then run e s2 else adminDone c e (adminNo dBadKind) s2

/-- LOAD_FUNCTION: the image is read when the command is taken. -/
def loadFunction (c : Nat) (image : Bytes) (env : Env) (e : Bytes) (s : State) : State :=
  if adminReserved e then adminDone c e (adminNo dBadKind) s
  else
    match readImage c e image env s with
    | (.ok img, s1) => adminStart c e img s1
    | (.error r, s1) => adminDone c e r s1

/-- A waiting command whose TYPE satisfies `p` takes effect once what it waits for is over (R64). -/
def adminResume (c : Nat) (p : Nat → Bool) (s : State) : State :=
  let x := s.ctx c
  match x.adminWait with
  | none => s
  | some b =>
    let e := b.take 64
    if ¬ p (fieldLe e 0 1) ∨ (x.st ≠ .active ∧ x.st ≠ .quiescing) then s
    else
      match adminRun c e (b.drop 64) s with
      | .wait => s
      | .done r s1 => adminDone c e r (s1.setCtx c { s1.ctx c with adminWait := none })

/-! ### Commands -/

/-- DEFINE_HANDLE. -/
def execDefineHandle (ctx : Fin 64) (s : State) : Answer := .next (takeAdmin ctx 0x20 none (fun e => adminStart ctx e []) s)

/-- SHARE_HANDLE. -/
def execShareHandle (ctx : Fin 64) (s : State) : Answer := .next (takeAdmin ctx 0x21 none (fun e => adminStart ctx e []) s)

/-- DROP_HANDLE. -/
def execDropHandle (ctx : Fin 64) (s : State) : Answer := .next (takeAdmin ctx 0x22 none (fun e => adminStart ctx e []) s)

/-- CANCEL. -/
def execCancel (ctx : Fin 64) (s : State) : Answer := .next (takeAdmin ctx 0x23 none (fun e => adminStart ctx e []) s)

/-- DATA_CURSOR. -/
def execDataCursor (ctx : Fin 64) (s : State) : Answer := .next (takeAdmin ctx 0x24 none (fun e => adminStart ctx e []) s)

/-- LOAD_FUNCTION. -/
def execLoadFunction (ctx : Fin 64) (image : Bytes) (env : Env) (s : State) : Answer :=
  .next (takeAdmin ctx 0x25 none (loadFunction ctx image env) s)

/-- SET_SLOT. -/
def execSetSlot (ctx : Fin 64) (s : State) : Answer := .next (takeAdmin ctx 0x26 (some 0) (fun e => adminStart ctx e []) s)

/-- REALIGN. -/
def execRealign (ctx : Fin 64) (s : State) : Answer := .next (takeAdmin ctx 0x26 (some 1) (fun e => adminStart ctx e []) s)

/-- QUIESCE. -/
def execQuiesce (ctx : Fin 64) (s : State) : Answer := .next (takeAdmin ctx 0x27 none (fun e => adminStart ctx e []) s)

/-- ECHO. -/
def execEcho (ctx : Fin 64) (s : State) : Answer := .next (takeAdmin ctx 0x28 none (fun e => adminStart ctx e []) s)

/-- ADMIN_DEFERRED_EFFECT. -/
def execAdminDeferredEffect (ctx : Fin 64) (s : State) : Answer := .next (adminResume ctx (fun t => decide (t ≠ 0x27)) s)

/-- QUIESCE_DONE. -/
def execQuiesceDone (ctx : Fin 64) (s : State) : Answer := .next (adminResume ctx (fun t => decide (t = 0x27)) s)

end Sys2Proof.Machine
end

