-- ==== Sys2Proof/Machine/Cross.lean ====
section
/-! DEFINITION. The content of crosschecks (R404 to R406): the clusters of a number, the operands drawn for it, and the output that a
cluster without a fault gives. -/

namespace Sys2Proof.Machine

/-! ### Numbers and draws (R404, R405) -/

/-- The two clusters of crosscheck number `n`. -/
def crossPair (n : Nat) : Nat × Nat :=
  let a := n / 7 % 512
  (a, (a + 16 * (1 + n / 3584 % 31)) % 512)

/-- `len` drawn bytes of number `n` from byte offset `o` of an operand, by its lane: four bytes a draw, least significant first. -/
def crossBytes (seed n lane o len : Nat) : Bytes :=
  let key := rngKey seed (0xE0000000 + n % 2 ^ 28) lane
  (List.range len).map fun i => BitVec.ofNat 8 (draw key ((o + i) / 4) / 256 ^ ((o + i) % 4))

/-- The lanes of R405. -/
def crossScaleLane : Nat := 2
def crossStreamLane : Nat := 3

/-- A drawn S8 code. -/
def crossScale (b : Byte) : Nat := 0x60 + b.toNat % 48

/-- A drawn BF16 or binary32 value, by the fraction bits of its format: sign and fraction stay, the exponent is 112 to 143. -/
def crossFloat (frac v : Nat) : Nat :=
  v / 2 ^ (frac + 8) * 2 ^ (frac + 8) + (112 + v / 2 ^ frac % 256 % 32) * 2 ^ frac + v % 2 ^ frac

/-- A drawn element code, adjusted by its format. -/
def crossCode (k : Fmt) (v : Nat) : Nat :=
  match k.elem with
  | 0 => crossFloat 23 v
  | 2 => crossFloat 7 v
  | 3 | 4 => match shortVal k.elem v with
    | .fin _ _ _ => v
    | _ => 1
  | _ => v

/-- An operand of rows × cols elements by lane, stored tile by tile as R270 lays it out: its code at each place. DESIGN CHOICE: log entry
105. -/
def crossCodes (seed n lane : Nat) (k : Fmt) (rows cols : Nat) : Nat → Nat → Nat :=
  let g := k.gridCols cols
  let tiles : Array (Array Nat) := ((List.range (k.grid rows cols)).map fun i =>
    ({ data := crossBytes seed n lane (8192 * i) 8192, side := [] } : TileImg).codes k).toArray
  fun r c => crossCode k ((tiles.getD (r / 128 * g + c / k.cw) #[]).getD (r % 128 * k.cw + c % k.cw) 0)

/-- A stream ID of number `n`. -/
def crossStream (seed n i : Nat) : Nat := fieldLe (crossBytes seed n crossStreamLane (4 * i) 4) 0 4

/-- An operand of a product as delivered (R130, R131): blocks of 16 without husks, T 1.0; the first operand's scale codes stand before the
second's, `base` bytes. -/
def crossOpnd (seed n lane base : Nat) (k : Fmt) (rows cols : Nat) : Opnd :=
  let code := crossCodes seed n lane k rows cols
  let per := (cols + 15) / 16
  let s8 : Array Nat := ((crossBytes seed n crossScaleLane base (rows * per)).map crossScale).toArray
  let elt := fun r c =>
    if k.short then shortElt k (code r c) (s8.getD (r * per + c / 16) 0) none false
    else longElt (if k.elem = 0 then code r c else (k.long.conv fmt32 .rne (code r c)).1)
  { fmt := k, rows := ((List.range rows).map fun r => ((List.range cols).map fun c => elt r c).toArray).toArray,
    scales := ((List.range rows).map fun r => ((List.range per).map fun b =>
      if k.short then (s8Val (s8.getD (r * per + b) 0)).getD (0, 0) else (1, 0)).toArray).toArray,
    t := ((List.range rows).map fun _ => 0x3F800000).toArray }

/-! ### The kinds (R404) -/

/-- A product of two drawn operands: its output in binary32, row by row, then its exception counts. -/
def crossProduct (seed n promote : Nat) (stoch : Bool) (ka kb : Fmt) (rows cols len : Nat) : List Nat :=
  let a := crossOpnd seed n 0 0 ka rows len
  let b := crossOpnd seed n 1 (rows * ((len + 15) / 16)) kb cols len
  let p : AccParams := { passes := 1, promote := promote, stoch := stoch, key := rngKey seed (crossStream seed n 0) 0, klen := len,
                         half := false, faults := [] }
  let cells := (List.range rows).flatMap fun i => (List.range cols).map fun j => cellOut p a b i j i j
  (cells.map fun v => v.1) ++ (cells.foldl (fun e v => e.add v.2.1) Exc.none).list

/-- The ops of kind 6: FUNC and DFUNC of every built-in function, FMA, DIV, ROWSUM and ROWMAX. -/
def crossOps : List VOp :=
  let op := fun o fn => { op := o, dst := 2, a := 0, b := 1, c := 0, rm := 0, fn := fn, imm := 0 : VOp }
  ((List.range 10).flatMap fun f => [op 0x0B (f + 1), op 0x0C (f + 1)]) ++ [op 0x04 0, op 0x05 0, op 0x11 0, op 0x12 0]

/-- Kind 6: what each op gives of the two operands, then the exception counts. -/
def crossVector (seed n : Nat) : List Nat :=
  let mat := fun lane => let code := crossCodes seed n lane Fmt.f32 128 128
    Mat.build 128 128 code
  let v : VEnv := { bf := false, seed := seed, drop := 0, img := fun _ => [] }
  let outs := crossOps.map fun o => o.run v 128 128 (#[mat 0, mat 1, #[]], Exc.none)
  (outs.flatMap fun o => (o.1.getD 2 #[]).toList.flatMap fun r => r.toList)
    ++ (outs.foldl (fun e o => e.add o.2) Exc.none).list

/-- Kind 7: the bytes of the tile that the conversion writes, then its counts. -/
def crossQuant (seed n : Nat) : List Nat :=
  let k : Fmt := { elem := 5, husks := true, block32 := false }
  let q : QSpec := { outlier := 1, axis := false, tFixed := true, stoch := true, rot := 2, slot := 0xFFFF, rotStream := crossStream seed n 0,
                     ctrHi := 0, srStream := crossStream seed n 1, fixedT := 0x3F800000 }
  let c := convert k q ScaleEntry.dflt 1 seed q.rotStream q.srStream (Mat.build 128 128 (crossCodes seed n 0 Fmt.f32 128 128)) 128 128 none
  (c.out.tiles.flatMap fun i => (i.data ++ i.side).map fun b => b.toNat) ++ c.out.counts.list ++ (c.ex.add c.out.ex).list

/-- The output of number `n`: its elements and counts, as every cluster without a fault gives them (R152, R406). DESIGN CHOICE: log entry
105. -/
def crossOut (seed n : Nat) : List Nat :=
  let f := fun e => ({ elem := e, husks := false, block32 := false } : Fmt)
  match n % 7 with
  | 0 => crossProduct seed n 8 false (f 5) (f 6) 128 128 512
  | 1 => crossProduct seed n 4 false (f 3) (f 4) 128 128 256
  | 2 => crossProduct seed n 1 false (f 2) (f 2) 128 128 128
  | 3 => crossProduct seed n 8 true (f 5) (f 6) 128 128 512
  | 4 => crossProduct seed n 8 false (f 6) (f 5) 16 64 512
  | 5 => crossVector seed n
  | _ => crossQuant seed n

/-! ### Comparison (R406) -/

/-- An element of the output that a cluster shows: `seen` lists those that a fault has changed. -/
def crossShown (out : List Nat) (seen : List (Nat × Word)) (i : Nat) : Nat :=
  match seen.find? fun e => decide (e.1 = i) with
  | some e => e.2.toNat
  | none => out.getD i 0

/-- The first element in which two clusters differ, and the XOR of the two values there. -/
def crossDiff (out : List Nat) (a b : List (Nat × Word)) : Option (Nat × Nat) :=
  let places := (sortNats (a.map (fun e => e.1) ++ b.map fun e => e.1)).filter fun i => decide (i < out.length)
  (places.find? fun i => decide (crossShown out a i ≠ crossShown out b i)).map fun i =>
    (i, Nat.xor (crossShown out a i) (crossShown out b i))

end Sys2Proof.Machine
end

