-- ==== Sys2Proof/Machine/Link.lean ====
section
/-! DEFINITION. The Trepel Link below its transactions (R345 to R348): flits, acknowledgement and replay, training and the
outage; and the commands of the ring engine. -/

namespace Sys2Proof.Machine

/-! ### Flits (R346, R348) -/

/-- The bytes of a transaction that leaves over the link: its 16-byte header (R348) and its data; nothing for other outputs. DEDUCED: log entry 80. -/
def Out.transaction : Out → Bytes
  | .line addr bytes => leBytes 1 3 ++ leBytes 3 0 ++ leBytes 2 64 ++ leBytes 1 0xFF ++ leBytes 1 0 ++ leBytes 8 addr.toNat
      ++ sliceB bytes 0 64
  | .msi v => leBytes 1 9 ++ leBytes 5 0 ++ leBytes 1 0xFF ++ leBytes 1 0 ++ leBytes 8 v.toNat
  | .link op status tag addr data => leBytes 1 op.toNat ++ leBytes 1 status.toNat ++ leBytes 2 tag.toNat
      ++ leBytes 2 (if data = [] ∧ (op = 1 ∨ op = 2) then 64 else data.length) ++ leBytes 1 0xFF ++ leBytes 1 0
      ++ leBytes 8 addr.toNat ++ data
  | _ => []

/-- The payloads of 244 bytes that carry a transaction. DESIGN CHOICE: log entry 81. -/
def Out.payloads (o : Out) : List Bytes :=
  let b := o.transaction
  (List.range ((b.length + 243) / 244)).map fun i => sliceB b (244 * i) 244

/-- The payloads of every flit sent, oldest first. -/
def State.sent (s : State) : List Bytes := s.outputs.flatMap Out.payloads

/-- A flit: SEQ, TYPE, acknowledged SEQ, NAK, payload. -/
def flitBytes (seq typ ack : Nat) (nak : Bool) (payload : Bytes) : Bytes :=
  let b := leBytes 2 (seq % 4096 + typ * 4096) ++ leBytes 2 (ack % 4096 + if nak then 2 ^ 15 else 0) ++ sliceB payload 0 244
  b ++ leBytes 8 (crc64 b)

/-- The flits of the replay buffer: at most 1,024 are outstanding at a time. -/
def State.replayFlits (s : State) : List Bytes :=
  let t := s.trepel
  let ps := (s.sent.drop t.acked).take 1024
  (List.range ps.length).map fun i => flitBytes (t.acked - t.txBase + i + 1) 1 t.rxSeq.toNat false (ps.getD i [])

/-- Send an IDLE flit that acknowledges what has come, or asks for a replay. -/
def sendAck (nak : Bool) (s : State) : State :=
  s.emit (.flit (flitBytes (min (s.sent.length - s.trepel.txBase) (s.trepel.acked - s.trepel.txBase + 1024)) 0 s.trepel.rxSeq.toNat nak []))

/-! ### Training (R345, R347) -/

/-- The width of a Trepel Link whose lanes `fail` do not train, from width code `cap` down (R345). -/
def trainTrepel (fail : BitVec 16) (cap : Nat) : Option (BitVec 2) :=
  if cap = 0 ∧ fail = 0 then some 0
  else if cap ≤ 1 ∧ fail.toNat % 256 = 0 then some 1
  else if fail.toNat % 16 = 0 then some 2
  else none

/-- A change of the link's state is recorded (R347, R457). -/
def setLink (st : BitVec 2) (s : State) : State :=
  if s.trepel.state = st then s
  else auditState 9 6 0 s.trepel.state.toNat st.toNat { s with trepel := { s.trepel with state := st } }

/-- The link trains from reset: sequence numbers begin again. -/
def linkFresh (w : Option (BitVec 2)) (fail : BitVec 16) (s : State) : State :=
  let n := s.sent.length
  setLink (if w.isSome then 1 else 3)
    { s with trepel := { s.trepel with width := w.getD 0, laneFail := fail, txBase := n, acked := n, rxSeq := 0, replays := 0 } }

/-- A retrain starts (R346, R365). -/
def startRetrain (s : State) : State :=
  let s1 := count (aTrpl 0x10) 1 { s with trepel := { s.trepel with replays := 0 } }
  if s.trepel.state = 3 then s1 else setLink 2 s1

/-- MAX_WIDTH: 3 acts as 0; RECOVERY runs at x4 (R345, R365). -/
def State.linkCap (s : State) : Nat :=
  if s.dev = .recovery then 2
  else
    let w := s.regField (aTrpl 0) 3 2
    if w = 3 then 0 else w

/-- Send every flit of the replay buffer again, counted in TRPL_REPLAYS (R346). -/
def replayAll (s : State) : State :=
  let fs := s.replayFlits
  fs.foldl (fun t f => t.emit (.flit f)) (count (aTrpl 8) fs.length s)

/-- A replay without progress: sixteen of them start a retrain. -/
def replayOnce (s : State) : State :=
  if s.replayFlits.isEmpty then s
  else
    let s1 := replayAll { s with trepel := { s.trepel with replays := s.trepel.replays + 1 } }
    if 16 ≤ s1.trepel.replays then startRetrain s1 else s1

/-- The link carries transactions: device lines still due, and the records that contexts hold back, are written as far as it takes them
(R65, R68, R347). -/
def flushAll (s : State) : State := s.activeCtxs.foldl (fun t c => flushRecords c t) (writeDueLines s)

/-- A retrain ends: the widest width that trains, and the replay buffer is replayed; otherwise the link is not up. -/
def retrainDone (fail : BitVec 16) (s : State) : State :=
  if s.trepel.state = 1 ∨ s.dev = .off then s
  else
    let s1 := { s with trepel := { s.trepel with laneFail := fail } }
    match trainTrepel fail s.linkCap with
    | none => s1
    | some w => flushAll (replayAll (setLink 1 { s1 with trepel := { s1.trepel with width := w } }))

/-- The link is not up 100 ms after a retrain has started: DOWN, and another retrain begins. -/
def linkDown (s : State) : State :=
  if s.trepel.state = 2 ∨ s.trepel.state = 3 then startRetrain (setLink 3 s) else s

/-! ### Receiving -/

/-- The acknowledgement that a flit carries: what it acknowledges leaves the replay buffer; a NAK asks for a replay. -/
def takeAck (field : Nat) (s : State) : State :=
  let t := s.trepel
  let out := min 1024 (s.sent.length - t.acked)
  let d := (field % 4096 + 4096 - (t.acked - t.txBase) % 4096) % 4096
  let s1 := if 0 < d ∧ d ≤ out then { s with trepel := { t with acked := t.acked + d, replays := 0 } } else s
  if 2 ^ 15 ≤ field then replayOnce s1 else s1

/-- A flit arrives (R346): its transactions come as commands of their own. -/
def flitReceived (b : Bytes) (s : State) : State :=
  let hdr := fieldLe b 0 2
  let seq := BitVec.ofNat 12 hdr
  if s.trepel.state ≠ 1 ∨ s.dev = .off then s
  else if b.length ≠ 256 ∨ fieldLe b 0xF8 8 ≠ crc64 (sliceB b 0 0xF8) then sendAck true s
  else if hdr / 4096 = 0 then takeAck (fieldLe b 2 2) s
  else if seq ≠ s.trepel.rxSeq + 1 then sendAck true s
  else sendAck false (takeAck (fieldLe b 2 2) { s with trepel := { s.trepel with rxSeq := seq } })

/-- TRPL_REPLAY_TIMEOUT. -/
def replayTimeout (s : State) : State := if s.trepel.state = 1 then replayOnce s else s

/-! ### What a read returns -/

/-- A COMPLETION of an earlier device read (R348): a line of the ring engine; one that failed leaves a pointer line to the next
poll and makes an entry a ring error. DESIGN CHOICE: log entry 40. -/
def completion (tag : BitVec 16) (status : Byte) (data : Bytes) (s : State) : State :=
  if ¬ s.linkServes then s
  else
    match s.trepel.outstanding.find? fun o => o.1 = tag with
    | none => s
    | some (_, .pointer c r) => if status = 0 then gotPointer c r data s else endRead (.pointer c r) s
    | some (_, .entries c r k) =>
      if status = 0 then gotEntry c r k data s else ringError c r 3 (endRead (.entries c r k) s)
    | some (_, .other) => endRead .other s

/-! ### Commands -/

/-- TRPL_FLIT_RECEIVED. -/
def execTrplFlitReceived (flit : Bytes) (s : State) : Host.Outcome State Fault Refusal := .next (flitReceived flit s)

/-- TRPL_REPLAY_TIMEOUT. -/
def execTrplReplayTimeout (s : State) : Host.Outcome State Fault Refusal := .next (replayTimeout s)

/-- TRPL_RETRAIN_DONE. -/
def execTrplRetrainDone (laneFail : BitVec 16) (s : State) : Host.Outcome State Fault Refusal := .next (retrainDone laneFail s)

/-- TRPL_DOWN_TIMER. -/
def execTrplDownTimer (s : State) : Host.Outcome State Fault Refusal := .next (linkDown s)

/-- SNOOP: counted in TRPL_SNOOPS (R365). -/
def execSnoop (line : Dword) (invalidate : Bool) (s : State) : Host.Outcome State Fault Refusal :=
  .next (if s.linkServes then snoop (line.toNat / 64 * 64) invalidate (count (aTrpl 0x18) 1 s) else s)

/-- GENG_POLL_EXPIRE. -/
def execGengPollExpire (s : State) : Host.Outcome State Fault Refusal := .next (pollRings s)

/-- RD_SHARED_DONE. -/
def execRdSharedDone (ctx : Fin 64) (ring : Fin 8) (data : RdData) (s : State) : Host.Outcome State Fault Refusal :=
  .next (if s.linkServes then (match data with
    | .pointer line => gotPointer ctx ring line s
    | .entries lines => gotEntries ctx ring lines s) else s)

/-- COMPLETION. -/
def execCompletion (tag : BitVec 16) (status : Byte) (data : Bytes) (s : State) : Host.Outcome State Fault Refusal :=
  .next (completion tag status data s)

/-- MSI_TIMER_EXPIRE. -/
def execMsiTimerExpire (ctx : Fin 64) (ring : Fin 8) (s : State) : Host.Outcome State Fault Refusal := .next (msiTimer ctx ring s)

/-- CONTEXT_RELEASE (R60). -/
def execContextRelease (ctx : Fin 64) (s : State) : Host.Outcome State Fault Refusal := .next (ctxRings ctx s)

end Sys2Proof.Machine
end

