-- ==== Sys2Proof/Machine/SmbRecords.lean ====
section
/-! DEFINITION. The SMBus responder (R440, R494, R495): the records it answers with, the copies it keeps while their sources
are unpowered, its alert, and its commands. -/

namespace Sys2Proof.Machine

/-- A signed temperature as a byte. -/
def tempByte (t : Int) : Bytes := leBytes 1 (t % 256).toNat

/-- The sub-state code of OFF (R495). -/
def SubState.code : SubState → Nat
  | .standby => 0
  | .sequencing => 1
  | .railFault => 2
  | .brownOut => 3
  | .noRefclk => 4
  | .heldInReset => 5

/-- The seconds in the present state, saturating. -/
def State.secondsIn (s : State) : Nat := min ((s.time - s.devSince).toNat / 10 ^ 9) (2 ^ 32 - 1)

/-- Whether the sources of the responder's values are unpowered. -/
def State.smbStale (s : State) : Bool := decide (s.dev = .off)

/-- IDENTITY. -/
def State.smbIdentity (s : State) : Bytes :=
  leBytes 4 (s.regValue 0).toNat ++ sliceB s.partRecord 0x10 16 ++ leBytes 1 s.power.straps.slotId.toNat
    ++ leBytes 1 s.power.straps.feedId.toNat ++ leBytes 1 s.power.straps.txClamp.toNat ++ leBytes 4 s.secu.svn.toNat ++ leBytes 1 0

/-- STATE, live in every state. -/
def State.smbState (s : State) : Bytes :=
  let p := s.power
  leBytes 1 s.dev.code ++ leBytes 1 (if s.dev = .off then p.sub.code else 0)
    ++ leBytes 1 (if s.starting then s.boot.stage.toNat else if s.dev = .recovery then 7 else 0)
    ++ leBytes 1 (bit p.pgood + 2 * bit p.pwrEn + 4 * bit p.resetLow + 8 * bit p.thermLow) ++ leBytes 4 s.secondsIn

/-- START_RECORD. -/
def State.smbStart (s : State) : Bytes :=
  let r := s.flash.start
  leBytes 4 (s.rstcReg 0x008).toNat ++ leBytes 1 (bit r.inProgress) ++ leBytes 3 0 ++ leBytes 1 r.lastSource.toNat ++ leBytes 3 0
    ++ leBytes 4 (r.lastTime.toNat / 2 ^ 32)

/-- HEALTH. -/
def State.smbHealth (s : State) : Bytes :=
  leBytes 4 s.flash.health.toNat ++ leBytes 2 (s.rstcReg 0x028).toNat ++ leBytes 1 s.flash.coreMask.toNat
    ++ leBytes 1 (16 * bit s.smbStale)

/-- RESET_CAUSE. -/
def State.smbCause (s : State) : Bytes :=
  leBytes 1 (s.reg (aRstc 0)).toNat ++ leBytes 1 (s.reg (aRstc 4)).toNat ++ leBytes 1 (16 * bit s.smbStale) ++ leBytes 1 0

/-- TEMPERATURE: 0x80 for a sensor that is unpowered. -/
def State.smbTemp (s : State) : Bytes :=
  let x := s.power.sensors
  let on := !s.smbStale
  ((List.range 5).flatMap fun i => match x.junction[i]? with | some t => if on then tempByte t else leBytes 1 0x80 | none => leBytes 1 0x80)
    ++ ((List.range 12).flatMap fun i => match x.stack[i]? with | some t => if on then tempByte t else leBytes 1 0x80 | none => leBytes 1 0x80)
    ++ tempByte x.inlet ++ tempByte x.outlet

/-- POWER. -/
def State.smbPower (s : State) : Bytes :=
  let x := s.power.sensors
  leBytes 2 x.volt10mV.toNat ++ leBytes 2 x.amp10mA.toNat ++ leBytes 2 x.watt1ms.toNat ++ leBytes 2 x.watt1s.toNat
    ++ leBytes 1 (s.reg 0x2C).toNat ++ leBytes 1 (bit s.bndy.clampTherm + 2 * bit s.bndy.clampPower + 4 * bit s.bndy.trip)

/-- RECOVERY. -/
def State.smbRecovery (s : State) : Bytes :=
  leBytes 1 (s.boot.recovery.getD 0).toNat ++ leBytes 1 s.flash.start.failed ++ leBytes 2 0 ++ leBytes 8 s.boot.recoveryTime.toNat

/-- AUDIT_HEAD. -/
def State.smbAudit (s : State) : Bytes :=
  leBytes 8 s.headSeq.toNat ++ leBytes 16 s.audit.chain.toNat ++ leBytes 8 s.audit.drained.toNat

/-- The live record of a command. -/
def State.smbLive (s : State) (cmd : Nat) : Bytes :=
  match cmd with
  | 1 => s.smbIdentity
  | 2 => s.smbState
  | 3 => s.smbStart
  | 4 => s.smbHealth
  | 5 => s.smbCause
  | 6 => s.smbTemp
  | 7 => s.smbPower
  | 9 => s.smbRecovery
  | _ => s.smbAudit

/-- Commands whose sources lose their values with the main rails: the responder answers from its copies in OFF. -/
def smbCopied : List Nat := [1, 5, 7, 9, 10]

/-- The responder's copies at this moment, before the main rails go off. -/
def smbKeep (s : State) : State :=
  { s with smb := { s.smb with copies := smbCopied.map fun c => (c, s.smbLive c) } }

/-- What a command returns: live, or from the copy with STALE where the record has that flag. -/
def State.smbAnswer (s : State) (cmd : Nat) : Bytes :=
  if ¬ s.smbStale ∨ cmd ∉ smbCopied then s.smbLive cmd
  else
    match NMap.find? s.smb.copies cmd with
    | none => s.smbLive cmd
    | some b => if cmd = 5 then putB b 2 (leBytes 1 16) else b

/-- Answer a command: the responder works whenever the standby rail is up (R487, R494). -/
def smbReply (cmd : Nat) (s : State) : State := if s.power.standby then s.emit (.smb (s.smbAnswer cmd)) else s

/-- ALERT_STATUS: returned and cleared by the read. -/
def smbAlerts (s : State) : State :=
  if s.power.standby then
    { s.emit (.smb (leBytes 1 s.smb.alerts.toNat)) with smb := { s.smb with alerts := 0 } }
  else s

/-- The Alert Response Address: a module that holds SMB_ALERT_N low answers with its address and releases it (R494). -/
def alertResponse (s : State) : State :=
  if s.power.standby && s.power.smbAlertLow then
    { s.emit (.smb (leBytes 1 (2 * (0x58 + s.power.straps.slotId.toNat % 4)))) with
      power := { s.power with smbAlertLow := false } }
  else s

/-- Set bits of RSTC_HEALTH, kept in module flash (R415). -/
def setHealth (bits : Word) (s : State) : State :=
  let had := s.flash.health.getLsbD 0
  let s1 := { s with flash := { s.flash with health := s.flash.health ||| bits } }
  if ¬ had ∧ s1.flash.health.getLsbD 0 then smbAlert 3 s1 else s1

/-! ### Commands -/

/-- IDENTITY. -/
def execSmbIdentity (s : State) : Answer := .next (smbReply 1 s)
/-- STATE. -/
def execSmbState (s : State) : Answer := .next (smbReply 2 s)
/-- START_RECORD. -/
def execSmbStartRecord (s : State) : Answer := .next (smbReply 3 s)
/-- HEALTH. -/
def execSmbHealth (s : State) : Answer := .next (smbReply 4 s)
/-- RESET_CAUSE. -/
def execSmbResetCause (s : State) : Answer := .next (smbReply 5 s)
/-- TEMPERATURE. -/
def execSmbTemperature (s : State) : Answer := .next (smbReply 6 s)
/-- POWER. -/
def execSmbPower (s : State) : Answer := .next (smbReply 7 s)
/-- ALERT_STATUS. -/
def execSmbAlertStatus (s : State) : Answer := .next (smbAlerts s)
/-- RECOVERY. -/
def execSmbRecovery (s : State) : Answer := .next (smbReply 9 s)
/-- AUDIT_HEAD. -/
def execSmbAuditHead (s : State) : Answer := .next (smbReply 10 s)
/-- The Alert Response Address. -/
def execAlertResponseAddress (s : State) : Answer := .next (alertResponse s)

end Sys2Proof.Machine
end

