-- ==== Sys2Proof/Machine/ResetRecords.lean ====
section
/-! DEFINITION. Reset domains (R420) and the reset record: what it holds, and where it is written (R265, R423, R424). -/

namespace Sys2Proof.Machine

/-! ### Domains (R420) -/

/-- Whether a logical cluster lies in a domain's unit. -/
def clusterIn (domain unit n : Nat) : Bool :=
  match domain with
  | 0 => true
  | 3 => decide (n / 128 = unit)
  | 4 => decide (n / 16 = unit)
  | 5 => decide (n = unit)
  | _ => false

/-- Whether a stack lies in a domain's unit (R24). -/
def stackIn (domain unit n : Nat) : Bool :=
  match domain with
  | 0 => true
  | 3 => decide (n / 3 = unit)
  | 6 => decide (n = unit)
  | _ => false

/-- Whether domain `a` of unit `u` lies inside domain `b` of unit `v`, or is it. -/
def domainWithin (a u b v : Nat) : Bool :=
  if b = 0 then true
  else if a = b then decide (u = v)
  else match a, b with
    | 4, 3 => decide (u / 8 = v)
    | 5, 3 => decide (u / 128 = v)
    | 5, 4 => decide (u / 16 = v)
    | 6, 3 => decide (u / 3 = v)
    | _, _ => false

/-- Whether a task has been placed in a domain and has not completed: D0 holds every task that has issued, a quire its clusters' tasks and
those of its update engine (R420). -/
def Task.placedIn (t : Task) (domain unit : Nat) : Bool :=
  t.isOpen && decide (t.st ≠ .queued) && decide (t.st ≠ .complete) &&
    (decide (domain = 0) || match t.cluster with
      | some n => clusterIn domain unit n
      | none => (match t.engine with
        | some q => decide (domain ≤ 4) && clusterIn domain unit (16 * q.val)
        | none => false))

/-- The contexts with work in a domain. -/
def State.ctxsIn (s : State) (domain unit : Nat) : List Nat :=
  s.activeCtxs.filter fun c => (s.ctx c).tasks.any fun t => t.placedIn domain unit

/-! ### Sections (R424) -/

/-- The QUEUE entry of a context. -/
def State.queueEntry (s : State) (domain unit c : Nat) : Bytes :=
  let x := s.ctx c
  let here := x.tasks.filter fun t => t.placedIn domain unit
  leBytes 1 c ++ leBytes 1 x.st.code ++ leBytes 2 0 ++ leBytes 4 here.length
    ++ leBytes 4 (here.filter fun t => decide (t.st = .issued)).length ++ leBytes 4 x.inflight

/-- The SYNC entries of a D0 reset: the pending WAITs and the open collective windows. -/
def State.syncEntries (s : State) : List Bytes :=
  let waits := s.activeCtxs.flatMap fun c =>
    ((s.ctx c).tasks.filter fun t => t.placedIn 0 0 && decide (t.d.kind = kWait)).map fun t =>
      let id := fieldLe t.d.params 2 2
      leBytes 1 c ++ leBytes 1 1 ++ leBytes 2 id ++ leBytes 4 0 ++ leBytes 8 (fieldLe t.d.params 8 8)
        ++ leBytes 8 (if t.d.op = 1 then (s.counter? c id).getD 0 else s.time.toNat)
  let wins := s.fabric.windows.map fun w =>
    leBytes 1 w.ctx ++ leBytes 1 2 ++ leBytes 2 w.collId.toNat ++ leBytes 4 0 ++ leBytes 8 0 ++ leBytes 8 w.vals.length
  waits ++ wins

/-- The addresses of a block member's registers. -/
def BlkRow.addrs (b : BlkRow) (i : Nat) : List Nat :=
  let rows := b.rows.filter fun r => !r.uplink || decide (i = 6 ∨ i = 7)
  rows.flatMap fun r => (List.range r.count).map fun k => b.base + i * b.stride + r.off + k * r.stride

/-- Whether a member of a block lies in a domain's unit (R482): D0 without D2 leaves the Fabric Engine out. -/
def blkIn (domain unit : Nat) (b : Blk) (i : Nat) : Bool :=
  match b with
  | .clus => clusterIn domain unit i
  | .hbmc => stackIn domain unit i
  | .port => decide (domain = 7) && decide (i = unit)
  | .fabr | .portMask => false
  | _ => decide (domain = 0)

/-- Every register of a domain's blocks. -/
def domainRegs (domain unit : Nat) : List Nat :=
  blkRows.flatMap fun b =>
    ((List.range b.count).filter fun i => blkIn domain unit b.blk i).flatMap fun i => b.addrs i

/-- The ENGINE entries: address and value. -/
def State.engineEntries (s : State) (as : List Nat) : List Bytes :=
  as.map fun a => leBytes 4 a ++ leBytes 4 (s.regValue a).toNat

/-- One section as far as it fits in `room` bytes, a multiple of 8: its bytes, and whether it is whole. -/
def packSection (room typ : Nat) (es : List Bytes) : Bytes × Bool :=
  let e := (es.headD []).length
  let n := min es.length ((room - 4) / max 1 e)
  let len := (4 + n * e + 7) / 8 * 8
  (sliceB (leBytes 2 typ ++ leBytes 2 len ++ (es.take n).flatten) 0 len, decide (n = es.length))

/-- The sections that fit in `room` bytes, and whether one was cut. -/
def packSections : Nat → List (Nat × List Bytes) → List Bytes × Bool
  | _, [] => ([], false)
  | room, (typ, es) :: t =>
    if es = [] then packSections room t
    else if room < 16 then ([], true)
    else
      let (b, whole) := packSection room typ es
      if ¬ whole then ([b], true)
      else
        let (r, cut) := packSections (room - b.length) t
        (b :: r, cut)

/-! ### The record (R423) -/

/-- What a reset record says of its reset. -/
structure RecHead where
  domain : Nat
  cause : Nat
  escalated : Bool
  unit : Nat
  fence : Dword
  ctxs : List Nat
  answered : Word
  prev : Option Word
  deriving DecidableEq, Repr

/-- A reset record's bytes; `place` bit 1 ALTERNATE and bit 2 FLASH. -/
def State.resetRecord (s : State) (h : RecHead) (place : Nat) (secs : List (Nat × List Bytes)) : Bytes :=
  let (bs, cut) := packSections (65536 - 64) secs
  let body := bs.flatten
  let head := leBytes 1 1 ++ leBytes 1 h.domain ++ leBytes 1 h.cause ++ leBytes 1 (bit h.escalated + place + 8 * bit cut)
    ++ leBytes 2 h.unit ++ leBytes 2 bs.length ++ leBytes 4 (s.reg (aRstc 0x50)).toNat ++ leBytes 4 (64 + body.length)
    ++ leBytes 8 h.fence.toNat ++ leBytes 8 s.time.toNat ++ leBytes 8 (h.ctxs.foldl (fun n c => n + 2 ^ c) 0)
    ++ leBytes 4 h.answered.toNat ++ leBytes 4 (match h.prev with | some p => p.toNat | none => 0xFFFFFFFF) ++ leBytes 12 0
  head ++ leBytes 4 (crc32c (head ++ body)) ++ body

/-- Count a record written: RSTC_REC_WR. -/
def countRecord (s : State) : State := s.setReg (aRstc 0x50) (s.reg (aRstc 0x50) + 1)

/-- Append a record to the reset-record area of module flash, which keeps the last 64. -/
def flashRecord (b : Bytes) (s : State) : State :=
  let l := s.flash.resetRecs ++ [b]
  countRecord { s with flash := { s.flash with resetRecs := l.drop (l.length - 64) } }

/-- The slot of the next record in a stack's ring of 256 slots of 64 KiB (R265). -/
def State.recordSlot (s : State) (stack : Nat) : Nat :=
  stack * 2 ^ 36 + s.usable + 64 * 2 ^ 20 + (s.reg (aRstc 0x50)).toNat % 256 * 65536

/-- Count a record that could not be written. -/
def loseRecord (s : State) : State :=
  s.setReg (aRstc 0x54) (BitVec.ofNat 32 (min (2 ^ 32 - 1) ((s.reg (aRstc 0x54)).toNat + 1)))

/-- Write a record of a domain below D0 (R265): to stack 0, to stack 9 when stack 0 lies within the domain, to flash when both
do. -/
def writeRecord (h : RecHead) (secs : List (Nat × List Bytes)) (s : State) : State :=
  if ¬ stackIn h.domain h.unit 0 then countRecord (writePhys (s.recordSlot 0) (s.resetRecord h 0 secs) s)
  else if ¬ stackIn h.domain h.unit 9 then countRecord (writePhys (s.recordSlot 9) (s.resetRecord h 2 secs) s)
  else flashRecord (s.resetRecord h 4 secs) s

/-- The sections of a domain reset's record; `ctxs` the contexts it lists. -/
def State.recordSections (s : State) (domain unit : Nat) (ctxs : List Nat) : List (Nat × List Bytes) :=
  [(1, ctxs.map fun c => s.queueEntry domain unit c), (2, if domain = 0 then s.syncEntries else []),
   (3, s.engineEntries (domainRegs domain unit))]

end Sys2Proof.Machine
end

