-- ==== Sys2Proof/Machine/Starts.lean ====
section
/-! DEFINITION. Device resets (R417, R419, R439), and starts: signed objects, code selection, measurements, the start-attempt
record, the audit ledger's resumption, RECOVERY (R436 to R450, R454, R461). -/

namespace Sys2Proof.Machine

/-! ### Device resets (R417) -/

/-- The bit of a reset source in RSTC_CAUSE. -/
def Source.code : Source → Nat
  | .por => 0
  | .bor => 1
  | .pin => 2
  | .wdt => 3
  | .swr => 4
  | .dbg => 5
  | .cfd => 6
  | .lck => 7

/-- Whether a reset is held by a pin, a missing reference or a boundary-scan instruction (R419, R491, R498). -/
def Power.held (p : Power) : Bool := p.heldPin || p.heldDbg || p.heldScan || p.heldCfd

/-- Whether a register keeps its value through a device reset: the reset controller's own but RSTC_CTRL, the flash write
protection and what comes from flash, except at power-on; the Fabric Engine's, the ports' and the vote and twin registers
while D2 is kept (R336, R364, R401, R417, R482). -/
def keptReg (keepD2 powerOn : Bool) (a : Nat) : Bool :=
  let within := fun lo hi => decide (lo ≤ a) && decide (a < hi)
  (!powerOn && ((within 0x10000 0x20000 && decide (a ≠ 0x1000C)) || within 0x40080 0x400C0))
    || within 0x20028 0x20030 || within 0x5000014 0x5000028
    || (keepD2 && (within 0x3000000 0x3020000 || (within 0x220000 0x224000 && decide (0x10 ≤ a % 0x100) && decide (a % 0x100 < 0x60))
      || within 0x224000 0x224014))

/-- What the vote logic keeps of a context through a reset of D0 without D2 (R375, R417). -/
def Ctx.voteOnly (x : Ctx) (job : BitVec 16) : Ctx :=
  { Ctx.empty with phase := if x.phase = 3 ∨ x.phase = 4 then x.phase else 0, castAt := x.castAt, childWords := x.childWords,
                   timedOut := x.timedOut, history := x.history, vstep := x.vstep,
                   vjob := if x.st.isActive then job else if x.st = .invalid then x.vjob else 0 }

/-- The contexts after a reset that keeps D2. -/
def State.keptCtxs (s : State) : NMap Ctx :=
  s.ctxs.foldl (fun m e => NMap.set (fun _ => Ctx.empty) m e.1 (e.2.voteOnly (s.ctxJob e.1))) []

/-- The fabric after a reset that keeps D2: transit goes on, the device's own operations end (R336). -/
def Fabric.transitOnly (f : Fabric) : Fabric := { f with ops := [], windows := [], credits := [], mgmt := [], epochOpen := f.epochOpen }

/-- The machine with everything cleared that a device reset clears (R417). DEDUCED: log entry 23. -/
def clearDevice (keepD2 powerOn : Bool) (s : State) : State :=
  { s with
    regs := s.regs.filter fun e => keptReg keepD2 powerOn e.1,
    paths := [],
    time := if keepD2 then s.time else 0,
    secu := { Secu.reset with cdi1 := if keepD2 then s.secu.cdi1 else [] },
    audit := { s.audit with stalled := [], stallRaised := false, rdEntry := none, ring := if keepD2 then s.audit.ring else [],
                            reserve := if powerOn then [] else s.audit.reserve },
    hbm := (List.range 12).map fun i => (i, { Stack.empty with state := 3, ueFrames := (s.stack i).ueFrames }),
    mrgnRecal := none, mrgnUse := MrgnUse.empty 0, mrgnLast := MrgnUse.empty 0, trepel := Trepel.reset,
    bndy := { Bndy.reset with tableFrames := if keepD2 then s.bndy.tableFrames else [],
                              serials := if keepD2 then s.bndy.serials else [], txClamp := s.bndy.txClamp },
    fabric := if keepD2 then s.fabric.transitOnly else Fabric.reset,
    ctxs := if keepD2 then s.keptCtxs else [],
    clusters := [], ramps := [], faults := { Faults.reset with nextId := s.faults.nextId },
    twin := if keepD2 then s.twin else Twin.reset,
    cadence := { Cadence.reset with powerOn := s.cadence.powerOn + if keepD2 then 0 else s.time },
    probe := none }

/-- The record of a D0 reset goes to flash; power loss leaves none (R265, R417, R423). -/
def recordDevice (src : Source) (esc : Bool) (prev : Option Word) (s : State) : State :=
  let ctxs := s.ctxsIn 0 0
  flashRecord (s.resetRecord
    { domain := 0, cause := src.code + 1, escalated := esc, unit := 0, fence := s.time, ctxs := ctxs, answered := 0, prev := prev }
    4 (s.recordSections 0 0 ctxs)) s

/-- RSTC_CAUSE and RSTC_LAST (R417, R433). DEDUCED: log entry 24. -/
def setCause (src : Source) (cold timer esc : Bool) (s : State) : State :=
  (s.setReg (aRstc 0) (s.reg (aRstc 0) ||| ((1 : Word) <<< src.code))).setReg (aRstc 4)
    (packBits [(src.code, 0), (bit cold, 3), (bit esc, 4), (bit timer, 5)])

/-- A reset of the device from a source (R417): `cold` whether a cold start follows, `timer` for the start timer, `esc` for an
escalation from domain `esc`'s record. In OFF there is nothing to reset (R38). A reset that comes while another is held joins it:
RSTC_CAUSE shows both (R491). From RECOVERY the start is cold (R441). -/
def resetDevice (src : Source) (cold timer : Bool) (esc : Option (Option Word)) (s : State) : State :=
  if s.dev = .off then s else
  let joined := s.starting && !s.boot.running && s.power.held
  let keepD2 := decide (src ≠ .pin)
  let c := cold || !keepD2 || decide (s.dev = .recovery) || (joined && decide (s.boot.kind = .cold))
  let shown := if joined ∧ s.boot.source = .pin then Source.pin else src
  let s1 := if keepD2 then s.activeCtxs.foldl (fun t k => forcedVote k vDomainReset t) s else s
  let s2 := recordDevice src esc.isSome (esc.getD none) s1
  let s3 := (setCause shown c timer esc.isSome (clearDevice keepD2 false s2)).setRegBit (aRstc 0) src.code true
  let s4 := if c then { s3 with hbm := [] } else s3
  let s5 := { s4 with boot := { Boot.reset with kind := if c then .cold else .warm, fromPor := false, source := shown,
                                                recovery := s.boot.recovery, recoveryTime := s.boot.recoveryTime } }
  (setDev (if c then .coldStart else .warmStart) s5)

/-- Power-on reset, from POR or BOR (R417, R489): everything is cleared but module flash. -/
def resetPower (bor : Bool) (straps : Straps) (s : State) : State :=
  let s1 := clearDevice false true { s with mem := [] }
  let src := if bor then Source.bor else Source.por
  let s2 := setCause src true false false s1
  let s3 := { s2 with hbm := [], boot := { Boot.reset with source := src, recovery := s.boot.recovery, recoveryTime := s.boot.recoveryTime },
                      bndy := { s2.bndy with txClamp := straps.txClamp }, power := { s2.power with straps := straps, porDone := true } }
  (setDev .coldStart s3)

/-! ### Rejected objects (R443) -/

/-- IMAGE_REJECTED (R462). -/
def rejectImage (typ place reason : Nat) (svn : Word) (s : State) : State :=
  raiseDev 0x0502 2 noUnit (leBytes 1 typ ++ leBytes 1 place ++ leBytes 1 reason ++ leBytes 1 0 ++ leBytes 4 svn.toNat) s

/-- Check an object that is present; an invalid one raises IMAGE_REJECTED. -/
def checkObj (o : Option SignedObj) (typ place : Nat) (serial : Bytes) (minSvn : Word) (s : State) : State × Option SignedObj :=
  match o with
  | none => (s, none)
  | some x =>
    match objReason x typ serial minSvn with
    | none => (s, some x)
    | some r => (rejectImage typ place r (objSvn x) s, none)

/-! ### Stage 1: part record, configuration, code (R444, R446, R447) -/

/-- The first valid copy of the part record, whose part must agree with the stacks' capacity and whose spare map must keep the rules
(R447). -/
def findPart (env : StartEnv) (s : State) : State × Option SignedObj :=
  let fits := env.capacity.all fun g => decide (g = s.part.gib)
  let look := fun (o : Option SignedObj) (t : State) =>
    let (t1, r) := checkObj o 4 5 [] 0 t
    match r with
    | none => (t1, none)
    | some x => if fits && spareMapOk x then (t1, some x) else (rejectImage 4 5 7 (objSvn x) t1, none)
  let (s1, a) := look s.flash.part0 s
  match a with
  | some x => (s1, some x)
  | none => look s1.flash.part1 s1

/-- The configuration a payload holds. -/
def configOf (o : SignedObj) : SignedConfig :=
  let p := (objPayload o)
  { serial := BitVec.ofNat 64 (fieldLe p 0 8), failLimit := fieldLe p 8 1, minSvn := BitVec.ofNat 32 (fieldLe p 9 4),
    fabricPub := sliceB p 13 57, debugPub := sliceB p 70 57 }

/-- Check one configuration copy: a serial below the highest seen is rejected. -/
def checkConfig (serial : Bytes) (o : Option SignedObj) (s : State) : State × Option SignedObj :=
  let (s1, r) := checkObj o 3 6 serial 0 s
  match r with
  | none => (s1, none)
  | some x => if (configOf x).serial < s1.flash.boot.highestSerial then (rejectImage 3 6 6 (objSvn x) s1, none) else (s1, some x)

/-- The configuration in force: copies in order of CONFIG_SERIAL, the highest first. -/
def findConfig (serial : Bytes) (s : State) : State × Option SignedObj :=
  let key := fun (o : Option SignedObj) => match o with | some x => (configOf x).serial.toNat | none => 0
  let (a, b) := if key s.flash.cfgA < key s.flash.cfgB then (s.flash.cfgB, s.flash.cfgA) else (s.flash.cfgA, s.flash.cfgB)
  let (s1, r) := checkConfig serial a s
  match r with
  | some x => (s1, some x)
  | none => checkConfig serial b s1

/-- The code a start runs: BOOTED of SECU_STATUS, stage 1 and runtime. -/
structure Code where
  booted : BitVec 2
  stage1 : SignedObj
  runtime : SignedObj
  deriving DecidableEq, Repr

/-- Check a stage 1 and a runtime as one candidate. -/
def checkCode (booted : BitVec 2) (p1 p2 : Nat) (st1 rt : Option SignedObj) (serial : Bytes) (minSvn : Word) (s : State) :
    State × Option Code :=
  let (s1, a) := checkObj st1 1 p1 serial minSvn s
  let (s2, b) := checkObj rt 2 p2 serial minSvn s1
  match a, b with
  | some x, some y => (s2, some { booted := booted, stage1 := x, runtime := y })
  | _, _ => (s2, none)

/-- The firmware slot of a name. -/
def Flash.slot (f : Flash) (b : Bool) : FwSlot := if b then f.slotB else f.slotA

/-- Choose code in the order of R444. DEDUCED: log entry 20. -/
def findCode (serial : Bytes) (minSvn : Word) (s : State) : State × Option Code :=
  let act := s.flash.boot.slotB
  let place := fun b => if b then 2 else 1
  let slotTry := fun b (t : State) =>
    checkCode (if b then 1 else 0) (place b) (place b) (t.flash.slot b).stage1 (t.flash.slot b).runtime serial minSvn t
  let (s1, c1) := if s.flash.boot.confirmed ∧ s.flash.staging.isSome then
      checkCode 3 (place act) 4 (s.flash.slot act).stage1 s.flash.staging serial minSvn s
    else (s, none)
  match c1 with
  | some c => (s1, some c)
  | none =>
    let (s2, c2) := slotTry act s1
    match c2 with
    | some c => (s2, some c)
    | none =>
      let (s3, c3) := slotTry (!act) s2
      match c3 with
      | some c => (s3, some c)
      | none => checkCode 2 3 3 s3.flash.golden.stage1 s3.flash.golden.runtime serial minSvn s3

/-- At POR a CONFIRMED staged runtime is copied into the slot not named active, which becomes active; staging is cleared
(R454). -/
def promoteStaged (serial : Bytes) (s : State) : State :=
  if ¬ s.flash.boot.confirmed then s
  else
    let (s1, r) := checkObj s.flash.staging 2 4 serial 0 s
    match r with
    | none => s1
    | some x =>
      let f := s1.flash
      let act := f.boot.slotB
      let slot : FwSlot := { stage1 := (f.slot act).stage1, runtime := some x }
      let f1 := if act then { f with slotA := slot } else { f with slotB := slot }
      { s1 with flash := { f1 with staging := none, boot := { f.boot with slotB := !act, confirmed := false } } }

/-- The boot ROM locks ranges 0 to 3 over the regions of R435 at POR (R363). -/
def lockRanges (s : State) : State :=
  [(0, 0, 0), (1, 1, 1), (2, 2, 5), (3, 6, 13)].foldl (fun t (e : Nat × Nat × Nat) =>
    (t.setReg (aBndy (0x80 + 8 * e.1)) (BitVec.ofNat 32 (e.2.1 + 2 ^ 31))).setReg (aBndy (0x84 + 8 * e.1)) (BitVec.ofNat 32 e.2.2)) s

/-! ### Measurements and keys (R448 to R450) -/

/-- A log entry's 80 bytes. -/
def MeasEntry.bytes (m : MeasEntry) : Bytes :=
  leBytes 4 m.index.toNat ++ leBytes 1 m.stage.toNat ++ leBytes 1 m.kind.toNat ++ leBytes 2 0 ++ leBytes 4 m.svn.toNat ++ leBytes 4 0
    ++ sliceB m.digest 0 64

/-- Take a measurement: the log gains an entry, its digest moves on, BOOT_MEASURED is raised. -/
def measure (stage kind : Byte) (o : SignedObj) (s : State) : State :=
  let m : MeasEntry := { index := BitVec.ofNat 32 s.secu.log.length, stage := stage, kind := kind, svn := (objSvn o), digest := shake256 o.bytes 64 }
  let d := shake256 (sliceB s.secu.logDigest 0 64 ++ m.bytes) 64
  raiseDev 0x0501 0 noUnit (leBytes 4 m.index.toNat ++ leBytes 1 kind.toNat ++ leBytes 3 0 ++ leBytes 4 m.svn.toNat ++ sliceB m.digest 0 16)
    { s with secu := { s.secu with log := s.secu.log ++ [m], logDigest := d } }

/-- A draw of the entropy source. -/
def drawEntropy (s : State) : State × BitVec 256 := ({ s with fresh := s.fresh + 1 }, Config.entropy s.fresh)

/-- Derive the runtime's CDI and the quote key (R449, R450). -/
def deriveKeys (runtime : SignedObj) (s : State) : State :=
  let (s1, nonce) := drawEntropy s
  let cdi2 := shake256 (s1.secu.cdi1 ++ shake256 runtime.bytes 64) 64
  let seed := shake256 (cdi2 ++ leBytes 32 nonce.toNat) 57
  { s1 with secu := { s1.secu with cdi2 := cdi2, quoteSeed := seed, svn := objSvn runtime, running := some runtime } }

/-- Draw a new debug nonce (R452). -/
def drawDebugNonce (s : State) : State :=
  let (s1, n) := drawEntropy s
  { s1 with secu := { s1.secu with dbgNonce := n } }

/-! ### The audit ledger at a start (R460, R461) -/

/-- Append what waits in the reserve, while the ring has slots; `n` bounds the entries. -/
def flushReserve : Nat → State → State
  | 0, s => s
  | n + 1, s =>
    match s.audit.reserve with
    | [] => s
    | e :: t =>
      if s.auditFull then s
      else flushReserve n (auditAppend { e with flags := e.flags ||| 8 } { s with audit := { s.audit with reserve := t } })

/-- An entry of the twin's mirror: its SEQ and the bytes before CHAIN (R456). -/
def mirrorEntry (seq : Dword) (b : Bytes) (chain : BitVec 128) : AuditEntry :=
  let e : AuditEntry :=
    { seq := seq, time := BitVec.ofNat 64 (fieldLe b 8 8), cls := BitVec.ofNat 3 (fieldLe b 16 1), kind := BitVec.ofNat 5 (fieldLe b 16 1 / 8),
      flags := BitVec.ofNat 8 (fieldLe b 17 1), originId := BitVec.ofNat 48 (fieldLe b 18 6), target := BitVec.ofNat 64 (fieldLe b 24 8),
      old := BitVec.ofNat 64 (fieldLe b 32 8), new := BitVec.ofNat 64 (fieldLe b 40 8), chain := 0 }
  { e with chain := chainNext chain e }

/-- The entries of the mirror that follow on the last one held, in order. -/
def mirrorRun : List (Dword × Bytes) → Dword → BitVec 128 → List AuditEntry
  | [], _, _ => []
  | (n, b) :: t, next, chain =>
    if n = next then
      let e := mirrorEntry n b chain
      e :: mirrorRun t (next + 1) e.chain
    else mirrorRun t next chain

/-- The ledger resumes at a cold start: the flash tail, the twin's entries beyond it, a RESUME entry; what was appended since
the reset follows from the reserve. -/
def resumeAudit (env : StartEnv) (s : State) : State :=
  let a := s.audit
  let early := (a.ring.filter fun e => decide (s.devSince ≤ e.time)) ++ a.reserve
  let (next, chain) : Dword × BitVec 128 := match s.flash.auditArea.getLast? with
    | some e => (e.seq + 1, e.chain)
    | none => (0, 0)
  let got := mirrorRun env.mirror next chain
  let (next1, chain1) := match got.getLast? with
    | some e => (e.seq + 1, e.chain)
    | none => (next, chain)
  let s1 := { s with flash := { s.flash with auditArea := s.flash.auditArea ++ got },
                     audit := { a with next := next1, chain := chain1, ring := [], drained := next1 - 1, sent := next1, reserve := early } }
  let s2 := auditPush (mkEntry 5 7 0 8 0 (next1 - 1) (BitVec.ofNat 64 got.length)) s1
  flushReserve early.length s2

/-! ### RECOVERY (R438 to R442) -/

/-- A cause of RECOVERY is found: a start that began with POR enters it; any other asks for a recovery power cycle. -/
def enterRecovery (cause : Byte) (s : State) : State :=
  let s1 := { s with boot := { s.boot with recovery := some cause, recoveryTime := s.time } }
  let s2 := raiseDev 0x0505 3 noUnit (leBytes 1 cause.toNat ++ leBytes 1 s.flash.start.failed ++ leBytes 6 0 ++ leBytes 8 s.time.toNat) s1
  let e := mkEntry 5 5 8 7 (BitVec.ofNat 64 (8 * 2 ^ 56 + (Config.actionCode 5).toNat * 2 ^ 40)) (Config.actionOld 5 0) (Config.actionNew 5 0)
  let s3 := smbAlert 4 { s2 with audit := { s2.audit with reserve := s2.audit.reserve ++ [e] } }
  if s.boot.fromPor then
    setDev .recovery (linkFresh (some 2) s3.trepel.laneFail { s3 with boot := { s3.boot with running := false, timer := none } })
  else { s3 with flash := { s3.flash with start := { s3.flash.start with recoveryPending := some cause } } }

/-- The start-attempt record at stage 1 (R439): an attempt left in progress has failed. -/
def noteAttempt (s : State) : State :=
  let r := s.flash.start
  if r.inProgress then
    { s with flash := { s.flash with start :=
        { r with failed := r.failed + 1, lastSource := BitVec.ofNat 8 s.boot.source.code, lastTime := s.time } } }
  else s

/-- An attempt begins: IN_PROGRESS and STARTS. -/
def beginAttempt (s : State) : State :=
  let r := s.flash.start
  { s with flash := { s.flash with start := { r with inProgress := true, starts := min 65535 (r.starts + 1) } } }

/-! ### Stages 2 to 7 -/

/-- The configuration in force, with the limit it sets (R439, R444). -/
def applyConfig (o : Option SignedObj) (s : State) : State :=
  let r := s.flash.start
  match o with
  | none => { s with flash := { s.flash with start := { r with limit := 3 } } }
  | some x =>
    let c := configOf x
    { s with secu := { s.secu with config := some c },
             flash := { s.flash with start := { r with limit := clampNat c.failLimit 2 8 },
                                     boot := { s.flash.boot with highestSerial := if s.flash.boot.highestSerial < c.serial then c.serial
                                                                                  else s.flash.boot.highestSerial } } }

/-- Whether a warm start may stay warm at stage 3 (R437). DESIGN CHOICE: log entry 21. -/
def State.warmHolds (s : State) (env : StartEnv) : Bool :=
  env.selfRefreshAcked && s.flash.savedCal && env.tempsNear && env.scratchOk

/-- ROW_SPARED (R290): KIND 1 soft, 2 hard. -/
def rowEvent (r : RowRepair) (kind : Nat) (s : State) : State :=
  raiseDev 0x0205 0 r.stack (leBytes 1 r.row.pc.toNat ++ leBytes 1 r.row.bank.toNat ++ leBytes 2 r.row.row.toNat ++ leBytes 1 kind
    ++ leBytes 1 r.trigger.toNat ++ leBytes 1 r.left.toNat) s

/-- Stage 3 (R421, R436): stacks trained and cleared, or out of self-refresh; a stack whose training fails is FAILED. -/
def trainStacks (env : StartEnv) (cold : Bool) (s : State) : State :=
  let st := fun i : Nat => if env.stacksFailed.any fun k => decide (k.val = i) then (5 : BitVec 3) else 2
  let fresh := fun i : Nat =>
    let k := { Stack.empty with retired := (s.redirectsOf i).length, ueFrames := if cold then [] else (s.stack i).ueFrames }
    if st i = 2 then k.ready s.time else { k with state := st i }
  let s1 := { s with hbm := (List.range 12).map fun i => (i, fresh i) }
  let s2 := if cold then
      { s1 with mem := [], bndy := { s1.bndy with tableFrames := [] },
                flash := { s1.flash with savedCal := true, rows := s1.flash.rows.map fun r => { r with hard := true } } }
    else s1
  let s3 := if env.stacksFailed.isEmpty then s2 else setHealth 0x11 s2
  let s4 := if cold then (s.flash.rows.filter fun r => !r.hard).foldl (fun t r => rowEvent r 2 t) s3 else s3
  s4.setRegBit 0x10 1 true

/-- Stage 4 applies the cluster repair log over the spare map; an entry that breaks the rules is ignored and raises IMAGE_REJECTED
(R447). -/
def checkRepairLog (s : State) : State :=
  (s.flash.substs.filter fun e => !s.substOk e).foldl (fun t _ => rejectImage 4 5 7 0 t) s

/-- The rest of a start whose code has been chosen: stages 1 to 7 up to the raising of READY. -/
def bootCode (env : StartEnv) (part : SignedObj) (cfg : Option SignedObj) (code : Code) (s : State) : State :=
  let cold0 := decide (s.boot.kind = .cold)
  let s1 := beginAttempt s
  let s2 := if s1.boot.fromPor then lockRanges s1 else s1
  let s3 := { s2 with secu := { s2.secu with log := [], logDigest := List.replicate 64 0 } }
  let s4 := measure 1 1 part s3
  let s5 := match cfg with | some c => measure 2 2 c s4 | none => s4
  let s6 := measure 1 3 code.stage1 s5
  let cdi1 := if cold0 then shake256 (Config.pufSecret env.puf ++ shake256 code.stage1.bytes 64) 64 else s6.secu.cdi1
  let s7 := measure 2 4 code.runtime { s6 with secu := { s6.secu with cdi1 := cdi1 } }
  let s8 := drawDebugNonce (deriveKeys code.runtime s7)
  let s9 := { s8 with secu := { s8.secu with staged := code.booted == 3 }, boot := { s8.boot with booted := code.booted } }
  let warm := !cold0 && s9.warmHolds env
  let s10 := if ¬ cold0 ∧ ¬ warm then
      setDev .coldStart { s9 with boot := { s9.boot with kind := .cold }, hbm := [] }
    else s9
  let s11 := trainStacks env (!warm) (s10.setRegBit 0x10 7 true)
  let w := trainTrepel env.trplLaneFail 0
  let s12 := linkFresh w env.trplLaneFail { checkRepairLog s11 with boot := { s11.boot with stage := 7 } }
  if warm then flushReserve s12.audit.reserve.length s12 else resumeAudit env s12

/-- START (R436 to R450): everything a start does before READY. It runs once the reset is released. DESIGN CHOICE: log entry 18. -/
def startDevice (env : StartEnv) (s : State) : State :=
  if ¬ s.starting ∨ s.boot.running ∨ s.power.held then s
  else
    let s0 := { s with boot := { s.boot with running := true, stage := 1, pufOk := true, timer := some (s.time + 120000000000) } }
    let pend := s0.flash.start.recoveryPending
    let s1 := noteAttempt s0
    match (if s1.boot.fromPor then pend else none) with
    | some cause =>
      enterRecovery cause { s1 with flash := { s1.flash with start := { s1.flash.start with recoveryPending := none } } }
    | none =>
      if s1.flash.start.limit ≤ s1.flash.start.failed then enterRecovery 1 s1
      else
        let (s2, part) := findPart env s1
        match part with
        | none => enterRecovery 3 (beginAttempt s2)
        | some p =>
          if s2.boot.kind = .cold ∧ ¬ Config.pufMatches env.puf p.bytes then
            enterRecovery 4 (beginAttempt { s2 with boot := { s2.boot with pufOk := false } })
          else
            let s3 := if s2.boot.fromPor then promoteStaged (objSerial p) s2 else s2
            let (s4, cfg) := findConfig (objSerial p) s3
            let s5 := applyConfig cfg s4
            let (s6, code) := findCode (objSerial p) (match s5.secu.config with | some c => c.minSvn | none => 0) s5
            match code with
            | none => enterRecovery 2 (beginAttempt s6)
            | some k => bootCode env p cfg k s6

/-- The earliest last clean time among some physical clusters. -/
def State.earliestClean (s : State) (ps : List Nat) : Dword :=
  match (ps.filterMap fun p => (s.logical? p).map fun n => (s.clus n).lastClean) with
  | [] => 0
  | t :: r => r.foldl (fun a b => if b < a then b else a) t

/-- CHIP_DRAINED is raised, RSTC_SUSPECT names the last suspect (R432, R433). -/
def noteDrain (trigger decision : Nat) (suspects : List Nat) (s : State) : State :=
  let s1 := match suspects.getLast? with
    | some p => s.setReg (aRstc 0x60) (packBits [(p, 0), (trigger, 16)])
    | none => s
  raiseDev 0x0406 2 noUnit (leBytes 1 trigger ++ leBytes 1 decision ++ leBytes 1 suspects.length ++ leBytes 1 0
    ++ ((List.range 4).flatMap fun i => leBytes 2 (suspects.getD i 0xFFFF)) ++ leBytes 8 (s1.earliestClean suspects).toNat) s1

/-- Management cores online (R416). -/
def State.coresOnline (s : State) : Nat := ((List.range 8).filter fun i => s.flash.coreMask.getLsbD i).length

/-- START_COMPLETE (R439): READY, or ACTIVE with a context active (R38); with fewer than six cores the device goes on to FENCED at once
(R413, R416), and so does one with no spare left, which does not return to ACTIVE (R22). DEDUCED: log entry 22. -/
def startComplete (s : State) : State :=
  if ¬ s.starting ∨ ¬ s.boot.running ∨ s.boot.stage ≠ 7 then s
  else
    let r := s.flash.start
    let s1 := { s with flash := { s.flash with start := { r with inProgress := false, failed := 0 } },
                       boot := { s.boot with running := false, stage := 0, timer := none } }
    let s2 := flushAll (setDev .ready s1)
    if s2.coresOnline < 6 then (setDev .fenced (noteDrain 6 0 [] (setHealth 0x21 s2)))
    else if s2.flash.health.getLsbD 2 then setDev .fenced s2
    else recount s2

/-- The start timer expires 120 s after the release of reset (R439). -/
def startTimerExpire (s : State) : State :=
  match s.boot.timer with
  | none => s
  | some t => if s.starting ∧ t ≤ s.time then resetDevice .wdt true true none s else s

/-! ### Commands -/

/-- START. -/
def execStart (env : StartEnv) (s : State) : Answer := .next (startDevice env s)
/-- START_COMPLETE. -/
def execStartComplete (s : State) : Answer := .next (startComplete s)
/-- START_TIMER_EXPIRE. -/
def execStartTimerExpire (s : State) : Answer := .next (startTimerExpire s)

end Sys2Proof.Machine
end

