-- ==== Sys2Proof/Machine/TwinLink.lean ====
section
/-! DEFINITION. Packets that a module sends straight to its twin on W: partner-area traffic (R389) and the messages of the
pairing (R392, R393). -/

namespace Sys2Proof.Machine

/-- Whether a packet is partner-area traffic: JOB 0 in coordinate mode with ALT_RANK 1 (images) or 2 (the audit mirror). -/
def Packet.partner (p : Packet) : Bool := decide (p.job = 0) && p.addrMode && (decide (p.altRank = 1) || decide (p.altRank = 2))

/-- Whether a packet is a message of the pairing: a CTL_MSG of type 3 to 5 of job 0. -/
def Packet.pairing (p : Packet) : Bool :=
  decide (p.job = 0) && p.addrMode && decide (p.op = 0x21) && decide (3 ≤ p.target.toNat ∧ p.target.toNat ≤ 5)

/-- Put a packet that has its sequence number on W. -/
def putTwin (q : Packet) (s : State) : State :=
  let q1 := { q with epoch := s.regBit (aFabr 0x200) 0, hops := 1 }
  enqueue 8 { pkt := q1, transit := false, turned := false, stomp := false, since := 0, v0 := none, uplink := 0 } s

/-- Send a packet straight on W (R389); the packet as sent is also answered. -/
def sendTwin (p : Packet) (s : State) : State × Packet :=
  let (s1, n) := takeSeq p.job p.src p.rank p.cls s
  let q := { p with seq := n }
  (putTwin q s1, q)

/-- A packet of job 0 to the twin. -/
def State.twinPacket (s : State) (cls : BitVec 2) (op : Byte) (alt : BitVec 21) (target : Nat) (info : Word) (last : Bool) (payload : Bytes) :
    Packet :=
  { epoch := false, cls := cls, addrMode := true, poison := false, mc := false, dst := s.twin.coord, op := op, src := 0, job := 0,
    counter := 0, seq := 0, retx := false, last := last, mcSpan := 0, mcDim := 0, target := BitVec.ofNat 64 target, info := info,
    altRank := alt, vc := false, hops := 0, payload := payload }

/-- Bytes and their CRC-32C (R303). -/
def sealed (b : Bytes) : Bytes := b ++ leBytes 4 (crc32c b)

/-- A MEM_WRITE into the twin's partner area. -/
def State.twinWrite (s : State) (alt : BitVec 21) (target : Nat) (last : Bool) (b : Bytes) : Packet :=
  s.twinPacket 0 2 alt target 0 last (sealed b)

/-- Send a CTL_MSG of a type on W. -/
def twinMessage (typ : Nat) (msg : Bytes) (s : State) : State := (sendTwin (s.twinPacket 3 0x21 0 typ 0 true (sealed msg)) s).1

/-- PAIR_HELLO: FEED_ID, FABR_COORD and the partner-area size (R392). -/
def sendHello (s : State) : State :=
  twinMessage 3 (leBytes 4 s.power.straps.feedId.toNat ++ leBytes 4 s.ownCoord ++ leBytes 4 (s.regField (aComtDev 0x10) 15 0)) s

/-- W has come up: pairing that waits for it starts. -/
def pairOnUp (p : Nat) (s : State) : State := if p = 8 ∧ s.twin.state = 1 then sendHello s else s

end Sys2Proof.Machine
end

