-- ==== Sys2Proof/Machine/Ports.lean ====
section
/-! DEFINITION. The state of the fabric ports (R296 to R298, R317, R319): enabling, training, going down, width. -/

namespace Sys2Proof.Machine

/-- Whether a port is enabled: its EN, and its bit of GCTL_ENABLE (R296). -/
def State.portEnabled (s : State) (p : Nat) : Bool :=
  s.regBit (aPort p 0) 0 && (if p < 6 then s.fabrEn else if p = 8 then s.twinEn else s.uplinkEn)

/-- Whether a port carries frames: it is up, and a torus port has its coordinate (R296). -/
def State.portCarries (s : State) (p : Nat) : Bool := (s.port p).up && (decide (6 ≤ p) || s.regBit (aFabr 0) 31)

/-- Set PORT_STATUS.STATE; the change is recorded (R457). DEDUCED: log entry 85. -/
def setPortState (p : Nat) (st : BitVec 3) (s : State) : State :=
  let x := s.port p
  if x.state = st then s else auditState 5 3 p x.state.toNat st.toNat (s.setPort p { x with state := st })

/-- Discard what a port holds, with reason PORT_DOWN. -/
def dropQueue (p : Nat) (s : State) : State :=
  let x := s.port p
  x.queue.foldl (fun t q => discardAt p 7 (some q.pkt) t) (s.setPort p { x with queue := [] })

/-- A port goes down (R296): LINK_DOWN once for the transition, with CAUSE and the uncorrectable codewords of the last 1 ms. -/
def portDown (p cause : Nat) (ucw : Word) (s : State) : State :=
  let x := s.port p
  if x.state = 4 ∨ x.state = 0 ∨ x.isolated then s
  else
    let s1 := setPortState p 4 (dropQueue p s)
    let s2 := s1.setPort p { s1.port p with pcsLock := false, anDone := false }
    raiseDev 0x0301 1 p (leBytes 1 cause ++ leBytes 1 x.laneFail.toNat ++ leBytes 2 0 ++ leBytes 4 ucw.toNat ++ leBytes 8 x.upTime.toNat)
      (count (aPort p 0xB0) 1 s2)

/-- Follow the enables of a port (R296): it trains, or goes to electrical idle. -/
def refreshPort (p : Nat) (s : State) : State :=
  let x := s.port p
  if x.isolated ∨ x.state = 5 ∨ x.state = 6 then s
  else if s.portEnabled p then (if x.state = 0 then setPortState p 1 s else s)
  else
    let s1 := setPortState p 0 (dropQueue p s)
    s1.setPort p { s1.port p with pcsLock := false, anDone := false }

/-- Follow the enables of several ports. -/
def refreshPorts (ps : List Nat) (s : State) : State := ps.foldl (fun t p => refreshPort p t) s

/-- The half a port can come up on with some lanes failing, none when full width is possible: `forced` is HALF with HALF_SEL
(R297). -/
inductive Lanes where
  | full
  | half (upper forced : Bool)
  | none
  deriving DecidableEq, Repr

/-- What a training whose lanes `fail` do not train gives (R297): a degraded port returns to full width only through a port reset in which
all eight lanes train. -/
def State.lanesOf (s : State) (p : Nat) (fail : Byte) : Lanes :=
  let x := s.port p
  let low := fail.toNat % 16
  let high := fail.toNat / 16
  if p = 6 ∨ p = 7 then (if fail = 0 then .full else .none)
  else if s.regBit (aPort p 0) 4 then
    let upper := s.regBit (aPort p 0) 5
    if (if upper then high else low) = 0 then .half upper true else .none
  else if fail = 0 then (if x.wasHalf ∧ ¬ x.srst then .half x.halfInUse false else .full)
  else if high = 0 then .half true false
  else if low = 0 then .half false false
  else .none

/-- A port comes up. -/
def portUp (p : Nat) (fail : Byte) (w : Lanes) (s : State) : State :=
  let up := fun (t : State) (half upper : Bool) =>
    let t1 := setPortState p (if half then 3 else 2) t
    t1.setPort p { t1.port p with halfInUse := upper, pcsLock := true, anDone := t1.regBit (aPort p 0) 3, laneFail := fail,
                                  upTime := t1.time, wasHalf := half, srst := false }
  match w with
  | .none => s
  | .full => pairOnUp p (up s false false)
  | .half upper forced =>
    raiseDev 0x0305 1 p (leBytes 1 (bit upper) ++ leBytes 1 fail.toNat ++ leBytes 1 (if forced then 2 else 1))
      (pairOnUp p (up s true upper))

/-- A training of a port ends (R296, R297): `partner` whether the partner trained with it. -/
def portTrained (p : Nat) (fail : Byte) (partner : Bool) (s : State) : State :=
  let x := s.port p
  if ¬ s.portEnabled p ∨ x.isolated ∨ (x.state ≠ 1 ∧ x.state ≠ 4) then s
  else
    match (if partner then s.lanesOf p fail else .none) with
    | .none => portDown p 3 0 (s.setPort p { x with laneFail := fail, srst := false })
    | w => portUp p fail w s

/-- PCS alignment is lost for 10 µs (R296). -/
def pcsLoss (p : Nat) (s : State) : State := if (s.port p).up then portDown p 1 0 s else s

/-- PORT_UCW_LIMIT: 0 acts as 16 (R319). -/
def State.ucwLimit (s : State) (p : Nat) : Nat :=
  let n := s.regField (aPort p 0x10) 7 0
  if n = 0 then 16 else n

/-- Too many uncorrectable codewords in a window of 1 ms (R296). -/
def ucwExceeded (p : Nat) (n : Word) (s : State) : State :=
  if (s.port p).up ∧ s.ucwLimit p < n.toNat then portDown p 2 n s else s

/-- A down port retrains after 1 s (R296). -/
def portRetrain (p : Nat) (s : State) : State :=
  if s.portEnabled p ∧ (s.port p).state = 4 then setPortState p 1 s else s

/-- PORT_TRAINING_DONE. -/
def execPortTrainingDone (port : Fin 9) (laneFail : Byte) (partner : Bool) (s : State) : Answer :=
  .next (portTrained port laneFail partner s)
/-- PCS_LOCK_LOSS. -/
def execPcsLockLoss (port : Fin 9) (s : State) : Answer := .next (pcsLoss port s)
/-- UCW_LIMIT_EXCEEDED. -/
def execUcwLimitExceeded (port : Fin 9) (count : Word) (s : State) : Answer := .next (ucwExceeded port count s)
/-- PORT_RETRAIN_TIMER. -/
def execPortRetrainTimer (port : Fin 9) (s : State) : Answer := .next (portRetrain port s)

end Sys2Proof.Machine
end

