-- ==== Sys2Proof/Machine/Power.lean ====
section
/-! DEFINITION. Power, pins and reference clocks (R34, R419, R442, R486 to R491). -/

namespace Sys2Proof.Machine

/-- Whether a boundary-scan instruction is loaded (R498). -/
def Jtag.scanning (j : Jtag) : Bool := [0x03, 0x04, 0x05, 0x06, 0x07].contains j.ir.toNat

/-- The sub-state of OFF while power-on reset holds (R489, R491). -/
def Power.waiting (p : Power) : SubState :=
  if ¬ (p.refSys && p.refNet) then .noRefclk
  else if p.resetLow || p.dbgLow || p.heldScan then .heldInReset
  else .sequencing

/-- OFF shows a sub-state; a change of it is a change of the state that SMBus reports (R495). DEDUCED from the example of R495. DEDUCED: log entry 27. -/
def setSub (w : SubState) (s : State) : State :=
  let s1 := { s with power := { s.power with sub := w } }
  if s.power.sub ≠ w ∧ s.dev = .off then smbAlert 0 s1 else s1

/-- Bring the sub-state of OFF up to date. -/
def refreshSub (s : State) : State :=
  let p := s.power
  if p.railsOn ∧ ¬ p.porDone then
    let w := p.waiting
    let s1 := setSub w s
    if w = .noRefclk then smbAlert 6 s1 else s1
  else s

/-- The main rails come up in order and MOD_PGOOD is released (R489 steps 2 and 3). -/
def railsUp (s : State) : State :=
  refreshSub { s with power := { s.power with railsOn := true, pgood := true, porDone := false, recoveryCycle := s.power.recoveryCycle } }

/-- The main rails go off, MOD_PGOOD goes low, and the state is OFF (R487, R490): everything but module flash is lost. -/
def railsOff (sub : SubState) (s : State) : State :=
  if ¬ s.power.railsOn then setSub sub s
  else
    let s1 := clearDevice false true (setSub sub (setDev .off (smbKeep s)))
    let p := s1.power
    { s1 with mem := [], hbm := [], jtag := { ir := 1, dr := 0 }, boot := { Boot.reset with recovery := s.boot.recovery, recoveryTime := s.boot.recoveryTime },
                         power := { p with railsOn := false, pgood := false, porDone := false, heldPin := false, heldDbg := false,
                                           heldScan := false, heldCfd := false } }

/-- STANDBY_POWER_UP (R489): a MOD_PWR_EN that rose before is acted on now. DESIGN CHOICE: log entry 17. -/
def standbyUp (s : State) : State :=
  if s.power.standby then s
  else
    let s1 := { s with power := { s.power with standby := true, sub := .standby } }
    if s1.power.pwrEn then railsUp s1 else s1

/-- MOD_PWR_EN_RISE (R489). -/
def pwrEnRise (s : State) : State :=
  if s.power.pwrEn then s
  else
    let s1 := { s with power := { s.power with pwrEn := true } }
    if s1.power.standby ∧ ¬ s1.power.railsOn ∧ ¬ s1.power.railLatch then railsUp s1 else s1

/-- POR_RELEASE (R489 steps 4 and 5, R491): both references run and both reset pins are high. -/
def porRelease (straps : Straps) (s : State) : State :=
  let p := s.power
  if p.railsOn ∧ p.pgood ∧ ¬ p.porDone ∧ p.refSys ∧ p.refNet ∧ ¬ p.resetLow ∧ ¬ p.dbgLow ∧ ¬ p.heldScan then
    let s1 := resetPower p.brownOut straps s
    { s1 with power := { s1.power with brownOut := false, recoveryCycle := false, sub := .standby } }
  else s

/-- MOD_PWR_EN_FALL (R490). -/
def pwrEnFall (s : State) : State :=
  if ¬ s.power.pwrEn then s
  else
    let s1 := railsOff .standby s
    { s1 with power := { s1.power with pwrEn := false, railLatch := false, brownOut := false, recoveryCycle := false } }

/-- BROWN_OUT (R487). -/
def brownOut (s : State) : State :=
  if ¬ s.power.railsOn then s
  else
    let s1 := smbAlert 5 (railsOff .brownOut s)
    { s1 with power := { s1.power with brownOut := true } }

/-- BROWN_OUT_RECOVERY (R487). -/
def brownOutRecovery (s : State) : State :=
  let p := s.power
  if p.brownOut ∧ p.pwrEn ∧ p.standby ∧ ¬ p.railsOn then railsUp s else s

/-- RAIL_FAULT (R490): off until MOD_PWR_EN has been low and rises again. -/
def railFault (s : State) : State :=
  if ¬ s.power.railsOn then s
  else
    let s1 := smbAlert 5 (railsOff .railFault s)
    { s1 with power := { s1.power with railLatch := true } }

/-- STANDBY_RAIL_OFF (R487): the main rails are off and SMBus is silent. -/
def standbyOff (s : State) : State :=
  if ¬ s.power.standby then s
  else
    let on := s.power.railsOn
    let s1 := railsOff .standby s
    { s1 with power := { s1.power with standby := false, brownOut := s1.power.brownOut || on } }

/-- MOD_RESET_N_ASSERT (R491): a PIN reset, held while the pin stays low. -/
def resetPinLow (s : State) : State :=
  if s.power.resetLow then s
  else if s.power.porDone then
    let s1 := resetDevice .pin true false none s
    { s1 with power := { s1.power with resetLow := true, heldPin := true } }
  else refreshSub { s with power := { s.power with resetLow := true } }

/-- MOD_RESET_N_RELEASE (R491, R498): the start begins, unless a boundary-scan instruction is loaded. -/
def resetPinHigh (s : State) : State :=
  let p := s.power
  let was := p.heldPin || (p.resetLow && p.railsOn && !p.porDone)
  refreshSub { s with power := { p with resetLow := false, heldPin := false, heldScan := p.heldScan || (was && s.jtag.scanning) } }

/-- DBG_REQ_N_ASSERT (R491): a DBG reset, held while the pin stays low. -/
def dbgPinLow (s : State) : State :=
  if s.power.dbgLow then s
  else if s.power.porDone then
    let s1 := resetDevice .dbg false false none s
    { s1 with power := { s1.power with dbgLow := true, heldDbg := true } }
  else refreshSub { s with power := { s.power with dbgLow := true } }

/-- DBG_REQ_N_RELEASE (R491). -/
def dbgPinHigh (s : State) : State := refreshSub { s with power := { s.power with dbgLow := false, heldDbg := false } }

/-- CLOCK_FAILURE (R34, R419): a CFD reset, held; without REFCLK_NET every port drops. -/
def clockFailure (net : Bool) (s : State) : State :=
  let p := s.power
  let s1 := { s with power := if net then { p with refNet := false } else { p with refSys := false } }
  if ¬ p.standby then s1
  else if ¬ p.porDone then refreshSub s1
  else
    let s2 := if net then (List.range 9).foldl (fun t q => if (t.port q).up then portDown q 1 0 t else t) s1 else s1
    let s3 := resetDevice .cfd false false none (smbAlert 6 s2)
    { s3 with power := { s3.power with heldCfd := true } }

/-- REFCLK_RESTORED (R419): the held CFD reset is released. DESIGN CHOICE: log entry 25. -/
def refclkRestored (s : State) : State :=
  refreshSub { s with power := { s.power with refSys := true, refNet := true, heldCfd := false } }

/-- RECOVERY_POWER_CYCLE (R442): a start that did not begin with POR has found a cause of RECOVERY; the main rails go off. -/
def recoveryCycle (s : State) : State :=
  if s.starting ∧ s.boot.running ∧ ¬ s.boot.fromPor ∧ s.flash.start.recoveryPending.isSome then
    let s1 := railsOff .standby s
    { s1 with power := { s1.power with recoveryCycle := true } }
  else s

/-- RECOVERY_POWER_UP (R442). -/
def recoveryUp (s : State) : State :=
  let p := s.power
  if p.recoveryCycle ∧ p.pwrEn ∧ p.standby ∧ ¬ p.railsOn then railsUp s else s

/-! ### Commands -/

/-- STANDBY_POWER_UP. -/
def execStandbyPowerUp (s : State) : Answer := .next (standbyUp s)
/-- MOD_PWR_EN_RISE. -/
def execModPwrEnRise (s : State) : Answer := .next (pwrEnRise s)
/-- POR_RELEASE. -/
def execPorRelease (straps : Straps) (s : State) : Answer := .next (porRelease straps s)
/-- MOD_PWR_EN_FALL. -/
def execModPwrEnFall (s : State) : Answer := .next (pwrEnFall s)
/-- BROWN_OUT. -/
def execBrownOut (s : State) : Answer := .next (brownOut s)
/-- BROWN_OUT_RECOVERY. -/
def execBrownOutRecovery (s : State) : Answer := .next (brownOutRecovery s)
/-- RAIL_FAULT. -/
def execRailFault (s : State) : Answer := .next (railFault s)
/-- MOD_RESET_N_ASSERT. -/
def execModResetNAssert (s : State) : Answer := .next (resetPinLow s)
/-- MOD_RESET_N_RELEASE. -/
def execModResetNRelease (s : State) : Answer := .next (resetPinHigh s)
/-- DBG_REQ_N_ASSERT. -/
def execDbgReqNAssert (s : State) : Answer := .next (dbgPinLow s)
/-- DBG_REQ_N_RELEASE. -/
def execDbgReqNRelease (s : State) : Answer := .next (dbgPinHigh s)
/-- CLOCK_FAILURE. -/
def execClockFailure (net : Bool) (s : State) : Answer := .next (clockFailure net s)
/-- REFCLK_RESTORED. -/
def execRefclkRestored (s : State) : Answer := .next (refclkRestored s)
/-- RECOVERY_POWER_CYCLE. -/
def execRecoveryPowerCycle (s : State) : Answer := .next (recoveryCycle s)
/-- RECOVERY_POWER_UP. -/
def execRecoveryPowerUp (s : State) : Answer := .next (recoveryUp s)
/-- STANDBY_RAIL_OFF. -/
def execStandbyRailOff (s : State) : Answer := .next (standbyOff s)

end Sys2Proof.Machine
end

