-- ==== Sys2Proof/Machine/Resets.lean ====
section
/-! DEFINITION. Domain resets below D0 (R420 to R428), the watchdog, the spine and the task limit, which start them. -/

namespace Sys2Proof.Machine

/-! ### Fence (R420, R422) -/

/-- The bound of a domain in ns (R420). -/
def resetBound (domain : Nat) : Nat :=
  match domain with
  | 3 => 20000000
  | 6 => 300000000
  | 7 => 50000000
  | _ => 2000000

/-- The parts of a reset in the order of R425: 6 stack controllers, 3 spine stops and ACLK, 4 quires, 5 clusters, 7 the port. -/
def resetParts (domain : Nat) : List Nat :=
  match domain with
  | 3 => [6, 3, 4, 5]
  | 4 => [4, 5]
  | d => [d]

/-- The clusters of a domain's unit. -/
def domainClusters (domain unit : Nat) : List Nat :=
  match domain with
  | 3 => (List.range 128).map fun i => unit * 128 + i
  | 4 => (List.range 16).map fun i => unit * 16 + i
  | 5 => [unit]
  | _ => []

/-- The stacks of a domain's unit. -/
def domainStacks (domain unit : Nat) : List Nat :=
  match domain with
  | 3 => (List.range 3).map fun i => unit * 3 + i
  | 6 => [unit]
  | _ => []

/-- Fence the units of a domain: no new work is placed there, every new request is answered DOMAIN_RESET. -/
def fenceUnits (domain unit : Nat) (s : State) : State :=
  let s1 := (domainClusters domain unit).foldl (fun t n => t.setClus n { t.clus n with reset := true }) s
  let s2 := (domainStacks domain unit).foldl (fun t n => t.setStack n { t.stack n with state := 4, move := none, repairing := none }) s1
  if domain = 7 then setPortState unit 5 (portDown unit 5 0 s2) else s2

/-- Whether domain resets run in a device state: it has started. -/
def DevState.serves : DevState → Bool
  | .ready | .active | .draining | .fenced => true
  | _ => false

/-- Start the reset of a domain (R422, R428): a request inside a reset under way joins it; a reset it contains is abandoned. DEDUCED: log entry 83. -/
def startReset (domain unit : Nat) (source : Byte) (prev : Option Word) (s : State) : State :=
  if ¬ s.dev.serves ∨ (domain = 7 ∧ (s.port unit).isolated) then s
  else if s.faults.resets.any fun r => domainWithin domain unit r.domain r.unit then s
  else
    let ctxs := s.ctxsIn domain unit
    let r : DomReset :=
      { id := s.faults.nextId, domain := domain, unit := unit, stage := .fence, source := source, fenceAt := s.time,
        boundAt := s.time + BitVec.ofNat 64 (resetBound domain), answered := 0, recSeq := none, prevSeq := prev, gated := false,
        parts := [], ctxs := ctxs, queue := ctxs.map fun c => s.queueEntry domain unit c }
    let keep := s.faults.resets.filter fun q => !domainWithin q.domain q.unit domain unit
    fenceUnits domain unit { s with faults := { s.faults with resets := keep ++ [r], nextId := s.faults.nextId + 1 } }

/-- The reset of an identifier. -/
def State.reset? (s : State) (id : Nat) : Option DomReset := s.faults.resets.find? fun r => decide (r.id = id)

/-- The state with a reset replaced. -/
def putReset (r : DomReset) (s : State) : State :=
  { s with faults := { s.faults with resets := s.faults.resets.map fun q => if q.id = r.id then r else q } }

/-- The state without a reset. -/
def dropReset (id : Nat) (s : State) : State :=
  { s with faults := { s.faults with resets := s.faults.resets.filter fun q => decide (q.id ≠ id) } }

/-- A decision whose cluster is fenced moves to another; its bound restarts once (R412). -/
def restartDecisions (domain unit : Nat) (s : State) : State :=
  let move := fun (d : Decision) =>
    if !d.restarted && d.clusters.any (fun n => clusterIn domain unit n) && decide (domain = 3 ∨ domain = 4 ∨ domain = 5) then
      { d with since := s.time, restarted := true }
    else d
  { s with faults := { s.faults with decisions := s.faults.decisions.map move } }

/-- DOMAIN_FENCE (R422): every task running in the domain completes with DOMAIN_RESET, and the drain begins. -/
def domainFence (id : Nat) (s : State) : State :=
  match s.reset? id with
  | none => s
  | some r =>
    if r.stage ≠ .fence then s
    else
      let s1 := s.activeCtxs.foldl (fun t c => endTasks c (fun k => k.placedIn r.domain r.unit) stDomainReset dNone t) s
      putReset { r with stage := .drain } (restartDecisions r.domain r.unit s1)

/-- DOMAIN_DRAIN_END (R422): everything outstanding has completed. -/
def domainDrainEnd (id : Nat) (s : State) : State :=
  match s.reset? id with
  | none => s
  | some r => if r.stage = .drain then putReset { r with stage := .record } s else s

/-- RSTC_DRAIN_LIMIT in ns. -/
def State.drainLimit (s : State) : Nat := clampNat (s.reg (aRstc 0x14)).toNat 5 10000 * 1000

/-- DRAIN_LIMIT_EXPIRE (R422): what is still outstanding is answered DOMAIN_RESET. -/
def drainLimitExpire (id : Nat) (answered : Word) (s : State) : State :=
  match s.reset? id with
  | none => s
  | some r =>
    if r.stage = .drain ∧ r.fenceAt.toNat + s.drainLimit ≤ s.time.toNat then putReset { r with stage := .record, answered := answered } s
    else s

/-! ### Record, assert, release (R422 to R427) -/

/-- What of a domain's registers its reset leaves: the control of a port, so that the port trains again. -/
def resetKeeps (domain a : Nat) : Bool := decide (domain = 7) && decide (a % 0x1000 = 0)

/-- Assert the reset: the domain's registers take their reset values, its stacks enter self-refresh. -/
def assertReset (r : DomReset) (s : State) : State :=
  let as := (domainRegs r.domain r.unit).filter fun a => !resetKeeps r.domain a
  let s1 := as.foldl (fun t a => t.setReg a (regReset a)) s
  let s2 := (domainClusters r.domain r.unit).foldl (fun t n =>
    let k := t.clus n
    t.setClus n { Cluster.empty with reset := true, heldBack := k.heldBack, lastClean := k.lastClean }) s1
  let gone := domainClusters r.domain r.unit
  let s2 := { s2 with ramps := s2.ramps.map fun e => (e.1, e.2.filter fun n => !gone.contains n) }
  let s3 := (domainStacks r.domain r.unit).foldl (fun t n =>
    let k := t.stack n
    t.setStack n { Stack.empty with state := 3, retired := k.retired, temp := k.temp, hot := k.hot, ueFrames := k.ueFrames }) s2
  let s4 := if r.domain = 7 then setPortState r.unit 6 (s3.setPort r.unit { s3.port r.unit with srst := true, queue := [] }) else s3
  putReset { r with stage := if r.gated then .assert else .release, parts := resetParts r.domain } s4

/-- RESET_RECORD_WRITTEN (R422, R423): the record is written, or skipped and counted as lost; the reset is asserted. -/
def resetRecordWritten (id : Nat) (written : Bool) (s : State) : State :=
  match s.reset? id with
  | none => s
  | some r =>
    if r.stage ≠ .record then s
    else
      let h : RecHead := { domain := r.domain, cause := r.source.toNat, escalated := r.source == 6, unit := r.unit, fence := r.fenceAt,
                           ctxs := r.ctxs, answered := r.answered, prev := r.prevSeq }
      let seq := s.reg (aRstc 0x50)
      let secs := [(1, r.queue), (3, s.engineEntries (domainRegs r.domain r.unit))]
      if written then assertReset { r with recSeq := some seq } (writeRecord h secs s)
      else assertReset r (loseRecord s)

/-- The last part is ready: DOMAIN_RESET is raised and the domain takes work again (R422, R432). -/
def confirmReset (r : DomReset) (s : State) : State :=
  let s1 := (domainClusters r.domain r.unit).foldl (fun t n =>
    let k := t.clus n
    t.setClus n { k with reset := false, heldBack := k.heldBack || (r.source == 7 && decide (r.domain = 5)) }) s
  let s2 := s1.ctxs.foldl (fun t e => flushLate e.1 t) (count (aRstc 0x48) 1 (dropReset r.id s1))
  raiseDev 0x0404 1 r.unit (leBytes 1 r.domain ++ leBytes 1 r.source.toNat ++ leBytes 2 r.unit ++ leBytes 4 r.answered.toNat
    ++ leBytes 4 (match r.recSeq with | some q => q.toNat | none => 0xFFFFFFFF)
    ++ leBytes 4 (min (2 ^ 32 - 1) ((s.time - r.fenceAt).toNat / 1000)) ++ leBytes 8 r.fenceAt.toNat) s2

/-- What a part does as it reports ready; none where it does not confirm its release (R27, R421). -/
def partReady (r : DomReset) (part : Nat) (trained : Bool) (s : State) : Option State :=
  match part with
  | 6 =>
    let s1 := (domainStacks r.domain r.unit).foldl (fun t n => t.setStack n (if trained then (t.stack n).ready t.time else { t.stack n with state := 5 })) s
    some (if trained then s1 else setHealth 0x11 s1)
  | 3 => if trained then some s else none
  | 7 =>
    let s1 := setPortState r.unit (if s.portEnabled r.unit then 1 else 0) s
    some (if trained then portTrained r.unit 0 true s1
          else if s.portEnabled r.unit then portTrained r.unit 0xFF false s1 else s1)
  | _ => some s

/-- DOMAIN_PART_READY (R425). -/
def domainPartReady (id : Nat) (trained : Bool) (s : State) : State :=
  match s.reset? id with
  | none => s
  | some r =>
    if r.stage ≠ .release then s
    else
      match r.parts with
      | [] => s
      | p :: rest =>
        match partReady r p trained s with
        | none => s
        | some s1 =>
          let r1 := { r with parts := rest }
          if rest.isEmpty then confirmReset r1 s1 else putReset r1 s1

/-! ### Escalation (R426) -/

/-- The stage in which a reset hung, as RESET_ESCALATED names it. -/
def RStage.hung : RStage → Nat
  | .release => 2
  | _ => 1

/-- The parent that a reset escalates to: domain and unit. -/
def parentOf (domain unit : Nat) : Nat × Nat :=
  match domain with
  | 5 => (4, unit / 16)
  | 4 => (3, unit / 8)
  | 6 => (3, unit / 3)
  | _ => (0, 0)

/-- The last escalation is a warm reset of D0: no event, no bit of RSTC_CAUSE. -/
def escalateDevice (prev : Option Word) (s : State) : State :=
  let cause := s.reg (aRstc 0)
  (resetDevice .wdt false false (some prev) s).setReg (aRstc 0) cause

/-- A port that does not confirm its release is isolated until the next device reset (R421). -/
def isolatePort (r : DomReset) (s : State) : State :=
  let s1 := setPortState r.unit 5 (dropReset r.id s)
  setHealth 0x11 (s1.setPort r.unit { s1.port r.unit with isolated := true })

/-- RESET_BOUND_EXPIRE (R426): a reset that has not confirmed within its bound escalates; one held by the thermal gate does not
(R427). -/
def resetBoundExpire (id : Nat) (s : State) : State :=
  match s.reset? id with
  | none => s
  | some r =>
    if s.time < r.boundAt ∨ (r.gated ∧ r.stage = .assert) then s
    else if r.domain = 7 then isolatePort r s
    else
      let (d, u) := parentOf r.domain r.unit
      let s1 := count (aRstc 0x40) 1 (dropReset id s)
      if d = 0 then escalateDevice r.recSeq s1
      else
        let s2 := startReset d u 6 r.recSeq s1
        raiseDev 0x0405 2 r.unit (leBytes 1 r.domain ++ leBytes 1 d ++ leBytes 2 r.unit ++ leBytes 2 u ++ leBytes 1 r.stage.hung
          ++ leBytes 1 0 ++ leBytes 4 (min (2 ^ 32 - 1) ((s.time - r.fenceAt).toNat / 1000))) s2

/-- The thermal gate lifts: the resets it holds go on, their bound starting again (R427). -/
def liftGate (s : State) : State :=
  let go := fun (r : DomReset) =>
    if r.gated then
      { r with gated := false, boundAt := s.time + BitVec.ofNat 64 (resetBound r.domain), stage := if r.stage = .assert then .release else r.stage }
    else r
  { s with faults := { s.faults with resets := s.faults.resets.map go } }

/-- Start the D3 reset of every die, held by the thermal gate (R362, R427). -/
def gateDies (s : State) : State :=
  let s1 := (List.range 4).foldl (fun t d => startReset 3 d 5 none t) s
  { s1 with faults := { s1.faults with resets := s1.faults.resets.map fun r => if r.domain = 3 then { r with gated := true } else r } }

/-! ### What starts resets -/

/-- RSTC_WDT_TIMEOUT in ns. -/
def State.wdtTimeout (s : State) : Nat := clampNat (s.reg (aRstc 0x18)).toNat 100 60000 * 1000000

/-- WDT_EXPIRE (R418). -/
def wdtExpire (s : State) : State :=
  if s.regBit (aRstc 0x0C) 3 ∧ s.faults.wdtKick.toNat + s.wdtTimeout ≤ s.time.toNat then resetDevice .wdt false false none s else s

/-- TASK_OVERRUN (R54): the task completes with DOMAIN_RESET and DETAIL TASK_OVERRUN, its cluster is reset. -/
def taskOverrun (task : TaskRef) (s : State) : State :=
  match s.task? task with
  | none => s
  | some t =>
    match t.cluster with
    | none => s
    | some n =>
      if t.st ≠ .issued ∨ s.time < t.deadline then s
      else endTask t stDomainReset dOverrun (startReset 5 n.val 2 none s)

/-- The die that a failed spine link fences (R27): links 0 to 3 join the IOD and CD0 to CD3, 4 and 5 are the row links CD0–CD1
and CD2–CD3, 6 and 7 the column links CD0–CD2 and CD1–CD3. -/
def spineDie (link : Nat) : Nat := if link < 4 then link else [1, 3, 2, 3].getD (link - 4) 3

/-- The times at which a spine link's flit has failed. -/
def State.spineFails (s : State) (link : Nat) : List Dword := NMap.get (fun _ => []) s.faults.spine link

/-- Set them. -/
def setSpine (link : Nat) (ts : List Dword) (s : State) : State :=
  { s with faults := { s.faults with spine := NMap.set (fun _ => []) s.faults.spine link ts } }

/-- SPINE_FLIT_RECEIVED (R27): a flit that fails its CRC is resent from the sender's replay buffer, and no corrupted flit is delivered; one that
passes ends the retries. DEDUCED: log entry 82. -/
def spineFlit (link : Nat) (crcOk : Bool) (s : State) : State :=
  setSpine link (if crcOk then [] else (s.time :: s.spineFails link).take 9) s

/-- Whether a link has failed eight retries of one flit within 10 µs (R27): the flit's first failure is no retry. -/
def State.spineFailed (s : State) (link : Nat) : Bool :=
  match s.spineFails link with
  | t :: ts => decide (ts.length = 8) && decide (t.toNat ≤ (ts.getD 6 0).toNat + 10000)
  | [] => false

/-- SPINE_LINK_DOWN (R27): the link's die is fenced as D3. -/
def spineDown (link : Nat) (s : State) : State :=
  if s.spineFailed link then startReset 3 (spineDie link) 3 none (setSpine link [] s) else s

/-! ### Commands -/

/-- DOMAIN_FENCE. -/
def execDomainFence (id : Nat) (s : State) : Answer := .next (domainFence id s)
/-- DOMAIN_DRAIN_END. -/
def execDomainDrainEnd (id : Nat) (s : State) : Answer := .next (domainDrainEnd id s)
/-- DRAIN_LIMIT_EXPIRE. -/
def execDrainLimitExpire (id : Nat) (answered : Word) (s : State) : Answer := .next (drainLimitExpire id answered s)
/-- RESET_RECORD_WRITTEN. -/
def execResetRecordWritten (id : Nat) (written : Bool) (s : State) : Answer := .next (resetRecordWritten id written s)
/-- DOMAIN_PART_READY. -/
def execDomainPartReady (id : Nat) (trained : Bool) (s : State) : Answer := .next (domainPartReady id trained s)
/-- RESET_BOUND_EXPIRE. -/
def execResetBoundExpire (id : Nat) (s : State) : Answer := .next (resetBoundExpire id s)
/-- WDT_EXPIRE. -/
def execWdtExpire (s : State) : Answer := .next (wdtExpire s)
/-- TASK_OVERRUN. -/
def execTaskOverrun (task : TaskRef) (s : State) : Answer := .next (taskOverrun task s)
/-- SPINE_FLIT_RECEIVED. -/
def execSpineFlitReceived (link : Fin 8) (crcOk : Bool) (s : State) : Answer := .next (spineFlit link crcOk s)
/-- SPINE_LINK_DOWN. -/
def execSpineLinkDown (link : Fin 8) (s : State) : Answer := .next (spineDown link s)

end Sys2Proof.Machine
end

