-- ==== Sys2Proof/Machine/Faults.lean ====
section
/-! DEFINITION. Crosschecks, decisions and suspects, the chip drain's beginning, diagnosis, management cores (R404 to R416). -/

namespace Sys2Proof.Machine

/-! ### The chip drain (R413) -/

/-- Reset and hold the suspect clusters, given by physical number (R413 step 5). -/
def holdSuspects (s : State) : State :=
  s.faults.suspects.foldl (fun t p => match t.logical? p with
    | some n => startReset 5 n 7 none t
    | none => t) s

/-- A trigger drains the chip (R413): every participant's next vote carries FAULT, the device goes to DRAINING; a READY device
goes to FENCED at once. A device that drains already, or has drained, only learns the suspects. -/
def chipDrain (trigger decision : Nat) (suspects : List Nat) (s : State) : State :=
  let s0 := { s with faults := { s.faults with suspects := (s.faults.suspects ++ suspects).eraseDups } }
  match s.dev with
  | .active =>
    let s1 := noteDrain trigger decision suspects s0
    let s2 := s1.activeCtxs.foldl (fun t c => t.setCtx c { t.ctx c with abortArmed := true }) s1
    (setDev .draining { s2 with faults := { s2.faults with draining := true, drainDetach := false, diagnosing := true } })
  | .ready =>
    let s1 := noteDrain trigger decision suspects s0
    holdSuspects ((setDev .fenced { s1 with faults := { s1.faults with diagnosing := true } }))
  | _ => s0

/-! ### Decisions (R407 to R412) -/

/-- A decision ends: counted, and its suspects, given by logical number, drain the chip. DEDUCED: log entry 84. -/
def endDecision (d : Decision) (trigger code : Nat) (suspects : List Nat) (s : State) : State :=
  let s1 := count (aRstc 0x58) 1
    { s with faults := { s.faults with decisions := s.faults.decisions.filter fun e => decide (e.id ≠ d.id) } }
  if suspects.isEmpty then s1 else chipDrain trigger code (suspects.map fun n => s1.phys n) s1

/-- The decision of a kind about a task. -/
def State.decision? (s : State) (k : DecisionKind) (task : Option TaskRef) : Option Decision :=
  s.faults.decisions.find? fun d => decide (d.kind = k) && decide (d.task = task)

/-- ABFT_DECISION (R407): the third computation's sums against the original ones. -/
def abftDecision (task : TaskRef) (third : Nat) (sums : ThirdSums) (s : State) : State :=
  match s.decision? .abft (some task), sums with
  | none, _ => s
  | some d, .sums o c =>
    if d.clusters.contains third then s
    else if o ≠ c then endDecision d 1 4 (d.clusters ++ [third]) s
    else if o = d.observed then endDecision d 1 1 d.clusters s
    else if o = d.checksum then endDecision d 1 2 d.clusters s
    else endDecision d 1 3 d.clusters s

/-- CROSSCHECK_FAIL (R432). -/
def raiseCross (d : Decision) (code : Nat) (third : Nat) (s : State) : State :=
  let a := d.clusters.getD 0 0
  let b := d.clusters.getD 1 0
  raiseDev 0x0402 2 (s.phys a) (leBytes 1 (1 + d.n.toNat % 7) ++ leBytes 1 code ++ leBytes 2 0 ++ leBytes 4 d.n.toNat
    ++ leBytes 2 (s.phys a) ++ leBytes 2 (s.phys b) ++ leBytes 2 (if third < 512 then s.phys third else 0xFFFF) ++ leBytes 2 0
    ++ leBytes 2 d.element.toNat ++ leBytes 2 0 ++ leBytes 4 d.xor.toNat) s

/-- CROSSCHECK_DECISION (R408): what the third cluster agrees with. -/
def crosscheckDecision (third : Nat) (agreesA agreesB abft : Bool) (s : State) : State :=
  match s.decision? .crosscheck none with
  | none => s
  | some d =>
    if d.clusters.contains third then s
    else
      let a := d.clusters.getD 0 0
      let b := d.clusters.getD 1 0
      let (code, sus) : Nat × List Nat :=
        if abft then (4, [a, b, third]) else if agreesA then (2, [b]) else if agreesB then (1, [a]) else (3, [a, b])
      endDecision d 2 0 sus (raiseCross d code third s)

/-- PIP_HARD_DECISION (R409): the tile recomputed on a third cluster; the decision's clusters are the one that ran the check
and the one that computed the tile. -/
def pipHardDecision (task : TaskRef) (third : Nat) (identical withinH : Bool) (s : State) : State :=
  match s.decision? .pip (some task) with
  | none => s
  | some d =>
    if d.clusters.contains third then s
    else
      let check := d.clusters.take 1
      let tile := (d.clusters.drop 1).take 1
      endDecision d 3 0 (if identical then check else if withinH then tile else check ++ tile) s

/-- PLAUSIBILITY_DECISION (R410): the row recomputed on two clusters of two further quires. -/
def plausibilityDecision (task : TaskRef) (second third : Nat) (equalEach equalOriginal : Bool) (s : State) : State :=
  match s.decision? .plausibility (some task) with
  | none => s
  | some d =>
    let qs := (second :: third :: d.clusters).map quireOf
    if ¬ qs.Nodup then s
    else
      endDecision d 4 0 (if equalEach && equalOriginal then [] else if equalEach then d.clusters else d.clusters ++ [second, third]) s

/-- The trigger code of a kind of decision (R432). -/
def DecisionKind.trigger : DecisionKind → Nat
  | .abft => 1
  | .crosscheck => 2
  | .pip => 3
  | .plausibility => 4

/-- DECISION_TIMEOUT (R412): beyond 1 ms a decision is INCONCLUSIVE, with every cluster involved suspect. -/
def decisionTimeout (id : Nat) (s : State) : State :=
  match s.faults.decisions.find? fun d => decide (d.id = id) with
  | none => s
  | some d =>
    if s.time.toNat < d.since.toNat + 1000000 then s
    else
      let s1 := if d.kind = .crosscheck then raiseCross d 3 512 s else s
      endDecision d d.kind.trigger (if d.kind = .abft then 4 else 0) d.clusters s1

/-! ### Crosschecks (R404, R406) -/

/-- Whether a cluster is held, fenced, in reset or deciding. -/
def State.clusterOut (s : State) (n : Nat) : Bool :=
  let k := s.clus n
  s.regBit (aClus n 0) 1 || k.heldBack || k.reset || s.faults.decisions.any fun d => d.clusters.contains n

/-- A crosscheck found no difference: it is done, and both clusters are clean (R406). -/
def crossClean (a b : Nat) (s : State) : State :=
  let clean := fun k (t : State) => t.setClus k { t.clus k with lastClean := t.time }
  clean b (clean a (count (aMrgn 0x30) 1 s))

/-- A crosscheck found a difference, or a cluster reported a mismatch (R406). -/
def crossFail (a b : Nat) (n : Word) (abftA abftB : Bool) (d : Option (Nat × Nat)) (s : State) : State :=
  let note := fun (f : Bool) k (t : State) => if f then count (aClus k 0x28) 1 t else t
  let e := d.getD (0, 0)
  startDecision .crosscheck [a, b] none 0 0 n (BitVec.ofNat 16 e.1) (BitVec.ofNat 32 e.2) (note abftB b (note abftA a s))

/-- CROSSCHECK (R404 to R406): number RSTC_XCHK_SEQ runs for `ns` of cluster time on each of its clusters; `seenA` and `seenB` are the
elements that a fault makes each of them show, with its ABFT report. One that the share cannot take waits for a later window (R286,
R293). -/
def crosscheck (seenA seenB : List (Nat × Word)) (abftA abftB : Bool) (ns : Nat) (s : State) : State :=
  if ¬ s.dev.serves ∨ ¬ s.regBit (aMrgn 0) 0 ∨ ¬ s.regBit (aMrgn 0) 2 then s
  else
    let n := s.reg (aRstc 0x38)
    let (a, b) := crossPair n.toNat
    let next := fun (t : State) => t.setReg (aRstc 0x38) (n + 1)
    if s.clusterOut a || s.clusterOut b then next s
    else if ¬ s.crossFits (quireOf a) ns ∨ ¬ s.crossFits (quireOf b) ns then noteLimited (count (aMrgn 0x38) 1 s)
    else
      let s1 := next (useCross (quireOf b) ns (useCross (quireOf a) ns s))
      let d := crossDiff (crossOut (s.reg64 (aRstc 0x30)).toNat n.toNat) seenA seenB
      if d.isNone && !abftA && !abftB then crossClean a b s1 else crossFail a b n abftA abftB d s1

/-! ### Rates, diagnosis, cores (R411, R414, R416) -/

/-- TCS_RATE_TRIP (R411): more than RSTC_TCS_LIMIT TILE_CHECKSUM events in an aligned hour; 0 acts as 16. -/
def tcsRateTrip (s : State) : State :=
  let lim := s.regField (aRstc 0x3C) 15 0
  let n := if lim = 0 then 16 else lim
  if s.faults.tcsHour.toNat = s.time.toNat / 3600000000000 ∧ n < s.faults.tcsCount then chipDrain 5 0 [] s else s

/-- CHIP_DRAINED (R413). -/
def chipDrained (trigger : Nat) (suspects : List (Fin 528)) (s : State) : State :=
  chipDrain trigger 0 (suspects.map fun p => p.val) s

/-- Replace a cluster by a spare of its die (R414 step 3a): the repair log, a D4 reset of the quire, CLUSTER_SPARED. -/
def spareCluster (n spare : Nat) (ms : Word) (s : State) : State :=
  let old := s.phys n
  let s1 := { s with flash := { s.flash with substs := s.flash.substs ++ [(n, spare)] }, faults := { s.faults with suspects := [], diagnosing := false } }
  let s2 := (List.range 512).foldl (fun t k => if (t.clus k).heldBack then t.setClus k { t.clus k with heldBack := false } else t) s1
  raiseDev 0x0407 0 spare (leBytes 2 n ++ leBytes 2 old ++ leBytes 2 spare ++ leBytes 1 (s2.sparesLeft (n / 128)) ++ leBytes 1 0
    ++ leBytes 4 ms.toNat ++ leBytes 8 s2.time.toNat) (startReset 4 (n / 16) 7 none s2)

/-- DIAGNOSIS (R414): the clusters in which the fault was reproduced, and whether the spare passed its BIST. -/
def diagnosis (reproduced : List (Fin 512)) (spareOk : Bool) (ms : Word) (s : State) : State :=
  if s.dev ≠ .fenced ∨ ¬ s.faults.diagnosing then s
  else
    match reproduced with
    | [n] =>
      match s.freeSpare (n.val / 128) with
      | some p =>
        if spareOk then spareCluster n.val p ms s
        else setHealth 0x3 { s with faults := { s.faults with diagnosing := false } }
      | none => setHealth 0x5 { s with faults := { s.faults with diagnosing := false } }
    | _ => setHealth 0x3 { s with faults := { s.faults with diagnosing := false } }

/-- A management-only restart begins (R417): its record carries DOMAIN 0x80; everything else keeps running. DEDUCED: log entry 26. -/
def mgmtRestart (cause : Nat) (s : State) : State :=
  let s1 := writeRecord { domain := 0x80, cause := cause, escalated := false, unit := 0, fence := s.time, ctxs := [], answered := 0, prev := none } [] s
  { s1 with secu := { s1.secu with restart := true } }

/-- CORE_DOUBLE_FAULT (R416): the core goes offline; a management-only restart, or LCK. -/
def coreDoubleFault (core : Nat) (s : State) : State :=
  if ¬ s.flash.coreMask.getLsbD core ∨ s.dev = .off then s
  else
    let few := decide (s.coresOnline < 7)
    let soon := match s.faults.dblFault with
      | some t => decide (s.time.toNat < t.toNat + 1000000000)
      | none => false
    let s1 := { s with flash := { s.flash with coreMask := s.flash.coreMask &&& ~~~((1 : Byte) <<< core) },
                       faults := { s.faults with dblFault := some s.time } }
    if few || soon then resetDevice .lck false false none s1 else mgmtRestart 0 s1

/-- MGMT_TRANSACTION_TIMEOUT (R416). -/
def mgmtTimeout (s : State) : State := if s.dev = .off then s else resetDevice .lck false false none s

/-! ### Commands -/

/-- CROSSCHECK. -/
def execCrosscheck (seenA seenB : List (Nat × Word)) (abftA abftB : Bool) (ns : Word) (s : State) : Answer :=
  .next (crosscheck seenA seenB abftA abftB ns.toNat s)
/-- ABFT_DECISION. -/
def execAbftDecision (task : TaskRef) (third : Fin 512) (sums : ThirdSums) (s : State) : Answer :=
  .next (abftDecision task third sums s)
/-- CROSSCHECK_DECISION. -/
def execCrosscheckDecision (third : Fin 512) (agreesA agreesB abft : Bool) (s : State) : Answer :=
  .next (crosscheckDecision third agreesA agreesB abft s)
/-- PIP_HARD_DECISION. -/
def execPipHardDecision (task : TaskRef) (third : Fin 512) (identical withinH : Bool) (s : State) : Answer :=
  .next (pipHardDecision task third identical withinH s)
/-- PLAUSIBILITY_DECISION. -/
def execPlausibilityDecision (task : TaskRef) (second third : Fin 512) (equalEach equalOriginal : Bool) (s : State) : Answer :=
  .next (plausibilityDecision task second third equalEach equalOriginal s)
/-- DECISION_TIMEOUT. -/
def execDecisionTimeout (id : Nat) (s : State) : Answer := .next (decisionTimeout id s)
/-- TCS_RATE_TRIP. -/
def execTcsRateTrip (s : State) : Answer := .next (tcsRateTrip s)
/-- CHIP_DRAINED. -/
def execChipDrained (trigger : BitVec 8) (suspects : List (Fin 528)) (s : State) : Answer :=
  .next (chipDrained trigger.toNat suspects s)
/-- DIAGNOSIS. -/
def execDiagnosis (reproduced : List (Fin 512)) (spareOk : Bool) (ms : Word) (s : State) : Answer :=
  .next (diagnosis reproduced spareOk ms s)
/-- CORE_DOUBLE_FAULT. -/
def execCoreDoubleFault (core : Fin 8) (s : State) : Answer := .next (coreDoubleFault core s)
/-- MGMT_TRANSACTION_TIMEOUT. -/
def execMgmtTransactionTimeout (s : State) : Answer := .next (mgmtTimeout s)

end Sys2Proof.Machine
end

