-- ==== Sys2Proof/Machine/CommitCommands.lean ====
section
/-! DEFINITION. The commands of the step commit: STEP_END (R374), the votes that arrive (R377), the timers of the vote (R378,
R380), and what the companion resolves (R384). -/

namespace Sys2Proof.Machine

/-! ### Packets that have arrived -/

/-- The first delivered packet with an operation code, and the machine without it. -/
def takeDelivered (op : Byte) (s : State) : Option (Delivered × State) :=
  match s.fabric.delivered.find? fun d => decide (d.pkt.op = op) with
  | none => none
  | some d => some (d, { s with fabric := { s.fabric with delivered := s.fabric.delivered.erase d } })

/-- Whether a payload that is no storage tile ends with the CRC-32C of its other bytes (R303). -/
def payloadOk (b : Bytes) : Bool := decide (4 ≤ b.length) && decide (fieldLe b (b.length - 4) 4 = crc32c (b.take (b.length - 4)))

/-! ### Votes -/

/-- The reduced word that a context keeps of a step, by the step's low 32 bits (R377). -/
def Ctx.heldWord (x : Ctx) (step : Word) : Option (Dword × Dword) :=
  x.history.find? fun e => decide (e.1.setWidth 32 = step)

/-- Whether a child's word for a step belongs to a round that has closed (R377, R378): the step is not the one under way, or, in the
quiet period of an abort, the word is a repeated one or the late one of a child that was combined as TIMEOUT. DEDUCED: log
entry 59. -/
def State.roundClosed (s : State) (c i : Nat) (step : Word) (q : SeqCheck) : Bool :=
  let x := s.ctx c
  let under := decide (step = (s.voteStep c).setWidth 32) && (decide (x.st ≠ .invalid) || x.voted)
  !under || (decide (x.phase = 5) && (if q = .fresh then x.timedOut.contains i else (x.childWords.find? i).isNone))

/-- Whether a reduced word from the parent is one that the context has put into effect already for an earlier step (R377). -/
def State.reducedOld (s : State) (c : Nat) (step : Word) (w : Dword) : Bool :=
  decide (step ≠ (s.voteStep c).setWidth 32) && (match (s.ctx c).heldWord step with | some (_, r) => decide (r = w) | none => false)

/-- A VOTE packet for context `c` that came by port `port` (R377, R378). -/
def gotVote (c port : Nat) (p : Packet) (s : State) : State :=
  let (s1, q) := seqNote port p s
  let x := s1.ctx c
  let w : Dword := BitVec.ofNat 64 (fieldLe p.payload 0 8)
  if q = .full ∨ ¬ payloadOk p.payload ∨ p.payload.length ≠ 12 ∨ ¬ s1.participant c then s1
  else
    match (s1.voteChildren c).find? fun e => decide (e.2 = p.src) with
    | some (i, rank) =>
      match (if s1.roundClosed c i p.info q then x.heldWord p.info else none) with
      | some (step, r) => sendVote c rank (step.setWidth 32) r false s1
      | none =>
        if q ≠ .fresh ∨ (x.childWords.find? i).isSome then s1
        else
          let s2 := s1.setCtx c { x with childWords := NMap.insert x.childWords i w }
          if (s2.ctx c).voted then castLost x.tasks.length c (tryCombine c s2) else s2
    | none =>
      if p.src = s1.voteParent c ∧ ¬ s1.voteRoot c ∧ q = .fresh ∧ ¬ s1.reducedOld c p.info w then gotReduced c w s1
      else s1

/-- VOTE: the first VOTE packet delivered. -/
def voteArrives (s : State) : State :=
  match takeDelivered 0x20 s with
  | none => s
  | some (d, s1) => match d.ctx with
    | none => s1
    | some c => gotVote c d.port d.pkt s1

/-- Whether so many ns have passed since a context cast its vote, or its quiet period began. -/
def State.sinceCast (s : State) (c ns : Nat) : Bool := match (s.ctx c).castAt with
  | none => false
  | some t => decide (t.toNat + ns ≤ s.time.toNat)

/-- IN_DOUBT (R378): no reduced word twice COMT_VOTE_TIMEOUT after the cast. DEDUCED: log entry 60. -/
def inDoubt (c : Nat) (s : State) : State :=
  let x := s.ctx c
  if x.phase ≠ 3 ∨ ¬ s.sinceCast c (2 * s.voteTimeoutNs c) then s
  else
    let dst := s.voteParent c
    let cast := x.castAt.getD 0
    let flow := s.fabric.tx.find? fun f =>
      decide (f.job = s.ctxJob c) && decide (f.src = (s.ctxRank c).getD 0) && decide (f.dst = dst) && decide (f.cls = 3)
    let seq := match flow with | some f => (f.next - 1).toNat | none => 0
    let port := s.portFirst (s.mkPacket c dst 3 0x20 0 0 0 false true [])
    let resends := min 255 ((s.time - cast).toNat / s.voteResendNs c)
    raiseCtx c 0x0303 2 port (leBytes 1 3 ++ leBytes 1 0x20 ++ leBytes 1 resends ++ leBytes 1 0 ++ leBytes 4 dst.toNat
      ++ leBytes 4 seq ++ leBytes 4 1 ++ leBytes 8 cast.toNat) (s.setCtx c { x with phase := 4 })

/-! ### COMT_CTRL (R384, R400) -/

/-- ABORT: the next vote carries FAULT. -/
def comtAbort (c : Nat) (s : State) : State := s.setCtx c { s.ctx c with abortArmed := true }

/-- The companion resolves an IN_DOUBT step: committed or aborted on this device. DEDUCED: log entry 61. -/
def resolveStep (c : Nat) (commit : Bool) (s : State) : State :=
  let x := s.ctx c
  if x.phase ≠ 4 then s
  else
    let step := s.voteStep c
    let w := orBit (step <<< 32) vFault (!commit)
    let s1 := (s.setReg64 (aComt c 0x68) w).setCtx c { x with history := ((step, w) :: x.history).take 16 }
    if x.st = .invalid then s1.setCtx c { s1.ctx c with phase := 0, castAt := none, childWords := [], timedOut := [] }
    else castLost x.tasks.length c (if commit then commitStep c w s1 else abortStep c w s1)

/-! ### Commands -/

/-- STEP_END (R374). -/
def execStepEnd (task : TaskRef) (env : Env) (s : State) : Answer := .next (runStepEnd task env s)
/-- VOTE (R377). -/
def execVote (s : State) : Answer := .next (voteArrives s)
/-- VOTE_TIMEOUT (R378). -/
def execVoteTimeout (ctx : Fin 64) (child : Fin 16) (s : State) : Answer :=
  .next (if s.sinceCast ctx.val (s.voteTimeoutNs ctx.val) then voteTimeout ctx.val child.val s else s)
/-- VOTE_RESEND (R378). -/
def execVoteResend (ctx : Fin 64) (s : State) : Answer :=
  .next (if s.sinceCast ctx.val (s.voteResendNs ctx.val) then voteResend ctx.val s else s)
/-- IN_DOUBT (R378). -/
def execInDoubt (ctx : Fin 64) (s : State) : Answer := .next (inDoubt ctx.val s)
/-- QUIET_EXPIRE (R380). -/
def execQuietExpire (ctx : Fin 64) (s : State) : Answer :=
  .next (if s.sinceCast ctx.val (s.quietNs ctx.val) then quietExpire ctx.val s else s)

end Sys2Proof.Machine
end

