-- ==== Sys2Proof/Machine/Checkpoint.lean ====
section
/-! DEFINITION. Checkpoints: signatures (R385), CHECKPOINT WRITE and its layers (R386 to R391), CHECKPOINT RESTORE (R395,
R396), and the drain of the contexts (R38, R397). -/

namespace Sys2Proof.Machine

/-! ### Signatures (R385) -/

/-- Bytes of one copy of a handle (R271). -/
def Handle.area (d : Handle) : Nat := (8192 + d.fmt.side) * d.tiles

/-- The definition of a handle (R46) with ADDR_A and ADDR_B set to 0. -/
def Handle.defn (d : Handle) : Bytes :=
  leBytes 16 0 ++ leBytes 4 d.tiles ++ leBytes 1 d.format.toNat ++ leBytes 1 d.flags.toNat ++ leBytes 2 0 ++ leBytes 4 d.rows
    ++ leBytes 4 d.cols

/-- The FOLIO handles of a context that are its own, rising. -/
def Ctx.folioHandles (x : Ctx) : List (Nat × Handle) := x.handles.filter fun e => e.2.folio && !e.2.imported

/-- The shard of a handle (R256) under SHARD_SHIFT, SHARD_FIRST and SHARD_COUNT. -/
def shardIn (shift first n h : Nat) : Option Nat :=
  let j := h / 2 ^ shift
  if j < n then some (first + j) else if j = 2 ^ (20 - shift) - 1 then some 0xFFFFFFFF else none

/-- Bytes from offset `o` of a list that lies in pieces. -/
def bytesAt (b : Bytes) (o n : Nat) : Bytes := (b.drop o).take n

/-- The stored bytes of tile `i` of a copy given whole (R272). -/
def areaTile (k : Fmt) (tiles : Nat) (area : Bytes) (i : Nat) : Bytes :=
  bytesAt area (8192 * i) 8192 ++ bytesAt area (8192 * tiles + k.side * i) (k.stored - 8192)

/-- A handle as an image holds it: handle, orientation, definition, tiles of its grid, shard, bytes of its copy. -/
structure ImgHandle where
  handle : Nat
  orient : Bool
  defn : Bytes
  grid : Nat
  area : Bytes
  deriving DecidableEq, Repr

/-- Format and TILES of a definition. -/
def ImgHandle.fmt (x : ImgHandle) : Fmt := (Fmt.ofByte (fieldLe x.defn 0x14 1)).getD Fmt.f32
def ImgHandle.tiles (x : ImgHandle) : Nat := fieldLe x.defn 0x10 4

/-- SIG_DIGEST and DEVICE_DIGEST of an image's handles; replicated handles count only when `primary`. -/
def imgDigests (shift first n : Nat) (primary : Bool) (xs : List ImgHandle) : BitVec 128 × BitVec 128 :=
  xs.foldl (fun (acc : BitVec 128 × BitVec 128) x =>
    let fold := fun (a : BitVec 128) shard => (List.range x.grid).foldl (fun b i =>
      b ^^^ tileHash shard (x.handle % 2 ^ shift) i (areaTile x.fmt x.tiles x.area i)) a
    match shardIn shift first n x.handle with
    | none => (acc.1, fold acc.2 (Config.ownShard x.handle).toNat)
    | some shard => if shard = 0xFFFFFFFF ∧ ¬ primary then acc else (fold acc.1 shard, acc.2)) (0, 0)

/-- A tile as the checkpoint reads it: a poisoned one is kept with its mark (R278, R387); answers whether it is poisoned. -/
def ckpTile (env : Env) (w : Who) (l : TileLoc) (i : Nat) : Run Bool := do
  let s ← getS
  let (s1, r) := loadTile env w l i s
  modS fun _ => s1
  match r with
  | .ok _ => pure false
  | .fail e => stopMem w l.ctx e
  | .poison _ _ _ _ => pure true
  | .bad _ cause stored computed slot =>
    modS (raiseChecksum w 4 cause l.handle i stored computed 0xFFFFFFFF (slot / 2 ^ 36))
    stop stChecksum dNone

/-- A handle's committed copy, checked and read. -/
def ckpHandle (env : Env) (w : Who) (h : Nat) (d : Handle) : Run (ImgHandle × Nat) := do
  let s ← getS
  match s.commTensor w.ctx h with
  | none => stop stAccess dNone
  | some t =>
    let bad ← (List.range t.tiles).foldlM (fun n i => do
      let p ← ckpTile env w t.loc i
      pure (if p then n + 1 else n)) 0
    let u ← getS
    match u.readVa envQuiet w.ctx t.loc.base d.area with
    | .error e => stopMem w w.ctx e
    | .ok (b, _) => pure ({ handle := h, orient := t.orient, defn := d.defn, grid := t.tiles, area := b }, bad)

/-- Length of a ledger record by TYPE (R236 to R239, R253). -/
def recordLen (typ : Nat) : Nat := if typ = 1 ∨ typ = 2 ∨ typ = 5 then 128 else 64

/-- The ledger records between two byte counts: one that reads uncorrectable has its CHECK inverted and counts as lost
(R281). -/
def drainRecords (env : Env) (c : Nat) : Nat → Word → Word → Bytes → State → Except MemErr (Bytes × State)
  | 0, _, _, acc, s => .ok (acc, s)
  | n + 1, rd, wr, acc, s =>
    if rd = wr then .ok (acc, s)
    else
      match s.readVa env c (s.ledgerVa c rd) 64 with
      | .error e => .error e
      | .ok (b0, ue0) =>
        let len := min (recordLen (fieldLe b0 0 1)) (wr - rd).toNat
        match fetchVa env c (s.ledgerVa c rd) len s with
        | (.error e, _) => .error e
        | (.ok (b, ue), s0) =>
          let bad := ue0.isSome || ue.isSome
          let b1 := if bad then putB b (len - 4) (leBytes 4 (2 ^ 32 - 1 - fieldLe b (len - 4) 4)) else b
          let s1 := if bad then count (aNumc c 0x54) 1 s0 else s0
          drainRecords env c n (rd + BitVec.ofNat 32 len) wr (acc ++ b1) s1

/-- The ledger part of an image; RD moves to WR. -/
def ckpLedger (env : Env) (w : Who) : Run Bytes := do
  let s ← getS
  let rd := s.reg (aNumc w.ctx 0x50)
  let wr := s.reg (aNumc w.ctx 0x4C)
  match drainRecords env w.ctx ((wr - rd).toNat / 64 + 1) rd wr [] s with
  | .error e => stopMem w w.ctx e
  | .ok (b, s1) =>
    modS fun _ => s1.setReg (aNumc w.ctx 0x50) wr
    pure b

/-- The manifest and the handle table; `poisoned` the poisoned tiles. DEDUCED: log entry 64. -/
def State.manifest (s : State) (c : Nat) (xs : List ImgHandle) (ledger : Bytes) (poisoned : Nat) (drain : Bool) : Bytes :=
  let shift := min (s.regField (aRngs c 0x1C) 4 0) 20
  let (first, n) := s.shards c
  let (sig, dev) := imgDigests shift first n (s.regBit (aRngs c 0x1C) 8) xs
  let base := 256 + 48 * xs.length
  let tot := xs.foldl (fun a x => a + x.area.length) base
  let table := (xs.foldl (fun (acc : Bytes × Nat) x =>
    (acc.1 ++ leBytes 4 x.handle ++ leBytes 1 (if x.orient then 1 else 0) ++ leBytes 3 0 ++ x.defn ++ leBytes 8 acc.2,
      acc.2 + x.area.length)) ([], base)).1
  let head := leBytes 1 1 ++ leBytes 1 ((if 0 < poisoned then 1 else 0) + (if s.correlated then 2 else 0) + if drain then 4 else 0)
    ++ leBytes 2 (s.ctxJob c).toNat ++ leBytes 4 ((s.ctxRank c).getD 0).toNat ++ leBytes 8 (s.reg64 (aRngs c 0x20)).toNat
    ++ leBytes 8 (s.seed c) ++ leBytes 8 (s.reg64 (aRngs c 0x28)).toNat ++ leBytes 1 (s.regField (aRngs c 0x10) 4 0)
    ++ leBytes 1 shift ++ leBytes 2 0 ++ leBytes 4 first ++ leBytes 4 n ++ leBytes 4 xs.length
    ++ leBytes 8 (tot + ledger.length) ++ leBytes 8 tot ++ leBytes 8 ledger.length ++ leBytes 8 (s.reg (aNumc c 0x4C)).toNat
    ++ leBytes 16 sig.toNat ++ leBytes 16 dev.toNat ++ leBytes 8 s.time.toNat ++ leBytes 4 poisoned ++ leBytes 4 0
    ++ leBytes 4 (s.reg (aRngs c 0x08)).toNat ++ leBytes 4 (s.reg (aNumc c 0x28)).toNat ++ leBytes 104 0
  head ++ shake256 (head ++ table) 16 ++ table

/-- The image of a context's committed state, and whether it is TAINTED. -/
def ckpImage (env : Env) (w : Who) (drainLedger drain : Bool) : Run (Bytes × Bool) := do
  let s ← getS
  let (xs, bad) ← (s.ctx w.ctx).folioHandles.foldlM (fun acc e => do
    let (x, n) ← ckpHandle env w e.1 e.2
    pure (acc.1 ++ [x], acc.2 + n)) (([] : List ImgHandle), 0)
  let led ← if drainLedger then ckpLedger env w else pure []
  let u ← getS
  pure (u.manifest w.ctx xs led bad drain ++ (xs.flatMap fun x => x.area) ++ led, decide (0 < bad))

/-! ### Writing to the layers (R389, R390) -/

/-- The packets of an image: 8,192 bytes each, from an offset in the twin's image region. -/
def State.imagePackets (s : State) (image : Bytes) : List Packet :=
  let room := (s.twin.size - 32) * 2 ^ 21
  let free := (room - image.length) / 64
  let at' := 2 ^ 26 + 64 * (Config.partnerPlace s.fresh % (free + 1))
  let n := (image.length + 8191) / 8192
  (List.range n).map fun i => s.twinWrite 1 (at' + 8192 * i) (decide (i + 1 = n)) (bytesAt image (8192 * i) 8192)

/-- Send an image to the twin as one fabric operation of `task`. -/
def sendImage (c : Nat) (task : Option TaskRef) (image : Bytes) (s : State) : State :=
  let (s1, sent) := (s.imagePackets image).foldl (fun (acc : State × List Packet) p =>
    let (t, q) := sendTwin p acc.1
    (t, acc.2 ++ [q])) ({ s with fresh := s.fresh + 1 }, [])
  let o : FabOp := { id := s1.fabric.nextOp, task := task, ctx := c, port := 8, state := .waiting, unacked := sent, retries := 0,
                     timer := s1.time + BitVec.ofNat 64 s1.opTimeout, first := s1.time, tile0 := 0, acks := [] }
  { s1 with fabric := { s1.fabric with nextOp := s1.fabric.nextOp + 1, ops := s1.fabric.ops ++ [o] } }

/-- Whether an image fits in the twin's image region. -/
def State.twinRoom (s : State) (n : Nat) : Bool := decide (n ≤ (s.twin.size - 32) * 2 ^ 21)

/-- Units of 16 MiB. -/
def unitsOf (n : Nat) : Nat := (n + 2 ^ 24 - 1) / 2 ^ 24

/-- Whether an image of a JOB and RANK fits in the flash checkpoint area beside those a store keeps. -/
def State.flashRoom (s : State) (n : Nat) : Bool :=
  decide (s.flash.images.foldl (fun a i => a + unitsOf i.bytes.length) (unitsOf n) ≤ s.regField (aFlsh 0x10) 19 0)

/-- The image of a context as a store keeps it. -/
def State.imageOf (s : State) (c : Nat) (step : Dword) (tainted : Bool) (b : Bytes) : Image :=
  { job := s.ctxJob c, rank := (s.ctxRank c).getD 0, step := step, tainted := tainted, durable := true, bytes := b }

/-- Program an image into flash: the newest durable image and the one before it are kept (R390). -/
def programImage (i : Image) (s : State) : State :=
  let mine := fun (x : Image) => decide (x.job = i.job) && decide (x.rank = i.rank)
  let rest := s.flash.images.filter fun x => !mine x
  let same := (i :: s.flash.images.filter mine).take 2
  count (aFlsh 0x18) ((i.bytes.length + 2 ^ 30 - 1) / 2 ^ 30) { s with flash := { s.flash with images := rest ++ same } }

/-- The pieces of an NC_WRITE stream: 4 to 256 bytes, naturally aligned (R348). -/
def ncPieces : Nat → Nat → Bytes → List (Nat × Bytes)
  | 0, _, _ => []
  | n + 1, a, b =>
    if b = [] then []
    else
      let k := ([256, 128, 64, 32, 16, 8].find? fun k => decide (a % k = 0) && decide (k ≤ b.length)).getD 4
      (a, b.take k) :: ncPieces n (a + k) (b.drop k)

/-- Stream an image to companion memory. -/
def streamImage (addr : Nat) (image : Bytes) (s : State) : State :=
  (ncPieces (image.length / 4 + 1) addr image).foldl (fun t p => t.emit (.link 0x07 0 0 (BitVec.ofNat 64 p.1) p.2)) s

/-- Raise CKP_WRITTEN (R399). -/
def ckpWritten (c : Nat) (step : Dword) (layer result : Nat) (tainted corr : Bool) (ms len : Nat) (s : State) : State :=
  raiseCtx c 0x0604 (if result = 1 then 2 else 0) noUnit (leBytes 8 step.toNat ++ leBytes 1 layer ++ leBytes 1 result
    ++ leBytes 1 ((if tainted then 1 else 0) + if corr then 2 else 0) ++ leBytes 1 0 ++ leBytes 4 (min ms (2 ^ 32 - 1))
    ++ leBytes 8 len) s

/-- CKP_WRITTEN for a run. -/
def ckpEvent (c : Nat) (k : CkpRun) (layer result ms : Nat) (s : State) : State :=
  ckpWritten c k.step layer result k.tainted k.correlated ms k.image.length s

/-- A signature is durable on a layer: COMT_LAST_CKP and the restore point, unless it is TAINTED (R387, R390). -/
def noteDurable (c : Nat) (step : Dword) (tainted : Bool) (s : State) : State :=
  if tainted then s
  else
    let t := s.setReg64 (aComt c 0x88) step
    { t with cadence := { t.cadence with lastDurable := t.time } }

/-- The run with a layer that failed. -/
def CkpRun.failWith (k : CkpRun) (layers : List Nat) (status : Byte) : CkpRun :=
  { k with waiting := k.waiting.filter fun l => !layers.contains l, status := if k.status = stOk then status else k.status }

/-- Go on with a WRITE: L3 follows the others; the task has run when no layer waits (R387, R390). -/
def ckpAdvance (c : Nat) (s : State) : State :=
  let x := s.ctx c
  match x.ckp with
  | none => s
  | some k0 =>
    let start := decide (k0.waiting = [3]) && !k0.l3Sent
    let allowed := s.winAllows k0.addr.toNat k0.image.length true
    let (k, s1) : CkpRun × State :=
      if ¬ start then (k0, s)
      else if allowed then ({ k0 with l3Sent := true }, streamImage k0.addr.toNat k0.image s)
      else (k0.failWith [3] stAccess, ckpEvent c k0 3 1 0 (violation c s))
    if k.waiting ≠ [] then s1.setCtx c { s1.ctx c with ckp := some k }
    else
      let s2 := s1.setCtx c { s1.ctx c with ckp := none }
      match s2.task? k.task with
      | none => s2
      | some t => if t.st = .waiting then s2.setTask { t with st := .ran, res := { Result.empty with status := k.status } } else s2

/-- Start the layers of a captured image (R388, R389). -/
def ckpStart (c : Nat) (k : CkpRun) (layers : BitVec 3) (s : State) : State :=
  let l1 := layers.getLsbD 0
  let l2 := layers.getLsbD 1
  let paired := decide (s.twin.state = 2)
  let n := k.image.length
  let noL1 := l1 && paired && !s.twinRoom n
  let viaL1 := l1 && paired && s.twinRoom n
  let redirected := l1 && !paired
  let needL2 := l2 || redirected || (viaL1 && k.correlated)
  let roomL2 := s.flashRoom n
  let k1 : CkpRun :=
    { k with redirected := redirected, l2Bad := needL2 && !roomL2,
             waiting := (if viaL1 then [1] else []) ++ (if needL2 && roomL2 then [if l2 then 2 else 4] else [])
               ++ (if layers.getLsbD 2 then [3] else []) }
  let (k2, s1) := if noL1 then (k1.failWith [] stAccess, ckpEvent c k1 1 1 0 s) else (k1, s)
  let s2 := if viaL1 then sendImage c (some k.task) k.image s1 else s1
  let (k3, s3) := if k1.l2Bad then (k2.failWith [] stInternal,
      (if l2 then ckpEvent c k2 2 1 0 else id) ((if redirected then ckpEvent c k2 1 1 0 else id) s2)) else (k2, s2)
  ckpAdvance c (s3.setCtx c { s3.ctx c with ckp := some k3 })

/-! ### CHECKPOINT WRITE (R386 to R388) -/

/-- Whether a CHECKPOINT of the context runs. DEDUCED: log entry 65. -/
def Ctx.ckpBusy (x : Ctx) : Bool := match x.ckp with
  | none => false
  | some k => match x.task? k.task with
    | some t => decide (t.st = .waiting)
    | none => false

/-- The layers a WRITE names: its LAYERS bits, and with AUTO those of the last committed reduced word. -/
def Ctx.ckpLayers (x : Ctx) (params : Bytes) : BitVec 3 :=
  let b := fieldLe params 1 1
  BitVec.ofNat 3 b ||| if b.testBit 3 then x.ckpReq else 0

/-- A WRITE captures its image and starts its layers. -/
def ckpWriteBody (env : Env) (t : Task) : Run (Option RunOut) := do
  if t.st = .waiting then pure none
  else do
    let s ← getS
    let c := t.ref.ctx.val
    let layers := (s.ctx c).ckpLayers t.d.params
    if layers = 0 then pure (some { res := Result.empty, undo := [] })
    else do
      let (image, tainted) ← ckpImage env t.who ((fieldLe t.d.params 2 1).testBit 0) false
      let u ← getS
      let k : CkpRun := { task := t.ref, step := u.reg64 (aRngs c 0x20), image := image, tainted := tainted,
                          correlated := u.correlated, addr := BitVec.ofNat 64 (fieldLe t.d.params 8 8), waiting := [],
                          redirected := false, l2Bad := false, l3Sent := false, status := stOk }
      modS fun v => v.setCtx c { v.ctx c with ckp := some { k with waiting := [layers.toNat + 16] } }
      pure none

/-- A captured image's layers start: its WAITING holds them above 16 until then. -/
def ckpBegin (c : Nat) (s : State) : State :=
  match (s.ctx c).ckp with
  | none => s
  | some k => match k.waiting with
    | [n] => if 16 ≤ n then ckpStart c { k with waiting := [] } (BitVec.ofNat 3 n) s else s
    | _ => s

/-- Whether a descriptor is a CHECKPOINT of a mode. -/
def isCkp (mode : Nat) (d : Desc) : Bool := decide (d.kind = kCheckpoint) && decide (fieldLe d.params 0 1 = mode)

/-- CHECKPOINT_WRITE: another CHECKPOINT of the context waits for the one that runs. -/
def ckpWrite (task : TaskRef) (env : Env) (s : State) : State :=
  if (s.ctx task.ctx).ckpBusy then s else ckpBegin task.ctx (runWait task (isCkp 1) (ckpWriteBody env) s)

/-! ### CKP_LAYER_DURABLE (R390, R391) -/

/-- How the transmission of an L1 image stands: a failed operation's status, or whether all has been acknowledged. -/
def State.twinSent (s : State) (task : TaskRef) : Option Byte × Bool :=
  let os := s.opsOf task
  (os.findSome? fun o => match o.state with | .failed st => some st | _ => none, os.all fun o => decide (o.state = .done))

/-- Layer 1 is decided. -/
def ckpDone1 (c : Nat) (k : CkpRun) (ok : Bool) (ms : Word) (s : State) : State :=
  let (failed, acked) := s.twinSent k.task
  if (k.correlated ∧ (k.waiting.contains 2 ∨ k.waiting.contains 4)) ∨ (ok ∧ failed.isNone ∧ ¬ acked) then s
  else
    let status : Byte := if k.correlated && k.l2Bad then stInternal else failed.getD stFabricTimeout
    let good := ok && failed.isNone && !(k.correlated && k.l2Bad)
    let s1 := closeOps k.task s
    if good then
      let s2 := noteDurable c k.step k.tainted (s1.setReg (aComtDev 0x34) ms)
      let s3 := { s2 with cadence := { s2.cadence with l1Count := s2.cadence.l1Count + 1 } }
      ckpEvent c k 1 0 ms.toNat (s3.setCtx c { s3.ctx c with ckp := some { k with waiting := k.waiting.erase 1 } })
    else
      ckpEvent c k 1 1 ms.toNat (s1.setCtx c { s1.ctx c with ckp := some (k.failWith [1] status) })

/-- Layer 2, or the flash copy of an L1 image, is decided. -/
def ckpDone2 (c : Nat) (k : CkpRun) (ok : Bool) (ms : Word) (s : State) : State :=
  let own := k.waiting.contains 2
  let say := fun r t => (if own then ckpEvent c k 2 r ms.toNat else id)
    ((if k.redirected then ckpEvent c k 1 (if r = 0 then 2 else 1) ms.toNat else id) t)
  if ok then
    let s1 := noteDurable c k.step k.tainted (programImage (s.imageOf c k.step k.tainted k.image) (s.setReg (aComtDev 0x38) ms))
    let s2 := { s1 with cadence := { s1.cadence with b2 := k.image.length,
                                                     l1Count := s1.cadence.l1Count + if k.redirected then 1 else 0 } }
    say 0 (s2.setCtx c { s2.ctx c with ckp := some { k with waiting := k.waiting.filter fun l => decide (l ≠ 2 ∧ l ≠ 4) } })
  else
    say 1 (s.setCtx c { s.ctx c with ckp := some { k.failWith [2, 4] stInternal with l2Bad := true } })

/-- Layer 3 is decided. -/
def ckpDone3 (c : Nat) (k : CkpRun) (ok : Bool) (ms : Word) (s : State) : State :=
  if ¬ k.l3Sent then s
  else if ok then
    let s1 := noteDurable c k.step k.tainted s
    ckpEvent c k 3 0 ms.toNat (s1.setCtx c { s1.ctx c with ckp := some { k with waiting := k.waiting.erase 3 } })
  else ckpEvent c k 3 1 ms.toNat (s.setCtx c { s.ctx c with ckp := some (k.failWith [3] stInternal) })

/-- CKP_LAYER_DURABLE: a layer of the WRITE is durable or has failed. -/
def ckpDurable (task : TaskRef) (layer : Nat) (ok : Bool) (ms : Word) (s : State) : State :=
  let c := task.ctx.val
  match (s.ctx c).ckp with
  | none => s
  | some k =>
    if k.task ≠ task then s
    else if layer = 1 ∧ k.waiting.contains 1 then cadRefresh (ckpAdvance c (ckpDone1 c k ok ms s))
    else if layer = 2 ∧ (k.waiting.contains 2 ∨ k.waiting.contains 4) then cadRefresh (ckpAdvance c (ckpDone2 c k ok ms s))
    else if layer = 3 ∧ k.waiting.contains 3 then cadRefresh (ckpAdvance c (ckpDone3 c k ok ms s))
    else s

/-! ### CHECKPOINT RESTORE (R395) -/

/-- The handles of an image; none where a part lies outside it. -/
def parseImage (b : Bytes) : Option (List ImgHandle) :=
  let n := fieldLe b 0x2C 4
  if b.length < 256 + 48 * n then none
  else
    (List.range n).foldr (fun i acc =>
      match acc with
      | none => none
      | some xs =>
        let e := bytesAt b (256 + 48 * i) 48
        let d := bytesAt e 8 32
        let at' := fieldLe e 40 8
        let x : ImgHandle := { handle := fieldLe e 0 4, orient := (fieldLe e 4 1).testBit 0, defn := d, grid := 0, area := [] }
        let len := (8192 + x.fmt.side) * x.tiles
        let rows := fieldLe d 0x18 4
        let cols := fieldLe d 0x1C 4
        let grid := if x.orient then x.fmt.grid cols rows else x.fmt.grid rows cols
        if b.length < at' + len ∨ x.tiles < grid then none
        else some ({ x with grid := grid, area := bytesAt b at' len } :: xs)) (some [])

/-- Whether every tile of an image passes its check; poisoned tiles keep their marks. -/
def ImgHandle.sound (x : ImgHandle) : Bool :=
  (List.range x.grid).all fun i =>
    let t := areaTile x.fmt x.tiles x.area i
    let img : TileImg := { data := t.take 8192, side := t.drop 8192 }
    img.poisoned x.fmt || (decide (img.slot x.fmt = img.crc x.fmt) && img.huskOk x.fmt)

/-- Whether the manifest's CHECK and digests hold. -/
def imageSound (b : Bytes) (xs : List ImgHandle) (primary : Bool) : Bool :=
  let shift := min (fieldLe b 0x21 1) 20
  let (sig, dev) := imgDigests shift (fieldLe b 0x24 4) (fieldLe b 0x28 4) primary xs
  decide (bytesAt b 0xF0 16 = shake256 (b.take 0xF0 ++ bytesAt b 256 (48 * xs.length)) 16)
    && decide (fieldLe b 0x50 16 = sig.toNat) && decide (fieldLe b 0x60 16 = dev.toNat) && xs.all ImgHandle.sound

/-- Whether an image is of the context's job, rank and shards, and the context defines the same handles alike; an image may lack the
device-own ones, which the companion then rebuilds. -/
def State.imageMatches (s : State) (c : Nat) (b : Bytes) (xs : List ImgHandle) : Bool :=
  let (first, n) := s.shards c
  let x := s.ctx c
  decide (fieldLe b 2 2 = (s.ctxJob c).toNat) && decide (some (fieldLe b 4 4) = (s.ctxRank c).map fun r => r.toNat)
    && decide (fieldLe b 0x20 1 = s.regField (aRngs c 0x10) 4 0) && decide (fieldLe b 0x24 4 = first)
    && decide (fieldLe b 0x28 4 = n) && (xs.all fun h => match x.handle? h.handle with
      | none => false
      | some d => d.folio && decide (d.defn = h.defn))
    && x.folioHandles.all fun e => (xs.any fun h => decide (h.handle = e.1))
      || (shardIn (min (fieldLe b 0x21 1) 20) first n e.1).isNone

/-- Write a handle's copy into both sides. -/
def restoreHandle (w : Who) (h : ImgHandle) : Run Unit := do
  let s ← getS
  match (s.ctx w.ctx).handle? h.handle with
  | none => pure ()
  | some d =>
    let put := fun (a : Nat) (t : State) => writeVa envQuiet w.ctx a h.area t
    match put d.addrA.toNat s with
    | .error e => stopMem w w.ctx e
    | .ok s1 => match put d.addrB.toNat s1 with
      | .error e => stopMem w w.ctx e
      | .ok s2 => modS fun _ => s2

/-- A context whose committed state is that of a step: both maps zero unless `map` is given, orientation 0 (R196), REALIGN
needed (R258). -/
def Ctx.restored (x : Ctx) (hs : List Nat) (map : NMap Bool) (sel : Bool) : Ctx :=
  let y := hs.foldl (fun y h => { y.setVer h Version.plain with commVers := NMap.erase y.commVers h }) x
  { y with map := map, mapSel := sel, mapValid := true, realign := true, phase := 0, castAt := none, prep := none, tries := 0 }

/-- Raise CKP_RESTORED (R399). -/
def ckpRestored (c : Nat) (step : Dword) (source flags len : Nat) (s : State) : State :=
  raiseCtx c 0x0605 0 noUnit (leBytes 8 step.toNat ++ leBytes 1 source ++ leBytes 1 flags ++ leBytes 2 0 ++ leBytes 4 0
    ++ leBytes 8 len) s

/-- RESTORE from L1, L2 or L3 (R395). DEDUCED: log entry 66. -/
def restoreBody (image : Bytes) (found readable : Bool) (t : Task) : Run RunOut := do
  let s ← getS
  let c := t.ref.ctx.val
  let source := fieldLe t.d.params 1 1
  let step : Dword := BitVec.ofNat 64 (fieldLe t.d.params 0x10 8)
  let held := s.flash.images.find? fun i => i.durable && decide (i.job = s.ctxJob c) && decide (some i.rank = s.ctxRank c)
    && decide (i.step = step)
  let (there, b) : Bool × Bytes := match source with
    | 1 => (found && decide (s.twin.state = 2), image)
    | 2 => (held.isSome, (held.map fun i => i.bytes).getD [])
    | _ => (found && decide (fieldLe image 8 8 = step.toNat), image)
  let addr := fieldLe t.d.params 8 8
  if source = 3 ∧ ¬ s.winAllows addr (max 256 image.length) false then do
    modS (violation c)
    stop stAccess dNone
  else if ¬ there then stop stDiscarded dNone
  else if ¬ readable then do
    if source = 2 then modS (count (aFlsh 0x28) 1)
    stop stChecksum dNone
  else match parseImage b with
    | none => stop stChecksum dNone
    | some xs =>
      if ¬ imageSound b xs (s.regBit (aRngs c 0x1C) 8) then stop stChecksum dNone
      else if ¬ s.imageMatches c b xs then stop stAccess dNone
      else do
        xs.foldlM (fun _ h => restoreHandle t.who h) ()
        let u ← getS
        let (u1, ok1) := writeMap c false [] u
        let (u2, ok2) := writeMap c true [] u1
        let (u3, ok3) := writeWord c 0 step false 1 0 u2
        if ¬ (ok1 ∧ ok2 ∧ ok3) then stop stAccess dNone
        else do
          modS fun _ => ckpRestored c step source ((fieldLe b 1 1) % 2) b.length
            ((u3.setReg64 (aRngs c 0x20) step).setCtx c ((u3.ctx c).restored (xs.map fun h => h.handle) [] false))
          pure { res := Result.empty, undo := [] }

/-- CHECKPOINT_RESTORE. -/
def ckpRestore (task : TaskRef) (image : Bytes) (found readable : Bool) (s : State) : State :=
  let sel := fun d => isCkp 2 d && decide (fieldLe d.params 1 1 ≠ 0)
  if (s.ctx task.ctx).ckpBusy then s else runTask task sel (restoreBody image found readable) s

/-! ### RESTORE LOCAL (R396) -/

/-- The map that bytes of the commit area hold. -/
def mapOf (b : Bytes) : NMap Bool :=
  (List.range b.length).flatMap fun i => ((List.range 8).filter fun j => (fieldLe b i 1).testBit j).map fun j => (8 * i + j, true)

/-- Bytes of the commit area. -/
def State.areaRead (s : State) (c off n : Nat) : Option Bytes := match s.readVa envQuiet c (s.mapBase c + off) n with
  | .error _ => none
  | .ok (b, _) => some b

/-- RESTORE with SOURCE LOCAL. -/
def restoreLocalBody (t : Task) : Run RunOut := do
  let s ← getS
  let c := t.ref.ctx.val
  let step := fieldLe t.d.params 0x10 8
  let adopt := (fieldLe t.d.params 2 1).testBit 1
  match s.areaRead c 0 64, s.areaRead c 0x40 64 with
  | some w, some p =>
    let sel := (fieldLe (if adopt then p else w) 8 1).testBit 0
    if ¬ checkOk w ∨ fieldLe w 0 8 ≠ step ∨ (adopt ∧ (¬ checkOk p ∨ fieldLe p 0 8 ≠ step + 1)) then stop stChecksum dNone
    else match s.areaRead c (0x1000 + if sel then s.mapBytes c else 0) (s.mapBytes c) with
      | none => stop stChecksum dNone
      | some m => do
        let at' : Dword := BitVec.ofNat 64 (if adopt then step + 1 else step)
        let (s1, ok) := if adopt then writeWord c 0 at' sel 1 (BitVec.ofNat 128 (fieldLe p 0x18 16)) s else (s, true)
        if ¬ ok then stop stChecksum dNone
        else do
          let hs := (s1.ctx c).folioHandles.map fun e => e.1
          modS fun _ => ckpRestored c at' 0 (if adopt then 2 else 0) 0
            ((s1.setReg64 (aRngs c 0x20) at').setCtx c ((s1.ctx c).restored hs (mapOf m) sel))
          pure { res := Result.empty, undo := [] }
  | _, _ => stop stChecksum dNone

/-- CHECKPOINT_RESTORE_LOCAL. -/
def ckpRestoreLocal (task : TaskRef) (s : State) : State :=
  let sel := fun d => isCkp 2 d && decide (fieldLe d.params 1 1 = 0)
  if (s.ctx task.ctx).ckpBusy then s else runTask task sel restoreLocalBody s

/-! ### The drain (R38, R397) -/

/-- Write the drain image of a context: to the twin, and to flash where the twin is CORRELATED or missing. -/
def drainImage (c : Nat) (s : State) : State :=
  let (r, s1) := (ckpImage envQuiet (Who.ofCtx c) false true).run s
  match r with
  | .error _ => s1
  | .ok (image, tainted) =>
    let step := s1.reg64 (aRngs c 0x20)
    let paired := decide (s1.twin.state = 2)
    let viaL1 := paired && s1.twinRoom image.length
    let ms := (s1.time - s1.devSince).toNat / 1000000
    let s2 := if viaL1 then sendImage c none image s1 else s1
    let toL2 := (!paired || s1.correlated) && s1.flashRoom image.length
    let s3 := if toL2 then programImage (s2.imageOf c step tainted image) s2 else s2
    let result := if paired then (if viaL1 ∧ (toL2 ∨ ¬ s1.correlated) then 0 else 1) else if toL2 then 2 else 1
    let s4 := if result = 1 then s3 else noteDurable c step tainted s3
    ckpWritten c step 1 result tainted s1.correlated ms image.length s4

/-- Release a context: its rings are disabled; it enters CONFIGURED, or INVALID from KILLED (R60). -/
def drainRelease (c : Nat) (s : State) : State :=
  let s1 := (List.range 8).foldl (fun t r => disableRing c r (t.setRegBit (aRing c r 8) 0 false)) s
  let x := s1.ctx c
  match x.st with
  | .killed =>
    let s2 := setCtxState c .invalid (keepImports c (fun _ => true) s1)
    (s2.setRegBit (aCtx c 0) 0 false).setCtx c (s2.ctx c).released
  | .active | .quiescing => setCtxState c .configured s1
  | _ => s1

/-- DRAIN_COMPLETE: every context has been checkpointed and released; DRAINING ends in FENCED. DEDUCED: log entry 67. -/
def drainComplete (s : State) : State :=
  if s.dev ≠ .draining ∨ (s.activeCtxs.any fun c => decide (0 < (s.ctx c).inflight)) then s
  else
    let cs := s.activeCtxs
    let s1 := cs.foldl (fun t c => drainRelease c (drainImage c t)) s
    let s2 := (setDev .fenced { s1 with faults := { s1.faults with draining := false } })
    if s2.faults.drainDetach then s2 else holdSuspects s2

/-- DETACH_CONFIRMED: the twin confirms every drain image (R397). -/
def detachConfirmed (s : State) : State :=
  if s.dev = .fenced ∧ s.faults.drainDetach then (setDev .detached s) else s

/-! ### Commands -/

/-- CHECKPOINT_WRITE. -/
def execCheckpointWrite (task : TaskRef) (env : Env) (s : State) : Answer := .next (ckpWrite task env s)
/-- CHECKPOINT_RESTORE. -/
def execCheckpointRestore (task : TaskRef) (image : Bytes) (found readable : Bool) (s : State) : Answer :=
  .next (ckpRestore task image found readable s)
/-- CHECKPOINT_RESTORE_LOCAL. -/
def execCheckpointRestoreLocal (task : TaskRef) (s : State) : Answer := .next (ckpRestoreLocal task s)
/-- CKP_LAYER_DURABLE. -/
def execCkpLayerDurable (task : TaskRef) (layer : Fin 4) (ok : Bool) (ms : Word) (s : State) : Answer :=
  .next (ckpDurable task layer.val ok ms s)
/-- DRAIN_COMPLETE. -/
def execDrainComplete (s : State) : Answer := .next (drainComplete s)
/-- DETACH_CONFIRMED. -/
def execDetachConfirmed (s : State) : Answer := .next (detachConfirmed s)

end Sys2Proof.Machine
end

