-- ==== Sys2Proof/Machine/Frames.lean ====
section
/-! DEFINITION. Frames on the fabric ports (R299 to R305, R313), what an output sends (R326), the time sources (R314, R315),
and the limits on packets and flows (R326, R329, R331). -/

namespace Sys2Proof.Machine

/-! ### Frames -/

/-- PORT_MAC as its six bytes. -/
def State.portMac (s : State) (p : Nat) : Bytes := beBytes 2 ((s.reg (aPort p 0x0C)).toNat % 65536) ++ beBytes 4 (s.reg (aPort p 0x08)).toNat

/-- A frame check sequence. -/
def fcsOf (b : Bytes) : Nat := crc32eth b

/-- What the check of a frame's FCS finds: correct, wrong, or inverted by an earlier hop (R305). -/
inductive Fcs where
  | good | bad | stomped
  deriving DecidableEq, Repr

/-- The FCS of a frame whose codewords may have been uncorrectable (R298). DEDUCED: log entry 68. -/
def frameFcs (frame : Bytes) (codeBad : Bool) : Fcs :=
  let body := frame.take (frame.length - 4)
  let v := fieldLe frame (frame.length - 4) 4
  if codeBad then .bad else if v = fcsOf body then .good else if v = 2 ^ 32 - 1 - fcsOf body then .stomped else .bad

/-- Whether a codeword of a frame was uncorrectable, which marks the frame bad (R298). -/
def fecBad (f : Fec) : Bool := decide (0 < f.uncorrectable)

/-- Count what the FEC of a port found in a frame: codewords in PORT_FEC_CORR and PORT_FEC_UNCORR, symbol errors by lane in PORT_LANE_ERR,
which saturates (R298, R319). -/
def noteFec (p : Nat) (f : Fec) (s : State) : State :=
  let s1 := count (aPort p 0x98) f.uncorrectable (count (aPort p 0x90) f.corrected s)
  (List.range 8).foldl (fun t l =>
    let a := aPort p (0x100 + 4 * l)
    t.setReg a (BitVec.ofNat 32 (min (2 ^ 32 - 1) ((t.reg a).toNat + f.lanes.getD l 0)))) s1

/-- A frame with its FCS, inverted where asked. -/
def withFcs (body : Bytes) (stomp : Bool) : Bytes :=
  body ++ leBytes 4 (if stomp then 2 ^ 32 - 1 - fcsOf body else fcsOf body)

/-- The Ethernet header of a native frame sent by port `p` (R299). -/
def State.nativeHead (s : State) (p : Nat) : Bytes := [2, 0, 0, 0, 0, 0] ++ s.portMac p ++ beBytes 2 0x88B5

/-- The Internet checksum of bytes: the one's complement of their one's-complement sum. -/
def inetSum (b : Bytes) : Nat :=
  let sum := (List.range ((b.length + 1) / 2)).foldl (fun a i => a + fieldBe (b ++ [0]) (2 * i) 2) 0
  let fold := fun n => n % 65536 + n / 65536
  65535 - fold (fold (fold sum))

/-- The UDP checksum: over the pseudo-header and the datagram. -/
def udpSum (pseudo udp : Bytes) : Nat := inetSum (pseudo ++ udp)

/-! ### Version-0 frames (R313) -/

/-- A version-0 frame as an output queue holds it: it lies under the buffers of class REQ. -/
def v0Packet (body : Bytes) : Packet := { Packet.ofBytes (List.replicate 48 0) (body.drop 62) with cls := 0 }

/-- Forward a version-0 frame, given up to its FCS, by the coordinate of its first word; one that its output takes is counted. DEDUCED: log
entry 69. -/
def v0Route (p : Nat) (body : Bytes) (s : State) : State :=
  let coord := fieldBe body 14 4 % 2 ^ 21
  if coord = s.ownCoord ∨ p = 8 then discardAt p 5 none s
  else
    match s.routeTo coord 0 (arrivalDim (some p)) with
    | none => discardAt p 13 none s
    | some (o, vc) =>
      enqueue o { pkt := { v0Packet body with vc := vc }, transit := decide (p < 6), turned := false, stomp := false, since := 0,
                  v0 := some body, uplink := 0 } (if (s.port o).up then count (aFabr 0x70) 1 s else s)

/-- A version-0 frame on a native port: only its FCS is checked. -/
def v0Forward (p : Nat) (frame : Bytes) (fec : Fec) (s : State) : State :=
  if ¬ s.portCarries p ∨ frame.length < 66 then s
  else
    let s1 := noteFec p fec s
    match frameFcs frame (fecBad fec) with
    | .bad => discardAt p 1 none s1
    | .stomped => count (aPort p 0xA8) 1 s1
    | .good => v0Route p (frame.take (frame.length - 4)) s1

/-! ### Native frames (R299, R305) -/

/-- The transport checks of a received packet, and its handling at this hop; `good` is false for a frame whose FCS failed, which is
only forwarded, with its FCS inverted. -/
def gotTransport (p : Nat) (h payload : Bytes) (good : Bool) (s : State) : State :=
  let version := fieldBe h 0 4 / 2 ^ 28
  if ¬ good then
    let s1 := discardAt p 1 none s
    if version = 1 ∧ (s.headerReason h payload).isNone then hopPacket (some p) (Packet.ofBytes h payload) true s1 else s1
  else if 2 ≤ version then discardAt p 2 none s
  else match s.headerReason h payload with
    | some r => discardAt p r (some (Packet.ofBytes h payload)) s
    | none =>
      let pkt := Packet.ofBytes h payload
      if p = 8 ∧ pkt.pairing then deliverPacket p pkt s else hopPacket (some p) pkt false s

/-- The packets that `t` has delivered beyond `s` meet `env` when they are executed. -/
def meeting (env : Env) (s t : State) : State :=
  let n := s.fabric.delivered.length
  { t with fabric := { t.fabric with
      delivered := t.fabric.delivered.take n ++ (t.fabric.delivered.drop n).map fun d => { d with env := env } } }

/-- NATIVE_FRAME_RECEIVED. -/
def nativeFrame (p : Nat) (frame : Bytes) (rx : Arrival) (s : State) : State :=
  if ¬ s.portCarries p then s
  else
    let s2 := noteFec p rx.fec (count (aPort p 0x88) 1 s)
    let etype := fieldBe frame 12 2
    let body := frame.take (frame.length - 4)
    match frameFcs frame (fecBad rx.fec) with
    | .stomped => count (aPort p 0xA8) 1 s2
    | fcs =>
      let good := decide (fcs = .good)
      if frame.length < 66 ∨ etype ≠ 0x88B5 ∨ p = 6 ∨ p = 7 then
        (if ¬ good then discardAt p 1 none s2 else if etype = 0x88F7 then s2 else discardAt p 8 none s2)
      else if fieldBe frame 14 4 / 2 ^ 28 = 0 then (if good then v0Route p body s2 else discardAt p 1 none s2)
      else meeting rx.env s2 (gotTransport p (sliceB body 14 48) (body.drop 62) good s2)

/-! ### Routed frames (R300 to R302) -/

/-- What an uplink makes of a frame (R301). -/
inductive Routed where
  /-- A transport packet: the UDP payload. -/
  | transport (b : Bytes)
  /-- For the TIME unit or the management cores, with what these answer. -/
  | other (answer : Option Bytes)
  /-- Discarded with a reason. -/
  | drop (reason : Nat)
  deriving DecidableEq, Repr

/-- Judge a UDP datagram: the pseudo-header, whether a zero checksum is allowed, and whether it is for this port. -/
def State.judgeUdp (s : State) (pseudo udp : Bytes) (zeroOk mine : Bool) : Routed :=
  let port := fieldBe udp 2 2
  let n := fieldBe udp 4 2
  let d := udp.take n
  if udp.length < 8 ∨ n < 8 ∨ udp.length < n then .drop 8
  else if port = 319 ∨ port = 320 then .other none
  else if s.regField (aFabr 8) 15 0 = 0 then .drop 9
  else if ¬ mine ∨ port ≠ s.regField (aFabr 8) 15 0 then .drop 8
  else if ¬ (zeroOk ∧ fieldBe udp 6 2 = 0) ∧ udpSum pseudo d ≠ 0 then .drop 10
  else if n < 56 then .drop 3
  else .transport (d.drop 8)

/-- PORT_IP6 of a port as its 16 bytes. -/
def State.portIp6 (s : State) (p : Nat) : Bytes := (List.range 4).flatMap fun i => beBytes 4 (s.reg (aPort p (0x20 + 4 * i))).toNat

/-- The answer to an ARP request for the port's IPv4 address (R301, RFC 826): `head` is the frame up to the EtherType, `a` what follows it.
PRESUMED: log entry 106. -/
def State.arpAnswer (s : State) (p : Nat) (head a : Bytes) : Option Bytes :=
  let own := s.reg (aPort p 0x30)
  if own ≠ 0 ∧ fieldBe a 0 4 = 0x00010800 ∧ fieldBe a 4 4 = 0x06040001 ∧ fieldBe a 24 4 = own.toNat then
    some (sliceB (sliceB a 8 6 ++ s.portMac p ++ head.drop 12 ++ beBytes 2 0x0806 ++ beBytes 4 0x00010800 ++ beBytes 4 0x06040002
      ++ s.portMac p ++ beBytes 4 own.toNat ++ sliceB a 8 10) 0 60)
  else none

/-- The answer to a Neighbour Solicitation for the port's IPv6 address (R301, RFC 4861): a Neighbour Advertisement to its source, or to all
nodes where that is unspecified. PRESUMED: log entry 106. -/
def State.ndAnswer (s : State) (p : Nat) (head ip : Bytes) : Option Bytes :=
  let own := s.portIp6 p
  let n := fieldBe ip 4 2
  let icmp := (ip.drop 40).take n
  let src := sliceB ip 8 16
  let open' := decide (src = List.replicate 16 0)
  let pseudo := fun (a b : Bytes) (len : Nat) => a ++ b ++ beBytes 4 len ++ [0, 0, 0, 58]
  if own = List.replicate 16 0 ∨ fieldBe ip 7 1 ≠ 255 ∨ n < 24 ∨ fieldBe icmp 0 2 ≠ 135 * 256 ∨ sliceB icmp 8 16 ≠ own
      ∨ inetSum (pseudo src (sliceB ip 24 16) n ++ icmp) ≠ 0 then none
  else
    let dst := if open' then [0xFF, 2] ++ List.replicate 13 0 ++ [1] else src
    let mac := if open' then [0x33, 0x33, 0, 0, 0, 1] else sliceB head 6 6
    let msg := fun (c : Nat) => [136, 0] ++ beBytes 2 c ++ beBytes 4 (if open' then 0x20000000 else 0x60000000) ++ own ++ [2, 1] ++ s.portMac p
    some (mac ++ s.portMac p ++ head.drop 12 ++ beBytes 2 0x86DD ++ beBytes 4 (6 * 2 ^ 28) ++ beBytes 2 32 ++ [58, 255] ++ own ++ dst
      ++ msg (inetSum (pseudo own dst 32 ++ msg 0)))

/-- Judge a routed frame without its FCS. -/
def State.judgeRouted (s : State) (p : Nat) (body : Bytes) : Routed :=
  let tag := decide (fieldBe body 12 2 = 0x8100)
  let o := if tag then 16 else 12
  let etype := fieldBe body o 2
  let ip := body.drop (o + 2)
  let mac := decide (sliceB body 0 6 = s.portMac p)
  let inert := decide (s.regField (aFabr 8) 15 0 = 0)
  if etype = 0x0806 then .other (s.arpAnswer p (body.take o) ip)
  else if etype = 0x88CC then .other none
  else if etype = 0x86DD then
    let nh := fieldBe ip 6 1
    let icmp := fieldBe ip 40 1
    if nh = 58 ∧ 133 ≤ icmp ∧ icmp ≤ 137 then .other (s.ndAnswer p (body.take o) ip)
    else if nh ≠ 17 then .drop (if inert then 9 else 8)
    else
      let own := s.portIp6 p
      let udp := (ip.drop 40).take (fieldBe ip 4 2)
      s.judgeUdp (sliceB ip 8 32 ++ beBytes 4 (fieldBe udp 4 2) ++ [0, 0, 0, 17]) udp false
        (mac && decide (sliceB ip 24 16 = own))
  else if etype = 0x0800 then
    if fieldBe ip 0 1 ≠ 0x45 ∨ fieldBe ip 6 2 % 2 ^ 14 ≠ 0 ∨ fieldBe ip 9 1 ≠ 17 then .drop (if inert then 9 else 8)
    else
      let own := (s.reg (aPort p 0x30)).toNat
      let udp := (ip.drop 20).take (fieldBe ip 2 2 - 20)
      s.judgeUdp (sliceB ip 12 8 ++ [0, 17] ++ beBytes 2 (fieldBe udp 4 2)) udp true
        (mac && decide (own ≠ 0) && decide (fieldBe ip 16 4 = own))
  else .drop 8

/-- The management cores answer on an uplink. -/
def coreAnswer (p : Nat) (a : Option Bytes) (s : State) : State :=
  match a with
  | none => s
  | some b => (count (aPort p 0x80) 1 s).emit (.frame p (withFcs b false))

/-- ROUTED_FRAME_RECEIVED: a version-0 packet goes on natively. -/
def routedFrame (p : Nat) (frame : Bytes) (rx : Arrival) (s : State) : State :=
  if (p ≠ 6 ∧ p ≠ 7) ∨ ¬ s.portCarries p then s
  else
    let s1 := noteFec p rx.fec (count (aPort p 0x88) 1 s)
    let body := frame.take (frame.length - 4)
    if frame.length < 64 ∨ frameFcs frame (fecBad rx.fec) = .bad then discardAt p 1 none s1
    else if frameFcs frame (fecBad rx.fec) = .stomped then count (aPort p 0xA8) 1 s1
    else match s1.judgeRouted p body with
      | .other a => coreAnswer p a s1
      | .drop r => discardAt p r none s1
      | .transport b =>
        if fieldBe b 0 4 / 2 ^ 28 = 0 then v0Route p (s1.nativeHead p ++ b) s1
        else meeting rx.env s1 (gotTransport p (b.take 48) (b.drop 48) true s1)

/-! ### What an output sends (R300, R326) -/

/-- The routed frame of a packet on uplink `p` by an uplink address entry (R300). -/
def State.routedBytes (s : State) (p : Nat) (entry : Nat) (q : Packet) : Bytes :=
  let e := leBytes 32 entry
  let vlan := fieldLe e 0x16 2
  let v4 := decide (sliceB e 0 12 = List.replicate 10 0 ++ [255, 255])
  let hash := q.flowHash
  let cls := q.cls.toNat
  let dscp := (s.reg (aPort p 0x1C)).toNat / 2 ^ (8 * cls) % 64
  let pcp := (s.reg (aPort p 0x18)).toNat / 2 ^ (4 * cls) % 8
  let ttl := let t := s.regField (aPort p 0x34) 7 0; if t = 0 then 64 else t
  let data := q.header ++ q.payload
  let n := 8 + data.length
  let src6 := s.portIp6 p
  let src4 := beBytes 4 (s.reg (aPort p 0x30)).toNat
  let udp := fun (c : Nat) => beBytes 2 (0xC000 + hash % 2 ^ 14) ++ beBytes 2 (s.regField (aFabr 8) 15 0) ++ beBytes 2 n ++ beBytes 2 c ++ data
  let pseudo := if v4 then src4 ++ sliceB e 12 4 ++ [0, 17] ++ beBytes 2 n else src6 ++ sliceB e 0 16 ++ beBytes 4 n ++ [0, 0, 0, 17]
  let sum := let c := udpSum pseudo (udp 0); if c = 0 then 65535 else c
  let head4 := fun (c : Nat) => beBytes 1 0x45 ++ beBytes 1 (dscp * 4) ++ beBytes 2 (20 + n) ++ beBytes 2 0 ++ beBytes 2 0x4000 ++ beBytes 1 ttl ++ beBytes 1 17
    ++ beBytes 2 c ++ src4 ++ sliceB e 12 4
  let ip := if v4 then head4 (inetSum (head4 0))
    else beBytes 4 (6 * 2 ^ 28 + dscp * 4 * 2 ^ 20 + hash % 2 ^ 20) ++ beBytes 2 n ++ beBytes 1 17 ++ beBytes 1 ttl ++ src6 ++ sliceB e 0 16
  sliceB e 0x10 6 ++ s.portMac p ++ (if vlan.testBit 12 then beBytes 2 0x8100 ++ beBytes 2 (pcp * 2 ^ 13 + vlan % 2 ^ 12) else [])
    ++ beBytes 2 (if v4 then 0x0800 else 0x86DD) ++ ip ++ udp sum

/-- The frame of a queued packet on port `p`. -/
def State.frameBytes (s : State) (p : Nat) (q : Queued) : Bytes :=
  match q.v0 with
  | some body => withFcs body q.stomp
  | none =>
    if p = 6 ∨ p = 7 then withFcs (s.routedBytes p q.uplink q.pkt) q.stomp
    else withFcs (s.nativeHead p ++ q.pkt.header ++ q.pkt.payload) q.stomp

/-- 64-byte cells of a queued packet. -/
def Queued.cells (q : Queued) : Nat := (48 + q.pkt.payload.length + 63) / 64

/-- FABR_TRANSIT_RESERVE in percent. -/
def State.transitReserve (s : State) : Nat := clampNat (s.regField (aFabr 0x228) 6 0) 10 75

/-- Whether the credits at an output allow a packet: a local one may not use the transit reserve. -/
def State.creditAllows (s : State) (credits : List (Nat × Nat × Nat)) (q : Queued) : Bool :=
  let held := credits.foldl (fun a e => if e.1 = q.pkt.cls.toNat ∧ e.2.1 = (if q.pkt.vc then 1 else 0) then a + e.2.2 else a) 0
  decide (q.cells ≤ if q.transit then held else held * (100 - s.transitReserve) / 100)

/-- BNDY_RATE in GB/s, which is bytes per ns: 0, and values above 1,600, mean no cap (R360, R366). DEDUCED: log entry 95. -/
def State.rateCap (s : State) (p : Nat) : Nat :=
  let n := s.regField (aBndy (0x40 + 4 * p)) 10 0
  if 1600 < n then 0 else n

/-- The token bucket of a port as it stands now, in bytes: it holds at most 64 KiB (R360). -/
def State.tokensNow (s : State) (p : Nat) : Nat :=
  let x := s.port p
  if s.rateCap p = 0 then 65536 else min 65536 (x.tokens + s.rateCap p * (s.time - x.tokenAt).toNat)

/-- Whether the cap of a port lets a packet go: a local one needs tokens for its frame; transit is not capped. -/
def State.rateAllows (s : State) (p : Nat) (q : Queued) : Bool :=
  q.transit || decide (s.rateCap p = 0) || decide ((s.frameBytes p q).length ≤ s.tokensNow p)

/-- The port whose bucket has been brought up to now, less `n` tokens. -/
def State.tokensLess (s : State) (p n : Nat) : Port := { s.port p with tokens := s.tokensNow p - n, tokenAt := s.time }

/-- The port that has sent a packet: a local one took its tokens. -/
def State.spent (s : State) (p : Nat) (q : Queued) : Port :=
  if q.transit ∨ s.rateCap p = 0 then s.port p else s.tokensLess p (s.frameBytes p q).length

/-- The port that has sent a packet: transit and local alternate within its class. -/
def Port.altAfter (x : Port) (q : Queued) : Port :=
  let c := q.pkt.cls.toNat
  { x with alt := x.alt.set c (if q.transit then min 15 (x.alt.getD c 0 + 1) else 0) }

/-- The classes in the order of the weighted round robin, one place for each unit of weight (FABR_ARB). DEDUCED: log entry 70. -/
def State.arbCycle (s : State) : List Nat :=
  let w := fun hi lo => max 1 (s.regField (aFabr 0x22C) hi lo)
  List.replicate (w 11 8) 1 ++ List.replicate (w 7 4) 2 ++ List.replicate (w 3 0) 0

/-- Index of the packet of a class that goes next among those allowed: transit and local alternate by FABR_ARB.TRANSIT. -/
def State.pickPacket (s : State) (p cls : Nat) (credits : List (Nat × Nat × Nat)) : Option Nat :=
  let x := s.port p
  let ok := fun (tr : Bool) => x.queue.findIdx? fun q => decide (q.pkt.cls.toNat = cls) && q.transit == tr && s.creditAllows credits q && s.rateAllows p q
  match ok true, ok false with
  | some i, some j => if x.alt.getD cls 0 < max 1 (s.regField (aFabr 0x22C) 19 16) then some i else some j
  | some i, none => some i
  | none, j => j

/-- The packet that an output sends next: its index, and the place of the round robin after it. -/
def State.arbitrate (s : State) (p : Nat) (credits : List (Nat × Nat × Nat)) : Option (Nat × Nat) :=
  match s.pickPacket p 3 credits with
  | some i => some (i, (s.port p).wrr)
  | none =>
    let cyc := s.arbCycle
    let n := cyc.length
    (List.range n).findSome? fun k =>
      let at' := ((s.port p).wrr + k) % n
      (s.pickPacket p (cyc.getD at' 0) credits).map fun i => (i, (at' + 1) % n)

/-- Whether a port is an inert uplink, which sends no transport packet (R302): what it holds waits. DEDUCED: log entry 70. -/
def State.inert (s : State) (p : Nat) : Bool := (decide (p = 6) || decide (p = 7)) && decide (s.regField (aFabr 8) 15 0 = 0)

/-- LINK_TRANSMIT: the arbiter sends one packet. -/
def linkTransmit (p : Nat) (credits : List (Nat × Nat × Nat)) (s : State) : State :=
  if ¬ s.portCarries p ∨ s.inert p then s
  else match s.arbitrate p credits with
    | none => s
    | some (i, wrr) =>
      let x := s.port p
      match x.queue[i]? with
      | none => s
      | some q =>
        let y := (s.spent p q).altAfter q
        let s1 := s.setPort p { y with queue := x.queue.eraseIdx i, wrr := wrr }
        (count (aPort p 0x80) 1 s1).emit (.frame p (s.frameBytes p q))

/-- DWELL_EXPIRE: a packet has waited more than FABR_DWELL_LIMIT (R326). -/
def dwellExpire (p i : Nat) (s : State) : State :=
  let limit := clampNat (s.reg (aFabr 0x234)).toNat 20 10000 * 1000
  match (s.port p).queue[i]? with
  | none => s
  | some q =>
    if q.since.toNat + limit < s.time.toNat then
      discardAt (if q.turned then 0 else p) 11 (if q.v0.isSome then none else some q.pkt)
        (s.setPort p { s.port p with queue := (s.port p).queue.eraseIdx i })
    else s

/-! ### Epochs and flows (R329, R331) -/

/-- FABR_EPOCH.INJECT is written (R329): EPOCH_SWITCH is awaited from then on. DEDUCED: log entry 71. -/
def setEpoch (e : Bool) (s : State) : State :=
  let old := s.regBit (aFabr 0x200) 0
  if old = e then s
  else
    { s.setRegBit (aFabr 0x200) 0 e with
      fabric := { s.fabric with epochOpen := true, epochTime := s.time, epochDrained := BitVec.ofNat 32 (s.epochHeld old) } }

/-- EPOCH_SWITCH: the old epoch's packets have drained. -/
def epochSwitch (s : State) : State :=
  let e := s.regBit (aFabr 0x200) 0
  if ¬ s.fabric.epochOpen ∨ s.epochHeld (!e) ≠ 0 then s
  else
    raiseDev 0x0304 0 noUnit (leBytes 1 (if e then 1 else 0) ++ leBytes 3 0 ++ leBytes 4 s.fabric.epochDrained.toNat
      ++ leBytes 8 s.fabric.epochTime.toNat) { s with fabric := { s.fabric with epochOpen := false } }

/-- FLOW_EVICT: an idle flow is evicted. -/
def flowEvict (send : Bool) (i : Nat) (s : State) : State :=
  let f := s.fabric
  if send then match f.tx[i]? with
    | none => s
    | some x => if x.last.toNat + 2 * s.flowIdle ≤ s.time.toNat then { s with fabric := { f with tx := f.tx.eraseIdx i } } else s
  else match f.rx[i]? with
    | none => s
    | some x => if x.last.toNat + s.flowIdle ≤ s.time.toNat then { s with fabric := { f with rx := f.rx.eraseIdx i } } else s

/-! ### Time sources (R314, R315, R318) -/

/-- A measured offset from the master: FABR_PTP_OFFSET saturates; LOCKED follows sixteen good updates in a row. -/
def servoUpdate (o : Int) (s : State) : State :=
  let v : Int := max (-(2 ^ 31)) (min (2 ^ 31 - 1) o)
  let good := decide (o.natAbs < 100)
  let n := if good then min 16 (s.fabric.servoGood + 1) else 0
  let s1 := { s.setReg (aFabr 0x5C) (BitVec.ofInt 32 v) with fabric := { s.fabric with servoGood := n } }
  if n = 16 then s1.setRegBit (aFabr 0x58) 2 true
  else if 1000 ≤ o.natAbs then s1.setRegBit (aFabr 0x58) 2 false else s1

/-- A latency of a port in 1/16 ns (R316): factory values of the part record. -/
def State.stampLat (s : State) (p : Nat) (rx : Bool) : Nat := (s.portLat p rx).toNat

/-- The timestamp of a message that leaves a port now, and of one that arrives, at the connector, in 1/16 ns (R316). -/
def State.txStamp (s : State) (p : Nat) : Nat := 16 * s.time.toNat + s.stampLat p false
def State.rxStamp (s : State) (p : Nat) : Nat := 16 * s.time.toNat - s.stampLat p true

/-- Where the IP header of a frame stands, its length, and whether it is IPv4; none on ports that carry PTP over Ethernet (R315). -/
def ptpIp (p : Nat) (frame : Bytes) : Option (Nat × Nat × Bool) :=
  let o := if fieldBe frame 12 2 = 0x8100 then 18 else 14
  if p ≠ 6 ∧ p ≠ 7 then none
  else if fieldBe frame (o - 2) 2 = 0x0800 then some (o, 20, true) else some (o, 40, false)

/-- Where the PTP message of a frame stands. -/
def ptpAt (p : Nat) (frame : Bytes) : Nat :=
  match ptpIp p frame with
  | none => 14
  | some (o, n, _) => o + n + 8

/-- A frame with its UDP checksum computed again. -/
def udpSealed (p : Nat) (frame : Bytes) : Bytes :=
  match ptpIp p frame with
  | none => frame
  | some (o, n, v4) =>
    let at' := o + n
    let len := fieldBe frame (at' + 4) 2
    let udp := putB (sliceB frame at' len) 6 [0, 0]
    let pseudo := if v4 then sliceB frame (o + 12) 8 ++ [0, 17] ++ beBytes 2 len else sliceB frame (o + 8) 32 ++ beBytes 4 len ++ [0, 0, 0, 17]
    let c := udpSum pseudo udp
    putB frame (at' + 6) (beBytes 2 (if c = 0 then 65535 else c))

/-- A PTP message as a port with ONE_STEP sends it (R315): a Sync carries its originTimestamp, a Pdelay_Resp the turnaround time in its
correctionField. DEDUCED: log entry 71. -/
def State.oneStep (s : State) (p kind : Nat) (frame : Bytes) : Bytes :=
  let m := ptpAt p frame
  let ns := s.txStamp p / 16
  if kind = 0 then udpSealed p (putB frame (m + 34) (beBytes 6 (ns / 10 ^ 9) ++ beBytes 4 (ns % 10 ^ 9)))
  else if kind = 3 then
    udpSealed p (putB frame (m + 8) (beBytes 8 ((fieldBe frame (m + 8) 8 + (s.txStamp p - (s.port p).pdelayAt) * 4096) % 2 ^ 64)))
  else frame

/-- Send a PTP message, given without its FCS: with ONE_STEP as that has it, else its egress timestamp is reported where it is an event
message. -/
def ptpSend (p kind : Nat) (frame : Bytes) (s : State) : State :=
  let s1 := count (aPort p 0x80) 1 s
  if s.regBit (aPort p 0x38) 2 then s1.emit (.frame p (withFcs (s.oneStep p kind frame) false))
  else
    let s2 := s1.emit (.frame p (withFcs frame false))
    if kind < 4 then s2.emit (.ptpStamp p kind (s.txStamp p)) else s2

/-- PTP_MESSAGE: a message on a port with PTP_EN, sent as a frame without its FCS, or received. A Sync received makes it the slave port, as the
clock algorithm decided when an offset comes with it. -/
def ptpMessage (p : Nat) (sent : Option Bytes) (kind : Nat) (offset : Option Int) (s : State) : State :=
  if ¬ s.portCarries p ∨ ¬ s.regBit (aPort p 0x38) 0 then s
  else match sent with
  | some frame => ptpSend p kind frame s
  | none =>
    let slave := (s.port p).ptpSlave || offset.isSome
    let s0 := if kind = 2 then s.setPort p { s.port p with pdelayAt := s.rxStamp p } else s
    let s1 : State := if offset.isSome then
        let ports := s0.fabric.ports.map fun e => (e.1, { e.2 with ptpSlave := decide (e.1 = p) })
        { s0 with fabric := { s0.fabric with ports := ports } }
      else s0
    let s2 := if kind = 0 ∧ slave then { s1 with fabric := { s1.fabric with syncAt := s1.time } } else s1
    match offset with
    | none => s2
    | some o => servoUpdate o s2

/-- PPS_EDGE: with PPS_EN, TIME is captured. -/
def ppsEdge (s : State) : State := if s.regBit (aFabr 0x54) 2 then s.setReg64 (aFabr 0x60) s.time else s

/-- PPS_LOST: no edge for 2 s. -/
def ppsLost (s : State) : State :=
  if s.regBit (aFabr 0x54) 2 ∧ (s.reg64 (aFabr 0x60)).toNat + 2000000000 ≤ s.time.toNat then s.setRegBit (aFabr 0x58) 3 true else s

/-- PTP_LOST: no Sync on the slave port for 3 s. -/
def ptpLost (s : State) : State :=
  if (s.fabric.ports.any fun e => e.2.ptpSlave) ∧ s.fabric.syncAt.toNat + 3000000000 ≤ s.time.toNat then
    let t := s.setRegBit (aFabr 0x58) 4 true
    { t with fabric := { t.fabric with ports := t.fabric.ports.map fun e => (e.1, { e.2 with ptpSlave := false }), servoGood := 0 } }
  else s

/-! ### Commands -/

/-- NATIVE_FRAME_RECEIVED (R305). -/
def execNativeFrameReceived (port : Fin 9) (frame : Bytes) (rx : Arrival) (s : State) : Answer := .next (nativeFrame port.val frame rx s)
/-- ROUTED_FRAME_RECEIVED (R301). -/
def execRoutedFrameReceived (port : Fin 9) (frame : RxFrame) (s : State) : Answer := .next (routedFrame port.val frame.bytes frame.rx s)
/-- PTP_MESSAGE (R315). -/
def execPtpMessage (port : Fin 9) (sent : Option Bytes) (kind : BitVec 4) (offset : Option Int) (s : State) : Answer :=
  .next (ptpMessage port.val sent kind.toNat offset s)
/-- V0_FRAME_FORWARD (R313). -/
def execV0FrameForward (port : Fin 9) (frame : RxFrame) (s : State) : Answer := .next (v0Forward port.val frame.bytes frame.rx.fec s)
/-- LINK_TRANSMIT (R326). -/
def execLinkTransmit (port : Fin 9) (credits : List (Nat × Nat × Nat)) (s : State) : Answer := .next (linkTransmit port.val credits s)
/-- DWELL_EXPIRE (R326). -/
def execDwellExpire (port : Fin 9) (index : Nat) (s : State) : Answer := .next (dwellExpire port.val index s)
/-- FLOW_EVICT (R331). -/
def execFlowEvict (send : Bool) (index : Nat) (s : State) : Answer := .next (flowEvict send index s)
/-- EPOCH_SWITCH (R329). -/
def execEpochSwitch (s : State) : Answer := .next (epochSwitch s)
/-- PPS_EDGE (R314). -/
def execPpsEdge (s : State) : Answer := .next (ppsEdge s)
/-- PPS_LOST (R314). -/
def execPpsLost (s : State) : Answer := .next (ppsLost s)
/-- PTP_LOST (R314). -/
def execPtpLost (s : State) : Answer := .next (ptpLost s)

end Sys2Proof.Machine
end

