-- ==== Sys2Proof/Machine/Requests.lean ====
section
/-! DEFINITION. Packets that the device executes: requests and their answers (R304, R306, R330, R332), the partner area (R389,
R394), the sender's operations (R333, R334), and the packets of collectives (R340). -/

namespace Sys2Proof.Machine

/-! ### Answers -/

/-- Answer a request of context `c`: a packet of class RSP to its source, from the rank it was sent to. -/
def answer (c : Nat) (p : Packet) (op : Byte) (info : Word) (poison : Bool) (payload : Bytes) (s : State) : State :=
  let back : Packet := { s.mkPacket c p.src 1 op 0 (if op = 4 then p.target else 0) info poison true payload with
                         src := p.rank, job := p.job }
  (inject back s).1

/-- ACK (R333). -/
def sendAckTo (c : Nat) (p : Packet) (s : State) : State := answer c p 5 p.seq false [] s

/-- NACK with a status (R304). -/
def sendNack (c : Nat) (p : Packet) (status : Byte) (s : State) : State := answer c p 6 (status.setWidth 32) false [] s

/-- Whether requests of a context are answered DOMAIN_RESET: a domain of it is fenced or in reset, or the device starts (R306,
R336). -/
def State.resetAnswers (s : State) (c : Nat) : Bool := s.starting || s.ctxFenced c || decide ((s.ctx c).st = .invalid)

/-- The status of a failing access (R306). -/
def MemErr.nack : MemErr → Byte
  | .fenced => stDomainReset
  | _ => stAccess

/-- A request with its sequence check (R306, R330): `run` answers the status it fails with, or the state after it. One that is answered
with NACK is not accepted, so its sequence number stays open. DESIGN CHOICE: log entry 72. -/
def runRequest (c port : Nat) (p : Packet) (again : State → State) (run : State → State × Option Byte) (s : State) : State :=
  if s.resetAnswers c then sendNack c p stDomainReset s
  else
    let (s1, q) := seqNote port p s
    match q with
    | .full => s1
    | .dup => again s1
    | .fresh =>
      let reopen := fun (t : State) => { t with fabric := { t.fabric with rx := s.fabric.rx } }
      if (s.ctx c).st = .killed then sendNack c p stKilled (reopen s1)
      else
        match run s1 with
        | (s2, some st) => sendNack c p st (reopen s2)
        | (s2, none) => s2

/-! ### TILE_WRITE and MEM_WRITE (R304, R306, R332, R371) -/

/-- A page-table walk of context `c` that fails inside a request: the status it is answered with. An entry that reads uncorrectable kills
the context (R280). -/
def memFail (c : Nat) (e : MemErr) (s : State) : State × Option Byte :=
  match e with
  | .pte dpa => (killCtx c stInternal (raisePoisonConsumed (Who.ofCtx c) 1 c 4 0xFFFFFFFF dpa 0xFFFFFFFF (noteUe dpa s)), some stKilled)
  | e => (s, some e.nack)

/-- The payload of a packet as a storage tile. -/
def Packet.image (p : Packet) : TileImg := { data := p.payload.take 8192, side := p.payload.drop 8192 }

/-- The tile that a packet leaves in memory: with a poison mark where the packet is poisoned (R277, R278). -/
def Packet.tile (p : Packet) (k : Fmt) (owner : Nat) : TileImg :=
  if p.poison then { p.image with side := sliceB p.image.side 0 k.crcOff ++ markBytes 3 owner } else p.image

/-- What is wrong with a tile received over the fabric (R274): CAUSE 1 its length or its CRC, 2 its husk region (R121). A poisoned one is
not checked. -/
def Packet.tileBad (p : Packet) (k : Fmt) : Option Nat :=
  if p.poison then none
  else if p.payload.length ≠ k.stored ∨ p.image.slot k ≠ p.image.crc k then some 1
  else if ¬ p.image.huskOk k then some 2
  else none

/-- Raise TILE_CHECKSUM for a received tile (R290). -/
def raiseReceived (w : Who) (cause : Nat) (k : Fmt) (handle tile : Nat) (p : Packet) (s : State) : State :=
  raiseChecksum w 2 cause handle tile (p.image.slot k) (p.image.crc k) p.src.toNat noUnit s

/-- Execute a TILE_WRITE. -/
def doTileWrite (env : Env) (c : Nat) (p : Packet) (s : State) : State × Option Byte :=
  let h := p.target.toNat % 2 ^ 20
  let i := p.target.toNat / 2 ^ 20 % 2 ^ 28
  match (s.ctx c).handle? h, s.writeTensor c h 0 false none with
  | some d, some t =>
    let k := t.loc.fmt
    if d.folio ∨ t.loc.tiles ≤ i ∨ p.target.toNat / 2 ^ 48 ≠ 0 then (s, some stAccess)
    else match p.tileBad k with
      | some cause => (raiseReceived (Who.ofCtx c) cause k h i p s, some stChecksum)
      | none =>
        match storeTile env t.loc i (p.tile k c) s with
        | .error e => memFail c e s
        | .ok s1 => (sendAckTo c p (addCounter c p.counter.toNat k.stored s1), none)
  | _, _ => (s, some stAccess)

/-- Whether a range of addresses touches a FOLIO handle of a context. -/
def Ctx.inFolio (x : Ctx) (va n : Nat) : Bool :=
  x.folioHandles.any fun e =>
    let hit := fun a => decide (a < va + n) && decide (va < a + e.2.area)
    hit e.2.addrA.toNat || hit e.2.addrB.toNat

/-- Execute a MEM_WRITE. -/
def doMemWrite (env : Env) (c : Nat) (p : Packet) (s : State) : State × Option Byte :=
  let n := p.payload.length - 4
  if p.target.toNat % 64 ≠ 0 ∨ (s.ctx c).inFolio p.target.toNat n then (s, some stAccess)
  else match writeVa env c p.target.toNat (p.payload.take n) s with
    | .error e => memFail c e s
    | .ok s1 => (sendAckTo c p (addCounter c p.counter.toNat n s1), none)

/-- TILE_WRITE: the first TILE_WRITE delivered. -/
def tileWrite (s : State) : State :=
  match takeDelivered 1 s with
  | none => s
  | some (d, s1) => match d.ctx with
    | none => s1
    | some c => runRequest c d.port d.pkt (sendAckTo c d.pkt) (doTileWrite d.env c d.pkt) s1

/-! ### The partner area (R389, R394) -/

/-- The pieces of a range of the partner area within frames; none where it leaves the area or the machine. -/
def State.partnerPieces (s : State) : Nat → Nat → Nat → Option (List (Nat × Nat))
  | 0, _, _ => some []
  | fuel + 1, off, n =>
    if n = 0 then some []
    else
      let frame := s.regField (aComtDev 0x0C) 18 0 + off / 2 ^ 21
      let k := min n (2 ^ 21 - off % 2 ^ 21)
      if s.regField (aComtDev 0x10) 15 0 ≤ off / 2 ^ 21 ∨ ¬ s.frameOk frame ∨ ¬ s.stackUp (frame / 32768) then none
      else (s.partnerPieces fuel (off + k) (n - k)).map fun r => (frame * 2 ^ 21 + off % 2 ^ 21, k) :: r

/-- Whether a partner-area packet keeps to its region: images beyond the first 64 MiB, the audit mirror within them. -/
def Packet.inRegion (p : Packet) (n : Nat) : Bool :=
  if p.altRank = 1 then decide (2 ^ 26 ≤ p.target.toNat) else decide (p.target.toNat + n ≤ 2 ^ 26)

/-- Answer partner-area traffic on W. -/
def twinAnswer (p : Packet) (op : Byte) (info : Word) (payload : Bytes) (s : State) : State :=
  (sendTwin { s.twinPacket 1 op p.altRank 0 info true payload with target := if op = 4 then p.target else 0 } s).1

/-- A MEM_WRITE or READ_REQ from the twin: it is executed whatever its sequence number, since it does the same again. DESIGN CHOICE: log entry 35. -/
def partnerRequest (p : Packet) (env : Env) (s0 : State) : State :=
  let (s, q) := seqNote 8 p s0
  let n := if p.op = 2 then p.payload.length - 4 else p.info.toNat % 2 ^ 14
  if q = .full then s
  else if ¬ p.inRegion n then twinAnswer p 6 (stAccess.setWidth 32) [] s
  else match s.partnerPieces (n / 2 ^ 21 + 2) p.target.toNat n with
    | none => twinAnswer p 6 (stAccess.setWidth 32) [] s
    | some ps =>
      if p.op = 2 then
        twinAnswer p 5 p.seq [] (if q = .fresh then writePieces ps (p.payload.take n) s else s)
      else
        let bad := ps.flatMap fun r => (bursts r.1 r.2).filter fun b => env.ue.contains b
        let s1 := noteUes bad (ps.foldl (fun u r => noteCes env r.1 r.2 u) s)
        if bad ≠ [] then twinAnswer p 6 (stChecksum.setWidth 32) [] s1 else twinAnswer p 4 p.info (sealed (s.readPieces ps)) s1

/-- MEM_WRITE: the first MEM_WRITE delivered. One whose CRC-32C fails has no effect. -/
def memWrite (s : State) : State :=
  match takeDelivered 2 s with
  | none => s
  | some (d, s1) =>
    if ¬ payloadOk d.pkt.payload then s1
    else match d.ctx with
      | none => if d.pkt.partner then partnerRequest d.pkt d.env s1 else s1
      | some c => runRequest c d.port d.pkt (sendAckTo c d.pkt) (doMemWrite d.env c d.pkt) s1

/-! ### READ_REQ (R304) -/

/-- Execute a READ_REQ. -/
def doRead (c : Nat) (p : Packet) (env : Env) (s : State) : State × Option Byte :=
  if p.info.getLsbD 31 then
    let h := p.target.toNat % 2 ^ 20
    let i := p.target.toNat / 2 ^ 20 % 2 ^ 28
    match s.readTensor c h none with
    | none => (s, some stAccess)
    | some t =>
      if t.loc.tiles ≤ i ∨ p.target.toNat / 2 ^ 48 ≠ 0 then (s, some stAccess)
      else
        let reply := fun (img : TileImg) (poison : Bool) (u : State) =>
          (answer c p 4 p.info poison (img.data ++ sliceB img.side 0 (t.loc.fmt.crcOff + 8)) u, (none : Option Byte))
        match loadTile env (Who.ofCtx c) t.loc i s with
        | (s1, .ok img) => reply img false s1
        | (s1, .poison img _ _ _) => reply img true s1
        | (s1, .bad _ cause stored computed slot) =>
          (raiseChecksum (Who.ofCtx c) 2 cause h i stored computed p.src.toNat (slot / 2 ^ 36) s1, some stChecksum)
        | (s1, .fail e) => memFail c e s1
  else
    let n := p.info.toNat % 2 ^ 14
    if p.target.toNat % 64 ≠ 0 ∨ 9596 < n then (s, some stAccess)
    else match fetchVa env c p.target.toNat n s with
      | (.error e, s1) => memFail c e s1
      | (.ok (b, bad), s1) => (answer c p 4 p.info bad.isSome (sealed b) s1, none)

/-- READ_REQ: the first READ_REQ delivered; a duplicate is answered again (R330). -/
def readReq (env : Env) (s : State) : State :=
  match takeDelivered 3 s with
  | none => s
  | some (d, s1) => match d.ctx with
    | none => if d.pkt.partner then partnerRequest d.pkt env s1 else s1
    | some c =>
      let run := doRead c d.pkt env
      let again := fun (t : State) =>
        if (t.ctx c).st = .killed then sendNack c d.pkt stKilled t
        else match run t with
          | (u, some st) => sendNack c d.pkt st u
          | (u, none) => u
      runRequest c d.port d.pkt again run s1

/-! ### The sender's operations (R333) -/

/-- An operation with a packet acknowledged: DONE when none is left. -/
def FabOp.acked (o : FabOp) (p : Packet) : FabOp :=
  let rest := o.unacked.erase p
  { o with unacked := rest, state := if rest = [] ∧ o.state = .waiting then .done else o.state }

/-- An operation that has failed sends nothing more. -/
def failOp (o : FabOp) (status : Byte) (s : State) : State :=
  let s1 := setOp { o with state := .failed status, unacked := [] } s
  { s1 with fabric := { s1.fabric with windows := s1.fabric.windows.map fun w => { w with outbox := w.outbox.filter fun e => e.1 != o.id } } }

/-- Whether an operation still runs. -/
def FabOp.runs (o : FabOp) : Bool := decide (o.state = .sending) || decide (o.state = .waiting)

/-- The oldest running operation, of a context or of the twin's traffic, with an unacknowledged packet that passes a test. -/
def State.opWith (s : State) (ctx : Option Nat) (test : Packet → Bool) : Option (FabOp × Packet) :=
  s.fabric.ops.findSome? fun o =>
    let mine := match ctx with
      | some c => decide (o.ctx = c) && decide (o.port ≠ 8 ∨ o.unacked.all fun q => !q.partner)
      | none => o.unacked.all fun q => q.partner
    if o.runs && mine then (o.unacked.find? test).map fun q => (o, q) else none

/-- AUDT_MIRRORED: the highest entry of which the twin has acknowledged the packet (R459). -/
def noteMirrored (p : Packet) (s : State) : State :=
  if p.partner ∧ p.altRank = 2 then
    let head := s.headSeq.toNat
    let seq := head - (head + auditSlots - p.target.toNat / 64 % auditSlots) % auditSlots
    if (s.reg64 (aAudt 0x20)).toNat < seq then s.setReg64 (aAudt 0x20) (BitVec.ofNat 64 seq) else s
  else s

/-- ACK: the packet whose SEQ it names is covered. -/
def ackArrives (s : State) : State :=
  match takeDelivered 5 s with
  | none => s
  | some (d, s0) =>
    let (s1, q) := seqNote d.port d.pkt s0
    if q ≠ .fresh then s1
    else match s1.opWith d.ctx fun p => decide (p.cls = 0) && decide (p.seq = d.pkt.info)
        && (d.ctx.isNone || decide (p.rank = d.pkt.src)) with
      | none => s1
      | some (o, p) => noteMirrored p (setOp (o.acked p) s1)

/-- The statuses that a NACK carries (R304). -/
def nackStatus (info : Word) : Option Byte :=
  [stDomainReset, stAccess, stKilled, stChecksum].find? fun st => decide (info = st.setWidth 32)

/-- NACK: it names no packet, so the oldest operation towards its source fails with its status. One whose INFO holds none of R304's four
statuses is ignored. DESIGN CHOICE: log entry 72. -/
def nackArrives (s : State) : State :=
  match takeDelivered 6 s with
  | none => s
  | some (d, s0) =>
    let (s1, q) := seqNote d.port d.pkt s0
    if q ≠ .fresh then s1
    else match nackStatus d.pkt.info, s1.opWith d.ctx fun p => decide (p.cls = 0 ∨ p.cls = 2) && (d.ctx.isNone || decide (p.rank = d.pkt.src)) with
      | some st, some (o, _) => failOp o st s1
      | _, _ => s1

/-- Write a fetched tile into OUT0 of its task; the status it fails with. -/
def storeFetched (env : Env) (task : TaskRef) (i : Nat) (p : Packet) (s : State) : State × Option Byte :=
  match s.task? task with
  | none => (s, none)
  | some t =>
    match (outTensor t (t.d.out 0) 0 false none).run s with
    | (.error e, s1) => (s1, some e.status)
    | (.ok o, s1) =>
      let k := o.loc.fmt
      match p.tileBad k with
      | some cause => (raiseReceived t.who cause k o.loc.handle i p s1, some stChecksum)
      | none =>
        match storeTile env o.loc i (p.tile k task.ctx) s1 with
        | .error e => memFail task.ctx e s1
        | .ok s2 => (addCounter task.ctx (ColParams.ofBytes t.d.params).counter k.stored s2, none)

/-- READ_DATA: the reply to a packet of a FETCH. -/
def readData (s : State) : State :=
  match takeDelivered 4 s with
  | none => s
  | some (d, s0) =>
    let (s1, q) := seqNote d.port d.pkt s0
    if q ≠ .fresh then s1
    else match s1.opWith d.ctx fun p => decide (p.op = 3) && decide (p.target = d.pkt.target) && decide (p.info = d.pkt.info)
        && (d.ctx.isNone || decide (p.rank = d.pkt.src)) with
      | none => s1
      | some (o, p) => match o.task with
        | none => setOp (o.acked p) s1
        | some task =>
          match storeFetched d.env task (d.pkt.target.toNat / 2 ^ 20 % 2 ^ 28 - o.tile0) d.pkt s1 with
          | (s2, some st) => failOp o st s2
          | (s2, none) => setOp (o.acked p) s2

/-- Send a packet again, with RETX set and its SEQ kept. -/
def resend (p : Packet) (s : State) : State :=
  let q := { p with retx := true }
  count (aFabr 0x240) 1 (if q.partner then putTwin q s else launch q s)

/-- Raise OP_TIMEOUT (R334). -/
def opTimedOut (o : FabOp) (s : State) : State :=
  let p := o.unacked.head?
  let who : Who := match o.task with
    | none => Who.ofCtx o.ctx
    | some r => match s.task? r with | some t => t.who | none => Who.ofCtx o.ctx
  let f := fun (g : Packet → Nat) (d : Nat) => match p with | some q => g q | none => d
  raiseWho who 0x0303 2 o.port (leBytes 1 (f (fun q => q.cls.toNat) 0) ++ leBytes 1 (f (fun q => q.op.toNat) 0) ++ leBytes 1 o.retries
    ++ leBytes 1 0 ++ leBytes 4 (f (fun q => q.rank.toNat) 0xFFFFFFFF) ++ leBytes 4 (f (fun q => q.seq.toNat) 0)
    ++ leBytes 4 o.unacked.length ++ leBytes 8 o.first.toNat) s

/-- OP_TIMER_EXPIRE: resend what is unacknowledged, or fail with FABRIC_TIMEOUT. -/
def opTimer (id : Nat) (s : State) : State :=
  match s.fabric.ops.find? fun o => decide (o.id = id) with
  | none => s
  | some o =>
    if o.state ≠ .waiting ∨ s.time < o.timer then s
    else if o.retries < s.regField (aFabr 0x224) 2 0 then
      o.unacked.foldl (fun t p => resend p t)
        (setOp { o with retries := o.retries + 1, timer := s.time + BitVec.ofNat 64 s.opTimeout } s)
    else failOp o stFabricTimeout (opTimedOut o (count (aFabr 0x248) 1 s))

/-! ### Collectives (R339, R340) -/

/-- The window that a packet of a collective is for. -/
def State.colWindowFor (s : State) (d : Delivered) : Option ColWindow :=
  s.fabric.windows.find? fun w => decide (some w.ctx = d.ctx) && decide (w.job = d.pkt.job) && decide (w.collId.toNat = d.pkt.info.toNat % 1024)

/-- The format that the tiles of a COL_DATA have (R339), and which tile of its value it is: its window's collective says so. -/
def State.colTile (s : State) (w : ColWindow) (p : Packet) : Fmt × Nat :=
  match (s.task? w.task).bind s.colView with
  | none => (Fmt.f32, 0)
  | some v =>
    let k := v.fmtAt (p.info.toNat / 2 ^ 10 % 32)
    (k, p.target.toNat / k.windowLen % max (v.tilesIn k) 1)

/-- A COL_DATA consumes a poisoned tile: its task completes with POISON and its context is killed (R279). -/
def colPoison (w : ColWindow) (tile : Nat) (s : State) : State :=
  match s.task? w.task with
  | none => s
  | some t =>
    let s1 := raisePoisonConsumed t.who 3 w.ctx 3 0xFFFFFFFF 0 tile s
    killCtx w.ctx stPoison (afterComplete t (completeWith t stPoison dNone 0 false s1))

/-- Grant a sender the cells of a packet that has been consumed; a sender with nothing more to send passes its credits on. -/
def colRegrant (w : ColWindow) (p : Packet) (s : State) : State :=
  match s.task? w.task with
  | none => s
  | some t => match s.colView t with
    | none => s
    | some v =>
      let from' := p.src
      let more := v.expected.any fun e => decide (s.memberRank v e.2 = from') && (v.value? w e.1).isNone
      if more then sendGrant w from' p.cells s
      else
        let s1 := sendGrant w from' 0 s
        match w.ungranted with
        | [] => s1
        | r :: rest => sendGrant w r w.share (setWindow { w with ungranted := rest } s1)

/-- COL_DATA: a child value's tile arrives in its window. -/
def colData (s : State) : State :=
  match takeDelivered 0x10 s with
  | none => s
  | some (d, s0) =>
    let p := d.pkt
    match d.ctx with
    | none => s0
    | some c =>
      if some p.src = s0.ctxRank c then s0
      else if s0.resetAnswers c then sendNack c p stDomainReset s0
      else match s0.colWindowFor d with
        | none => discardAt d.port 5 (some p) s0
        | some w =>
          let (k, tile) := s0.colTile w p
          match p.tileBad k with
          | some cause => raiseReceived (Who.ofCtx c) cause k 0xFFFFFFFF tile p s0
          | none =>
            let (s1, q) := seqNote d.port p s0
            match q with
            | .full => s1
            | .dup => sendGrant w p.src 0 s1
            | .fresh =>
              if p.poison then colPoison w tile s1
              else
                let w1 := { w with vals := w.vals ++ [(p.info, p.target, p.payload)] }
                colAdvance w.task (colRegrant w1 p (setWindow w1 s1))

/-- The oldest packet towards a rank is acknowledged in an operation of a collective. -/
def FabOp.granted (o : FabOp) (r : BitVec 21) : FabOp :=
  let acks := o.acks.map fun a => if a.1 = r then (a.1, a.2 - 1) else a
  let left := acks.foldl (fun n a => max n a.2) 0
  let rest := o.unacked.drop (o.unacked.length - left)
  { o with acks := acks, unacked := rest, state := if left = 0 ∧ o.state = .waiting then .done else o.state }

/-- COL_GRANT: it acknowledges a packet of its sender, and adds to the credits. -/
def colGrant (s : State) : State :=
  match takeDelivered 0x11 s with
  | none => s
  | some (d, s0) =>
    let (s1, q) := seqNote d.port d.pkt s0
    if q ≠ .fresh then s1
    else match d.ctx with
      | none => s1
      | some c =>
        let id := d.pkt.info.toNat % 1024
        let r := d.pkt.src
        let s2 := setCredits c id r (s1.creditsFor c id r + d.pkt.info.toNat / 1024) s1
        match s2.colWindowFor d with
        | none => s2
        | some w =>
          let hit := s2.fabric.ops.find? fun o => decide (o.task = some w.task) && o.runs && o.acks.any fun a => decide (a.1 = r ∧ 0 < a.2)
          let s3 := match hit with | none => s2 | some o => setOp (o.granted r) s2
          pump w.task w.outbox.length s3

/-! ### Commands -/

/-- TILE_WRITE (R306). -/
def execTileWrite (s : State) : Answer := .next (tileWrite s)
/-- MEM_WRITE (R306). -/
def execMemWrite (s : State) : Answer := .next (memWrite s)
/-- READ_REQ (R304). -/
def execReadReq (env : Env) (s : State) : Answer := .next (readReq env s)
/-- READ_DATA (R304). -/
def execReadData (s : State) : Answer := .next (readData s)
/-- ACK (R333). -/
def execAck (s : State) : Answer := .next (ackArrives s)
/-- NACK (R333). -/
def execNack (s : State) : Answer := .next (nackArrives s)
/-- COL_DATA (R339). -/
def execColData (s : State) : Answer := .next (colData s)
/-- COL_GRANT (R340). -/
def execColGrant (s : State) : Answer := .next (colGrant s)
/-- OP_TIMER_EXPIRE (R333). -/
def execOpTimerExpire (op : Nat) (s : State) : Answer := .next (opTimer op s)

end Sys2Proof.Machine
end

