-- ==== Sys2Proof/Machine/Twin.lean ====
section
/-! DEFINITION. The pairing with the twin (R392 to R394), the management queue (R328), and what the device-wide commit registers
start (R391, R397). -/

namespace Sys2Proof.Machine

/-! ### The pairing (R392) -/

/-- The pairing changes; a change of its state is recorded (R10, R457). -/
def setTwin (w : Twin) (s : State) : State :=
  let s1 := { s with twin := w }
  if s.twin.state = w.state then s1 else auditState 5 5 0 s.twin.state.toNat w.state.toNat s1

/-- The pair is PAIRED when each module has received the other's HELLO and answered it. -/
def pairCheck (s : State) : State :=
  let w := s.twin
  if ¬ w.hello ∨ ¬ w.confirmed ∨ w.state ≠ 1 then s
  else
    let own := s.power.straps.feedId
    let corr := decide (own = w.feed) || decide (own = 0) || decide (w.feed = 0)
    let s1 := setTwin { w with state := 2, correlated := corr, lastBeat := s.time } s
    let s2 := s1.activeCtxs.foldl (fun t c => if t.participant c then t.setCtx c { t.ctx c with ckpPair := true } else t) s1
    let s3 := cadRefresh s2
    if corr then
      raiseDev 0x0607 1 8 (leBytes 1 own.toNat ++ leBytes 1 w.feed.toNat ++ leBytes 2 0 ++ leBytes 4 w.coord.toNat) s3
    else s3

/-- The first delivered CTL_MSG of job 0 on W of a type, and the machine without it; a duplicate is suppressed. -/
def takeTwin (typ : Nat) (s : State) : Option (Delivered × Bool × State) :=
  match s.fabric.delivered.find? fun d => d.pkt.pairing && decide (d.port = 8) && decide (d.pkt.target.toNat = typ) with
  | none => none
  | some d =>
    let (s1, q) := seqNote d.port d.pkt { s with fabric := { s.fabric with delivered := s.fabric.delivered.erase d } }
    some (d, q == .fresh && payloadOk d.pkt.payload, s1)

/-- COMT_TWIN_CTRL.PAIR: HELLO is sent once W is UP. -/
def twinPair (s : State) : State :=
  if s.twin.state = 1 ∨ s.twin.state = 2 then s
  else
    let s1 := setTwin { s.twin with state := 1, hello := false, confirmed := false, correlated := false } s
    if (s1.port 8).up then sendHello s1 else s1

/-- COMT_TWIN_CTRL.UNPAIR: the pairing ends, the lost twin's images are freed (R393). -/
def twinUnpair (s : State) : State := cadRefresh (setTwin Twin.reset s)

/-- PAIR_HELLO: answered with PAIR_CONFIRM. DEDUCED: log entry 73. -/
def pairHello (s : State) : State :=
  match takeTwin 3 s with
  | none => s
  | some (d, ok, s1) =>
    if ¬ ok ∨ (s1.twin.state ≠ 1 ∧ s1.twin.state ≠ 2) then s1
    else
      let b := d.pkt.payload
      let w := { s1.twin with hello := true, feed := BitVec.ofNat 4 (fieldLe b 0 4), coord := BitVec.ofNat 21 (fieldLe b 4 4),
                              size := fieldLe b 8 4 % 65536 }
      pairCheck (twinMessage 4 [] { s1 with twin := w })

/-- PAIR_CONFIRM. -/
def pairConfirm (s : State) : State :=
  match takeTwin 4 s with
  | none => s
  | some (_, ok, s1) => if ok ∧ s1.twin.state = 1 then pairCheck { s1 with twin := { s1.twin with confirmed := true } } else s1

/-- HEARTBEAT. -/
def heartbeat (s : State) : State :=
  match takeTwin 5 s with
  | none => s
  | some (_, ok, s1) => if ok ∧ s1.twin.state = 2 then { s1 with twin := { s1.twin with lastBeat := s1.time } } else s1

/-- HEARTBEAT_SEND: while PAIRED and W is up. -/
def heartbeatSend (s : State) : State := if s.twin.state = 2 ∧ (s.port 8).up then twinMessage 5 [] s else s

/-- TWIN_LOST: no heartbeat for 1 s, which a W that is down also brings (R393). -/
def twinLost (s : State) : State :=
  if s.twin.state = 2 ∧ s.twin.lastBeat.toNat + 1000000000 ≤ s.time.toNat then
    cadRefresh (setTwin { s.twin with state := 3, correlated := false } s)
  else s

/-! ### The management queue (R328) -/

/-- CTL_MSG: a message of another type goes to the management queue of 256, or is discarded. -/
def ctlMsg (s : State) : State :=
  match s.fabric.delivered.find? fun d => decide (d.pkt.op = 0x21) && !(d.pkt.pairing && decide (d.port = 8)) with
  | none => s
  | some d =>
    let (s1, q) := seqNote d.port d.pkt { s with fabric := { s.fabric with delivered := s.fabric.delivered.erase d } }
    if q ≠ .fresh then s1
    else if 256 ≤ s1.fabric.mgmt.length then discardAt d.port 16 (some d.pkt) s1
    else { s1 with fabric := { s1.fabric with mgmt := s1.fabric.mgmt ++ [d.pkt] } }

/-! ### COMT_DETACH and COMT_CAD_INTERRUPT (R391, R397) -/

/-- Whether a detach can start: from ACTIVE, or in FENCED, whose contexts are released already. -/
def State.detachable (s : State) : Bool := decide (s.dev = .active) || decide (s.dev = .fenced)

/-- DETACH is set. -/
def startDetach (s : State) : State :=
  let f := { s.faults with drainDetach := true }
  if s.dev = .active then (setDev .draining { s with faults := { f with draining := true } })
  else if s.dev = .fenced then { s with faults := f } else s

/-- The companion reports an interruption at a TIME (R391): the gap since the last report joins the last 32. -/
def cadInterrupt (t : Dword) (s : State) : State :=
  let d := s.cadence
  let gaps := match d.last with
    | none => d.gaps
    | some l => ((t - l) :: d.gaps).take 32
  cadRefresh { s with cadence := { d with last := some t, gaps := gaps } }

/-! ### Commands -/

/-- PAIR_HELLO (R392). -/
def execPairHello (s : State) : Answer := .next (pairHello s)
/-- PAIR_CONFIRM (R392). -/
def execPairConfirm (s : State) : Answer := .next (pairConfirm s)
/-- HEARTBEAT (R393). -/
def execHeartbeat (s : State) : Answer := .next (heartbeat s)
/-- HEARTBEAT_SEND (R393). -/
def execHeartbeatSend (s : State) : Answer := .next (heartbeatSend s)
/-- TWIN_LOST (R393). -/
def execTwinLost (s : State) : Answer := .next (twinLost s)
/-- CTL_MSG (R328). -/
def execCtlMsg (s : State) : Answer := .next (ctlMsg s)

end Sys2Proof.Machine
end

