-- ==== Sys2Proof/Machine/Secu.lean ====
section
/-! DEFINITION. The security engine: loads, live updates, quotes, debug access (R441, R443, R449 to R454, R463), and the audit
ledger's drain, mirror and read window (R459, R464). -/

namespace Sys2Proof.Machine

/-! ### Loads (R441, R443, R463) -/

/-- SECU_LOAD_STATUS. -/
def setLoadStatus (v reason : Nat) (s : State) : State := s.setReg (aSecu 0x20) (packBits [(v, 0), (reason, 8)])

/-- The module serial that the part record names. -/
def State.serial (s : State) : Bytes := sliceB s.partRecord 0x10 16

/-- MIN_SVN in force. -/
def State.minSvn (s : State) : Word := match s.secu.config with
  | some c => c.minSvn
  | none => 0

/-- Whether an object that is present verifies. -/
def State.verifies (s : State) (typ : Nat) (o : Option SignedObj) : Bool := match o with
  | none => false
  | some x => (objReason x typ s.serial s.minSvn).isNone

/-- Whether a load into a target may start: targets 1 to 5 only in RECOVERY; the golden image and the part record only while no
copy verifies. -/
def State.loadTargetOk (s : State) (tgt : Nat) : Bool :=
  if tgt = 0 then true
  else if s.dev ≠ .recovery ∨ 6 ≤ tgt then false
  else if tgt = 3 then !(s.verifies 1 s.flash.golden.stage1 && s.verifies 2 s.flash.golden.runtime)
  else if tgt = 5 then !(s.verifies 4 s.flash.part0) && !(s.verifies 4 s.flash.part1)
  else true

/-- Whether SECU_LOAD_CMD.GO is refused (R463). -/
def State.loadRefused (s : State) (tgt : Nat) : Bool :=
  let addr := (s.reg64 (aSecu 0x10)).toNat
  let len := (s.reg (aSecu 0x18)).toNat
  s.secu.loading.isSome || s.secu.activateAt.isSome || !s.loadTargetOk tgt || decide (addr % 4096 ≠ 0) || decide (len < 256)
    || decide (2 ^ 26 < len) || (decide (s.dev ≠ .recovery) && !s.winAllows addr len false)

/-- A refused SECU_LOAD_CMD.GO shows in SECU_LOAD_STATUS, unless a load is under way. -/
def loadRefuse (tgt : Nat) (s : State) : State :=
  let outside : Bool := decide (s.dev ≠ .recovery) && !s.winAllows (s.reg64 (aSecu 0x10)).toNat (s.reg (aSecu 0x18)).toNat false
  if s.secu.loading.isSome then s
  else if s.secu.activateAt.isNone && s.loadTargetOk tgt && outside then violation 0xFFFF (setLoadStatus 4 0 s)
  else setLoadStatus 4 0 s

/-- SECU_LOAD_CMD.GO: the load starts. -/
def secuLoad (tgt : Nat) (s : State) : State :=
  setLoadStatus 1 0 { s with secu := { s.secu with loading := some (BitVec.ofNat 3 tgt) } }

/-- The TYPEs that a load target takes. -/
def loadTypes (tgt : Nat) : List Nat :=
  match tgt with
  | 0 => [2]
  | 4 => [3]
  | 5 => [4]
  | _ => [1, 2]

/-- A slot with its stage 1 or its runtime replaced. -/
def FwSlot.put (f : FwSlot) (o : SignedObj) : FwSlot := if objType o = 1 then { f with stage1 := some o } else { f with runtime := some o }

/-- Flash with a verified object written where its target says. DEDUCED: log entry 74. -/
def Flash.place (f : Flash) (tgt : Nat) (o : SignedObj) : Flash :=
  let key := fun (x : Option SignedObj) => match x with | some y => (configOf y).serial.toNat + 1 | none => 0
  match tgt with
  | 0 => { f with staging := some o, boot := { f.boot with confirmed := false } }
  | 1 => { f with slotA := f.slotA.put o }
  | 2 => { f with slotB := f.slotB.put o }
  | 3 => { f with golden := f.golden.put o }
  | 4 => if key f.cfgA ≤ key f.cfgB then { f with cfgA := some o } else { f with cfgB := some o }
  | _ => { f with part0 := some o, part1 := some o }

/-- Why a loaded object is rejected, as REASON of IMAGE_REJECTED. -/
def State.loadReason (s : State) (tgt : Nat) (o : SignedObj) : Option Nat :=
  let typ := if (loadTypes tgt).contains (objType o) then objType o else (loadTypes tgt).headD 0
  match objReason o typ s.serial s.minSvn with
  | some r => some r
  | none =>
    if o.bytes.length ≠ (s.reg (aSecu 0x18)).toNat then some 1
    else if tgt = 4 ∧ (configOf o).serial < s.flash.boot.highestSerial then some 6 else none

/-- SECU_LOAD_DONE: the object is written to flash, or rejected. -/
def secuLoadDone (o : SignedObj) (s : State) : State :=
  match s.secu.loading with
  | none => s
  | some t =>
    let tgt := t.toNat
    let s1 := { s with secu := { s.secu with loading := none } }
    match s1.loadReason tgt o with
    | some r => rejectImage (objType o) 7 r (objSvn o) (setLoadStatus 3 r s1)
    | none =>
      let (lo, hi) := objDigest o
      let s2 := auditHw (mkEntry 5 3 0 7 (BitVec.ofNat 64 (3 * 2 ^ 56 + objType o * 256 + tgt)) lo hi) s1
      let f := s2.flash.place tgt o
      let f1 := if s2.dev = .recovery then { f with start := { f.start with failed := 0 } } else f
      setLoadStatus 2 0 { s2 with flash := f1 }

/-! ### Live updates (R417, R453, R454) -/

/-- Whether SECU_UPDATE.ACTIVATE is refused: a load, an activation or a drain is in progress, or no valid runtime is staged. -/
def State.activateRefused (s : State) : Bool :=
  s.secu.loading.isSome || s.secu.activateAt.isSome || s.secu.restart || decide (s.dev = .draining) || !s.verifies 2 s.flash.staging

/-- A refused SECU_UPDATE.ACTIVATE shows as BUSY in SECU_LOAD_STATUS (R453). -/
def activateRefuse (s : State) : State := if s.secu.loading.isSome then s else setLoadStatus 1 0 s

/-- SECU_UPDATE.ACTIVATE: a management-only restart into the staged runtime. -/
def activate (s : State) : State :=
  mgmtRestart 1 { s with secu := { s.secu with before := s.secu.running, next := s.flash.staging, activateAt := some s.time } }

/-- SECU_UPDATE.CONFIRM. -/
def confirmUpdate (s : State) : State :=
  if s.secu.activateAt.isNone then s
  else { s with secu := { s.secu with activateAt := none, before := none },
                flash := { s.flash with boot := { s.flash.boot with confirmed := true } } }

/-- CONFIRM_TIMEOUT: the runtime that ran before is restored. -/
def confirmTimeout (s : State) : State :=
  match s.secu.activateAt with
  | none => s
  | some t =>
    if s.time.toNat < t.toNat + 2000000000 then s
    else
      let svn := match s.flash.staging with | some o => objSvn o | none => 0
      mgmtRestart 1 (rejectImage 2 4 8 svn
        { s with secu := { s.secu with next := s.secu.before, before := none, activateAt := none } })

/-- MGMT_ONLY_RESTART: the runtime is up again; one that the restart changed is measured and its keys are derived. -/
def mgmtRestarted (s : State) : State :=
  if ¬ s.secu.restart then s
  else
    let s1 := { s with secu := { s.secu with restart := false, next := none } }
    match s.secu.next with
    | none => s1
    | some rt =>
      deriveKeys rt (measure 2 6 rt { s1 with secu := { s1.secu with liveUpdated := true } })

/-! ### Quotes (R450, R451) -/

/-- DIGEST of the newest log entry of a KIND among some. -/
def Secu.measured (x : Secu) (kinds : List Byte) : Bytes :=
  match x.log.reverse.find? fun m => kinds.contains m.kind with
  | some m => m.digest
  | none => List.replicate 64 0

/-- A certificate up to its signature. DESIGN CHOICE: log entry 75. -/
def certHead (kind : Nat) (svn : Word) (pub meas : Bytes) : Bytes :=
  leBytes 1 kind ++ leBytes 3 0 ++ leBytes 4 svn.toNat ++ sliceB pub 0 57 ++ leBytes 7 0 ++ sliceB meas 0 64

/-- A certificate by an issuer's seed. -/
def certOf (kind : Nat) (svn : Word) (pub meas issuer : Bytes) : Bytes :=
  let h := certHead kind svn pub meas
  h ++ sliceB (Config.signature issuer (shake256 h 64)) 0 114

/-- The four certificates. -/
def State.certificates (s : State) : Bytes :=
  let x := s.secu
  let seed1 := Config.aliasSeed x.cdi1
  let seed2 := Config.aliasSeed x.cdi2
  let svn1 := match x.log.find? fun m => m.kind = 3 with | some m => m.svn | none => 0
  let h1 := certHead 2 svn1 (Config.publicKey seed1) (x.measured [3])
  sliceB (Config.deviceCert s.partRecord) 0 250 ++ h1 ++ sliceB (Config.deviceSign s.partRecord (shake256 h1 64)) 0 114
    ++ certOf 3 x.svn (Config.publicKey seed2) (x.measured [4, 6]) seed1
    ++ certOf 4 x.svn (Config.publicKey x.quoteSeed) (Config.quoteMeasurement x.logDigest) seed2

/-- A quote (R451). -/
def State.quoteBytes (s : State) (certs : Bool) : Bytes :=
  let x := s.secu
  let nonce := (List.range 8).flatMap fun i => leBytes 4 (s.reg (aSecu (0x40 + 4 * i))).toNat
  let head := leBytes 1 1 ++ leBytes 1 (packBits [(bit x.debugSeen, 0), (bit x.liveUpdated, 1), (bit x.staged, 2),
      (bit (decide (s.boot.booted = 2)), 3)]).toNat ++ leBytes 1 s.dev.code ++ leBytes 1 0 ++ leBytes 4 (s.regValue (aRstc 8)).toNat
    ++ sliceB s.serial 0 16 ++ nonce ++ leBytes 8 s.time.toNat ++ leBytes 8 (match x.config with | some c => c.serial.toNat | none => 0)
    ++ leBytes 4 x.svn.toNat ++ leBytes 4 x.log.length ++ sliceB x.logDigest 0 64 ++ leBytes 8 s.headSeq.toNat
    ++ leBytes 16 s.audit.chain.toNat ++ leBytes 24 0
  let q := head ++ sliceB (Config.signature x.quoteSeed (shake256 head 64)) 0 114
  if certs then q ++ (x.log.flatMap fun m => m.bytes) ++ s.certificates else q

/-- SECU_QUOTE_CMD.GO. -/
def quoteGo (certs : Bool) (s : State) : State :=
  { s.setReg (aSecu 0x34) 1 with secu := { s.secu with quote := some certs } }

/-- QUOTE_DONE: the quote is written into its DMA window, or fails. -/
def quoteDone (s : State) : State :=
  match s.secu.quote with
  | none => s
  | some certs =>
    let b := s.quoteBytes certs
    let addr := (s.reg64 (aSecu 0x28)).toNat
    let s1 := { s with secu := { s.secu with quote := none } }
    if s1.winAllows addr b.length true then streamImage addr b (s1.setReg (aSecu 0x34) 2)
    else violation 0xFFFF (s1.setReg (aSecu 0x34) 3)

/-! ### Debug access (R452) -/

/-- SECU_DBG_STATUS. -/
def setDbgStatus (rejected : Bool) (s : State) : State := s.setReg (aSecu 0x3C) (packBits [(s.secu.caps.toNat, 0), (bit rejected, 4)])

/-- SECU_DBG_CMD.ENABLE with the token that lies at SECU_LOAD_ADDR: each attempt draws a new nonce. DEDUCED: log entry 76. -/
def dbgEnable (token : Option SignedObj) (s : State) : State :=
  let addr := (s.reg64 (aSecu 0x10)).toNat
  let nonce := s.secu.dbgNonce
  let s1 := drawDebugNonce s
  match token with
  | none => setDbgStatus true s1
  | some o =>
    if ¬ s.winAllows addr o.bytes.length false then violation 0xFFFF (setDbgStatus true s1)
    else match objReason o 5 s.serial 0 with
      | some r => rejectImage (objType o) 7 r (objSvn o) (setDbgStatus true s1)
      | none =>
        let p := objPayload o
        let ends := fieldLe p 36 8
        if fieldLe p 0 32 ≠ nonce.toNat ∨ ends ≤ s.time.toNat then setDbgStatus true s1
        else
          let caps : BitVec 4 := BitVec.ofNat 4 (fieldLe p 32 4)
          setDbgStatus false (measure 2 5 o
            { s1 with secu := { s1.secu with caps := caps, capsExpire := BitVec.ofNat 64 ends, debugSeen := true } })

/-- Debug access ends. -/
def dbgEnd (s : State) : State := setDbgStatus (s.regBit (aSecu 0x3C) 4) { s with secu := { s.secu with caps := 0 } }

/-- DBG_EXPIRE. -/
def dbgExpire (s : State) : State := if s.secu.caps ≠ 0 ∧ s.secu.capsExpire ≤ s.time then dbgEnd s else s

/-! ### The audit ledger (R459, R464) -/

/-- Entries of the flash audit area (R435). -/
def auditAreaSlots : Nat := 16777216

/-- Send what the twin's mirror does not have yet: one packet for an entry (R459). -/
def mirrorEntries (s : State) : State :=
  let es := s.audit.ring.filter fun e => decide (s.audit.sent ≤ e.seq)
  if s.twin.state ≠ 2 ∨ es = [] then s
  else
    let n := es.length
    let (s1, sent) := (List.range n).foldl (fun (acc : State × List Packet) i =>
      match es[i]? with
      | none => acc
      | some e =>
        let (t, q) := sendTwin (acc.1.twinWrite 2 (e.seq.toNat % auditSlots * 64) (decide (i + 1 = n)) e.bytes) acc.1
        (t, acc.2 ++ [q])) (s, [])
    let o : FabOp := { id := s1.fabric.nextOp, task := none, ctx := 64, port := 8, state := .waiting, unacked := sent, retries := 0,
                       timer := s1.time + BitVec.ofNat 64 s1.opTimeout, first := s1.time, tile0 := 0, acks := [] }
    { s1 with fabric := { s1.fabric with nextOp := s1.fabric.nextOp + 1, ops := s1.fabric.ops ++ [o] },
              audit := { s1.audit with sent := s1.audit.next } }

/-- Entries are programmed into the `slots` slots of flash, as far as the oldest held there may be overwritten, and their slots
of the ring freed. -/
def programEntries (slots : Nat) (s : State) : State :=
  let ack := s.reg64 (aAudt 0x28)
  let area := s.flash.auditArea
  let old := (area.takeWhile fun e => decide (e.seq < ack)).length
  let n := if s.flshEn then min s.audit.ring.length (slots - area.length + old) else 0
  let moved := s.audit.ring.take n
  let all := area ++ moved
  let last := match moved.getLast? with | some e => e.seq | none => s.audit.drained
  { s with flash := { s.flash with auditArea := all.drop (all.length - slots) },
           audit := { s.audit with ring := s.audit.ring.drop n, drained := last, drainFailed := decide (n < s.audit.ring.length) } }

/-- AUDIT_DRAIN: entries are mirrored, then programmed. DEDUCED: log entry 77. -/
def auditDrain (s : State) : State := programEntries auditAreaSlots (mirrorEntries s)

/-- AUDT_RD_SEQ: the entry is fetched from the ring or flash. An uncorrectable read of the ring is served from the twin's mirror; where
that does not hold the entry, it is counted in AUDT_LOST (R280). -/
def auditRead (seq : Dword) (s : State) : State :=
  let inFlash := s.flash.auditArea.find? fun e => decide (e.seq = seq)
  let inRing := s.audit.ring.find? fun e => decide (e.seq = seq)
  let lost := inFlash.isNone && inRing.isSome && s.audit.rdUe && !(decide (s.twin.state = 2) && decide (seq ≤ s.reg64 (aAudt 0x20)))
  let e := if lost then none else inFlash.orElse fun _ => inRing
  let s1 := if lost then count (aAudt 0x40) 1 s else s
  ({ s1 with audit := { s1.audit with rdEntry := e, rdUe := false } }).setReg (aAudt 0x58) (if e.isSome then 2 else 4)

/-- Whether AUDT_ACK_SEQ may take a value: not backwards, not beyond DRAINED. -/
def State.ackOk (s : State) (v : Dword) : Bool := decide (s.reg64 (aAudt 0x28) ≤ v) && decide (v ≤ s.audit.drained)

/-! ### Commands -/

/-- SECU_LOAD_DONE (R443). -/
def execSecuLoadDone (object : SignedObj) (s : State) : Answer := .next (secuLoadDone object s)
/-- CONFIRM_TIMEOUT (R454). -/
def execConfirmTimeout (s : State) : Answer := .next (confirmTimeout s)
/-- QUOTE_DONE (R451). -/
def execQuoteDone (s : State) : Answer := .next (quoteDone s)
/-- DBG_EXPIRE (R452). -/
def execDbgExpire (s : State) : Answer := .next (dbgExpire s)
/-- AUDIT_DRAIN (R459). -/
def execAuditDrain (s : State) : Answer := .next (auditDrain s)

end Sys2Proof.Machine
end

