-- ==== Sys2Proof/Machine/Jtag.lean ====
section
/-! DEFINITION. Commands that wait for a slot of the audit ring (R460), and the test access port (R496 to R498). -/

namespace Sys2Proof.Machine

/-- A command stalls until a slot of the audit ring frees: AUDIT_STALLED is raised once (R460). DESIGN CHOICE: log entry 34. -/
def stall (c : Instr) (s : State) : State :=
  let s1 := count (aAudt 0x48) 1 { s with audit := { s.audit with stalled := s.audit.stalled ++ [c] } }
  if s1.audit.stallRaised then s1
  else
    smbAlert 7 (raiseDev 0x0503 1 noUnit
      (leBytes 8 s1.headSeq.toNat ++ leBytes 8 s1.audit.drained.toNat ++ leBytes 8 (s1.reg64 (aAudt 0x28)).toNat)
      { s1 with audit := { s1.audit with stallRaised := true } })

/-- Whether the TAP answers: MOD_PGOOD is high (R496). PRESUMED: log entry 28. -/
def State.tapOn (s : State) : Bool := s.power.pgood

/-- Load an instruction register code. -/
def loadIr (code : Byte) (s : State) : State := { s with jtag := { s.jtag with ir := code } }

/-- The one bit that BYPASS shows. -/
def showBypass (s : State) : State := (loadIr 0xFF s).emit (.jtag 1 0)

/-- A boundary-scan instruction of R498: it loads only while MOD_RESET_N holds the device in reset, as BYPASS at any other time. -/
def boundaryScan (code : Byte) (s : State) : State :=
  if ¬ s.tapOn then s
  else if s.power.resetLow && (s.power.heldPin || !s.power.porDone) then loadIr code s
  else loadIr 0xFF s

/-- Whether the audit logic runs: it is in reset until POR releases and while a device reset is held. -/
def State.auditRuns (s : State) : Bool := s.power.porDone && !s.power.held

/-- The entry of an instruction whose condition is not met. -/
def refusedIr (code : Byte) : AuditEntry :=
  mkEntry 3 4 1 1 (BitVec.ofNat 64 (8 * 2 ^ 56 + (Config.actionCode (0x100 + code.toNat)).toNat * 2 ^ 40 + code.toNat)) 0 0

/-- An instruction whose condition is not met loads as BYPASS and is recorded (R497); `c` waits if there is no slot. -/
def refuseIr (code : Byte) (c : Instr) (s : State) : State :=
  if ¬ s.auditRuns then loadIr 0xFF s
  else if s.auditFull then stall c (loadIr 0xFF s)
  else auditAppend (refusedIr code) (loadIr 0xFF s)

/-- IDCODE. -/
def idcode (s : State) : State := if s.tapOn then (loadIr 0x01 s).emit (.jtag 32 0xBFD519A7) else s

/-- CORE_DEBUG, by CAPS bit 3. -/
def coreDebug (s : State) : State :=
  if ¬ s.tapOn then s else if s.secu.caps.getLsbD 3 then loadIr 0x21 s else refuseIr 0x21 .coreDebug s

/-- DEBUG_RESET, by CAPS bit 2: updating its bit to 1 starts a DBG reset (R417). -/
def debugReset (b : Bool) (s : State) : State :=
  if ¬ s.tapOn then s
  else if s.secu.caps.getLsbD 2 then
    let s1 := loadIr 0x22 s
    if b then resetDevice .dbg false false none s1 else s1
  else refuseIr 0x22 (.debugReset b) s

/-- SECURITY_STATUS. -/
def securityStatus (s : State) : State :=
  if s.tapOn then (loadIr 0x23 s).emit (.jtag 32 ((s.regValue (aSecu 0)).setWidth 72)) else s

/-- BYPASS, and every code that is not listed. -/
def bypass (s : State) : State := if s.tapOn then showBypass s else s

/-- Test-Logic-Reset: a start that waited for it begins (R498). -/
def testLogicReset (s : State) : State :=
  if s.tapOn then refreshSub { loadIr 0x01 s with power := { s.power with heldScan := false } } else s

/-! ### Commands -/

/-- IDCODE (R496). -/
def execIdcode (s : State) : Answer := .next (idcode s)
/-- SAMPLE_PRELOAD (R497). -/
def execSamplePreload (s : State) : Answer := .next (if s.tapOn then loadIr 0x02 s else s)
/-- EXTEST (R498). -/
def execExtest (s : State) : Answer := .next (boundaryScan 0x03 s)
/-- EXTEST_PULSE (R498). -/
def execExtestPulse (s : State) : Answer := .next (boundaryScan 0x04 s)
/-- EXTEST_TRAIN (R498). -/
def execExtestTrain (s : State) : Answer := .next (boundaryScan 0x05 s)
/-- CLAMP (R498). -/
def execClamp (s : State) : Answer := .next (boundaryScan 0x06 s)
/-- HIGHZ (R498). -/
def execHighz (s : State) : Answer := .next (boundaryScan 0x07 s)
/-- CORE_DEBUG (R497). -/
def execCoreDebug (s : State) : Answer := .next (coreDebug s)
/-- DEBUG_RESET (R497). -/
def execDebugReset (bit : Bool) (s : State) : Answer := .next (debugReset bit s)
/-- SECURITY_STATUS (R497). -/
def execSecurityStatus (s : State) : Answer := .next (securityStatus s)
/-- BYPASS (R497): the code itself has no further effect. -/
def execBypass (_ : Byte) (s : State) : Answer := .next (bypass s)
/-- TEST_LOGIC_RESET (R496, R498). -/
def execTestLogicReset (s : State) : Answer := .next (testLogicReset s)

end Sys2Proof.Machine
end

