-- ==== Sys2Proof/Machine/Boundary.lean ====
section
/-! DEFINITION. The Boundary Unit: DMA windows, signed context descriptors, table frames and the memory apertures, and the thermal
and power clamp with the ACLK that follows it (R35, R351 to R364). -/

namespace Sys2Proof.Machine

/-! ### DMA windows (R356) -/

/-- The window write: the staged base and size with the bits of BNDY_WIN_CTRL, in one step. -/
def windowWrite (i : Nat) (ctrl : Word) (s : State) : State :=
  let w : Win :=
    { base := s.reg64 (aBndy (0x100 + 16 * i)), pages := (s.reg (aBndy (0x108 + 16 * i))).setWidth 28, valid := ctrl.getLsbD 0,
      read := ctrl.getLsbD 1, write := ctrl.getLsbD 2 }
  { s with bndy := { s.bndy with wins := NMap.set (fun _ => Win.empty) s.bndy.wins i w, winPending := true } }

/-- Whether a line lies in some VALID window. -/
def State.lineInside (s : State) (a : Nat) : Bool :=
  s.bndy.wins.any fun e => e.2.valid && decide (e.2.base.toNat ≤ a) && decide (a + 64 ≤ e.2.base.toNat + e.2.pages.toNat * 4096)

/-- Write back the Modified lines among some and invalidate them. -/
def dropLines (p : Nat → Bool) (s : State) : State :=
  let t := s.trepel
  let back := (t.cache.filter fun e => p e.1 && e.2.modified).map fun e => Out.link 0x03 0 0 (BitVec.ofNat 64 e.1) e.2.data
  { s with outputs := s.outputs ++ back, trepel := { t with cache := t.cache.filter fun e => !p e.1 } }

/-- WIN_PENDING_CLEAR. -/
def winPendingClear (s : State) : State :=
  if ¬ s.bndy.winPending then s
  else
    let s1 := dropLines (fun a => !s.lineInside a) s
    { s1 with bndy := { s1.bndy with winPending := false } }

/-! ### Context descriptors (R357, R358) -/

/-- BNDY_DESC_CMD.LOAD while no load is under way. DEDUCED: log entry 88. -/
def descStart (s : State) : State := { s with bndy := { s.bndy with desc := some (s.reg64 (aBndy 0x10)) } }

/-- Whether an RTT entry sets a reserved bit or value (R308). -/
def rttReserved (e : Nat) : Bool := decide (bitsN e 62 36 ≠ 0) || decide (bitsN e 22 21 = 3)

/-- The RTT entries of a descriptor. -/
def descEntries (b : Bytes) : List Nat := (List.range (fieldLe b 0x24 4)).map fun i => fieldLe b (0x40 + 8 * i) 8

/-- BAD_FORMAT. -/
def descBad (b : Bytes) : Bool :=
  let n := fieldLe b 0x24 4
  let kind := fieldLe b 1 1
  decide (fieldLe b 0 1 ≠ 1) || decide (kind = 0) || decide (3 < kind) || decide (fieldLe b 2 2 = 0)
    || decide (65536 < n) || decide (fieldLe b 4 4 ≠ 64 + 8 * n + 114) || decide (b.length ≠ 64 + 8 * n + 114)
    || !zeroB b 0x0C 4 || !zeroB b 0x28 24 || (descEntries b).any rttReserved

/-- Whether the directory rules of R307 fail for a job's range. -/
def State.rangeBad (s : State) (job base n : Nat) : Bool :=
  decide (n = 0) || decide (2 ^ 21 < base + n) || s.fabric.jobdir.any fun e =>
    let v := e.2.toNat
    decide (e.1 ≠ job) && v.testBit 63 && decide (base < bitsN v 20 0 + bitsN v 42 21) && decide (bitsN v 20 0 < base + n)

/-- Whether a local context of a job is ACTIVE or QUIESCING. -/
def State.jobActive (s : State) (job : Nat) : Bool :=
  s.ctxs.any fun e => (decide (e.2.st = .active) || decide (e.2.st = .quiescing)) && decide ((s.ctxJob e.1).toNat = job)

/-- RESULT of a descriptor: the first of the conditions 3 to 9 in table order, 1 where none holds. -/
def State.descResult (s : State) (addr : Nat) (b : Bytes) (sigOk : Bool) : Nat :=
  let kind := fieldLe b 1 1
  let job := fieldLe b 2 2
  let base := fieldLe b 0x18 4
  let n := fieldLe b 0x1C 4
  let ends := fieldLe b 0x10 8
  let dir := s.jobRange job
  let ranks := if kind = 1 then n else match dir with | some r => r.2 | none => 0
  let stale : Bool := match NMap.find? s.bndy.serials job with
    | some v => decide (fieldLe b 8 4 ≤ v.toNat)
    | none => false
  if ¬ s.winAllows addr b.length false then 3
  else if descBad b then 4
  else if ¬ sigOk then 5
  else if stale then 6
  else if ends ≠ 0 ∧ ends ≤ s.time.toNat then 7
  else if (kind = 1 ∧ s.rangeBad job base n) ∨ ranks < fieldLe b 0x20 4 + fieldLe b 0x24 4 then 8
  else if (kind = 3 ∨ (kind = 1 ∧ dir.isSome ∧ dir ≠ some (base, n))) ∧ s.jobActive job then 9
  else 1

/-- Write RTT entries from an index on. -/
def putRtt (i : Nat) (es : List Nat) (s : State) : State :=
  { s with fabric := { s.fabric with rtt := NMap.setRun (fun _ => 0) s.fabric.rtt i (es.map fun e => BitVec.ofNat 64 e) } }

/-- Write a job directory entry. -/
def putDir (job : Nat) (e : Nat) (s : State) : State :=
  { s with fabric := { s.fabric with jobdir := NMap.set (fun _ => 0) s.fabric.jobdir job (BitVec.ofNat 64 e) } }

/-- Apply a descriptor. -/
def applyDesc (b : Bytes) (s : State) : State :=
  let job := fieldLe b 2 2
  let base := fieldLe b 0x18 4
  let first := fieldLe b 0x20 4
  let s1 := { s with bndy := { s.bndy with serials := NMap.insert s.bndy.serials job (BitVec.ofNat 32 (fieldLe b 8 4)) } }
  match fieldLe b 1 1 with
  | 1 => putRtt (base + first) (descEntries b) (putDir job (base + fieldLe b 0x1C 4 * 2 ^ 21 + 2 ^ 63) s1)
  | 2 => match s1.jobRange job with
    | some (at0, _) => putRtt (at0 + first) (descEntries b) s1
    | none => s1
  | _ => match s1.jobRange job with
    | some (at0, n) =>
      let t := putDir job 0 s1
      { t with fabric := { t.fabric with rtt := t.fabric.rtt.filter fun e => decide (e.1 < at0) || decide (at0 + n ≤ e.1) } }
    | none => s1

/-- DESC_LOAD_DONE: the RESULT is written, and on OK the entries are applied; the load is recorded (R457). A directory write that R307 refuses
sets FABR_TBL_STATUS.REFUSED. -/
def descLoadDone (b : Bytes) (sigOk : Bool) (s : State) : State :=
  match s.bndy.desc with
  | none => s
  | some addr =>
    if ¬ s.linkServes then s
    else
      let r := s.descResult addr.toNat b sigOk
      let job := fieldLe b 2 2
      let target := 7 * 2 ^ 56 + r * 2 ^ 24 + fieldLe b 1 1 * 2 ^ 16 + job
      let e := mkEntry 5 2 (if r = 1 then 0 else 1) 2 (BitVec.ofNat 64 target) (BitVec.ofNat 64 (fieldLe b 8 4)) (BitVec.ofNat 64 (fieldLe b 0x24 4))
      let s1 := auditHw e (if r = 3 then violation addr.toNat s else s)
      let s2 := { s1 with bndy := { s1.bndy with desc := none, descResult := BitVec.ofNat 4 r, descJob := BitVec.ofNat 16 job } }
      if r = 1 then applyDesc b s2 else if r = 8 ∧ fieldLe b 1 1 = 1 ∧ s.rangeBad job (fieldLe b 0x18 4) (fieldLe b 0x1C 4) then s2.setRegBit (aFabr 0x1C) 0 true else s2

/-! ### The memory apertures (R351 to R354) -/

/-- An aperture access is refused or fails. -/
def apErr (s : State) : State := count (aTrpl 0x28) 1 s

/-- The completion of a read; a write is posted (R354). -/
def apDone (write : Bool) (status : Byte) (addr : Dword) (data : Bytes) (s : State) : State :=
  if write then s else s.emit (.link 0x08 status 0 addr data)

/-- The entry of a write of the memory apertures (R457). -/
def State.tableEntry (s : State) (flags req : Byte) (addr : Nat) (data : Bytes) : AuditEntry :=
  mkEntry 1 2 flags (req.setWidth 48) (BitVec.ofNat 64 (2 ^ 56 + addr))
    (if s.frameOk (addr / 2 ^ 21) then BitVec.ofNat 64 (leNat (s.readPhys (addr / 8 * 8) 8)) else 0) (BitVec.ofNat 64 (fieldLe data 0 8))

/-- Whether the memory data aperture takes a size and alignment. -/
def dataSizeOk (addr len : Nat) : Bool := [4, 8, 16, 32, 64, 128, 256].contains len && decide (addr % len = 0) && decide (addr < 2 ^ 40)

/-- Why the memory data aperture refuses an access (R352, R353, R394): its status (1 UNSUPPORTED, 2 REFUSED). -/
def State.dataRefused (s : State) (addr : Nat) (write : Bool) : Option Byte :=
  let f := addr / 2 ^ 21
  if ¬ s.frameOk f ∨ s.partnerFrame f then some 1
  else if write && s.bndy.tableFrames.contains f then some 2
  else if ¬ s.stackUp (addr / 2 ^ 36) then some 1
  else none

/-- MEM_DATA_APERTURE_ACCESS; `c` waits if its entry finds no slot. DEDUCED: log entry 87. -/
def dataAccess (req : Byte) (addr : Dword) (len : Nat) (write : Option Bytes) (env : Env) (c : Instr) (s : State) : State :=
  let a := addr.toNat
  if ¬ s.trplEn ∨ ¬ dataSizeOk a len then apDone write.isSome 1 addr [] (apErr s)
  else match s.dataRefused a write.isSome, write with
    | some st, none => apDone false st addr [] (apErr s)
    | some _, some d => if s.auditFull then stall c s else auditAppend (s.tableEntry 1 req a d) (apErr s)
    | none, some d => writePhys a (sliceB d 0 len) s
    | none, none =>
      let bad := (bursts a len).filter fun b => env.ue.contains b
      let s1 := noteUes bad (noteCes env a len s)
      if bad = [] then apDone false 0 addr (s.readPhys a len) s1 else apDone false 3 addr [] (apErr s1)

/-- MEM_TABLE_APERTURE_WRITE: the frame becomes a table frame (R353). -/
def tableWrite (req : Byte) (addr : Dword) (data : Bytes) (c : Instr) (s : State) : State :=
  let a := addr.toNat
  let f := a / 2 ^ 21
  if s.auditFull then stall c s
  else if ¬ s.trplEn ∨ data.length ≠ 8 ∨ a % 8 ≠ 0 ∨ 2 ^ 40 ≤ a ∨ ¬ s.frameOk f ∨ ¬ s.stackUp (a / 2 ^ 36) then
    auditAppend (s.tableEntry 1 req (a % 2 ^ 40) data) (apErr s)
  else
    let s1 := writePhys a data (noteTableChange a (leNat data) (auditAppend (s.tableEntry 0 req a data) s))
    { s1 with bndy := { s1.bndy with tableFrames := if s1.bndy.tableFrames.contains f then s1.bndy.tableFrames else s1.bndy.tableFrames ++ [f] } }

/-- BNDY_PT_RELEASE: a frame is no table frame any more. -/
def ptRelease (f : Nat) (s : State) : State :=
  { s with bndy := { s.bndy with tableFrames := s.bndy.tableFrames.filter fun g => decide (g ≠ f) } }

/-! ### ACLK (R35) -/

/-- The ACLK setting that applies: the lower of GCTL_ACLK and BNDY_ACLK_CEIL. -/
def State.aclkTarget (s : State) : Nat := min (clampNat (s.regField (aGctl 0x28) 5 0) 24 40) (s.regField (aBndy 0x24) 5 0)

/-- A change of the setting or the ceiling starts a glide. -/
def aclkRetarget (s : State) : State := s.setRegBit (aGctl 0x2C) 8 (decide (s.regField (aGctl 0x2C) 5 0 ≠ s.aclkTarget))

/-- ACLK_GLIDE_DONE. -/
def glideDone (s : State) : State := if s.regBit (aGctl 0x2C) 8 then s.setReg (aGctl 0x2C) (BitVec.ofNat 32 s.aclkTarget) else s

/-! ### The clamp (R362) -/

/-- The clamp's ceiling changes. -/
def setCeil (n : Nat) (s : State) : State :=
  let old := s.regField (aBndy 0x24) 5 0
  if old = n then s else aclkRetarget (auditState 2 4 0 old n (s.setReg (aBndy 0x24) (BitVec.ofNat 32 n)))

/-- BNDY_PWR_LIMIT. -/
def State.powerLimit (s : State) : Nat := clampNat (s.regField (aBndy 0x20) 11 0) 1000 3000

/-- The thermal gate: at 110 °C every compute die is gated and reset; below 100 °C everywhere the gate lifts. -/
def thermalGate (x : Sensors) (s : State) : State :=
  if s.bndy.trip then
    if x.junction.all fun t => decide (t < 100) then
      liftGate (auditAction 2 3 0 { s with bndy := { s.bndy with trip := false } })
    else s
  else if x.junction.any fun t => decide (110 ≤ t) then
    gateDies (smbAlert 2 (auditAction 2 2 0 { s with bndy := { s.bndy with trip := true } }))
  else s

/-- One comparison of the clamp, every 100 µs. DEDUCED: log entry 89. -/
def clampTick (x : Sensors) (low : Bool) (s : State) : State :=
  let therm : Bool := low || x.junction.any fun t => decide (100 ≤ t)
  let power : Bool := decide (s.powerLimit < x.watt1ms.toNat)
  let ceil := s.regField (aBndy 0x24) 5 0
  if therm || power then
    let b := { s.bndy with clampTherm := s.bndy.clampTherm || therm, clampPower := s.bndy.clampPower || power, calm := 0 }
    smbAlert 1 (setCeil (max 24 (ceil - 1)) { s with bndy := b })
  else
    let calm := min 10 (s.bndy.calm + 1)
    if calm = 10 ∧ (x.junction.all fun t => decide (t < 95)) then
      let n := min 40 (ceil + 1)
      let up := decide (n < 40)
      setCeil n { s with bndy := { s.bndy with clampTherm := s.bndy.clampTherm && up, clampPower := s.bndy.clampPower && up, calm := 0 } }
    else { s with bndy := { s.bndy with calm := calm } }

/-- THERMAL_CLAMP_TICK. -/
def thermalTick (x : Sensors) (low : Bool) (s : State) : State :=
  let s1 := { s with power := { s.power with sensors := x, thermLow := low } }
  if s.power.porDone && !s.power.held then thermalGate x (clampTick x low s1) else s1

/-! ### Commands -/

/-- WIN_PENDING_CLEAR (R356). -/
def execWinPendingClear (s : State) : Answer := .next (winPendingClear s)
/-- DESC_LOAD_DONE (R358). -/
def execDescLoadDone (descriptor : Bytes) (sigOk : Bool) (s : State) : Answer := .next (descLoadDone descriptor sigOk s)
/-- MEM_DATA_APERTURE_ACCESS (R352). -/
def execMemDataApertureAccess (req : Byte) (addr : Dword) (len : Nat) (write : Option Bytes) (env : Env) (s : State) : Answer :=
  .next (dataAccess req addr len write env (.memDataApertureAccess req addr len write env) s)
/-- MEM_TABLE_APERTURE_WRITE (R353). -/
def execMemTableApertureWrite (req : Byte) (addr : Dword) (data : Bytes) (s : State) : Answer :=
  .next (tableWrite req addr data (.memTableApertureWrite req addr data) s)
/-- THERMAL_CLAMP_TICK (R362). -/
def execThermalClampTick (sensors : Sensors) (alertLow : Bool) (s : State) : Answer := .next (thermalTick sensors alertLow s)
/-- ACLK_GLIDE_DONE (R35). -/
def execAclkGlideDone (s : State) : Answer := .next (glideDone s)

end Sys2Proof.Machine
end

