-- ==== Sys2Proof/Machine/Margin.lean ====
section
/-! DEFINITION. The Margin Scheduler and the upkeep of the HBM stacks: training, row repair, frame retirement, recalibration and
pre-emption (R262, R281 to R289). -/

namespace Sys2Proof.Machine

/-! ### Slots -/

/-- A slot that a vote window defers (R288). -/
def deferSlot (s : State) : State := count (aMrgn 0x28) 1 s

/-- MRGN_STATUS.PREEMPTING. -/
def State.preempting (s : State) : Bool := s.regBit (aMrgn 0x18) 1

/-- Whether a slot of an activity may start: the scheduler and the activity are enabled, or it pre-empts traffic (R289, R293). -/
def State.slotRuns (s : State) (en : Nat) : Bool := (s.regBit (aMrgn 0) 0 && s.regBit (aMrgn 0) en) || s.preempting

/-- A pre-emption ends with the slot that it was for. -/
def endPreempt (s : State) : State := s.setRegBit (aMrgn 0x18) 1 false

/-- The ns of full bandwidth that a slot takes of its stack (R282, R287, R289): a training slot its 1.5 µs, a frame's two megabytes read and
written at 3.28 TB/s, a row repair one of 1,024 banks for up to 1 ms. DESIGN CHOICE: log entry 86. -/
def trainNs : Nat := 1500
def copyNs : Nat := 1279
def repairNs : Nat := 977

/-! ### Training (R285, R287) -/

/-- A channel falls due for training, for the newest reason. DESIGN CHOICE: log entry 86. -/
def Stack.dueFor (k : Stack) (ch : Nat) (reason : Byte) (now : Dword) : Stack :=
  let since := match k.due.find? fun e => decide (e.channel = ch) with
    | some e => e.since
    | none => now
  { k with due := (k.due.filter fun e => decide (e.channel ≠ ch)) ++ [{ channel := ch, reason := reason, since := since }] }

/-- Every channel of a stack falls due. -/
def allDue (n : Nat) (reason : Byte) (s : State) : State :=
  s.setStack n ((List.range 32).foldl (fun k ch => k.dueFor ch reason s.time) (s.stack n))

/-- HBMC_RETRAIN_INTERVAL in ns. -/
def State.trainInterval (s : State) (n : Nat) : Nat := clampNat (s.reg (aHbmc n 0x44)).toNat 10 10000 * 1000000

/-- How often a channel has fallen due by a time: a stack's 32 channels are spread evenly over the interval (R287). -/
def Stack.dueCount (k : Stack) (interval ch t : Nat) : Nat :=
  (t - k.upAt.toNat + (interval - (ch + 1) * interval / 32)) / interval

/-- Whether a channel's interval has passed since it was last trained (R285). -/
def State.intervalDue (s : State) (n ch : Nat) : Bool :=
  let k := s.stack n
  let last := NMap.get (fun _ => k.upAt) k.lastTrain ch
  decide (k.dueCount (s.trainInterval n) ch last.toNat < k.dueCount (s.trainInterval n) ch s.time.toNat)

/-- Whether a stack's temperature has moved HBMC_RETRAIN_DRIFT since a channel was last trained (R285). -/
def State.driftDue (s : State) (n : Nat) : Bool :=
  let k := s.stack n
  let d := s.regField (aHbmc n 0x48) 7 0
  (List.range 32).any fun ch => decide ((if d = 0 then 5 else d) ≤ (k.temp - NMap.get (fun _ => k.temp) k.lastTemp ch).natAbs)

/-- HBM_RETRAIN_DUE: a channel whose interval has passed falls due, or every channel of a stack whose temperature has drifted. -/
def retrainDue (n : Nat) (ch : Option Nat) (s : State) : State :=
  if ¬ s.stackUp n then s
  else match ch with
    | some c => if s.intervalDue n c then s.setStack n ((s.stack n).dueFor c 1 s.time) else s
    | none => if s.driftDue n then allDue n 2 s else s

/-- A training slot ends well: new delays take effect, and are saved for warm starts. -/
def trainedOk (n ch : Nat) (reason : Byte) (shift temp : Int) (s : State) : State :=
  let k := s.stack n
  let k1 := { k with due := k.due.filter fun e => decide (e.channel ≠ ch), fails := NMap.erase k.fails ch,
                     lastTrain := NMap.insert k.lastTrain ch s.time, lastTemp := NMap.insert k.lastTemp ch temp }
  let s1 := { s.setStack n k1 with flash := { s.flash with savedCal := true } }
  if 8 ≤ shift.natAbs then raiseDev 0x0206 0 n (leBytes 1 ch ++ leBytes 1 reason.toNat ++ tempByte shift ++ tempByte temp) s1 else s1

/-- A training fails: it is repeated in the next slot; after three consecutive failures the stack is reset. -/
def trainedBad (n ch : Nat) (s : State) : State :=
  let k := s.stack n
  let f := NMap.get (fun _ => 0) k.fails ch + 1
  if 3 ≤ f then startReset 6 n 4 none (s.setStack n { k with fails := NMap.erase k.fails ch })
  else s.setStack n { k with fails := NMap.insert k.fails ch f }

/-- A stack reports its temperature: above 85 °C the refresh rate doubles (R262). -/
def stackTemp (n : Nat) (temp : Int) (s : State) : State :=
  s.setStack n { s.stack n with temp := temp, hot := decide (85 < temp) }

/-- HBM_TRAINING_SLOT. -/
def trainingSlot (n ch : Nat) (ok : Bool) (shift temp : Int) (s : State) : State :=
  match (s.stack n).due.find? fun e => decide (e.channel = ch) with
  | none => s
  | some e =>
    if ¬ s.stackUp n then s
    else if s.voteWindow then deferSlot s
    else if ¬ s.slotRuns 1 then s
    else
      let s1 := endPreempt (count (aHbmc n 0x30) 1 (useStack n trainNs (stackTemp n temp s)))
      if ok then trainedOk n ch e.reason shift temp s1 else trainedBad n ch s1

/-! ### Row repair (R282) -/

/-- HBMC_CE_ROW.LIMIT. -/
def State.rowLimit (s : State) (n : Nat) : Nat :=
  let l := s.regField (aHbmc n 0x40) 7 0
  if l = 0 then 4 else l

/-- Whether a row needs a repair (R282): it has read uncorrectable, or reached its limit within the window. -/
def State.rowDue (s : State) (n : Nat) (row : RowAddr) : Bool :=
  (s.stack n).erring.any fun e => decide (e.row = row) && (e.ue || decide (s.rowLimit n ≤ s.rowCount n e))

/-- ROW_REPAIR: a row that reached its limit, or read uncorrectable, is repaired in one slot. -/
def rowRepair (n : Nat) (row : RowAddr) (ue : Bool) (left : Nat) (s : State) : State :=
  let k := s.stack n
  if ¬ (ue || s.rowDue n row) ∨ ¬ s.stackUp n ∨ k.repairing.isSome then s
  else if s.voteWindow then deferSlot s
  else if ¬ s.regBit (aMrgn 0) 0 then s
  else if ¬ s.stackFits n repairNs then noteLimited s
  else
    let seen : Bool := k.erring.any fun e => decide (e.row = row) && e.ue
    useStack n repairNs (s.setStack n { k with repairing := some (row, if ue || seen then 2 else 1, left) })

/-- ROW_SPARED: the row is written back, logged, and its bank released. -/
def rowSpared (n : Nat) (s : State) : State :=
  let k := s.stack n
  match k.repairing with
  | none => s
  | some (row, trigger, left) =>
    let s1 := s.setStack n { k with repairing := none, erring := k.erring.filter fun e => decide (e.row ≠ row) }
    let done := s1.regField (aHbmc n 0x28) 15 0
    let s2 := s1.setReg (aHbmc n 0x28) (BitVec.ofNat 32 (min 65535 (done + 1)))
    let item : RowRepair := { stack := n, row := row, hard := false, trigger := trigger, left := BitVec.ofNat 8 (min 255 left) }
    rowEvent item 1 { s2 with flash := { s2.flash with rows := s2.flash.rows ++ [item] } }

/-! ### Frame retirement (R283, R284) -/

/-- PAGE_RETIRED. -/
def pageRetired (n frame spare trigger filled us : Nat) (s : State) : State :=
  raiseDev 0x0207 1 n (leBytes 4 frame ++ leBytes 4 spare ++ leBytes 1 trigger ++ leBytes 3 0 ++ leBytes 4 filled ++ leBytes 4 us) s

/-- The first free spare of a stack. -/
def State.freeFrame (s : State) (n : Nat) : Option Nat :=
  (List.range 8).find? fun i => !(s.redirectsOf n).any fun r => decide (r.spare.toNat = i)

/-- Whether a bank has no spare row left: its last repair reported none (R290); before a bank's first repair only its stack knows.
DESIGN CHOICE: log entry 86. -/
def State.bankSpent (s : State) (n : Nat) (row : RowAddr) : Bool :=
  match (s.flash.rows.filter fun r => decide (r.stack = n ∧ r.row.pc = row.pc ∧ r.row.bank = row.bank)).getLast? with
  | none => true
  | some r => r.left == 0

/-- Whether one of a frame's rows needs a repair that its bank has no spare row for (R264, R283): a frame lies in two rows of each bank. -/
def State.frameSpent (s : State) (n f : Nat) : Bool :=
  (s.stack n).erring.any fun e => decide (e.row.row.toNat / 2 = f % 2 ^ 15) && s.rowDue n e.row && s.bankSpent n e.row

/-- FRAME_RETIRE: a spare is chosen and dual writes begin; without one the frame stays in service and the module is flagged. -/
def frameRetire (n : Nat) (frame : BitVec 19) (noSpareRow : Bool) (s : State) : State :=
  let k := s.stack n
  let f := frame.toNat
  let twice : Bool := decide (2 ≤ NMap.get (fun _ => 0) k.ueFrames f)
  let moved : Bool := s.flash.redirects.any fun r => decide (r.frame = frame)
  if f / 2 ^ 15 ≠ n ∨ ¬ s.frameOk f ∨ ¬ s.stackUp n ∨ k.move.isSome ∨ moved ∨ ¬ (if noSpareRow then s.frameSpent n f else twice) then s
  else
    let trigger := if noSpareRow then 1 else 2
    match s.freeFrame n with
    | none => setHealth 0x9 (pageRetired n f 0xFFFFFFFF trigger 0 0 (s.setStack n { k with ueFrames := NMap.erase k.ueFrames f }))
    | some i => s.setStack n { k with move := some { frame := frame, spare := BitVec.ofNat 3 i, trigger := BitVec.ofNat 8 trigger } }

/-- Copy a frame of memory onto another: the bursts in `filled` become 32 bytes of 0xFF. -/
def copyFrame (src dst : Nat) (filled : List Nat) (s : State) : State :=
  let a := src * 2 ^ 21
  let b := dst * 2 ^ 21
  let moved := (s.mem.filter fun e => decide (a ≤ e.1) && decide (e.1 < a + 2 ^ 21)).map fun e => (e.1 - a + b, e.2)
  let low := s.mem.filter fun e => decide (e.1 < b)
  let high := s.mem.filter fun e => decide (b + 2 ^ 21 ≤ e.1)
  let out := (filled.filter fun i => decide (i < 65536)).foldl
    (fun m i => NMap.setRun hbmClear m (b + 32 * i) (List.replicate 32 0xFF)) (low ++ moved ++ high)
  { s with mem := out }

/-- FRAME_COPY_DONE: the redirect is installed and saved. -/
def frameCopyDone (n : Nat) (filled : List Nat) (us : Word) (s : State) : State :=
  let k := s.stack n
  match k.move with
  | none => s
  | some m =>
    if ¬ s.stackUp n then s
    else if s.voteWindow then deferSlot s
    else if ¬ s.regBit (aMrgn 0) 0 then s
    else if ¬ s.stackFits n copyNs then noteLimited s
    else
      let spare := s.spareBase n + m.spare.toNat
      let ues := (filled.filter fun i => decide (i < 65536)).map fun i => m.frame.toNat * 2 ^ 16 + i
      let s1 := useStack n copyNs (noteUes ues (copyFrame m.frame.toNat spare filled s))
      let item : Redirect := { stack := n, frame := m.frame, spare := m.spare }
      let s2 := { s1 with flash := { s1.flash with redirects := s1.flash.redirects ++ [item] } }
      let k2 := s2.stack n
      let s3 := s2.setStack n { k2 with move := none, retired := k2.retired + 1, ueFrames := NMap.erase k2.ueFrames m.frame.toNat }
      pageRetired n m.frame.toNat spare m.trigger.toNat (filled.filter fun i => decide (i < 65536)).length us.toNat s3

/-! ### The scheduler (R285 to R289) -/

/-- Whether the PLL and sensor recalibration is due: every 1 s, and by `late` ns overdue. -/
def State.recalDue (s : State) (late : Nat) : Bool :=
  match s.mrgnRecal with
  | none => true
  | some t => decide (t.toNat + 1000000000 + late ≤ s.time.toNat)

/-- RECALIBRATION. -/
def recalibrate (s : State) : State :=
  if ¬ s.recalDue 0 then s
  else if s.voteWindow then deferSlot s
  else if ¬ s.slotRuns 4 then s
  else endPreempt { s with mrgnRecal := some s.time }

/-- The largest number of a list. -/
def maxNat (l : List Nat) : Nat := l.foldl max 0

/-- MRGN_USED (R293): the highest use of a window, of any stack and of any quire's 16 clusters, in 0.01% of its 10 ms; `a` and `b` what
slots took beyond the time that the model counts for them. DESIGN CHOICE: log entry 86. -/
def MrgnUse.shown (u : MrgnUse) (a b : Nat) : Word :=
  let quire := maxNat ((List.range 32).map fun q => NMap.get (fun _ => 0) u.pip q + NMap.get (fun _ => 0) u.cross q)
  packBits [(min 65535 (maxNat (u.byStack.map fun e => e.2) / 1000 + a), 0), (min 65535 (quire / 16000 + b), 16)]

/-- The use of the window before the one under way. -/
def State.lastUse (s : State) : MrgnUse :=
  if s.mrgnUse.window + 1 = s.window then s.mrgnUse
  else if s.mrgnLast.window + 1 = s.window then s.mrgnLast
  else MrgnUse.empty (s.window - 1)

/-- MRGN_WINDOW: a window of TIME has ended, and its use is shown; `limited` whether work that no command stands for was held back. -/
def mrgnWindow (a b : Nat) (limited : Bool) (s : State) : State :=
  (s.setReg (aMrgn 0x1C) (s.lastUse.shown a b)).setRegBit (aMrgn 0x18) 2 (s.lastUse.limited || limited)

/-- MRGN_DEADLINE in ns. -/
def State.mrgnDeadline (s : State) : Nat := clampNat (s.regField (aMrgn 0x14) 15 0) 10 10000 * 1000000

/-- Whether a correctness-bearing activity, by its row of R285, is still deferred. -/
def State.activityLate (s : State) (a : Nat) : Bool :=
  match a with
  | 1 => s.hbm.any fun e => e.2.due.any fun d => decide (d.since.toNat + s.mrgnDeadline ≤ s.time.toNat)
  | 4 => s.recalDue s.mrgnDeadline
  | _ => false

/-- MRGN_DEADLINE_EXPIRE: the activity pre-empts traffic; inside a vote window the deadline moves to the window's end. -/
def deadlineExpire (a : Nat) (party : Dword) (s : State) : State :=
  if s.voteWindow ∨ ¬ s.activityLate a then s
  else
    let s1 := (count (aMrgn 0x20) 1 s).setReg64 (aMrgn 0x40) s.time
    auditHw (mkEntry 5 5 0 3 (BitVec.ofNat 64 (6 * 2 ^ 56)) party (BitVec.ofNat 64 (0x0406 * 2 ^ 48 + a))) (s1.setRegBit (aMrgn 0x18) 1 true)

/-- Whether the shares fit the budget once the register at `a` holds `v` (R286). -/
def State.sharesFit (s : State) (a : Nat) (v : Word) : Bool :=
  let at' := fun (off : Nat) => if a = aMrgn off then v.toNat % 256 else s.regField (aMrgn off) 7 0
  decide (at' 0x08 + at' 0x0C + at' 0x10 ≤ clampNat (at' 0x04) 5 100)

/-! ### Commands -/

/-- HBM_RETRAIN_DUE (R285). -/
def execHbmRetrainDue (stack : Fin 12) (channel : Option (Fin 32)) (s : State) : Answer :=
  .next (retrainDue stack (channel.map fun c => c.val) s)
/-- HBM_TRAINING_SLOT (R287). -/
def execHbmTrainingSlot (stack : Fin 12) (channel : Fin 32) (ok : Bool) (shift temp : Int) (s : State) : Answer :=
  .next (trainingSlot stack channel ok shift temp s)
/-- ROW_REPAIR (R282). -/
def execRowRepair (stack : Fin 12) (row : RowAddr) (uncorrectable : Bool) (spareLeft : Nat) (s : State) : Answer :=
  .next (rowRepair stack row uncorrectable spareLeft s)
/-- ROW_SPARED (R282). -/
def execRowSpared (stack : Fin 12) (s : State) : Answer := .next (rowSpared stack s)
/-- FRAME_RETIRE (R283, R284). -/
def execFrameRetire (stack : Fin 12) (frame : BitVec 19) (noSpareRow : Bool) (s : State) : Answer :=
  .next (frameRetire stack frame noSpareRow s)
/-- FRAME_COPY_DONE (R284). -/
def execFrameCopyDone (stack : Fin 12) (filled : List Nat) (us : Word) (s : State) : Answer := .next (frameCopyDone stack filled us s)
/-- RECALIBRATION (R285). -/
def execRecalibration (s : State) : Answer := .next (recalibrate s)
/-- MRGN_WINDOW (R286). -/
def execMrgnWindow (usedStack usedQuire : BitVec 16) (limited : Bool) (s : State) : Answer :=
  .next (mrgnWindow usedStack.toNat usedQuire.toNat limited s)
/-- MRGN_DEADLINE_EXPIRE (R289). -/
def execMrgnDeadlineExpire (activity : BitVec 8) (party : Dword) (s : State) : Answer := .next (deadlineExpire activity.toNat party s)
/-- HBM_HOT (R262). -/
def execHbmHot (stack : Fin 12) (temp : Int) (s : State) : Answer := .next (stackTemp stack temp s)

end Sys2Proof.Machine
end

