-- ==== Sys2Proof/Machine/PipCheck.lean ====
section
/-! DEFINITION. PIP_CHECK (R229 to R233, R238, R240): a sampled output tile of a MATMUL recomputed from the wide sources of
its operands, with the two bounds of R231 in exact arithmetic. -/

namespace Sys2Proof.Machine

/-! ### Exact values -/

/-- m · 2^e. -/
def dyRat (m : Int) (e : Int) : Rat := if 0 ≤ e then (m * 2 ^ e.toNat : Int) else mkRat m (2 ^ (-e).toNat)

/-- A finite binary32 value; 0 for the others. -/
def rat32 (c : Nat) : Rat := match fmt32.dec c with
  | .fin s m e => dyRat (if s then -(m : Int) else m) e
  | _ => 0

def absRat (x : Rat) : Rat := if x < 0 then -x else x

/-- A non-negative exact value in binary32, under RNE. -/
def ratTo32 (x : Rat) : Nat :=
  let n := x.num.natAbs
  let sh := 64 + bitLen x.den
  (fmt32.pack .rne false (n * 2 ^ sh / x.den) (-(sh : Int)) (decide (n * 2 ^ sh % x.den ≠ 0))).1

/-- A square root to 2^−128 of its denominator, from below: for what a record shows. -/
def ratSqrt (x : Rat) : Rat := mkRat (isqrt (x.num.natAbs * x.den * 2 ^ 256)) (x.den * 2 ^ 128)

/-! ### Loading (R275, R278) -/

/-- A tile as a pip check loads it: a checksum mismatch is reported, poison is not consumed, and both give nothing. -/
def pipTile (env : Env) (w : Who) (l : TileLoc) (i : Nat) (s : State) : State × Option TileImg :=
  match loadTile env w l i s with
  | (s1, .ok img) => (s1, some img)
  | (s1, .bad _ cause stored computed slot) =>
    (raiseChecksum w 1 cause l.handle i stored computed 0xFFFFFFFF (slot / 2 ^ 36) s1, none)
  | (s1, _) => (s1, none)

/-- Some tiles of a tensor; none if any could not be loaded. -/
def pipLoad (env : Env) (w : Who) (l : TileLoc) (is : List Nat) (s : State) : State × Option (NMap TileImg) :=
  is.foldl (fun acc i => match acc.2 with
    | none => acc
    | some m => match pipTile env w l i acc.1 with
      | (s1, none) => (s1, none)
      | (s1, some img) => (s1, some (NMap.insert m i img))) (s, some [])

/-- The elements of a tensor of which some tiles are loaded, in logical coordinates; 0 elsewhere. -/
def sparseMat (t : Tensor) (tiles : NMap TileImg) : Mat :=
  let k := t.loc.fmt
  let vals : NMap (Array (Nat × Exc)) := tiles.map fun e => (e.1, e.2.values k)
  let g := k.gridCols t.laidCols
  let at' := fun r c => (((NMap.find? vals (r / 128 * g + c / k.cw)).getD #[]).getD (r % 128 * k.cw + c % k.cw) (0, Exc.none)).1
  Mat.build t.rows t.cols fun r c => if t.orient then at' c r else at' r c

/-! ### Wide sources (R229, R230) -/

/-- The wide source of a short operand and whether it is read turned; none where the operand itself is the source. -/
def State.pipSource (s : State) (t : Task) (h : Nat) (o : Tensor) : Option (Tensor × Bool) :=
  let v := s.readVer t.ref.ctx h (t.bindOf h)
  if ¬ o.loc.fmt.short then none
  else match v.wide, v.copy with
    | some (g, wr), _ =>
      if (s.readVer o.loc.ctx g (t.bindOf g)).writer = wr then (s.readTensor o.loc.ctx g (t.bindOf g)).map fun x => (x, o.orient) else none
    | none, some r => (s.commTensor o.loc.ctx r.master).map fun x => (x, r.turned)
    | none, none => none

/-- An operand of the check: its stored tiles, and the wide values row by row over the contraction range. -/
structure PipSide where
  side : OpSide
  wide : Array (Array Nat)

/-- The tiles of a source that rows `r0` to `r0 + n − 1` of the operand touch over `k0` to `k0 + len − 1`. -/
def sourceTiles (x : Tensor) (turned : Bool) (r0 n k0 len : Nat) : List Nat :=
  if turned != x.orient then x.tilesOf k0 len r0 n else x.tilesOf r0 n k0 len

/-- The rows of the transformed wide source (R230): turned, and rotated as the operand's record says unless the source is
rotated already. -/
def pipWide (s : State) (c : Nat) (x : Tensor) (turned : Bool) (tiles : NMap TileImg) (r : OpRec) (r0 n k0 len : Nat) :
    Array (Array Nat) :=
  let m := alongAxis turned (sparseMat x tiles) x.rows x.cols
  let rotated := x.rot.isSome || (x.loc.fmt.short && tiles.any fun e => (e.2.trailer x.loc.fmt).rot ≠ 0)
  let rows : Mat := ((List.range n).map fun i => m.getD (r0 + i) #[]).toArray
  let y := if rotated then rows else (rotateMat r.rot (s.seed c) r.stream r.ctrHi rows).1
  y.map fun row => ((List.range len).map fun j => row.getD (k0 + j) 0).toArray

/-- The decoded rows of an operand that is its own wide source. -/
def pipOwn (o : Tensor) (tiles : NMap TileImg) (r0 n k0 len : Nat) : Array (Array Nat) :=
  let m := alongAxis o.orient (sparseMat o tiles) o.rows o.cols
  ((List.range n).map fun i => ((List.range len).map fun j => m.at (r0 + i) (k0 + j)).toArray).toArray

/-- Load one operand of a check. -/
def pipSide (env : Env) (t : Task) (slot r0 n k0 len : Nat) (s : State) : State × Option PipSide :=
  let h := (t.d.inp slot).handle
  match ((opTensor t (t.d.inp slot)).run s).1 with
  | .error _ => (s, none)
  | .ok o =>
    match pipLoad env t.who o.loc (o.tilesOf r0 n k0 len) s with
    | (s1, none) => (s1, none)
    | (s1, some tiles) =>
      let side : OpSide := { slot := slot, t := o, row0 := r0, rows := n, tiles := tiles }
      match s.pipSource t h o with
      | none => (s1, some { side := side, wide := pipOwn o tiles r0 n k0 len })
      | some (x, turned) =>
        let r := (tiles.head?.map fun e => tileRec o e.2).getD { t := 0x3F800000, rot := 0, stream := 0, ctrHi := 0 }
        let z := max 1 (rotSize r.rot)
        match pipLoad env t.who x.loc (sourceTiles x turned r0 n k0 ((len + z - 1) / z * z)) s1 with
        | (s2, none) => (s2, none)
        | (s2, some src) => (s2, some { side := side, wide := pipWide s1 t.ref.ctx.val x turned src r r0 n k0 len })

/-! ### Bounds (R230, R231) -/

/-- (a_f, b_f). -/
def pipAB (elem : Nat) : Rat × Rat := match elem with
  | 3 => (mkRat 1 16, mkRat 1 1024)
  | 4 => (mkRat 1 8, mkRat 1 131072)
  | 5 => (mkRat 1 4, mkRat 1 4)
  | _ => (0, mkRat 1 2)

/-- Δ of an element of a short operand with a wide source; none in an invalid block. -/
def pipDelta (k : Fmt) (stoch husk : Bool) (t s8 : Nat) (x : Nat) : Option Rat :=
  let a := absRat (rat32 x)
  if ¬ fmt32.isFin x then none
  else match s8Val s8 with
    | none => none
    | some (sm, se) =>
      if sm = 0 then some a
      else if husk then some (a * mkRat 1 512)
      else
        let e := dyRat sm se * rat32 t
        let fm := dyRat (fmaxOf k.elem).1 (fmaxOf k.elem).2
        let (af, bf) := pipAB k.elem
        if a ≤ fm * e then some ((af * a + bf * e) * if stoch then 2 else 1) else some (a - fm * e)

/-- Δ of each element of an operand, row by row. -/
def PipSide.deltas (p : PipSide) (own : Bool) (k0 len : Nat) : Array (Array (Option Rat)) :=
  let o := p.side.t
  let k := o.loc.fmt
  let g := k.gridCols o.laidCols
  let dec : NMap (TileDec × Bool) := p.side.tiles.map fun e => (e.1, decTile k o e.2, (e.2.trailer k).mode.testBit 2)
  let at' := fun i j =>
    let x := (p.wide.getD i #[]).getD j 0
    if own then (if fmt32.isFin x then some 0 else none)
    else
      let r := p.side.row0 + i
      let c := k0 + j
      match NMap.find? dec (r / 128 * g + c / k.cw) with
      | none => none
      | some (d, stoch) =>
        let q := r % 128 * k.cw + c % k.cw
        pipDelta k stoch (k.husks && decide (d.codes.getD q 0 = 8) && (NMap.find? d.husks q).isSome) d.t (d.side.getD (q / k.blk) 0) x
  ((List.range p.side.rows).map fun i => ((List.range len).map fun j => at' i j).toArray).toArray

/-- The wide values of an operand as a binary32 operand of the reference MATMUL. -/
def PipSide.wideOpnd (p : PipSide) : Opnd :=
  { fmt := Fmt.f32, rows := p.wide.map fun r => r.map longElt, scales := p.wide.map fun r => r.map fun _ => (1, 0),
    t := p.wide.map fun _ => 0x3F800000 }

/-- Two terms of R167 with ε = 0: for an interval of P blocks, B′ blocks, and stochastic promotion. -/
def pipBeta (p b : Nat) (stoch : Bool) : Rat :=
  mkRat (16 * p) (2 ^ 28) + mkRat ((b + p - 1) / p + 1) (if stoch then 2 ^ 23 else 2 ^ 24)

/-- An element of a check: where, |y − C_ref|, τ, H, and whether each is exceeded. -/
structure PipElt where
  row : Nat
  col : Nat
  diff : Rat
  tau : Rat
  h : Rat
  hard : Bool
  dis : Bool

/-- Whether one element's ratio to τ is above another's. -/
def PipElt.above (a b : PipElt) : Bool := decide (b.diff * a.tau < a.diff * b.tau)

/-- One output element; none where it is not checked. -/
def pipElement (g kappa beta nu : Rat) (a b : Array Nat) (da db : Array (Option Rat)) (y ref row col : Nat) : Option PipElt :=
  if ¬ fmt32.isFin y ∨ ¬ fmt32.isFin ref ∨ (da.any fun x => x.isNone) ∨ db.any fun x => x.isNone then none
  else
    let sums := (List.range a.size).foldl (fun (acc : Rat × Rat × Rat) k =>
      let x := absRat (rat32 (a.getD k 0))
      let z := absRat (rat32 (b.getD k 0))
      let u := ((da.getD k none).getD 0)
      let v := ((db.getD k none).getD 0)
      (acc.1 + x * z, acc.2.1 + (u * z + x * v + u * v), acc.2.2 + (u * u * z * z + x * x * v * v))) (0, 0, 0)
    let gg := g * sums.1
    let h := g * sums.2.1 + (beta + mkRat 1 (2 ^ 29)) * gg + nu * absRat (rat32 y) + mkRat 1 (2 ^ 126)
    let sq := kappa * kappa * g * g * sums.2.2
    let d := absRat (rat32 y - rat32 ref)
    let t := ratSqrt sq + beta * gg
    some { row := row, col := col, diff := d, tau := if h < t then h else t, h := h, hard := decide (h < d),
           dis := decide (h < d) || (decide (beta * gg < d) && decide (sq < (d - beta * gg) * (d - beta * gg))) }

/-! ### The check -/

/-- What a check found: RESULT of R238 and the element reported. -/
structure PipOut where
  result : Nat
  worst : Option PipElt

/-- Check output tile `j`, of 128 × 128 elements (R129, R144). -/
def pipRun (env : Env) (t : Task) (j : Nat) (s : State) : State × PipOut :=
  let c := t.ref.ctx.val
  let nc : PipOut := { result := 4, worst := none }
  let p := MmParams.ofMatmul t.d.params
  match s.readTensor c (t.d.out 0).handle none, ((opTensor t (t.d.inp 0)).run s).1 with
  | some o, .ok x0 =>
    let len := p.len x0.laidCols
    let across := (o.cols + 127) / 128
    let i0 := j / across * 128
    let j0 := j % across * 128
    let m := min 128 (o.rows - i0)
    let n := min 128 (o.cols - j0)
    match pipLoad env t.who o.loc (sourceTiles o false i0 m j0 n) s with
    | (s1, none) => (s1, nc)
    | (s1, some out) =>
      match pipSide env t 0 (p.row0 + i0) m p.k0 len s1 with
      | (s2, none) => (s2, nc)
      | (s2, some a) =>
        match pipSide env t 1 (p.row1 + j0) n p.k0 len s2 with
        | (s3, none) => (s3, nc)
        | (s3, some b) =>
          let own := fun (x : PipSide) => (s.pipSource t (t.d.inp x.side.slot).handle x.side.t).isNone
          let rot := ((a.side.tiles.head?.map fun e => (tileRec a.side.t e.2).rot).getD 0)
          let half := decide (rot = 2 ∨ rot = 4)
          let blocks := (len + 15) / 16
          let split := decide (a.side.t.loc.fmt.elem = 0 ∧ b.side.t.loc.fmt.elem = 0)
          let parts := if split then (passParts (if p.passes = 0 then 1 else p.passes)).length else 1
          let beta := pipBeta p.promote (parts * blocks) (decide (2 ^ p.log2 ≤ len)) + pipBeta 8 (6 * blocks) false
          let nu : Rat := match o.loc.fmt.elem with | 1 => mkRat 1 2048 | 2 => mkRat 1 256 | _ => 0
          let kap := s.regField (aNumc c 0x1C) 15 8
          let acc : AccParams := { passes := 3, promote := 8, stoch := false, key := 0, klen := len, half := half, faults := [] }
          let da := a.deltas (own a) p.k0 len
          let db := b.deltas (own b) p.k0 len
          let y := sparseMat o out
          let es := (List.range m).flatMap fun r => (List.range n).filterMap fun q =>
            pipElement (if half then mkRat 1 2 else 1) (if kap = 0 then 4 else (kap : Int)) beta nu (a.wide.getD r #[])
              (b.wide.getD q #[]) (da.getD r #[]) (db.getD q #[]) (y.at (i0 + r) (j0 + q))
              (cellOut acc a.wideOpnd b.wideOpnd r q (i0 + r) (j0 + q)).1 r q
          let worst := es.foldl (fun (w : Option PipElt) e => match w with
            | none => some e
            | some v => if e.above v then some e else some v) none
          (s3, { result := if es.any fun e => e.hard then 2 else if es.any fun e => e.dis then 1 else if es.isEmpty then 4 else 0,
                 worst := worst })
  | _, _ => (s, nc)

/-- A check of tile `j` on cluster `check`, with what its record is to show. -/
def PipOut.started (out : PipOut) (j check : Nat) : PipRun :=
  let e : PipElt := out.worst.getD { row := 0, col := 0, diff := 0, tau := 0, h := 0, hard := false, dis := false }
  { tile := j, check := check, result := out.result, row := e.row, col := e.col, diff := ratTo32 e.diff, tau := ratTo32 e.tau,
    h := ratTo32 e.h, ratio := if e.diff = 0 then 0 else if e.tau = 0 then fmt32.inf else ratTo32 (e.diff / e.tau), dropped := false }

/-! ### The pip table (R232) -/

/-- A layer's entry with one more count at `step`: counts of steps since the last step written are cleared first. -/
def pipCount (step : Dword) (b : Bytes) : Bytes :=
  let last := fieldLe b 8 8
  let v := fieldLe b 0 8
  let gap := min 16 (step.toNat - last)
  let v1 := (List.range gap).foldl (fun v i => v - bitsN v (4 * ((step.toNat - i) % 16) + 3) (4 * ((step.toNat - i) % 16))
    * 2 ^ (4 * ((step.toNat - i) % 16))) v
  let o := 4 * (step.toNat % 16)
  let v2 := if bitsN v1 (o + 3) o = 15 then v1 else v1 + 2 ^ o
  leBytes 8 v2 ++ leBytes 8 (max last step.toNat)

/-- PIP_WINDOW, 1 to 16. -/
def State.pipWindow (s : State) (c : Nat) : Nat :=
  let w := s.regField (aNumc c 0x1C) 24 20
  if w = 0 ∨ 16 < w then 16 else w

/-- PIP_COUNT. -/
def State.pipLimit (s : State) (c : Nat) : Nat :=
  let n := s.regField (aNumc c 0x1C) 19 16
  if n = 0 then 3 else n

/-- The counts of the last `w` steps. -/
def pipSum (step : Dword) (w : Nat) (b : Bytes) : Nat :=
  (List.range w).foldl (fun a i =>
    let o := 4 * ((step.toNat + 16 - i) % 16)
    a + bitsN (fieldLe b 0 8) (o + 3) o) 0

/-- The handle of the pip table. -/
def State.pipTable (s : State) (c : Nat) : Option Tensor := match s.slotHandle c (aNumc c 0x2C) with
  | none => none
  | some h => match (s.ctx c).handle? h with
    | none => none
    | some d => if d.format = 0 ∧ ¬ d.folio then s.writeTensor c h 0 false none else none

/-- Raise PIP_DISAGREE (R240). -/
def raisePip (t : Task) (sev : Byte) (result n : Nat) (r : PipRun) (s : State) : State :=
  raiseWho t.who 0x0106 sev (s.unitOf t) (leBytes 1 result ++ leBytes 1 n ++ leBytes 1 (s.pipWindow t.ref.ctx) ++ leBytes 1 0
    ++ leBytes 4 r.tile ++ leBytes 4 r.diff ++ leBytes 4 r.tau ++ leBytes 4 r.h ++ leBytes 2 (s.phys r.check) ++ leBytes 2 0) s

/-- Count a DISAGREE or HARD result of an IN_LAYER task; a window that is reached raises the event and clears the counts. The
number is the window's count. -/
def pipNote (t : Task) (r : PipRun) (s : State) : State × Nat :=
  let c := t.ref.ctx.val
  let layer := t.d.layer
  match s.pipTable c with
  | none => (s, 0)
  | some x =>
    let o := layer % 512 * 16
    match s.goodTile x.loc (layer / 512) with
    | none => (if x.loc.tiles ≤ layer / 512 then setNumcStatus c 2 true s else s, 0)
    | some img =>
      let b := pipCount t.step (sliceB img.data o 16)
      let n := pipSum t.step (s.pipWindow c) b
      let hit := decide (s.pipLimit c ≤ n)
      let b1 := if hit then putB b 0 (leBytes 8 0) else b
      match (editTile envQuiet t.who 1 1 x (layer / 512) fun d => putB d o b1).run s with
      | (.error _, s1) => (s1, 0)
      | (.ok _, s1) => (if hit then raisePip t 1 1 n r s1 else s1, n)

/-- Whether a step of a context has voted. -/
def State.stepVoted (s : State) (c : Nat) (step : Dword) : Bool :=
  decide (step ≠ s.stepOf c) || (s.ctx c).voted

/-- A check that ran is over (R231 to R233, R238): its record carries LATE after its step's vote, and SUPERSEDED, counting towards nothing,
where a repeat has superseded its task's attempt. -/
def pipEnd (t : Task) (r : PipRun) (s : State) : State :=
  let c := t.ref.ctx.val
  let x := s.ctx c
  let mine := fun (u : Task) => decide (u.order = t.order) && decide (u.attempt = t.attempt) && !r.dropped
  let note := fun (u : Task) => { u.notePip r.result with pipMax := BitVec.ofNat 32 (max u.pipMax.toNat r.ratio) }
  let ended := { x with pipRuns := x.pipRuns.filter fun e => !(decide (e.1.order = t.order) && decide (e.2 = r)),
                        tasks := x.tasks.map fun u => if mine u then note u else u }
  let s1 := pipRecord t ((if s.stepVoted c t.step then 2 else 0) + if r.dropped then 8 else 0) r.tile r.row r.col r.result r.diff r.tau r.h
    (s.phys r.check) (count (aNumc c 0x70) 1 (s.setCtx c ended))
  let bad := decide (r.result = 1 ∨ r.result = 2)
  let (s2, n) := if bad && t.d.inLayer && !r.dropped then pipNote t r s1 else (s1, 0)
  if r.result = 2 then
    let s3 := raisePip t 2 2 n r s2
    let s4 := s3.setCtx c { s3.ctx c with hardPip := (s3.ctx c).hardPip ++ [t.step] }
    match t.cluster with
    | none => s4
    | some k => startDecision .pip [r.check, k.val] (some t.ref) 0 0 0 0 0 s4
  else s2

/-- Whether a check may start on a cluster (R230, R293): in a quire other than the one that computed the tile, no task on it. -/
def State.pipMayRun (s : State) (t : Task) (tile check : Nat) : Bool :=
  let sameQuire : Bool := match t.cluster with
    | none => true
    | some n => decide (quireOf n.val = quireOf check)
  decide (t.st = .complete) && !t.superseded && t.pip.contains tile && !sameQuire && !(s.clus check).busy && !s.clusterOut check
    && s.regBit (aMrgn 0) 0 && s.regBit (aMrgn 0) 3 && s.dev.serves && (s.ctx t.ref.ctx).st.isActive

/-- A check starts, for `ns` of cluster time, or is skipped for want of share (R233, R286). -/
def pipStart (t : Task) (tile check ns : Nat) (env : Env) (s : State) : State :=
  if ¬ s.pipFits (quireOf check) ns then skipShort t tile s
  else
    let (s1, out) := pipRun env t tile (usePip (quireOf check) ns s)
    let s2 := s1.setTask { t with pip := t.pip.erase tile }
    let x := s2.ctx t.ref.ctx
    s2.setCtx t.ref.ctx { x with pipRuns := x.pipRuns ++ [(t, out.started tile check)] }

/-- PIP_CHECK: a sampled check of a complete task starts on a cluster of another quire, and the next one of the same tile is its end.
DESIGN CHOICE: log entry 55. -/
def pipCheck (task : TaskRef) (tile check ns : Nat) (env : Env) (s : State) : State :=
  match (s.ctx task.ctx).pipRuns.find? fun e => decide (e.1.ref = task) && decide (e.2.tile = tile) with
  | some e => pipEnd e.1 e.2 s
  | none =>
    match s.task? task with
    | none => s
    | some t => if s.pipMayRun t tile check then pipStart t tile check ns env s else s

/-- PIP_CHECK. -/
def execPipCheck (task : TaskRef) (tile : Nat) (cluster : Fin 512) (run : CheckRun) (s : State) : Answer :=
  .next (pipCheck task tile cluster run.ns.toNat run.env s)

end Sys2Proof.Machine
end

