-- ==== Sys2Proof/Machine/RegHooks.lean ====
section
/-! DEFINITION. What a write of each register does beyond storing its bits, and what it is refused or ignored for: block by block
(R60, R72, R148, R151, R241, R260, R291, R293, R310, R311, R314, R319, R329, R356 to R366, R384, R391 to R401, R417, R418, R433,
R451 to R454, R463, R464, R477 to R479). -/

namespace Sys2Proof.Machine

/-- A register write on its way: the path, the register (its `_LO` for a pair), its address, the value (64 bits for a pair), and the
debug token that lies at SECU_LOAD_ADDR, where the security engine reads one. -/
structure RegWr where
  path : Path
  loc : RegLoc
  addr : Nat
  val : Nat
  tok : Option SignedObj
  deriving DecidableEq, Repr

/-- Offset of the register within its block member. -/
def RegWr.off (w : RegWr) : Nat := w.loc.row.off

/-- The block member: a context, cluster, stack or port. -/
def RegWr.unit (w : RegWr) : Nat := w.loc.inst

/-- The position within a repeated register: a ring, a window, an entry. -/
def RegWr.k (w : RegWr) : Nat := w.loc.k

/-- Bit `i` of the value. -/
def RegWr.bit (w : RegWr) (i : Nat) : Bool := w.val.testBit i

/-! ### Values outside a range that clamp -/

/-- The value that a register takes: where the register's row says that values outside a range clamp, the nearest in range. -/
def clampReg (b : Blk) (off v : Nat) : Nat :=
  match b, off with
  | .gctl, 0x028 => clampNat (v % 64) 24 40
  | .rstc, 0x014 => clampNat v 5 10000
  | .rstc, 0x018 => clampNat v 100 60000
  | .bndy, 0x020 => clampNat (v % 4096) 1000 3000
  | .ctxr, 0x024 => clampNat v 1 65536
  | .geng, 0x004 => clampNat v 2000 16000
  | .comt, 0x014 => clampNat v 100 10000000
  | .comt, 0x018 => clampNat v 20 65535
  | .comt, 0x01C => clampNat v 1000 1000000
  | .comtDev, 0x01C => clampNat v 300 86400
  | .hbmc, 0x044 => clampNat v 10 10000
  | .fabr, 0x050 => if v < 2 ^ 31 then min v 200000000 else max v (2 ^ 32 - 200000000)
  | .fabr, 0x220 => clampNat v 50 65535
  | .fabr, 0x228 => clampNat (v % 128) 10 75
  | .mrgn, 0x004 => clampNat (v % 256) 5 100
  | _, _ => v

/-! ### Contexts and rings (R60, R72) -/

/-- The handle quotas of the valid contexts other than `c`. -/
def State.htabOthers (s : State) (c : Nat) : Nat :=
  s.ctxs.foldl (fun n e => if e.2.st = .invalid ∨ e.1 = c then n else n + (s.reg (aCtx e.1 0x20)).toNat) 0

/-- Whether a context's quota of `n` handles would overcommit the device (R60). DEDUCED: log entry 79. -/
def State.overcommits (s : State) (c n : Nat) : Bool := decide (1048576 < s.htabOthers c + n)

/-- Whether a write to CTX_CTRL sets VALID of an INVALID context. -/
def RegWr.setsValid (w : RegWr) (s : State) : Bool := decide ((s.ctx w.unit).st = .invalid) && w.bit 0

/-- Whether a write to CTX_CTRL clears VALID. -/
def RegWr.clearsValid (w : RegWr) (s : State) : Bool := decide ((s.ctx w.unit).st ≠ .invalid) && !w.bit 0

/-- Whether the context may go to INVALID: every ring disabled, nothing in flight. -/
def State.ctxIdle (s : State) (c : Nat) : Bool := !s.anyRing c && decide ((s.ctx c).inflight = 0)

/-- A write to CTX_HTAB_SIZE of a valid context that overcommits, or leaves out a defined handle. -/
def State.htabBad (s : State) (c n : Nat) : Bool :=
  decide ((s.ctx c).st ≠ .invalid) && (s.overcommits c n || (s.ctx c).handles.any fun e => decide (n ≤ e.1))

/-- Whether another valid context holds the rank of a FABR_CTX_RANK value in a job (R310): what would give two valid contexts one
(job, rank) is refused, be it written to FABR_CTX_RANK, to CTX_JOB or to VALID. DEDUCED: log entry 90. -/
def State.rankHeld (s : State) (c job v : Nat) : Bool :=
  v.testBit 31 && s.ctxs.any fun e =>
    decide (e.1 ≠ c) && decide (e.2.st ≠ .invalid) && decide (s.regField (aCtx e.1 8) 15 0 = job)
      && (match s.ctxRank e.1 with | some r => decide (r.toNat = bitsN v 20 0) | none => false)

/-- Refused writes of a context's registers beyond those of the configuration lock. A ring may be enabled in any device state (R60, R72).
DESIGN CHOICE: log entry 103. -/
def ctxrRefused (w : RegWr) (s : State) : Bool :=
  let c := w.unit
  match w.off with
  | 0x000 => (w.setsValid s && (s.overcommits c (s.reg (aCtx c 0x20)).toNat || s.rankHeld c (s.regField (aCtx c 8) 15 0) (s.reg (aFabr (0x100 + 4 * c))).toNat))
    || (w.clearsValid s && !s.ctxIdle c)
  | 0x008 => decide ((s.ctx c).st ≠ .invalid) && s.rankHeld c (bitsN w.val 15 0) (s.reg (aFabr (0x100 + 4 * c))).toNat
  | 0x020 => s.htabBad c w.val
  | 0x100 | 0x10C | 0x114 => s.ringEn c w.k
  | 0x108 =>
    if s.ringEn c w.k then decide (bitsN w.val 12 8 ≠ s.regField (aRing c w.k 8) 12 8)
    else w.bit 0 && (decide ((s.ctx c).st = .invalid) || decide ((s.ctx c).st = .killed))
  | _ => false

/-- OVERCOMMIT is set by the refusals of R60. -/
def ctxrRefuse (w : RegWr) (s : State) : State :=
  let c := w.unit
  let beyond : Bool := (decide (w.off = 0x000) && w.setsValid s && s.overcommits c (s.reg (aCtx c 0x20)).toNat)
    || (decide (w.off = 0x020) && s.htabBad c w.val)
  if beyond then s.setCtx c { s.ctx c with overcommit := true } else s

/-- VALID is cleared: the context is INVALID and its handles are freed. -/
def ctxRelease (c : Nat) (s : State) : State :=
  let s1 := setCtxState c .invalid (keepImports c (fun _ => true) s)
  recount (s1.setCtx c (s1.ctx c).released)

/-- CTX_CTRL. -/
def ctxCtrl (w : RegWr) (s : State) : State :=
  let c := w.unit
  let s1 := if w.setsValid s then setCtxState c .configured s else if w.clearsValid s then ctxRelease c s else s
  let s2 := if w.bit 1 ∧ (s1.ctx c).st = .active then setCtxState c .quiescing s1 else s1
  if w.bit 2 then killCtx c stKilled s2 else s2

/-- What writes of a context's registers do. -/
def ctxrHook (w : RegWr) (s0 s : State) : State :=
  let c := w.unit
  match w.off with
  | 0x000 => ctxCtrl w s
  | 0x004 => if w.bit 12 then s.setCtx c { s.ctx c with overcommit := false } else s
  | 0x108 =>
    if !s0.ringEn c w.k && w.bit 0 then enableRing c w.k s
    else if s0.ringEn c w.k && !w.bit 0 then disableRing c w.k s
    else s
  | 0x120 => if w.bit 0 then s.setRing c w.k { s.ring c w.k with err := false } else s
  | _ => s

/-! ### Global registers (R477 to R479) -/

/-- Whether UNFENCE is accepted: FENCED, no diagnosis running, and NO_SPARE, DIAG and MGMT_CORES clear. -/
def State.unfenceOk (s : State) : Bool :=
  decide (s.dev = .fenced) && !s.faults.diagnosing && !s.flash.health.getLsbD 1 && !s.flash.health.getLsbD 2 && !s.flash.health.getLsbD 5

/-- Refused writes of GCTL. -/
def gctlRefused (w : RegWr) (s : State) : Bool :=
  match w.off with
  | 0x010 => w.bit 6 && !w.bit 0
  | 0x030 => (w.bit 0 && decide (s.dev ≠ .active)) || (w.bit 1 && !s.unfenceOk)
  | _ => false

/-- DRAIN: the companion drain of R413, without CHIP_DRAINED and diagnosis. -/
def startDrain (s : State) : State :=
  let s1 := s.activeCtxs.foldl (fun t c => t.setCtx c { t.ctx c with abortArmed := true }) s
  setDev .draining { s1 with faults := { s1.faults with draining := true, drainDetach := false, diagnosing := false } }

/-- GCTL_CTRL. -/
def gctlCtrl (w : RegWr) (s : State) : State :=
  if w.bit 0 ∧ s.dev = .active then startDrain s
  else if w.bit 1 ∧ s.dev = .fenced then recount (setDev .ready { s with faults := { s.faults with drainDetach := false } })
  else s

/-- GCTL_ENABLE: ports follow their enables; clearing TRPL_EN writes back and invalidates the cache, setting it lets the held writes
go (R65, R296, R478). -/
def gctlEnable (s0 s : State) : State :=
  refreshPorts (List.range 9)
    (if s0.trplEn && !s.trplEn then dropLines (fun _ => true) s else if s.trplEn && !s0.trplEn then flushAll s else s)

/-- What writes of GCTL do. -/
def gctlHook (w : RegWr) (s0 s : State) : State :=
  match w.off with
  | 0x010 => gctlEnable s0 s
  | 0x020 =>
    let ps := s.path (pathNo w.path)
    if w.bit 2 then s.setPath (pathNo w.path) { ps with bcast := ps.bcast &&& ~~~(4 : Word) } else s
  | 0x028 => aclkRetarget s
  | 0x030 => gctlCtrl w s
  | _ => s

/-! ### Reset controller (R417, R418, R433) -/

/-- RSTC_CTRL: the watchdog is enabled, or a software reset of SWR_TARGET starts. -/
def rstcCtrl (w : RegWr) (s0 s : State) : State :=
  let on := w.bit 3 && !s0.regBit (aRstc 0x0C) 3
  let s1 := if on then { s.setRegBit (aRstc 0x0C) 3 true with faults := { s.faults with wdtKick := s.time } } else s
  if ¬ w.bit 0 then s1
  else match bitsN w.val 2 1 with
    | 1 => mgmtRestart 1 (s1.setRegBit (aRstc 0) 4 true)
    | 2 => resetDevice .swr true false none s1
    | _ => resetDevice .swr false false none s1

/-- Whether RSTC_DOMAIN_REQ names a domain and unit: DOMAIN 3 with a die, 4 with a quire. -/
def domainReq (v : Nat) : Option (Nat × Nat) :=
  let d := bitsN v 2 0
  let u := bitsN v 12 8
  if (d = 3 ∧ u < 4) ∨ (d = 4 ∧ u < 32) then some (d, u) else none

/-- What writes of RSTC do. -/
def rstcHook (w : RegWr) (s0 s : State) : State :=
  match w.off with
  | 0x00C => rstcCtrl w s0 s
  | 0x010 => match domainReq w.val with
    | some (d, u) => startReset d u 1 none s
    | none => s
  | 0x01C => { s with faults := { s.faults with wdtKick := s.time } }
  | _ => s

/-! ### Security engine (R451 to R454, R463) -/

/-- Refused writes of SECU. -/
def secuRefused (w : RegWr) (s : State) : Bool :=
  match w.off with
  | 0x01C => w.bit 0 && s.loadRefused (bitsN w.val 3 1)
  | 0x024 => w.bit 0 && s.activateRefused
  | 0x030 => w.bit 0 && s.secu.quote.isSome
  | _ => false

/-- What a refusal shows in SECU_LOAD_STATUS. -/
def secuRefuse (w : RegWr) (s : State) : State :=
  match w.off with
  | 0x01C => loadRefuse (bitsN w.val 3 1) s
  | 0x024 => activateRefuse s
  | _ => s

/-- What writes of SECU do. -/
def secuHook (w : RegWr) (s : State) : State :=
  match w.off with
  | 0x01C => if w.bit 0 then secuLoad (bitsN w.val 3 1) s else s
  | 0x024 => let s1 := if w.bit 1 then confirmUpdate s else s
    if w.bit 0 then activate s1 else s1
  | 0x030 => if w.bit 0 then quoteGo (w.bit 1) s else s
  | 0x038 => let s1 := if w.bit 0 then dbgEnable w.tok s else s
    if w.bit 1 then dbgEnd s1 else s1
  | _ => s

/-! ### Boundary Unit (R356 to R366) -/

/-- Refused writes of BNDY: a LOAD while one is under way, and a locked FWP range. -/
def bndyRefused (w : RegWr) (s : State) : Bool :=
  match w.off with
  | 0x018 => w.bit 0 && s.bndy.desc.isSome
  | 0x080 | 0x084 => s.regBit (aBndy (0x80 + 8 * w.k)) 31
  | _ => false

/-- A LOAD that is refused leaves RESULT BUSY (R358). -/
def bndyRefuse (w : RegWr) (s : State) : State :=
  if w.off = 0x018 then { s with bndy := { s.bndy with descResult := 2 } } else s

/-- What writes of BNDY do; a changed cap keeps the tokens that the old one gave. -/
def bndyHook (w : RegWr) (s0 s : State) : State :=
  match w.off with
  | 0x018 => if w.bit 0 then descStart s else s
  | 0x02C => ptRelease (bitsN w.val 18 0) s
  | 0x040 => s.setPort w.k (s0.tokensLess w.k 0)
  | 0x080 => if w.bit 31 then s.setRegBit (aBndy (0x80 + 8 * w.k)) 31 true else s
  | 0x10C => windowWrite w.k (BitVec.ofNat 32 w.val) s
  | _ => s

/-! ### Numeric control, streams, commit (R241, R260, R384, R391 to R400) -/

/-- Whether a write to NUMC_LEDGER_RD moves RD behind its value or beyond WR (R241). -/
def State.ledgerRdBad (s : State) (c : Nat) (v : Word) : Bool :=
  let rd := s.reg (aNumc c 0x50)
  decide ((s.reg (aNumc c 0x4C) - rd).toNat < (v - rd).toNat)

/-- RNGS_PROBE_CTR_HI: an evaluation starts (R260). -/
def probeStart (s : State) : State :=
  let key := (List.range 4).foldl (fun n i => n + (s.reg (aProbe (4 * i))).toNat * 2 ^ (32 * i)) 0
  { s.setReg (aProbe 0x18) 0 with probe := some (BitVec.ofNat 128 key, s.reg64 (aProbe 0x10)) }

/-- RNGS_PROBE_DONE: RNGS_PROBE_OUT holds the result. -/
def probeDone (s : State) : State :=
  match s.probe with
  | none => s
  | some (k, c) => { s.setReg (aProbe 0x18) (BitVec.ofNat 32 (draw k.toNat c.toNat)) with probe := none }

/-- Refused writes of COMT: a resolution outside IN_DOUBT, a partner area without an image region, a detach that cannot start. -/
def comtRefused (w : RegWr) (s : State) : Bool :=
  match w.loc.blk, w.off with
  | .comt, 0x000 => (w.bit 1 || w.bit 2) && decide ((s.ctx w.unit).phase ≠ 4)
  | .comtDev, 0x010 => decide (1 ≤ w.val % 65536) && decide (w.val % 65536 ≤ 32)
  | .comtDev, 0x014 => w.bit 0 && !s.detachable
  | _, _ => false

/-- COMT_CTRL. -/
def comtCtrl (w : RegWr) (s : State) : State :=
  let c := w.unit
  let s1 := if w.bit 0 then comtAbort c s else s
  let s2 := if w.bit 1 then resolveStep c true s1 else s1
  if w.bit 2 then resolveStep c false s2 else s2

/-- What writes of the device-wide commit registers do. -/
def comtDevHook (w : RegWr) (s : State) : State :=
  match w.off with
  | 0x000 => let s1 := if w.bit 0 then twinPair s else s
    if w.bit 1 then twinUnpair s1 else s1
  | 0x014 => if w.bit 0 then startDetach s else s
  | 0x01C | 0x03C => cadRefresh s
  | 0x024 => cadInterrupt (BitVec.ofNat 64 w.val) s
  | _ => s

/-! ### Clusters, stacks, ports, link, flash, scheduler -/

/-- Clear counters (R15). -/
def clearCounters (as : List Nat) (s : State) : State := as.foldl (fun t a => countClear a t) s

/-- Whether test injection is granted: CAPS bit 1 (R151, R452). -/
def State.injectGranted (s : State) : Bool := s.secu.caps.getLsbD 1

/-- Refused writes of CLUS. -/
def clusRefused (w : RegWr) (s : State) : Bool :=
  match w.off with
  | 0x000 => w.bit 3 && !s.injectGranted
  | 0x040 => !s.injectGranted
  | _ => false

/-- CLUS_CTRL (R148): an injection is armed when its ROW names a target. DEDUCED: log entry 91. -/
def clusCtrl (w : RegWr) (s : State) : State :=
  let n := w.unit
  let s1 := if w.bit 2 then clearCounters ([0x08, 0x10, 0x18, 0x20, 0x28].map fun o => aClus n o) s else s
  let s2 := if w.bit 3 ∧ s1.regField (aClus n 0x40) 7 0 < 130 then s1.setClus n { s1.clus n with armed := true } else s1
  if w.bit 0 then startReset 5 n 1 none s2 else s2

/-- HBMC_CTRL (R291). -/
def hbmcCtrl (w : RegWr) (s : State) : State :=
  let n := w.unit
  let s1 := if w.bit 2 then clearCounters ([0x10, 0x18, 0x20, 0x30].map fun o => aHbmc n o) s else s
  let s2 := if w.bit 1 then allDue n 3 s1 else s1
  if w.bit 0 then startReset 6 n 1 none s2 else s2

/-- PORT_CTRL (R319). -/
def portCtrl (w : RegWr) (s : State) : State :=
  let p := w.unit
  let s1 := if w.bit 6 then
      (List.range 8).foldl (fun t l => t.setReg (aPort p (0x100 + 4 * l)) 0)
        (clearCounters ([0x80, 0x88, 0x90, 0x98, 0xA0, 0xA8, 0xB0].map fun o => aPort p o) s)
    else s
  let s2 := refreshPort p s1
  if w.bit 1 then startReset 7 p 1 none s2 else s2

/-- Whether a PORT_PCP value gives two classes one PCP. -/
def pcpShared (v : Nat) : Bool :=
  let f := (List.range 4).map fun c => bitsN v (4 * c + 2) (4 * c)
  decide (f.eraseDups.length < 4)

/-- Refused writes of FLSH: a checkpoint area below unit 256 or beyond FLSH_CAPACITY. -/
def flshRefused (w : RegWr) (s : State) : Bool :=
  let cap := (s.reg (aFlsh 8)).toNat
  match w.off with
  | 0x00C => decide (w.val % 2 ^ 20 < 256) || decide (cap < w.val % 2 ^ 20 + s.regField (aFlsh 0x10) 19 0)
  | 0x010 => decide (cap < s.regField (aFlsh 0x0C) 19 0 + w.val % 2 ^ 20)
  | _ => false

/-- TRPL_CTRL (R365). -/
def trplCtrl (w : RegWr) (s : State) : State :=
  let s1 := if w.bit 1 then clearCounters ([0x08, 0x10, 0x18, 0x28].map fun o => aTrpl o) s else s
  if w.bit 0 then startRetrain s1 else s1

/-! ### The fabric's tables, ranks and TIME (R310, R311, R314, R329) -/

/-- Refused writes of FABR: a step of TIME backwards, a rank that is taken. -/
def fabrRefused (w : RegWr) (s : State) : Bool :=
  match w.off with
  | 0x048 => decide (2 ^ 63 ≤ w.val)
  | 0x100 => decide ((s.ctx w.k).st ≠ .invalid) && s.rankHeld w.k (s.regField (aCtx w.k 8) 15 0) w.val
  | _ => false

/-- A step of TIME backwards sets STEP_REFUSED. -/
def fabrRefuse (w : RegWr) (s : State) : State := if w.off = 0x048 then s.setRegBit (aFabr 0x58) 5 true else s

/-- The class and ORIGIN_ID of a path (R456, R466). -/
def pathOrigin : Path → BitVec 3 × BitVec 48
  | .aperture req => (1, req.setWidth 48)
  | .core n => (2, BitVec.ofNat 48 n.val)
  | .jtag => (3, 1)

/-- The entry of a write to a fabric table (R457). -/
def fabricEntry (p : Path) (flags : Byte) (place : Nat) (old new : Dword) : AuditEntry :=
  mkEntry (pathOrigin p).1 2 flags (pathOrigin p).2 (BitVec.ofNat 64 (2 * 2 ^ 56 + place)) old new

/-- DATA0 to DATA`n`−1 of a window, as a number. -/
def State.fabrData (s : State) (a n : Nat) : Nat := (List.range n).foldl (fun v i => v + (s.reg (aFabr (a + 4 * i))).toNat * 2 ^ (32 * i)) 0

/-- Load DATA0 to DATA`n`−1. -/
def putFabrData (a n v : Nat) (s : State) : State := (List.range n).foldl (fun t i => t.setReg (aFabr (a + 4 * i)) (wordOf i v)) s

/-- The entry that FABR_TBL_SEL and FABR_TBL_INDEX name: the table, the index, the entry's words and its value, if there is one. -/
def State.tblEntry (s : State) : Option (Nat × Nat × Nat × Nat) :=
  let i := s.regField (aFabr 0x14) 20 0
  match s.regField (aFabr 0x10) 1 0 with
  | 0 => some (0, i, 2, (NMap.get (fun _ => 0) s.fabric.rtt i).toNat)
  | 1 => if i < 65536 then some (1, i, 2, (NMap.get (fun _ => 0) s.fabric.jobdir i).toNat) else none
  | 2 => if i < 4096 then some (2, i, 8, (NMap.get (fun _ => 0) s.fabric.uplinks i).toNat) else none
  | _ => none

/-- The 64 bits that stand for an uplink entry in the ledger. -/
def uplinkMark (v : Nat) : Dword := BitVec.ofNat 64 (leNat (shake256 (leBytes 32 v) 8))

/-- FABR_TBL_CMD: WRITE is refused for the tables that only signed descriptors load. -/
def tblCmd (w : RegWr) (s : State) : State :=
  match s.tblEntry with
  | none => if w.bit 0 || w.bit 1 then s.setRegBit (aFabr 0x1C) 1 true else s
  | some (sel, i, n, old) =>
    let new := s.fabrData 0x20 n
    let place := sel * 2 ^ 54 + i
    let s1 :=
      if ¬ w.bit 1 then s
      else if sel = 2 then
        let t := auditAppend (fabricEntry w.path 0 place (uplinkMark old) (uplinkMark new)) s
        { t with fabric := { t.fabric with uplinks := NMap.set (fun _ => 0) t.fabric.uplinks i (BitVec.ofNat 256 new) } }
      else auditAppend (fabricEntry w.path 1 place (BitVec.ofNat 64 old) (BitVec.ofNat 64 new)) (s.setRegBit (aFabr 0x1C) 0 true)
    if w.bit 0 then putFabrData 0x20 n (match s1.tblEntry with | some (_, _, _, v) => v | none => 0) s1 else s1

/-- FABR_EXC_CMD: WRITE is refused while the version is injected or packets of its epoch are held (R329). -/
def excCmd (w : RegWr) (s : State) : State :=
  let v := s.regBit (aFabr 0x204) 16
  let i := s.regField (aFabr 0x204) 15 0
  let key := (if v then 65536 else 0) + i
  let old := NMap.get (fun _ => 0) s.fabric.exc key
  let new := BitVec.ofNat 64 (s.fabrData 0x210 2)
  let place := 3 * 2 ^ 54 + (if v then 2 ^ 53 else 0) + i
  let busy := decide (s.regBit (aFabr 0x200) 0 = v) || decide (s.epochHeld v ≠ 0)
  let s1 :=
    if ¬ w.bit 1 then s
    else if busy then auditAppend (fabricEntry w.path 1 place old new) (s.setRegBit (aFabr 0x20C) 0 true)
    else
      let t := auditAppend (fabricEntry w.path 0 place old new) s
      { t with fabric := { t.fabric with exc := NMap.set (fun _ => 0) t.fabric.exc key new } }
  if w.bit 0 then putFabrData 0x210 2 (NMap.get (fun _ => 0) s1.fabric.exc key).toNat s1 else s1

/-- What writes of FABR do. -/
def fabrHook (w : RegWr) (s : State) : State :=
  match w.off with
  | 0x018 => tblCmd w s
  | 0x048 => { s with time := s.time + BitVec.ofNat 64 w.val }
  | 0x200 => setEpoch (w.bit 0) s
  | 0x208 => excCmd w s
  | _ => s

/-! ### All blocks -/

/-- What a register refuses of its own. -/
def hookRefused (w : RegWr) (s : State) : Bool :=
  match w.loc.blk with
  | .gctl => gctlRefused w s
  | .rstc => decide (w.off = 0x01C) && decide (w.val ≠ 0x5AA5)
  | .audt => decide (w.off = 0x028) && !s.ackOk (BitVec.ofNat 64 w.val)
  | .secu => secuRefused w s
  | .bndy => bndyRefused w s
  | .ctxr => ctxrRefused w s
  | .numc => decide (w.off = 0x050) && s.ledgerRdBad w.unit (BitVec.ofNat 32 w.val)
  | .comt | .comtDev => comtRefused w s
  | .clus => clusRefused w s
  | .fabr => fabrRefused w s
  | .port => decide (w.off = 0x018) && pcpShared w.val
  | .flsh => flshRefused w s
  | .mrgn => [0x004, 0x008, 0x00C, 0x010].contains w.off && !s.sharesFit w.addr (BitVec.ofNat 32 (clampReg .mrgn w.off w.val))
  | .geng | .rngs | .probe | .clusMask | .hbmc | .hbmcMask | .portMask | .trpl => false

/-- What a refusal leaves beside its entry and its counts. -/
def hookRefuse (w : RegWr) (s : State) : State :=
  match w.loc.blk with
  | .secu => secuRefuse w s
  | .bndy => bndyRefuse w s
  | .ctxr => ctxrRefuse w s
  | .fabr => fabrRefuse w s
  | _ => s

/-- Whether a command bit has no effect, which the entry shows as IGNORED: a KILL outside ACTIVE and QUIESCING (R61), a domain that
RSTC_DOMAIN_REQ does not take (R433). -/
def hookIgnored (w : RegWr) (s : State) : Bool :=
  match w.loc.blk, w.off with
  | .ctxr, 0x000 => w.bit 2 && decide ((s.ctx w.unit).st ≠ .active) && decide ((s.ctx w.unit).st ≠ .quiescing)
  | .rstc, 0x010 => (domainReq w.val).isNone
  | _, _ => false

/-- What a write does once its bits are stored; `s0` is the state before. -/
def hookRun (w : RegWr) (s0 s : State) : State :=
  match w.loc.blk with
  | .gctl => gctlHook w s0 s
  | .rstc => rstcHook w s0 s
  | .audt => if w.off = 0x050 then auditRead (BitVec.ofNat 64 w.val) s else s
  | .secu => secuHook w s
  | .bndy => bndyHook w s0 s
  | .ctxr => ctxrHook w s0 s
  | .probe => if w.off = 0x010 then probeStart s else s
  | .comt => if w.off = 0x000 then comtCtrl w s else s
  | .comtDev => comtDevHook w s
  | .clus => if w.off = 0x000 then clusCtrl w s else s
  | .hbmc => if w.off = 0x000 then hbmcCtrl w s else s
  | .fabr => fabrHook w s
  | .port => if w.off = 0x000 then portCtrl w s else s
  | .trpl => if w.off = 0x000 then trplCtrl w s else s
  | .flsh => if w.off = 0x000 ∧ w.bit 0 then countClear (aFlsh 0x28) s else s
  | .geng | .numc | .rngs | .clusMask | .hbmcMask | .portMask | .mrgn => s

end Sys2Proof.Machine
end

