-- ==== Sys2Proof/Machine/RegWrite.lean ====
section
/-! DEFINITION. Writes and reads of the register space on every path: refusals by origin and state, locking, 64-bit pairs, aliases,
the audit entries, and the commands that wait for a slot of the audit ring (R9, R10, R460, R466 to R476, R497). -/

namespace Sys2Proof.Machine

/-! ### Whether a write is applied -/

/-- How a write ends: applied; applied but for locked fields; refused; without effect. -/
inductive Verdict where
  | applied | part | refused | ignored
  deriving DecidableEq, Repr

/-- What the register aperture reaches in RECOVERY (R441): the SECU_LOAD registers, SECU_STATUS and RSTC_START_COUNT. -/
def recoveryReach (a : Nat) : Bool :=
  [aSecu 0x00, aSecu 0x10, aSecu 0x14, aSecu 0x18, aSecu 0x1C, aSecu 0x20, aRstc 0x08].contains a

/-- Whether the aperture refuses every access to an address (R468). -/
def State.apertureShut (s : State) (a : Nat) : Bool :=
  (s.starting && decide (s.boot.stage.toNat ≤ 2)) || (decide (s.dev = .recovery) && !recoveryReach a)

/-- Whether an address lies in a block of 64 KiB (R482). -/
def inBlock (base a : Nat) : Bool := decide (base ≤ a) && decide (a < base + 0x10000)

/-- Whether a write is refused because of its origin (R468). -/
def State.originRefused (s : State) (p : Path) (a v : Nat) : Bool :=
  match p with
  | .aperture _ => s.apertureShut a
  | .core _ => inBlock 0x40000 a || (inBlock 0x30000 a && !(decide (a = aSecu 0x24) && !v.testBit 0))
  | .jtag => inBlock 0x40000 a || !s.secu.caps.getLsbD 0

/-- Whether a register that is written only while its context is INVALID or CONFIGURED is shut (R72, R241, R259, R342, R400). -/
def State.cfgShut (s : State) (l : RegLoc) : Bool :=
  let c := if l.blk = .fabr then l.k else l.inst
  l.row.cfg && (s.ctx c).st.isActive

/-- Whether a register has no bit that a write acts on (R9). -/
def RegRow.readOnly (r : RegRow) : Bool := decide (r.rw = 0) && decide (r.w1c = 0) && decide (r.w1s = 0)

/-- The RW and RWL bits of a register that exist on its member: MEDIUM and HALF not on uplinks, AN_EN only there (R319). -/
def RegLoc.writable (l : RegLoc) : Word :=
  if l.blk = .port ∧ l.row.off = 0 then (if l.inst = 6 ∨ l.inst = 7 then 0x29 else 0x35) else l.row.rw

/-- Whether a write would change a locked field. -/
def RegWr.changesLocked (w : RegWr) (s : State) : Bool :=
  decide ((s.reg w.addr ^^^ BitVec.ofNat 32 w.val) &&& (w.loc.row.lock &&& w.loc.writable) ≠ 0)

/-- How a write of a register ends, evaluated when its entry is appended (R470). DEDUCED: log entry 31. -/
def RegWr.verdict (w : RegWr) (s : State) : Verdict :=
  let r := w.loc.row
  if s.originRefused w.path w.addr w.val then .refused
  else if r.readOnly then .ignored
  else if s.cfgShut w.loc then .refused
  else if s.locked && decide (r.lock ≠ 0) && decide (r.lock = r.rw) && decide (r.w1s = 0) then .refused
  else if hookRefused w s then .refused
  else if s.locked && w.changesLocked s then .part
  else if hookIgnored w s then .ignored
  else .applied

/-! ### Storing the bits (R9, R469, R471) -/

/-- Registers whose value is state held elsewhere. -/
def heldElsewhere (l : RegLoc) : Bool :=
  (decide (l.blk = .ctxr) && decide (l.row.off = 0)) || (decide (l.blk = .fabr) && decide (l.row.off = 0x200))

/-- Store a 32-bit write: RW bits take the value, W1C bits that are 1 clear; reserved bits stay 0. -/
def storeWord (l : RegLoc) (a : Nat) (v : Word) (s : State) : State :=
  let m := if s.locked then l.writable &&& ~~~l.row.lock else l.writable
  let put := BitVec.ofNat 32 (clampReg l.blk l.row.off v.toNat)
  let cur := s.reg a
  s.setReg a ((cur &&& ~~~m &&& ~~~(v &&& l.row.w1c)) ||| (put &&& m))

/-- Store a write: both halves of a pair at once (R472). -/
def storeWr (w : RegWr) (s : State) : State :=
  if heldElsewhere w.loc then s
  else if w.loc.row.half = .lo then
    match locate (w.addr + 4) with
    | none => s
    | some h => storeWord h (w.addr + 4) (wordOf 1 w.val) (storeWord w.loc w.addr (wordOf 0 w.val) s)
  else storeWord w.loc w.addr (BitVec.ofNat 32 w.val) s

/-! ### Entries and counts (R10, R455 to R457, R468, R469) -/

/-- A register as a path reads it, without what the read leaves. -/
def State.seenOn (s : State) (p : Path) (a : Nat) : Word :=
  if a = 0x020 then (s.path (pathNo p)).bcast else if a = 0x024 then (s.path (pathNo p)).diff else s.regValue a

/-- The value of a register, or of a pair. -/
def State.oldValue (s : State) (p : Path) (a : Nat) (pair : Bool) : Dword :=
  if pair then s.regValue (a + 4) ++ s.regValue a else (s.seenOn p a).setWidth 64

/-- The entry of a register write. DEDUCED: log entry 32. -/
def regEntry (p : Path) (flags : Byte) (a : Nat) (old : Dword) (v : Nat) : AuditEntry :=
  mkEntry (pathOrigin p).1 1 flags (pathOrigin p).2 (BitVec.ofNat 64 a) old (BitVec.ofNat 64 v)

/-- FLAGS of an entry: REFUSED, IGNORED. -/
def Verdict.flags : Verdict → Byte
  | .applied => 0
  | .part | .refused => 1
  | .ignored => 2

/-- Count writes refused or ignored; a refusal through the aperture also in TRPL_AP_ERR. -/
def countVerdict (p : Path) (v : Verdict) (s : State) : State :=
  match v, p with
  | .applied, _ => s
  | .ignored, _ => count (aGctl 0x50) 1 s
  | _, .aperture _ => count (aTrpl 0x28) 1 (count (aGctl 0x50) 1 s)
  | _, _ => count (aGctl 0x50) 1 s

/-- Whether a write is one to AUDT_ACK_SEQ, which never stalls (R460). -/
def isAck (a : Nat) : Bool := decide (a = aAudt 0x28) || decide (a = aAudt 0x2C)

/-- Append an origin's entry: the reserve goes first; that of AUDT_ACK_SEQ goes through the reserve while the ring is full. -/
def appendOrigin (a : Nat) (e : AuditEntry) (s : State) : State :=
  let s1 := flushReserve s.audit.reserve.length s
  if isAck a then auditHw e s1 else auditAppend e s1

/-- A write lands on a register with a verdict: its entry first, then its effect (R455). One refused for its origin changes nothing
(R468). -/
def landWrite (w : RegWr) (v : Verdict) (s : State) : State :=
  let e := regEntry w.path v.flags w.addr (s.oldValue w.path w.addr (decide (w.loc.row.half = .lo))) w.val
  let s1 := appendOrigin w.addr e s
  match v with
  | .refused => if s.originRefused w.path w.addr w.val then s1 else hookRefuse w s1
  | _ => hookRun w s1 (storeWr w s1)

/-! ### Staging (R472) -/

/-- The staged `_LO` of a path that a write to `a` discards. -/
def State.discards (s : State) (p : Path) (a : Nat) : Option (Nat × Word) :=
  match (s.path (pathNo p)).staged with
  | none => none
  | some (b, v) => if a = b + 4 then none else some (b, v)

/-- Discard it, recorded with IGNORED. -/
def discardStaged (p : Path) (a : Nat) (s : State) : State :=
  match s.discards p a with
  | none => s
  | some (b, v) =>
    let s1 := countVerdict p .ignored (appendOrigin b (regEntry p 2 b (s.oldValue p b true) v.toNat) s)
    s1.setPath (pathNo p) { s1.path (pathNo p) with staged := none }

/-- Stage a `_LO`. -/
def stageLo (p : Path) (a : Nat) (v : Word) (s : State) : State :=
  s.setPath (pathNo p) { s.path (pathNo p) with staged := some (a, v) }

/-- The 64-bit value that a write of `_HI` applies to the pair at `lo`: the staged half, or the current one; `key` is the address
that the `_LO` was staged for. -/
def State.pairValue (s : State) (p : Path) (key lo : Nat) (v : Word) : Nat :=
  let low := match (s.path (pathNo p)).staged with
    | some (b, x) => if b = key then x else s.regValue lo
    | none => s.regValue lo
  low.toNat + v.toNat * 2 ^ 32

/-- Nothing is staged after a pair is applied. -/
def unstage (p : Path) (s : State) : State := s.setPath (pathNo p) { s.path (pathNo p) with staged := none }

/-! ### One register, or the members of an alias -/

/-- A write at a reserved offset, or through an alias without members: recorded and counted, without effect (R150, R469). -/
def landNowhere (p : Path) (a : Nat) (v : Word) (s : State) : State :=
  let d : Verdict := if s.originRefused p a v.toNat then .refused else .ignored
  countVerdict p d (appendOrigin a (regEntry p d.flags a 0 v.toNat) s)

/-- A write of one register, by its address. -/
def writeOne (p : Path) (a : Nat) (v : Word) (tok : Option SignedObj) (s : State) : State :=
  match locate a with
  | none => landNowhere p a v s
  | some l =>
    let half := if l.row.readOnly then Half.one else l.row.half
    match half with
    | .lo => if s.originRefused p a v.toNat then landNowhere p a v s else stageLo p a v s
    | .hi =>
      match locate (a - 4) with
      | none => landNowhere p a v s
      | some lo =>
        let w : RegWr := { path := p, loc := lo, addr := a - 4, val := s.pairValue p (a - 4) (a - 4) v, tok := tok }
        let d := w.verdict s
        landWrite w d (countVerdict p d (unstage p s))
    | .one =>
      let w : RegWr := { path := p, loc := { l with row := { l.row with half := .one } }, addr := a, val := v.toNat, tok := tok }
      let d := w.verdict s
      landWrite w d (countVerdict p d s)

/-- A write of an alias on one member, as a write of that member's register. -/
def memberWrite (p : Path) (x : AliasAt) (a : Nat) (v : Word) (s : State) (n : Nat) : Option RegWr :=
  let b := x.addr n
  match locate b with
  | none => none
  | some l =>
    if l.row.half = .hi ∧ ¬ l.row.readOnly then
      match locate (b - 4) with
      | none => none
      | some lo => some { path := p, loc := lo, addr := b - 4, val := s.pairValue p (a - 4) (b - 4) v, tok := none }
    else some { path := p, loc := { l with row := { l.row with half := .one } }, addr := b, val := v.toNat, tok := none }

/-- The entry of a member with flags. -/
def memberEntry (w : RegWr) (flags : Byte) (s : State) : State :=
  appendOrigin w.addr (regEntry w.path flags w.addr (s.oldValue w.path w.addr (decide (w.loc.row.half = .lo))) w.val) s

/-- A write through an alias (R474): it lands in every participating member, or, refused on one, is refused on all. -/
def writeAlias (p : Path) (x : AliasAt) (a : Nat) (v : Word) (s : State) : State :=
  let ms := s.aliasMembers x
  match locate (x.addr 6) with
  | none => landNowhere p a v s
  | some l =>
    if ms = [] then landNowhere p a v s
    else if l.row.half = .lo ∧ ¬ l.row.readOnly ∧ ¬ s.originRefused p a v.toNat then stageLo p a v s
    else
      let inn := ms.filter fun n => !s.memberOut x.block n
      let out := ms.filter fun n => s.memberOut x.block n
      let ws := inn.filterMap (memberWrite p x a v s)
      let skipped := out.filterMap (memberWrite p x a v s)
      let refused := (ws.any fun w => decide (w.verdict s = .refused)) || (inn.isEmpty && s.originRefused p a v.toNat)
      let s0 := unstage p s
      if refused then
        (ms.filterMap (memberWrite p x a v s)).foldl (fun t w => memberEntry w 1 t) (countVerdict p .refused s0)
      else
        let vs := ws.map fun w => (w, w.verdict s)
        let part : Bool := vs.any fun e => decide (e.2 = Verdict.part)
        let none' : Bool := vs.all (fun e => decide (e.2 = Verdict.ignored)) && !vs.isEmpty
        let d : Verdict := if part then .part else if none' then .ignored else .applied
        let s1 := vs.foldl (fun t e => landWrite e.1 e.2 t) (countVerdict p d s0)
        skipped.foldl (fun t w => memberEntry w 4 t) s1

/-! ### Paths (R466, R467) -/

/-- Whether a path can make accesses: the audit logic runs, and a management core is online. -/
def State.pathUp (s : State) (p : Path) : Bool :=
  s.auditRuns && (match p with
    | .aperture _ => true
    | .core n => s.flash.coreMask.getLsbD n.val && (decide (s.dev ≠ .recovery) || decide (n.val = 0))
    | .jtag => s.tapOn)

/-- The path that a waiting command belongs to. -/
def waitsOn : Instr → Option Nat
  | .registerWrite p _ _ => some (pathNo p)
  | .aliasRead p _ => some (pathNo p)
  | .dbgEnable p _ => some (pathNo p)
  | .regApertureAccess _ _ _ _ => some 0
  | .memDataApertureAccess _ _ _ _ _ => some 0
  | .memTableApertureWrite _ _ _ => some 0
  | .regAccess _ => some 9
  | _ => none

/-- Whether an access of a path waits: behind earlier ones of the path (R467), or for a management-only restart to end (R453). -/
def State.pathWaits (s : State) (p : Path) : Bool :=
  (s.audit.stalled.any fun c => decide (waitsOn c = some (pathNo p)))
    || (s.secu.restart && (match p with | .core _ => true | _ => false))

/-- A command waits behind others. -/
def waitBehind (c : Instr) (s : State) : State := { s with audit := { s.audit with stalled := s.audit.stalled ++ [c] } }

/-- The entries that a write needs: one for each member or register, one for a discarded `_LO`, one for a table entry (R311). -/
def State.entriesOf (s : State) (p : Path) (a : Nat) (v : Word) : Nat :=
  let table : Bool := (decide (a = aFabr 0x18) || decide (a = aFabr 0x208)) && v.getLsbD 1
  let n := match findAlias a with
    | some x => max 1 (s.aliasMembers x).length
    | none => match locate a with
      | some l => if l.row.half = .lo ∧ ¬ l.row.readOnly then 0 else 1
      | none => 1
  n + bit (s.discards p a).isSome + bit table

/-- Free slots of the audit ring once the reserve is appended. -/
def State.auditRoom (s : State) : Nat := auditSlots - (s.audit.ring.length + s.audit.reserve.length + bit (s.audit.lostRun != 0))

/-- A write of `v` at register address `a` on a path; `c` is the command that waits if it cannot take effect now. -/
def regWrite (p : Path) (a : Nat) (v : Word) (tok : Option SignedObj) (c : Instr) (s : State) : State :=
  if ¬ s.pathUp p ∨ 2 ^ 27 ≤ a then s
  else if a % 4 ≠ 0 then (match p with | .aperture _ => apErr s | _ => s)
  else if s.pathWaits p ∧ ¬ isAck a then waitBehind c s
  else if s.auditRoom < s.entriesOf p a v ∧ ¬ isAck a then stall c s
  else
    let s1 := discardStaged p a s
    match findAlias a with
    | some x => writeAlias p x a v s1
    | none => writeOne p a v tok s1

/-- A write with no debug token behind it. -/
def writeReg (p : Path) (a : Nat) (v : Word) (s : State) : State := regWrite p a v none (.registerWrite p (BitVec.ofNat 27 a) v) s

/-- What a read returns: a value, or nothing where it is refused (R468). -/
def readOn (p : Path) (a : Nat) (s : State) : State × Option Word :=
  match p with
  | .aperture _ => if s.apertureShut a then (s, none) else let (s1, v) := readValue p a s; (s1, some v)
  | .core _ => let (s1, v) := readValue p a s; (s1, some v)
  | .jtag => if s.secu.caps.getLsbD 0 then (let (s1, v) := readValue p a s; (s1, some v)) else (s, some 0)

/-- A read on a path, its value shown; through the aperture it completes with the value, or with REFUSED. DESIGN CHOICE: log entry 33. -/
def readReg (p : Path) (a : Nat) (c : Instr) (s : State) : State :=
  if ¬ s.pathUp p ∨ 2 ^ 27 ≤ a ∨ a % 4 ≠ 0 then s
  else if s.pathWaits p then waitBehind c s
  else
    let (s1, r) := readOn p a s
    match p, r with
    | .aperture _, some v => s1.emit (.link 0x08 0 0 (BitVec.ofNat 64 a) (leBytes 4 v.toNat))
    | .aperture _, none => apErr (s1.emit (.link 0x08 2 0 (BitVec.ofNat 64 a) []))
    | _, some v => s1.emit (.regRead p v)
    | _, none => s1

/-- REG_APERTURE_ACCESS (R467): a wrong size or alignment completes UNSUPPORTED. -/
def apertureAccess (req : Byte) (addr : Dword) (len : Nat) (write : Option Bytes) (s : State) : State :=
  let c : Instr := .regApertureAccess req addr len write
  let a := addr.toNat
  if ¬ s.auditRuns then s
  else if len ≠ 4 ∨ a % 4 ≠ 0 ∨ 2 ^ 27 ≤ a then apDone write.isSome 1 addr [] (apErr s)
  else match write with
    | some d => regWrite (.aperture req) a (BitVec.ofNat 32 (fieldLe d 0 4)) none c s
    | none => readReg (.aperture req) a c s

/-! ### REG_ACCESS (R497) -/

/-- Whether the last entry since SEQ `n` is a refusal. -/
def State.refusedSince (s : State) (n : Dword) : Bool :=
  decide (s.audit.next ≠ n) && (match s.audit.ring.getLast? with | some e => e.flags.getLsbD 0 | none => false)

/-- The access that REG_ACCESS starts: the data register it leaves. DEDUCED: log entry 29. -/
def jtagAccess (dr : BitVec 72) (s : State) : State :=
  let a := dr.toNat % 2 ^ 27
  let data := BitVec.ofNat 32 (bitsN dr.toNat 63 32)
  let out := fun (d : Word) (refused : Bool) (t : State) =>
    let v := BitVec.ofNat 72 (dr.toNat % 2 ^ 32 + d.toNat * 2 ^ 32 + bit (dr.getLsbD 64) * 2 ^ 64 + 2 ^ 66 + bit refused * 2 ^ 67)
    ({ t with jtag := { t.jtag with dr := v } }).emit (.jtag 72 v)
  let waits := s.audit.stalled.length
  if a % 4 ≠ 0 then out data true s
  else if dr.getLsbD 64 then
    let s1 := regWrite .jtag a data none (.regAccess dr) s
    if s1.audit.stalled.length ≠ waits then s1 else out data (s1.refusedSince s.audit.next) s1
  else if s.pathWaits .jtag then waitBehind (.regAccess dr) s
  else
    let (s1, v) := readOn .jtag a s
    out (v.getD 0) false s1

/-- REG_ACCESS: by CAPS bit 0. -/
def regAccess (dr : BitVec 72) (s : State) : State :=
  if ¬ s.tapOn then s
  else if ¬ s.secu.caps.getLsbD 0 then refuseIr 0x20 (.regAccess dr) s
  else
    let s1 := loadIr 0x20 s
    if dr.getLsbD 65 ∧ s1.auditRuns then jtagAccess dr s1 else { s1 with jtag := { s1.jtag with dr := dr } }

/-! ### Commands that waited (R460) -/

/-- A command that waited takes effect. -/
def replay (c : Instr) (s : State) : State :=
  match c with
  | .registerWrite p a v => regWrite p a.toNat v none c s
  | .aliasRead p a => readReg p a.toNat c s
  | .dbgEnable p t => regWrite p (aSecu 0x38) 1 (some t) c s
  | .regApertureAccess req addr len write => apertureAccess req addr len write s
  | .memDataApertureAccess req addr len write env => dataAccess req addr len write env c s
  | .memTableApertureWrite req addr data => tableWrite req addr data c s
  | .regAccess dr => regAccess dr s
  | .coreDebug => coreDebug s
  | .debugReset b => debugReset b s
  | _ => s

/-- The commands that wait proceed in their order, those without a slot waiting on. -/
def replayStalled (s : State) : State :=
  let cs := s.audit.stalled
  cs.foldl (fun t c => if t.auditRoom = 0 then waitBehind c t else replay c t) { s with audit := { s.audit with stalled := [] } }

/-- AUDIT_SLOT_FREED: the reserve is appended first, then the stalled commands proceed. -/
def slotFreed (s : State) : State :=
  if s.auditFull then s
  else
    let s1 := flushReserve s.audit.reserve.length s
    replayStalled { s1 with audit := { s1.audit with stallRaised := false } }

/-- MGMT_ONLY_RESTART: writes of origin FIRMWARE resume (R453). -/
def restartDone (s : State) : State := if s.secu.restart then replayStalled (mgmtRestarted s) else s

end Sys2Proof.Machine
end

