-- ==== Sys2Proof/Machine/RegCommands.lean ====
section
/-! DEFINITION. The commands that are writes or reads of registers, each with the address and value it stands for (R466 to R479), and
those that let waiting writes go on. A command that sets one bit of a register writes the register's other RW fields as they stand. -/

namespace Sys2Proof.Machine

/-- CTX_CTRL.VALID of a context. -/
def State.validBit (s : State) (c : Nat) : Word := if (s.ctx c).st = .invalid then 0 else 1

/-- CLUS_CTRL.HOLD of a cluster, in its place. -/
def State.holdBit (s : State) (n : Nat) : Word := s.reg (aClus n 0) &&& 2

/-- The RW and RWL fields of PORT_CTRL. -/
def State.portBits (s : State) (p : Nat) : Word := s.reg (aPort p 0) &&& 0x3D

/-- GCTL_ENABLE with one bit changed. DEDUCED: log entry 92. -/
def State.enableWith (s : State) (i : Nat) (on : Bool) : Word :=
  if on then s.reg (aGctl 0x10) ||| ((1 : Word) <<< i) else s.reg (aGctl 0x10) &&& ~~~((1 : Word) <<< i)

/-- CTX_VALID_WRITE (R60). -/
def execCtxValidWrite (path : Path) (ctx : Fin 64) (value : Word) (s : State) : Answer :=
  .next (writeReg path (aCtx ctx 0) value s)
/-- CTX_QUIESCE_BIT (R72): VALID as it stands. -/
def execCtxQuiesceBit (path : Path) (ctx : Fin 64) (s : State) : Answer :=
  .next (writeReg path (aCtx ctx 0) (s.validBit ctx ||| 2) s)
/-- CTX_KILL_BIT (R61, R72): VALID as it stands. -/
def execCtxKillBit (path : Path) (ctx : Fin 64) (s : State) : Answer :=
  .next (writeReg path (aCtx ctx 0) (s.validBit ctx ||| 4) s)
/-- CTX_HTAB_SIZE_WRITE (R60). -/
def execCtxHtabSizeWrite (path : Path) (ctx : Fin 64) (value : Word) (s : State) : Answer :=
  .next (writeReg path (aCtx ctx 0x20) value s)
/-- RING_CTRL_WRITE (R65, R72). -/
def execRingCtrlWrite (path : Path) (ctx : Fin 64) (ring : Fin 8) (value : Word) (s : State) : Answer :=
  .next (writeReg path (aRing ctx ring 8) value s)
/-- RSTC_WDT_KICK (R418). -/
def execRstcWdtKick (path : Path) (value : Word) (s : State) : Answer := .next (writeReg path (aRstc 0x1C) value s)
/-- WDT_EN (R418): SWR_TARGET as it stands. -/
def execWdtEn (path : Path) (s : State) : Answer := .next (writeReg path (aRstc 0x0C) ((s.reg (aRstc 0x0C) &&& 6) ||| 8) s)
/-- SWR (R417): the value carries SWR_TARGET. -/
def execSwr (path : Path) (value : Word) (s : State) : Answer := .next (writeReg path (aRstc 0x0C) (value ||| 1) s)
/-- RSTC_DOMAIN_REQ (R420, R433). -/
def execRstcDomainReq (path : Path) (value : Word) (s : State) : Answer := .next (writeReg path (aRstc 0x10) value s)
/-- CLUS_SRST (R148, R149): HOLD as it stands. -/
def execClusSrst (path : Path) (cluster : Fin 512) (s : State) : Answer :=
  .next (writeReg path (aClus cluster 0) (s.holdBit cluster ||| 1) s)
/-- CLUS_HOLD (R148). -/
def execClusHold (path : Path) (cluster : Fin 512) (hold : Bool) (s : State) : Answer :=
  .next (writeReg path (aClus cluster 0) (if hold then 2 else 0) s)
/-- CLUS_CLR_CNT (R148). -/
def execClusClrCnt (path : Path) (cluster : Fin 512) (s : State) : Answer :=
  .next (writeReg path (aClus cluster 0) (s.holdBit cluster ||| 4) s)
/-- INJECT_ARM (R151). -/
def execInjectArm (path : Path) (cluster : Fin 512) (s : State) : Answer :=
  .next (writeReg path (aClus cluster 0) (s.holdBit cluster ||| 8) s)
/-- CLUS_INJECT_WRITE (R151). -/
def execClusInjectWrite (path : Path) (cluster : Fin 512) (value : Word) (s : State) : Answer :=
  .next (writeReg path (aClus cluster 0x40) value s)
/-- ALIAS_WRITE (R474). -/
def execAliasWrite (path : Path) (addr : BitVec 27) (value : Word) (s : State) : Answer :=
  .next (writeReg path addr.toNat value s)
/-- ALIAS_READ (R475, R476). -/
def execAliasRead (path : Path) (addr : BitVec 27) (s : State) : Answer :=
  .next (readReg path addr.toNat (.aliasRead path addr) s)
/-- HBMC_SRST (R291, R420). -/
def execHbmcSrst (path : Path) (stack : Fin 12) (s : State) : Answer := .next (writeReg path (aHbmc stack 0) 1 s)
/-- RETRAIN_NOW (R291). -/
def execRetrainNow (path : Path) (stack : Fin 12) (s : State) : Answer := .next (writeReg path (aHbmc stack 0) 2 s)
/-- HBMC_CLR_CNT (R291). -/
def execHbmcClrCnt (path : Path) (stack : Fin 12) (s : State) : Answer := .next (writeReg path (aHbmc stack 0) 4 s)
/-- MRGN_SHARE_WRITE (R286). -/
def execMrgnShareWrite (path : Path) (addr : BitVec 27) (value : Word) (s : State) : Answer :=
  .next (writeReg path addr.toNat value s)
/-- PORT_EN (R296): the other fields as they stand. -/
def execPortEn (path : Path) (port : Fin 9) (en : Bool) (s : State) : Answer :=
  .next (writeReg path (aPort port 0) ((s.portBits port &&& ~~~(1 : Word)) ||| (if en then 1 else 0)) s)
/-- PORT_SRST (R319, R420). -/
def execPortSrst (path : Path) (port : Fin 9) (s : State) : Answer :=
  .next (writeReg path (aPort port 0) (s.portBits port ||| 2) s)
/-- PORT_CLR_CNT (R319). -/
def execPortClrCnt (path : Path) (port : Fin 9) (s : State) : Answer :=
  .next (writeReg path (aPort port 0) (s.portBits port ||| 0x40) s)
/-- FABR_EPOCH_WRITE (R329). -/
def execFabrEpochWrite (path : Path) (value : Word) (s : State) : Answer := .next (writeReg path (aFabr 0x200) value s)
/-- FABR_EXC_READ (R342). -/
def execFabrExcRead (path : Path) (s : State) : Answer := .next (writeReg path (aFabr 0x208) 1 s)
/-- FABR_EXC_WRITE (R329). -/
def execFabrExcWrite (path : Path) (s : State) : Answer := .next (writeReg path (aFabr 0x208) 2 s)
/-- FABR_TBL_READ (R311). -/
def execFabrTblRead (path : Path) (s : State) : Answer := .next (writeReg path (aFabr 0x18) 1 s)
/-- FABR_TBL_WRITE (R311). -/
def execFabrTblWrite (path : Path) (s : State) : Answer := .next (writeReg path (aFabr 0x18) 2 s)
/-- FABR_CTX_RANK_WRITE (R310, R318). -/
def execFabrCtxRankWrite (path : Path) (ctx : Fin 64) (value : Word) (s : State) : Answer :=
  .next (writeReg path (aFabr (0x100 + 4 * ctx.val)) value s)
/-- FABR_TIME_STEP (R314): the write of _HI. -/
def execFabrTimeStep (path : Path) (value : Word) (s : State) : Answer := .next (writeReg path (aFabr 0x4C) value s)
/-- BNDY_WIN_CTRL_WRITE (R356). -/
def execBndyWinCtrlWrite (path : Path) (window : Fin 64) (value : Word) (s : State) : Answer :=
  .next (writeReg path (aBndy (0x10C + 16 * window.val)) value s)
/-- DESC_LOAD (R357, R358). -/
def execDescLoad (path : Path) (s : State) : Answer := .next (writeReg path (aBndy 0x18) 1 s)
/-- BNDY_PT_RELEASE (R353). -/
def execBndyPtRelease (path : Path) (value : Word) (s : State) : Answer := .next (writeReg path (aBndy 0x2C) value s)
/-- BNDY_FWP_LOCK (R363, R366): the value carries START. -/
def execBndyFwpLock (path : Path) (range : Fin 8) (value : Word) (s : State) : Answer :=
  .next (writeReg path (aBndy (0x80 + 8 * range.val)) (value ||| 0x80000000) s)
/-- TRPL_RETRAIN (R365): MAX_WIDTH as it stands. -/
def execTrplRetrain (path : Path) (s : State) : Answer := .next (writeReg path (aTrpl 0) ((s.reg (aTrpl 0) &&& 0xC) ||| 1) s)
/-- TRPL_CLR_CNT (R365). -/
def execTrplClrCnt (path : Path) (s : State) : Answer := .next (writeReg path (aTrpl 0) ((s.reg (aTrpl 0) &&& 0xC) ||| 2) s)
/-- COMT_ABORT (R400): EVT_COMMIT as it stands. -/
def execComtAbort (path : Path) (ctx : Fin 64) (s : State) : Answer :=
  .next (writeReg path (aComt ctx 0) ((s.reg (aComt ctx 0) &&& 8) ||| 1) s)
/-- RESOLVE_COMMIT (R384). -/
def execResolveCommit (path : Path) (ctx : Fin 64) (s : State) : Answer :=
  .next (writeReg path (aComt ctx 0) ((s.reg (aComt ctx 0) &&& 8) ||| 2) s)
/-- RESOLVE_ABORT (R384). -/
def execResolveAbort (path : Path) (ctx : Fin 64) (s : State) : Answer :=
  .next (writeReg path (aComt ctx 0) ((s.reg (aComt ctx 0) &&& 8) ||| 4) s)
/-- CAD_INTERRUPT_REPORT (R391): the write of _HI. -/
def execCadInterruptReport (path : Path) (value : Word) (s : State) : Answer := .next (writeReg path (aComtDev 0x28) value s)
/-- TWIN_PAIR (R392). -/
def execTwinPair (path : Path) (s : State) : Answer := .next (writeReg path (aComtDev 0) 1 s)
/-- TWIN_UNPAIR (R393). -/
def execTwinUnpair (path : Path) (s : State) : Answer := .next (writeReg path (aComtDev 0) 2 s)
/-- DETACH (R397). -/
def execDetach (path : Path) (s : State) : Answer := .next (writeReg path (aComtDev 0x14) 1 s)
/-- GCTL_DRAIN (R479). -/
def execGctlDrain (path : Path) (s : State) : Answer := .next (writeReg path (aGctl 0x30) 1 s)
/-- GCTL_UNFENCE (R479). -/
def execGctlUnfence (path : Path) (s : State) : Answer := .next (writeReg path (aGctl 0x30) 2 s)
/-- CLUS_EN (R477): the other enables as they stand. -/
def execClusEn (path : Path) (on : Bool) (s : State) : Answer := .next (writeReg path (aGctl 0x10) (s.enableWith 0 on) s)
/-- FABR_EN (R296, R477). -/
def execFabrEn (path : Path) (on : Bool) (s : State) : Answer := .next (writeReg path (aGctl 0x10) (s.enableWith 2 on) s)
/-- UPLINK_EN (R296, R477). -/
def execUplinkEn (path : Path) (on : Bool) (s : State) : Answer := .next (writeReg path (aGctl 0x10) (s.enableWith 3 on) s)
/-- TWIN_EN (R296, R477). -/
def execTwinEn (path : Path) (on : Bool) (s : State) : Answer := .next (writeReg path (aGctl 0x10) (s.enableWith 4 on) s)
/-- TRPL_EN (R478). -/
def execTrplEn (path : Path) (on : Bool) (s : State) : Answer := .next (writeReg path (aGctl 0x10) (s.enableWith 5 on) s)
/-- GENG_EN (R477). -/
def execGengEn (path : Path) (on : Bool) (s : State) : Answer := .next (writeReg path (aGctl 0x10) (s.enableWith 6 on) s)
/-- GCTL_ACLK_WRITE (R35, R477). -/
def execGctlAclkWrite (path : Path) (value : Word) (s : State) : Answer := .next (writeReg path (aGctl 0x28) value s)
/-- NUMC_LEDGER_RD_WRITE (R241). -/
def execNumcLedgerRdWrite (path : Path) (ctx : Fin 64) (value : Word) (s : State) : Answer :=
  .next (writeReg path (aNumc ctx 0x50) value s)
/-- RNGS_PROBE_START (R260): the write of _HI. -/
def execRngsProbeStart (path : Path) (value : Word) (s : State) : Answer := .next (writeReg path (aProbe 0x14) value s)
/-- RNGS_PROBE_DONE (R260). -/
def execRngsProbeDone (s : State) : Answer := .next (probeDone s)
/-- SECU_LOAD (R443, R463): the value carries TARGET. -/
def execSecuLoad (path : Path) (value : Word) (s : State) : Answer := .next (writeReg path (aSecu 0x1C) (value ||| 1) s)
/-- ACTIVATE (R453). -/
def execActivate (path : Path) (s : State) : Answer := .next (writeReg path (aSecu 0x24) 1 s)
/-- CONFIRM (R453). -/
def execConfirm (path : Path) (s : State) : Answer := .next (writeReg path (aSecu 0x24) 2 s)
/-- MGMT_ONLY_RESTART (R417, R453). -/
def execMgmtOnlyRestart (s : State) : Answer := .next (restartDone s)
/-- QUOTE_GO (R451): the value carries CERTS. -/
def execQuoteGo (path : Path) (value : Word) (s : State) : Answer := .next (writeReg path (aSecu 0x30) (value ||| 1) s)
/-- DBG_ENABLE (R452). -/
def execDbgEnable (path : Path) (token : SignedObj) (s : State) : Answer :=
  .next (regWrite path (aSecu 0x38) 1 (some token) (.dbgEnable path token) s)
/-- DBG_REVOKE (R452). -/
def execDbgRevoke (path : Path) (s : State) : Answer := .next (writeReg path (aSecu 0x38) 2 s)
/-- AUDIT_SLOT_FREED (R460). -/
def execAuditSlotFreed (s : State) : Answer := .next (slotFreed s)
/-- AUDT_ACK_SEQ_WRITE (R459, R460): the write of _HI. -/
def execAudtAckSeqWrite (path : Path) (value : Word) (s : State) : Answer := .next (writeReg path (aAudt 0x2C) value s)
/-- AUDT_RD_SEQ_WRITE (R464): the write of _HI. -/
def execAudtRdSeqWrite (path : Path) (value : AuditFetch) (s : State) : Answer :=
  let s1 := writeReg path (aAudt 0x54) value.value { s with audit := { s.audit with rdUe := value.ue } }
  .next { s1 with audit := { s1.audit with rdUe := false } }
/-- REGISTER_WRITE (R466). -/
def execRegisterWrite (path : Path) (addr : BitVec 27) (value : Word) (s : State) : Answer :=
  .next (writeReg path addr.toNat value s)
/-- REG_APERTURE_ACCESS (R467). -/
def execRegApertureAccess (req : Byte) (addr : Dword) (len : Nat) (write : Option Bytes) (s : State) : Answer :=
  .next (apertureAccess req addr len write s)
/-- REG_ACCESS (R497). -/
def execRegAccess (dr : BitVec 72) (s : State) : Answer := .next (regAccess dr s)

end Sys2Proof.Machine
end

