-- ==== Sys2Proof/Machine/Repeat.lean ====
section
/-! DEFINITION. The repeat of a group instance (R220 to R223): what attempt 0 wrote is dropped, the masters of copies are
converted into their shadows, and the repeat set runs again at the repeat level. -/

namespace Sys2Proof.Machine

/-- Drop what attempt 0 of a task wrote: bytes and versions (R223 step 2). -/
def dropAttempt (t : Task) (s : State) : State :=
  let s1 := putBack t.undo s
  let c := t.ref.ctx.val
  s1.setCtx c (t.undoVers.foldl (fun x u => x.setVer u.1 u.2) (s1.ctx c))

/-- The master of a copy converted for the repeat (R222): its tiles in the copy's shadow. -/
def convertMaster (env : Env) (t : Task) (r : CopyRec) (o : Tensor) : Run Unit := do
  let c := t.ref.ctx.val
  let q := QSpec.ofBytes r.params
  let s ← getS
  match s.commTensor c r.master with
  | none => stop stAccess dNone
  | some m => do
    let (w, _) ← readMat env t.who 1 1 m
    let src := if r.turned then w.turn m.rows m.cols else w
    let rs := s.stream c q.rotStream false
    let imgs ← if t.level = 2 then
        pure (wideConvert q.rot (s.seed c) rs q.ctrHi src o.rows o.cols none).1
      else do
        let table : Slot := { valid := r.table.isSome, reduce := false, handle := r.table.getD 0 }
        let entry ← slotEntry env t 1 1 table q.slot
        pure (convert o.loc.fmt q entry (outlierFor o.loc.fmt false q) (s.seed c) rs (s.stream c q.srStream false) src
          o.rows o.cols none).out.tiles
    let _ ← writeTiles env t.who o.loc imgs false

/-- The conversions of the repeat, each copy once: a copy that could not be converted fails the products that read it. -/
def convertMasters (env : Env) (c : Nat) (ts : List Task) (s : State) : State :=
  let jobs := ts.flatMap fun t => [t.d.inp 0, t.d.inp 1].filterMap fun x => (s.repeatCopy t x.handle).map fun e => (t, x.handle, e)
  let once := jobs.foldl (fun (l : List (Task × Nat × CopyRec × Tensor)) j =>
    if l.any fun k => k.2.1 = j.2.1 then l else l ++ [j]) []
  once.foldl (fun u j =>
    let (r, u1) := (convertMaster env j.1 j.2.2.1 j.2.2.2).run u
    match r with
    | .ok _ => u1
    | .error e =>
      match e.kill with
      | some k => killCtx c k u1
      | none =>
        (ts.filter fun t => t.isProduct && t.reads.contains j.2.1).foldl (fun v t => endTask t e.status dInherited v) u1) s

/-- A task of a repeat set as it runs again. -/
def Task.again (t : Task) (level : Nat) : Task :=
  { t with st := .queued, attempt := 1, superseded := false, level := level, undo := [], undoVers := [], trips := 0, held := none,
           cluster := none, engine := none, ledger := none, res := Result.empty, pip := [] }

/-- Attempt 0 of a task is superseded (R223, R233): its TASK record is marked, a check that runs goes on as SUPERSEDED, and one that has not
started is skipped. -/
def supersede (t : Task) (s : State) : State :=
  let s1 := skipPips t (markSuperseded t s)
  let x := s1.ctx t.ref.ctx
  s1.setCtx t.ref.ctx
    { x with pipRuns := x.pipRuns.map fun e => if e.1.order = t.order then (e.1, { e.2 with dropped := true }) else e }

/-- LAYER_REPEAT (R223 step 3): it fires once no attempt-0 task of the instance runs. -/
def layerRepeat (c : Nat) (r : Fin 4) (seg : Word) (layer : BitVec 16) (env : Env) (s : State) : State :=
  let x := s.ctx c
  match x.groups.find? fun g => decide (g.ring = r ∧ g.seg = seg ∧ g.layer = layer) && g.due with
  | none => s
  | some g =>
    let ts := x.repeatSet g
    if ¬ x.st.isActive ∨ ts.any fun t => decide (t.st = .issued ∨ t.st = .waiting ∨ t.st = .ran) then s
    else
      let s1 := ts.reverse.foldl (fun u t => dropAttempt t u) s
      let again := fun (t : Task) => t.again g.level
      let s2 := ts.foldl (fun u t => supersede t u) s1
      let x1 := s2.ctx c
      let x2 : Ctx := { x1 with tasks := x1.tasks.map fun t => if ts.any fun u => u.order = t.order then again t else t }
      let s3 := s2.setCtx c (x2.setGroup { g with due := false, attempt := 1 })
      convertMasters env c (ts.map again) s3

/-- LAYER_REPEAT. -/
def execLayerRepeat (ctx : Fin 64) (ring : Fin 4) (seg : Word) (layer : BitVec 16) (env : Env) (s : State) : Answer :=
  .next (layerRepeat ctx ring seg layer env s)

end Sys2Proof.Machine
end

