-- ==== Sys2Proof/Machine/Dispatch.lean ====
section
/-! DEFINITION. What each command does: one arm per constructor, one call of its meaning. -/

namespace Sys2Proof.Machine

def exec (i : Instr) (s : State) : Host.Outcome State Fault Refusal :=
  match i with
  | .standbyPowerUp => Sys2Proof.Machine.execStandbyPowerUp s
  | .modPwrEnRise => Sys2Proof.Machine.execModPwrEnRise s
  | .porRelease straps => Sys2Proof.Machine.execPorRelease straps s
  | .modPwrEnFall => Sys2Proof.Machine.execModPwrEnFall s
  | .brownOut => Sys2Proof.Machine.execBrownOut s
  | .brownOutRecovery => Sys2Proof.Machine.execBrownOutRecovery s
  | .railFault => Sys2Proof.Machine.execRailFault s
  | .modResetNAssert => Sys2Proof.Machine.execModResetNAssert s
  | .modResetNRelease => Sys2Proof.Machine.execModResetNRelease s
  | .dbgReqNAssert => Sys2Proof.Machine.execDbgReqNAssert s
  | .dbgReqNRelease => Sys2Proof.Machine.execDbgReqNRelease s
  | .clockFailure net => Sys2Proof.Machine.execClockFailure net s
  | .refclkRestored => Sys2Proof.Machine.execRefclkRestored s
  | .start env => Sys2Proof.Machine.execStart env s
  | .startComplete => Sys2Proof.Machine.execStartComplete s
  | .startTimerExpire => Sys2Proof.Machine.execStartTimerExpire s
  | .recoveryPowerCycle => Sys2Proof.Machine.execRecoveryPowerCycle s
  | .recoveryPowerUp => Sys2Proof.Machine.execRecoveryPowerUp s
  | .spineFlitReceived link crcOk => Sys2Proof.Machine.execSpineFlitReceived link crcOk s
  | .spineLinkDown link => Sys2Proof.Machine.execSpineLinkDown link s
  | .trplFlitReceived flit => Sys2Proof.Machine.execTrplFlitReceived flit s
  | .trplReplayTimeout => Sys2Proof.Machine.execTrplReplayTimeout s
  | .trplRetrainDone laneFail => Sys2Proof.Machine.execTrplRetrainDone laneFail s
  | .trplDownTimer => Sys2Proof.Machine.execTrplDownTimer s
  | .snoop line invalidate => Sys2Proof.Machine.execSnoop line invalidate s
  | .gengPollExpire => Sys2Proof.Machine.execGengPollExpire s
  | .rdSharedDone ctx ring data => Sys2Proof.Machine.execRdSharedDone ctx ring data s
  | .completion tag status data => Sys2Proof.Machine.execCompletion tag status data s
  | .regApertureAccess req addr len write => Sys2Proof.Machine.execRegApertureAccess req addr len write s
  | .memDataApertureAccess req addr len write env => Sys2Proof.Machine.execMemDataApertureAccess req addr len write env s
  | .memTableApertureWrite req addr data => Sys2Proof.Machine.execMemTableApertureWrite req addr data s
  | .segment ctx ring => Sys2Proof.Machine.execSegment ctx ring s
  | .nop ctx ring => Sys2Proof.Machine.execNop ctx ring s
  | .segmentValidate ctx ring table env => Sys2Proof.Machine.execSegmentValidate ctx ring table env s
  | .predicateDecide ctx ring seg => Sys2Proof.Machine.execPredicateDecide ctx ring seg s
  | .sqResume ctx => Sys2Proof.Machine.execSqResume ctx s
  | .taskIssue task cluster => Sys2Proof.Machine.execTaskIssue task cluster s
  | .matmul task env => Sys2Proof.Machine.execMatmul task env s
  | .matvec task env => Sys2Proof.Machine.execMatvec task env s
  | .quantize task env => Sys2Proof.Machine.execQuantize task env s
  | .oplist task env => Sys2Proof.Machine.execOplist task env s
  | .rmsnormFwd task env => Sys2Proof.Machine.execRmsnormFwd task env s
  | .rmsnormBwd task env => Sys2Proof.Machine.execRmsnormBwd task env s
  | .layernormFwd task env => Sys2Proof.Machine.execLayernormFwd task env s
  | .layernormBwd task env => Sys2Proof.Machine.execLayernormBwd task env s
  | .softmaxFwd task env => Sys2Proof.Machine.execSoftmaxFwd task env s
  | .softmaxBwd task env => Sys2Proof.Machine.execSoftmaxBwd task env s
  | .compress task env => Sys2Proof.Machine.execCompress task env s
  | .norm task env => Sys2Proof.Machine.execNorm task env s
  | .update task env => Sys2Proof.Machine.execUpdate task env s
  | .requant task env => Sys2Proof.Machine.execRequant task env s
  | .allReduce task env => Sys2Proof.Machine.execAllReduce task env s
  | .reduceScatter task env => Sys2Proof.Machine.execReduceScatter task env s
  | .allGather task env => Sys2Proof.Machine.execAllGather task env s
  | .broadcast task env => Sys2Proof.Machine.execBroadcast task env s
  | .allToAll task env => Sys2Proof.Machine.execAllToAll task env s
  | .send task env => Sys2Proof.Machine.execSend task env s
  | .fetch task env => Sys2Proof.Machine.execFetch task env s
  | .colWindowOpen task => Sys2Proof.Machine.execColWindowOpen task s
  | .copy task env => Sys2Proof.Machine.execCopy task env s
  | .event task => Sys2Proof.Machine.execEvent task s
  | .waitCounter task => Sys2Proof.Machine.execWaitCounter task s
  | .waitTimeout task => Sys2Proof.Machine.execWaitTimeout task s
  | .waitTime task => Sys2Proof.Machine.execWaitTime task s
  | .taskComplete task clusterNs => Sys2Proof.Machine.execTaskComplete task clusterNs s
  | .layerRepeat ctx ring seg layer env => Sys2Proof.Machine.execLayerRepeat ctx ring seg layer env s
  | .taskOverrun task => Sys2Proof.Machine.execTaskOverrun task s
  | .rampGrant quire => Sys2Proof.Machine.execRampGrant quire s
  | .defineHandle ctx => Sys2Proof.Machine.execDefineHandle ctx s
  | .shareHandle ctx => Sys2Proof.Machine.execShareHandle ctx s
  | .dropHandle ctx => Sys2Proof.Machine.execDropHandle ctx s
  | .cancel ctx => Sys2Proof.Machine.execCancel ctx s
  | .dataCursor ctx => Sys2Proof.Machine.execDataCursor ctx s
  | .loadFunction ctx image env => Sys2Proof.Machine.execLoadFunction ctx image env s
  | .setSlot ctx => Sys2Proof.Machine.execSetSlot ctx s
  | .realign ctx => Sys2Proof.Machine.execRealign ctx s
  | .quiesce ctx => Sys2Proof.Machine.execQuiesce ctx s
  | .echo ctx => Sys2Proof.Machine.execEcho ctx s
  | .adminDeferredEffect ctx => Sys2Proof.Machine.execAdminDeferredEffect ctx s
  | .quiesceDone ctx => Sys2Proof.Machine.execQuiesceDone ctx s
  | .contextRelease ctx => Sys2Proof.Machine.execContextRelease ctx s
  | .ctxValidWrite path ctx value => Sys2Proof.Machine.execCtxValidWrite path ctx value s
  | .ctxQuiesceBit path ctx => Sys2Proof.Machine.execCtxQuiesceBit path ctx s
  | .ctxKillBit path ctx => Sys2Proof.Machine.execCtxKillBit path ctx s
  | .ctxHtabSizeWrite path ctx value => Sys2Proof.Machine.execCtxHtabSizeWrite path ctx value s
  | .ringCtrlWrite path ctx ring value => Sys2Proof.Machine.execRingCtrlWrite path ctx ring value s
  | .msiTimerExpire ctx ring => Sys2Proof.Machine.execMsiTimerExpire ctx ring s
  | .pipCheck task tile cluster run => Sys2Proof.Machine.execPipCheck task tile cluster run s
  | .crosscheck seenA seenB abftA abftB ns => Sys2Proof.Machine.execCrosscheck seenA seenB abftA abftB ns s
  | .abftDecision task third sums => Sys2Proof.Machine.execAbftDecision task third sums s
  | .crosscheckDecision third agreesA agreesB abft => Sys2Proof.Machine.execCrosscheckDecision third agreesA agreesB abft s
  | .pipHardDecision task third identical withinH => Sys2Proof.Machine.execPipHardDecision task third identical withinH s
  | .plausibilityDecision task second third equalEach equalOriginal => Sys2Proof.Machine.execPlausibilityDecision task second third equalEach equalOriginal s
  | .decisionTimeout id => Sys2Proof.Machine.execDecisionTimeout id s
  | .tcsRateTrip => Sys2Proof.Machine.execTcsRateTrip s
  | .chipDrained trigger suspects => Sys2Proof.Machine.execChipDrained trigger suspects s
  | .drainComplete => Sys2Proof.Machine.execDrainComplete s
  | .diagnosis reproduced spareOk ms => Sys2Proof.Machine.execDiagnosis reproduced spareOk ms s
  | .coreDoubleFault core => Sys2Proof.Machine.execCoreDoubleFault core s
  | .mgmtTransactionTimeout => Sys2Proof.Machine.execMgmtTransactionTimeout s
  | .wdtExpire => Sys2Proof.Machine.execWdtExpire s
  | .rstcWdtKick path value => Sys2Proof.Machine.execRstcWdtKick path value s
  | .wdtEn path => Sys2Proof.Machine.execWdtEn path s
  | .swr path value => Sys2Proof.Machine.execSwr path value s
  | .rstcDomainReq path value => Sys2Proof.Machine.execRstcDomainReq path value s
  | .domainFence id => Sys2Proof.Machine.execDomainFence id s
  | .drainLimitExpire id answered => Sys2Proof.Machine.execDrainLimitExpire id answered s
  | .resetRecordWritten id written => Sys2Proof.Machine.execResetRecordWritten id written s
  | .domainPartReady id trained => Sys2Proof.Machine.execDomainPartReady id trained s
  | .resetBoundExpire id => Sys2Proof.Machine.execResetBoundExpire id s
  | .clusSrst path cluster => Sys2Proof.Machine.execClusSrst path cluster s
  | .clusHold path cluster hold => Sys2Proof.Machine.execClusHold path cluster hold s
  | .clusClrCnt path cluster => Sys2Proof.Machine.execClusClrCnt path cluster s
  | .injectArm path cluster => Sys2Proof.Machine.execInjectArm path cluster s
  | .clusInjectWrite path cluster value => Sys2Proof.Machine.execClusInjectWrite path cluster value s
  | .aliasWrite path addr value => Sys2Proof.Machine.execAliasWrite path addr value s
  | .aliasRead path addr => Sys2Proof.Machine.execAliasRead path addr s
  | .hbmcSrst path stack => Sys2Proof.Machine.execHbmcSrst path stack s
  | .retrainNow path stack => Sys2Proof.Machine.execRetrainNow path stack s
  | .hbmcClrCnt path stack => Sys2Proof.Machine.execHbmcClrCnt path stack s
  | .hbmRetrainDue stack channel => Sys2Proof.Machine.execHbmRetrainDue stack channel s
  | .hbmTrainingSlot stack channel ok shift temp => Sys2Proof.Machine.execHbmTrainingSlot stack channel ok shift temp s
  | .rowRepair stack row uncorrectable spareLeft => Sys2Proof.Machine.execRowRepair stack row uncorrectable spareLeft s
  | .frameRetire stack frame noSpareRow => Sys2Proof.Machine.execFrameRetire stack frame noSpareRow s
  | .frameCopyDone stack filled us => Sys2Proof.Machine.execFrameCopyDone stack filled us s
  | .recalibration => Sys2Proof.Machine.execRecalibration s
  | .mrgnWindow usedStack usedQuire limited => Sys2Proof.Machine.execMrgnWindow usedStack usedQuire limited s
  | .mrgnDeadlineExpire activity party => Sys2Proof.Machine.execMrgnDeadlineExpire activity party s
  | .mrgnShareWrite path addr value => Sys2Proof.Machine.execMrgnShareWrite path addr value s
  | .portEn path port en => Sys2Proof.Machine.execPortEn path port en s
  | .portSrst path port => Sys2Proof.Machine.execPortSrst path port s
  | .portClrCnt path port => Sys2Proof.Machine.execPortClrCnt path port s
  | .portTrainingDone port laneFail partner => Sys2Proof.Machine.execPortTrainingDone port laneFail partner s
  | .pcsLockLoss port => Sys2Proof.Machine.execPcsLockLoss port s
  | .ucwLimitExceeded port count => Sys2Proof.Machine.execUcwLimitExceeded port count s
  | .portRetrainTimer port => Sys2Proof.Machine.execPortRetrainTimer port s
  | .nativeFrameReceived port frame rx => Sys2Proof.Machine.execNativeFrameReceived port frame rx s
  | .routedFrameReceived port frame => Sys2Proof.Machine.execRoutedFrameReceived port frame s
  | .ptpMessage port sent kind offset => Sys2Proof.Machine.execPtpMessage port sent kind offset s
  | .v0FrameForward port frame => Sys2Proof.Machine.execV0FrameForward port frame s
  | .linkTransmit port credits => Sys2Proof.Machine.execLinkTransmit port credits s
  | .dwellExpire port index => Sys2Proof.Machine.execDwellExpire port index s
  | .tileWrite => Sys2Proof.Machine.execTileWrite s
  | .memWrite => Sys2Proof.Machine.execMemWrite s
  | .readReq env => Sys2Proof.Machine.execReadReq env s
  | .readData => Sys2Proof.Machine.execReadData s
  | .ack => Sys2Proof.Machine.execAck s
  | .nack => Sys2Proof.Machine.execNack s
  | .colData => Sys2Proof.Machine.execColData s
  | .colGrant => Sys2Proof.Machine.execColGrant s
  | .vote => Sys2Proof.Machine.execVote s
  | .pairHello => Sys2Proof.Machine.execPairHello s
  | .pairConfirm => Sys2Proof.Machine.execPairConfirm s
  | .heartbeat => Sys2Proof.Machine.execHeartbeat s
  | .heartbeatSend => Sys2Proof.Machine.execHeartbeatSend s
  | .twinLost => Sys2Proof.Machine.execTwinLost s
  | .ctlMsg => Sys2Proof.Machine.execCtlMsg s
  | .opTimerExpire op => Sys2Proof.Machine.execOpTimerExpire op s
  | .flowEvict send index => Sys2Proof.Machine.execFlowEvict send index s
  | .fabrEpochWrite path value => Sys2Proof.Machine.execFabrEpochWrite path value s
  | .epochSwitch => Sys2Proof.Machine.execEpochSwitch s
  | .fabrExcRead path => Sys2Proof.Machine.execFabrExcRead path s
  | .fabrExcWrite path => Sys2Proof.Machine.execFabrExcWrite path s
  | .fabrTblRead path => Sys2Proof.Machine.execFabrTblRead path s
  | .fabrTblWrite path => Sys2Proof.Machine.execFabrTblWrite path s
  | .fabrCtxRankWrite path ctx value => Sys2Proof.Machine.execFabrCtxRankWrite path ctx value s
  | .fabrTimeStep path value => Sys2Proof.Machine.execFabrTimeStep path value s
  | .ppsEdge => Sys2Proof.Machine.execPpsEdge s
  | .ppsLost => Sys2Proof.Machine.execPpsLost s
  | .ptpLost => Sys2Proof.Machine.execPtpLost s
  | .bndyWinCtrlWrite path window value => Sys2Proof.Machine.execBndyWinCtrlWrite path window value s
  | .winPendingClear => Sys2Proof.Machine.execWinPendingClear s
  | .descLoad path => Sys2Proof.Machine.execDescLoad path s
  | .descLoadDone descriptor sigOk => Sys2Proof.Machine.execDescLoadDone descriptor sigOk s
  | .bndyPtRelease path value => Sys2Proof.Machine.execBndyPtRelease path value s
  | .bndyFwpLock path range value => Sys2Proof.Machine.execBndyFwpLock path range value s
  | .thermalClampTick sensors alertLow => Sys2Proof.Machine.execThermalClampTick sensors alertLow s
  | .trplRetrain path => Sys2Proof.Machine.execTrplRetrain path s
  | .trplClrCnt path => Sys2Proof.Machine.execTrplClrCnt path s
  | .stepEnd task env => Sys2Proof.Machine.execStepEnd task env s
  | .voteTimeout ctx child => Sys2Proof.Machine.execVoteTimeout ctx child s
  | .voteResend ctx => Sys2Proof.Machine.execVoteResend ctx s
  | .inDoubt ctx => Sys2Proof.Machine.execInDoubt ctx s
  | .quietExpire ctx => Sys2Proof.Machine.execQuietExpire ctx s
  | .comtAbort path ctx => Sys2Proof.Machine.execComtAbort path ctx s
  | .resolveCommit path ctx => Sys2Proof.Machine.execResolveCommit path ctx s
  | .resolveAbort path ctx => Sys2Proof.Machine.execResolveAbort path ctx s
  | .checkpointWrite task env => Sys2Proof.Machine.execCheckpointWrite task env s
  | .checkpointRestore task image found readable => Sys2Proof.Machine.execCheckpointRestore task image found readable s
  | .checkpointRestoreLocal task => Sys2Proof.Machine.execCheckpointRestoreLocal task s
  | .ckpLayerDurable task layer ok ms => Sys2Proof.Machine.execCkpLayerDurable task layer ok ms s
  | .cadInterruptReport path value => Sys2Proof.Machine.execCadInterruptReport path value s
  | .twinPair path => Sys2Proof.Machine.execTwinPair path s
  | .twinUnpair path => Sys2Proof.Machine.execTwinUnpair path s
  | .detach path => Sys2Proof.Machine.execDetach path s
  | .detachConfirmed => Sys2Proof.Machine.execDetachConfirmed s
  | .gctlDrain path => Sys2Proof.Machine.execGctlDrain path s
  | .gctlUnfence path => Sys2Proof.Machine.execGctlUnfence path s
  | .clusEn path on => Sys2Proof.Machine.execClusEn path on s
  | .fabrEn path on => Sys2Proof.Machine.execFabrEn path on s
  | .uplinkEn path on => Sys2Proof.Machine.execUplinkEn path on s
  | .twinEn path on => Sys2Proof.Machine.execTwinEn path on s
  | .trplEn path on => Sys2Proof.Machine.execTrplEn path on s
  | .gengEn path on => Sys2Proof.Machine.execGengEn path on s
  | .gctlAclkWrite path value => Sys2Proof.Machine.execGctlAclkWrite path value s
  | .aclkGlideDone => Sys2Proof.Machine.execAclkGlideDone s
  | .numcLedgerRdWrite path ctx value => Sys2Proof.Machine.execNumcLedgerRdWrite path ctx value s
  | .rngsProbeStart path value => Sys2Proof.Machine.execRngsProbeStart path value s
  | .rngsProbeDone => Sys2Proof.Machine.execRngsProbeDone s
  | .secuLoad path value => Sys2Proof.Machine.execSecuLoad path value s
  | .secuLoadDone object => Sys2Proof.Machine.execSecuLoadDone object s
  | .activate path => Sys2Proof.Machine.execActivate path s
  | .confirm path => Sys2Proof.Machine.execConfirm path s
  | .confirmTimeout => Sys2Proof.Machine.execConfirmTimeout s
  | .mgmtOnlyRestart => Sys2Proof.Machine.execMgmtOnlyRestart s
  | .quoteGo path value => Sys2Proof.Machine.execQuoteGo path value s
  | .quoteDone => Sys2Proof.Machine.execQuoteDone s
  | .dbgEnable path token => Sys2Proof.Machine.execDbgEnable path token s
  | .dbgRevoke path => Sys2Proof.Machine.execDbgRevoke path s
  | .dbgExpire => Sys2Proof.Machine.execDbgExpire s
  | .auditDrain => Sys2Proof.Machine.execAuditDrain s
  | .auditSlotFreed => Sys2Proof.Machine.execAuditSlotFreed s
  | .audtAckSeqWrite path value => Sys2Proof.Machine.execAudtAckSeqWrite path value s
  | .audtRdSeqWrite path value => Sys2Proof.Machine.execAudtRdSeqWrite path value s
  | .registerWrite path addr value => Sys2Proof.Machine.execRegisterWrite path addr value s
  | .domainDrainEnd id => Sys2Proof.Machine.execDomainDrainEnd id s
  | .rowSpared stack => Sys2Proof.Machine.execRowSpared stack s
  | .runEnd cluster => Sys2Proof.Machine.execRunEnd cluster s
  | .hbmHot stack temp => Sys2Proof.Machine.execHbmHot stack temp s
  | .regAccess dr => Sys2Proof.Machine.execRegAccess dr s
  | .debugReset bit => Sys2Proof.Machine.execDebugReset bit s
  | .bypass code => Sys2Proof.Machine.execBypass code s
  | .standbyRailOff => Sys2Proof.Machine.execStandbyRailOff s
  | .smbIdentity => Sys2Proof.Machine.execSmbIdentity s
  | .smbState => Sys2Proof.Machine.execSmbState s
  | .smbStartRecord => Sys2Proof.Machine.execSmbStartRecord s
  | .smbHealth => Sys2Proof.Machine.execSmbHealth s
  | .smbResetCause => Sys2Proof.Machine.execSmbResetCause s
  | .smbTemperature => Sys2Proof.Machine.execSmbTemperature s
  | .smbPower => Sys2Proof.Machine.execSmbPower s
  | .smbAlertStatus => Sys2Proof.Machine.execSmbAlertStatus s
  | .smbRecovery => Sys2Proof.Machine.execSmbRecovery s
  | .smbAuditHead => Sys2Proof.Machine.execSmbAuditHead s
  | .alertResponseAddress => Sys2Proof.Machine.execAlertResponseAddress s
  | .idcode => Sys2Proof.Machine.execIdcode s
  | .samplePreload => Sys2Proof.Machine.execSamplePreload s
  | .extest => Sys2Proof.Machine.execExtest s
  | .extestPulse => Sys2Proof.Machine.execExtestPulse s
  | .extestTrain => Sys2Proof.Machine.execExtestTrain s
  | .clamp => Sys2Proof.Machine.execClamp s
  | .highz => Sys2Proof.Machine.execHighz s
  | .coreDebug => Sys2Proof.Machine.execCoreDebug s
  | .securityStatus => Sys2Proof.Machine.execSecurityStatus s
  | .testLogicReset => Sys2Proof.Machine.execTestLogicReset s

end Sys2Proof.Machine
end

