-- ==== Sys2Proof/Machine/Idle.lean ====
section
/-! DEFINITION. What the block does by itself when no command waits: TIME counts and the management cores read a message. -/

namespace Sys2Proof.Machine

/-- Whether TIME runs: domain D2 is out of reset (R314, R420). -/
def State.timeRuns (s : State) : Bool := s.power.porDone && !s.power.heldPin

/-- Whether the management cores read their message queue: they run, and are not restarting (R328, R453). -/
def State.coresRun (s : State) : Bool := s.power.porDone && !s.secu.restart

/-- What TIME has run after a nominal nanosecond, in 10^-12 ns: its rate follows FABR_TIME_FREQ, signed, in parts per 10^12 (R314). -/
def State.timeRun (s : State) : Nat := (s.fabric.timeFrac + 10 ^ 12 + (s.reg (aFabr 0x50)).toInt).toNat

/-- One nominal nanosecond with no command (R18, R314). DESIGN CHOICE: log entry 1. -/
def idle (s : State) : State :=
  let f := { s.fabric with mgmt := if s.coresRun then s.fabric.mgmt.tail else s.fabric.mgmt }
  if s.timeRuns then
    { s with time := s.time + BitVec.ofNat 64 (s.timeRun / 10 ^ 12), fabric := { f with timeFrac := s.timeRun % 10 ^ 12 } }
  else { s with fabric := f }

end Sys2Proof.Machine
end

