-- ==== Sys2Proof/Safety.lean ====
section
/-! DEFINITION. What a safe run is, and what every state of one keeps: HBM and the register file in canonical form, the ring of
the audit ledger in one chain, and a device state reached by a move of R38. -/

namespace Sys2Proof.Machine

/-- A step is safe when the machine goes on: no fault, no refusal. -/
def Safe (o : Host.Outcome State Fault Refusal) : Prop := ∃ t, o = .next t

/-- The register file in canonical form. -/
def State.regsWf (s : State) : Bool := NMap.wf regReset s.regs

/-- Whether `e'` comes next after `e` in the ledger: its SEQ is one more and its CHAIN is computed from that of `e` (R456, R458). -/
def AuditEntry.follows (e e' : AuditEntry) : Bool :=
  decide (e'.seq = e.seq + 1) && decide (e'.chain = chainNext e.chain e')

/-- Entries each of which follows the one before it. -/
def linked : List AuditEntry → Bool
  | [] => true
  | e :: t => (match t with | [] => true | e' :: _ => e.follows e') && linked t

/-- The ring is one chain, and the next entry will follow its last. -/
def Audit.chained (a : Audit) : Bool :=
  linked a.ring && (match a.ring.getLast? with
    | none => true
    | some e => decide (a.next = e.seq + 1) && decide (a.chain = e.chain))

/-- The moves between device states (R38). -/
def DevState.mayMove : DevState → DevState → Bool
  | _, .off => true
  | .off, .coldStart => true
  | .off, _ => false
  | _, .coldStart => true
  | _, .warmStart => true
  | .coldStart, .ready => true
  | .warmStart, .ready => true
  | .coldStart, .recovery => true
  | .warmStart, .recovery => true
  | .ready, .active => true
  | .ready, .fenced => true
  | .active, .ready => true
  | .active, .draining => true
  | .draining, .fenced => true
  | .fenced, .ready => true
  | .fenced, .detached => true
  | _, _ => false

/-- The device came to its state by a move of R38, or has not moved yet. -/
def State.moved (s : State) : Bool := decide (s.dev = s.prev) || s.prev.mayMove s.dev

/-- The keys of the tables that hold contexts, clusters, stacks, paths and ports rise strictly: each is listed once. -/
def State.keysRise (s : State) : Bool :=
  NMap.rising 0 s.ctxs && NMap.rising 0 s.clusters && NMap.rising 0 s.hbm && NMap.rising 0 s.paths && NMap.rising 0 s.fabric.ports

/-- What every step keeps. -/
def State.inv (s : State) : Bool := Memory.wf s.mem && s.regsWf && s.keysRise && s.audit.chained && s.moved

/-! ### Values of codes -/

/-- The magnitude of a finite code, as a multiple of 2^q for a `q` below its exponent. -/
def codeUnits (k : FFmt) (q : Int) (c : Nat) : Nat :=
  match k.dec c with
  | .fin _ m e => m <<< (e - q).toNat
  | _ => 0

/-! ### What recording leaves alone -/

/-- Whether a register is one of the counters that recording itself moves: AUDT_LOST, BNDY_VIOLATIONS, and those of a context's
lost events (R68, R355, R460). -/
def recordReg (a : Nat) : Bool :=
  [0x20040, 0x20044, 0x40008, 0x4000C].contains a || (decide (0x100000 ≤ a) && (a % 0x400 == 0x30 || a % 0x400 == 0x34))

/-- From `s` to `t` events are raised, entries appended and counters counted, and nothing else happens: beside the audit logic, the
outputs, the counters (those of recording, and those at the addresses `k`), and each context's rings, event buffer and LOST, all of
`t` is as in `s`. -/
structure Recorded (k : List Nat) (s t : State) : Prop where
  frame : ∃ r a c o, t = { s with regs := r, audit := a, ctxs := c, outputs := o }
  regs : s.regsWf = true → ∀ a, recordReg a = false → a ∉ k → t.reg a = s.reg a
  ctxs : s.keysRise = true → ∀ c, ∃ g b l, t.ctx c = { s.ctx c with rings := g, evBuf := b, evLost := l }
  outs : s.outputs <+: t.outputs

/-! ### When a write takes effect at once -/

/-- A write of `v` at `a` on path `p` takes effect when it comes: the path makes accesses and nothing of it waits, no staged `_LO` is
discarded by it, the ring has slots (64, more than any alias has members of ports or stacks) with nothing before it in the reserve, and
the register does not refuse the path's origin (R460, R466, R468, R472). -/
structure State.Takes (s : State) (p : Path) (a : Nat) (v : Word) : Prop where
  up : s.pathUp p = true
  waits : s.pathWaits p = false
  kept : s.discards p a = none
  reserve : s.audit.reserve = []
  gapless : s.audit.lostRun = 0
  room : s.audit.ring.length + 64 ≤ auditSlots
  origin : s.originRefused p a v.toNat = false

/-- A read at `a` on path `p` is answered with a value when it comes (R466 to R468, R497). -/
structure State.Reads (s : State) (p : Path) (a : Nat) : Prop where
  up : s.pathUp p = true
  waits : s.pathWaits p = false
  word : a % 4 = 0 ∧ a < 2 ^ 27
  free : match p with
    | .aperture _ => s.apertureShut a = false
    | .core _ => True
    | .jtag => s.secu.caps.getLsbD 0 = true

/-- How a path shows the value it has read: through the aperture in a completion. -/
def shownOn (p : Path) (a : Nat) (v : Word) : Out :=
  match p with
  | .aperture _ => .link 0x08 0 0 (BitVec.ofNat 64 a) (leBytes 4 v.toNat)
  | _ => .regRead p v

/-- The state once the entry of a write that is applied stands in the ledger: old and new value, the path's origin, no flag (R10, R456). -/
def State.entered (s : State) (p : Path) (a : Nat) (v : Nat) (pair : Bool) : State :=
  auditAppend (regEntry p 0 a (s.oldValue p a pair) v) s

/-- The write of a register or a pair at `a`, as the blocks see it. -/
def theWrite (p : Path) (a v : Nat) : Option RegWr :=
  (locate a).map fun l => { path := p, loc := l, addr := a, val := v, tok := none }

/-- The state once a write of `v` at `a` is entered in the ledger and its bits are stored, before what else the block does. -/
def State.stored (s : State) (p : Path) (a : Nat) (v : Word) : State :=
  let t := s.entered p a v.toNat false
  match theWrite p a v.toNat with
  | none => t
  | some w => storeWr w t

/-- The same for the pair whose `_LO` is at `a`, when its `_HI` is written: nothing is staged any more. -/
def State.storedPair (s : State) (p : Path) (a v : Nat) : State :=
  let t := (unstage p s).entered p a v true
  match theWrite p a v with
  | none => t
  | some w => storeWr w t

/-! ### What a loss of power leaves -/

/-- The main rails have gone off between `s` and `t`: the device is OFF, everything it held is cleared but module flash, and the
registers not kept by flash read their reset values (R487, R490). -/
structure LostPower (s t : State) : Prop where
  dev : t.dev = .off
  rails : t.power.railsOn = false ∧ t.power.pgood = false ∧ t.power.porDone = false
  flash : t.flash = s.flash
  mem : t.mem = [] ∧ t.hbm = []
  work : t.ctxs = [] ∧ t.clusters = [] ∧ t.fabric = Fabric.reset ∧ t.trepel = Trepel.reset ∧ t.secu = Secu.reset ∧ t.twin = Twin.reset
  audit : t.audit.ring = [] ∧ t.audit.reserve = [] ∧ t.audit.stalled = []
  time : t.time = 0
  regs : ∀ a, keptReg false true a = false → t.reg a = regReset a

end Sys2Proof.Machine
end

