-- ==== Sys2Proof/Certificates/Slice0/Obligations.lean ====
section
/-! DEFINITION. What the model claims of the FD512, for the provers. -/

open Sys2Proof Sys2Proof.Machine

/-! ### The block and its queue -/

/-- A step takes the command at the front of the queue and runs it on the state with the queue's rest. With no command waiting a step is
one nominal nanosecond: while D2 is out of reset TIME goes on at the rate that FABR_TIME_FREQ sets, in parts per 10^12, what is less than a
nanosecond being kept for the next step; and the management cores, while they run, take one message of their queue; nothing else
changes. The second clause is the model's choice (log entry 1): the table has no row for a tick. -/
def Obligations.StepRunsFront : Prop :=
  (∀ (c : Instr) (rest : List Instr) (s : State),
    step { s with pending := c :: rest } = exec c { s with pending := rest }) ∧
  ∀ s : State, s.pending = [] →
    let runs := s.power.porDone && !s.power.heldPin
    let ran := (s.fabric.timeFrac + 10 ^ 12 + (s.reg (aFabr 0x50)).toInt).toNat
    step s = .next { s with time := if runs then s.time + BitVec.ofNat 64 (ran / 10 ^ 12) else s.time,
                            fabric := { s.fabric with timeFrac := if runs then ran % 10 ^ 12 else s.fabric.timeFrac,
                                                      mgmt := if s.power.porDone && !s.secu.restart then s.fabric.mgmt.tail
                                                              else s.fabric.mgmt } }

/-- Before power the device is OFF with nothing listed in memory, no command waits, and the registers read the reset values of
their tables: GCTL_STATE shows OFF, GCTL_ACLK 40, RSTC_DRAIN_LIMIT 50, RSTC_WDT_TIMEOUT 2000, GENG_RESERVE 256. -/
def Obligations.ResetState : Prop :=
  State.reset.dev = .off ∧ State.reset.pending = [] ∧ State.reset.mem = [] ∧ State.reset.inv = true ∧
    State.reset.regValue (aGctl 0x14) = 0 ∧ State.reset.regValue (aGctl 0x28) = 40 ∧ State.reset.regValue (aRstc 0x14) = 50 ∧
    State.reset.regValue (aRstc 0x18) = 2000 ∧ State.reset.regValue (aGeng 8) = 256 ∧ ∀ a : Nat, State.reset.reg a = regReset a

/-- Every step keeps the machine's invariant, from every state that has it: HBM and the register file stay in canonical form, each
context, cluster, stack, path and port is listed once, the ring of the audit ledger stays one chain (each SEQ one more than the one
before, each CHAIN computed from it), and the device state is one that R38 lets the state before it move to. -/
def Obligations.StepKeepsInvariant : Prop :=
  ∀ s t : State, s.inv = true → step s = .next t → t.inv = true

/-- No command stops the machine: every command, on every state, answers a next state, and leaves alone the queue of waiting
commands, the part number, what has already left the module, and the free values already drawn. -/
def Obligations.CommandFrame : Prop :=
  ∀ (c : Instr) (s : State), Safe (exec c s) ∧ ∀ t, exec c s = .next t →
    t.pending = s.pending ∧ t.part = s.part ∧ s.outputs <+: t.outputs ∧ s.fresh ≤ t.fresh

/-- Raising an event changes nothing beside what records it: the event rings and buffers of contexts, the counters of lost events
and of refused record writes, the audit ledger's entry of such a refusal, and the outputs. Counting changes the counter named, and otherwise
only records (CNT_SATURATED when it stops). -/
def Obligations.RecordingOnlyRecords : Prop :=
  (∀ (e : ERec) (s : State), Recorded [] s (raise e s)) ∧ ∀ (a n : Nat) (s : State), Recorded [a, a + 4] s (count a n s)

/-- Counters are 48-bit and saturating (R15): a count that stays below 2^48 − 1 is added and changes nothing else; one that reaches it leaves 2^48 − 1 with OVF set and
raises CNT_SATURATED, of severity 0, UNIT 0xFFFF and DETAIL the address of the counter's _LO register; after that nothing is counted and nothing raised, until
software clears the counter, which then starts from 0 with OVF clear. -/
def Obligations.CountersSaturate : Prop :=
  ∀ (s : State) (a n : Nat), s.regsWf = true →
    let top := 2 ^ 48 - 1
    let e := cntSaturated a
    let only := fun (u : State) => u = { s with regs := u.regs } ∧ ∀ b, b ≠ a → b ≠ a + 4 → u.reg b = s.reg b
    (s.countOvf a = false → s.count a + n < top → n ≠ 0 →
      (count a n s).count a = s.count a + n ∧ (count a n s).countOvf a = false ∧ only (count a n s)) ∧
    (s.countOvf a = false → top ≤ s.count a + n → n ≠ 0 →
      ∃ u, count a n s = raise e u ∧ u.count a = top ∧ u.countOvf a = true ∧ only u) ∧
    (s.countOvf a = true → count a n s = s) ∧
    ((countClear a s).count a = 0 ∧ (countClear a s).countOvf a = false ∧ only (countClear a s)) ∧
    (e.type = 0x10 ∧ e.code = 1 ∧ e.severity = 0 ∧ e.unit = 0xFFFF ∧ e.detail = leBytes 4 a)

/-! ### Power, pins and clocks -/

/-- The main rails come up (R489): after STANDBY_POWER_UP with MOD_PWR_EN high already, at a rise of MOD_PWR_EN unless a rail fault
is latched, after a brown-out and after a recovery power cycle while MOD_PWR_EN is high. MOD_PGOOD goes high, power-on reset holds,
and OFF shows HELD_IN_RESET while a reset pin or a boundary-scan instruction holds, else SEQUENCING (`setSub`: a change of the sub-state is
alerted over SMBus). Otherwise the rails stay off.
Where a reference
clock is missing OFF shows NO_REFCLK, SMBus is alerted, and POR_RELEASE waits without limit. -/
def Obligations.RailsComeUp : Prop :=
  ∀ s : State, s.power.railsOn = false →
    let clocks := s.power.refSys && s.power.refNet
    let held := s.power.resetLow || s.power.dbgLow || s.power.heldScan
    let sub : SubState := if clocks then (if held then .heldInReset else .sequencing) else .noRefclk
    let shown := fun (p : Power) => setSub sub { s with power := { p with railsOn := true, pgood := true, porDone := false } }
    let up := fun (p : Power) => if clocks then shown p else smbAlert 6 (shown p)
    (s.power.standby = false → s.power.pwrEn = true → exec .standbyPowerUp s = .next (up { s.power with standby := true, sub := .standby })) ∧
    (s.power.standby = false → s.power.pwrEn = false →
      exec .standbyPowerUp s = .next { s with power := { s.power with standby := true, sub := .standby } }) ∧
    (s.power.pwrEn = false → s.power.standby = true → s.power.railLatch = false →
      exec .modPwrEnRise s = .next (up { s.power with pwrEn := true })) ∧
    (s.power.pwrEn = false → (s.power.standby = false ∨ s.power.railLatch = true) →
      exec .modPwrEnRise s = .next { s with power := { s.power with pwrEn := true } }) ∧
    (s.power.brownOut = true → s.power.pwrEn = true → s.power.standby = true → exec .brownOutRecovery s = .next (up s.power)) ∧
    (s.power.recoveryCycle = true → s.power.pwrEn = true → s.power.standby = true → exec .recoveryPowerUp s = .next (up s.power)) ∧
    (∀ straps : Straps, clocks = false → exec (.porRelease straps) s = .next s)

/-- The main rails go off (R38, R442, R487, R490): at a fall of MOD_PWR_EN, in a brown-out, when a rail leaves regulation (the
sub-state stays RAIL_FAULT until MOD_PWR_EN falls), when the standby rail goes, and for a recovery power cycle. -/
def Obligations.RailsGoOff : Prop :=
  ∀ s : State, s.power.railsOn = true →
    (s.power.pwrEn = true → ∃ t, exec .modPwrEnFall s = .next t ∧ LostPower s t ∧ t.power.sub = .standby ∧
      t.power.pwrEn = false ∧ t.power.railLatch = false ∧ t.power.brownOut = false ∧ t.power.recoveryCycle = false) ∧
    (∃ t, exec .brownOut s = .next t ∧ LostPower s t ∧ t.power.sub = .brownOut ∧ t.power.brownOut = true ∧
      t.power.pwrEn = s.power.pwrEn ∧ t.smb.alerts.getLsbD 5 = true) ∧
    (∃ t, exec .railFault s = .next t ∧ LostPower s t ∧ t.power.sub = .railFault ∧ t.power.railLatch = true ∧
      t.power.pwrEn = s.power.pwrEn ∧ t.smb.alerts.getLsbD 5 = true) ∧
    (s.power.standby = true → ∃ t, exec .standbyRailOff s = .next t ∧ LostPower s t ∧ t.power.standby = false) ∧
    (s.starting = true → s.boot.running = true → s.boot.fromPor = false → s.flash.start.recoveryPending.isSome = true →
      ∃ t, exec .recoveryPowerCycle s = .next t ∧ LostPower s t ∧ t.power.sub = .standby ∧ t.power.recoveryCycle = true)

/-- POR_RELEASE, once MOD_PGOOD is high, both references run, both reset pins are high and no boundary-scan instruction holds:
COLD_START, with everything at reset but module flash; the straps are sampled; RSTC_CAUSE shows POR alone, or BOR after a
brown-out (R417, R486, R487, R489). -/
def Obligations.PorReleaseStartsCold : Prop :=
  ∀ (straps : Straps) (s : State), s.dev = .off →
    s.power.railsOn = true → s.power.pgood = true → s.power.porDone = false → s.power.refSys = true → s.power.refNet = true →
    s.power.resetLow = false → s.power.dbgLow = false → s.power.heldScan = false →
    ∃ t, exec (.porRelease straps) s = .next t ∧
      t.dev = .coldStart ∧ t.prev = .off ∧ t.devSince = 0 ∧ t.time = 0 ∧ t.power.porDone = true ∧ t.power.straps = straps ∧
      t.bndy.txClamp = straps.txClamp ∧ t.flash = s.flash ∧ t.mem = [] ∧ t.ctxs = [] ∧ t.hbm = [] ∧ t.fabric = Fabric.reset ∧
      t.boot.kind = .cold ∧ t.boot.fromPor = true ∧ t.boot.running = false ∧
      (s.regsWf = true → t.reg (aRstc 0) = if s.power.brownOut then 2 else 1) ∧ t.power.brownOut = false

/-- The reset pins and the clock-failure detectors (R34, R419, R491): out of power-on reset MOD_RESET_N low is a PIN reset, cold,
which clears TIME and the contexts too; DBG_REQ_N low a DBG reset and a missing reference a CFD reset; each sets
its bit of RSTC_CAUSE and is held, so that no start begins. Their releases end the hold. Before power-on reset is released the pins reset
nothing: with the main rails off only their levels are taken, and with the rails up the device is HELD_IN_RESET until they rise. -/
def Obligations.ResetPins : Prop :=
  (∀ s : State, s.regsWf = true → s.dev ≠ .off → s.power.porDone = true →
    let scan := s.power.heldScan || (s.power.heldPin && s.jtag.scanning)
    (s.power.resetLow = false → ∃ t, exec .modResetNAssert s = .next t ∧ t.dev = .coldStart ∧ t.boot.kind = .cold ∧
      t.regBit (aRstc 0) 2 = true ∧ t.power.resetLow = true ∧ t.power.heldPin = true ∧ t.time = 0 ∧ t.ctxs = [] ∧ t.boot.running = false) ∧
    (s.power.dbgLow = false → ∃ t, exec .dbgReqNAssert s = .next t ∧ (t.dev = .warmStart ∨ t.dev = .coldStart) ∧
      (s.starting = false → s.dev ≠ .recovery → t.dev = .warmStart) ∧ (s.dev = .recovery → t.dev = .coldStart) ∧
      t.regBit (aRstc 0) 5 = true ∧ t.power.dbgLow = true ∧ t.power.heldDbg = true ∧
      t.boot.running = false ∧ (s.activeCtxs = [] → t.time = s.time)) ∧
    (s.power.standby = true → ∀ net : Bool, ∃ t, exec (.clockFailure net) s = .next t ∧ (t.dev = .warmStart ∨ t.dev = .coldStart) ∧
      t.regBit (aRstc 0) 6 = true ∧ t.power.heldCfd = true ∧ t.boot.running = false) ∧
    (exec .modResetNRelease s = .next { s with power := { s.power with resetLow := false, heldPin := false, heldScan := scan } }) ∧
    (exec .dbgReqNRelease s = .next { s with power := { s.power with dbgLow := false, heldDbg := false } }) ∧
    (exec .refclkRestored s = .next { s with power := { s.power with refSys := true, refNet := true, heldCfd := false } })) ∧
  ∀ s : State, s.power.porDone = false →
    let low := { s with power := { s.power with resetLow := true } }
    let dbg := { s with power := { s.power with dbgLow := true } }
    (s.power.railsOn = false → s.power.resetLow = false → exec .modResetNAssert s = .next low) ∧
    (s.power.railsOn = false → s.power.dbgLow = false → exec .dbgReqNAssert s = .next dbg) ∧
    (s.power.railsOn = true → s.power.refSys = true → s.power.refNet = true →
      (s.power.resetLow = false → exec .modResetNAssert s = .next (setSub .heldInReset low)) ∧
      (s.power.dbgLow = false → exec .dbgReqNAssert s = .next (setSub .heldInReset dbg)))

/-! ### Starts -/

/-- A start whose part record, stage 1 and runtime verify runs that code (R439, R444, R447 to R449): after a power-on reset, with
no configuration in flash, no staged runtime confirmed and slot A active, START marks the attempt in the start-attempt record, locks the
flash ranges, measures the part record, stage 1 and the runtime in that order, and has the runtime running at stage 7, before READY. Where the PUF does not give the
DeviceID of the part record the device enters RECOVERY with cause PUF (R448). -/
def Obligations.StartRunsCode : Prop :=
  ∀ (env : StartEnv) (s : State) (p st1 rt : SignedObj),
    let f := s.flash
    s.regsWf = true → s.dev = .coldStart → s.boot.running = false → s.power.held = false → s.boot.kind = .cold → s.boot.fromPor = true →
    f.start.recoveryPending = none → f.start.failed + (if f.start.inProgress then 1 else 0) < f.start.limit →
    f.part0 = some p → objReason p 4 [] 0 = none → spareMapOk p = true → (∀ g ∈ env.capacity, g = s.part.gib) →
    f.boot.confirmed = false → f.cfgA = none → f.cfgB = none → s.secu.config = none → f.boot.slotB = false →
    f.slotA = { stage1 := some st1, runtime := some rt } →
    objReason st1 1 (objSerial p) 0 = none → objReason rt 2 (objSerial p) 0 = none →
    (Config.pufMatches env.puf p.bytes = false → ∃ t, exec (.start env) s = .next t ∧ t.dev = .recovery ∧ t.boot.recovery = some 4) ∧
    (Config.pufMatches env.puf p.bytes = true →
    ∃ t, exec (.start env) s = .next t ∧ t.dev = .coldStart ∧ t.boot.running = true ∧ t.boot.stage = 7 ∧ t.boot.booted = 0 ∧
      t.boot.timer = some (s.time + 120000000000) ∧ t.flash.start.inProgress = true ∧
      t.flash.start.starts = min 65535 (f.start.starts + 1) ∧ t.flash.start.limit = 3 ∧ t.secu.running = some rt ∧
      t.secu.svn = objSvn rt ∧ t.secu.log.map (fun m => m.kind) = [1, 3, 4] ∧
      t.secu.cdi1 = shake256 (Config.pufSecret env.puf ++ shake256 st1.bytes 64) 64 ∧ t.mem = [])

/-- Where a start finds a cause of RECOVERY (R439, R442, R444, R447): one that began with POR enters RECOVERY, by a pending cause
(which it clears), by too many failed starts, or for want of a part record; one that began with another reset leaves the device state
and writes the cause as pending. A start waits while a reset is held. -/
def Obligations.StartEntersRecovery : Prop :=
  ∀ (env : StartEnv) (s : State), s.starting = true → s.boot.running = false →
    let r := s.flash.start
    let tooMany := r.limit ≤ r.failed + (if r.inProgress then 1 else 0)
    let none2 := s.flash.part0 = none ∧ s.flash.part1 = none
    (s.power.held = true → exec (.start env) s = .next s) ∧
    (s.power.held = false →
      ∃ t, exec (.start env) s = .next t ∧
        (s.boot.fromPor = true →
          (∀ c, r.recoveryPending = some c → t.dev = .recovery ∧ t.boot.recovery = some c ∧ t.flash.start.recoveryPending = none) ∧
          (r.recoveryPending = none → tooMany → t.dev = .recovery ∧ t.boot.recovery = some 1) ∧
          (r.recoveryPending = none → ¬ tooMany → none2 → t.dev = .recovery ∧ t.boot.recovery = some 3 ∧ t.flash.start.inProgress = true)) ∧
        (s.boot.fromPor = false →
          (tooMany → t.dev = s.dev ∧ t.flash.start.recoveryPending = some 1) ∧
          (¬ tooMany → none2 → t.dev = s.dev ∧ t.flash.start.recoveryPending = some 3)))

/-- Entering READY clears IN_PROGRESS and sets FAILED to 0 (R439), writes what rings and contexts hold back, and with a context active is
ACTIVE (R38); a device with fewer than six management cores goes on to FENCED at once (R413, R416), and so does one whose health record shows
NO_SPARE, which does not return to ACTIVE (R22). That a ring may be enabled before READY is the model's choice (log entry 103). The start timer's expiry resets D0 without D2 and forces a cold start; RSTC_CAUSE shows WDT; TIME and
forwarding go on (R439). -/
def Obligations.StartEnds : Prop :=
  ∀ s : State, s.starting = true → s.boot.running = true →
    let r := s.flash.start
    let done := { s with flash := { s.flash with start := { r with inProgress := false, failed := 0 } },
                         boot := { s.boot with running := false, stage := 0, timer := none } }
    let u := flushAll (setDev .ready done)
    (s.boot.stage = 7 → s.activeCtxs = [] → u = setDev .ready done) ∧
    (s.boot.stage = 7 → u.coresOnline < 6 → exec .startComplete s = .next (setDev .fenced (noteDrain 6 0 [] (setHealth 0x21 u)))) ∧
    (s.boot.stage = 7 → 6 ≤ u.coresOnline → u.flash.health.getLsbD 2 = true → exec .startComplete s = .next (setDev .fenced u)) ∧
    (s.boot.stage = 7 → 6 ≤ u.coresOnline → u.flash.health.getLsbD 2 = false →
      exec .startComplete s = .next (if u.locked then setDev .active u else u)) ∧
    (s.regsWf = true → ∀ d, s.boot.timer = some d → d ≤ s.time →
      ∃ t, exec .startTimerExpire s = .next t ∧ t.dev = .coldStart ∧ t.boot.kind = .cold ∧ t.boot.running = false ∧
        t.regBit (aRstc 0) 3 = true ∧ t.reg (aRstc 4) = packBits [(3, 0), (1, 3), (0, 4), (1, 5)] ∧
        (s.activeCtxs = [] → t.fabric = s.fabric.transitOnly ∧ t.time = s.time))

/-! ### SMBus -/

/-- The SMBus responder answers while the standby rail is up, and changes nothing by answering (R494, R495): STATE is live in every
state; HEALTH and START_RECORD come from module flash; TEMPERATURE reads 0x80 for a sensor that is unpowered; the others are live while the device is not OFF, and in OFF come from the
copies kept when the rails went off (RESET_CAUSE then with its STALE flag). Each record has the length of R495's table. ALERT_STATUS is
returned and cleared by the read; the Alert Response Address is answered by a module that holds SMB_ALERT_N low, with its own address 0x58 +
SLOT_ID[1:0], and releases SMB_ALERT_N; a bit newly set pulls it low again. -/
def Obligations.SmbusReplies : Prop :=
  ∀ s : State, s.power.standby = true →
    let reply := fun (b : Bytes) => (.next (s.emit (.smb b)) : Host.Outcome State Fault Refusal)
    let copy := fun (k : Nat) (now : Bytes) => if s.dev = .off then (NMap.find? s.smb.copies k).getD now else now
    let stale := fun (b : Bytes) => if s.dev = .off ∧ (NMap.find? s.smb.copies 5).isSome then putB b 2 (leBytes 1 16) else b
    exec .smbIdentity s = reply (copy 1 s.smbIdentity) ∧ exec .smbState s = reply s.smbState ∧ exec .smbStartRecord s = reply s.smbStart ∧
    exec .smbHealth s = reply s.smbHealth ∧ exec .smbResetCause s = reply (stale (copy 5 s.smbCause)) ∧
    exec .smbTemperature s = reply s.smbTemp ∧ exec .smbPower s = reply (copy 7 s.smbPower) ∧
    exec .smbRecovery s = reply (copy 9 s.smbRecovery) ∧ exec .smbAuditHead s = reply (copy 10 s.smbAudit) ∧
    [s.smbIdentity, s.smbState, s.smbStart, s.smbHealth, s.smbCause, s.smbTemp, s.smbPower, s.smbRecovery, s.smbAudit].map List.length =
      [28, 8, 16, 8, 4, 19, 10, 12, 32] ∧
    exec .smbAlertStatus s = .next { s.emit (.smb (leBytes 1 s.smb.alerts.toNat)) with smb := { s.smb with alerts := 0 } } ∧
    (s.power.smbAlertLow = true → exec .alertResponseAddress s =
      .next { s.emit (.smb (leBytes 1 (2 * (0x58 + s.power.straps.slotId.toNat % 4)))) with power := { s.power with smbAlertLow := false } }) ∧
    (s.power.smbAlertLow = false → exec .alertResponseAddress s = .next s) ∧
    ∀ i, i < 8 → s.smb.alerts.getLsbD i = false →
      (smbAlert i s).smb.alerts.getLsbD i = true ∧ (smbAlert i s).power.smbAlertLow = true

/-! ### JTAG -/

/-- The test access port answers once MOD_PGOOD is high (R496 to R498): IDCODE gives 0xBFD519A7, SECURITY_STATUS gives SECU_STATUS, every
code not listed acts as BYPASS; CORE_DEBUG and DEBUG_RESET load by CAPS bits 3 and 2, and a 1 in DEBUG_RESET starts a DBG reset; an instruction
whose condition is not met loads as BYPASS and is recorded with origin DEBUG and REFUSED. The boundary-scan instructions load only while
MOD_RESET_N holds the device in reset, and as BYPASS at any other time, with nothing recorded. -/
def Obligations.JtagInstructions : Prop :=
  ∀ s : State, s.power.pgood = true →
    let held := s.power.resetLow && (s.power.heldPin || !s.power.porDone)
    let scan := fun (code : Byte) => (.next (loadIr (if held then code else 0xFF) s) : Host.Outcome State Fault Refusal)
    let refused := fun (code : Byte) => (.next (auditAppend (refusedIr code) (loadIr 0xFF s)) : Host.Outcome State Fault Refusal)
    let records := s.power.porDone = true ∧ s.power.held = false ∧ s.auditFull = false
    exec .idcode s = .next ((loadIr 0x01 s).emit (.jtag 32 0xBFD519A7)) ∧
    exec .samplePreload s = .next (loadIr 0x02 s) ∧
    exec .securityStatus s = .next ((loadIr 0x23 s).emit (.jtag 32 ((s.regValue (aSecu 0)).setWidth 72))) ∧
    (∀ code : Byte, exec (.bypass code) s = .next ((loadIr 0xFF s).emit (.jtag 1 0))) ∧
    (s.secu.caps.getLsbD 3 = true → exec .coreDebug s = .next (loadIr 0x21 s)) ∧
    (s.secu.caps.getLsbD 2 = true → exec (.debugReset false) s = .next (loadIr 0x22 s) ∧
      exec (.debugReset true) s = .next (resetDevice .dbg false false none (loadIr 0x22 s))) ∧
    exec .testLogicReset s = .next (refreshSub { loadIr 0x01 s with power := { s.power with heldScan := false } }) ∧
    (exec .extest s = scan 3 ∧ exec .extestPulse s = scan 4 ∧ exec .extestTrain s = scan 5 ∧ exec .clamp s = scan 6 ∧ exec .highz s = scan 7) ∧
    (records → s.secu.caps.getLsbD 3 = false → exec .coreDebug s = refused 0x21) ∧
    (records → s.secu.caps.getLsbD 2 = false → ∀ b, exec (.debugReset b) s = refused 0x22) ∧
    ∀ c, (refusedIr c).cls = 3 ∧ (refusedIr c).flags.getLsbD 0 = true

/-! ### The register space -/

/-- A write of a 32-bit register that takes effect at once and is applied (R10, R455, R466): first its entry stands in the audit
ledger, with the path's origin, the register's address and its old and new value; then the bits are stored; then the block does what the write commands. -/
def Obligations.RegisterWriteLands : Prop :=
  ∀ (s : State) (p : Path) (a : BitVec 27) (v : Word) (w : RegWr),
    s.Takes p a.toNat v → findAlias a.toNat = none → a.toNat % 4 = 0 → theWrite p a.toNat v.toNat = some w → w.loc.row.half = .one →
    w.loc.row.readOnly = false → w.verdict s = .applied → isAck a.toNat = false →
    exec (.registerWrite p a v) s = .next (hookRun w (s.entered p a.toNat v.toNat false) (s.stored p a.toNat v))

/-- What storing a write does (R8, R9, R469, R471): in the register written, the RW bits that are not locked take the value (or the
nearest that its range allows), the W1C bits that are 1 clear, and no other bit changes; no other register changes; and outside the
registers and the ledger nothing changes. The ledger gains one entry, next in SEQ, with the old and the new value and TIME. -/
def Obligations.StoredBits : Prop :=
  ∀ (s : State) (p : Path) (a : Nat) (v : Word) (w : RegWr),
    s.regsWf = true → s.audit.lostRun = 0 → theWrite p a v.toNat = some w → w.loc.row.half = .one →
    let t := s.stored p a v
    let m := if s.locked then w.loc.writable &&& ~~~w.loc.row.lock else w.loc.writable
    let put := BitVec.ofNat 32 (clampReg w.loc.blk w.loc.row.off v.toNat)
    (heldElsewhere w.loc = false → t.reg a = (s.reg a &&& ~~~m &&& ~~~(v &&& w.loc.row.w1c)) ||| (put &&& m)) ∧
    (∀ b, b ≠ a → t.reg b = s.reg b) ∧
    (∃ r x, t = { s with regs := r, audit := x }) ∧
    ∃ e, t.audit.ring = s.audit.ring ++ [e] ∧ e.seq = s.audit.next ∧ e.time = s.time ∧ e.target = BitVec.ofNat 64 a ∧ e.kind = 1 ∧
      e.flags = 0 ∧ (e.cls, e.originId) = pathOrigin p ∧ e.old = s.oldValue p a false ∧ e.new = v.setWidth 64 ∧
      e.chain = chainNext s.audit.chain e

/-- A refused write changes nothing. It is recorded with REFUSED and counted in GCTL_REFUSED, and when it arrives through the aperture it is also
counted in TRPL_AP_ERR (R468): here a write of a register that refuses the origin of its path. -/
def Obligations.RefusedWriteChangesNothing : Prop :=
  ∀ (s : State) (p : Path) (a : BitVec 27) (v : Word) (w : RegWr),
    s.pathUp p = true → s.pathWaits p = false → s.discards p a.toNat = none → s.audit.reserve = [] → s.audit.lostRun = 0 →
    s.audit.ring.length + 64 ≤ auditSlots → isAck a.toNat = false →
    findAlias a.toNat = none → a.toNat % 4 = 0 → theWrite p a.toNat v.toNat = some w → w.loc.row.half = .one → w.loc.row.readOnly = false →
    s.originRefused p a.toNat v.toNat = true →
    let once := count (aGctl 0x50) 1 s
    let counted := match p with | .aperture _ => count (aTrpl 0x28) 1 once | _ => once
    counted.audit.reserve = [] →
    exec (.registerWrite p a v) s =
      .next (auditAppend (regEntry p 1 a.toNat (counted.oldValue p a.toNat false) v.toNat) counted)

/-- A write to a read-only register, or at an offset that no chapter describes, is ignored: it is recorded with IGNORED and
counted in GCTL_REFUSED, and no register changes (R9, R10, R469). An offset that no chapter describes reads 0. -/
def Obligations.IgnoredWriteChangesNothing : Prop :=
  ∀ (s : State) (p : Path) (a : BitVec 27) (v : Word),
    s.regsWf = true → s.Takes p a.toNat v → findAlias a.toNat = none → a.toNat % 4 = 0 → isAck a.toNat = false →
    let once := count (aGctl 0x50) 1 s
    once.audit.reserve = [] →
    (locate a.toNat = none → exec (.registerWrite p a v) s = .next (count (aGctl 0x50) 1 (auditAppend (regEntry p 2 a.toNat 0 v.toNat) s)) ∧ s.regValue a.toNat = 0) ∧
    (∀ l, locate a.toNat = some l → l.row.rw = 0 → l.row.w1c = 0 → l.row.w1s = 0 →
      ∃ t, exec (.registerWrite p a v) s = .next t ∧
        t.audit = (auditAppend (regEntry p 2 a.toNat (once.oldValue p a.toNat false) v.toNat) once).audit ∧ ∀ b, t.reg b = once.reg b)

/-- Every register pair named _LO and _HI holds one 64-bit value (R472). A read of _LO returns bits 31:0 of the current value and captures bits
63:32 into a shadow that belongs to the reading path; the next read of that pair's _HI by the same path returns the shadow, provided the path has
read no other register in between, and any other read of _HI the live value. A write to _LO is staged for the writing path and changes nothing. A write to _HI
applies bits 63:32 together with the staged bits 31:0, or with the current bits 31:0 when nothing is staged; both halves change at once, and one entry records the
pair, with TARGET naming the _LO address. A staged _LO is discarded, with IGNORED, when the same path writes any other register first. -/
def Obligations.PairsAreWhole : Prop :=
  ∀ (s : State) (p : Path) (lo : BitVec 27) (l h : RegLoc),
    let a := lo.toNat
    let n := pathNo p
    let mine := s.path n
    let shows := fun (b : Nat) (v : Word) (kept : Option (Nat × Word)) =>
      (.next ((s.setPath n { mine with shadow := kept }).emit (shownOn p b v)) : Host.Outcome State Fault Refusal)
    let w := fun (v : Nat) => ({ path := p, loc := l, addr := a, val := v, tok := none } : RegWr)
    let pair := fun (v : Nat) => s.storedPair p a v
    let applies := fun (y : Word) (v : Nat) => (w v).verdict s = .applied → exec (.registerWrite p (lo + 4) y) s =
      .next (hookRun (w v) ((unstage p s).entered p a v true) (pair v))
    let bits := fun (r : RegLoc) (cur v : Word) =>
      let m := if s.locked then r.writable &&& ~~~r.row.lock else r.writable
      (cur &&& ~~~m &&& ~~~(v &&& r.row.w1c)) ||| (BitVec.ofNat 32 (clampReg r.blk r.row.off v.toNat) &&& m)
    let plain := l.row.readOnly = false ∧ h.row.readOnly = false ∧ isAck (a + 4) = false
    findAlias a = none → findAlias (a + 4) = none → a % 4 = 0 → a + 4 < 2 ^ 27 → s.keysRise = true → s.regsWf = true →
    locate a = some l → l.row.half = .lo → locate (a + 4) = some h → h.row.half = .hi →
    (s.Reads p a → exec (.aliasRead p lo) s = shows a (s.regValue a) (some (a + 4, s.regValue (a + 4)))) ∧
    (∀ v, s.Reads p (a + 4) → mine.shadow = some (a + 4, v) → exec (.aliasRead p (lo + 4)) s = shows (a + 4) v none) ∧
    (s.Reads p (a + 4) → (∀ v, mine.shadow ≠ some (a + 4, v)) → exec (.aliasRead p (lo + 4)) s = shows (a + 4) (s.regValue (a + 4)) none) ∧
    (∀ (b : BitVec 27) t, b ≠ lo → s.Reads p b.toNat → exec (.aliasRead p b) s = .next t → ∀ v, (t.path n).shadow ≠ some (a + 4, v)) ∧
    (∀ x, plain → s.Takes p a x → exec (.registerWrite p lo x) s = .next (s.setPath n { mine with staged := some (a, x) })) ∧
    (∀ x y, plain → s.Takes p (a + 4) y → mine.staged = some (a, x) → applies y (x.toNat + y.toNat * 2 ^ 32)) ∧
    (∀ y, plain → s.Takes p (a + 4) y → mine.staged = none → applies y ((s.regValue a).toNat + y.toNat * 2 ^ 32)) ∧
    (∀ v, heldElsewhere l = false → (pair v).reg a = bits l (s.reg a) (wordOf 0 v) ∧ (pair v).reg (a + 4) = bits h (s.reg (a + 4)) (wordOf 1 v) ∧
      (∀ b, b ≠ a → b ≠ a + 4 → (pair v).reg b = s.reg b) ∧ ((pair v).path n).staged = none) ∧
    (∀ v, s.audit.lostRun = 0 → ∃ e, (pair v).audit.ring = s.audit.ring ++ [e] ∧ e.target = BitVec.ofNat 64 a ∧ e.old = (s.regValue (a + 4) ++ s.regValue a : Dword) ∧
      e.new = BitVec.ofNat 64 v ∧ e.flags = 0 ∧ (e.cls, e.originId) = pathOrigin p) ∧
    ∀ (b : BitVec 27) v x, mine.staged = some (a, x) → isAck a = false → isAck b.toNat = false → b.toNat ≠ a + 4 → b.toNat % 4 = 0 → findAlias b.toNat = none →
      s.pathUp p = true → s.pathWaits p = false → s.audit.reserve = [] → s.audit.ring.length + 64 ≤ auditSlots →
      let u := countVerdict p .ignored (auditAppend (regEntry p 2 a (s.regValue (a + 4) ++ s.regValue a) x.toNat) s)
      exec (.registerWrite p b v) s = .next (writeOne p b.toNat v none (u.setPath n { u.path n with staged := none }))

/-- A read through an alias returns the bitwise OR of the participating members' values, and DISAGREE is set when they are not all equal (R475, R476): a member that is
held or fenced takes no part. A pair read captures each member's _HI together with its _LO, and the alias's shadow holds the OR of those captures. The banked status of the path
shows how many members took part, and no other path's does. -/
def Obligations.AliasReadOrs : Prop :=
  ∀ (s : State) (p : Path) (a : BitVec 27) (x : AliasAt) (l : RegLoc),
    s.Reads p a.toNat → findAlias a.toNat = some x → locate (x.addr 0) = some l → s.keysRise = true →
    let n := pathNo p
    let inn := (s.aliasMembers x).filter fun k => !s.memberOut x.block k
    let vals := inn.map fun k => s.regValue (x.addr k)
    let ors := fun (o : Word) (vs : List Word) => ∀ i, i < 32 → (o.getLsbD i = true ↔ ∃ v ∈ vs, v.getLsbD i = true)
    ∃ t o, exec (.aliasRead p a) s = .next t ∧ t.outputs = s.outputs ++ [shownOn p a.toNat o] ∧
      (l.row.half ≠ .hi ∨ (∀ v, (s.path n).shadow ≠ some (a.toNat, v)) → ors o vals) ∧
      (∀ v, l.row.half = .hi → (s.path n).shadow = some (a.toNat, v) → o = v) ∧
      (l.row.half = .lo → ∃ v, (t.path n).shadow = some (a.toNat + 4, v) ∧ ors v (inn.map fun k => s.regValue (x.addr k + 4))) ∧
      ((t.path n).bcast.getLsbD 0 = true ↔ ∃ u ∈ vals, ∃ v ∈ vals, u ≠ v) ∧
      ((t.path n).bcast.toNat / 2 ^ 16 = inn.length % 2 ^ 16) ∧
      (∀ q, q ≠ n → t.path q = s.path q) ∧ ∀ b, t.reg b = s.reg b

/-- A write through an alias lands in every participating member, each with an entry of its own, and leaves an entry with SKIPPED for each member that is held or
fenced; if it is refused on one member it is refused on all, each with an entry that says REFUSED, and no member changes (R150, R474). The banked status of alias reads is unchanged. -/
def Obligations.AliasWriteLandsEverywhere : Prop :=
  ∀ (s : State) (p : Path) (a : BitVec 27) (v : Word) (x : AliasAt) (l : RegLoc),
    s.pathUp p = true → s.pathWaits p = false → s.discards p a.toNat = none → s.entriesOf p a.toNat v ≤ s.auditRoom → s.audit.reserve = [] →
    a.toNat % 4 = 0 → findAlias a.toNat = some x → locate (x.addr 6) = some l → l.row.half = .one →
    let ms := s.aliasMembers x
    let inn := (ms.filter fun n => !s.memberOut x.block n).filterMap (memberWrite p x a.toNat v s)
    let out := (ms.filter fun n => s.memberOut x.block n).filterMap (memberWrite p x a.toNat v s)
    inn ≠ [] →
    ((∀ w ∈ inn, w.verdict s = .applied) → exec (.aliasWrite p a v) s =
      .next (out.foldl (fun t w => memberEntry w 4 t) (inn.foldl (fun t w => landWrite w .applied t) (unstage p s)))) ∧
    ((∃ w ∈ inn, w.verdict s = .refused) → exec (.aliasWrite p a v) s =
      .next ((ms.filterMap (memberWrite p x a.toNat v s)).foldl (fun t w => memberEntry w 1 t) (countVerdict p .refused (unstage p s))))

/-- The register aperture (R466 to R468): a read of 4 aligned bytes is answered by a completion with the value, a write does what a
register write on path 0 does, with the requester as its origin, and any other size or alignment completes UNSUPPORTED and is counted in TRPL_AP_ERR. -/
def Obligations.RegisterAperture : Prop :=
  ∀ (s : State) (req : Byte) (addr : Dword) (d : Bytes),
    s.auditRuns = true →
    let a := addr.toNat
    let p := Path.aperture req
    let mine := s.path 0
    (a % 4 = 0 → a < 2 ^ 27 → s.pathWaits p = false → s.apertureShut a = false → findAlias a = none → 0x40 ≤ a →
      (∃ l, locate a = some l ∧ l.row.half = .one) →
      exec (.regApertureAccess req addr 4 none) s =
        .next ((s.setPath 0 { mine with shadow := none }).emit (.link 0x08 0 0 addr (leBytes 4 (s.regValue a).toNat)))) ∧
    (s.Takes p a (BitVec.ofNat 32 (fieldLe d 0 4)) → a % 4 = 0 → a < 2 ^ 27 → findAlias a = none →
      exec (.regApertureAccess req addr 4 (some d)) s =
        exec (.registerWrite p (BitVec.ofNat 27 a) (BitVec.ofNat 32 (fieldLe d 0 4))) s) ∧
    ∀ len w, len ≠ 4 ∨ a % 4 ≠ 0 → exec (.regApertureAccess req addr len w) s = .next (apDone w.isSome 1 addr [] (apErr s))

/-- REG_ACCESS, while CAPS bit 0 is granted (R452, R497): a data register without start is only held; a read that starts leaves the
register's value in bits 63:32 and sets done; a write that starts does what a register write on path 9 does, with origin DEBUG, and sets done. -/
def Obligations.JtagRegisterAccess : Prop :=
  ∀ (s : State) (dr : BitVec 72),
    s.power.pgood = true → s.power.porDone = true → s.power.held = false → s.secu.caps.getLsbD 0 = true →
    let t := loadIr 0x20 s
    let a := dr.toNat % 2 ^ 27
    let data := BitVec.ofNat 32 (dr.toNat / 2 ^ 32)
    (dr.getLsbD 65 = false → exec (.regAccess dr) s = .next { t with jtag := { t.jtag with dr := dr } }) ∧
    (dr.getLsbD 65 = true → dr.getLsbD 64 = false → s.pathWaits .jtag = false → findAlias a = none → 0x40 ≤ a → a % 4 = 0 →
      (∃ l, locate a = some l ∧ l.row.half = .one) →
      ∃ u, exec (.regAccess dr) s = .next u ∧ u.jtag.dr.getLsbD 66 = true ∧ u.jtag.dr.getLsbD 67 = false ∧
        u.jtag.dr.toNat / 2 ^ 32 % 2 ^ 32 = (s.regValue a).toNat ∧ u.outputs = s.outputs ++ [.jtag 72 u.jtag.dr]) ∧
    (dr.getLsbD 65 = true → dr.getLsbD 64 = true → t.Takes .jtag a data → findAlias a = none → a % 4 = 0 →
      ∃ u w, exec (.regAccess dr) s = .next u ∧ exec (.registerWrite .jtag (BitVec.ofNat 27 a) data) t = .next w ∧
        (w.audit.stalled = s.audit.stalled → u.jtag.dr.getLsbD 66 = true ∧ u.regs = w.regs ∧ u.audit = w.audit ∧ u.dev = w.dev ∧ u.secu = w.secu))

/-! ### Commands that are register writes: each is entered and stored (`RegisterWriteLands`, `StoredBits`), and then acts -/

/-- CLUS_CTRL and CLUS_INJECT (R148, R151): SRST starts a D5 reset, HOLD is stored, CLR_CNT clears the cluster's counters, and, while the security
engine grants injection, INJECT_ARM arms the injection when its ROW names a target and CLUS_INJECT takes a value. -/
def Obligations.ClusterCommands : Prop :=
  ∀ (s : State) (p : Path) (c : Fin 512) (v : Word),
    let a := aClus c 0
    let hold := s.reg a &&& 2
    let cleared := fun (t : State) => [0x08, 0x10, 0x18, 0x20, 0x28].foldl (fun u o => countClear (aClus c o) u) t
    (s.Takes p a (hold ||| 1) → exec (.clusSrst p c) s = .next (startReset 5 c 1 none (s.stored p a (hold ||| 1)))) ∧
    (s.Takes p a 2 → exec (.clusHold p c true) s = .next (s.stored p a 2)) ∧
    (s.Takes p a 0 → exec (.clusHold p c false) s = .next (s.stored p a 0)) ∧
    (s.Takes p a (hold ||| 4) → exec (.clusClrCnt p c) s = .next (cleared (s.stored p a (hold ||| 4)))) ∧
    (s.Takes p a (hold ||| 8) → s.secu.caps.getLsbD 1 = true →
      let t := s.stored p a (hold ||| 8)
      exec (.injectArm p c) s = .next (if t.regField (aClus c 0x40) 7 0 < 130 then t.setClus c { t.clus c with armed := true } else t)) ∧
    (s.Takes p (aClus c 0x40) v → s.secu.caps.getLsbD 1 = true → exec (.clusInjectWrite p c v) s = .next (s.stored p (aClus c 0x40) v))

/-- The control registers of stacks, ports and the Trepel Link (R291, R319, R365): SRST starts a D6 or D7 reset, RETRAIN_NOW makes every channel due for
training with reason 3 and RETRAIN starts a retrain of the link, CLR_CNT clears the block's counters, and a port follows its EN. -/
def Obligations.StackPortLinkCommands : Prop :=
  ∀ (s : State) (p : Path) (n : Fin 12) (q : Fin 9) (en : Bool),
    let a := aHbmc n 0
    let b := aPort q 0
    let d := aTrpl 0
    let bits := s.reg b &&& 0x3D
    let width := s.reg d &&& 0xC
    let enable := (bits &&& ~~~(1 : Word)) ||| (if en then 1 else 0)
    let noErrors := fun (t : State) => (List.range 8).foldl (fun u l => u.setReg (aPort q (0x100 + 4 * l)) 0)
      ([0x80, 0x88, 0x90, 0x98, 0xA0, 0xA8, 0xB0].foldl (fun u o => countClear (aPort q o) u) t)
    (s.Takes p a 1 → exec (.hbmcSrst p n) s = .next (startReset 6 n 1 none (s.stored p a 1))) ∧
    (s.Takes p a 2 → exec (.retrainNow p n) s = .next (allDue n 3 (s.stored p a 2))) ∧
    (s.Takes p a 4 → exec (.hbmcClrCnt p n) s =
      .next ([0x10, 0x18, 0x20, 0x30].foldl (fun u o => countClear (aHbmc n o) u) (s.stored p a 4))) ∧
    (s.Takes p b enable → s.locked = false → exec (.portEn p q en) s = .next (refreshPort q (s.stored p b enable))) ∧
    (s.Takes p b (bits ||| 2) → s.locked = false →
      exec (.portSrst p q) s = .next (startReset 7 q 1 none (refreshPort q (s.stored p b (bits ||| 2))))) ∧
    (s.Takes p b (bits ||| 0x40) → s.locked = false →
      exec (.portClrCnt p q) s = .next (refreshPort q (noErrors (s.stored p b (bits ||| 0x40))))) ∧
    (s.Takes p d (width ||| 1) → s.locked = false → exec (.trplRetrain p) s = .next (startRetrain (s.stored p d (width ||| 1)))) ∧
    (s.Takes p d (width ||| 2) → s.locked = false → exec (.trplClrCnt p) s =
      .next ([0x08, 0x10, 0x18, 0x28].foldl (fun u o => countClear (aTrpl o) u) (s.stored p d (width ||| 2))))

/-- The reset controller's commands (R417, R418, R433): a write of 0x5AA5 restarts the watchdog's time; WDT_EN enables the watchdog; SWR resets the device
warm, the management cores only, or the device cold, as SWR_TARGET says (3 acts as 0); RSTC_DOMAIN_REQ starts a D3 or D4 reset. -/
def Obligations.ResetControllerCommands : Prop :=
  ∀ (s : State) (p : Path) (v : Word),
    let c := aRstc 0x0C
    let en := (s.reg c &&& 6) ||| 8
    (s.Takes p (aRstc 0x1C) 0x5AA5 →
      let t := s.stored p (aRstc 0x1C) 0x5AA5
      exec (.rstcWdtKick p 0x5AA5) s = .next { t with faults := { t.faults with wdtKick := t.time } }) ∧
    (s.Takes p c en →
      let t := s.stored p c en
      exec (.wdtEn p) s = .next (if s.regBit c 3 then t
        else { t.setRegBit c 3 true with faults := { t.faults with wdtKick := t.time } })) ∧
    (s.Takes p c (v ||| 1) → v.getLsbD 3 = false →
      let t := s.stored p c (v ||| 1)
      exec (.swr p v) s = .next (
        if v.getLsbD 1 && !v.getLsbD 2 then mgmtRestart 1 (t.setRegBit (aRstc 0) 4 true)
        else resetDevice .swr (v.getLsbD 2 && !v.getLsbD 1) false none t)) ∧
    (∀ die : Fin 4, let w : Word := 3 + BitVec.ofNat 32 (256 * die)
      s.Takes p (aRstc 0x10) w → exec (.rstcDomainReq p w) s = .next (startReset 3 die 1 none (s.stored p (aRstc 0x10) w))) ∧
    (∀ quire : Fin 32, let w : Word := 4 + BitVec.ofNat 32 (256 * quire)
      s.Takes p (aRstc 0x10) w → exec (.rstcDomainReq p w) s = .next (startReset 4 quire 1 none (s.stored p (aRstc 0x10) w)))

/-- CTX_CTRL and CTX_HTAB_SIZE (R60, R61, R72): setting VALID configures a context, unless its quota overcommits the device (then the write is refused, and
OVERCOMMIT set) or another valid context holds its rank in its job (then it is refused: the model's choice, log entry 90); clearing it, with every ring
disabled and nothing in flight, releases the context; QUIESCE and KILL act on an active context; the quota is
taken while the context is INVALID. -/
def Obligations.ContextCommands : Prop :=
  ∀ (s : State) (p : Path) (c : Fin 64) (n : Word),
    let a := aCtx c 0
    let t := fun (v : Word) => s.stored p a v
    let taken := s.rankHeld c (s.regField (aCtx c 8) 15 0) (s.reg (aFabr (0x100 + 4 * c))).toNat
    (s.Takes p a 1 → (s.ctx c).st = .invalid → s.overcommits c (s.reg (aCtx c 0x20)).toNat = false → taken = false →
      exec (.ctxValidWrite p c 1) s = .next (setCtxState c .configured (t 1))) ∧
    (s.Takes p a 1 → (s.ctx c).st = .invalid → s.overcommits c (s.reg (aCtx c 0x20)).toNat = true →
      ∃ u, exec (.ctxValidWrite p c 1) s = .next u ∧ (u.ctx c).st = .invalid ∧ (s.keysRise = true → (u.ctx c).overcommit = true)) ∧
    (s.Takes p a 1 → (s.ctx c).st = .invalid → taken = true →
      ∃ u, exec (.ctxValidWrite p c 1) s = .next u ∧ (u.ctx c).st = .invalid) ∧
    (s.Takes p a 0 → (s.ctx c).st = .configured → s.ctxIdle c = true →
      exec (.ctxValidWrite p c 0) s = .next (ctxRelease c (t 0)) ∧ (s.keysRise = true → ((ctxRelease c (t 0)).ctx c).st = .invalid ∧
        ((ctxRelease c (t 0)).ctx c).handles = [])) ∧
    (s.Takes p a 3 → (s.ctx c).st = .active → exec (.ctxQuiesceBit p c) s = .next (setCtxState c .quiescing (t 3))) ∧
    (s.Takes p a 5 → (s.ctx c).st = .active ∨ (s.ctx c).st = .quiescing → exec (.ctxKillBit p c) s = .next (killCtx c stKilled (t 5))) ∧
    (s.Takes p (aCtx c 0x20) n → (s.ctx c).st = .invalid → exec (.ctxHtabSizeWrite p c n) s = .next (s.stored p (aCtx c 0x20) n))

/-- RING_CTRL (R65, R67, R72): EN set on a ring of a configured context enables it; a configured context with an enabled ring becomes
ACTIVE and the device with it. EN cleared disables the ring. EN is refused on a context that is not VALID. -/
def Obligations.RingCommands : Prop :=
  ∀ (s : State) (p : Path) (c : Fin 64) (r : Fin 8) (v : Word),
    let a := aRing c r 8
    (s.Takes p a v → v.getLsbD 0 = true → s.ringEn c r = false → (s.ctx c).st = .configured ∨ (s.ctx c).st = .active →
      exec (.ringCtrlWrite p c r v) s = .next (enableRing c r (s.stored p a v))) ∧
    (s.Takes p a v → v.getLsbD 0 = false → s.ringEn c r = true → (v ^^^ s.reg a) &&& 0x1F00 = 0 →
      exec (.ringCtrlWrite p c r v) s = .next (disableRing c r (s.stored p a v))) ∧
    (s.Takes p a v → v.getLsbD 0 = true → s.ringEn c r = false → (s.ctx c).st = .invalid → s.regsWf = true →
      let once := count (aGctl 0x50) 1 s
      let counted := match p with | .aperture _ => count (aTrpl 0x28) 1 once | _ => once
      ∃ t, exec (.ringCtrlWrite p c r v) s = .next t ∧ t.regs = counted.regs) ∧
    (∀ t : State, (t.ctx c).st = .configured → t.anyRing c = true → t.keysRise = true → ((ctxRings c t).ctx c).st = .active) ∧
    (∀ t : State, t.locked = true → t.dev = .ready → (recount t).dev = .active)

/-- GCTL (R35, R296, R477 to R479): each enable is stored while the registers are unlocked, the ports follow theirs, clearing TRPL_EN writes the coherent cache
back and empties it, and setting it writes what rings and contexts hold back; GENG_EN needs CLUS_EN; GCTL_ACLK moves the clock in effect; DRAIN is taken in ACTIVE only and UNFENCE in FENCED
only: it leads to READY, and with a context active on to ACTIVE (R38). -/
def Obligations.GlobalCommands : Prop :=
  ∀ (s : State) (p : Path) (v : Word) (on : Bool),
    let e := aGctl 0x10
    let set := fun (i : Nat) => if on then s.reg e ||| ((1 : Word) <<< i) else s.reg e &&& ~~~((1 : Word) <<< i)
    let takes := fun (i : Nat) => s.Takes p e (set i) ∧ s.locked = false
    let stored := fun (i : Nat) => s.stored p e (set i)
    let ports := fun (i : Nat) => (.next (refreshPorts (List.range 9) (stored i)) : Host.Outcome State Fault Refusal)
    let paired := (s.reg e).getLsbD 6 = true → (s.reg e).getLsbD 0 = true
    s.regsWf = true →
    (takes 0 → (on = true ∨ (s.reg e).getLsbD 6 = false) → exec (.clusEn p on) s = ports 0) ∧
    (takes 2 → paired → exec (.fabrEn p on) s = ports 2) ∧
    (takes 3 → paired → exec (.uplinkEn p on) s = ports 3) ∧
    (takes 4 → paired → exec (.twinEn p on) s = ports 4) ∧
    (takes 5 → paired → exec (.trplEn p on) s = .next (refreshPorts (List.range 9)
      (if s.trplEn && !on then dropLines (fun _ => true) (stored 5) else if !s.trplEn && on then flushAll (stored 5) else stored 5))) ∧
    (takes 6 → (on = true → (s.reg e).getLsbD 0 = true) → exec (.gengEn p on) s = ports 6) ∧
    (s.Takes p (aGctl 0x28) v → exec (.gctlAclkWrite p v) s = .next (aclkRetarget (s.stored p (aGctl 0x28) v))) ∧
    (s.Takes p (aGctl 0x30) 1 → s.dev = .active → ∃ t, exec (.gctlDrain p) s = .next t ∧ t = startDrain (s.stored p (aGctl 0x30) 1) ∧ t.dev = .draining) ∧
    (s.Takes p (aGctl 0x30) 2 → s.dev = .fenced → s.faults.diagnosing = false → s.flash.health &&& 0x26 = 0 →
      ∃ t, exec (.gctlUnfence p) s = .next t ∧ (s.locked = false → t.dev = .ready) ∧ (s.locked = true → t.dev = .active))

/-- The Fabric Engine's commands (R310, R311, R314, R329): INJECT switches the epoch of what the device injects; a write of the exception table changes an entry of
the version not injected, none of whose packets is held; the companion's write of an uplink entry changes it, and one of the job directory or the RTT is refused;
a rank is taken unless another valid context of the job holds it and
the context is valid; a forward step moves TIME and a backward one is refused. -/
def Obligations.FabricCommands : Prop :=
  ∀ (s : State) (p : Path) (c : Fin 64) (v : Word),
    (s.Takes p (aFabr 0x200) v → exec (.fabrEpochWrite p v) s = .next (setEpoch (v.getLsbD 0) (s.stored p (aFabr 0x200) v))) ∧
    (s.Takes p (aFabr 0x208) 1 →
      let t := s.stored p (aFabr 0x208) 1
      let key := (if t.regBit (aFabr 0x204) 16 then 65536 else 0) + t.regField (aFabr 0x204) 15 0
      exec (.fabrExcRead p) s = .next (putFabrData 0x210 2 (NMap.get (fun _ => 0) s.fabric.exc key).toNat t)) ∧
    (s.Takes p (aFabr 0x208) 2 →
      let t := s.stored p (aFabr 0x208) 2
      let e := t.regBit (aFabr 0x204) 16
      let key := (if e then 65536 else 0) + t.regField (aFabr 0x204) 15 0
      (t.regBit (aFabr 0x200) 0 ≠ e → t.epochHeld e = 0 →
        ∃ u, exec (.fabrExcWrite p) s = .next u ∧
          u.fabric = { s.fabric with exc := NMap.set (fun _ => 0) s.fabric.exc key (BitVec.ofNat 64 (t.fabrData 0x210 2)) } ∧ u.regs = t.regs) ∧
      (t.regBit (aFabr 0x200) 0 = e ∨ t.epochHeld e ≠ 0 →
        ∃ u, exec (.fabrExcWrite p) s = .next u ∧ u.fabric = s.fabric ∧ (s.regsWf = true → u.regBit (aFabr 0x20C) 0 = true))) ∧
    (s.Takes p (aFabr 0x18) 1 →
      let t := s.stored p (aFabr 0x18) 1
      ∀ sel i n old, t.tblEntry = some (sel, i, n, old) → exec (.fabrTblRead p) s = .next (putFabrData 0x20 n old t)) ∧
    (s.Takes p (aFabr 0x18) 2 →
      let t := s.stored p (aFabr 0x18) 2
      ∀ sel i n old, t.tblEntry = some (sel, i, n, old) →
        ∃ u, exec (.fabrTblWrite p) s = .next u ∧
          (sel = 2 → u.fabric = { s.fabric with uplinks := NMap.set (fun _ => 0) s.fabric.uplinks i (BitVec.ofNat 256 (t.fabrData 0x20 n)) }) ∧
          (sel ≠ 2 → u.fabric = s.fabric ∧ (s.regsWf = true → u.regBit (aFabr 0x1C) 0 = true))) ∧
    (s.Takes p (aFabr (0x100 + 4 * c)) v → (s.ctx c).st.isActive = false →
      let taken := s.rankHeld c (s.regField (aCtx c 8) 15 0) v.toNat
      ((s.ctx c).st = .invalid ∨ taken = false → exec (.fabrCtxRankWrite p c v) s = .next (s.stored p (aFabr (0x100 + 4 * c)) v)) ∧
      ((s.ctx c).st = .configured → taken = true → ∃ t, exec (.fabrCtxRankWrite p c v) s = .next t ∧
        (s.regsWf = true → t.reg (aFabr (0x100 + 4 * c)) = s.reg (aFabr (0x100 + 4 * c))))) ∧
    (s.Takes p (aFabr 0x4C) v →
      let step := s.pairValue p (aFabr 0x48) (aFabr 0x48) v
      (step < 2 ^ 63 → let t := s.storedPair p (aFabr 0x48) step
        exec (.fabrTimeStep p v) s = .next { t with time := t.time + BitVec.ofNat 64 step }) ∧
      (2 ^ 63 ≤ step → ∃ t, exec (.fabrTimeStep p v) s = .next t ∧ t.time = s.time ∧ (s.regsWf = true → t.regBit (aFabr 0x58) 5 = true)))

/-- The Boundary Unit's and the margin scheduler's commands (R286, R353, R356, R358, R363): a window changes as a whole at its CTRL write; LOAD starts the load of a
descriptor, and one written while a load runs is refused and shows BUSY; a frame is released from being a table frame; a flash range is locked, once; a share is
stored when the shares fit the budget. -/
def Obligations.BoundaryCommands : Prop :=
  ∀ (s : State) (p : Path) (n : Fin 64) (r : Fin 8) (v : Word),
    (s.Takes p (aBndy (0x10C + 16 * n)) v → exec (.bndyWinCtrlWrite p n v) s = .next (windowWrite n v (s.stored p (aBndy (0x10C + 16 * n)) v))) ∧
    (s.Takes p (aBndy 0x18) 1 → s.bndy.desc = none → exec (.descLoad p) s = .next (descStart (s.stored p (aBndy 0x18) 1))) ∧
    (s.Takes p (aBndy 0x18) 1 → s.bndy.desc.isSome = true →
      ∃ t, exec (.descLoad p) s = .next t ∧ t.bndy = { s.bndy with descResult := 2 } ∧ t.fabric = s.fabric) ∧
    (s.Takes p (aBndy 0x2C) v → exec (.bndyPtRelease p v) s = .next (ptRelease (v.toNat % 2 ^ 19) (s.stored p (aBndy 0x2C) v))) ∧
    (s.Takes p (aBndy (0x80 + 8 * r)) (v ||| 0x80000000) → s.regBit (aBndy (0x80 + 8 * r)) 31 = false →
      exec (.bndyFwpLock p r v) s =
        .next ((s.stored p (aBndy (0x80 + 8 * r)) (v ||| 0x80000000)).setRegBit (aBndy (0x80 + 8 * r)) 31 true)) ∧
    (∀ off : Fin 4, let a := aMrgn (4 + 4 * off)
      s.Takes p a v → s.sharesFit a (BitVec.ofNat 32 (clampReg .mrgn (4 + 4 * off) v.toNat)) = true →
      exec (.mrgnShareWrite p (BitVec.ofNat 27 a) v) s = .next (s.stored p a v))

/-- The commit, twin and numeric commands (R241, R260, R384, R391 to R393, R397, R400): ABORT arms a FAULT vote; a step IN_DOUBT is resolved as the companion says, and
a resolution in any other phase is refused; an interruption's TIME joins the Cadence service's gaps; PAIR and UNPAIR act on the twin; DETACH starts a drain from
ACTIVE; the ledger's RD moves within what was written; a write of the probe's counter starts an evaluation, and its end shows the 32 bits of R243. -/
def Obligations.CommitCommands : Prop :=
  ∀ (s : State) (p : Path) (c : Fin 64) (v : Word),
    let a := aComt c 0
    let evt := s.reg a &&& 8
    (s.Takes p a (evt ||| 1) →
      let t := s.stored p a (evt ||| 1)
      exec (.comtAbort p c) s = .next (t.setCtx c { s.ctx c with abortArmed := true })) ∧
    (s.Takes p a (evt ||| 2) → (s.ctx c).phase = 4 → exec (.resolveCommit p c) s = .next (resolveStep c true (s.stored p a (evt ||| 2)))) ∧
    (s.Takes p a (evt ||| 4) → (s.ctx c).phase = 4 → exec (.resolveAbort p c) s = .next (resolveStep c false (s.stored p a (evt ||| 4)))) ∧
    (s.Takes p a (evt ||| 2) → (s.ctx c).phase ≠ 4 →
      let once := count (aGctl 0x50) 1 s
      let counted := match p with | .aperture _ => count (aTrpl 0x28) 1 once | _ => once
      ∃ t, exec (.resolveCommit p c) s = .next t ∧ t.regs = counted.regs ∧ t.ctxs = counted.ctxs) ∧
    (s.Takes p (aComtDev 0x28) v →
      let at' := s.pairValue p (aComtDev 0x24) (aComtDev 0x24) v
      exec (.cadInterruptReport p v) s = .next (cadInterrupt (BitVec.ofNat 64 at') (s.storedPair p (aComtDev 0x24) at'))) ∧
    (s.Takes p (aComtDev 0) 1 → exec (.twinPair p) s = .next (twinPair (s.stored p (aComtDev 0) 1))) ∧
    (s.Takes p (aComtDev 0) 2 → exec (.twinUnpair p) s = .next (twinUnpair (s.stored p (aComtDev 0) 2))) ∧
    (s.Takes p (aComtDev 0x14) 1 → s.dev = .active →
      ∃ t, exec (.detach p) s = .next t ∧ t.dev = .draining ∧ t.faults = { s.faults with drainDetach := true, draining := true }) ∧
    (s.Takes p (aNumc c 0x50) v → (v - s.reg (aNumc c 0x50)).toNat ≤ (s.reg (aNumc c 0x4C) - s.reg (aNumc c 0x50)).toNat →
      exec (.numcLedgerRdWrite p c v) s = .next (s.stored p (aNumc c 0x50) v)) ∧
    (s.Takes p (aProbe 0x14) v →
      let t := s.storedPair p (aProbe 0x10) (s.pairValue p (aProbe 0x10) (aProbe 0x10) v)
      exec (.rngsProbeStart p v) s = .next (probeStart t) ∧ (probeStart t).probe.isSome = true) ∧
    (∀ k n, s.probe = some (k, n) → ∃ t, exec .rngsProbeDone s = .next t ∧ t.probe = none ∧
      (s.regsWf = true → t.reg (aProbe 0x18) = BitVec.ofNat 32 (draw k.toNat n.toNat)))

/-- The security engine's and the ledger's commands (R443, R451 to R453, R459, R460, R464): GO starts a load unless one runs, the target is not open, or the object lies outside its bounds or
windows; ACTIVATE restarts the management cores into a valid staged runtime and CONFIRM keeps it; a quote is asked for unless one is pending; ENABLE tries a debug token and REVOKE
ends debug access; AUDT_ACK_SEQ moves forward within what is durable; AUDT_RD_SEQ fetches an entry. -/
def Obligations.SecurityCommands : Prop :=
  ∀ (s : State) (p : Path) (v : Word) (token : SignedObj),
    let load := v ||| 1
    (s.Takes p (aSecu 0x1C) load → s.loadRefused (bitsN load.toNat 3 1) = false →
      exec (.secuLoad p v) s = .next (secuLoad (bitsN load.toNat 3 1) (s.stored p (aSecu 0x1C) load))) ∧
    (s.Takes p (aSecu 0x24) 1 → s.activateRefused = false → exec (.activate p) s = .next (activate (s.stored p (aSecu 0x24) 1))) ∧
    (s.Takes p (aSecu 0x24) 2 → exec (.confirm p) s = .next (confirmUpdate (s.stored p (aSecu 0x24) 2))) ∧
    (s.Takes p (aSecu 0x30) (v ||| 1) → s.secu.quote = none →
      exec (.quoteGo p v) s = .next (quoteGo (v.getLsbD 1) (s.stored p (aSecu 0x30) (v ||| 1)))) ∧
    (s.Takes p (aSecu 0x38) 1 → exec (.dbgEnable p token) s = .next (dbgEnable (some token) (s.stored p (aSecu 0x38) 1))) ∧
    (s.Takes p (aSecu 0x38) 2 → exec (.dbgRevoke p) s = .next (dbgEnd (s.stored p (aSecu 0x38) 2))) ∧
    (s.Takes p (aAudt 0x2C) v → s.regsWf = true →
      let ack := s.pairValue p (aAudt 0x28) (aAudt 0x28) v
      s.ackOk (BitVec.ofNat 64 ack) = true → ∃ t, exec (.audtAckSeqWrite p v) s = .next t ∧ t.reg64 (aAudt 0x28) = BitVec.ofNat 64 ack ∧ t.dev = s.dev) ∧
    (s.Takes p (aAudt 0x54) v →
      let seq := s.pairValue p (aAudt 0x50) (aAudt 0x50) v
      ∀ ue : Bool,
        let asked := { s with audit := { s.audit with rdUe := ue } }
        let read := auditRead (BitVec.ofNat 64 seq) (asked.storedPair p (aAudt 0x50) seq)
        exec (.audtRdSeqWrite p ⟨v, ue⟩) s = .next { read with audit := { read.audit with rdUe := false } })

/-! ### The Trepel Link, the memory apertures and the rings -/

/-- Flits of the Trepel Link (R345 to R347): a flit with a bad CRC or out of sequence is discarded and answered with NAK; one in sequence is taken and
acknowledged, and an IDLE flit only acknowledges. Sixteen replays without progress start a retrain; a retrain that ends with a width replays
what is not acknowledged; where the down timer runs out the link is DOWN.
A SNOOP is answered, with the line's data if it is Modified here (R349); an invalidating one takes the line out of the cache, any other
leaves it Shared; it is counted, and an invalidating SNOOP of a watched line wakes each ring that watches it (R350): here no ring watches the line. -/
def Obligations.LinkFlits : Prop :=
  (∀ (s : State) (b : Bytes) (fail : BitVec 16), s.dev ≠ .off →
    let hdr := fieldLe b 0 2
    let good := b.length = 256 ∧ fieldLe b 0xF8 8 = crc64 (sliceB b 0 0xF8)
    let seq := BitVec.ofNat 12 hdr
    (s.trepel.state = 1 → ¬ good → exec (.trplFlitReceived b) s = .next (sendAck true s)) ∧
    (s.trepel.state = 1 → good → hdr / 4096 = 0 → exec (.trplFlitReceived b) s = .next (takeAck (fieldLe b 2 2) s)) ∧
    (s.trepel.state = 1 → good → hdr / 4096 ≠ 0 → seq ≠ s.trepel.rxSeq + 1 → exec (.trplFlitReceived b) s = .next (sendAck true s)) ∧
    (s.trepel.state = 1 → good → hdr / 4096 ≠ 0 → seq = s.trepel.rxSeq + 1 →
      exec (.trplFlitReceived b) s = .next (sendAck false (takeAck (fieldLe b 2 2) { s with trepel := { s.trepel with rxSeq := seq } }))) ∧
    (s.trepel.state = 1 → s.replayFlits ≠ [] →
      let once := replayAll { s with trepel := { s.trepel with replays := s.trepel.replays + 1 } }
      exec .trplReplayTimeout s = .next (if 15 ≤ s.trepel.replays then startRetrain once else once)) ∧
    (s.trepel.state ≠ 1 → ∀ w, trainTrepel fail s.linkCap = some w →
      let t := { s with trepel := { s.trepel with laneFail := fail, width := w } }
      exec (.trplRetrainDone fail) s = .next (flushAll (replayAll (setLink 1 t)))) ∧
    (s.trepel.state = 2 ∨ s.trepel.state = 3 → ∃ t, exec .trplDownTimer s = .next t ∧ t.trepel.state = 3) ∧
    trainTrepel 0 0 = some 0 ∧ (∀ cap, cap ≤ 1 → fail ≠ 0 → fail.toNat % 256 = 0 → trainTrepel fail cap = some 1)) ∧
  ∀ (s : State) (line : Dword) (inv : Bool), s.linkServes = true → line.toNat % 64 = 0 → (inv = true → s.watchers line.toNat = []) →
    s.keysRise = true → NMap.rising 0 s.trepel.cache = true →
    let counted := count (aTrpl 0x18) 1 s
    let held := NMap.find? s.trepel.cache line.toNat
    let data := match held with | some x => if x.modified then x.data else [] | none => []
    ∃ t, exec (.snoop line inv) s = .next t ∧ t.outputs = counted.outputs ++ [.link 0x05 0 0 line data] ∧
      (inv = true → NMap.find? t.trepel.cache line.toNat = none) ∧
      (inv = false → NMap.find? t.trepel.cache line.toNat = held.map fun x => { x with modified := false, exclusive := false }) ∧
      (∀ a, a ≠ line.toNat → NMap.find? t.trepel.cache a = NMap.find? s.trepel.cache a) ∧ t.regs = counted.regs

/-- The memory apertures (R351 to R354): a data write stores its bytes at the address, redirected as its frame is, and nothing else in HBM changes; a data read is
answered with the bytes that lie there, its corrected errors being counted, or, where a burst is uncorrectable, with an error, the burst counted as such
and the access as failed; a table write is recorded, stores its 8 bytes and makes the frame a table frame, which the data aperture then refuses to
write; an access of a wrong size or while TRPL_EN is 0 completes UNSUPPORTED and is counted. -/
def Obligations.MemoryApertures : Prop :=
  ∀ (s : State) (req : Byte) (addr : Dword) (len : Nat) (d : Bytes) (env : Env),
    let a := addr.toNat
    let at0 := s.resolve a
    let served := s.trplEn = true ∧ dataSizeOk a len = true ∧ s.frameOk (a / 2 ^ 21) = true ∧ s.partnerFrame (a / 2 ^ 21) = false ∧
      s.stackUp (a / 2 ^ 36) = true
    let byte := fun (t : State) (k : Nat) => NMap.get hbmClear t.mem k
    (served → s.bndy.tableFrames.contains (a / 2 ^ 21) = false → s.dual a = none → Memory.wf s.mem = true → d.length = len →
      ∃ t, exec (.memDataApertureAccess req addr len (some d) env) s = .next t ∧
        (∀ i, i < len → byte t (at0 + i) = d.getD i 0) ∧ (∀ k, k < at0 ∨ at0 + len ≤ k → byte t k = byte s k) ∧
        t = { s with mem := t.mem }) ∧
    let bad := (bursts a len).filter fun b => env.ue.contains b
    (served → bad = [] → exec (.memDataApertureAccess req addr len none env) s =
      .next ((noteCes env a len s).emit (.link 0x08 0 0 addr (s.readPhys a len)))) ∧
    (served → bad ≠ [] → exec (.memDataApertureAccess req addr len none env) s =
      .next ((apErr (noteUes bad (noteCes env a len s))).emit (.link 0x08 3 0 addr []))) ∧
    (served → s.bndy.tableFrames.contains (a / 2 ^ 21) = true → s.auditFull = false →
      exec (.memDataApertureAccess req addr len (some d) env) s = .next (auditAppend (s.tableEntry 1 req a d) (apErr s))) ∧
    (∀ w, (s.trplEn = false ∨ dataSizeOk a len = false) →
      exec (.memDataApertureAccess req addr len w env) s = .next (apDone w.isSome 1 addr [] (apErr s))) ∧
    (s.trplEn = true → d.length = 8 → a % 8 = 0 → a < 2 ^ 40 → s.auditFull = false → s.frameOk (a / 2 ^ 21) = true → s.stackUp (a / 2 ^ 36) = true →
      s.dual a = none → Memory.wf s.mem = true →
      ∃ t, exec (.memTableApertureWrite req addr d) s = .next t ∧ t.bndy.tableFrames.contains (a / 2 ^ 21) = true ∧
        (∀ i, i < 8 → byte t (at0 + i) = d.getD i 0) ∧ (∀ k, k < at0 ∨ at0 + 8 ≤ k → byte t k = byte s k) ∧
        t.audit = (auditAppend (s.tableEntry 0 req a d) s).audit)

/-- The ring engine (R65 to R69, R350): the backstop reads the pointer line of every ring of an active context; a pointer line that comes moves the tail, and is refused as a ring error
when it moves back or beyond the ring's size; entries that come are taken in ring order; a read that fails for an entry is a ring error; MSI_TIME after the first
unsignalled record the interrupt is sent. -/
def Obligations.RingEngine : Prop :=
  ∀ (s : State) (c : Fin 64) (r : Fin 8) (line : Bytes) (tag : BitVec 16) (k : Nat),
    let g := s.ring c r
    let n := BitVec.ofNat 32 (fieldLe line 0 4)
    let free := { s with trepel := { s.trepel with outstanding := s.trepel.outstanding.filter fun o => o.2 ≠ ReadUse.pointer c r } }
    let marked := { free with trepel := { free.trepel with marks := free.trepel.marks.filter fun m => m ≠ watchIdx c r } }
    let got := cacheShared (s.reg64 (aRing c r 0x0C)).toNat line marked
    let awaited := s.ringWorks c r = true ∧ s.readingPtr c r = true ∧ s.trepel.marks.contains (watchIdx c r) = false
    (s.regField (aGeng 0) 15 0 = 0 → exec .gengPollExpire s = .next s) ∧
    (s.regField (aGeng 0) 15 0 ≠ 0 → s.activeCtxs = [c.val] → s.ringWorks c r = true → (∀ q, q < 8 → q ≠ r.val → s.ringWorks c q = false) →
      s.readingPtr c r = false → s.winAllows (s.reg64 (aRing c r 0x0C)).toNat 64 false = true → (∀ q, q < 8 → s.readingPtr c q = false) →
      exec .gengPollExpire s = .next (readLine (s.reg64 (aRing c r 0x0C)).toNat (.pointer c r) s)) ∧
    (awaited → ¬ (4 ≤ r.val ∧ r.val ≤ 6) → newer g.compPtr n = false → (n - g.devPtr).toNat ≤ s.ringSize c r →
      exec (.rdSharedDone c r (.pointer line)) s = .next (readEntries c r (got.setRing c r { g with compPtr := n }))) ∧
    (awaited → ¬ (4 ≤ r.val ∧ r.val ≤ 6) → newer g.compPtr n = true → exec (.rdSharedDone c r (.pointer line)) s = .next (ringError c r 1 got)) ∧
    (awaited → ¬ (4 ≤ r.val ∧ r.val ≤ 6) → newer g.compPtr n = false → s.ringSize c r < (n - g.devPtr).toNat →
      exec (.rdSharedDone c r (.pointer line)) s = .next (ringError c r 2 got)) ∧
    (s.linkServes = true → s.trepel.outstanding.find? (fun o => o.1 = tag) = some (tag, .entries c r k) →
      exec (.completion tag 0 line) s = .next (gotEntry c r k line s) ∧
      ∀ st, st ≠ 0 → exec (.completion tag st line) s = .next (ringError c r 3 (endRead (.entries c r k) s))) ∧
    (∀ t0, g.firstAt = some t0 → s.regBit (aRing c r 8) 1 = true → t0.toNat + max 1 (s.regField (aRing c r 0x28) 15 0) * 1000 ≤ s.time.toNat →
      exec (.msiTimerExpire c r) s = .next (sendMsi c r (s.setRing c r { g with unsignalled := 0, firstAt := none })))

/-! ### Segments and tasks -/

/-- Submission (R44, R56 to R59, R67): an entry that fits is taken, its device pointer moves, and NOP is only consumed; a bad CHECK is a ring error; a segment with
the wrong number is rejected and the expected number stays; one whose table or blocks cannot be read is rejected; one that is in order is admitted and its
tasks queue, also on a ring that an error has stopped since its entry was taken; a predicate that is false discards its tasks. -/
def Obligations.SegmentCommands : Prop :=
  ∀ (s : State) (c : Fin 64) (r : Fin 4) (e : Bytes) (table : List Bytes) (env : Env),
    let g := SegDesc.ofBytes e
    let q := s.ring c r
    let taken := s.admits c = true ∧ s.ringEn c r = true ∧ q.taken = some e
    (s.sqHead c r = some e → checkOk e = false →
      exec (.segment c r) s = .next (ringError c r 3 s) ∧ exec (.nop c r) s = .next (ringError c r 3 s)) ∧
    (s.keysRise = true → NMap.rising 0 (s.ctx c).rings = true → s.sqHead c r = some e → checkOk e = true → g.type ≠ 0 → s.room c g.places = true → s.afterMet c g = true →
      s.winAllows (s.reg64 (aRing c r 0x14)).toNat 64 true = true →
      ∃ t, exec (.segment c r) s = .next t ∧ (t.ring c r).taken = some e ∧ (t.ring c r).devPtr = q.devPtr + 1 ∧ (t.ring c r).expect = q.expect ∧
        t.outputs = s.outputs ++ [.line (s.reg64 (aRing c r 0x14)) (shadowLine (q.devPtr + 1))]) ∧
    (s.sqHead c r = some e → checkOk e = true → g.type ≠ 0 → s.room c g.places = false → exec (.segment c r) s = .next s) ∧
    (s.sqHead c r = some e → checkOk e = true → fieldLe e 0 1 = 0 → exec (.nop c r) s = .next (consume c r s)) ∧
    (taken → g.id ≠ q.expect → exec (.segmentValidate c r table env) s =
      .next (segmentRecord c g.cq stDiscarded dBadSequence g.id (s.setRing c r { q with taken := none }))) ∧
    (∀ d, taken → g.id = q.expect → checkSegDesc e = some d → d ≠ dBadSequence → exec (.segmentValidate c r table env) s =
      .next (segmentRecord c g.cq (rejectStatus d) d g.id (s.setRing c r { q with taken := none, expect := q.expect + 1 }))) ∧
    (∀ vs s1, taken → g.id = q.expect → checkSegDesc e = none → readTable env c g table s = (.tasks vs, s1) →
      checkSegTasks { s := s1, c := c, pend := [], tasks := vs } g = none →
      s1.keysRise = true → NMap.rising 0 (s1.ctx c).rings = true → (s1.ring c r).cancel = [] →
      ∃ t, exec (.segmentValidate c r table env) s = .next t ∧ (t.ring c r).expect = (s1.ring c r).expect + 1 ∧ (t.ring c r).taken = none ∧
        (t.ctx c).tasks = (s1.ctx c).tasks ++ s1.newTasks c r g vs ∧ (t.ctx c).order = (s1.ctx c).order + (s1.newTasks c r g vs).length ∧
        t.regs = s1.regs ∧ t.mem = s1.mem ∧ t.outputs = s1.outputs) ∧
    (∀ st d s1, taken → g.id = q.expect → checkSegDesc e = none → readTable env c g table s = (.reject st d, s1) →
      exec (.segmentValidate c r table env) s = .next (rejectSegment c r g st d s1)) ∧
    (g.inDevice = false → s.winAllows g.table (64 * g.count) false = true →
      let lines := (List.range g.count).map fun i => sliceB (table.getD i []) 0 64
      (∀ b ∈ lines, (Desc.ofBytes b).readsExt = false) →
      readTable env c g table s = (.tasks (lines.map fun b => { d := Desc.ofBytes b, ext := [], raw := b }), s)) ∧
    (∀ id k h x, (s.ctx c).segs.find? (fun g => decide (g.ring = r) && decide (g.id = id) && g.predWait) = some k → s.predReady c k = true →
      h = (Slot.ofWord k.d.predWord).handle →
      let s1 := s.setCtx c { s.ctx c with segs := (s.ctx c).segs.map fun j => if j.order = k.order then { j with predWait := false } else j }
      (s1.readVer c h k.predBind).failed = none → s1.readTensor c h k.predBind = some x →
      exec (.predicateDecide c r id) s = .next (match (readMat envQuiet { Who.ofCtx c with seq := id } 1 1 x).run s1 with
        | (.ok (v, _), u) =>
          closeSegments c (if predHolds fmt32 k.d.predOp (v.at 0 0) k.d.predValue then u else endSegment c k stDiscarded dPredFalse u)
        | (.error e, u) =>
          let ended := closeSegments c (endSegment c k e.status dInherited u)
          (match e.kill with | some cause => killCtx c cause ended | none => ended))) ∧
    exec (.sqResume c) s = .next (readEntries c 3 (readEntries c 2 (readEntries c 1 (readEntries c 0 s))))

/-- Issue and end of tasks (R52 to R55, R63, R135, R138): a queued task whose dependences are met, its fused partner's too, and whose inputs did not fail,
issues with its deadline once its tables are read, an OPTIMIZE on its quire's update engine; one whose input failed ends INHERITED without running, one whose
tables cannot be read with that status; one that has run completes; up to four waiting ramps of a quire begin, one that has taken its window has enabled the
groups that the tiles need, or as a ramp-down has gated them all; a cluster whose run has ended asks for its ramp-down. -/
def Obligations.TaskIssueAndEnd : Prop :=
  ∀ (s : State) (r : TaskRef) (n : Fin 512) (q : Fin 32) (t : Task) (ns : Word),
    let x := s.ctx r.ctx
    let ready := t.st = .queued ∧ t.superseded = false ∧ (x.st = .active ∨ x.st = .quiescing) ∧ s.cqBufFull r.ctx = false ∧ x.lateWords = [] ∧
      s.depsMet t = true ∧ s.partnerReady t = true
    let layer := if t.d.repeats ∧ t.attempt = 0 then some t.d.layer else none
    let tables := (readTables t.who (tableConsumer t.d.kind) (tableUse t.d.kind) (s.taskStreams t) layer).run s
    let limit := if kindOnCluster t.d.kind then s.taskLimitNs else if t.d.kind = kWait ∧ t.d.op = 1 then waitNs t.d else 0
    let issued := { t with st := .issued, level := 0, cluster := if kindOnCluster t.d.kind then some n else none,
                           engine := if t.d.kind = kOptimize then some (quireFin n) else none,
                           deadline := s.time + BitVec.ofNat 64 limit, issuedAt := s.time, pip := s.pipIssued t }
    (s.task? r = some t → ready → s.inheritedOf t = none → kindOnCluster t.d.kind = false → (t.d.kind = kOptimize → s.engineUp (quireFin n) = true) →
      ∀ s0, tables = (.ok (), s0) → (s0.ctx r.ctx).group? t = none → t.ref = r →
      exec (.taskIssue r n) s = .next (count (aGeng 0x18) 1 (s0.setTask issued))) ∧
    (s.task? r = some t → ready → s.inheritedOf t = none → kindOnCluster t.d.kind = true → s.clusterFree r.ctx n t.d.kind 0 = true →
      ∀ s0, tables = (.ok (), s0) → (s0.ctx r.ctx).group? t = none → t.ref = r →
      exec (.taskIssue r n) s = .next (placeTask issued n (count (aGeng 0x18) 1 (s0.setTask issued)))) ∧
    ((∀ i ∈ s.taskStreams t, refStepped i = false) → (layer = none ∨ s.layerHandle r.ctx = none) → t.ref = r → tables = (.ok (), s)) ∧
    (s.task? r = some t → ready → s.inheritedOf t = none → ∀ e s0, tables = (.error e, s0) →
      let ended := endTask t e.status e.detail s0
      exec (.taskIssue r n) s = .next (match e.kill with | some k => killCtx r.ctx k ended | none => ended)) ∧
    (∀ st, s.task? r = some t → ready → s.inheritedOf t = some st → exec (.taskIssue r n) s = .next (endTask t st dInherited s)) ∧
    (s.task? r = some t → t.st = .ran → x.st.isActive = true → kindOnCluster t.d.kind = true →
      exec (.taskComplete r ns) s = .next (finishRun t ns (closeOps r s))) ∧
    (s.task? r = some t → t.st = .ran → x.st.isActive = true → kindOnCluster t.d.kind = false →
      exec (.taskComplete r ns) s = .next (finishRun t 0 (closeOps r s))) ∧
    (s.clusters = [] → s.rampQueue q = [] → exec (.rampGrant q) s = .next { s with ramps := NMap.set (fun _ => []) s.ramps q [] }) ∧
    (∀ (a : Fin 512), s.keysRise = true → quireOf a = q.val →
      let k := s.clus a
      let after := fun (k1 : Cluster) => { s.setClus a k1 with ramps := NMap.set (fun _ => []) s.ramps q [] }
      let alone := ∀ b, b < 512 → b ≠ a.val → (s.clus b).ramping = false
      (alone → k.ramping = false → s.rampQueue q = [a.val] → k.rampDown = true → exec (.rampGrant q) s = .next (after { k with ramping := true })) ∧
      (alone → k.ramping = false → s.rampQueue q = [a.val] → k.rampDown = false → k.rampWait = true →
        exec (.rampGrant q) s = .next (after { k with ramping := true, run := true, rampWait := false })) ∧
      (alone → k.ramping = true → s.rampQueue q = [] → k.rampDown = true → k.rampWait = false →
        exec (.rampGrant q) s = .next (after { k with ramping := false, rampDown := false, groups := 0, bank := false })) ∧
      (alone → k.ramping = true → s.rampQueue q = [] → k.rampDown = false →
        exec (.rampGrant q) s = .next (after { k with ramping := false, groups := k.groups ||| s.neededGroups a }))) ∧
    ((s.clus n).run = true → (s.clus n).ctx = 0xFF → (s.clus n).ramping = false → (s.rampQueue (quireOf n)).contains n.val = false →
      exec (.runEnd n) s = .next (askRamp n (s.setClus n { s.clus n with run := false, rampDown := true, mode := 0 })))

/-- The kinds of task that run to an end of their own accord (R49, R53, R126, R145, R175, R190, R203 to R210, R278): the command of an issued task of its kind and OP runs it and keeps what it
leaves until TASK_COMPLETE; a run that fails keeps its status; one that consumes poison completes and kills its context (R61, R279). -/
def Obligations.TasksRun : Prop :=
  ∀ (s : State) (r : TaskRef) (env : Env) (t0 : Task), s.task? r = some t0 → t0.st = .issued → (s.ctx r.ctx).st.isActive = true →
    let t := (s.ctx r.ctx).noteVers t0
    let ends : Except RunStop RunOut × State → Host.Outcome State Fault Refusal := fun x => .next (match x with
      | (.ok o, u) => u.setTask { t with st := .ran, res := o.res, undo := t.undo ++ o.undo }
      | (.error e, u) =>
        let res := { Result.empty with status := e.status, detail := e.detail }
        (match e.kill with
          | none => u.setTask { t with st := .ran, res := res }
          | some cause => killCtx r.ctx.val cause
              (afterComplete t (completeWith { t with res := res } e.status e.detail (u.nsOf t) false (u.setTask { t with res := res })))))
    let ramped := s.rampWaits t0 = false
    let is := fun k op => t0.d.kind = k ∧ t0.d.op = op
    (t0.d.kind = kMatmul → ramped → exec (.matmul r env) s = ends ((productBody false env t).run s)) ∧
    (t0.d.kind = kMatvec → ramped → exec (.matvec r env) s = ends ((productBody true env t).run s)) ∧
    (t0.d.kind = kQuantize → exec (.quantize r env) s = ends ((quantizeBody env t).run s)) ∧
    (is kVector 0 → exec (.oplist r env) s = ends ((vectorBody env t).run s)) ∧
    (is kVector 1 → exec (.rmsnormFwd r env) s = ends ((vectorBody env t).run s)) ∧
    (is kVector 2 → exec (.rmsnormBwd r env) s = ends ((vectorBody env t).run s)) ∧
    (is kVector 3 → exec (.layernormFwd r env) s = ends ((vectorBody env t).run s)) ∧
    (is kVector 4 → exec (.layernormBwd r env) s = ends ((vectorBody env t).run s)) ∧
    (is kVector 5 → exec (.softmaxFwd r env) s = ends ((vectorBody env t).run s)) ∧
    (is kVector 6 → exec (.softmaxBwd r env) s = ends ((vectorBody env t).run s)) ∧
    (is kOptimize 1 → exec (.compress r env) s = ends ((compressBody env t).run s)) ∧
    (is kOptimize 2 → exec (.norm r env) s = ends ((normBody env t).run s)) ∧
    (is kOptimize 3 → exec (.update r env) s = ends ((updateBody env t).run s)) ∧
    (is kOptimize 4 → exec (.requant r env) s = ends ((requantBody env t).run s)) ∧
    (t0.d.kind = kCopy → exec (.copy r env) s = ends ((copyBody env t).run s)) ∧
    (t0.d.kind = kEvent →
      let e := mkEvent (BitVec.ofNat 16 (fieldLe t0.d.params 0 2)) 0 t0.who.ctx noUnit (sliceB t0.d.params 8 8)
      let u := raise { e with type := 0x11, layer := t0.who.layer, seq := t0.who.seq, index := t0.who.index } s
      exec (.event r) s = .next (u.setTask { t with st := .ran, res := Result.empty, undo := t.undo ++ [] })) ∧
    (is kWait 1 → s.counterReached t0 = true →
      exec (.waitCounter r) s = .next (s.setTask { t with st := .ran, res := Result.empty, undo := t.undo ++ [] })) ∧
    (is kWait 1 → t0.deadline ≤ s.time → exec (.waitTimeout r) s =
      .next (s.setTask { t with st := .ran, res := { Result.empty with status := stFabricTimeout }, undo := t.undo ++ [] })) ∧
    (is kWait 2 → fieldLe t0.d.params 8 8 ≤ s.time.toNat →
      exec (.waitTime r) s = .next (s.setTask { t with st := .ran, res := Result.empty, undo := t.undo ++ [] }))

/-- Collectives (R337 to R340): the command of an issued or waiting task of its OP runs it as far as what has come allows, and leaves it waiting or ended; a window
opens while 32 MiB hold one more, and its senders get their credits. -/
def Obligations.CollectivesRun : Prop :=
  ∀ (s : State) (r : TaskRef) (env : Env) (t0 : Task), s.task? r = some t0 → (t0.st = .issued ∨ t0.st = .waiting) → (s.ctx r.ctx).st.isActive = true →
    t0.d.kind = kCollective →
    let t := (s.ctx r.ctx).noteVers t0
    let goes : Except RunStop (Option RunOut) × State → Host.Outcome State Fault Refusal := fun x => .next (match x with
      | (.ok none, u) => u.setTask { t with st := .waiting }
      | (.ok (some o), u) => u.setTask { t with st := .ran, res := o.res, undo := t.undo ++ o.undo }
      | (.error e, u) =>
        let res := { Result.empty with status := e.status, detail := e.detail }
        (match e.kill with
          | none => u.setTask { t with st := .ran, res := res }
          | some cause => killCtx r.ctx.val cause
              (afterComplete t (completeWith { t with res := res } e.status e.detail (u.nsOf t) false (u.setTask { t with res := res })))))
    (t0.d.op = 1 → exec (.allReduce r env) s = goes ((groupBody env t).run s)) ∧
    (t0.d.op = 2 → exec (.reduceScatter r env) s = goes ((groupBody env t).run s)) ∧
    (t0.d.op = 3 → exec (.allGather r env) s = goes ((groupBody env t).run s)) ∧
    (t0.d.op = 4 → exec (.broadcast r env) s = goes ((groupBody env t).run s)) ∧
    (t0.d.op = 5 → exec (.allToAll r env) s = goes ((groupBody env t).run s)) ∧
    (t0.d.op = 6 → exec (.send r env) s = goes ((sendBody env t).run s)) ∧
    (t0.d.op = 7 → exec (.fetch r env) s = goes ((fetchBody t).run s)) ∧
    (∀ v, (ColParams.ofBytes t0.d.params).group = true → s.window? r = none → (s.fabric.windows.length + 1) * s.colWindowBytes ≤ 32 * 2 ^ 20 →
      s.colView t0 = some v → s.mapFails v = false →
      let senders := (v.expected.map fun e => s.memberRank v e.2).eraseDups
      let cells := s.colWindowBytes / 64
      let n := max 1 (min senders.length (cells / 140))
      let w : ColWindow := { ctx := v.c, job := s.ctxJob v.c, collId := BitVec.ofNat 10 (ColParams.ofBytes t0.d.params).id, task := r, started := false, vals := [], sent := [], outbox := [], share := cells / n, ungranted := senders.drop n }
      let opened := { s with fabric := { s.fabric with windows := s.fabric.windows ++ [w] } }
      exec (.colWindowOpen r) s = .next ((senders.take n).foldl (fun u m => sendGrant w m (cells / n) u) opened))

/-! ### The admin ring and the contexts -/

/-- The admin ring (R46, R60, R62, R64, R122, R184, R185, R221, R251, R252, R258): the command at its head is taken in order and completes with one record; each has its effect where its checks
pass and nothing in flight holds it back; a handle that goes leaves its imports what they read;
CANCEL also holds for the ring's segments that its tail covers and that are not admitted yet; a table that cannot be read ends its command; one that waits takes effect once nothing does, QUIESCE once nothing is in flight. -/
def Obligations.AdminCommands : Prop :=
  ∀ (s : State) (c : Fin 64) (e img : Bytes) (env : Env), s.adminHead c = some e → checkOk e = true →
    BitVec.ofNat 32 (fieldLe e 4 4) = (s.ring c 7).expect → adminReserved e = false →
    let s1 := consume c 7 s
    let u := s1.setRing c 7 { s1.ring c 7 with expect := (s1.ring c 7).expect + 1 }
    let x := u.ctx c
    let typ := fieldLe e 0 1
    let h := fieldLe e 0x10 4
    let sc := fieldLe e 0x10 1
    let sh := fieldLe e 0x14 4
    let lh := fieldLe e 0x18 4
    let step := BitVec.ofNat 64 (fieldLe e 0x10 8)
    let fn := fieldLe e 0x10 1
    let im := sliceB img 0 24640
    let ok := fun (t : State) => (Host.Outcome.next (adminDone c e adminOk t) : Host.Outcome State Fault Refusal)
    (typ = 0x20 → checkDefn (sliceB e 0x18 32) = none → u.beyondHtab c h = false → u.handleBusy c h = false →
      exec (.defineHandle c) s = ok (defineHandle c h (sliceB e 0x18 32) u)) ∧
    (typ = 0x20 → checkDefn (sliceB e 0x18 32) = none → u.beyondHtab c h = false → u.handleBusy c h = true →
      exec (.defineHandle c) s = .next (u.setCtx c { x with adminWait := some (e ++ []) })) ∧
    (∀ d, typ = 0x21 → sc < 64 → (u.ctx sc).st ≠ .invalid → (u.ctx sc).handle? sh = some d → u.beyondHtab c lh = false → u.ctxJob c = u.ctxJob sc →
      d.shareable = true → u.handleBusy c lh = false →
      let imp : Handle := { d with flags := d.flags ||| 2, source := some (d.home sc sh), clipBound := false, charge := 0, shadow := none }
      let v := dropHandle c lh u
      exec (.shareHandle c) s = ok (v.setCtx c { v.ctx c with handles := NMap.insert (v.ctx c).handles lh imp })) ∧
    (typ = 0x22 → u.beyondHtab c h = false → (x.handle? h).isSome = true → u.handleBusy c h = false →
      exec (.dropHandle c) s = ok (dropHandle c h u)) ∧
    (typ = 0x23 → fieldLe e 0x10 1 < 4 →
      let r := fieldLe e 0x10 1
      let first := BitVec.ofNat 32 (fieldLe e 0x14 4)
      let unissued := fun (t : Task) => decide (t.ref.ring.val = r) && decide (t.st = .queued) && !newer first t.ref.seg
      let t := endTasks c unissued stDiscarded dCancelled u
      let g := t.ring c r
      let next := g.expect + BitVec.ofNat 32 g.taken.toList.length + (g.compPtr - g.devPtr)
      let v := if newer next first then t.setRing c r { g with cancel := g.cancel ++ [(first, next)] } else t
      exec (.cancel c) s = ok (castLost (v.ctx c).tasks.length c v)) ∧
    (typ = 0x24 → ¬ step ≤ u.reg64 (aRngs c 0x20) →
      let cs := (x.cursors.filter fun k => k.1 ≠ step) ++ [(step, BitVec.ofNat 64 (fieldLe e 0x18 8))]
      exec (.dataCursor c) s = ok (u.setCtx c { x with cursors := cs })) ∧
    (typ = 0x25 → 0x80 ≤ fn → fn ≤ 0xBF → fieldLe e 0x11 1 = 0 → fieldLe e 0x20 4 = 24640 → u.winAllows (fieldLe e 0x18 8) 24640 false = true →
      checkImage im = none → x.funcBusy fn = false → u.auditFull = false →
      let d := leNat (shake256 im 16)
      let t := auditAppend (mkEntry 1 2 0 (BitVec.ofNat 48 c) (BitVec.ofNat 64 (4 * 2 ^ 56 + c * 256 + fn)) (BitVec.ofNat 64 d) (BitVec.ofNat 64 (d / 2 ^ 64))) u
      exec (.loadFunction c img env) s = ok (t.setCtx c { t.ctx c with funcs := NMap.insert (t.ctx c).funcs fn im })) ∧
    (∀ r t, typ = 0x26 → fieldLe e 0x10 1 = 0 → adminSetSlot c e u = .done r t → exec (.setSlot c) s = .next (adminDone c e r t)) ∧
    (∀ hh t0, typ = 0x26 → fieldLe e 0x10 1 = 1 → u.streamHandle c = some hh → u.commTensor c hh = some t0 →
      ∀ hd v, (tableData envQuiet (Who.ofCtx c) 1 1 t0 0).run u = (.ok hd, v) →
      fieldLe hd 0 8 = v.seed c → fieldLe hd 0x18 1 = v.slotsLog2 c → fieldLe hd 8 8 = fieldLe e 0x18 8 → (v.ctx c).streamsBusy = false →
      let t1 := (v.setReg64 (aRngs c 0x20) (BitVec.ofNat 64 (fieldLe hd 8 8))).setReg64 (aRngs c 0x28) (BitVec.ofNat 64 (fieldLe hd 0x10 8))
      let t2 := t1.setCtx c { t1.ctx c with cursors := [], realign := false }
      exec (.realign c) s = ok (noteRealign c 1 0xFFFF (fieldLe hd 8 8) (fieldLe hd 0x10 8) t2)) ∧
    (∀ hh t0 er v, typ = 0x26 → fieldLe e 0x10 1 = 1 → u.streamHandle c = some hh → u.commTensor c hh = some t0 →
      (tableData envQuiet (Who.ofCtx c) 1 1 t0 0).run u = (.error er, v) →
      exec (.realign c) s = .next (adminDone c e (er.status, er.detail) (match er.kill with | some st => killCtx c st v | none => v))) ∧
    (typ = 0x27 → x.st = .active → ((setCtxState c .quiescing u).ctx c).inflight = 0 → exec (.quiesce c) s = ok (setCtxState c .quiescing u)) ∧
    (typ = 0x27 → x.st = .active → ((setCtxState c .quiescing u).ctx c).inflight ≠ 0 →
      let t := setCtxState c .quiescing u
      exec (.quiesce c) s = .next (t.setCtx c { t.ctx c with adminWait := some (e ++ []) })) ∧
    (typ = 0x28 → exec (.echo c) s = ok u)

/-- Commands that wait, and what leaves a context (R60, R64, R223): a waiting command takes effect once nothing holds it back; QUIESCE completes when nothing is in flight; a context whose rings are all disabled
is CONFIGURED again, and the device is READY with its last; a layer whose attempt 0 is dropped runs its repeat set again from its queue, its ledger
records marked, its running pip checks going on as superseded and those not started skipped. -/
def Obligations.WaitingEnds : Prop :=
  ∀ (s : State) (c : Fin 64) (r : Fin 4) (seg : Word) (layer : BitVec 16) (env : Env),
    let x := s.ctx c
    (∀ b a t, x.adminWait = some b → fieldLe (b.take 64) 0 1 ≠ 0x27 → (x.st = .active ∨ x.st = .quiescing) → adminRun c (b.take 64) (b.drop 64) s = .done a t →
      exec (.adminDeferredEffect c) s = .next (adminDone c (b.take 64) a (t.setCtx c { t.ctx c with adminWait := none }))) ∧
    (∀ b, x.adminWait = some b → fieldLe (b.take 64) 0 1 = 0x27 → adminReserved (b.take 64) = false → x.st = .quiescing → x.inflight = 0 →
      exec (.quiesceDone c) s = .next (adminDone c (b.take 64) adminOk (s.setCtx c { x with adminWait := none }))) ∧
    ((x.st = .active ∨ x.st = .quiescing) → s.anyRing c = false → x.inflight = 0 →
      exec (.contextRelease c) s = .next (recount (setCtxState c .configured s))) ∧
    (s.keysRise = true → s.dev = .active → s.activeCtxs = [c.val] → s.anyRing c = false → x.inflight = 0 → (x.st = .active ∨ x.st = .quiescing) →
      ∃ t, exec (.contextRelease c) s = .next t ∧ t.dev = .ready ∧ (t.ctx c).st = .configured ∧ t.activeCtxs = []) ∧
    (∀ g, s.keysRise = true → x.groups.find? (fun g => decide (g.ring = r ∧ g.seg = seg ∧ g.layer = layer) && g.due) = some g → x.st.isActive = true → x.repeatSet g = [] →
      exec (.layerRepeat c r seg layer env) s = .next (s.setCtx c (x.setGroup { g with due := false, attempt := 1 }))) ∧
    (∀ g, x.groups.find? (fun g => decide (g.ring = r ∧ g.seg = seg ∧ g.layer = layer) && g.due) = some g → x.st.isActive = true →
      ((x.repeatSet g).any fun t => decide (t.st = .issued ∨ t.st = .waiting ∨ t.st = .ran)) = false →
      let ts := x.repeatSet g
      let dropped := ts.foldl (fun u t => supersede t u) (ts.reverse.foldl (fun u t => dropAttempt t u) s)
      let again := fun (t : Task) => { t with st := .queued, attempt := 1, superseded := false, level := g.level, undo := [], undoVers := [], trips := 0, held := none, cluster := none, engine := none, ledger := none, res := Result.empty, pip := [] }
      let y := { dropped.ctx c with tasks := (dropped.ctx c).tasks.map fun (t : Task) => if ts.any (fun u => decide (u.order = t.order)) then again t else t }
      exec (.layerRepeat c r seg layer env) s =
        .next (convertMasters env c (ts.map again) (dropped.setCtx c (y.setGroup { g with due := false, attempt := 1 }))))

/-! ### Step commit and checkpoints -/

/-- The vote word (R376): the words of a tree combine to the same reduced word in whatever order they come; its flags are the OR of all, STEP_MISMATCH also where two steps
differ, and STEP_MIN the least. -/
def Obligations.VotesCombineInAnyOrder : Prop :=
  ∀ (w : Dword) (ws vs : List Dword), ws.Perm vs →
    let all := w :: ws
    let r := ws.foldl voteCombine w
    vs.foldl voteCombine w = r ∧
    (∀ i, i < 32 → i ≠ vStepMismatch → r.getLsbD i = all.any fun x => x.getLsbD i) ∧
    (r.getLsbD vStepMismatch = true ↔ (∃ x ∈ all, x.getLsbD vStepMismatch = true) ∨ ∃ x ∈ all, ∃ y ∈ all, x.toNat / 2 ^ 32 ≠ y.toNat / 2 ^ 32) ∧
    (∃ x ∈ all, r.toNat / 2 ^ 32 = x.toNat / 2 ^ 32) ∧ (∀ x ∈ all, r.toNat / 2 ^ 32 ≤ x.toNat / 2 ^ 32)

/-- What a reduced word decides (R379): the first matching row of the table, for every word. -/
def Obligations.ReducedWordDecides : Prop :=
  ∀ (w : Dword),
    let bit := fun i => w.getLsbD i
    let hold := ∃ i, (i = 0 ∨ (3 ≤ i ∧ i ≤ 8)) ∧ bit i = true
    let numeric := bit 1 = true ∨ bit 2 = true
    (hold → voteDecide w = .abort true) ∧
    (¬ hold → bit 17 = true → voteDecide w = .skip) ∧
    (¬ hold → bit 17 = false → numeric → bit 21 = true → bit 22 = true → voteDecide w = .abort true) ∧
    (¬ hold → bit 17 = false → numeric → bit 21 = true → bit 22 = false → voteDecide w = .skip) ∧
    (¬ hold → bit 17 = false → numeric → bit 21 = false → voteDecide w = .abort false) ∧
    (¬ hold → bit 17 = false → ¬ numeric → voteDecide w = .commit)

/-- The vote of a step (R374 to R380): STEP_END skips the pip checks that have not started, writes its tables, prepares and casts, votes with a fault
where a table could not be written, and ends with its context killed where a table's tile is poisoned; a child's word waits for the others; the parent's reduced word takes effect; a child that does not vote in time counts as TIMEOUT; a word
that finds no answer is sent again, twice the timeout is IN_DOUBT, and the quiet period of an abort ends with admission. -/
def Obligations.StepCommands : Prop :=
  ∀ (s u u1 : State) (c : Fin 64) (child : Fin 16) (r : TaskRef) (env : Env) (t : Task) (d : Delivered),
    let x := s.ctx c
    let n := x.tasks.length
    let y := u1.ctx c
    let w : Dword := BitVec.ofNat 64 (fieldLe d.pkt.payload 0 8)
    let came := takeDelivered 0x20 s = some (d, u) ∧ d.ctx = some c.val ∧ seqCheck d.pkt u = (u1, .fresh) ∧ payloadOk d.pkt.payload = true ∧
      d.pkt.payload.length = 12 ∧ u1.participant c = true
    (r.ctx = c → s.task? r = some t → t.d.kind = kStepEnd → t.st = .issued → t.step = s.stepOf c → x.phase.toNat < 3 → s.repairRuns = false →
      let wrote := (writeTables env t.who r t.step).run (skipStepPips c t.step (s.setCtx c { x with stepTask := some r }))
      (∀ out, wrote = (.ok out, u) → exec (.stepEnd r env) s = .next (castLost n c (prepareAndCast c t.step t.d.params (some out) 0 u))) ∧
      (∀ e cause, wrote = (.error e, u) → e.kill = some cause → exec (.stepEnd r env) s = .next (killCtx c cause (endStepTask c e.status u))) ∧
      (∀ e, wrote = (.error e, u) → e.kill = none →
        let fault := orBit 0 ((voteOfStatus e.status).getD vFault) true
        exec (.stepEnd r env) s = .next (castLost n c (prepareAndCast c t.step t.d.params none fault u)))) ∧
    (∀ i rank, came → (u1.voteChildren c).find? (fun e => decide (e.2 = d.pkt.src)) = some (i, rank) → u1.roundClosed c i d.pkt.info .fresh = false →
      (y.childWords.find? i).isSome = false → y.voted = false →
      exec .vote s = .next (u1.setCtx c { y with childWords := NMap.insert y.childWords i w })) ∧
    (∀ i rank k z, came → (u1.voteChildren c).find? (fun e => decide (e.2 = d.pkt.src)) = some (i, rank) → u1.roundClosed c i d.pkt.info .fresh = true →
      y.heldWord d.pkt.info = some (k, z) →
      exec .vote s = .next (sendVote c rank (k.setWidth 32) z false u1)) ∧
    (came → (u1.voteChildren c).find? (fun e => decide (e.2 = d.pkt.src)) = none → d.pkt.src = u1.voteParent c → u1.voteRoot c = false →
      u1.reducedOld c d.pkt.info w = false → y.voted = true →
      exec .vote s = .next (castLost y.tasks.length c (applyReduced c w u1))) ∧
    (s.sinceCast c (s.voteTimeoutNs c) = true → x.voted = true → (x.childWords.find? child.val).isSome = false → s.regBit (aComt c (0x20 + 4 * child)) 31 = true →
      let late := { x with childWords := NMap.insert x.childWords child.val (orBit ((s.voteStep c) <<< 32) vTimeout true), timedOut := x.timedOut ++ [child.val] }
      exec (.voteTimeout c child) s = .next (castLost n c (tryCombine c (s.setCtx c late)))) ∧
    (s.sinceCast c (s.voteResendNs c) = true → s.waitsReduced c = true →
      exec (.voteResend c) s = .next (sendVote c (s.voteParent c) ((s.voteStep c).setWidth 32) (s.combined c) true s)) ∧
    (s.keysRise = true → x.phase = 3 → s.sinceCast c (2 * s.voteTimeoutNs c) = true →
      ∃ t, exec (.inDoubt c) s = .next t ∧ (t.ctx c).phase = 4 ∧ (t.ctx c).castAt = x.castAt ∧ t.mem = s.mem) ∧
    (s.keysRise = true → x.phase = 5 → s.sinceCast c (s.quietNs c) = true →
      ∃ t, exec (.quietExpire c) s = .next t ∧ (t.ctx c).phase = 0 ∧ (t.ctx c).tries = x.tries ∧ (t.ctx c).timedOut = [] ∧ t.mem = s.mem)

/-- Checkpoints (R386 to R397): a WRITE that names no layer ends at once, one that names some captures its image and starts them; each layer that is durable or failed is decided on its own; RESTORE
and RESTORE LOCAL run as tasks of their mode; a CHECKPOINT waits while another of its context runs; DETACHED follows FENCED when the twin has confirmed. -/
def Obligations.CheckpointCommands : Prop :=
  ∀ (s : State) (r : TaskRef) (env : Env) (t0 : Task) (image : Bytes) (found readable ok : Bool) (ms : Word) (k : CkpRun),
    let c := r.ctx.val
    let t := (s.ctx c).noteVers t0
    let mode := fieldLe t0.d.params 0 1
    let free := s.task? r = some t0 ∧ t0.st = .issued ∧ (s.ctx c).st.isActive = true ∧ t0.d.kind = kCheckpoint ∧ (s.ctx c).ckpBusy = false
    let ends : Except RunStop RunOut × State → State := fun x => match x with
      | (.ok o, u) => u.setTask { t with st := .ran, res := o.res, undo := t.undo ++ o.undo }
      | (.error e, u) =>
        let res := { Result.empty with status := e.status, detail := e.detail }
        (match e.kill with
          | none => u.setTask { t with st := .ran, res := res }
          | some cause => killCtx c cause (afterComplete t (completeWith { t with res := res } e.status e.detail (u.nsOf t) false (u.setTask { t with res := res }))))
    let durable := fun (u : State) => (Host.Outcome.next (cadRefresh (ckpAdvance c u)) : Host.Outcome State Fault Refusal)
    ((s.ctx c).ckpBusy = true → exec (.checkpointWrite r env) s = .next s ∧ exec (.checkpointRestore r image found readable) s = .next s ∧
      exec (.checkpointRestoreLocal r) s = .next s) ∧
    (free → mode = 1 → (s.ctx c).ckpLayers t.d.params = 0 →
      exec (.checkpointWrite r env) s = .next (ckpBegin c (s.setTask { t with st := .ran, res := Result.empty, undo := t.undo ++ [] }))) ∧
    (∀ im tainted u, free → mode = 1 → (s.ctx c).ckpLayers t.d.params ≠ 0 → (ckpImage env t.who ((fieldLe t.d.params 2 1).testBit 0) false).run s = (.ok (im, tainted), u) →
      ∃ v, exec (.checkpointWrite r env) s = .next (ckpBegin c v) ∧ (s.keysRise = true → u.keysRise = true → (v.ctx c).ckp.map (fun y => (y.task, y.step, y.image, y.waiting)) =
        some (r, u.reg64 (aRngs c 0x20), im, [((s.ctx c).ckpLayers t.d.params).toNat + 16]))) ∧
    (free → mode = 2 → fieldLe t0.d.params 1 1 ≠ 0 → exec (.checkpointRestore r image found readable) s = .next (ends ((restoreBody image found readable t).run s))) ∧
    (free → mode = 2 → fieldLe t0.d.params 1 1 = 0 → exec (.checkpointRestoreLocal r) s = .next (ends ((restoreLocalBody t).run s))) ∧
    ((s.ctx c).ckp = some k → k.task = r → k.waiting.contains 1 = true → exec (.ckpLayerDurable r 1 ok ms) s = durable (ckpDone1 c k ok ms s)) ∧
    ((s.ctx c).ckp = some k → k.task = r → (k.waiting.contains 2 = true ∨ k.waiting.contains 4 = true) → exec (.ckpLayerDurable r 2 ok ms) s = durable (ckpDone2 c k ok ms s)) ∧
    ((s.ctx c).ckp = some k → k.task = r → k.waiting.contains 3 = true → exec (.ckpLayerDurable r 3 ok ms) s = durable (ckpDone3 c k ok ms s)) ∧
    (s.dev = .fenced → s.faults.drainDetach = true → ∃ u, exec .detachConfirmed s = .next u ∧ u.dev = .detached ∧ u.prev = .fenced ∧ u.regs = (setDev .detached s).regs)

/-! ### Faults, decisions and domain resets -/

/-- Checks and decisions (R229 to R233, R286, R404 to R412): a sampled tile is checked once, on a cluster of another quire, within the pip share; a crosscheck moves its number,
compares each output with the one its seed and number give, counts a clean pair and starts a decision otherwise; a third computation ends a decision with the suspects its table names; beyond 1 ms every cluster involved is suspect. -/
def Obligations.DecisionCommands : Prop :=
  ∀ (s : State) (r : TaskRef) (t : Task) (tile : Nat) (ns : Word) (env : Env) (n m : Fin 512) (d : Decision) (seenA seenB : List (Nat × Word)) (p q : Bool),
    let sums := fun (o c : Int) => exec (.abftDecision r n (.sums o c)) s
    let ends := fun (trigger code : Nat) (suspects : List Nat) => (Host.Outcome.next (endDecision d trigger code suspects s) : Host.Outcome State Fault Refusal)
    let abft := s.decision? .abft (some r) = some d ∧ d.clusters.contains n.val = false
    let cross := s.decision? .crosscheck none = some d ∧ d.clusters.contains n.val = false
    let a := d.clusters.getD 0 0
    let b := d.clusters.getD 1 0
    let crossEnds := fun (code : Nat) (suspects : List Nat) =>
      (Host.Outcome.next (endDecision d 2 0 suspects (raiseCross d code n s)) : Host.Outcome State Fault Refusal)
    let pip := s.decision? .pip (some r) = some d ∧ d.clusters.contains n.val = false
    let plaus := s.decision? .plausibility (some r) = some d ∧ ((n.val :: m.val :: d.clusters).map quireOf).Nodup
    let pair := crossPair (s.reg (aRstc 0x38)).toNat
    let crossing := s.dev.serves = true ∧ s.regBit (aMrgn 0) 0 = true ∧ s.regBit (aMrgn 0) 2 = true
    let idleOf := fun (k : Nat) => s.clusterOut k = false ∧ s.crossFits (quireOf k) ns.toNat = true
    let s1 := (useCross (quireOf pair.2) ns.toNat (useCross (quireOf pair.1) ns.toNat s)).setReg (aRstc 0x38) (s.reg (aRstc 0x38) + 1)
    let differ := crossDiff (crossOut (s.reg64 (aRstc 0x30)).toNat (s.reg (aRstc 0x38)).toNat) seenA seenB
    let mayRun := s.task? r = some t ∧ (s.ctx r.ctx).pipRuns.find? (fun e => decide (e.1.ref = r) && decide (e.2.tile = tile)) = none ∧ t.st = .complete ∧
      t.superseded = false ∧ t.pip.contains tile = true ∧ (∃ k : Fin 512, t.cluster = some k ∧ quireOf k.val ≠ quireOf n.val) ∧ (s.clus n).busy = false ∧ s.clusterOut n = false ∧
      s.regBit (aMrgn 0) 0 = true ∧ s.regBit (aMrgn 0) 3 = true ∧ s.dev.serves = true ∧ (s.ctx t.ref.ctx).st.isActive = true
    let out := pipRun env t tile (usePip (quireOf n) ns.toNat s)
    let begun := out.1.setTask { t with pip := t.pip.erase tile }
    let x := begun.ctx t.ref.ctx
    (mayRun → s.pipFits (quireOf n) ns.toNat = true →
      exec (.pipCheck r tile n ⟨ns, env⟩) s = .next (begun.setCtx t.ref.ctx { x with pipRuns := x.pipRuns ++ [(t, out.2.started tile n)] })) ∧
    (mayRun → s.pipFits (quireOf n) ns.toNat = false → exec (.pipCheck r tile n ⟨ns, env⟩) s = .next (skipShort t tile s)) ∧
    (∀ k, (s.ctx r.ctx).pipRuns.find? (fun e => decide (e.1.ref = r) && decide (e.2.tile = tile)) = some (t, k) →
      exec (.pipCheck r tile n ⟨ns, env⟩) s = .next (pipEnd t k s)) ∧
    (crossing → (s.clusterOut pair.1 = true ∨ s.clusterOut pair.2 = true) →
      exec (.crosscheck seenA seenB p q ns) s = .next (s.setReg (aRstc 0x38) (s.reg (aRstc 0x38) + 1))) ∧
    (crossing → s.clusterOut pair.1 = false → s.clusterOut pair.2 = false → (s.crossFits (quireOf pair.1) ns.toNat = false ∨ s.crossFits (quireOf pair.2) ns.toNat = false) →
      exec (.crosscheck seenA seenB p q ns) s = .next (noteLimited (count (aMrgn 0x38) 1 s))) ∧
    (crossing → idleOf pair.1 → idleOf pair.2 →
      (differ = none → exec (.crosscheck seenA seenB false false ns) s = .next (crossClean pair.1 pair.2 s1)) ∧
      (differ ≠ none ∨ p = true ∨ q = true →
        exec (.crosscheck seenA seenB p q ns) s = .next (crossFail pair.1 pair.2 (s.reg (aRstc 0x38)) p q differ s1))) ∧
    (∀ o c, abft → (o ≠ c → sums o c = ends 1 4 (d.clusters ++ [n.val])) ∧ (o = c → o = d.observed → sums o c = ends 1 1 d.clusters) ∧
      (o = c → o ≠ d.observed → o = d.checksum → sums o c = ends 1 2 d.clusters) ∧ (o = c → o ≠ d.observed → o ≠ d.checksum → sums o c = ends 1 3 d.clusters)) ∧
    (cross → exec (.crosscheckDecision n p q true) s = crossEnds 4 [a, b, n.val] ∧ exec (.crosscheckDecision n true q false) s = crossEnds 2 [b] ∧
      exec (.crosscheckDecision n false true false) s = crossEnds 1 [a] ∧ exec (.crosscheckDecision n false false false) s = crossEnds 3 [a, b]) ∧
    (pip → exec (.pipHardDecision r n true q) s = ends 3 0 (d.clusters.take 1) ∧ exec (.pipHardDecision r n false true) s = ends 3 0 ((d.clusters.drop 1).take 1) ∧
      exec (.pipHardDecision r n false false) s = ends 3 0 (d.clusters.take 1 ++ (d.clusters.drop 1).take 1)) ∧
    (plaus → exec (.plausibilityDecision r n m true true) s = ends 4 0 [] ∧ exec (.plausibilityDecision r n m true false) s = ends 4 0 d.clusters ∧
      exec (.plausibilityDecision r n m false q) s = ends 4 0 (d.clusters ++ [n.val, m.val])) ∧
    (∀ id, s.faults.decisions.find? (fun k => decide (k.id = id)) = some d → d.kind ≠ .crosscheck → d.since.toNat + 1000000 ≤ s.time.toNat →
      exec (.decisionTimeout id) s = ends d.kind.trigger (if d.kind = .abft then 4 else 0) d.clusters)

/-- What drains, diagnoses and resets the device (R54, R411 to R418): an ACTIVE device that a trigger drains arms the FAULT votes and drains, a READY one is FENCED at once; one reproduced cluster is
replaced by a spare of its die; a core that double-faults goes offline, with a management-only restart or LCK; the watchdog and a hung management transaction reset the
device; a spine link that fails all of a frame's retries resets the die it isolates, and an overrun the cluster. -/
def Obligations.FaultCommands : Prop :=
  ∀ (s : State) (trigger : BitVec 8) (suspects : List (Fin 528)) (n : Fin 512) (core link : Fin 8) (ms : Word) (r : TaskRef) (t : Task) (crc : Bool),
    let ps := suspects.map fun p => p.val
    let noted := noteDrain trigger.toNat 0 ps { s with faults := { s.faults with suspects := (s.faults.suspects ++ ps).eraseDups } }
    let hour := s.faults.tcsHour.toNat = s.time.toNat / 3600000000000
    let lim := if s.regField (aRstc 0x3C) 15 0 = 0 then 16 else s.regField (aRstc 0x3C) 15 0
    let offline := { s with flash := { s.flash with coreMask := s.flash.coreMask &&& ~~~((1 : Byte) <<< core.val) }, faults := { s.faults with dblFault := some s.time } }
    let ended := { s with faults := { s.faults with diagnosing := false } }
    let armed := noted.activeCtxs.foldl (fun (u : State) c => u.setCtx c { u.ctx c with abortArmed := true }) noted
    (s.dev = .active → exec (.chipDrained trigger suspects) s =
      .next (setDev .draining { armed with faults := { armed.faults with draining := true, drainDetach := false, diagnosing := true } })) ∧
    (s.dev = .active → ∃ u, exec (.chipDrained trigger suspects) s = .next u ∧ u.dev = .draining ∧ u.prev = .active) ∧
    (s.dev = .ready → exec (.chipDrained trigger suspects) s =
      .next (holdSuspects (setDev .fenced { noted with faults := { noted.faults with diagnosing := true } }))) ∧
    (hour → lim < s.faults.tcsCount → exec .tcsRateTrip s = .next (chipDrain 5 0 [] s)) ∧
    (s.dev = .draining → (∀ c ∈ s.activeCtxs, (s.ctx c).inflight = 0) →
      let left := s.activeCtxs.foldl (fun u c => drainRelease c (drainImage c u)) s
      let u := setDev .fenced { left with faults := { left.faults with draining := false } }
      exec .drainComplete s = .next (if u.faults.drainDetach then u else holdSuspects u)) ∧
    (∀ p, s.dev = .fenced → s.faults.diagnosing = true → s.freeSpare (n.val / 128) = some p →
      exec (.diagnosis [n] true ms) s = .next (spareCluster n.val p ms s) ∧ exec (.diagnosis [n] false ms) s = .next (setHealth 0x3 ended) ∧
      exec (.diagnosis [] true ms) s = .next (setHealth 0x3 ended)) ∧
    (s.dev = .fenced → s.faults.diagnosing = true → s.freeSpare (n.val / 128) = none → exec (.diagnosis [n] true ms) s = .next (setHealth 0x5 ended)) ∧
    (s.dev ≠ .off → s.flash.coreMask.getLsbD core = true → 7 ≤ s.coresOnline → (∀ at0, s.faults.dblFault = some at0 → at0.toNat + 1000000000 ≤ s.time.toNat) →
      exec (.coreDoubleFault core) s = .next (mgmtRestart 0 offline)) ∧
    (s.dev ≠ .off → s.flash.coreMask.getLsbD core = true → (s.coresOnline < 7 ∨ ∃ at0, s.faults.dblFault = some at0 ∧ s.time.toNat < at0.toNat + 1000000000) →
      exec (.coreDoubleFault core) s = .next (resetDevice .lck false false none offline)) ∧
    (s.dev ≠ .off → exec .mgmtTransactionTimeout s = .next (resetDevice .lck false false none s)) ∧
    (s.regBit (aRstc 0x0C) 3 = true → s.faults.wdtKick.toNat + s.wdtTimeout ≤ s.time.toNat → exec .wdtExpire s = .next (resetDevice .wdt false false none s)) ∧
    exec (.spineFlitReceived link crc) s = .next (setSpine link.val (if crc then [] else (s.time :: s.spineFails link.val).take 9) s) ∧
    (s.spineFailed link.val = true → exec (.spineLinkDown link) s = .next (startReset 3 (spineDie link.val) 3 none (setSpine link.val [] s))) ∧
    (s.spineFailed link.val = false → exec (.spineLinkDown link) s = .next s) ∧
    (s.task? r = some t → t.cluster = some n → t.st = .issued → ¬ s.time < t.deadline →
      exec (.taskOverrun r) s = .next (endTask t stDomainReset dOverrun (startReset 5 n.val 2 none s)))

/-- The reset of a domain (R420 to R427): it fences, drains, records, asserts and releases part by part, and confirms with the last; a domain that does not confirm within its bound escalates to its parent, a
port is isolated. -/
def Obligations.DomainResetStages : Prop :=
  ∀ (s : State) (id : Nat) (r : DomReset) (k : Word) (w : Bool), s.reset? id = some r →
    let tasks := s.activeCtxs.foldl (fun u c => endTasks c (fun t => t.placedIn r.domain r.unit) stDomainReset dNone u) s
    let h : RecHead := { domain := r.domain, cause := r.source.toNat, escalated := r.source == 6, unit := r.unit, fence := r.fenceAt, ctxs := r.ctxs, answered := r.answered, prev := r.prevSeq }
    let secs := [(1, r.queue), (3, s.engineEntries (domainRegs r.domain r.unit))]
    (r.stage = .fence → exec (.domainFence id) s = .next (putReset { r with stage := .drain } (restartDecisions r.domain r.unit tasks))) ∧
    (r.stage = .drain → exec (.domainDrainEnd id) s = .next (putReset { r with stage := .record } s)) ∧
    (r.stage = .drain → r.fenceAt.toNat + s.drainLimit ≤ s.time.toNat → exec (.drainLimitExpire id k) s = .next (putReset { r with stage := .record, answered := k } s)) ∧
    (r.stage = .record → exec (.resetRecordWritten id true) s = .next (assertReset { r with recSeq := some (s.reg (aRstc 0x50)) } (writeRecord h secs s)) ∧
      exec (.resetRecordWritten id false) s = .next (assertReset r (loseRecord s))) ∧
    (∀ p rest u, r.stage = .release → r.parts = p :: rest → partReady r p w s = some u → rest ≠ [] →
      exec (.domainPartReady id w) s = .next (putReset { r with parts := rest } u)) ∧
    (∀ p u, r.stage = .release → r.parts = [p] → partReady r p w s = some u → exec (.domainPartReady id w) s = .next (confirmReset { r with parts := [] } u)) ∧
    (r.domain = 7 → ¬ s.time < r.boundAt → r.gated = false → exec (.resetBoundExpire id) s = .next (isolatePort r s)) ∧
    (r.domain = 3 → ¬ s.time < r.boundAt → r.gated = false →
      exec (.resetBoundExpire id) s = .next (escalateDevice r.recSeq (count (aRstc 0x40) 1 (dropReset id s)))) ∧
    (r.domain = 4 ∨ r.domain = 5 ∨ r.domain = 6 → ¬ s.time < r.boundAt → r.gated = false →
      let up := parentOf r.domain r.unit
      let us := min (2 ^ 32 - 1) ((s.time - r.fenceAt).toNat / 1000)
      let d := leBytes 1 r.domain ++ leBytes 1 up.1 ++ leBytes 2 r.unit ++ leBytes 2 up.2 ++ leBytes 1 r.stage.hung ++ leBytes 1 0 ++ leBytes 4 us
      exec (.resetBoundExpire id) s = .next (raiseDev 0x0405 2 r.unit d (startReset up.1 up.2 6 r.recSeq (count (aRstc 0x40) 1 (dropReset id s))))) ∧
    (r.gated = true → r.stage = .assert → exec (.resetBoundExpire id) s = .next s)

/-! ### HBM upkeep, ports, time, the Boundary Unit -/

/-- The upkeep of HBM (R262, R281 to R289): channels fall due by their interval or with drift and train in slots, a vote window defers them; a row is repaired within the share and
logged, a frame is copied to its spare and redirected; a window shows its use; a deadline pre-empts traffic. -/
def Obligations.HbmUpkeep : Prop :=
  ∀ (s : State) (n : Fin 12) (ch : Fin 32) (shift temp : Int) (row : RowAddr) (left : Nat) (frame : BitVec 19) (filled : List Nat) (us : Word) (party : Dword) (w : Bool),
    let k := s.stack n
    let up := s.stackUp n = true
    let quiet := s.voteWindow = false
    let due := k.due.find? fun e => decide (e.channel = ch.val)
    let read := endPreempt (count (aHbmc n 0x30) 1 (useStack n trainNs (s.setStack n { k with temp := temp, hot := decide (85 < temp) })))
    let f := frame.toNat
    let done := s.regField (aHbmc n 0x28) 15 0
    let retirable := fun (noSpareRow : Bool) => f / 2 ^ 15 = n.val ∧ s.frameOk f = true ∧ up ∧ k.move = none ∧ (s.flash.redirects.any fun r => decide (r.frame = frame)) = false ∧
      (if noSpareRow then s.frameSpent n f = true else 2 ≤ NMap.get (fun _ => 0) k.ueFrames f)
    let mayRepair := (w = true ∨ s.rowDue n row = true) ∧ up ∧ k.repairing = none
    (up → s.intervalDue n ch = true → exec (.hbmRetrainDue n (some ch)) s = .next (s.setStack n (k.dueFor ch 1 s.time))) ∧
    (up → s.driftDue n = true → exec (.hbmRetrainDue n none) s = .next (allDue n 2 s)) ∧
    (s.intervalDue n ch = false → exec (.hbmRetrainDue n (some ch)) s = .next s) ∧
    (∀ x, due = some x → up → s.voteWindow = true → exec (.hbmTrainingSlot n ch w shift temp) s = .next (deferSlot s)) ∧
    (∀ x, due = some x → up → quiet → s.slotRuns 1 = true → exec (.hbmTrainingSlot n ch true shift temp) s = .next (trainedOk n ch x.reason shift temp read) ∧
      exec (.hbmTrainingSlot n ch false shift temp) s = .next (trainedBad n ch read)) ∧
    (mayRepair → quiet → s.regBit (aMrgn 0) 0 = true → s.stackFits n repairNs = true → ∃ trigger : Nat, (trigger = if w || k.erring.any (fun e => decide (e.row = row) && e.ue) then 2 else 1) ∧
      exec (.rowRepair n row w left) s = .next (useStack n repairNs (s.setStack n { k with repairing := some (row, BitVec.ofNat 8 trigger, left) }))) ∧
    (mayRepair → quiet → s.regBit (aMrgn 0) 0 = true → s.stackFits n repairNs = false → exec (.rowRepair n row w left) s = .next (noteLimited s)) ∧
    (w = false → s.rowDue n row = false → exec (.rowRepair n row w left) s = .next s) ∧
    (∀ trigger, s.keysRise = true → k.repairing = some (row, trigger, left) → ∃ t, exec (.rowSpared n) s = .next t ∧ (t.stack n).repairing = none ∧
      t.flash = { s.flash with rows := s.flash.rows ++ [{ stack := n, row := row, hard := false, trigger := trigger, left := BitVec.ofNat 8 (min 255 left) }] } ∧ t.mem = s.mem ∧
      (s.regsWf = true → t.reg (aHbmc n 0x28) = BitVec.ofNat 32 (min 65535 (done + 1)))) ∧
    (∀ i, retirable w → s.freeFrame n = some i →
      exec (.frameRetire n frame w) s = .next (s.setStack n { k with move := some { frame := frame, spare := BitVec.ofNat 3 i, trigger := if w then 1 else 2 } })) ∧
    (retirable w → s.freeFrame n = none → exec (.frameRetire n frame w) s =
      .next (setHealth 0x9 (pageRetired n f 0xFFFFFFFF (if w then 1 else 2) 0 0 (s.setStack n { k with ueFrames := NMap.erase k.ueFrames f })))) ∧
    (∀ m, k.move = some m → up → quiet → s.regBit (aMrgn 0) 0 = true → s.stackFits n copyNs = true → ∃ t, exec (.frameCopyDone n filled us) s = .next t ∧
      t.flash = { s.flash with redirects := s.flash.redirects ++ [{ stack := n, frame := m.frame, spare := m.spare }] } ∧
      t.mem = (copyFrame m.frame.toNat (s.spareBase n + m.spare.toNat) filled s).mem ∧ (s.keysRise = true → NMap.rising 0 s.hbm = true → (t.stack n).move = none)) ∧
    (∀ m, k.move = some m → up → quiet → s.regBit (aMrgn 0) 0 = true → s.stackFits n copyNs = false → exec (.frameCopyDone n filled us) s = .next (noteLimited s)) ∧
    (s.recalDue 0 = true → quiet → s.slotRuns 4 = true → exec .recalibration s = .next (endPreempt { s with mrgnRecal := some s.time })) ∧
    (∀ (a b : BitVec 16) (held : Bool), exec (.mrgnWindow a b held) s =
      .next ((s.setReg (aMrgn 0x1C) (s.lastUse.shown a.toNat b.toNat)).setRegBit (aMrgn 0x18) 2 (s.lastUse.limited || held))) ∧
    (∀ act : BitVec 8, quiet → s.activityLate act.toNat = true →
      let raised := ((count (aMrgn 0x20) 1 s).setReg64 (aMrgn 0x40) s.time).setRegBit (aMrgn 0x18) 1 true
      exec (.mrgnDeadlineExpire act party) s =
        .next (auditHw (mkEntry 5 5 0 3 (BitVec.ofNat 64 (6 * 2 ^ 56)) party (BitVec.ofNat 64 (0x0406 * 2 ^ 48 + act.toNat))) raised)) ∧
    (s.keysRise = true → ∃ t, exec (.hbmHot n temp) s = .next t ∧ (t.stack n).temp = temp ∧ ((t.stack n).hot = true ↔ 85 < temp) ∧ t = { s with hbm := t.hbm })

/-- Ports, epochs and the time sources (R296 to R298, R314, R315, R319, R329): a training brings a port up at the width its lanes allow, or down; lost lock and too many uncorrectable
codewords bring it down, and it trains again; a drained epoch is reported; PPS captures TIME, and its loss and PTP's are flagged; a PTP message received steers the servo and keeps its
times, one sent leaves as ONE_STEP has it or reports its egress timestamp. -/
def Obligations.PortAndTimeCommands : Prop :=
  ∀ (s : State) (p : Fin 9) (fail : Byte) (n : Word) (kind : BitVec 4) (o : Int) (frame : Bytes) (offset : Option Int),
    let x := s.port p
    let trains := s.portEnabled p = true ∧ x.isolated = false ∧ (x.state = 1 ∨ x.state = 4)
    let failed := portDown p 3 0 (s.setPort p { x with laneFail := fail, srst := false })
    let e := s.regBit (aFabr 0x200) 0
    let times := s.portCarries p = true ∧ s.regBit (aPort p 0x38) 0 = true
    let noted := if kind = 2 then s.setPort p { x with pdelayAt := s.rxStamp p } else s
    let slave := fun (u : State) => { u with fabric := { u.fabric with ports := u.fabric.ports.map fun q => (q.1, { q.2 with ptpSlave := decide (q.1 = p.val) }) } }
    let synced := fun (u : State) => { u with fabric := { u.fabric with syncAt := s.time } }
    let sent := count (aPort p 0x80) 1 s
    let lost := s.setRegBit (aFabr 0x58) 4 true
    (trains → s.lanesOf p fail ≠ .none → exec (.portTrainingDone p fail true) s = .next (portUp p fail (s.lanesOf p fail) s)) ∧
    (trains → s.lanesOf p fail = .none → exec (.portTrainingDone p fail true) s = .next failed) ∧
    (trains → exec (.portTrainingDone p fail false) s = .next failed) ∧
    (x.up = true → exec (.pcsLockLoss p) s = .next (portDown p 1 0 s)) ∧
    (x.up = true → s.ucwLimit p < n.toNat → exec (.ucwLimitExceeded p n) s = .next (portDown p 2 n s)) ∧
    (s.portEnabled p = true → x.state = 4 → exec (.portRetrainTimer p) s = .next (auditState 5 3 p 4 1 (s.setPort p { x with state := 1 }))) ∧
    (s.fabric.epochOpen = true → s.epochHeld (!e) = 0 →
      exec .epochSwitch s = .next (raiseDev 0x0304 0 noUnit (leBytes 1 (if e then 1 else 0) ++ leBytes 3 0 ++ leBytes 4 s.fabric.epochDrained.toNat ++ leBytes 8 s.fabric.epochTime.toNat)
        { s with fabric := { s.fabric with epochOpen := false } })) ∧
    (s.fabric.epochOpen = true → s.epochHeld (!e) = 0 → ∃ t, exec .epochSwitch s = .next t ∧ t.fabric = { s.fabric with epochOpen := false } ∧ t.mem = s.mem) ∧
    (s.fabric.epochOpen = true → s.epochHeld (!e) ≠ 0 → exec .epochSwitch s = .next s) ∧
    (s.regBit (aFabr 0x54) 2 = true → exec .ppsEdge s = .next (s.setReg64 (aFabr 0x60) s.time)) ∧
    (s.regBit (aFabr 0x54) 2 = true → (s.reg64 (aFabr 0x60)).toNat + 2000000000 ≤ s.time.toNat → exec .ppsLost s = .next (s.setRegBit (aFabr 0x58) 3 true)) ∧
    ((s.fabric.ports.any fun q => q.2.ptpSlave) = true → s.fabric.syncAt.toNat + 3000000000 ≤ s.time.toNat →
      let ports := lost.fabric.ports.map fun q => (q.1, { q.2 with ptpSlave := false })
      exec .ptpLost s = .next { lost with fabric := { lost.fabric with ports := ports, servoGood := 0 } }) ∧
    (times → exec (.ptpMessage p none kind (some o)) s = .next (servoUpdate o (if kind = 0 then synced (slave noted) else slave noted))) ∧
    (times → exec (.ptpMessage p none kind none) s = .next (if kind = 0 ∧ x.ptpSlave = true then synced noted else noted)) ∧
    (times → s.regBit (aPort p 0x38) 2 = true → exec (.ptpMessage p (some frame) kind offset) s = .next (sent.emit (.frame p (withFcs (s.oneStep p kind.toNat frame) false)))) ∧
    (times → s.regBit (aPort p 0x38) 2 = false → exec (.ptpMessage p (some frame) kind offset) s =
      .next (let u := sent.emit (.frame p (withFcs frame false)); if kind.toNat < 4 then u.emit (.ptpStamp p kind.toNat (s.txStamp p)) else u))

/-- The Boundary Unit and the clocks (R35, R260, R356 to R358, R362): a window change drops the lines outside every window; a descriptor's load is recorded with its RESULT, one that passes is applied, and a directory write out of range sets REFUSED; a thermal tick runs the clamp, which lowers its ceiling a step
while a junction is at 100 °C or the thermal pin is low and raises it after ten calm comparisons, and then the gate, which trips at 110 °C; a glide ends at its target; the probe shows its draw. -/
def Obligations.BoundaryEvents : Prop :=
  ∀ (s : State) (b : Bytes) (sig low : Bool) (x : Sensors) (addr : Dword) (key : BitVec 128) (ctr : Dword),
    let seen := { s with power := { s.power with sensors := x, thermLow := low } }
    let job := fieldLe b 2 2
    let r := s.descResult addr.toNat b sig
    let loads := s.bndy.desc = some addr ∧ s.linkServes = true
    let entry := mkEntry 5 2 (if r = 1 then 0 else 1) 2 (BitVec.ofNat 64 (7 * 2 ^ 56 + r * 2 ^ 24 + fieldLe b 1 1 * 2 ^ 16 + job)) (BitVec.ofNat 64 (fieldLe b 8 4)) (BitVec.ofNat 64 (fieldLe b 0x24 4))
    let told := auditHw entry (if r = 3 then violation addr.toNat s else s)
    let loaded := { told with bndy := { told.bndy with desc := none, descResult := BitVec.ofNat 4 r, descJob := BitVec.ofNat 16 job } }
    let outside := r = 8 ∧ fieldLe b 1 1 = 1 ∧ s.rangeBad job (fieldLe b 0x18 4) (fieldLe b 0x1C 4) = true
    (s.bndy.winPending = true → ∃ t, exec .winPendingClear s = .next t ∧ t.bndy = { s.bndy with winPending := false } ∧
      (∀ e ∈ t.trepel.cache, s.lineInside e.1 = true) ∧ (∀ e ∈ s.trepel.cache, s.lineInside e.1 = true → e ∈ t.trepel.cache)) ∧
    (s.bndy.winPending = false → exec .winPendingClear s = .next s) ∧
    (loads → r = 1 → exec (.descLoadDone b sig) s = .next (applyDesc b loaded)) ∧
    (loads → outside → exec (.descLoadDone b sig) s = .next (loaded.setRegBit (aFabr 0x1C) 0 true)) ∧
    (loads → r ≠ 1 → ¬ outside → exec (.descLoadDone b sig) s = .next loaded) ∧
    (s.bndy.desc = some addr → s.linkServes = true → r ≠ 1 → r ≠ 3 → ∃ t, exec (.descLoadDone b sig) s = .next t ∧ t.bndy.desc = none ∧
      t.bndy.descResult = BitVec.ofNat 4 r ∧ t.bndy.descJob = BitVec.ofNat 16 job ∧ t.fabric = s.fabric) ∧
    (s.bndy.desc = some addr → s.linkServes = true → r = 1 → fieldLe b 1 1 = 1 → ∃ t, exec (.descLoadDone b sig) s = .next t ∧ t.bndy.desc = none ∧
      t.bndy.descResult = 1 ∧ t.bndy.serials = NMap.insert s.bndy.serials job (BitVec.ofNat 32 (fieldLe b 8 4)) ∧
      t.fabric.jobdir = NMap.set (fun _ => 0) s.fabric.jobdir job (BitVec.ofNat 64 (fieldLe b 0x18 4 + fieldLe b 0x1C 4 * 2 ^ 21 + 2 ^ 63))) ∧
    (s.power.porDone = true → s.power.held = false → exec (.thermalClampTick x low) s = .next (thermalGate x (clampTick x low seen))) ∧
    (s.power.porDone = false ∨ s.power.held = true → exec (.thermalClampTick x low) s = .next seen) ∧
    (s.regsWf = true → (low = true ∨ ∃ d ∈ x.junction, 100 ≤ d) → (clampTick x low s).bndy.clampTherm = true ∧
      (clampTick x low s).regField (aBndy 0x24) 5 0 = max 24 (s.regField (aBndy 0x24) 5 0 - 1)) ∧
    (∀ u : State, low = false → (∀ d ∈ x.junction, d < 95) → u.bndy.calm = 9 → ¬ u.powerLimit < x.watt1ms.toNat →
      let n := min 40 (u.regField (aBndy 0x24) 5 0 + 1)
      clampTick x low u = setCeil n { u with bndy := { u.bndy with clampTherm := u.bndy.clampTherm && decide (n < 40), clampPower := u.bndy.clampPower && decide (n < 40), calm := 0 } }) ∧
    (s.bndy.trip = false → (∃ d ∈ x.junction, 110 ≤ d) → ∃ u, thermalGate x s = gateDies u ∧ u.bndy.trip = true) ∧
    (s.regBit (aGctl 0x2C) 8 = true → exec .aclkGlideDone s = .next (s.setReg (aGctl 0x2C) (BitVec.ofNat 32 s.aclkTarget))) ∧
    (s.probe = some (key, ctr) → exec .rngsProbeDone s =
      .next { s.setReg (aProbe 0x18) (BitVec.ofNat 32 (draw key.toNat ctr.toNat)) with probe := none })

/-! ### Frames, packets, the twin, the security engine -/

/-- The transport header (R303): every field of a packet is read back from its header, and a header that keeps the rules passes its checks. -/
def Obligations.HeaderReadsBack : Prop :=
  ∀ (s : State) (p : Packet),
    let h := p.header
    h.length = 48 ∧ Packet.ofBytes h p.payload = p ∧ fieldBe h 0 4 / 2 ^ 28 = 1 ∧ fieldBe h 44 4 = crc32c (h.take 40) ∧
    (opClass p.op.toNat = some p.cls.toNat → (p.mc = false → p.mcDim = 0 ∧ p.mcSpan = 0) → (p.mc = true → p.mcDim ≠ 3 ∧ 2 ≤ p.cls.toNat) →
      (p.addrMode = false → p.altRank = 0) → p.payload.length ≤ 9600 → p.hops.toNat < s.hopLimit → s.headerReason h p.payload = none)

/-- Frames and outputs (R298 to R305, R313, R326, R331): what the FEC found is counted; a good frame's packet is handled at this hop, a stomped one is only counted, a bad one or one with an uncorrectable
codeword is discarded as FCS; ARP and Neighbour Discovery are answered; an output that is not an inert uplink sends the arbiter's packet; one that waits too
long is discarded; an idle flow is evicted. -/
def Obligations.FrameCommands : Prop :=
  ∀ (s : State) (p : Fin 9) (frame b : Bytes) (rx : Arrival) (credits : List (Nat × Nat × Nat)) (i wrr : Nat) (q : Queued),
    let x := s.port p
    let body := frame.take (frame.length - 4)
    let one := noteFec p rx.fec (count (aPort p 0x88) 1 s)
    let fcs := frameFcs frame (fecBad rx.fec)
    let routed := (p = 6 ∨ p = 7) ∧ s.portCarries p = true ∧ 64 ≤ frame.length
    let limit := clampNat (s.reg (aFabr 0x234)).toNat 20 10000 * 1000
    let taken := { x with queue := x.queue.eraseIdx i }
    (0 < rx.fec.uncorrectable → fcs = .bad) ∧
    (s.portCarries p = true → fcs = .good → 66 ≤ frame.length → fieldBe frame 12 2 = 0x88B5 → p ≠ 6 → p ≠ 7 → fieldBe frame 14 4 / 2 ^ 28 ≠ 0 →
      exec (.nativeFrameReceived p frame rx) s = .next (meeting rx.env one (gotTransport p (sliceB body 14 48) (body.drop 62) true one))) ∧
    (s.portCarries p = true → fcs = .stomped → exec (.nativeFrameReceived p frame rx) s = .next (count (aPort p 0xA8) 1 one)) ∧
    (s.portCarries p = true → frame.length < 66 → fcs = .bad → exec (.nativeFrameReceived p frame rx) s = .next (discardAt p 1 none one)) ∧
    (routed → fcs = .good → one.judgeRouted p body = .transport b → fieldBe b 0 4 / 2 ^ 28 ≠ 0 →
      exec (.routedFrameReceived p ⟨frame, rx⟩) s = .next (meeting rx.env one (gotTransport p (b.take 48) (b.drop 48) true one))) ∧
    (∀ r, routed → fcs = .good → one.judgeRouted p body = .drop r → exec (.routedFrameReceived p ⟨frame, rx⟩) s = .next (discardAt p r none one)) ∧
    (∀ a, routed → fcs = .good → one.judgeRouted p body = .other (some a) →
      exec (.routedFrameReceived p ⟨frame, rx⟩) s = .next ((count (aPort p 0x80) 1 one).emit (.frame p (withFcs a false)))) ∧
    (routed → fcs = .bad → exec (.routedFrameReceived p ⟨frame, rx⟩) s = .next (discardAt p 1 none one)) ∧
    (s.portCarries p = true → 66 ≤ frame.length → fcs = .good → exec (.v0FrameForward p ⟨frame, rx⟩) s = .next (v0Route p body (noteFec p rx.fec s))) ∧
    (s.portCarries p = true → s.inert p = false → s.arbitrate p credits = some (i, wrr) → x.queue[i]? = some q →
      let sent := s.setPort p { (s.spent p q).altAfter q with queue := x.queue.eraseIdx i, wrr := wrr }
      exec (.linkTransmit p credits) s = .next ((count (aPort p 0x80) 1 sent).emit (.frame p (s.frameBytes p q)))) ∧
    (s.portCarries p = true → s.inert p = true ∨ s.arbitrate p credits = none → exec (.linkTransmit p credits) s = .next s) ∧
    (x.queue[i]? = some q → q.since.toNat + limit < s.time.toNat → q.turned = false → q.v0 = none →
      exec (.dwellExpire p i) s = .next (discardAt p 11 (some q.pkt) (s.setPort p taken))) ∧
    (∀ f, s.fabric.tx[i]? = some f → f.last.toNat + 2 * s.flowIdle ≤ s.time.toNat →
      exec (.flowEvict true i) s = .next { s with fabric := { s.fabric with tx := s.fabric.tx.eraseIdx i } }) ∧
    (∀ f, s.fabric.rx[i]? = some f → f.last.toNat + s.flowIdle ≤ s.time.toNat →
      exec (.flowEvict false i) s = .next { s with fabric := { s.fabric with rx := s.fabric.rx.eraseIdx i } })

/-- Packets for this device (R304, R306, R330 to R340): a fresh request is executed and acknowledged, counted on its counter; a duplicate is acknowledged and has no other effect; answers settle the packet they name, a NACK fails its
operation with one of R304's four statuses; an operation whose timer runs out sends again, and at the limit fails. -/
def Obligations.PacketCommands : Prop :=
  ∀ (s u v w : State) (d : Delivered) (c : Fin 64) (o : FabOp) (q : Packet) (env : Env),
    let p := d.pkt
    let came := fun (op : Byte) => takeDelivered op s = some (d, u) ∧ d.ctx = some c.val ∧ seqNote d.port p u = (v, .fresh)
    let serves := u.resetAnswers c = false ∧ (u.ctx c).st ≠ .killed
    let reopen := fun (t : State) => { t with fabric := { t.fabric with rx := u.fabric.rx } }
    let n := p.payload.length - 4
    let m := p.info.toNat % 2 ^ 14
    let index := p.target.toNat / 2 ^ 20 % 2 ^ 28
    let byAck := fun (k : Packet) => decide (k.cls = 0) && decide (k.seq = p.info) && (d.ctx.isNone || decide (k.rank = p.src))
    let byNack := fun (k : Packet) => decide (k.cls = 0 ∨ k.cls = 2) && (d.ctx.isNone || decide (k.rank = p.src))
    let byData := fun (k : Packet) => decide (k.op = 3) && decide (k.target = p.target) && decide (k.info = p.info) && (d.ctx.isNone || decide (k.rank = p.src))
    let id := p.info.toNat % 1024
    let credited := setCredits c id p.src (v.creditsFor c id p.src + p.info.toNat / 1024) v
    (came 1 → serves → exec .tileWrite s = .next (match doTileWrite d.env c p v with
      | (t, none) => t
      | (t, some st) => sendNack c p st (reopen t))) ∧
    (takeDelivered 1 s = some (d, u) → d.ctx = some c.val → seqNote d.port p u = (v, .dup) → u.resetAnswers c = false → exec .tileWrite s = .next (sendAckTo c p v)) ∧
    (∀ h t, (v.ctx c).handle? (p.target.toNat % 2 ^ 20) = some h → v.writeTensor c (p.target.toNat % 2 ^ 20) 0 false none = some t → h.folio = false → index < t.loc.tiles →
      p.target.toNat < 2 ^ 48 →
      p.tileBad t.loc.fmt = none → storeTile env t.loc index (p.tile t.loc.fmt c) v = .ok w →
      doTileWrite env c p v = (sendAckTo c p (addCounter c p.counter.toNat t.loc.fmt.stored w), none)) ∧
    (∀ h t cause, (v.ctx c).handle? (p.target.toNat % 2 ^ 20) = some h → v.writeTensor c (p.target.toNat % 2 ^ 20) 0 false none = some t → h.folio = false → index < t.loc.tiles →
      p.target.toNat < 2 ^ 48 → p.tileBad t.loc.fmt = some cause →
      doTileWrite env c p v = (raiseReceived (Who.ofCtx c) cause t.loc.fmt (p.target.toNat % 2 ^ 20) index p v, some stChecksum)) ∧
    (came 2 → payloadOk p.payload = true → serves → p.target.toNat % 64 = 0 → (v.ctx c).inFolio p.target.toNat n = false →
      writeVa d.env c p.target.toNat (p.payload.take n) v = .ok w → exec .memWrite s = .next (sendAckTo c p (addCounter c p.counter.toNat n w))) ∧
    (∀ b bad, came 3 → serves → p.info.getLsbD 31 = false → p.target.toNat % 64 = 0 → m ≤ 9596 → fetchVa env c p.target.toNat m v = (.ok (b, bad), w) →
      exec (.readReq env) s = .next (answer c p 4 p.info bad.isSome (sealed b) w)) ∧
    (∀ r, came 4 → v.opWith d.ctx byData = some (o, q) → o.task = some r →
      exec .readData s = .next (match storeFetched d.env r (index - o.tile0) p v with
        | (t, none) => setOp (o.acked q) t
        | (t, some st) => failOp o st t)) ∧
    (came 5 → v.opWith d.ctx byAck = some (o, q) → exec .ack s = .next (noteMirrored q (setOp (o.acked q) v))) ∧
    (∀ st, came 6 → nackStatus p.info = some st → v.opWith d.ctx byNack = some (o, q) → exec .nack s = .next (failOp o st v)) ∧
    (∀ win, takeDelivered 0x10 s = some (d, u) → d.ctx = some c.val → some p.src ≠ u.ctxRank c → u.resetAnswers c = false → u.colWindowFor d = some win →
      p.tileBad (u.colTile win p).1 = none → seqNote d.port p u = (v, .fresh) →
      let win1 := { win with vals := win.vals ++ [(p.info, p.target, p.payload)] }
      exec .colData s = .next (if p.poison then colPoison win (u.colTile win p).2 v else colAdvance win.task (colRegrant win1 p (setWindow win1 v)))) ∧
    (came 0x11 → credited.colWindowFor d = none → exec .colGrant s = .next credited) ∧
    (s.fabric.ops.find? (fun k => decide (k.id = o.id)) = some o → o.state = .waiting → ¬ s.time < o.timer → o.retries < s.regField (aFabr 0x224) 2 0 →
      let again := setOp { o with retries := o.retries + 1, timer := s.time + BitVec.ofNat 64 s.opTimeout } s
      exec (.opTimerExpire o.id) s = .next (o.unacked.foldl (fun (t : State) k => resend k t) again)) ∧
    (s.fabric.ops.find? (fun k => decide (k.id = o.id)) = some o → o.state = .waiting → ¬ s.time < o.timer → s.regField (aFabr 0x224) 2 0 ≤ o.retries →
      exec (.opTimerExpire o.id) s = .next (failOp o stFabricTimeout (opTimedOut o (count (aFabr 0x248) 1 s))))

/-- The twin (R328, R392, R393): a HELLO is answered with CONFIRM, both make the pair, heartbeats keep it, and a second without one loses it; other messages wait in the management queue of 256. -/
def Obligations.TwinCommands : Prop :=
  ∀ (s u : State) (d : Delivered),
    let b := d.pkt.payload
    let theirs := { u.twin with hello := true, feed := BitVec.ofNat 4 (fieldLe b 0 4), coord := BitVec.ofNat 21 (fieldLe b 4 4), size := fieldLe b 8 4 % 65536 }
    let other := s.fabric.delivered.find? fun e => decide (e.pkt.op = 0x21) && !(e.pkt.pairing && decide (e.port = 8))
    (takeTwin 3 s = some (d, true, u) → (u.twin.state = 1 ∨ u.twin.state = 2) → exec .pairHello s = .next (pairCheck (twinMessage 4 [] { u with twin := theirs }))) ∧
    (takeTwin 4 s = some (d, true, u) → u.twin.state = 1 → exec .pairConfirm s = .next (pairCheck { u with twin := { u.twin with confirmed := true } })) ∧
    (takeTwin 4 s = some (d, true, u) → u.twin.state = 1 → u.twin.hello = true → ∃ t, exec .pairConfirm s = .next t ∧ t.twin.state = 2 ∧ t.twin.lastBeat = u.time ∧
      (t.twin.correlated = true ↔ u.power.straps.feedId = u.twin.feed ∨ u.power.straps.feedId = 0 ∨ u.twin.feed = 0)) ∧
    (takeTwin 5 s = some (d, true, u) → u.twin.state = 2 → exec .heartbeat s = .next { u with twin := { u.twin with lastBeat := u.time } }) ∧
    (s.twin.state = 2 → (s.port 8).up = true → exec .heartbeatSend s = .next (twinMessage 5 [] s)) ∧
    (s.twin.state = 2 → s.twin.lastBeat.toNat + 1000000000 ≤ s.time.toNat → ∃ t, exec .twinLost s = .next t ∧ t.twin.state = 3 ∧ t.twin.correlated = false ∧ t.mem = s.mem) ∧
    (other = some d → seqNote d.port d.pkt { s with fabric := { s.fabric with delivered := s.fabric.delivered.erase d } } = (u, .fresh) → u.fabric.mgmt.length < 256 →
      exec .ctlMsg s = .next { u with fabric := { u.fabric with mgmt := u.fabric.mgmt ++ [d.pkt] } }) ∧
    (other = some d → seqNote d.port d.pkt { s with fabric := { s.fabric with delivered := s.fabric.delivered.erase d } } = (u, .fresh) → 256 ≤ u.fabric.mgmt.length →
      exec .ctlMsg s = .next (discardAt d.port 16 (some d.pkt) u))

/-- The security engine and the ledger's upkeep (R443, R451 to R454, R459, R460): a loaded object is placed where its target says, or rejected and audited; an update that is not confirmed in 2 s is reverted; a quote is
written into its window; debug access ends at its time; a drained entry leaves the ring for flash, and a freed slot lets the reserve and the stalled commands proceed. -/
def Obligations.SecurityEvents : Prop :=
  ∀ (s : State) (o : SignedObj) (tgt : BitVec 3) (certs : Bool),
    let idle := { s with secu := { s.secu with loading := none } }
    let told := { s with secu := { s.secu with quote := none } }
    let b := s.quoteBytes certs
    let addr := (s.reg64 (aSecu 0x28)).toNat
    let dg := objDigest o
    let placed := auditHw (mkEntry 5 3 0 7 (BitVec.ofNat 64 (3 * 2 ^ 56 + objType o * 256 + tgt.toNat)) dg.1 dg.2) idle
    let svn := match s.flash.staging with | some x => objSvn x | none => 0
    let back := { s with secu := { s.secu with next := s.secu.before, before := none, activateAt := none } }
    let opened := flushReserve s.audit.reserve.length s
    (∀ r, s.secu.loading = some tgt → idle.loadReason tgt.toNat o = some r →
      exec (.secuLoadDone o) s = .next (rejectImage (objType o) 7 r (objSvn o) (setLoadStatus 3 r idle))) ∧
    (s.secu.loading = some tgt → idle.loadReason tgt.toNat o = none → placed.dev ≠ .recovery →
      exec (.secuLoadDone o) s = .next (setLoadStatus 2 0 { placed with flash := placed.flash.place tgt.toNat o })) ∧
    (∀ t0, s.secu.activateAt = some t0 → t0.toNat + 2000000000 ≤ s.time.toNat → exec .confirmTimeout s = .next (mgmtRestart 1 (rejectImage 2 4 8 svn back))) ∧
    (s.secu.restart = true → exec .mgmtOnlyRestart s = .next (replayStalled (mgmtRestarted s))) ∧
    (s.secu.restart = true → s.secu.next = none → mgmtRestarted s = { s with secu := { s.secu with restart := false, next := none } }) ∧
    (s.secu.quote = some certs → told.winAllows addr b.length true = true → exec .quoteDone s = .next (streamImage addr b (told.setReg (aSecu 0x34) 2))) ∧
    (s.secu.quote = some certs → told.winAllows addr b.length true = false → exec .quoteDone s = .next (violation 0xFFFF (told.setReg (aSecu 0x34) 3))) ∧
    (s.secu.caps ≠ 0 → s.secu.capsExpire ≤ s.time → ∃ t, exec .dbgExpire s = .next t ∧ t.secu = { s.secu with caps := 0 } ∧
      (s.regsWf = true → ∀ i, i < 4 → (t.reg (aSecu 0x3C)).getLsbD i = false)) ∧
    (s.twin.state ≠ 2 → s.flshEn = true → s.audit.ring.length + s.flash.auditArea.length ≤ auditAreaSlots → ∃ t, exec .auditDrain s = .next t ∧
      t.audit.ring = [] ∧ t.flash.auditArea = s.flash.auditArea ++ s.audit.ring ∧ t.audit.drainFailed = false ∧ t.audit.next = s.audit.next ∧ t.audit.chain = s.audit.chain) ∧
    (s.auditFull = false → exec .auditSlotFreed s = .next (replayStalled { opened with audit := { opened.audit with stallRaised := false } })) ∧
    (s.auditFull = true → exec .auditSlotFreed s = .next s)

/-! ### Arithmetic -/

/-- Rounding (R76, R96): a magnitude that no format's largest finite value is passed by lies between two neighbouring codes `z` and
`z + 1`, and each rounding attribute takes the one that its definition names: RTZ (and RTN of a positive value) `z`, RTP the upper unless the value
is exact, RNE and RTA the nearer, a tie to the even code and away from zero, STOCH the upper when the draw is below the distance from `z` in units of
2^−32 of the gap. A negative value is rounded as its magnitude is, RTP and RTN changing places, and INEXACT is counted exactly when the value is not a code (R77). -/
def Obligations.RoundingTakesTheRightNeighbour : Prop :=
  ∀ (k : FFmt) (m : Nat) (e : Int) (u : Nat), k ∈ [fmt16, fmtBf, fmt32] →
    let z := (k.pack .rtz false m e false).1
    let q := min e k.qmin
    let x := m <<< (e - q).toNat
    let lo := codeUnits k q z
    let hi := codeUnits k q (z + 1)
    let neg := fun (c : Nat) => k.signBit + c
    z + 1 < k.inf →
      lo ≤ x ∧ x < hi ∧
      (k.pack .rtn false m e false).1 = z ∧
      (k.pack .rtp false m e false).1 = (if x = lo then z else z + 1) ∧
      (k.pack .rne false m e false).1 = (if 2 * x < lo + hi ∨ (2 * x = lo + hi ∧ z % 2 = 0) then z else z + 1) ∧
      (k.pack .rta false m e false).1 = (if 2 * x < lo + hi then z else z + 1) ∧
      (k.pack (.stoch u) false m e false).1 = (if u < (x - lo) * 2 ^ 32 / (hi - lo) then z + 1 else z) ∧
      (k.pack .rtp true m e false).1 = neg z ∧
      (k.pack .rtn true m e false).1 = neg (if x = lo then z else z + 1) ∧
      (∀ r : Rnd, (k.pack r false m e false).2.inx = (if x = lo then 0 else 1) ∧ (k.pack r false m e false).2.ovf = 0)

/-- Widening a code of binary16 or BF16 to binary32 and narrowing it again gives the code back, under any two rounding attributes, and counts
nothing; a NaN comes back quieted, and a signalling one counts one invalid operation, on the way up (R78, R79). -/
def Obligations.NarrowingUndoesWidening : Prop :=
  ∀ (k : FFmt) (c : Nat) (r r' : Rnd), k ∈ [fmt16, fmtBf] → c < 2 ^ 16 →
    let wide := k.conv fmt32 r c
    fmt32.conv k r' wide.1 = (if k.isNan c then k.quiet c else c, Exc.none) ∧
      wide.2 = (if k.isSnan c then Exc.invalid else Exc.none)
end

