-- ==== Sys2Proof/Laws/Bytes.lean ====
section
/-! SUPPORT. Byte strings, their little-endian fields, and the checks over them. -/

namespace Sys2Proof.Machine

-- One theorem after the other: checked all at once they take more threads than a checker has memory for.
set_option Elab.async false

@[simp] theorem leBytes_length (n v : Nat) : (leBytes n v).length = n := by
  induction n generalizing v with
  | zero => rfl
  | succ n ih => simp [leBytes, ih]

/-- A number's bytes hold it, as far as they go. -/
theorem leNat_leBytes (n v : Nat) : leNat (leBytes n v) = v % 256 ^ n := by
  induction n generalizing v with
  | zero => simp [leBytes, leNat, Nat.mod_one]
  | succ n ih =>
    rw [leBytes, leNat, ih, Nat.pow_succ, Nat.mul_comm (256 ^ n) 256, Nat.mod_mul]
    simp

@[simp] theorem sliceB_length (b : Bytes) (o n : Nat) : (sliceB b o n).length = n := by
  rw [sliceB, List.length_append, List.length_replicate, List.length_take, List.length_drop]; omega

/-- Cutting a byte string to its own length changes nothing. -/
theorem sliceB_self (b : Bytes) : sliceB b 0 b.length = b := by simp [sliceB]

theorem sliceB_append {a b : Bytes} {n : Nat} (h : a.length = n) : sliceB (a ++ b) 0 n = a := by
  subst h; simp [sliceB]

theorem fieldLe_append_left {a b : Bytes} {o n : Nat} (h : o + n ≤ a.length) : fieldLe (a ++ b) o n = fieldLe a o n := by
  have : o ≤ a.length := by omega
  rw [fieldLe, fieldLe, List.drop_append_of_le_length this, List.take_append_of_le_length (by simp; omega)]

theorem fieldLe_append_right {a b : Bytes} {o n : Nat} (h : a.length ≤ o) : fieldLe (a ++ b) o n = fieldLe b (o - a.length) n := by
  rw [fieldLe, fieldLe, List.drop_append, List.drop_eq_nil_of_le h, List.nil_append]

/-- The field that a number's bytes fill. -/
theorem fieldLe_leBytes (a : Bytes) (n v : Nat) (h : v < 256 ^ n) : fieldLe (a ++ leBytes n v) a.length n = v := by
  rw [fieldLe_append_right (Nat.le_refl _), Nat.sub_self, fieldLe, List.drop_zero, List.take_of_length_le (by simp), leNat_leBytes, Nat.mod_eq_of_lt h]

/-- Zeros hold zero. -/
theorem fieldLe_zeros (m o n : Nat) : fieldLe (List.replicate m 0) o n = 0 := by
  have z : ∀ k, leNat (List.replicate k (0 : Byte)) = 0 := fun k => by
    induction k with
    | zero => rfl
    | succ k ih => rw [List.replicate_succ, leNat, ih]; rfl
  rw [fieldLe, List.drop_replicate, List.take_replicate, z]

/-! ### The checks -/

theorem crcBits_lt {poly w : Nat} (hp : poly < 2 ^ w) : ∀ (n c : Nat), c < 2 ^ w → crcBits poly n c < 2 ^ w
  | 0, _, h => h
  | n + 1, c, h => by
    rw [crcBits]
    refine crcBits_lt hp n _ ?_
    split
    · exact Nat.xor_lt_two_pow (by omega) hp
    · omega

/-- A check fits its width. -/
theorem crcReflected_lt {poly w : Nat} (hp : poly < 2 ^ w) (hw : 8 ≤ w) (bs : Bytes) : crcReflected poly w bs < 2 ^ w := by
  have one : 2 ^ w - 1 < 2 ^ w := Nat.sub_lt (Nat.two_pow_pos w) Nat.one_pos
  have go : ∀ (l : Bytes) (c : Nat), c < 2 ^ w → l.foldl (fun c b => crcBits poly 8 (Nat.xor c b.toNat)) c < 2 ^ w := by
    intro l
    induction l with
    | nil => exact fun _ h => h
    | cons b l ih =>
      exact fun c h => ih _ (crcBits_lt hp _ _ (Nat.xor_lt_two_pow h (Nat.lt_of_lt_of_le b.isLt (Nat.pow_le_pow_right (by decide) hw))))
  exact Nat.xor_lt_two_pow (go bs _ one) one

theorem crc32c_lt (bs : Bytes) : crc32c bs < 2 ^ 32 := crcReflected_lt (by decide) (by decide) bs
theorem crc64_lt (bs : Bytes) : crc64 bs < 2 ^ 64 := crcReflected_lt (by decide) (by decide) bs

/-- An entry that is given its CHECK carries it. -/
theorem checkOk_withCheck (b : Bytes) : checkOk (withCheck b) = true := by
  have h : fieldLe (withCheck b) 60 4 = crc32c (sliceB b 0 60) := by
    have := fieldLe_leBytes (sliceB b 0 60) 4 (crc32c (sliceB b 0 60)) (crc32c_lt _)
    rwa [sliceB_length] at this
  rw [checkOk, decide_eq_true_eq, h, withCheck, sliceB_append (sliceB_length _ _ _)]

/-- A sealed tile's CRC slot holds its CRC. -/
theorem slot_seal (k : Fmt) (t : TileImg) (hs : k.crcOff ≤ t.side.length) : (t.seal k).slot k = (t.seal k).crc k := by
  have h := fieldLe_leBytes (sliceB t.side 0 k.crcOff) 8 (t.crc k) (crc64_lt _)
  rw [sliceB_length] at h
  have e : sliceB t.side 0 k.crcOff = t.side.take k.crcOff := by simp [sliceB, Nat.min_eq_left hs]
  have l : (t.side.take k.crcOff).length = k.crcOff := by simp [hs]
  rw [TileImg.slot, TileImg.seal]
  refine h.trans ?_
  simp only [TileImg.crc, e]
  rw [List.take_append_of_le_length (Nat.le_of_eq l.symm), List.take_of_length_le (Nat.le_of_eq l)]

end Sys2Proof.Machine
end

