-- ==== Sys2Proof/Laws/Map.lean ====
section
/-! SUPPORT. The sparse map: what its reads give after a write, and that every operation keeps the canonical form. -/

namespace Sys2Proof.NMap

-- One theorem after the other: checked all at once they take more threads than a checker has memory for.
set_option Elab.async false

variable {α : Type} {d : Nat → α} {m : NMap α}

theorem rising_mono {b c : Nat} (h : b ≤ c) (hm : rising c m = true) : rising b m = true := by
  cases m with
  | nil => rfl
  | cons e t =>
    simp only [rising, Bool.and_eq_true, decide_eq_true_eq] at hm ⊢
    exact ⟨Nat.le_trans h hm.1, hm.2⟩

theorem rising_key_le {b : Nat} (h : rising b m = true) : ∀ e ∈ m, b ≤ e.1 := by
  induction m generalizing b with
  | nil => intro e he; cases he
  | cons x t ih =>
    simp only [rising, Bool.and_eq_true, decide_eq_true_eq] at h
    intro e he
    rcases List.mem_cons.1 he with rfl | he
    · exact h.1
    · have := ih h.2 e he; omega

theorem rising_filter {b : Nat} (p : Nat × α → Bool) (h : rising b m = true) : rising b (m.filter p) = true := by
  induction m generalizing b with
  | nil => rfl
  | cons x t ih =>
    simp only [rising, Bool.and_eq_true, decide_eq_true_eq] at h
    by_cases hp : p x = true
    · simp only [List.filter_cons, hp, if_true, rising, Bool.and_eq_true, decide_eq_true_eq]
      exact ⟨h.1, ih h.2⟩
    · simp only [List.filter_cons, hp]
      exact rising_mono (by omega) (ih h.2)

theorem rising_erase {b : Nat} (k : Nat) (h : rising b m = true) : rising b (erase m k) = true := by
  induction m generalizing b with
  | nil => rfl
  | cons x t ih =>
    simp only [rising, Bool.and_eq_true, decide_eq_true_eq] at h
    simp only [erase]
    split
    · exact rising_mono (by omega) h.2
    · split
      · simp only [rising, Bool.and_eq_true, decide_eq_true_eq]; exact h
      · simp only [rising, Bool.and_eq_true, decide_eq_true_eq]; exact ⟨h.1, ih h.2⟩

theorem rising_insert {b k : Nat} (v : α) (hk : b ≤ k) (h : rising b m = true) : rising b (insert m k v) = true := by
  induction m generalizing b with
  | nil => simp [insert, rising, hk]
  | cons x t ih =>
    simp only [rising, Bool.and_eq_true, decide_eq_true_eq] at h
    simp only [insert]
    split
    · next e => subst e; simp only [rising, Bool.and_eq_true, decide_eq_true_eq]; exact h
    · split
      · simp only [rising, Bool.and_eq_true, decide_eq_true_eq]; exact ⟨hk, by omega, h.2⟩
      · simp only [rising, Bool.and_eq_true, decide_eq_true_eq]; exact ⟨h.1, ih (by omega) h.2⟩

theorem rising_append {b c : Nat} {n : NMap α} (h : rising b m = true) (hk : ∀ e ∈ m, e.1 < c) (hn : rising c n = true)
    (hbc : b ≤ c) : rising b (m ++ n) = true := by
  induction m generalizing b with
  | nil => exact rising_mono hbc hn
  | cons x t ih =>
    simp only [rising, Bool.and_eq_true, decide_eq_true_eq] at h
    have hx := hk x (by simp)
    simp only [List.cons_append, rising, Bool.and_eq_true, decide_eq_true_eq]
    exact ⟨h.1, ih h.2 (fun e he => hk e (by simp [he])) (by omega)⟩

/-- In a rising map a key is found exactly where it is listed. -/
theorem find?_eq_some {b : Nat} (h : rising b m = true) (k : Nat) (v : α) : find? m k = some v ↔ (k, v) ∈ m := by
  induction m generalizing b with
  | nil => simp [find?]
  | cons x t ih =>
    obtain ⟨k', v'⟩ := x
    simp only [rising, Bool.and_eq_true, decide_eq_true_eq] at h
    have hlt := rising_key_le h.2
    simp only [find?, List.mem_cons, Prod.mk.injEq]
    split
    · next e =>
      subst e
      constructor
      · intro hv; left; exact ⟨rfl, (Option.some.inj hv).symm⟩
      · rintro (⟨-, rfl⟩ | hm)
        · rfl
        · have := hlt _ hm; simp only at this; omega
    · split
      · constructor
        · intro hv; cases hv
        · rintro (⟨e, -⟩ | hm)
          · omega
          · have := hlt _ hm; simp only at this; omega
      · rw [ih h.2]
        constructor
        · exact Or.inr
        · rintro (⟨e, -⟩ | hm)
          · omega
          · exact hm

theorem find?_eq_none {b : Nat} (h : rising b m = true) (k : Nat) : find? m k = none ↔ ∀ v, (k, v) ∉ m := by
  rw [Option.eq_none_iff_forall_ne_some]
  exact forall_congr' fun v => not_congr (find?_eq_some h k v)

/-- Two rising maps that list the same values read the same. -/
theorem find?_congr {b c : Nat} {n : NMap α} (h : rising b m = true) (h' : rising c n = true) (k : Nat)
    (hv : ∀ v, (k, v) ∈ m ↔ (k, v) ∈ n) : find? m k = find? n k := by
  cases hm : find? m k with
  | none => rw [find?_eq_none h] at hm; exact ((find?_eq_none h' k).2 fun v hn => hm v ((hv v).2 hn)).symm
  | some v => exact (((find?_eq_some h' k v).2 ((hv v).1 ((find?_eq_some h k v).1 hm)))).symm

theorem mem_erase {b : Nat} (h : rising b m = true) (k k' : Nat) (v : α) : (k', v) ∈ erase m k ↔ k' ≠ k ∧ (k', v) ∈ m := by
  induction m generalizing b with
  | nil => simp [erase]
  | cons x t ih =>
    obtain ⟨j, w⟩ := x
    simp only [rising, Bool.and_eq_true, decide_eq_true_eq] at h
    have hlt := rising_key_le h.2
    simp only [erase]
    split
    · next e =>
      subst e
      constructor
      · intro hm
        have := hlt _ hm
        exact ⟨by simp only at this; omega, List.mem_cons_of_mem _ hm⟩
      · rintro ⟨hne, hm⟩
        rcases List.mem_cons.1 hm with e | hm
        · cases e; exact absurd rfl hne
        · exact hm
    · split
      · constructor
        · intro hm
          refine ⟨?_, hm⟩
          rcases List.mem_cons.1 hm with e | hm
          · cases e; assumption
          · have := hlt _ hm; simp only at this; omega
        · exact fun x => x.2
      · simp only [List.mem_cons, Prod.mk.injEq, ih h.2]
        constructor
        · rintro (⟨rfl, rfl⟩ | hm)
          · exact ⟨by assumption, .inl ⟨rfl, rfl⟩⟩
          · exact ⟨hm.1, .inr hm.2⟩
        · rintro ⟨hne, e | hm⟩
          · exact .inl e
          · exact .inr ⟨hne, hm⟩

theorem mem_insert {b : Nat} (h : rising b m = true) (k k' : Nat) (v v' : α) :
    (k', v') ∈ insert m k v ↔ (k' = k ∧ v' = v) ∨ (k' ≠ k ∧ (k', v') ∈ m) := by
  induction m generalizing b with
  | nil => simp [insert]
  | cons x t ih =>
    obtain ⟨j, w⟩ := x
    simp only [rising, Bool.and_eq_true, decide_eq_true_eq] at h
    have hlt := rising_key_le h.2
    simp only [insert]
    split
    · next e =>
      subst e
      simp only [List.mem_cons, Prod.mk.injEq]
      constructor
      · rintro (e | hm)
        · exact .inl e
        · have := hlt _ hm; exact .inr ⟨by simp only at this; omega, .inr hm⟩
      · rintro (e | ⟨hne, e | hm⟩)
        · exact .inl e
        · exact absurd e.1 hne
        · exact .inr hm
    · split
      · simp only [List.mem_cons, Prod.mk.injEq]
        constructor
        · rintro (e | e | hm)
          · exact .inl e
          · exact .inr ⟨by omega, .inl e⟩
          · have := hlt _ hm; exact .inr ⟨by simp only at this; omega, .inr hm⟩
        · rintro (e | ⟨-, hm⟩)
          · exact .inl e
          · exact .inr hm
      · simp only [List.mem_cons, Prod.mk.injEq, ih h.2]
        constructor
        · rintro (e | e | ⟨hne, hm⟩)
          · exact .inr ⟨by omega, .inl e⟩
          · exact .inl e
          · exact .inr ⟨hne, .inr hm⟩
        · rintro (e | ⟨hne, e | hm⟩)
          · exact .inr (.inl e)
          · exact .inl e
          · exact .inr (.inr ⟨hne, hm⟩)

variable [DecidableEq α]

theorem lean_iff : lean d m = true ↔ ∀ e ∈ m, e.2 ≠ d e.1 := by
  simp [lean, List.all_eq_true]

theorem wf_iff : wf d m = true ↔ rising 0 m = true ∧ ∀ e ∈ m, e.2 ≠ d e.1 := by
  simp [wf, lean_iff]

theorem wf_nil : wf d ([] : NMap α) = true := rfl

theorem wf_filter (p : Nat × α → Bool) (h : wf d m = true) : wf d (m.filter p) = true := by
  rw [wf_iff] at h ⊢
  exact ⟨rising_filter p h.1, fun e he => h.2 e (List.mem_filter.1 he).1⟩

theorem wf_set (k : Nat) (v : α) (h : wf d m = true) : wf d (set d m k v) = true := by
  rw [wf_iff] at h ⊢
  unfold set
  split
  · exact ⟨rising_erase k h.1, fun e he => h.2 e ((mem_erase h.1 k e.1 e.2).1 he).2⟩
  · next hv =>
    refine ⟨rising_insert v (Nat.zero_le k) h.1, fun e he => ?_⟩
    rcases (mem_insert h.1 k e.1 v e.2).1 he with ⟨hk, hw⟩ | ⟨-, hm⟩
    · rw [hk, hw]; exact hv
    · exact h.2 e hm

/-- A key reads as written, and every other key as before. -/
theorem get_set (h : rising 0 m = true) (k : Nat) (v : α) (k' : Nat) :
    get d (set d m k v) k' = if k' = k then v else get d m k' := by
  unfold set get
  split
  · next hv =>
    split
    · next e =>
      subst e
      rw [(find?_eq_none (rising_erase _ h) _).2 fun w hw => ((mem_erase h _ _ w).1 hw).1 rfl]
      exact hv.symm
    · next e =>
      rw [find?_congr (rising_erase k h) h k' fun w => by rw [mem_erase h]; exact ⟨fun x => x.2, fun x => ⟨e, x⟩⟩]
  · split
    · next e =>
      subst e
      rw [(find?_eq_some (rising_insert v (Nat.zero_le _) h) _ v).2 ((mem_insert h _ _ v v).2 (.inl ⟨rfl, rfl⟩))]
      rfl
    · next e =>
      rw [find?_congr (rising_insert v (Nat.zero_le k) h) h k' fun w => by
        rw [mem_insert h]
        exact ⟨fun x => x.elim (fun y => absurd y.1 e) fun y => y.2, fun x => .inr ⟨e, x⟩⟩]

theorem runCells_keys (a : Nat) (vs : List α) : ∀ e ∈ runCells d a vs, a ≤ e.1 ∧ e.1 < a + vs.length := by
  induction vs generalizing a with
  | nil => intro e he; cases he
  | cons v t ih =>
    intro e he
    simp only [runCells] at he
    split at he
    · have := ih (a + 1) e he; simp only [List.length_cons]; omega
    · rcases List.mem_cons.1 he with rfl | he
      · simp only [List.length_cons]; omega
      · have := ih (a + 1) e he; simp only [List.length_cons]; omega

theorem runCells_rising (a : Nat) (vs : List α) : rising a (runCells d a vs) = true := by
  induction vs generalizing a with
  | nil => rfl
  | cons v t ih =>
    simp only [runCells]
    split
    · exact rising_mono (Nat.le_succ a) (ih (a + 1))
    · simp only [rising, Bool.and_eq_true, decide_eq_true_eq]; exact ⟨Nat.le_refl a, ih (a + 1)⟩

theorem mem_runCells (a : Nat) (vs : List α) (k : Nat) (v : α) :
    (k, v) ∈ runCells d a vs ↔ a ≤ k ∧ vs[k - a]? = some v ∧ v ≠ d k := by
  induction vs generalizing a with
  | nil => simp [runCells]
  | cons w t ih =>
    have key : (k, v) ∈ runCells d (a + 1) t ↔ a < k ∧ (w :: t)[k - a]? = some v ∧ v ≠ d k := by
      rw [ih]
      constructor
      · rintro ⟨h1, h2, h3⟩
        have : k - a = (k - (a + 1)) + 1 := by omega
        exact ⟨h1, by rw [this, List.getElem?_cons_succ]; exact h2, h3⟩
      · rintro ⟨h1, h2, h3⟩
        have : k - a = (k - (a + 1)) + 1 := by omega
        rw [this, List.getElem?_cons_succ] at h2
        exact ⟨h1, h2, h3⟩
    simp only [runCells]
    split
    · next hw =>
      rw [key]
      constructor
      · rintro ⟨h1, h2⟩; exact ⟨Nat.le_of_lt h1, h2⟩
      · rintro ⟨h1, h2, h3⟩
        refine ⟨?_, h2, h3⟩
        rcases Nat.lt_or_ge a k with hlt | hge
        · exact hlt
        · have e : k = a := by omega
          subst e
          simp only [Nat.sub_self, List.getElem?_cons_zero, Option.some.injEq] at h2
          exact absurd (h2 ▸ hw) h3
    · next hw =>
      rw [List.mem_cons, key]
      constructor
      · rintro (e | ⟨h1, h2⟩)
        · cases e; exact ⟨Nat.le_refl _, by simp, hw⟩
        · exact ⟨Nat.le_of_lt h1, h2⟩
      · rintro ⟨h1, h2, h3⟩
        rcases Nat.lt_or_ge a k with hlt | hge
        · exact .inr ⟨hlt, h2, h3⟩
        · have e : k = a := by omega
          subst e
          simp only [Nat.sub_self, List.getElem?_cons_zero, Option.some.injEq] at h2
          exact .inl (by rw [h2])

theorem setRun_rising (a : Nat) (vs : List α) (h : rising 0 m = true) : rising 0 (setRun d m a vs) = true := by
  unfold setRun
  rw [List.append_assoc]
  have hlow : ∀ e ∈ m.filter fun e => decide (e.1 < a), e.1 < a := fun e he => by
    simpa using (List.mem_filter.1 he).2
  have hhigh : rising (a + vs.length) (m.filter fun e => decide (a + vs.length ≤ e.1)) = true := by
    clear hlow
    have gen : ∀ (c b : Nat) (l : NMap α), rising b l = true → rising c (l.filter fun e => decide (c ≤ e.1)) = true := by
      intro c b l
      induction l generalizing b with
      | nil => intro _; rfl
      | cons x t ih =>
        intro hl
        simp only [rising, Bool.and_eq_true, decide_eq_true_eq] at hl
        by_cases hx : c ≤ x.1
        · simp only [List.filter_cons, hx, decide_true, if_true, rising, Bool.and_eq_true, true_and]
          exact rising_filter _ hl.2
        · simp only [List.filter_cons, hx, decide_false]
          exact ih (x.1 + 1) hl.2
    exact gen _ 0 m h
  refine rising_append (rising_filter _ h) hlow ?_ (Nat.zero_le a)
  exact rising_append (runCells_rising a vs) (fun e he => (runCells_keys a vs e he).2) hhigh (Nat.le_add_right a _)

theorem wf_setRun (a : Nat) (vs : List α) (h : wf d m = true) : wf d (setRun d m a vs) = true := by
  rw [wf_iff] at h ⊢
  refine ⟨setRun_rising a vs h.1, fun e he => ?_⟩
  unfold setRun at he
  rcases List.mem_append.1 he with he | he
  · rcases List.mem_append.1 he with he | he
    · exact h.2 e (List.mem_filter.1 he).1
    · exact ((mem_runCells a vs e.1 e.2).1 he).2.2
  · exact h.2 e (List.mem_filter.1 he).1

/-- After a run is written its keys read as written, and every other key as before. -/
theorem get_setRun (h : rising 0 m = true) (a : Nat) (vs : List α) (k : Nat) :
    get d (setRun d m a vs) k = if a ≤ k ∧ k < a + vs.length then vs[k - a]?.getD (d k) else get d m k := by
  have hr := setRun_rising (d := d) a vs h
  have hmem : ∀ v, (k, v) ∈ setRun d m a vs ↔
      (k < a ∧ (k, v) ∈ m) ∨ (k, v) ∈ runCells d a vs ∨ (a + vs.length ≤ k ∧ (k, v) ∈ m) := by
    intro v
    simp only [setRun, List.mem_append, List.mem_filter, decide_eq_true_eq, or_assoc]
    constructor
    · rintro (x | x | x)
      · exact .inl ⟨x.2, x.1⟩
      · exact .inr (.inl x)
      · exact .inr (.inr ⟨x.2, x.1⟩)
    · rintro (x | x | x)
      · exact .inl ⟨x.2, x.1⟩
      · exact .inr (.inl x)
      · exact .inr (.inr ⟨x.2, x.1⟩)
  unfold get
  split
  · next hin =>
    have hlen : k - a < vs.length := by omega
    have hget : vs[k - a]? = some vs[k - a] := List.getElem?_eq_getElem hlen
    rw [hget]
    by_cases hv : vs[k - a] = d k
    · rw [(find?_eq_none hr k).2 fun w hw => by
        rcases (hmem w).1 hw with x | x | x
        · omega
        · have y := (mem_runCells a vs k w).1 x
          rw [hget] at y
          exact y.2.2 (by rw [← Option.some.inj y.2.1]; exact hv)
        · omega]
      simp [hv]
    · rw [(find?_eq_some hr k vs[k - a]).2 ((hmem _).2 (.inr (.inl ((mem_runCells a vs k _).2 ⟨hin.1, hget, hv⟩))))]
  · next hout =>
    congr 1
    refine find?_congr hr h k fun v => ?_
    rw [hmem]
    constructor
    · rintro (x | x | x)
      · exact x.2
      · have := runCells_keys a vs _ x; simp only at this; omega
      · exact x.2
    · intro x
      by_cases hk : k < a
      · exact .inl ⟨hk, x⟩
      · exact .inr (.inr ⟨by omega, x⟩)

end Sys2Proof.NMap
end

