-- ==== Sys2Proof/Laws/Keeps.lean ====
section
/-! SUPPORT. What every function over the state keeps: the queue, the part, what has left the module, and the invariant of
Safety.lean. One lemma per function says so in the files Laws/Keeps*.lean; the steps to prove one stand here. -/

namespace Sys2Proof.Machine

-- One theorem after the other: checked all at once they take more threads than a checker has memory for.
set_option Elab.async false

/-- From `s` to `t` the machine keeps its queue and its part, takes back nothing that has left the module, draws no free value
twice, and keeps the invariant; with `b` its device state does not move either. -/
structure Keeps (b : Bool) (s t : State) : Prop where
  pending : t.pending = s.pending
  part : t.part = s.part
  outputs : s.outputs <+: t.outputs
  fresh : s.fresh ≤ t.fresh
  mem : Memory.wf s.mem = true → Memory.wf t.mem = true
  regs : s.regsWf = true → t.regsWf = true
  keys : s.keysRise = true → t.keysRise = true
  audit : s.audit.chained = true → t.audit.chained = true
  moved : s.moved = true → t.moved = true
  still : b = true → t.dev = s.dev ∧ t.prev = s.prev

theorem Keeps.refl (b : Bool) (s : State) : Keeps b s s :=
  ⟨rfl, rfl, List.prefix_refl _, Nat.le_refl _, id, id, id, id, id, fun _ => ⟨rfl, rfl⟩⟩

theorem Keeps.weak {b : Bool} {s t : State} (h : Keeps true s t) : Keeps b s t :=
  ⟨h.1, h.2, h.3, h.4, h.5, h.6, h.7, h.8, h.9, fun _ => h.10 rfl⟩

theorem Keeps.trans {b : Bool} {s t u : State} (h : Keeps b s t) (k : Keeps b t u) : Keeps b s u :=
  ⟨k.1.trans h.1, k.2.trans h.2, h.3.trans k.3, Nat.le_trans h.4 k.4, k.5 ∘ h.5, k.6 ∘ h.6, k.7 ∘ h.7, k.8 ∘ h.8,
    k.9 ∘ h.9, fun e => ⟨(k.10 e).1.trans (h.10 e).1, (k.10 e).2.trans (h.10 e).2⟩⟩

/-- The machine keeps its invariant. -/
theorem Keeps.inv {b : Bool} {s t : State} (h : Keeps b s t) (i : s.inv = true) : t.inv = true := by
  simp only [State.inv, Bool.and_eq_true] at i ⊢
  exact ⟨⟨⟨⟨h.mem i.1.1.1.1, h.regs i.1.1.1.2⟩, h.keys i.1.1.2⟩, h.audit i.1.2⟩, h.moved i.2⟩

/-- A state that differs in none of the fields the invariant speaks of. -/
theorem keeps_same {b : Bool} {s t u : State} (h : Keeps b s t) (h1 : u.pending = t.pending) (h2 : u.part = t.part)
    (h3 : u.outputs = t.outputs) (h4 : u.fresh = t.fresh) (h5 : u.mem = t.mem) (h6 : u.regs = t.regs) (h7 : u.audit = t.audit)
    (h8 : u.dev = t.dev) (h9 : u.prev = t.prev) (k1 : u.ctxs = t.ctxs) (k2 : u.clusters = t.clusters) (k3 : u.hbm = t.hbm)
    (k4 : u.paths = t.paths) (k5 : u.fabric.ports = t.fabric.ports) : Keeps b s u := by
  refine h.trans ⟨h1, h2, h3 ▸ List.prefix_refl _, h4 ▸ Nat.le_refl _, fun w => h5 ▸ w, fun w => ?_, fun w => ?_, fun w => h7 ▸ w,
    fun w => ?_, fun _ => ⟨h8, h9⟩⟩
  · simpa only [State.regsWf, h6] using w
  · simpa only [State.keysRise, k1, k2, k3, k4, k5] using w
  · simpa only [State.moved, h8, h9] using w

theorem keys_keeps {b : Bool} {s0 s t : State} (h : Keeps b s0 s) (h1 : t.pending = s.pending) (h2 : t.part = s.part)
    (h3 : t.outputs = s.outputs) (h4 : t.fresh = s.fresh) (h5 : t.mem = s.mem) (h6 : t.regs = s.regs) (h7 : t.audit = s.audit)
    (h8 : t.dev = s.dev) (h9 : t.prev = s.prev) (k : s.keysRise = true → t.keysRise = true) : Keeps b s0 t := by
  refine h.trans ⟨h1, h2, h3 ▸ List.prefix_refl _, h4 ▸ Nat.le_refl _, fun w => h5 ▸ w, fun w => ?_, k, fun w => h7 ▸ w,
    fun w => ?_, fun _ => ⟨h8, h9⟩⟩
  · simpa only [State.regsWf, h6] using w
  · simpa only [State.moved, h8, h9] using w

theorem keeps_mk {b : Bool} {s t : State} {a1 : Dword} {a4 : Dword} {a5 : Power} {a6 : Boot} {a7 : Flash} {a8 : Secu} {a14 : Option Dword} {a15 :
    MrgnUse} {a16 : MrgnUse} {a17 : Trepel} {a18 : Bndy} {a22 : NMap (List Nat)} {a23 : Faults} {a24 : Twin} {a25
    : Cadence} {a26 : Smb} {a27 : Jtag} {a28 : Option (BitVec 128 × Dword)}
    (h : Keeps b s t) : Keeps b s (State.mk t.part a1 t.dev t.prev a4 a5 a6 a7 a8 t.audit t.regs t.paths t.mem t.hbm a14 a15 a16 a17 a18 t.fabric t.ctxs
      t.clusters a22 a23 a24 a25 a26 a27 a28 t.outputs t.fresh t.pending) :=
  keeps_same h rfl rfl rfl rfl rfl rfl rfl rfl rfl rfl rfl rfl rfl rfl

/-- What else the audit logic holds is no part of its chain. -/
theorem keeps_audit {b : Bool} {s t : State} {a1 : Dword} {a4 : Dword} {a5 : Power} {a6 : Boot} {a7 : Flash} {a8 : Secu} {a14 : Option Dword} {a15 :
    MrgnUse} {a16 : MrgnUse} {a17 : Trepel} {a18 : Bndy} {a22 : NMap (List Nat)} {a23 : Faults} {a24 : Twin} {a25
    : Cadence} {a26 : Smb} {a27 : Jtag} {a28 : Option (BitVec 128 × Dword)}
    {w3 : List AuditEntry} {w4 : Dword} {w5 : Dword} {w6 : Dword} {w7 : Bool} {w8 : List Instr} {w9 : Bool} {w10 :
    Option AuditEntry} {w11 : Bool} (h : Keeps b s t) :
    Keeps b s (State.mk t.part a1 t.dev t.prev a4 a5 a6 a7 a8 (Audit.mk t.audit.next t.audit.chain t.audit.ring w3 w4 w5 w6 w7 w8 w9
      w10 w11) t.regs t.paths t.mem t.hbm a14 a15 a16 a17 a18 t.fabric t.ctxs t.clusters a22 a23 a24 a25 a26 a27 a28
      t.outputs t.fresh t.pending) :=
  h.trans ⟨rfl, rfl, List.prefix_refl _, Nat.le_refl _, id, id, id, id, id, fun _ => ⟨rfl, rfl⟩⟩

/-- What else the Fabric Engine holds is no port. -/
theorem keeps_fabric {b : Bool} {s t : State} {a1 : Dword} {a4 : Dword} {a5 : Power} {a6 : Boot} {a7 : Flash} {a8 : Secu} {a14 : Option Dword} {a15 :
    MrgnUse} {a16 : MrgnUse} {a17 : Trepel} {a18 : Bndy} {a22 : NMap (List Nat)} {a23 : Faults} {a24 : Twin} {a25
    : Cadence} {a26 : Smb} {a27 : Jtag} {a28 : Option (BitVec 128 × Dword)}
    {v0 : Nat} {v1 : NMap Dword} {v2 : NMap Dword} {v3 : NMap (BitVec 256)} {v4 : NMap Dword} {v6 : List
    Delivered} {v7 : List Packet} {v8 : List RxFlow} {v9 : List TxFlow} {v10 : List FabOp} {v11 : Nat} {v12 : List
    ColWindow} {v13 : NMap Nat} {v14 : NMap Word} {v15 : NMap Dword} {v16 : Word} {v17 : Dword} {v18 : Bool} {v19
    : Nat} {v20 : Dword} (h : Keeps b s t) :
    Keeps b s (State.mk t.part a1 t.dev t.prev a4 a5 a6 a7 a8 t.audit t.regs t.paths t.mem t.hbm a14 a15 a16 a17 a18 (Fabric.mk v0 v1
      v2 v3 v4 t.fabric.ports v6 v7 v8 v9 v10 v11 v12 v13 v14 v15 v16 v17 v18 v19 v20) t.ctxs t.clusters a22 a23 a24
      a25 a26 a27 a28 t.outputs t.fresh t.pending) :=
  h.trans ⟨rfl, rfl, List.prefix_refl _, Nat.le_refl _, id, id, id, id, id, fun _ => ⟨rfl, rfl⟩⟩

theorem keeps_fabric_audit {b : Bool} {s t : State} {a1 : Dword} {a4 : Dword} {a5 : Power} {a6 : Boot} {a7 : Flash} {a8 : Secu} {a14 : Option Dword} {a15 :
    MrgnUse} {a16 : MrgnUse} {a17 : Trepel} {a18 : Bndy} {a22 : NMap (List Nat)} {a23 : Faults} {a24 : Twin} {a25
    : Cadence} {a26 : Smb} {a27 : Jtag} {a28 : Option (BitVec 128 × Dword)}
    {v0 : Nat} {v1 : NMap Dword} {v2 : NMap Dword} {v3 : NMap (BitVec 256)} {v4 : NMap Dword} {v6 : List
    Delivered} {v7 : List Packet} {v8 : List RxFlow} {v9 : List TxFlow} {v10 : List FabOp} {v11 : Nat} {v12 : List
    ColWindow} {v13 : NMap Nat} {v14 : NMap Word} {v15 : NMap Dword} {v16 : Word} {v17 : Dword} {v18 : Bool} {v19
    : Nat} {v20 : Dword}
    {w3 : List AuditEntry} {w4 : Dword} {w5 : Dword} {w6 : Dword} {w7 : Bool} {w8 : List Instr} {w9 : Bool} {w10 :
    Option AuditEntry} {w11 : Bool} (h : Keeps b s t) :
    Keeps b s (State.mk t.part a1 t.dev t.prev a4 a5 a6 a7 a8 (Audit.mk t.audit.next t.audit.chain t.audit.ring w3 w4 w5 w6 w7 w8 w9
      w10 w11) t.regs t.paths t.mem t.hbm a14 a15 a16 a17 a18 (Fabric.mk v0 v1 v2 v3 v4 t.fabric.ports v6 v7 v8 v9
      v10 v11 v12 v13 v14 v15 v16 v17 v18 v19 v20) t.ctxs t.clusters a22 a23 a24 a25 a26 a27 a28 t.outputs t.fresh
      t.pending) :=
  h.trans ⟨rfl, rfl, List.prefix_refl _, Nat.le_refl _, id, id, id, id, id, fun _ => ⟨rfl, rfl⟩⟩

/-- Memory cleared. -/
theorem keeps_clear {b : Bool} {s t : State} {a1 : Dword} {a4 : Dword} {a5 : Power} {a6 : Boot} {a7 : Flash} {a8 : Secu} {a14 : Option Dword} {a15 :
    MrgnUse} {a16 : MrgnUse} {a17 : Trepel} {a18 : Bndy} {a22 : NMap (List Nat)} {a23 : Faults} {a24 : Twin} {a25
    : Cadence} {a26 : Smb} {a27 : Jtag} {a28 : Option (BitVec 128 × Dword)}
    (h : Keeps b s t) : Keeps b s (State.mk t.part a1 t.dev t.prev a4 a5 a6 a7 a8 t.audit t.regs t.paths [] t.hbm a14 a15 a16 a17 a18 t.fabric t.ctxs
      t.clusters a22 a23 a24 a25 a26 a27 a28 t.outputs t.fresh t.pending) :=
  h.trans ⟨rfl, rfl, List.prefix_refl _, Nat.le_refl _, fun _ => rfl, id, id, id, id, fun _ => ⟨rfl, rfl⟩⟩

/-- The stacks replaced. -/
theorem keeps_hbm {b : Bool} {s t : State} {a1 : Dword} {a4 : Dword} {a5 : Power} {a6 : Boot} {a7 : Flash} {a8 : Secu} {a13 : NMap Stack} {a14 : Option
    Dword} {a15 : MrgnUse} {a16 : MrgnUse} {a17 : Trepel} {a18 : Bndy} {a22 : NMap (List Nat)} {a23 : Faults} {a24
    : Twin} {a25 : Cadence} {a26 : Smb} {a27 : Jtag} {a28 : Option (BitVec 128 × Dword)}
    (h : Keeps b s t) (hk : NMap.rising 0 a13 = true) : Keeps b s (State.mk t.part a1 t.dev t.prev a4 a5 a6 a7 a8 t.audit t.regs t.paths t.mem a13 a14 a15 a16 a17 a18 t.fabric t.ctxs
      t.clusters a22 a23 a24 a25 a26 a27 a28 t.outputs t.fresh t.pending) := by
  refine keys_keeps h rfl rfl rfl rfl rfl rfl rfl rfl rfl fun w => ?_
  simp only [State.keysRise, Bool.and_eq_true] at w ⊢
  exact ⟨⟨⟨⟨w.1.1.1.1, w.1.1.1.2⟩, hk⟩, w.1.2⟩, w.2⟩

/-- Memory cleared and the stacks replaced. -/
theorem keeps_clear_hbm {b : Bool} {s t : State} {a1 : Dword} {a4 : Dword} {a5 : Power} {a6 : Boot} {a7 : Flash} {a8 : Secu} {a13 : NMap Stack} {a14 : Option
    Dword} {a15 : MrgnUse} {a16 : MrgnUse} {a17 : Trepel} {a18 : Bndy} {a22 : NMap (List Nat)} {a23 : Faults} {a24
    : Twin} {a25 : Cadence} {a26 : Smb} {a27 : Jtag} {a28 : Option (BitVec 128 × Dword)}
    (h : Keeps b s t) (hk : NMap.rising 0 a13 = true) : Keeps b s (State.mk t.part a1 t.dev t.prev a4 a5 a6 a7 a8 t.audit t.regs t.paths [] a13 a14 a15 a16 a17 a18 t.fabric t.ctxs
      t.clusters a22 a23 a24 a25 a26 a27 a28 t.outputs t.fresh t.pending) :=
  h.trans ⟨rfl, rfl, List.prefix_refl _, Nat.le_refl _, fun _ => rfl, id, fun w => by
    simp only [State.keysRise, Bool.and_eq_true] at w ⊢
    exact ⟨⟨⟨⟨w.1.1.1.1, w.1.1.1.2⟩, hk⟩, w.1.2⟩, w.2⟩, id, id, fun _ => ⟨rfl, rfl⟩⟩

/-- A free value drawn. -/
theorem keeps_fresh {b : Bool} {s t : State} {a1 : Dword} {a4 : Dword} {a5 : Power} {a6 : Boot} {a7 : Flash} {a8 : Secu} {a14 : Option Dword} {a15 :
    MrgnUse} {a16 : MrgnUse} {a17 : Trepel} {a18 : Bndy} {a22 : NMap (List Nat)} {a23 : Faults} {a24 : Twin} {a25
    : Cadence} {a26 : Smb} {a27 : Jtag} {a28 : Option (BitVec 128 × Dword)}
    (h : Keeps b s t) : Keeps b s (State.mk t.part a1 t.dev t.prev a4 a5 a6 a7 a8 t.audit t.regs t.paths t.mem t.hbm a14 a15 a16 a17 a18 t.fabric t.ctxs
      t.clusters a22 a23 a24 a25 a26 a27 a28 t.outputs (t.fresh + 1) t.pending) :=
  h.trans ⟨rfl, rfl, List.prefix_refl _, Nat.le_succ _, id, id, id, id, id, fun _ => ⟨rfl, rfl⟩⟩

/-- Outputs appended. -/
theorem keeps_out {b : Bool} {s t : State} {o : List Out} {a1 : Dword} {a4 : Dword} {a5 : Power} {a6 : Boot} {a7 : Flash} {a8 : Secu} {a14 : Option Dword} {a15 :
    MrgnUse} {a16 : MrgnUse} {a17 : Trepel} {a18 : Bndy} {a22 : NMap (List Nat)} {a23 : Faults} {a24 : Twin} {a25
    : Cadence} {a26 : Smb} {a27 : Jtag} {a28 : Option (BitVec 128 × Dword)}
    (h : Keeps b s t) : Keeps b s (State.mk t.part a1 t.dev t.prev a4 a5 a6 a7 a8 t.audit t.regs t.paths t.mem t.hbm a14 a15 a16 a17 a18 t.fabric t.ctxs
      t.clusters a22 a23 a24 a25 a26 a27 a28 (t.outputs ++ o) t.fresh t.pending) :=
  h.trans ⟨rfl, rfl, List.prefix_append _ _, Nat.le_refl _, id, id, id, id, id, fun _ => ⟨rfl, rfl⟩⟩

theorem keeps_ite {b : Bool} {s t u : State} {c : Prop} [Decidable c] (h1 : Keeps b s t) (h2 : Keeps b s u) :
    Keeps b s (if c then t else u) := by
  split <;> assumption

theorem keeps_ite_fst {α : Type} {b : Bool} {s : State} {t u : State × α} {c : Prop} [Decidable c] (h1 : Keeps b s t.1)
    (h2 : Keeps b s u.1) : Keeps b s (if c then t else u).1 := by
  split <;> assumption

theorem keeps_foldl {α : Type} {b : Bool} {s : State} {f : State → α → State} (hf : ∀ t a, Keeps b s t → Keeps b s (f t a))
    (l : List α) {t : State} (h : Keeps b s t) : Keeps b s (l.foldl f t) := by
  induction l generalizing t with
  | nil => exact h
  | cons a l ih => exact ih (hf t a h)

theorem keeps_foldl_fst {α β : Type} {b : Bool} {s : State} {f : State × β → α → State × β}
    (hf : ∀ t a, Keeps b s t.1 → Keeps b s (f t a).1) (l : List α) {t : State × β} (h : Keeps b s t.1) :
    Keeps b s (l.foldl f t).1 := by
  induction l generalizing t with
  | nil => exact h
  | cons a l ih => exact ih (hf t a h)

theorem keeps_foldl_snd {α β : Type} {b : Bool} {s : State} {f : β × State → α → β × State}
    (hf : ∀ t a, Keeps b s t.2 → Keeps b s (f t a).2) (l : List α) {t : β × State} (h : Keeps b s t.2) :
    Keeps b s (l.foldl f t).2 := by
  induction l generalizing t with
  | nil => exact h
  | cons a l ih => exact ih (hf t a h)

theorem keeps_fst {α : Type} {b : Bool} {s t : State} {x : α} {p : State × α} (e : p = (t, x)) (h : Keeps b s p.1) :
    Keeps b s t := by
  subst e; exact h

theorem keeps_snd {α : Type} {b : Bool} {s t : State} {x : α} {p : α × State} (e : p = (x, t)) (h : Keeps b s p.2) :
    Keeps b s t := by
  subst e; exact h

theorem keeps_ite_snd {α : Type} {b : Bool} {s : State} {t u : α × State} {c : Prop} [Decidable c] (h1 : Keeps b s t.2)
    (h2 : Keeps b s u.2) : Keeps b s (if c then t else u).2 := by
  split <;> assumption

theorem keeps_id {b : Bool} {s t : State} (h : Keeps b s t) : Keeps b s (id t) := h

/-! ### The operations that change what the invariant speaks of -/

theorem writePhys_keeps {b : Bool} {s0 s : State} (x1 : Nat) (x2 : Bytes) (h : Keeps b s0 s) : Keeps b s0 (writePhys x1 x2 s) := by
  refine h.trans ?_
  unfold writePhys
  split
  · exact ⟨rfl, rfl, List.prefix_refl _, Nat.le_refl _, fun w => NMap.wf_setRun _ _ w, id, id, id, id, fun _ => ⟨rfl, rfl⟩⟩
  · exact ⟨rfl, rfl, List.prefix_refl _, Nat.le_refl _, fun w => NMap.wf_setRun _ _ (NMap.wf_setRun _ _ w), id, id, id, id,
      fun _ => ⟨rfl, rfl⟩⟩

theorem State_setReg_keeps {b : Bool} {s0 s : State} (x1 : Nat) (x2 : Word) (h : Keeps b s0 s) : Keeps b s0 (s.setReg x1 x2) :=
  h.trans ⟨rfl, rfl, List.prefix_refl _, Nat.le_refl _, id, fun w => NMap.wf_set _ _ w, id, id, id, fun _ => ⟨rfl, rfl⟩⟩

theorem rising_set {α : Type} [DecidableEq α] {d : Nat → α} {m : NMap α} (k : Nat) (v : α) (h : NMap.rising 0 m = true) :
    NMap.rising 0 (NMap.set d m k v) = true := by
  unfold NMap.set
  split
  · exact NMap.rising_erase k h
  · exact NMap.rising_insert v (Nat.zero_le k) h

theorem State_setCtx_keeps {b : Bool} {s0 s : State} (x1 : Nat) (x2 : Ctx) (h : Keeps b s0 s) : Keeps b s0 (s.setCtx x1 x2) := by
  refine keys_keeps h rfl rfl rfl rfl rfl rfl rfl rfl rfl fun w => ?_
  simp only [State.keysRise, State.setCtx, Bool.and_eq_true] at w ⊢
  exact ⟨⟨⟨⟨rising_set _ _ w.1.1.1.1, w.1.1.1.2⟩, w.1.1.2⟩, w.1.2⟩, w.2⟩

theorem State_setClus_keeps {b : Bool} {s0 s : State} (x1 : Nat) (x2 : Cluster) (h : Keeps b s0 s) : Keeps b s0 (s.setClus x1 x2) := by
  refine keys_keeps h rfl rfl rfl rfl rfl rfl rfl rfl rfl fun w => ?_
  simp only [State.keysRise, State.setClus, Bool.and_eq_true] at w ⊢
  exact ⟨⟨⟨⟨w.1.1.1.1, rising_set _ _ w.1.1.1.2⟩, w.1.1.2⟩, w.1.2⟩, w.2⟩

theorem State_setStack_keeps {b : Bool} {s0 s : State} (x1 : Nat) (x2 : Stack) (h : Keeps b s0 s) : Keeps b s0 (s.setStack x1 x2) := by
  refine keys_keeps h rfl rfl rfl rfl rfl rfl rfl rfl rfl fun w => ?_
  simp only [State.keysRise, State.setStack, Bool.and_eq_true] at w ⊢
  exact ⟨⟨⟨⟨w.1.1.1.1, w.1.1.1.2⟩, rising_set _ _ w.1.1.2⟩, w.1.2⟩, w.2⟩

theorem State_setPath_keeps {b : Bool} {s0 s : State} (x1 : Nat) (x2 : PathState) (h : Keeps b s0 s) :
    Keeps b s0 (s.setPath x1 x2) := by
  refine keys_keeps h rfl rfl rfl rfl rfl rfl rfl rfl rfl fun w => ?_
  simp only [State.keysRise, State.setPath, Bool.and_eq_true] at w ⊢
  exact ⟨⟨⟨⟨w.1.1.1.1, w.1.1.1.2⟩, w.1.1.2⟩, rising_set _ _ w.1.2⟩, w.2⟩

theorem State_setPort_keeps {b : Bool} {s0 s : State} (x1 : Nat) (x2 : Port) (h : Keeps b s0 s) : Keeps b s0 (s.setPort x1 x2) := by
  refine keys_keeps h rfl rfl rfl rfl rfl rfl rfl rfl rfl fun w => ?_
  simp only [State.keysRise, State.setPort, Bool.and_eq_true] at w ⊢
  exact ⟨⟨⟨⟨w.1.1.1.1, w.1.1.1.2⟩, w.1.1.2⟩, w.1.2⟩, rising_set _ _ w.2⟩

theorem rising_map {α : Type} (f : Nat × α → Nat × α) (hf : ∀ e, (f e).1 = e.1) (m : NMap α) (n : Nat) (h : NMap.rising n m = true) :
    NMap.rising n (m.map f) = true := by
  induction m generalizing n with
  | nil => rfl
  | cons x t ih =>
    simp only [NMap.rising, Bool.and_eq_true, decide_eq_true_eq] at h
    simp only [List.map_cons, NMap.rising, Bool.and_eq_true, decide_eq_true_eq, hf]
    exact ⟨h.1, ih _ h.2⟩

/-- The ports are mapped over, each keeping its number. -/
theorem keeps_ports {b : Bool} {s0 s t : State} (f : Nat × Port → Nat × Port) (hf : ∀ e, (f e).1 = e.1) (h : Keeps b s0 s)
    (h0 : t = { s with fabric := t.fabric }) (hp : t.fabric.ports = s.fabric.ports.map f) : Keeps b s0 t := by
  refine keys_keeps h ?_ ?_ ?_ ?_ ?_ ?_ ?_ ?_ ?_ fun w => ?_
  all_goals first | (rw [h0]; done) | skip
  simp only [State.keysRise, Bool.and_eq_true] at w ⊢
  rw [hp]
  rw [h0]
  exact ⟨w.1, rising_map f hf _ _ w.2⟩

theorem State_emit_keeps {b : Bool} {s0 s : State} (x : Out) (h : Keeps b s0 s) : Keeps b s0 (s.emit x) :=
  h.trans ⟨rfl, rfl, List.prefix_append _ _, Nat.le_refl _, id, id, id, id, id, fun _ => ⟨rfl, rfl⟩⟩

theorem linked_append (e : AuditEntry) (l : List AuditEntry) (h : linked l = true)
    (k : ∀ x, l.getLast? = some x → x.follows e = true) : linked (l ++ [e]) = true := by
  induction l with
  | nil => rfl
  | cons a t ih =>
    cases t with
    | nil => simp [linked, k a rfl]
    | cons a' t =>
      simp only [linked, Bool.and_eq_true] at h
      have := ih (by simpa [linked] using h.2) (fun x hx => k x (by simpa using hx))
      simp only [List.cons_append, linked, Bool.and_eq_true] at this ⊢
      exact ⟨h.1, this⟩

theorem linked_tail (a : AuditEntry) (t : List AuditEntry) (h : linked (a :: t) = true) : linked t = true := by
  simp only [linked, Bool.and_eq_true] at h
  exact h.2

theorem linked_drop (n : Nat) (l : List AuditEntry) (h : linked l = true) : linked (l.drop n) = true := by
  induction n generalizing l with
  | zero => exact h
  | succ n ih =>
    cases l with
    | nil => rfl
    | cons a t => exact ih t (linked_tail a t h)

theorem auditPush_keeps {b : Bool} {s0 s : State} (x1 : AuditEntry) (h : Keeps b s0 s) : Keeps b s0 (auditPush x1 s) := by
  refine h.trans ⟨rfl, rfl, List.prefix_refl _, Nat.le_refl _, id, id, id, fun w => ?_, id, fun _ => ⟨rfl, rfl⟩⟩
  simp only [Audit.chained, Bool.and_eq_true, auditPush] at w ⊢
  refine ⟨linked_append _ _ w.1 fun x hx => ?_, by simp⟩
  have w2 := w.2
  rw [hx] at w2
  simp only [Bool.and_eq_true, decide_eq_true_eq] at w2
  simp only [AuditEntry.follows, Bool.and_eq_true, decide_eq_true_eq]
  exact ⟨w2.1, by rw [w2.2]; simp only [chainNext, AuditEntry.head]⟩

/-- A move of R38. -/
theorem setDev_moved {s t : State} {d : DevState} (hd : s.dev.mayMove d = true ∨ s.dev = d) (h1 : t.dev = d) (h2 : t.prev = s.dev) :
    t.moved = true := by
  rcases hd with hd | hd
  · simp [State.moved, h1, h2, hd]
  · simp [State.moved, h1, h2, hd]

theorem mayMove_off (d : DevState) : d.mayMove .off = true := by cases d <;> rfl

theorem mayMove_coldStart (d : DevState) : d.mayMove .coldStart = true ∨ d = .coldStart := by cases d <;> simp [DevState.mayMove]

theorem mayMove_warmStart {d : DevState} (h : d ≠ .off) : d.mayMove .warmStart = true ∨ d = .warmStart := by
  cases d <;> simp_all [DevState.mayMove]

end Sys2Proof.Machine
end

