-- ==== Sys2Proof/Laws/KeepsCore.lean ====
section
/-! SUPPORT. What functions keep (Laws/Keeps.lean): records, events, memory, tensors, completions, the fabric's bookkeeping, step tables and commits, rings. -/

set_option linter.unusedVariables false

namespace Sys2Proof.Machine

-- One theorem after the other: checked all at once they take more threads than a checker has memory for.
set_option Elab.async false

/-! ### Runs -/

/-- A task's run keeps what every function keeps. -/
def RunKeeps {α : Type} (m : Run α) : Prop := ∀ (b : Bool) (s0 s : State), Keeps b s0 s → Keeps b s0 (m s).2

theorem runKeeps_pure {α : Type} (a : α) : RunKeeps (pure a : Run α) := fun _ _ _ h => h

theorem runKeeps_bind {α β : Type} {m : Run α} {k : α → Run β} (hm : RunKeeps m) (hk : ∀ a, RunKeeps (k a)) : RunKeeps (m >>= k) := by
  intro b s0 s h
  have h1 := hm b s0 s h
  show Keeps b s0 ((ExceptT.bindCont k (m s).1) (m s).2).2
  cases hr : (m s).1 with
  | ok a => exact hk a b s0 _ h1
  | error e => exact h1

theorem runKeeps_ite {α : Type} {c : Prop} [Decidable c] {m n : Run α} (hm : RunKeeps m) (hn : RunKeeps n) : RunKeeps (if c then m else n) := by
  split <;> assumption

theorem getS_keeps : RunKeeps getS := fun _ _ _ h => h
theorem modS_keeps {f : State → State} (hf : ∀ b s0 s, Keeps b s0 s → Keeps b s0 (f s)) : RunKeeps (modS f) := fun b s0 s h => hf b s0 s h
theorem stop_keeps {α : Type} (x1 : Byte) (x2 : BitVec 16) : RunKeeps (stop (α := α) x1 x2) := fun _ _ _ h => h
theorem stopKill_keeps {α : Type} (x1 x2 : Byte) : RunKeeps (stopKill (α := α) x1 x2) := fun _ _ _ h => h

theorem runKeeps_foldlM {α β : Type} {f : β → α → Run β} (hf : ∀ a x, RunKeeps (f a x)) (l : List α) (a : β) : RunKeeps (l.foldlM f a) := by
  induction l generalizing a with
  | nil => exact runKeeps_pure a
  | cons x l ih => exact runKeeps_bind (hf a x) fun a => ih a

theorem runKeeps_fun {α : Type} {g : State → Except RunStop α × State} (hg : ∀ b s0 s, Keeps b s0 s → Keeps b s0 (g s).2) : RunKeeps (g : Run α) := hg

/-- The run keeps it from this state. -/
def RunAt {α : Type} (s : State) (m : Run α) : Prop := ∀ (b : Bool) (s0 : State), Keeps b s0 s → Keeps b s0 (m s).2

theorem runKeeps_getS {α : Type} {k : State → Run α} (hk : ∀ s, RunAt s (k s)) : RunKeeps (getS >>= k) := fun b s0 s h => hk s b s0 h

theorem runAt_of {α : Type} {s : State} {m : Run α} (h : RunKeeps m) : RunAt s m := fun b s0 => h b s0 s

theorem runAt_ite {α : Type} {s : State} {c : Prop} [Decidable c] {m n : Run α} (hm : RunAt s m) (hn : RunAt s n) :
    RunAt s (if c then m else n) := by
  split <;> assumption

theorem runAt_set {α : Type} {s s1 : State} {k : Unit → Run α} (h : ∀ b s0, Keeps b s0 s → Keeps b s0 s1) (hk : RunAt s1 (k ())) :
    RunAt s (modS (fun _ => s1) >>= k) := fun b s0 h0 => hk b s0 (h b s0 h0)

theorem runAt_set_end {s s1 : State} (h : ∀ b s0, Keeps b s0 s → Keeps b s0 s1) : RunAt s (modS fun _ => s1) := h

theorem keeps_run {α : Type} {b : Bool} {s0 s s1 : State} {m : Run α} {r : Except RunStop α} (hm : RunKeeps m) (e : m.run s = (r, s1))
    (h : Keeps b s0 s) : Keeps b s0 s1 := by
  have := hm b s0 s h
  have e' : m s = (r, s1) := e
  rw [e'] at this
  exact this

/-! ### Machine/Ops.lean -/

theorem State_setRing_keeps {b : Bool} {s0 s : State} (x2 : Nat) (x3 : Nat) (x4 : Ring) (h : Keeps b s0 s) :
    Keeps b s0 (State.setRing s x2 x3 x4) := by
  unfold State.setRing
  repeat' first
    | (with_reducible first | assumption | intro _ | apply State_setCtx_keeps | apply keeps_ite | apply keeps_foldl)
    | split
    | dsimp only
    | (with_reducible first | apply keeps_mk | apply keeps_audit | apply keeps_fabric)

theorem State_setReg64_keeps {b : Bool} {s0 s : State} (x2 : Nat) (x3 : Dword) (h : Keeps b s0 s) :
    Keeps b s0 (State.setReg64 s x2 x3) := by
  unfold State.setReg64
  repeat' first
    | (with_reducible first | assumption | intro _ | apply State_setReg_keeps | apply keeps_ite | apply keeps_foldl)
    | split
    | dsimp only
    | (with_reducible first | apply keeps_mk | apply keeps_audit | apply keeps_fabric)

theorem State_setRegBit_keeps {b : Bool} {s0 s : State} (x2 : Nat) (x3 : Nat) (x4 : Bool) (h : Keeps b s0 s) :
    Keeps b s0 (State.setRegBit s x2 x3 x4) := by
  unfold State.setRegBit
  repeat' first
    | (with_reducible first | assumption | intro _ | apply State_setReg_keeps | apply keeps_ite | apply keeps_foldl)
    | split
    | dsimp only
    | (with_reducible first | apply keeps_mk | apply keeps_audit | apply keeps_fabric)

theorem countRaw_keeps {b : Bool} {s0 s : State} (x1 : Nat) (x2 : Nat) (h : Keeps b s0 s) :
    Keeps b s0 (countRaw x1 x2 s).1 := by
  unfold countRaw
  repeat' first
    | (with_reducible first | assumption | intro _ | apply State_setReg64_keeps | apply
                            State_setReg_keeps | apply keeps_ite | apply keeps_foldl | apply keeps_ite_fst | apply
                            keeps_foldl_fst | apply keeps_foldl_snd)
    | split
    | dsimp only
    | (with_reducible first | apply keeps_mk | apply keeps_audit | apply keeps_fabric)

theorem countClear_keeps {b : Bool} {s0 s : State} (x1 : Nat) (h : Keeps b s0 s) :
    Keeps b s0 (countClear x1 s) := by
  unfold countClear
  repeat' first
    | (with_reducible first | assumption | intro _ | apply State_setReg64_keeps | apply keeps_ite | apply keeps_foldl)
    | split
    | dsimp only
    | (with_reducible first | apply keeps_mk | apply keeps_audit | apply keeps_fabric)

theorem sendMsi_keeps {b : Bool} {s0 s : State} (x1 : Nat) (x2 : Nat) (h : Keeps b s0 s) :
    Keeps b s0 (sendMsi x1 x2 s) := by
  unfold sendMsi
  repeat' first
    | (with_reducible first | assumption | intro _ | apply State_emit_keeps | apply keeps_ite | apply keeps_foldl)
    | split
    | dsimp only
    | (with_reducible first | apply keeps_mk | apply keeps_audit | apply keeps_fabric)

theorem ringError_keeps {b : Bool} {s0 s : State} (x1 : Nat) (x2 : Nat) (x3 : BitVec 3) (h : Keeps b s0 s) :
    Keeps b s0 (ringError x1 x2 x3 s) := by
  unfold ringError
  repeat' first
    | (with_reducible first | assumption | intro _ | apply State_setRing_keeps | apply sendMsi_keeps
                            | apply keeps_ite | apply keeps_foldl)
    | split
    | dsimp only
    | (with_reducible first | apply keeps_mk | apply keeps_audit | apply keeps_fabric)

theorem noteRecord_keeps {b : Bool} {s0 s : State} (x1 : Nat) (x2 : Nat) (h : Keeps b s0 s) :
    Keeps b s0 (noteRecord x1 x2 s) := by
  unfold noteRecord
  repeat' first
    | (with_reducible first | assumption | intro _ | apply sendMsi_keeps | apply State_setRing_keeps
                            | apply keeps_ite | apply keeps_foldl)
    | split
    | dsimp only
    | (with_reducible first | apply keeps_mk | apply keeps_audit | apply keeps_fabric)

theorem putRecord_keeps {b : Bool} {s0 s : State} (x1 : Nat) (x2 : Nat) (x3 : Bytes) (h : Keeps b s0 s) :
    Keeps b s0 (putRecord x1 x2 x3 s) := by
  unfold putRecord
  repeat' first
    | (with_reducible first | assumption | intro _ | apply State_emit_keeps | apply
                            State_setRing_keeps | apply noteRecord_keeps | apply keeps_ite | apply keeps_foldl)
    | split
    | dsimp only
    | (with_reducible first | apply keeps_mk | apply keeps_audit | apply keeps_fabric)

theorem auditGap_keeps {b : Bool} {s0 s : State} (h : Keeps b s0 s) :
    Keeps b s0 (auditGap s) := by
  unfold auditGap
  repeat' first
    | (with_reducible first | assumption | intro _ | apply auditPush_keeps | apply keeps_ite | apply keeps_foldl)
    | split
    | dsimp only
    | (with_reducible first | apply keeps_mk | apply keeps_audit | apply keeps_fabric)

theorem auditAppend_keeps {b : Bool} {s0 s : State} (x1 : AuditEntry) (h : Keeps b s0 s) :
    Keeps b s0 (auditAppend x1 s) := by
  unfold auditAppend
  repeat' first
    | (with_reducible first | assumption | intro _ | apply auditPush_keeps | apply auditGap_keeps |
                            apply keeps_ite | apply keeps_foldl)
    | split
    | dsimp only
    | (with_reducible first | apply keeps_mk | apply keeps_audit | apply keeps_fabric)

theorem setUse_keeps {b : Bool} {s0 s : State} (x1 : MrgnUse) (h : Keeps b s0 s) :
    Keeps b s0 (setUse x1 s) := by
  unfold setUse
  repeat' first
    | (with_reducible first | assumption | intro _ | apply keeps_ite | apply keeps_foldl)
    | split
    | dsimp only
    | (with_reducible first | apply keeps_mk | apply keeps_audit | apply keeps_fabric)

theorem useStack_keeps {b : Bool} {s0 s : State} (x1 : Nat) (x2 : Nat) (h : Keeps b s0 s) :
    Keeps b s0 (useStack x1 x2 s) := by
  unfold useStack
  repeat' first
    | (with_reducible first | assumption | intro _ | apply setUse_keeps | apply keeps_ite | apply keeps_foldl)
    | split
    | dsimp only
    | (with_reducible first | apply keeps_mk | apply keeps_audit | apply keeps_fabric)

theorem usePip_keeps {b : Bool} {s0 s : State} (x1 : Nat) (x2 : Nat) (h : Keeps b s0 s) :
    Keeps b s0 (usePip x1 x2 s) := by
  unfold usePip
  repeat' first
    | (with_reducible first | assumption | intro _ | apply setUse_keeps | apply keeps_ite | apply keeps_foldl)
    | split
    | dsimp only
    | (with_reducible first | apply keeps_mk | apply keeps_audit | apply keeps_fabric)

theorem useCross_keeps {b : Bool} {s0 s : State} (x1 : Nat) (x2 : Nat) (h : Keeps b s0 s) :
    Keeps b s0 (useCross x1 x2 s) := by
  unfold useCross
  repeat' first
    | (with_reducible first | assumption | intro _ | apply setUse_keeps | apply keeps_ite | apply keeps_foldl)
    | split
    | dsimp only
    | (with_reducible first | apply keeps_mk | apply keeps_audit | apply keeps_fabric)

theorem noteLimited_keeps {b : Bool} {s0 s : State} (h : Keeps b s0 s) :
    Keeps b s0 (noteLimited s) := by
  unfold noteLimited
  repeat' first
    | (with_reducible first | assumption | intro _ | apply setUse_keeps | apply keeps_ite | apply keeps_foldl)
    | split
    | dsimp only
    | (with_reducible first | apply keeps_mk | apply keeps_audit | apply keeps_fabric)

/-! ### Machine/Events.lean -/

theorem countWith_keeps {b : Bool} {s0 s : State} (x1 : ERec → State → State) (x2 : Nat) (x3 : Nat) (hx1 : ∀ a0 t, Keeps
    b s0 t → Keeps b s0 (x1 a0 t)) (h : Keeps b s0 s) :
    Keeps b s0 (countWith x1 x2 x3 s) := by
  unfold countWith
  repeat' first
    | (with_reducible first | assumption | intro _ | apply countRaw_keeps | apply hx1 | apply keeps_ite | apply keeps_foldl)
    | (with_reducible refine keeps_fst (by with_reducible assumption) ?_)
    | split
    | dsimp only
    | (with_reducible first | apply keeps_mk | apply keeps_audit | apply keeps_fabric)

theorem auditHwWith_keeps {b : Bool} {s0 s : State} (x1 : ERec → State → State) (x2 : AuditEntry) (hx1 : ∀ a0 t, Keeps b
    s0 t → Keeps b s0 (x1 a0 t)) (h : Keeps b s0 s) :
    Keeps b s0 (auditHwWith x1 x2 s) := by
  unfold auditHwWith
  repeat' first
    | (with_reducible first | assumption | intro _ | apply auditAppend_keeps | apply countWith_keeps
                            | apply hx1 | apply keeps_ite | apply keeps_foldl)
    | split
    | dsimp only
    | (with_reducible first | apply keeps_mk | apply keeps_audit | apply keeps_fabric)

theorem violationWith_keeps {b : Bool} {s0 s : State} (x1 : ERec → State → State) (x2 : Nat) (hx1 : ∀ a0 t, Keeps b s0 t
    → Keeps b s0 (x1 a0 t)) (h : Keeps b s0 s) :
    Keeps b s0 (violationWith x1 x2 s) := by
  unfold violationWith
  repeat' first
    | (with_reducible first | assumption | intro _ | apply auditHwWith_keeps | apply countWith_keeps
                            | apply hx1 | apply keeps_ite | apply keeps_foldl)
    | split
    | dsimp only
    | (with_reducible first | apply keeps_mk | apply keeps_audit | apply keeps_fabric)

theorem ringOutsideWith_keeps {b : Bool} {s0 s : State} (x1 : ERec → State → State) (x2 : Nat) (x3 : Nat) (hx1 : ∀ a0 t,
    Keeps b s0 t → Keeps b s0 (x1 a0 t)) (h : Keeps b s0 s) :
    Keeps b s0 (ringOutsideWith x1 x2 x3 s) := by
  unfold ringOutsideWith
  repeat' first
    | (with_reducible first | assumption | intro _ | apply ringError_keeps | apply
                            violationWith_keeps | apply hx1 | apply keeps_ite | apply keeps_foldl)
    | split
    | dsimp only
    | (with_reducible first | apply keeps_mk | apply keeps_audit | apply keeps_fabric)

theorem bufferEventWith_keeps {b : Bool} {s0 s : State} (x1 : ERec → State → State) (x2 : Nat) (x3 : ERec) (hx1 : ∀ a0
    t, Keeps b s0 t → Keeps b s0 (x1 a0 t)) (h : Keeps b s0 s) :
    Keeps b s0 (bufferEventWith x1 x2 x3 s) := by
  unfold bufferEventWith
  repeat' first
    | (with_reducible first | assumption | intro _ | apply State_setCtx_keeps | apply
                            countWith_keeps | apply hx1 | apply keeps_ite | apply keeps_foldl)
    | split
    | dsimp only
    | (with_reducible first | apply keeps_mk | apply keeps_audit | apply keeps_fabric)

theorem deliverWith_keeps {b : Bool} {s0 s : State} (x1 : ERec → State → State) (x2 : Nat) (x3 : ERec) (hx1 : ∀ a0 t,
    Keeps b s0 t → Keeps b s0 (x1 a0 t)) (h : Keeps b s0 s) :
    Keeps b s0 (deliverWith x1 x2 x3 s) := by
  unfold deliverWith
  repeat' first
    | (with_reducible first | assumption | intro _ | apply putRecord_keeps | apply
                            State_setCtx_keeps | apply bufferEventWith_keeps | apply ringOutsideWith_keeps | apply hx1 |
                            apply keeps_ite | apply keeps_foldl)
    | split
    | dsimp only
    | (with_reducible first | apply keeps_mk | apply keeps_audit | apply keeps_fabric)

theorem raiseN_keeps {b : Bool} {s0 s : State} (x1 : Nat) (x2 : ERec) (h : Keeps b s0 s) :
    Keeps b s0 (raiseN x1 x2 s) := by
  induction x1 generalizing s x2 with
  | zero => exact h
  | succ n ih =>
    unfold raiseN
    repeat' first
      | (with_reducible first | assumption | intro _ | apply deliverWith_keeps | apply keeps_ite |
                              apply keeps_foldl | apply keeps_ite_fst | apply keeps_foldl_fst | apply keeps_foldl_snd |
                              apply ih)
      | split
      | dsimp only
      | (with_reducible first | apply keeps_mk | apply keeps_audit | apply keeps_fabric)

theorem raise_keeps {b : Bool} {s0 s : State} (x1 : ERec) (h : Keeps b s0 s) :
    Keeps b s0 (raise x1 s) := by
  unfold raise
  repeat' first
    | (with_reducible first | assumption | intro _ | apply raiseN_keeps | apply keeps_ite | apply keeps_foldl)
    | split
    | dsimp only
    | (with_reducible first | apply keeps_mk | apply keeps_audit | apply keeps_fabric)

theorem count_keeps {b : Bool} {s0 s : State} (x1 : Nat) (x2 : Nat) (h : Keeps b s0 s) :
    Keeps b s0 (count x1 x2 s) := by
  unfold count
  repeat' first
    | (with_reducible first | assumption | intro _ | apply countWith_keeps | apply raise_keeps |
                            apply keeps_ite | apply keeps_foldl)
    | split
    | dsimp only
    | (with_reducible first | apply keeps_mk | apply keeps_audit | apply keeps_fabric)

theorem auditHw_keeps {b : Bool} {s0 s : State} (x1 : AuditEntry) (h : Keeps b s0 s) :
    Keeps b s0 (auditHw x1 s) := by
  unfold auditHw
  repeat' first
    | (with_reducible first | assumption | intro _ | apply auditHwWith_keeps | apply raise_keeps |
                            apply keeps_ite | apply keeps_foldl)
    | split
    | dsimp only
    | (with_reducible first | apply keeps_mk | apply keeps_audit | apply keeps_fabric)

theorem auditAction_keeps {b : Bool} {s0 s : State} (x1 : Nat) (x2 : Nat) (x3 : Nat) (h : Keeps b s0 s) :
    Keeps b s0 (auditAction x1 x2 x3 s) := by
  unfold auditAction
  repeat' first
    | (with_reducible first | assumption | intro _ | apply auditHw_keeps | apply keeps_ite | apply keeps_foldl)
    | split
    | dsimp only
    | (with_reducible first | apply keeps_mk | apply keeps_audit | apply keeps_fabric)

theorem violation_keeps {b : Bool} {s0 s : State} (x1 : Nat) (h : Keeps b s0 s) :
    Keeps b s0 (violation x1 s) := by
  unfold violation
  repeat' first
    | (with_reducible first | assumption | intro _ | apply violationWith_keeps | apply raise_keeps |
                            apply keeps_ite | apply keeps_foldl)
    | split
    | dsimp only
    | (with_reducible first | apply keeps_mk | apply keeps_audit | apply keeps_fabric)

theorem auditState_keeps {b : Bool} {s0 s : State} (x1 : Nat) (x2 : Nat) (x3 : Nat) (x4 : Nat) (x5 : Nat) (h : Keeps b s0 s) :
    Keeps b s0 (auditState x1 x2 x3 x4 x5 s) := by
  unfold auditState
  repeat' first
    | (with_reducible first | assumption | intro _ | apply auditHw_keeps | apply keeps_ite | apply keeps_foldl)
    | split
    | dsimp only
    | (with_reducible first | apply keeps_mk | apply keeps_audit | apply keeps_fabric)

theorem smbAlert_keeps {b : Bool} {s0 s : State} (x1 : Nat) (h : Keeps b s0 s) :
    Keeps b s0 (smbAlert x1 s) := by
  unfold smbAlert
  repeat' first
    | (with_reducible first | assumption | intro _ | apply keeps_ite | apply keeps_foldl)
    | split
    | dsimp only
    | (with_reducible first | apply keeps_mk | apply keeps_audit | apply keeps_fabric)

theorem setDev_keeps {s0 s : State} (x1 : DevState) (hd : s.dev.mayMove x1 = true ∨ s.dev = x1) (h : Keeps false s0 s) :
    Keeps false s0 (setDev x1 s) := by
  unfold setDev
  split
  · exact h
  apply smbAlert_keeps
  apply auditState_keeps
  exact h.trans ⟨rfl, rfl, List.prefix_refl _, Nat.le_refl _, id, id, id, id, fun _ => setDev_moved hd rfl rfl, fun e =>
      by cases e⟩

/-- A move of R38 after functions that do not move the device. -/
theorem setDev_after {s0 s t : State} {x1 : DevState} (hd : s.dev.mayMove x1 = true ∨ s.dev = x1) (k : Keeps true s t)
    (h : Keeps false s0 s) : Keeps false s0 (setDev x1 t) :=
  setDev_keeps x1 (by rw [(k.still rfl).1]; exact hd) (h.trans k.weak)

theorem setDev_dev (d : DevState) (s : State) : (setDev d s).dev = d := by
  unfold setDev
  split
  · assumption
  · exact ((smbAlert_keeps 0 (auditState_keeps 1 1 0 s.dev.code d.code (Keeps.refl true _))).still rfl).1

theorem setCtxState_keeps {b : Bool} {s0 s : State} (x1 : Nat) (x2 : CtxState) (h : Keeps b s0 s) :
    Keeps b s0 (setCtxState x1 x2 s) := by
  unfold setCtxState
  repeat' first
    | (with_reducible first | assumption | intro _ | apply auditState_keeps | apply
                            State_setCtx_keeps | apply keeps_ite | apply keeps_foldl)
    | split
    | dsimp only
    | (with_reducible first | apply keeps_mk | apply keeps_audit | apply keeps_fabric)

theorem raiseWho_keeps {b : Bool} {s0 s : State} (x1 : Who) (x2 : BitVec 16) (x3 : Byte) (x4 : Nat) (x5 : Bytes) (h :
    Keeps b s0 s) :
    Keeps b s0 (raiseWho x1 x2 x3 x4 x5 s) := by
  unfold raiseWho
  repeat' first
    | (with_reducible first | assumption | intro _ | apply raise_keeps | apply keeps_ite | apply keeps_foldl)
    | split
    | dsimp only
    | (with_reducible first | apply keeps_mk | apply keeps_audit | apply keeps_fabric)

theorem raiseCtx_keeps {b : Bool} {s0 s : State} (x1 : Nat) (x2 : BitVec 16) (x3 : Byte) (x4 : Nat) (x5 : Bytes) (h :
    Keeps b s0 s) :
    Keeps b s0 (raiseCtx x1 x2 x3 x4 x5 s) := by
  unfold raiseCtx
  repeat' first
    | (with_reducible first | assumption | intro _ | apply raise_keeps | apply keeps_ite | apply keeps_foldl)
    | split
    | dsimp only
    | (with_reducible first | apply keeps_mk | apply keeps_audit | apply keeps_fabric)

theorem raiseDev_keeps {b : Bool} {s0 s : State} (x1 : BitVec 16) (x2 : Byte) (x3 : Nat) (x4 : Bytes) (h : Keeps b s0 s) :
    Keeps b s0 (raiseDev x1 x2 x3 x4 s) := by
  unfold raiseDev
  repeat' first
    | (with_reducible first | assumption | intro _ | apply raise_keeps | apply keeps_ite | apply keeps_foldl)
    | split
    | dsimp only
    | (with_reducible first | apply keeps_mk | apply keeps_audit | apply keeps_fabric)

theorem putCompletion_keeps {b : Bool} {s0 s : State} (x1 : Nat) (x2 : Nat) (x3 : CRec) (h : Keeps b s0 s) :
    Keeps b s0 (putCompletion x1 x2 x3 s) := by
  unfold putCompletion
  repeat' first
    | (with_reducible first | assumption | intro _ | apply State_setCtx_keeps | apply
                            putRecord_keeps | apply ringOutsideWith_keeps | apply raise_keeps | apply keeps_ite | apply
                            keeps_foldl)
    | split
    | dsimp only
    | (with_reducible first | apply keeps_mk | apply keeps_audit | apply keeps_fabric)

theorem flushCq_keeps {b : Bool} {s0 s : State} (x1 : Nat) (x2 : Nat) (x3 : Nat) (h : Keeps b s0 s) :
    Keeps b s0 (flushCq x1 x2 x3 s) := by
  induction x1 generalizing s x2 x3 with
  | zero => exact h
  | succ n ih =>
    unfold flushCq
    repeat' first
      | (with_reducible first | assumption | intro _ | apply State_setCtx_keeps | apply
                              putRecord_keeps | apply keeps_ite | apply keeps_foldl | apply ih)
      | split
      | dsimp only
      | (with_reducible first | apply keeps_mk | apply keeps_audit | apply keeps_fabric)

theorem flushEq_keeps {b : Bool} {s0 s : State} (x1 : Nat) (x2 : Nat) (h : Keeps b s0 s) :
    Keeps b s0 (flushEq x1 x2 s) := by
  induction x1 generalizing s x2 with
  | zero => exact h
  | succ n ih =>
    unfold flushEq
    repeat' first
      | (with_reducible first | assumption | intro _ | apply State_setCtx_keeps | apply
                              putRecord_keeps | apply keeps_ite | apply keeps_foldl | apply ih)
      | split
      | dsimp only
      | (with_reducible first | apply keeps_mk | apply keeps_audit | apply keeps_fabric)

theorem flushRecords_keeps {b : Bool} {s0 s : State} (x1 : Nat) (h : Keeps b s0 s) :
    Keeps b s0 (flushRecords x1 s) := by
  unfold flushRecords
  repeat' first
    | (with_reducible first | assumption | intro _ | apply flushEq_keeps | apply flushCq_keeps |
                            apply keeps_ite | apply keeps_foldl)
    | split
    | dsimp only
    | (with_reducible first | apply keeps_mk | apply keeps_audit | apply keeps_fabric)

theorem adminRecord_keeps {b : Bool} {s0 s : State} (x1 : Nat) (x2 : Byte) (x3 : BitVec 16) (x4 : Word) (x5 : Dword) (h
    : Keeps b s0 s) :
    Keeps b s0 (adminRecord x1 x2 x3 x4 x5 s) := by
  unfold adminRecord
  repeat' first
    | (with_reducible first | assumption | intro _ | apply putCompletion_keeps | apply keeps_ite | apply keeps_foldl)
    | split
    | dsimp only
    | (with_reducible first | apply keeps_mk | apply keeps_audit | apply keeps_fabric)

theorem segmentRecord_keeps {b : Bool} {s0 s : State} (x1 : Nat) (x2 : Nat) (x3 : Byte) (x4 : BitVec 16) (x5 : Word) (h
    : Keeps b s0 s) :
    Keeps b s0 (segmentRecord x1 x2 x3 x4 x5 s) := by
  unfold segmentRecord
  repeat' first
    | (with_reducible first | assumption | intro _ | apply putCompletion_keeps | apply keeps_ite | apply keeps_foldl)
    | split
    | dsimp only
    | (with_reducible first | apply keeps_mk | apply keeps_audit | apply keeps_fabric)

/-! ### Machine/Mem.lean -/

theorem noteRow_keeps {b : Bool} {s0 s : State} (x1 : Nat) (x2 : RowAddr) (x3 : Bool) (h : Keeps b s0 s) :
    Keeps b s0 (noteRow x1 x2 x3 s) := by
  unfold noteRow
  repeat' first
    | (with_reducible first | assumption | intro _ | apply State_setStack_keeps | apply keeps_ite | apply keeps_foldl)
    | split
    | dsimp only
    | (with_reducible first | apply keeps_mk | apply keeps_audit | apply keeps_fabric)

theorem noteCe_keeps {b : Bool} {s0 s : State} (x1 : Nat) (h : Keeps b s0 s) :
    Keeps b s0 (noteCe x1 s) := by
  unfold noteCe
  repeat' first
    | (with_reducible first | assumption | intro _ | apply noteRow_keeps | apply count_keeps | apply
                            raiseDev_keeps | apply State_setStack_keeps | apply keeps_ite | apply keeps_foldl)
    | split
    | dsimp only
    | (with_reducible first | apply keeps_mk | apply keeps_audit | apply keeps_fabric)

theorem noteUe_keeps {b : Bool} {s0 s : State} (x1 : Nat) (h : Keeps b s0 s) :
    Keeps b s0 (noteUe x1 s) := by
  unfold noteUe
  repeat' first
    | (with_reducible first | assumption | intro _ | apply noteRow_keeps | apply count_keeps | apply
                            State_setReg_keeps | apply State_setStack_keeps | apply keeps_ite | apply keeps_foldl)
    | split
    | dsimp only
    | (with_reducible first | apply keeps_mk | apply keeps_audit | apply keeps_fabric)

theorem noteCes_keeps {b : Bool} {s0 s : State} (x1 : Env) (x2 : Nat) (x3 : Nat) (h : Keeps b s0 s) :
    Keeps b s0 (noteCes x1 x2 x3 s) := by
  unfold noteCes
  repeat' first
    | (with_reducible first | assumption | intro _ | apply noteCe_keeps | apply keeps_ite | apply
                            keeps_foldl | apply keeps_ite_fst | apply keeps_foldl_fst | apply keeps_foldl_snd)
    | split
    | dsimp only
    | (with_reducible first | apply keeps_mk | apply keeps_audit | apply keeps_fabric)

theorem noteUes_keeps {b : Bool} {s0 s : State} (x1 : List Nat) (h : Keeps b s0 s) :
    Keeps b s0 (noteUes x1 s) := by
  unfold noteUes
  repeat' first
    | (with_reducible first | assumption | intro _ | apply noteUe_keeps | apply keeps_ite | apply
                            keeps_foldl | apply keeps_ite_fst | apply keeps_foldl_fst | apply keeps_foldl_snd)
    | split
    | dsimp only
    | (with_reducible first | apply keeps_mk | apply keeps_audit | apply keeps_fabric)

theorem noteTableChange_keeps {b : Bool} {s0 s : State} (x1 : Nat) (x2 : Nat) (h : Keeps b s0 s) :
    Keeps b s0 (noteTableChange x1 x2 s) := by
  unfold noteTableChange
  repeat' first
    | (with_reducible first | assumption | intro _ | apply State_setCtx_keeps | apply keeps_ite |
                            apply keeps_foldl | apply keeps_ite_fst | apply keeps_foldl_fst | apply keeps_foldl_snd)
    | split
    | dsimp only
    | (with_reducible first | apply keeps_mk | apply keeps_audit | apply keeps_fabric)

theorem noteWalks_keeps {b : Bool} {s0 s : State} (x1 : Env) (x2 : Nat) (x3 : Nat) (x4 : Nat) (x5 : Nat) (x6 : Bool) (h
    : Keeps b s0 s) :
    Keeps b s0 (noteWalks x1 x2 x3 x4 x5 x6 s) := by
  unfold noteWalks
  repeat' first
    | (with_reducible first | assumption | intro _ | apply noteCes_keeps | apply keeps_ite | apply
                            keeps_foldl | apply keeps_ite_fst | apply keeps_foldl_fst | apply keeps_foldl_snd)
    | split
    | dsimp only
    | (with_reducible first | apply keeps_mk | apply keeps_audit | apply keeps_fabric)

theorem noteReads_keeps {b : Bool} {s0 s : State} (x1 : Env) (x2 : Nat) (x3 : Nat) (x4 : Nat) (x5 : Nat) (h : Keeps b s0 s) :
    Keeps b s0 (noteReads x1 x2 x3 x4 x5 s) := by
  unfold noteReads
  repeat' first
    | (with_reducible first | assumption | intro _ | apply noteWalks_keeps | apply noteCes_keeps |
                            apply keeps_ite | apply keeps_foldl | apply keeps_ite_fst | apply keeps_foldl_fst | apply
                            keeps_foldl_snd)
    | split
    | dsimp only
    | (with_reducible first | apply keeps_mk | apply keeps_audit | apply keeps_fabric)

theorem writePieces_keeps {b : Bool} {s0 s : State} (x1 : List (Nat × Nat)) (x2 : Bytes) (h : Keeps b s0 s) :
    Keeps b s0 (writePieces x1 x2 s) := by
  induction x1 generalizing s x2 with
  | nil => exact h
  | cons p t ih =>
    unfold writePieces
    repeat' first
      | (with_reducible first | assumption | intro _ | apply writePhys_keeps | apply keeps_ite | apply keeps_foldl | apply ih)
      | split
      | dsimp only
      | (with_reducible first | apply keeps_mk | apply keeps_audit | apply keeps_fabric)

theorem fetchVa_keeps {b : Bool} {s0 s u : State} {x : Except MemErr (Bytes × Option Nat)} {x1 : Env} {x2 : Nat} {x3 :
    Nat} {x4 : Nat} (h : Keeps b s0 s)
    (e : fetchVa x1 x2 x3 x4 s = (x, u)) : Keeps b s0 u := by
  unfold fetchVa at e
  try dsimp only at e
  (repeat' split at e) <;> (first | cases e | skip)
  all_goals
    repeat' first
      | (with_reducible first | assumption | intro _ | apply noteReads_keeps | apply noteUes_keeps |
                              apply keeps_ite | apply keeps_foldl)
      | split
      | dsimp only
      | (with_reducible first | apply keeps_mk | apply keeps_audit | apply keeps_fabric)

theorem writeAt_keeps {b : Bool} {s0 s u : State} {x1 : Env} {x2 : Nat} {x3 : Nat} {x4 : Nat} {x5 : Bytes} (h : Keeps b s0 s)
    (e : writeAt x1 x2 x3 x4 x5 s = .ok u) : Keeps b s0 u := by
  unfold writeAt at e
  (repeat' split at e) <;> (first | cases e | skip)
  all_goals
    repeat' first
      | (with_reducible first | assumption | intro _ | apply writePieces_keeps | apply
                              noteWalks_keeps | apply keeps_ite | apply keeps_foldl)
      | split
      | dsimp only
      | (with_reducible first | apply keeps_mk | apply keeps_audit | apply keeps_fabric)

theorem writeVa_keeps {b : Bool} {s0 s u : State} {x1 : Env} {x2 : Nat} {x3 : Nat} {x4 : Bytes} (h : Keeps b s0 s)
    (e : writeVa x1 x2 x3 x4 s = .ok u) : Keeps b s0 u := by
  unfold writeVa at e
  (first | cases e | skip)
  all_goals
    repeat' first
      | (with_reducible first | assumption | intro _ | apply keeps_ite | apply keeps_foldl)
      | (with_reducible refine writeAt_keeps ?_ (by with_reducible assumption))
      | split
      | dsimp only
      | (with_reducible first | apply keeps_mk | apply keeps_audit | apply keeps_fabric)

theorem createPoison_keeps {b : Bool} {s0 s : State} (x1 : Who) (x2 : TileLoc) (x3 : Nat) (x4 : Nat) (x5 : Nat) (h :
    Keeps b s0 s) :
    Keeps b s0 (createPoison x1 x2 x3 x4 x5 s) := by
  unfold createPoison
  repeat' first
    | (with_reducible first | assumption | intro _ | apply count_keeps | apply writePhys_keeps |
                            apply raiseWho_keeps | apply keeps_ite | apply keeps_foldl)
    | split
    | dsimp only
    | (with_reducible first | apply keeps_mk | apply keeps_audit | apply keeps_fabric)

theorem loadTile_keeps {b : Bool} {s0 s : State} (x1 : Env) (x2 : Who) (x3 : TileLoc) (x4 : Nat) (h : Keeps b s0 s) :
    Keeps b s0 (loadTile x1 x2 x3 x4 s).1 := by
  unfold loadTile
  repeat' first
    | (with_reducible first | assumption | intro _ | apply noteWalks_keeps | apply noteReads_keeps |
                            apply createPoison_keeps | apply noteUes_keeps | apply keeps_ite | apply keeps_foldl | apply
                            keeps_ite_fst | apply keeps_foldl_fst | apply keeps_foldl_snd)
    | split
    | dsimp only
    | (with_reducible first | apply keeps_mk | apply keeps_audit | apply keeps_fabric)

theorem storeTile_keeps {b : Bool} {s0 s u : State} {x1 : Env} {x2 : TileLoc} {x3 : Nat} {x4 : TileImg} (h : Keeps b s0 s)
    (e : storeTile x1 x2 x3 x4 s = .ok u) : Keeps b s0 u := by
  unfold storeTile at e
  try dsimp only at e
  (repeat' split at e) <;> (first | cases e | skip)
  all_goals
    repeat' first
      | (with_reducible first | assumption | intro _ | apply noteWalks_keeps | apply count_keeps |
                              apply writePieces_keeps | apply keeps_ite | apply keeps_foldl)
      | split
      | dsimp only
      | (with_reducible first | apply keeps_mk | apply keeps_audit | apply keeps_fabric)

theorem noteChecksum_keeps {b : Bool} {s0 s : State} (h : Keeps b s0 s) :
    Keeps b s0 (noteChecksum s) := by
  unfold noteChecksum
  repeat' first
    | (with_reducible first | assumption | intro _ | apply keeps_ite | apply keeps_foldl)
    | split
    | dsimp only
    | (with_reducible first | apply keeps_mk | apply keeps_audit | apply keeps_fabric)

theorem raiseChecksum_keeps {b : Bool} {s0 s : State} (x1 : Who) (x2 : Nat) (x3 : Nat) (x4 : Nat) (x5 : Nat) (x6 : Nat)
    (x7 : Nat) (x8 : Nat) (x9 : Nat) (h : Keeps b s0 s) :
    Keeps b s0 (raiseChecksum x1 x2 x3 x4 x5 x6 x7 x8 x9 s) := by
  unfold raiseChecksum
  repeat' first
    | (with_reducible first | assumption | intro _ | apply raiseWho_keeps | apply noteChecksum_keeps
                            | apply keeps_ite | apply keeps_foldl)
    | split
    | dsimp only
    | (with_reducible first | apply keeps_mk | apply keeps_audit | apply keeps_fabric)

theorem raisePoisonConsumed_keeps {b : Bool} {s0 s : State} (x1 : Who) (x2 : Nat) (x3 : Nat) (x4 : Nat) (x5 : Nat) (x6 :
    Nat) (x7 : Nat) (h : Keeps b s0 s) :
    Keeps b s0 (raisePoisonConsumed x1 x2 x3 x4 x5 x6 x7 s) := by
  unfold raisePoisonConsumed
  repeat' first
    | (with_reducible first | assumption | intro _ | apply raiseWho_keeps | apply keeps_ite | apply keeps_foldl)
    | split
    | dsimp only
    | (with_reducible first | apply keeps_mk | apply keeps_audit | apply keeps_fabric)

/-! ### Machine/Tensors.lean -/

theorem stopMem_keeps {α : Type} (x1 : Who) (x2 : Nat) (x3 : MemErr) : RunKeeps (stopMem (α := α) x1 x2 x3) := by
  unfold stopMem
  repeat' first
    | (with_reducible first | assumption | intro _ | apply stop_keeps | apply modS_keeps | apply
                            noteUe_keeps | apply raisePoisonConsumed_keeps | apply stopKill_keeps | apply keeps_ite | apply
                            keeps_foldl | apply runKeeps_pure | apply runKeeps_getS | apply runKeeps_bind | apply
                            runKeeps_ite | apply runKeeps_foldlM | apply runAt_set | apply runAt_set_end | apply runAt_ite)
    | extract_lets
    | split
    | dsimp only
    | (with_reducible first | apply keeps_mk | apply keeps_audit | apply keeps_fabric)
    | (with_reducible apply runAt_of)

theorem readTile_keeps (x1 : Env) (x2 : Who) (x3 : Nat) (x4 : Nat) (x5 : TileLoc) (x6 : Nat) : RunKeeps (readTile x1 x2
    x3 x4 x5 x6) := by
  unfold readTile
  repeat' first
    | (with_reducible first | assumption | intro _ | apply getS_keeps | apply loadTile_keeps | apply
                            modS_keeps | apply stopMem_keeps | apply raisePoisonConsumed_keeps | apply stopKill_keeps |
                            apply raiseChecksum_keeps | apply stop_keeps | apply keeps_ite | apply keeps_foldl | apply
                            runKeeps_pure | apply runKeeps_getS | apply runKeeps_bind | apply runKeeps_ite | apply
                            runKeeps_foldlM | apply runAt_set | apply runAt_set_end | apply runAt_ite)
    | (with_reducible refine keeps_fst (by with_reducible assumption) ?_)
    | extract_lets
    | split
    | dsimp only
    | (with_reducible first | apply keeps_mk | apply keeps_audit | apply keeps_fabric)
    | (with_reducible apply runAt_of)

theorem readTiles_keeps (x1 : Env) (x2 : Who) (x3 : Nat) (x4 : Nat) (x5 : Tensor) : RunKeeps (readTiles x1 x2 x3 x4 x5) := by
  unfold readTiles
  repeat' first
    | (with_reducible first | assumption | intro _ | apply readTile_keeps | apply keeps_ite | apply
                            keeps_foldl | apply keeps_ite_fst | apply keeps_foldl_fst | apply keeps_foldl_snd | apply
                            runKeeps_pure | apply runKeeps_getS | apply runKeeps_bind | apply runKeeps_ite | apply
                            runKeeps_foldlM | apply runAt_set | apply runAt_set_end | apply runAt_ite)
    | extract_lets
    | split
    | dsimp only
    | (with_reducible first | apply keeps_mk | apply keeps_audit | apply keeps_fabric)
    | (with_reducible apply runAt_of)

theorem readMat_keeps (x1 : Env) (x2 : Who) (x3 : Nat) (x4 : Nat) (x5 : Tensor) : RunKeeps (readMat x1 x2 x3 x4 x5) := by
  unfold readMat
  repeat' first
    | (with_reducible first | assumption | intro _ | apply readTiles_keeps | apply keeps_ite | apply
                            keeps_foldl | apply runKeeps_pure | apply runKeeps_getS | apply runKeeps_bind | apply
                            runKeeps_ite | apply runKeeps_foldlM | apply runAt_set | apply runAt_set_end | apply runAt_ite)
    | extract_lets
    | split
    | dsimp only
    | (with_reducible first | apply keeps_mk | apply keeps_audit | apply keeps_fabric)
    | (with_reducible apply runAt_of)

theorem writeTiles_keeps (x1 : Env) (x2 : Who) (x3 : TileLoc) (x4 : List TileImg) (x5 : Bool) : RunKeeps (writeTiles x1
    x2 x3 x4 x5) := by
  unfold writeTiles
  repeat' first
    | (with_reducible first | assumption | intro _ | apply getS_keeps | apply modS_keeps | apply
                            stopMem_keeps | apply keeps_ite | apply keeps_foldl | apply keeps_ite_fst | apply
                            keeps_foldl_fst | apply keeps_foldl_snd | apply runKeeps_pure | apply runKeeps_getS | apply
                            runKeeps_bind | apply runKeeps_ite | apply runKeeps_foldlM | apply runAt_set | apply
                            runAt_set_end | apply runAt_ite)
    | (with_reducible refine storeTile_keeps ?_ (by with_reducible assumption))
    | extract_lets
    | split
    | dsimp only
    | (with_reducible first | apply keeps_mk | apply keeps_audit | apply keeps_fabric)
    | (with_reducible apply runAt_of)

theorem putBack_keeps {b : Bool} {s0 s : State} (x1 : List (Nat × Nat × Bytes)) (h : Keeps b s0 s) :
    Keeps b s0 (putBack x1 s) := by
  induction x1 generalizing s  with
  | nil => exact h
  | cons p t ih =>
    unfold putBack
    repeat' first
      | (with_reducible first | assumption | intro _ | apply keeps_ite | apply keeps_foldl | apply ih)
      | (with_reducible refine writeVa_keeps ?_ (by with_reducible assumption))
      | split
      | dsimp only
      | (with_reducible first | apply keeps_mk | apply keeps_audit | apply keeps_fabric)

theorem tableData_keeps (x1 : Env) (x2 : Who) (x3 : Nat) (x4 : Nat) (x5 : Tensor) (x6 : Nat) : RunKeeps (tableData x1 x2
    x3 x4 x5 x6) := by
  unfold tableData
  repeat' first
    | (with_reducible first | assumption | intro _ | apply readTile_keeps | apply keeps_ite | apply
                            keeps_foldl | apply runKeeps_pure | apply runKeeps_getS | apply runKeeps_bind | apply
                            runKeeps_ite | apply runKeeps_foldlM | apply runAt_set | apply runAt_set_end | apply runAt_ite)
    | extract_lets
    | split
    | dsimp only
    | (with_reducible first | apply keeps_mk | apply keeps_audit | apply keeps_fabric)
    | (with_reducible apply runAt_of)

theorem editTile_keeps (x1 : Env) (x2 : Who) (x3 : Nat) (x4 : Nat) (x5 : Tensor) (x6 : Nat) (x7 : Bytes → Bytes) :
    RunKeeps (editTile x1 x2 x3 x4 x5 x6 x7) := by
  unfold editTile
  repeat' first
    | (with_reducible first | assumption | intro _ | apply readTile_keeps | apply getS_keeps | apply
                            modS_keeps | apply stopMem_keeps | apply keeps_ite | apply keeps_foldl | apply runKeeps_pure |
                            apply runKeeps_getS | apply runKeeps_bind | apply runKeeps_ite | apply runKeeps_foldlM | apply
                            runAt_set | apply runAt_set_end | apply runAt_ite)
    | (with_reducible refine storeTile_keeps ?_ (by with_reducible assumption))
    | extract_lets
    | split
    | dsimp only
    | (with_reducible first | apply keeps_mk | apply keeps_audit | apply keeps_fabric)
    | (with_reducible apply runAt_of)

theorem readEntry_keeps (x1 : Env) (x2 : Who) (x3 : Nat) (x4 : Nat) (x5 : Tensor) (x6 : Nat) : RunKeeps (readEntry x1 x2
    x3 x4 x5 x6) := by
  unfold readEntry
  repeat' first
    | (with_reducible first | assumption | intro _ | apply tableData_keeps | apply keeps_ite | apply
                            keeps_foldl | apply runKeeps_pure | apply runKeeps_getS | apply runKeeps_bind | apply
                            runKeeps_ite | apply runKeeps_foldlM | apply runAt_set | apply runAt_set_end | apply runAt_ite)
    | extract_lets
    | split
    | dsimp only
    | (with_reducible first | apply keeps_mk | apply keeps_audit | apply keeps_fabric)
    | (with_reducible apply runAt_of)

theorem readTables_keeps (x1 : Who) (x2 : Nat) (x3 : Nat) (x4 : List Nat) (x5 : Option Nat) : RunKeeps (readTables x1 x2
    x3 x4 x5) := by
  unfold readTables
  repeat' first
    | (with_reducible first | assumption | intro _ | apply getS_keeps | apply readTile_keeps | apply
                            keeps_ite | apply keeps_foldl | apply keeps_ite_fst | apply keeps_foldl_fst | apply
                            keeps_foldl_snd | apply runKeeps_pure | apply runKeeps_getS | apply runKeeps_bind | apply
                            runKeeps_ite | apply runKeeps_foldlM | apply runAt_set | apply runAt_set_end | apply runAt_ite)
    | extract_lets
    | split
    | dsimp only
    | (with_reducible first | apply keeps_mk | apply keeps_audit | apply keeps_fabric)
    | (with_reducible apply runAt_of)

/-! ### Machine/Complete.lean -/

theorem State_setTask_keeps {b : Bool} {s0 s : State} (x2 : Task) (h : Keeps b s0 s) :
    Keeps b s0 (State.setTask s x2) := by
  unfold State.setTask
  repeat' first
    | (with_reducible first | assumption | intro _ | apply State_setCtx_keeps | apply keeps_ite | apply keeps_foldl)
    | split
    | dsimp only
    | (with_reducible first | apply keeps_mk | apply keeps_audit | apply keeps_fabric)

theorem setNumcStatus_keeps {b : Bool} {s0 s : State} (x1 : Nat) (x2 : Nat) (x3 : Bool) (h : Keeps b s0 s) :
    Keeps b s0 (setNumcStatus x1 x2 x3 s) := by
  unfold setNumcStatus
  repeat' first
    | (with_reducible first | assumption | intro _ | apply State_setRegBit_keeps | apply keeps_ite | apply keeps_foldl)
    | split
    | dsimp only
    | (with_reducible first | apply keeps_mk | apply keeps_audit | apply keeps_fabric)

theorem ledgerLose_keeps {b : Bool} {s0 s : State} (x1 : Nat) (h : Keeps b s0 s) :
    Keeps b s0 (ledgerLose x1 s) := by
  unfold ledgerLose
  repeat' first
    | (with_reducible first | assumption | intro _ | apply count_keeps | apply setNumcStatus_keeps |
                            apply State_setCtx_keeps | apply keeps_ite | apply keeps_foldl)
    | split
    | dsimp only
    | (with_reducible first | apply keeps_mk | apply keeps_audit | apply keeps_fabric)

theorem ledgerWrite_keeps {b : Bool} {s0 s : State} (x1 : Nat) (x2 : Nat) (x3 : Nat) (x4 : Nat) (x5 : Dword) (x6 :
    Bytes) (x7 : Nat) (h : Keeps b s0 s) :
    Keeps b s0 (ledgerWrite x1 x2 x3 x4 x5 x6 x7 s) := by
  unfold ledgerWrite
  repeat' first
    | (with_reducible first | assumption | intro _ | apply ledgerLose_keeps | apply
                            State_setCtx_keeps | apply State_setReg_keeps | apply keeps_ite | apply keeps_foldl)
    | (with_reducible refine writeVa_keeps ?_ (by with_reducible assumption))
    | split
    | dsimp only
    | (with_reducible first | apply keeps_mk | apply keeps_audit | apply keeps_fabric)

theorem ledgerPut_keeps {b : Bool} {s0 s : State} (x1 : Nat) (x2 : Nat) (x3 : Nat) (x4 : Nat) (x5 : Dword) (x6 : Bytes)
    (x7 : Nat) (h : Keeps b s0 s) :
    Keeps b s0 (ledgerPut x1 x2 x3 x4 x5 x6 x7 s).1 := by
  unfold ledgerPut
  repeat' first
    | (with_reducible first | assumption | intro _ | apply ledgerLose_keeps | apply
                            ledgerWrite_keeps | apply setNumcStatus_keeps | apply State_setCtx_keeps | apply keeps_ite |
                            apply keeps_foldl | apply keeps_ite_fst | apply keeps_foldl_fst | apply keeps_foldl_snd)
    | split
    | dsimp only
    | (with_reducible first | apply keeps_mk | apply keeps_audit | apply keeps_fabric)

theorem ledgerTask_keeps {b : Bool} {s0 s : State} (x1 : Task) (x2 : Byte) (x3 : Word) (h : Keeps b s0 s) :
    Keeps b s0 (ledgerTask x1 x2 x3 s).1 := by
  unfold ledgerTask
  repeat' first
    | (with_reducible first | assumption | intro _ | apply ledgerPut_keeps | apply keeps_ite | apply
                            keeps_foldl | apply keeps_ite_fst | apply keeps_foldl_fst | apply keeps_foldl_snd)
    | (with_reducible refine keeps_fst (by with_reducible assumption) ?_)
    | split
    | dsimp only
    | (with_reducible first | apply keeps_mk | apply keeps_audit | apply keeps_fabric)

theorem markSuperseded_keeps {b : Bool} {s0 s : State} (x1 : Task) (h : Keeps b s0 s) :
    Keeps b s0 (markSuperseded x1 s) := by
  unfold markSuperseded
  repeat' first
    | (with_reducible first | assumption | intro _ | apply keeps_ite | apply keeps_foldl)
    | (with_reducible refine writeVa_keeps ?_ (by with_reducible assumption))
    | split
    | dsimp only
    | (with_reducible first | apply keeps_mk | apply keeps_audit | apply keeps_fabric)

theorem settleVers_keeps {b : Bool} {s0 s : State} (x1 : Nat) (h : Keeps b s0 s) :
    Keeps b s0 (settleVers x1 s) := by
  unfold settleVers
  repeat' first
    | (with_reducible first | assumption | intro _ | apply State_setCtx_keeps | apply keeps_ite |
                            apply keeps_foldl | apply keeps_ite_fst | apply keeps_foldl_fst | apply keeps_foldl_snd)
    | split
    | dsimp only
    | (with_reducible first | apply keeps_mk | apply keeps_audit | apply keeps_fabric)

theorem putTaskRecord_keeps {b : Bool} {s0 s : State} (x1 : Nat) (x2 : Nat) (x3 : Nat) (x4 : CRec) (h : Keeps b s0 s) :
    Keeps b s0 (putTaskRecord x1 x2 x3 x4 s) := by
  unfold putTaskRecord
  repeat' first
    | (with_reducible first | assumption | intro _ | apply putCompletion_keeps | apply keeps_ite | apply keeps_foldl)
    | split
    | dsimp only
    | (with_reducible first | apply keeps_mk | apply keeps_audit | apply keeps_fabric)

theorem closeSegment_keeps {b : Bool} {s0 s : State} (x1 : Nat) (x2 : Segment) (h : Keeps b s0 s) :
    Keeps b s0 (closeSegment x1 x2 s) := by
  unfold closeSegment
  repeat' first
    | (with_reducible first | assumption | intro _ | apply segmentRecord_keeps | apply
                            State_setCtx_keeps | apply keeps_ite | apply keeps_foldl)
    | split
    | dsimp only
    | (with_reducible first | apply keeps_mk | apply keeps_audit | apply keeps_fabric)

theorem prune_keeps {b : Bool} {s0 s : State} (x1 : Nat) (h : Keeps b s0 s) :
    Keeps b s0 (prune x1 s) := by
  unfold prune
  repeat' first
    | (with_reducible first | assumption | intro _ | apply State_setCtx_keeps | apply keeps_ite | apply keeps_foldl)
    | split
    | dsimp only
    | (with_reducible first | apply keeps_mk | apply keeps_audit | apply keeps_fabric)

theorem closeSegments_keeps {b : Bool} {s0 s : State} (x1 : Nat) (h : Keeps b s0 s) :
    Keeps b s0 (closeSegments x1 s) := by
  unfold closeSegments
  repeat' first
    | (with_reducible first | assumption | intro _ | apply prune_keeps | apply settleVers_keeps |
                            apply closeSegment_keeps | apply keeps_ite | apply keeps_foldl | apply keeps_ite_fst | apply
                            keeps_foldl_fst | apply keeps_foldl_snd)
    | split
    | dsimp only
    | (with_reducible first | apply keeps_mk | apply keeps_audit | apply keeps_fabric)

theorem settleOutcome_keeps {b : Bool} {s0 s : State} (x1 : Nat) (x2 : Group) (x3 : List Task) (h : Keeps b s0 s) :
    Keeps b s0 (settleOutcome x1 x2 x3 s).1 := by
  unfold settleOutcome
  repeat' first
    | (with_reducible first | assumption | intro _ | apply raiseWho_keeps | apply count_keeps |
                            apply keeps_ite | apply keeps_foldl | apply keeps_ite_fst | apply keeps_foldl_fst | apply
                            keeps_foldl_snd)
    | split
    | dsimp only
    | (with_reducible first | apply keeps_mk | apply keeps_audit | apply keeps_fabric)

theorem releaseHeld_keeps {b : Bool} {s0 s : State} (x1 : Nat) (x2 : Nat) (x3 : Nat) (x4 : List Task) (h : Keeps b s0 s) :
    Keeps b s0 (releaseHeld x1 x2 x3 x4 s) := by
  induction x3 generalizing s x1 x2 x4 with
  | zero => exact h
  | succ n ih =>
    unfold releaseHeld
    repeat' first
      | (with_reducible first | assumption | intro _ | apply putTaskRecord_keeps | apply keeps_ite |
                              apply keeps_foldl | apply keeps_ite_fst | apply keeps_foldl_fst | apply keeps_foldl_snd |
                              apply ih)
      | split
      | dsimp only
      | (with_reducible first | apply keeps_mk | apply keeps_audit | apply keeps_fabric)

theorem dropRepeat_keeps {b : Bool} {s0 s : State} (x1 : Nat) (x2 : Group) (h : Keeps b s0 s) :
    Keeps b s0 (dropRepeat x1 x2 s) := by
  unfold dropRepeat
  repeat' first
    | (with_reducible first | assumption | intro _ | apply State_setCtx_keeps | apply keeps_ite |
                            apply keeps_foldl | apply keeps_ite_fst | apply keeps_foldl_fst | apply keeps_foldl_snd)
    | split
    | dsimp only
    | (with_reducible first | apply keeps_mk | apply keeps_audit | apply keeps_fabric)

theorem settleGroup_keeps {b : Bool} {s0 s : State} (x1 : Nat) (x2 : Group) (h : Keeps b s0 s) :
    Keeps b s0 (settleGroup x1 x2 s) := by
  unfold settleGroup
  repeat' first
    | (with_reducible first | assumption | intro _ | apply settleOutcome_keeps | apply
                            releaseHeld_keeps | apply State_setCtx_keeps | apply keeps_ite | apply keeps_foldl)
    | (with_reducible refine keeps_fst (by with_reducible assumption) ?_)
    | split
    | dsimp only
    | (with_reducible first | apply keeps_mk | apply keeps_audit | apply keeps_fabric)

theorem freeCluster_keeps {b : Bool} {s0 s : State} (x1 : Task) (h : Keeps b s0 s) :
    Keeps b s0 (freeCluster x1 s) := by
  unfold freeCluster
  repeat' first
    | (with_reducible first | assumption | intro _ | apply State_setClus_keeps | apply keeps_ite | apply keeps_foldl)
    | split
    | dsimp only
    | (with_reducible first | apply keeps_mk | apply keeps_audit | apply keeps_fabric)

theorem completeWith_keeps {b : Bool} {s0 s : State} (x1 : Task) (x2 : Byte) (x3 : BitVec 16) (x4 : Word) (x5 : Bool) (h
    : Keeps b s0 s) :
    Keeps b s0 (completeWith x1 x2 x3 x4 x5 s) := by
  unfold completeWith
  repeat' first
    | (with_reducible first | assumption | intro _ | apply ledgerTask_keeps | apply
                            freeCluster_keeps | apply State_setCtx_keeps | apply putTaskRecord_keeps | apply keeps_ite |
                            apply keeps_foldl)
    | (with_reducible refine keeps_fst (by with_reducible assumption) ?_)
    | split
    | dsimp only
    | (with_reducible first | apply keeps_mk | apply keeps_audit | apply keeps_fabric)

theorem afterComplete_keeps {b : Bool} {s0 s : State} (x1 : Task) (h : Keeps b s0 s) :
    Keeps b s0 (afterComplete x1 s) := by
  unfold afterComplete
  repeat' first
    | (with_reducible first | assumption | intro _ | apply dropRepeat_keeps | apply
                            settleGroup_keeps | apply closeSegments_keeps | apply keeps_ite | apply keeps_foldl)
    | split
    | dsimp only
    | (with_reducible first | apply keeps_mk | apply keeps_audit | apply keeps_fabric)

theorem endTask_keeps {b : Bool} {s0 s : State} (x1 : Task) (x2 : Byte) (x3 : BitVec 16) (h : Keeps b s0 s) :
    Keeps b s0 (endTask x1 x2 x3 s) := by
  unfold endTask
  repeat' first
    | (with_reducible first | assumption | intro _ | apply afterComplete_keeps | apply
                            completeWith_keeps | apply keeps_ite | apply keeps_foldl)
    | split
    | dsimp only
    | (with_reducible first | apply keeps_mk | apply keeps_audit | apply keeps_fabric)

theorem endTaskNow_keeps {b : Bool} {s0 s : State} (x1 : Task) (x2 : Byte) (x3 : BitVec 16) (h : Keeps b s0 s) :
    Keeps b s0 (endTaskNow x1 x2 x3 s) := by
  unfold endTaskNow
  repeat' first
    | (with_reducible first | assumption | intro _ | apply putTaskRecord_keeps | apply
                            State_setTask_keeps | apply completeWith_keeps | apply keeps_ite | apply keeps_foldl)
    | split
    | dsimp only
    | (with_reducible first | apply keeps_mk | apply keeps_audit | apply keeps_fabric)

theorem endTasks_keeps {b : Bool} {s0 s : State} (x1 : Nat) (x2 : Task → Bool) (x3 : Byte) (x4 : BitVec 16) (h : Keeps b s0 s) :
    Keeps b s0 (endTasks x1 x2 x3 x4 s) := by
  unfold endTasks
  repeat' first
    | (with_reducible first | assumption | intro _ | apply endTaskNow_keeps | apply
                            closeSegments_keeps | apply State_setCtx_keeps | apply keeps_ite | apply keeps_foldl | apply
                            keeps_ite_fst | apply keeps_foldl_fst | apply keeps_foldl_snd)
    | split
    | dsimp only
    | (with_reducible first | apply keeps_mk | apply keeps_audit | apply keeps_fabric)

theorem reportTrips_keeps {b : Bool} {s0 s : State} (x1 : Task) (h : Keeps b s0 s) :
    Keeps b s0 (reportTrips x1 s) := by
  unfold reportTrips
  repeat' first
    | (with_reducible first | assumption | intro _ | apply raiseWho_keeps | apply keeps_ite | apply keeps_foldl)
    | split
    | dsimp only
    | (with_reducible first | apply keeps_mk | apply keeps_audit | apply keeps_fabric)

theorem startRepeat_keeps {b : Bool} {s0 s : State} (x1 : Task) (x2 : Group) (x3 : Nat) (h : Keeps b s0 s) :
    Keeps b s0 (startRepeat x1 x2 x3 s) := by
  unfold startRepeat
  repeat' first
    | (with_reducible first | assumption | intro _ | apply raiseWho_keeps | apply count_keeps |
                            apply State_setCtx_keeps | apply keeps_ite | apply keeps_foldl)
    | split
    | dsimp only
    | (with_reducible first | apply keeps_mk | apply keeps_audit | apply keeps_fabric)

theorem groupTrip_keeps {b : Bool} {s0 s : State} (x1 : Task) (x2 : Group) (h : Keeps b s0 s) :
    Keeps b s0 (groupTrip x1 x2 s).1 := by
  unfold groupTrip
  repeat' first
    | (with_reducible first | assumption | intro _ | apply State_setCtx_keeps | apply
                            startRepeat_keeps | apply keeps_ite | apply keeps_foldl | apply keeps_ite_fst | apply
                            keeps_foldl_fst | apply keeps_foldl_snd)
    | split
    | dsimp only
    | (with_reducible first | apply keeps_mk | apply keeps_audit | apply keeps_fabric)

theorem finishRun_keeps {b : Bool} {s0 s : State} (x1 : Task) (x2 : Word) (h : Keeps b s0 s) :
    Keeps b s0 (finishRun x1 x2 s) := by
  unfold finishRun
  repeat' first
    | (with_reducible first | assumption | intro _ | apply reportTrips_keeps | apply
                            State_setTask_keeps | apply afterComplete_keeps | apply completeWith_keeps | apply
                            groupTrip_keeps | apply keeps_ite | apply keeps_foldl)
    | (with_reducible refine keeps_fst (by with_reducible assumption) ?_)
    | split
    | dsimp only
    | (with_reducible first | apply keeps_mk | apply keeps_audit | apply keeps_fabric)

/-! ### Machine/FabricCore.lean -/

theorem discardAt_keeps {b : Bool} {s0 s : State} (x1 : Nat) (x2 : Nat) (x3 : Option Packet) (h : Keeps b s0 s) :
    Keeps b s0 (discardAt x1 x2 x3 s) := by
  unfold discardAt
  repeat' first
    | (with_reducible first | assumption | intro _ | apply count_keeps | apply raiseDev_keeps |
                            apply keeps_ite | apply keeps_foldl)
    | split
    | dsimp only
    | (with_reducible first | apply keeps_mk | apply keeps_audit | apply keeps_fabric)

theorem dropAt_keeps {b : Bool} {s0 s : State} (x1 : Nat) (x2 : Nat) (x3 : Packet) (x4 : Bool) (h : Keeps b s0 s) :
    Keeps b s0 (dropAt x1 x2 x3 x4 s) := by
  unfold dropAt
  repeat' first
    | (with_reducible first | assumption | intro _ | apply discardAt_keeps | apply keeps_ite | apply keeps_foldl)
    | split
    | dsimp only
    | (with_reducible first | apply keeps_mk | apply keeps_audit | apply keeps_fabric)

theorem enqueue_keeps {b : Bool} {s0 s : State} (x1 : Nat) (x2 : Queued) (h : Keeps b s0 s) :
    Keeps b s0 (enqueue x1 x2 s) := by
  unfold enqueue
  repeat' first
    | (with_reducible first | assumption | intro _ | apply State_setPort_keeps | apply dropAt_keeps
                            | apply keeps_ite | apply keeps_foldl)
    | split
    | dsimp only
    | (with_reducible first | apply keeps_mk | apply keeps_audit | apply keeps_fabric)

theorem deliverPacket_keeps {b : Bool} {s0 s : State} (x1 : Nat) (x2 : Packet) (h : Keeps b s0 s) :
    Keeps b s0 (deliverPacket x1 x2 s) := by
  unfold deliverPacket
  repeat' first
    | (with_reducible first | assumption | intro _ | apply discardAt_keeps | apply keeps_ite | apply keeps_foldl)
    | split
    | dsimp only
    | (with_reducible first | apply keeps_mk | apply keeps_audit | apply keeps_fabric)

theorem torusSend_keeps {b : Bool} {s0 s : State} (x1 : Nat) (x2 : Option Nat) (x3 : Packet) (x4 : Nat) (x5 : Bool) (h :
    Keeps b s0 s) :
    Keeps b s0 (torusSend x1 x2 x3 x4 x5 s) := by
  unfold torusSend
  repeat' first
    | (with_reducible first | assumption | intro _ | apply dropAt_keeps | apply count_keeps | apply
                            enqueue_keeps | apply keeps_ite | apply keeps_foldl)
    | split
    | dsimp only
    | (with_reducible first | apply keeps_mk | apply keeps_audit | apply keeps_fabric)

theorem uplinkSend_keeps {b : Bool} {s0 s : State} (x1 : Nat) (x2 : Packet) (x3 : Nat) (x4 : Bool) (h : Keeps b s0 s) :
    Keeps b s0 (uplinkSend x1 x2 x3 x4 s) := by
  unfold uplinkSend
  repeat' first
    | (with_reducible first | assumption | intro _ | apply dropAt_keeps | apply enqueue_keeps |
                            apply keeps_ite | apply keeps_foldl)
    | split
    | dsimp only
    | (with_reducible first | apply keeps_mk | apply keeps_audit | apply keeps_fabric)

theorem mcForward_keeps {b : Bool} {s0 s : State} (x1 : Packet) (x2 : Nat) (x3 : Bool) (x4 : Bool) (h : Keeps b s0 s) :
    Keeps b s0 (mcForward x1 x2 x3 x4 s) := by
  unfold mcForward
  repeat' first
    | (with_reducible first | assumption | intro _ | apply enqueue_keeps | apply keeps_ite | apply keeps_foldl)
    | split
    | dsimp only
    | (with_reducible first | apply keeps_mk | apply keeps_audit | apply keeps_fabric)

theorem hopPacket_keeps {b : Bool} {s0 s : State} (x1 : Option Nat) (x2 : Packet) (x3 : Bool) (h : Keeps b s0 s) :
    Keeps b s0 (hopPacket x1 x2 x3 s) := by
  unfold hopPacket
  repeat' first
    | (with_reducible first | assumption | intro _ | apply deliverPacket_keeps | apply dropAt_keeps
                            | apply uplinkSend_keeps | apply enqueue_keeps | apply mcForward_keeps | apply torusSend_keeps |
                            apply keeps_ite | apply keeps_foldl)
    | split
    | dsimp only
    | (with_reducible first | apply keeps_mk | apply keeps_audit | apply keeps_fabric)

theorem takeSeq_keeps {b : Bool} {s0 s : State} (x1 : BitVec 16) (x2 : BitVec 21) (x3 : BitVec 21) (x4 : BitVec 2) (h :
    Keeps b s0 s) :
    Keeps b s0 (takeSeq x1 x2 x3 x4 s).1 := by
  unfold takeSeq
  repeat' first
    | (with_reducible first | assumption | intro _ | apply keeps_ite | apply keeps_foldl | apply
                            keeps_ite_fst | apply keeps_foldl_fst | apply keeps_foldl_snd)
    | split
    | dsimp only
    | (with_reducible first | apply keeps_mk | apply keeps_audit | apply keeps_fabric)

theorem launch_keeps {b : Bool} {s0 s : State} (x1 : Packet) (h : Keeps b s0 s) :
    Keeps b s0 (launch x1 s) := by
  unfold launch
  repeat' first
    | (with_reducible first | assumption | intro _ | apply hopPacket_keeps | apply keeps_ite | apply keeps_foldl)
    | split
    | dsimp only
    | (with_reducible first | apply keeps_mk | apply keeps_audit | apply keeps_fabric)

theorem inject_keeps {b : Bool} {s0 s : State} (x1 : Packet) (h : Keeps b s0 s) :
    Keeps b s0 (inject x1 s).1 := by
  unfold inject
  repeat' first
    | (with_reducible first | assumption | intro _ | apply takeSeq_keeps | apply launch_keeps |
                            apply keeps_ite | apply keeps_foldl | apply keeps_ite_fst | apply keeps_foldl_fst | apply
                            keeps_foldl_snd)
    | (with_reducible refine keeps_fst (by with_reducible assumption) ?_)
    | split
    | dsimp only
    | (with_reducible first | apply keeps_mk | apply keeps_audit | apply keeps_fabric)

theorem seqCheck_keeps {b : Bool} {s0 s : State} (x1 : Packet) (h : Keeps b s0 s) :
    Keeps b s0 (seqCheck x1 s).1 := by
  unfold seqCheck
  repeat' first
    | (with_reducible first | assumption | intro _ | apply count_keeps | apply keeps_ite | apply
                            keeps_foldl | apply keeps_ite_fst | apply keeps_foldl_fst | apply keeps_foldl_snd)
    | split
    | dsimp only
    | (with_reducible first | apply keeps_mk | apply keeps_audit | apply keeps_fabric)

theorem seqNote_keeps {b : Bool} {s0 s : State} (x1 : Nat) (x2 : Packet) (h : Keeps b s0 s) :
    Keeps b s0 (seqNote x1 x2 s).1 := by
  unfold seqNote
  repeat' first
    | (with_reducible first | assumption | intro _ | apply seqCheck_keeps | apply discardAt_keeps |
                            apply keeps_ite | apply keeps_foldl | apply keeps_ite_fst | apply keeps_foldl_fst | apply
                            keeps_foldl_snd)
    | (with_reducible refine keeps_fst (by with_reducible assumption) ?_)
    | split
    | dsimp only
    | (with_reducible first | apply keeps_mk | apply keeps_audit | apply keeps_fabric)

theorem startOp_keeps {b : Bool} {s0 s : State} (x1 : Nat) (x2 : Option TaskRef) (x3 : Nat) (x4 : List Packet) (h :
    Keeps b s0 s) :
    Keeps b s0 (startOp x1 x2 x3 x4 s) := by
  unfold startOp
  repeat' first
    | (with_reducible first | assumption | intro _ | apply inject_keeps | apply keeps_ite | apply
                            keeps_foldl | apply keeps_ite_fst | apply keeps_foldl_fst | apply keeps_foldl_snd)
    | (with_reducible refine keeps_fst (by with_reducible assumption) ?_)
    | split
    | dsimp only
    | (with_reducible first | apply keeps_mk | apply keeps_audit | apply keeps_fabric)

theorem failOps_keeps {b : Bool} {s0 s : State} (x1 : Nat) (x2 : Byte) (h : Keeps b s0 s) :
    Keeps b s0 (failOps x1 x2 s) := by
  unfold failOps
  repeat' first
    | (with_reducible first | assumption | intro _ | apply keeps_ite | apply keeps_foldl)
    | split
    | dsimp only
    | (with_reducible first | apply keeps_mk | apply keeps_audit | apply keeps_fabric)

/-! ### Machine/StepTables.lean -/

theorem workTable_keeps (x1 : Env) (x2 : Who) (x3 : TaskRef) (x4 : Nat) : RunKeeps (workTable x1 x2 x3 x4) := by
  unfold workTable
  repeat' first
    | (with_reducible first | assumption | intro _ | apply getS_keeps | apply readTile_keeps | apply
                            writeTiles_keeps | apply modS_keeps | apply State_setCtx_keeps | apply keeps_ite | apply
                            keeps_foldl | apply keeps_ite_fst | apply keeps_foldl_fst | apply keeps_foldl_snd | apply
                            runKeeps_pure | apply runKeeps_getS | apply runKeeps_bind | apply runKeeps_ite | apply
                            runKeeps_foldlM | apply runAt_set | apply runAt_set_end | apply runAt_ite)
    | extract_lets
    | split
    | dsimp only
    | (with_reducible first | apply keeps_mk | apply keeps_audit | apply keeps_fabric)
    | (with_reducible apply runAt_of)

theorem foldSlots_keeps (x1 : Env) (x2 : Who) (x3 : TaskRef) (x4 : NMap (List SlotUse)) : RunKeeps (foldSlots x1 x2 x3 x4) := by
  unfold foldSlots
  repeat' first
    | (with_reducible first | assumption | intro _ | apply getS_keeps | apply workTable_keeps |
                            apply editTile_keeps | apply keeps_ite | apply keeps_foldl | apply keeps_ite_fst | apply
                            keeps_foldl_fst | apply keeps_foldl_snd | apply runKeeps_pure | apply runKeeps_getS | apply
                            runKeeps_bind | apply runKeeps_ite | apply runKeeps_foldlM | apply runAt_set | apply
                            runAt_set_end | apply runAt_ite)
    | extract_lets
    | split
    | dsimp only
    | (with_reducible first | apply keeps_mk | apply keeps_audit | apply keeps_fabric)
    | (with_reducible apply runAt_of)

theorem watchEvents_keeps {b : Bool} {s0 s : State} (x1 : Nat) (x2 : LayerUse) (x3 : Bytes) (x4 : Nat) (h : Keeps b s0 s) :
    Keeps b s0 (watchEvents x1 x2 x3 x4 s) := by
  unfold watchEvents
  repeat' first
    | (with_reducible first | assumption | intro _ | apply raiseWho_keeps | apply keeps_ite | apply keeps_foldl)
    | split
    | dsimp only
    | (with_reducible first | apply keeps_mk | apply keeps_audit | apply keeps_fabric)

theorem layerStep_keeps (x1 : Env) (x2 : Who) (x3 : TaskRef) (x4 : Dword) (x5 : Nat) : RunKeeps (layerStep x1 x2 x3 x4 x5) := by
  unfold layerStep
  repeat' first
    | (with_reducible first | assumption | intro _ | apply getS_keeps | apply workTable_keeps |
                            apply modS_keeps | apply setNumcStatus_keeps | apply readTile_keeps | apply editTile_keeps |
                            apply watchEvents_keeps | apply keeps_ite | apply keeps_foldl | apply runKeeps_pure | apply
                            runKeeps_getS | apply runKeeps_bind | apply runKeeps_ite | apply runKeeps_foldlM | apply
                            runAt_set | apply runAt_set_end | apply runAt_ite)
    | extract_lets
    | split
    | dsimp only
    | (with_reducible first | apply keeps_mk | apply keeps_audit | apply keeps_fabric)
    | (with_reducible apply runAt_of)

theorem writeStreams_keeps (x1 : Env) (x2 : Who) (x3 : TaskRef) (x4 : Dword) : RunKeeps (writeStreams x1 x2 x3 x4) := by
  unfold writeStreams
  repeat' first
    | (with_reducible first | assumption | intro _ | apply getS_keeps | apply workTable_keeps |
                            apply editTile_keeps | apply keeps_ite | apply keeps_foldl | apply keeps_ite_fst | apply
                            keeps_foldl_fst | apply keeps_foldl_snd | apply runKeeps_pure | apply runKeeps_getS | apply
                            runKeeps_bind | apply runKeeps_ite | apply runKeeps_foldlM | apply runAt_set | apply
                            runAt_set_end | apply runAt_ite)
    | extract_lets
    | split
    | dsimp only
    | (with_reducible first | apply keeps_mk | apply keeps_audit | apply keeps_fabric)
    | (with_reducible apply runAt_of)

theorem setDigest_keeps {b : Bool} {s0 s : State} (x1 : Nat) (x2 : BitVec 128) (h : Keeps b s0 s) :
    Keeps b s0 (setDigest x1 x2 s) := by
  unfold setDigest
  repeat' first
    | (with_reducible first | assumption | intro _ | apply State_setReg64_keeps | apply keeps_ite | apply keeps_foldl)
    | split
    | dsimp only
    | (with_reducible first | apply keeps_mk | apply keeps_audit | apply keeps_fabric)

theorem areaWrite_keeps {b : Bool} {s0 s : State} (x1 : Nat) (x2 : Nat) (x3 : Bytes) (h : Keeps b s0 s) :
    Keeps b s0 (areaWrite x1 x2 x3 s).1 := by
  unfold areaWrite
  repeat' first
    | (with_reducible first | assumption | intro _ | apply keeps_ite | apply keeps_foldl | apply
                            keeps_ite_fst | apply keeps_foldl_fst | apply keeps_foldl_snd)
    | (with_reducible refine writeVa_keeps ?_ (by with_reducible assumption))
    | split
    | dsimp only
    | (with_reducible first | apply keeps_mk | apply keeps_audit | apply keeps_fabric)

theorem areaWriteLate_keeps {b : Bool} {s0 s : State} (x1 : Nat) (x2 : Nat) (x3 : Bytes) (h : Keeps b s0 s) :
    Keeps b s0 (areaWriteLate x1 x2 x3 s).1 := by
  unfold areaWriteLate
  repeat' first
    | (with_reducible first | assumption | intro _ | apply State_setCtx_keeps | apply keeps_ite |
                            apply keeps_foldl | apply keeps_ite_fst | apply keeps_foldl_fst | apply keeps_foldl_snd)
    | (with_reducible refine writeVa_keeps ?_ (by with_reducible assumption))
    | split
    | dsimp only
    | (with_reducible first | apply keeps_mk | apply keeps_audit | apply keeps_fabric)

theorem flushLate_keeps {b : Bool} {s0 s : State} (x1 : Nat) (h : Keeps b s0 s) :
    Keeps b s0 (flushLate x1 s) := by
  unfold flushLate
  repeat' first
    | (with_reducible first | assumption | intro _ | apply areaWriteLate_keeps | apply
                            State_setCtx_keeps | apply keeps_ite | apply keeps_foldl | apply keeps_ite_fst | apply
                            keeps_foldl_fst | apply keeps_foldl_snd)
    | (with_reducible refine keeps_fst (by with_reducible assumption) ?_)
    | split
    | dsimp only
    | (with_reducible first | apply keeps_mk | apply keeps_audit | apply keeps_fabric)

theorem writeMap_keeps {b : Bool} {s0 s : State} (x1 : Nat) (x2 : Bool) (x3 : NMap Bool) (h : Keeps b s0 s) :
    Keeps b s0 (writeMap x1 x2 x3 s).1 := by
  unfold writeMap
  repeat' first
    | (with_reducible first | assumption | intro _ | apply areaWrite_keeps | apply keeps_ite | apply
                            keeps_foldl | apply keeps_ite_fst | apply keeps_foldl_fst | apply keeps_foldl_snd)
    | (with_reducible refine keeps_fst (by with_reducible assumption) ?_)
    | split
    | dsimp only
    | (with_reducible first | apply keeps_mk | apply keeps_audit | apply keeps_fabric)

theorem writeWord_keeps {b : Bool} {s0 s : State} (x1 : Nat) (x2 : Nat) (x3 : Dword) (x4 : Bool) (x5 : Nat) (x6 : BitVec
    128) (h : Keeps b s0 s) :
    Keeps b s0 (writeWord x1 x2 x3 x4 x5 x6 s).1 := by
  unfold writeWord
  repeat' first
    | (with_reducible first | assumption | intro _ | apply areaWrite_keeps | apply keeps_ite | apply
                            keeps_foldl | apply keeps_ite_fst | apply keeps_foldl_fst | apply keeps_foldl_snd)
    | (with_reducible refine keeps_fst (by with_reducible assumption) ?_)
    | split
    | dsimp only
    | (with_reducible first | apply keeps_mk | apply keeps_audit | apply keeps_fabric)

theorem pipRecord_keeps {b : Bool} {s0 s : State} (x1 : Task) (x2 : Nat) (x3 : Nat) (x4 : Nat) (x5 : Nat) (x6 : Nat) (x7
    : Nat) (x8 : Nat) (x9 : Nat) (x10 : Nat) (h : Keeps b s0 s) :
    Keeps b s0 (pipRecord x1 x2 x3 x4 x5 x6 x7 x8 x9 x10 s) := by
  unfold pipRecord
  repeat' first
    | (with_reducible first | assumption | intro _ | apply ledgerPut_keeps | apply keeps_ite | apply keeps_foldl)
    | (with_reducible refine keeps_fst (by with_reducible assumption) ?_)
    | split
    | dsimp only
    | (with_reducible first | apply keeps_mk | apply keeps_audit | apply keeps_fabric)

theorem skipRecord_keeps {b : Bool} {s0 s : State} (x1 : Task) (x2 : Nat) (h : Keeps b s0 s) :
    Keeps b s0 (skipRecord x1 x2 s) := by
  unfold skipRecord
  repeat' first
    | (with_reducible first | assumption | intro _ | apply pipRecord_keeps | apply count_keeps |
                            apply keeps_ite | apply keeps_foldl)
    | split
    | dsimp only
    | (with_reducible first | apply keeps_mk | apply keeps_audit | apply keeps_fabric)

theorem skipPips_keeps {b : Bool} {s0 s : State} (x1 : Task) (h : Keeps b s0 s) :
    Keeps b s0 (skipPips x1 s) := by
  unfold skipPips
  repeat' first
    | (with_reducible first | assumption | intro _ | apply skipRecord_keeps | apply
                            State_setTask_keeps | apply keeps_ite | apply keeps_foldl | apply keeps_ite_fst | apply
                            keeps_foldl_fst | apply keeps_foldl_snd)
    | split
    | dsimp only
    | (with_reducible first | apply keeps_mk | apply keeps_audit | apply keeps_fabric)

theorem skipShort_keeps {b : Bool} {s0 s : State} (x1 : Task) (x2 : Nat) (h : Keeps b s0 s) :
    Keeps b s0 (skipShort x1 x2 s) := by
  unfold skipShort
  repeat' first
    | (with_reducible first | assumption | intro _ | apply skipRecord_keeps | apply
                            noteLimited_keeps | apply count_keeps | apply State_setTask_keeps | apply keeps_ite | apply
                            keeps_foldl)
    | split
    | dsimp only
    | (with_reducible first | apply keeps_mk | apply keeps_audit | apply keeps_fabric)

theorem skipStepPips_keeps {b : Bool} {s0 s : State} (x1 : Nat) (x2 : Dword) (h : Keeps b s0 s) :
    Keeps b s0 (skipStepPips x1 x2 s) := by
  unfold skipStepPips
  repeat' first
    | (with_reducible first | assumption | intro _ | apply skipPips_keeps | apply keeps_ite | apply
                            keeps_foldl | apply keeps_ite_fst | apply keeps_foldl_fst | apply keeps_foldl_snd)
    | split
    | dsimp only
    | (with_reducible first | apply keeps_mk | apply keeps_audit | apply keeps_fabric)

theorem writeTables_keeps (x1 : Env) (x2 : Who) (x3 : TaskRef) (x4 : Dword) : RunKeeps (writeTables x1 x2 x3 x4) := by
  unfold writeTables
  repeat' first
    | (with_reducible first | assumption | intro _ | apply getS_keeps | apply foldSlots_keeps |
                            apply layerStep_keeps | apply writeStreams_keeps | apply keeps_ite | apply keeps_foldl | apply
                            keeps_ite_fst | apply keeps_foldl_fst | apply keeps_foldl_snd | apply runKeeps_pure | apply
                            runKeeps_getS | apply runKeeps_bind | apply runKeeps_ite | apply runKeeps_foldlM | apply
                            runAt_set | apply runAt_set_end | apply runAt_ite)
    | extract_lets
    | split
    | dsimp only
    | (with_reducible first | apply keeps_mk | apply keeps_audit | apply keeps_fabric)
    | (with_reducible apply runAt_of)

theorem voteRecords_keeps {b : Bool} {s0 s : State} (x1 : Nat) (x2 : Dword) (x3 : List Bytes) (h : Keeps b s0 s) :
    Keeps b s0 (voteRecords x1 x2 x3 s) := by
  unfold voteRecords
  repeat' first
    | (with_reducible first | assumption | intro _ | apply ledgerPut_keeps | apply
                            State_setCtx_keeps | apply keeps_ite | apply keeps_foldl | apply keeps_ite_fst | apply
                            keeps_foldl_fst | apply keeps_foldl_snd)
    | (with_reducible refine keeps_fst (by with_reducible assumption) ?_)
    | split
    | dsimp only
    | (with_reducible first | apply keeps_mk | apply keeps_audit | apply keeps_fabric)

/-! ### Machine/Commit.lean -/

theorem cadRefresh_keeps {b : Bool} {s0 s : State} (h : Keeps b s0 s) :
    Keeps b s0 (cadRefresh s) := by
  unfold cadRefresh
  repeat' first
    | (with_reducible first | assumption | intro _ | apply State_setReg_keeps | apply keeps_ite | apply keeps_foldl)
    | split
    | dsimp only
    | (with_reducible first | apply keeps_mk | apply keeps_audit | apply keeps_fabric)

theorem sendVote_keeps {b : Bool} {s0 s : State} (x1 : Nat) (x2 : BitVec 21) (x3 : Word) (x4 : Dword) (x5 : Bool) (h :
    Keeps b s0 s) :
    Keeps b s0 (sendVote x1 x2 x3 x4 x5 s) := by
  unfold sendVote
  repeat' first
    | (with_reducible first | assumption | intro _ | apply violation_keeps | apply launch_keeps |
                            apply inject_keeps | apply keeps_ite | apply keeps_foldl)
    | (with_reducible refine keeps_fst (by with_reducible assumption) ?_)
    | split
    | dsimp only
    | (with_reducible first | apply keeps_mk | apply keeps_audit | apply keeps_fabric)

theorem stepRecord_keeps {b : Bool} {s0 s : State} (x1 : Nat) (x2 : Dword) (x3 : Dword) (x4 : Nat) (x5 : Prep) (x6 :
    Option Dword) (h : Keeps b s0 s) :
    Keeps b s0 (stepRecord x1 x2 x3 x4 x5 x6 s) := by
  unfold stepRecord
  repeat' first
    | (with_reducible first | assumption | intro _ | apply ledgerPut_keeps | apply keeps_ite | apply keeps_foldl)
    | (with_reducible refine keeps_fst (by with_reducible assumption) ?_)
    | split
    | dsimp only
    | (with_reducible first | apply keeps_mk | apply keeps_audit | apply keeps_fabric)

theorem endStepTask_keeps {b : Bool} {s0 s : State} (x1 : Nat) (x2 : Byte) (h : Keeps b s0 s) :
    Keeps b s0 (endStepTask x1 x2 s) := by
  unfold endStepTask
  repeat' first
    | (with_reducible first | assumption | intro _ | apply State_setCtx_keeps | apply
                            afterComplete_keeps | apply completeWith_keeps | apply keeps_ite | apply keeps_foldl)
    | split
    | dsimp only
    | (with_reducible first | apply keeps_mk | apply keeps_audit | apply keeps_fabric)

theorem settleStep_keeps {b : Bool} {s0 s : State} (x1 : Nat) (x2 : Dword) (x3 : Prep) (x4 : List Nat) (x5 : Nat) (x6 :
    BitVec 128) (h : Keeps b s0 s) :
    Keeps b s0 (settleStep x1 x2 x3 x4 x5 x6 s) := by
  unfold settleStep
  repeat' first
    | (with_reducible first | assumption | intro _ | apply areaWriteLate_keeps | apply
                            State_setCtx_keeps | apply State_setReg64_keeps | apply count_keeps | apply
                            State_setRegBit_keeps | apply keeps_ite | apply keeps_foldl)
    | (with_reducible refine keeps_fst (by with_reducible assumption) ?_)
    | split
    | dsimp only
    | (with_reducible first | apply keeps_mk | apply keeps_audit | apply keeps_fabric)

theorem commitStep_keeps {b : Bool} {s0 s : State} (x1 : Nat) (x2 : Dword) (h : Keeps b s0 s) :
    Keeps b s0 (commitStep x1 x2 s) := by
  unfold commitStep
  repeat' first
    | (with_reducible first | assumption | intro _ | apply settleStep_keeps | apply stepRecord_keeps
                            | apply State_setCtx_keeps | apply endStepTask_keeps | apply count_keeps | apply raiseCtx_keeps
                            | apply keeps_ite | apply keeps_foldl)
    | split
    | dsimp only
    | (with_reducible first | apply keeps_mk | apply keeps_audit | apply keeps_fabric)

theorem skipStep_keeps {b : Bool} {s0 s : State} (x1 : Nat) (x2 : Dword) (h : Keeps b s0 s) :
    Keeps b s0 (skipStep x1 x2 s) := by
  unfold skipStep
  repeat' first
    | (with_reducible first | assumption | intro _ | apply settleStep_keeps | apply stepRecord_keeps
                            | apply State_setCtx_keeps | apply raiseCtx_keeps | apply endStepTask_keeps | apply count_keeps
                            | apply keeps_ite | apply keeps_foldl)
    | split
    | dsimp only
    | (with_reducible first | apply keeps_mk | apply keeps_audit | apply keeps_fabric)

theorem abortStep_keeps {b : Bool} {s0 s : State} (x1 : Nat) (x2 : Dword) (h : Keeps b s0 s) :
    Keeps b s0 (abortStep x1 x2 s) := by
  unfold abortStep
  repeat' first
    | (with_reducible first | assumption | intro _ | apply endStepTask_keeps | apply
                            stepRecord_keeps | apply endTasks_keeps | apply skipStepPips_keeps | apply count_keeps | apply
                            failOps_keeps | apply State_setCtx_keeps | apply keeps_ite | apply keeps_foldl)
    | split
    | dsimp only
    | (with_reducible first | apply keeps_mk | apply keeps_audit | apply keeps_fabric)

theorem applyReduced_keeps {b : Bool} {s0 s : State} (x1 : Nat) (x2 : Dword) (h : Keeps b s0 s) :
    Keeps b s0 (applyReduced x1 x2 s) := by
  unfold applyReduced
  repeat' first
    | (with_reducible first | assumption | intro _ | apply State_setCtx_keeps | apply
                            State_setReg64_keeps | apply sendVote_keeps | apply commitStep_keeps | apply skipStep_keeps |
                            apply abortStep_keeps | apply keeps_ite | apply keeps_foldl | apply keeps_ite_fst | apply
                            keeps_foldl_fst | apply keeps_foldl_snd)
    | split
    | dsimp only
    | (with_reducible first | apply keeps_mk | apply keeps_audit | apply keeps_fabric)

theorem tryCombine_keeps {b : Bool} {s0 s : State} (x1 : Nat) (h : Keeps b s0 s) :
    Keeps b s0 (tryCombine x1 s) := by
  unfold tryCombine
  repeat' first
    | (with_reducible first | assumption | intro _ | apply applyReduced_keeps | apply sendVote_keeps
                            | apply keeps_ite | apply keeps_foldl)
    | split
    | dsimp only
    | (with_reducible first | apply keeps_mk | apply keeps_audit | apply keeps_fabric)

theorem noteOverrides_keeps {b : Bool} {s0 s : State} (x1 : Nat) (x2 : Dword) (h : Keeps b s0 s) :
    Keeps b s0 (noteOverrides x1 x2 s) := by
  unfold noteOverrides
  repeat' first
    | (with_reducible first | assumption | intro _ | apply State_setCtx_keeps | apply keeps_ite |
                            apply keeps_foldl | apply keeps_ite_fst | apply keeps_foldl_fst | apply keeps_foldl_snd)
    | split
    | dsimp only
    | (with_reducible first | apply keeps_mk | apply keeps_audit | apply keeps_fabric)

theorem castVote_keeps {b : Bool} {s0 s : State} (x1 : Nat) (x2 : Dword) (h : Keeps b s0 s) :
    Keeps b s0 (castVote x1 x2 s) := by
  unfold castVote
  repeat' first
    | (with_reducible first | assumption | intro _ | apply noteOverrides_keeps | apply
                            State_setReg64_keeps | apply tryCombine_keeps | apply State_setCtx_keeps | apply keeps_ite |
                            apply keeps_foldl)
    | split
    | dsimp only
    | (with_reducible first | apply keeps_mk | apply keeps_audit | apply keeps_fabric)

theorem forcedVote_keeps {b : Bool} {s0 s : State} (x1 : Nat) (x2 : Nat) (h : Keeps b s0 s) :
    Keeps b s0 (forcedVote x1 x2 s) := by
  unfold forcedVote
  repeat' first
    | (with_reducible first | assumption | intro _ | apply castVote_keeps | apply keeps_ite | apply keeps_foldl)
    | split
    | dsimp only
    | (with_reducible first | apply keeps_mk | apply keeps_audit | apply keeps_fabric)

theorem castLost_keeps {b : Bool} {s0 s : State} (x1 : Nat) (x2 : Nat) (h : Keeps b s0 s) :
    Keeps b s0 (castLost x1 x2 s) := by
  induction x1 generalizing s x2 with
  | zero => exact h
  | succ n ih =>
    unfold castLost
    repeat' first
      | (with_reducible first | assumption | intro _ | apply forcedVote_keeps | apply keeps_ite | apply keeps_foldl | apply ih)
      | split
      | dsimp only
      | (with_reducible first | apply keeps_mk | apply keeps_audit | apply keeps_fabric)

theorem gotReduced_keeps {b : Bool} {s0 s : State} (x1 : Nat) (x2 : Dword) (h : Keeps b s0 s) :
    Keeps b s0 (gotReduced x1 x2 s) := by
  unfold gotReduced
  repeat' first
    | (with_reducible first | assumption | intro _ | apply castLost_keeps | apply applyReduced_keeps
                            | apply keeps_ite | apply keeps_foldl)
    | split
    | dsimp only
    | (with_reducible first | apply keeps_mk | apply keeps_audit | apply keeps_fabric)

theorem killCtx_keeps {b : Bool} {s0 s : State} (x1 : Nat) (x2 : Byte) (h : Keeps b s0 s) :
    Keeps b s0 (killCtx x1 x2 s) := by
  unfold killCtx
  repeat' first
    | (with_reducible first | assumption | intro _ | apply State_setCtx_keeps | apply endTasks_keeps
                            | apply failOps_keeps | apply setCtxState_keeps | apply forcedVote_keeps | apply keeps_ite |
                            apply keeps_foldl)
    | split
    | dsimp only
    | (with_reducible first | apply keeps_mk | apply keeps_audit | apply keeps_fabric)

theorem killIf_keeps {b : Bool} {s0 s : State} (x1 : Nat) (x2 : Option Byte) (h : Keeps b s0 s) :
    Keeps b s0 (killIf x1 x2 s) := by
  unfold killIf
  repeat' first
    | (with_reducible first | assumption | intro _ | apply killCtx_keeps | apply keeps_ite | apply keeps_foldl)
    | split
    | dsimp only
    | (with_reducible first | apply keeps_mk | apply keeps_audit | apply keeps_fabric)

theorem prepareAndCast_keeps {b : Bool} {s0 s : State} (x1 : Nat) (x2 : Dword) (x3 : Bytes) (x4 : Option TableOut) (x5 :
    Dword) (h : Keeps b s0 s) :
    Keeps b s0 (prepareAndCast x1 x2 x3 x4 x5 s) := by
  unfold prepareAndCast
  repeat' first
    | (with_reducible first | assumption | intro _ | apply setDigest_keeps | apply writeMap_keeps |
                            apply writeWord_keeps | apply voteRecords_keeps | apply State_setCtx_keeps | apply
                            castVote_keeps | apply keeps_ite | apply keeps_foldl)
    | (with_reducible refine keeps_fst (by with_reducible assumption) ?_)
    | split
    | dsimp only
    | (with_reducible first | apply keeps_mk | apply keeps_audit | apply keeps_fabric)

theorem runStepEnd_keeps {b : Bool} {s0 s : State} (x1 : TaskRef) (x2 : Env) (h : Keeps b s0 s) :
    Keeps b s0 (runStepEnd x1 x2 s) := by
  unfold runStepEnd
  repeat' first
    | (with_reducible first | assumption | intro _ | apply skipStepPips_keeps | apply
                            State_setCtx_keeps | apply writeTables_keeps | apply castLost_keeps | apply prepareAndCast_keeps
                            | apply killCtx_keeps | apply endStepTask_keeps | apply keeps_ite | apply keeps_foldl | apply
                            runKeeps_pure | apply runKeeps_getS | apply runKeeps_bind | apply runKeeps_ite | apply
                            runKeeps_foldlM | apply runAt_set | apply runAt_set_end | apply runAt_ite)
    | (with_reducible refine keeps_run ?_ (by with_reducible assumption) ?_)
    | split
    | dsimp only
    | (with_reducible first | apply keeps_mk | apply keeps_audit | apply keeps_fabric)
    | (with_reducible apply runAt_of)

theorem voteTimeout_keeps {b : Bool} {s0 s : State} (x1 : Nat) (x2 : Nat) (h : Keeps b s0 s) :
    Keeps b s0 (voteTimeout x1 x2 s) := by
  unfold voteTimeout
  repeat' first
    | (with_reducible first | assumption | intro _ | apply castLost_keeps | apply tryCombine_keeps |
                            apply State_setCtx_keeps | apply keeps_ite | apply keeps_foldl)
    | split
    | dsimp only
    | (with_reducible first | apply keeps_mk | apply keeps_audit | apply keeps_fabric)

theorem voteResend_keeps {b : Bool} {s0 s : State} (x1 : Nat) (h : Keeps b s0 s) :
    Keeps b s0 (voteResend x1 s) := by
  unfold voteResend
  repeat' first
    | (with_reducible first | assumption | intro _ | apply sendVote_keeps | apply keeps_ite | apply keeps_foldl)
    | split
    | dsimp only
    | (with_reducible first | apply keeps_mk | apply keeps_audit | apply keeps_fabric)

theorem quietExpire_keeps {b : Bool} {s0 s : State} (x1 : Nat) (h : Keeps b s0 s) :
    Keeps b s0 (quietExpire x1 s) := by
  unfold quietExpire
  repeat' first
    | (with_reducible first | assumption | intro _ | apply raiseCtx_keeps | apply State_setCtx_keeps
                            | apply keeps_ite | apply keeps_foldl)
    | split
    | dsimp only
    | (with_reducible first | apply keeps_mk | apply keeps_audit | apply keeps_fabric)

/-! ### Machine/Rings.lean -/

theorem recount_keeps {s0 s : State} (h : Keeps false s0 s) : Keeps false s0 (recount s) := by
  unfold recount
  split
  next hd => exact setDev_keeps _ (.inl (by rw [hd.1]; rfl)) h
  next =>
    split
    next hd => exact setDev_keeps _ (.inl (by rw [hd.1]; rfl)) h
    next => exact h

theorem ctxRings_keeps {s0 s : State} (x1 : Nat) (h : Keeps false s0 s) :
    Keeps false s0 (ctxRings x1 s) := by
  unfold ctxRings
  repeat' first
    | (with_reducible first | assumption | intro _ | apply recount_keeps | apply setCtxState_keeps |
                            apply keeps_ite | apply keeps_foldl)
    | split
    | dsimp only
    | (with_reducible first | apply keeps_mk | apply keeps_audit | apply keeps_fabric)

theorem keepImports_keeps {b : Bool} {s0 s : State} (x1 : Nat) (x2 : Nat → Bool) (h : Keeps b s0 s) :
    Keeps b s0 (keepImports x1 x2 s) := by
  refine keys_keeps h rfl rfl rfl rfl rfl rfl rfl rfl rfl fun w => ?_
  simp only [State.keysRise, Bool.and_eq_true] at w ⊢
  refine ⟨⟨⟨⟨?_, w.1.1.1.2⟩, w.1.1.2⟩, w.1.2⟩, w.2⟩
  unfold keepImports
  refine rising_map _ ?_ _ _ w.1.1.1.1
  exact fun _ => rfl

theorem readLine_keeps {b : Bool} {s0 s : State} (x1 : Nat) (x2 : ReadUse) (h : Keeps b s0 s) :
    Keeps b s0 (readLine x1 x2 s) := by
  unfold readLine
  repeat' first
    | (with_reducible first | assumption | intro _ | apply keeps_ite | apply keeps_foldl)
    | (with_reducible apply keeps_out)
    | split
    | dsimp only
    | (with_reducible first | apply keeps_mk | apply keeps_audit | apply keeps_fabric)

theorem ringOutside_keeps {b : Bool} {s0 s : State} (x1 : Nat) (x2 : Nat) (x3 : Nat) (h : Keeps b s0 s) :
    Keeps b s0 (ringOutside x1 x2 x3 s) := by
  unfold ringOutside
  repeat' first
    | (with_reducible first | assumption | intro _ | apply ringError_keeps | apply violation_keeps |
                            apply keeps_ite | apply keeps_foldl)
    | split
    | dsimp only
    | (with_reducible first | apply keeps_mk | apply keeps_audit | apply keeps_fabric)

theorem readPointer_keeps {b : Bool} {s0 s : State} (x1 : Nat) (x2 : Nat) (h : Keeps b s0 s) :
    Keeps b s0 (readPointer x1 x2 s) := by
  unfold readPointer
  repeat' first
    | (with_reducible first | assumption | intro _ | apply ringOutside_keeps | apply readLine_keeps
                            | apply keeps_ite | apply keeps_foldl)
    | split
    | dsimp only
    | (with_reducible first | apply keeps_mk | apply keeps_audit | apply keeps_fabric)

theorem readEntries_keeps {b : Bool} {s0 s : State} (x1 : Nat) (x2 : Nat) (h : Keeps b s0 s) :
    Keeps b s0 (readEntries x1 x2 s) := by
  unfold readEntries
  repeat' first
    | (with_reducible first | assumption | intro _ | apply ringOutside_keeps | apply readLine_keeps
                            | apply keeps_ite | apply keeps_foldl | apply keeps_ite_fst | apply keeps_foldl_fst | apply
                            keeps_foldl_snd)
    | split
    | dsimp only
    | (with_reducible first | apply keeps_mk | apply keeps_audit | apply keeps_fabric)

theorem takeEntries_keeps {b : Bool} {s0 s : State} (x1 : Nat) (x2 : Nat) (x3 : Nat) (h : Keeps b s0 s) :
    Keeps b s0 (takeEntries x1 x2 x3 s) := by
  induction x3 generalizing s x1 x2 with
  | zero => exact h
  | succ n ih =>
    unfold takeEntries
    repeat' first
      | (with_reducible first | assumption | intro _ | apply State_setRing_keeps | apply keeps_ite |
                              apply keeps_foldl | apply ih)
      | split
      | dsimp only
      | (with_reducible first | apply keeps_mk | apply keeps_audit | apply keeps_fabric)

theorem endRead_keeps {b : Bool} {s0 s : State} (x1 : ReadUse) (h : Keeps b s0 s) :
    Keeps b s0 (endRead x1 s) := by
  unfold endRead
  repeat' first
    | (with_reducible first | assumption | intro _ | apply keeps_ite | apply keeps_foldl)
    | split
    | dsimp only
    | (with_reducible first | apply keeps_mk | apply keeps_audit | apply keeps_fabric)

theorem cacheShared_keeps {b : Bool} {s0 s : State} (x1 : Nat) (x2 : Bytes) (h : Keeps b s0 s) :
    Keeps b s0 (cacheShared x1 x2 s) := by
  unfold cacheShared
  repeat' first
    | (with_reducible first | assumption | intro _ | apply keeps_ite | apply keeps_foldl)
    | split
    | dsimp only
    | (with_reducible first | apply keeps_mk | apply keeps_audit | apply keeps_fabric)

theorem gotPointer_keeps {b : Bool} {s0 s : State} (x1 : Nat) (x2 : Nat) (x3 : Bytes) (h : Keeps b s0 s) :
    Keeps b s0 (gotPointer x1 x2 x3 s) := by
  unfold gotPointer
  repeat' first
    | (with_reducible first | assumption | intro _ | apply endRead_keeps | apply cacheShared_keeps |
                            apply flushRecords_keeps | apply State_setRing_keeps | apply ringError_keeps | apply
                            readEntries_keeps | apply readPointer_keeps | apply keeps_ite | apply keeps_foldl)
    | split
    | dsimp only
    | (with_reducible first | apply keeps_mk | apply keeps_audit | apply keeps_fabric)

theorem gotEntries_keeps {b : Bool} {s0 s : State} (x1 : Nat) (x2 : Nat) (x3 : List Bytes) (h : Keeps b s0 s) :
    Keeps b s0 (gotEntries x1 x2 x3 s) := by
  unfold gotEntries
  repeat' first
    | (with_reducible first | assumption | intro _ | apply cacheShared_keeps | apply endRead_keeps |
                            apply takeEntries_keeps | apply keeps_ite | apply keeps_foldl | apply keeps_ite_fst | apply
                            keeps_foldl_fst | apply keeps_foldl_snd)
    | split
    | dsimp only
    | (with_reducible first | apply keeps_mk | apply keeps_audit | apply keeps_fabric)

theorem gotEntry_keeps {b : Bool} {s0 s : State} (x1 : Nat) (x2 : Nat) (x3 : Nat) (x4 : Bytes) (h : Keeps b s0 s) :
    Keeps b s0 (gotEntry x1 x2 x3 x4 s) := by
  unfold gotEntry
  repeat' first
    | (with_reducible first | assumption | intro _ | apply cacheShared_keeps | apply endRead_keeps |
                            apply takeEntries_keeps | apply keeps_ite | apply keeps_foldl)
    | split
    | dsimp only
    | (with_reducible first | apply keeps_mk | apply keeps_audit | apply keeps_fabric)

theorem wakeRing_keeps {b : Bool} {s0 s : State} (x1 : Nat) (x2 : Nat) (h : Keeps b s0 s) :
    Keeps b s0 (wakeRing x1 x2 s) := by
  unfold wakeRing
  repeat' first
    | (with_reducible first | assumption | intro _ | apply readPointer_keeps | apply count_keeps |
                            apply keeps_ite | apply keeps_foldl)
    | split
    | dsimp only
    | (with_reducible first | apply keeps_mk | apply keeps_audit | apply keeps_fabric)

theorem snoop_keeps {b : Bool} {s0 s : State} (x1 : Nat) (x2 : Bool) (h : Keeps b s0 s) :
    Keeps b s0 (snoop x1 x2 s) := by
  unfold snoop
  repeat' first
    | (with_reducible first | assumption | intro _ | apply State_emit_keeps | apply wakeRing_keeps |
                            apply keeps_ite | apply keeps_foldl | apply keeps_ite_fst | apply keeps_foldl_fst | apply
                            keeps_foldl_snd)
    | split
    | dsimp only
    | (with_reducible first | apply keeps_mk | apply keeps_audit | apply keeps_fabric)

theorem pollRings_keeps {b : Bool} {s0 s : State} (h : Keeps b s0 s) :
    Keeps b s0 (pollRings s) := by
  unfold pollRings
  repeat' first
    | (with_reducible first | assumption | intro _ | apply readPointer_keeps | apply keeps_ite |
                            apply keeps_foldl | apply keeps_ite_fst | apply keeps_foldl_fst | apply keeps_foldl_snd)
    | split
    | dsimp only
    | (with_reducible first | apply keeps_mk | apply keeps_audit | apply keeps_fabric)

theorem consume_keeps {b : Bool} {s0 s : State} (x1 : Nat) (x2 : Nat) (h : Keeps b s0 s) :
    Keeps b s0 (consume x1 x2 s) := by
  unfold consume
  repeat' first
    | (with_reducible first | assumption | intro _ | apply State_setRing_keeps | apply
                            State_emit_keeps | apply ringOutside_keeps | apply keeps_ite | apply keeps_foldl)
    | split
    | dsimp only
    | (with_reducible first | apply keeps_mk | apply keeps_audit | apply keeps_fabric)

theorem writeDevLine_keeps {b : Bool} {s0 s : State} (x1 : Nat) (x2 : Nat) (h : Keeps b s0 s) :
    Keeps b s0 (writeDevLine x1 x2 s) := by
  unfold writeDevLine
  repeat' first
    | (with_reducible first | assumption | intro _ | apply State_setRing_keeps | apply
                            State_emit_keeps | apply ringOutside_keeps | apply keeps_ite | apply keeps_foldl)
    | split
    | dsimp only
    | (with_reducible first | apply keeps_mk | apply keeps_audit | apply keeps_fabric)

theorem enableRing_keeps {s0 s : State} (x1 : Nat) (x2 : Nat) (h : Keeps false s0 s) :
    Keeps false s0 (enableRing x1 x2 s) := by
  unfold enableRing
  repeat' first
    | (with_reducible first | assumption | intro _ | apply State_setRing_keeps | apply
                            readPointer_keeps | apply ctxRings_keeps | apply writeDevLine_keeps | apply keeps_ite | apply
                            keeps_foldl)
    | split
    | dsimp only
    | (with_reducible first | apply keeps_mk | apply keeps_audit | apply keeps_fabric)

theorem writeDueLines_keeps {b : Bool} {s0 s : State} (h : Keeps b s0 s) :
    Keeps b s0 (writeDueLines s) := by
  unfold writeDueLines
  repeat' first
    | (with_reducible first | assumption | intro _ | apply readPointer_keeps | apply
                            writeDevLine_keeps | apply keeps_ite | apply keeps_foldl | apply keeps_ite_fst | apply
                            keeps_foldl_fst | apply keeps_foldl_snd)
    | split
    | dsimp only
    | (with_reducible first | apply keeps_mk | apply keeps_audit | apply keeps_fabric)

theorem recount_still {s : State} (h1 : s.dev ≠ .ready) (h2 : s.dev ≠ .active) : recount s = s := by
  simp [recount, h1, h2]

theorem ctxRings_still {s0 s : State} (x1 : Nat) (hd : s.dev = .draining) (h : Keeps true s0 s) : Keeps true s0
    (ctxRings x1 s) := by
  have hr : ∀ c st, recount (setCtxState c st s) = setCtxState c st s := fun c st => by
    have e : (setCtxState c st s).dev = s.dev := ((setCtxState_keeps c st (Keeps.refl true s)).still rfl).1
    exact recount_still (by rw [e, hd]; decide) (by rw [e, hd]; decide)
  simp only [ctxRings, hr]
  split
  · exact setCtxState_keeps _ _ h
  · split
    · exact setCtxState_keeps _ _ h
    · exact h

theorem disableRing_keeps {s0 s : State} (x1 : Nat) (x2 : Nat) (h : Keeps false s0 s) :
    Keeps false s0 (disableRing x1 x2 s) := by
  unfold disableRing
  repeat' first
    | (with_reducible first | assumption | apply State_setRing_keeps | apply ctxRings_keeps)
    | dsimp only
    | (with_reducible apply keeps_mk)

/-- In DRAINING no context's rings move the device. -/
theorem disableRing_still {s0 s : State} (x1 : Nat) (x2 : Nat) (hd : s.dev = .draining) (h : Keeps true s0 s) :
    Keeps true s0 (disableRing x1 x2 s) := by
  unfold disableRing
  apply ctxRings_still
  · exact hd
  · exact keeps_mk (State_setRing_keeps _ _ _ h)

theorem msiTimer_keeps {b : Bool} {s0 s : State} (x1 : Nat) (x2 : Nat) (h : Keeps b s0 s) :
    Keeps b s0 (msiTimer x1 x2 s) := by
  unfold msiTimer
  repeat' first
    | (with_reducible first | assumption | intro _ | apply sendMsi_keeps | apply State_setRing_keeps
                            | apply keeps_ite | apply keeps_foldl)
    | split
    | dsimp only
    | (with_reducible first | apply keeps_mk | apply keeps_audit | apply keeps_fabric)

end Sys2Proof.Machine
end

