-- ==== Sys2Proof/Laws/KeepsTasks.lean ====
section
/-! SUPPORT. What functions keep (Laws/Keeps.lean): task runs, segments, admin commands and votes. -/

set_option linter.unusedVariables false

namespace Sys2Proof.Machine

-- One theorem after the other: checked all at once they take more threads than a checker has memory for.
set_option Elab.async false

/-! ### Machine/Runs.lean -/

theorem startDecision_keeps {b : Bool} {s0 s : State} (x1 : DecisionKind) (x2 : List Nat) (x3 : Option TaskRef) (x4 :
    Int) (x5 : Int) (x6 : Word) (x7 : BitVec 16) (x8 : Word) (h : Keeps b s0 s) :
    Keeps b s0 (startDecision x1 x2 x3 x4 x5 x6 x7 x8 s) := by
  unfold startDecision
  repeat' first
    | (with_reducible first | assumption | intro _ | apply keeps_ite | apply keeps_foldl)
    | split
    | dsimp only
    | (with_reducible first | apply keeps_mk | apply keeps_audit | apply keeps_fabric)

theorem inTensor_keeps (x1 : Task) (x2 : Slot) : RunKeeps (inTensor x1 x2) := by
  unfold inTensor
  repeat' first
    | (with_reducible first | assumption | intro _ | apply getS_keeps | apply stop_keeps | apply
                            keeps_ite | apply keeps_foldl | apply runKeeps_pure | apply runKeeps_getS | apply runKeeps_bind
                            | apply runKeeps_ite | apply runKeeps_foldlM | apply runAt_set | apply runAt_set_end | apply
                            runAt_ite)
    | extract_lets
    | split
    | dsimp only
    | (with_reducible first | apply keeps_mk | apply keeps_audit | apply keeps_fabric)
    | (with_reducible apply runAt_of)

theorem outTensor_keeps (x1 : Task) (x2 : Slot) (x3 : Nat) (x4 : Bool) (x5 : Option RotRec) : RunKeeps (outTensor x1 x2
    x3 x4 x5) := by
  unfold outTensor
  repeat' first
    | (with_reducible first | assumption | intro _ | apply getS_keeps | apply stop_keeps | apply
                            keeps_ite | apply keeps_foldl | apply runKeeps_pure | apply runKeeps_getS | apply runKeeps_bind
                            | apply runKeeps_ite | apply runKeeps_foldlM | apply runAt_set | apply runAt_set_end | apply
                            runAt_ite)
    | extract_lets
    | split
    | dsimp only
    | (with_reducible first | apply keeps_mk | apply keeps_audit | apply keeps_fabric)
    | (with_reducible apply runAt_of)

theorem noteOut_keeps {b : Bool} {s0 s : State} (x1 : Task) (x2 : Nat) (x3 : Nat) (x4 : Bool) (x5 : Option RotRec) (x6 :
    Option (Nat × Option TaskRef)) (h : Keeps b s0 s) :
    Keeps b s0 (noteOut x1 x2 x3 x4 x5 x6 s) := by
  unfold noteOut
  repeat' first
    | (with_reducible first | assumption | intro _ | apply State_setCtx_keeps | apply keeps_ite | apply keeps_foldl)
    | split
    | dsimp only
    | (with_reducible first | apply keeps_mk | apply keeps_audit | apply keeps_fabric)

theorem writeLong_keeps (x1 : Env) (x2 : Task) (x3 : Slot) (x4 : Nat) (x5 : Mat) (x6 : Nat → Nat → Bool) : RunKeeps
    (writeLong x1 x2 x3 x4 x5 x6) := by
  unfold writeLong
  repeat' first
    | (with_reducible first | assumption | intro _ | apply outTensor_keeps | apply writeTiles_keeps
                            | apply modS_keeps | apply noteOut_keeps | apply inTensor_keeps | apply readMat_keeps | apply
                            keeps_ite | apply keeps_foldl | apply keeps_ite_fst | apply keeps_foldl_fst | apply
                            keeps_foldl_snd | apply runKeeps_pure | apply runKeeps_getS | apply runKeeps_bind | apply
                            runKeeps_ite | apply runKeeps_foldlM | apply runAt_set | apply runAt_set_end | apply runAt_ite)
    | extract_lets
    | split
    | dsimp only
    | (with_reducible first | apply keeps_mk | apply keeps_audit | apply keeps_fabric)
    | (with_reducible apply runAt_of)

theorem raisePlaus_keeps {b : Bool} {s0 s : State} (x1 : Task) (x2 : Nat) (x3 : Nat) (x4 : Nat) (x5 : Nat) (x6 : Nat)
    (x7 : Nat) (h : Keeps b s0 s) :
    Keeps b s0 (raisePlaus x1 x2 x3 x4 x5 x6 x7 s) := by
  unfold raisePlaus
  repeat' first
    | (with_reducible first | assumption | intro _ | apply raiseWho_keeps | apply keeps_ite | apply keeps_foldl)
    | split
    | dsimp only
    | (with_reducible first | apply keeps_mk | apply keeps_audit | apply keeps_fabric)

theorem readIn_keeps (x1 : Env) (x2 : Task) (x3 : Nat) (x4 : Nat) (x5 : Slot) : RunKeeps (readIn x1 x2 x3 x4 x5) := by
  unfold readIn
  repeat' first
    | (with_reducible first | assumption | intro _ | apply inTensor_keeps | apply readTiles_keeps |
                            apply keeps_ite | apply keeps_foldl | apply runKeeps_pure | apply runKeeps_getS | apply
                            runKeeps_bind | apply runKeeps_ite | apply runKeeps_foldlM | apply runAt_set | apply
                            runAt_set_end | apply runAt_ite)
    | extract_lets
    | split
    | dsimp only
    | (with_reducible first | apply keeps_mk | apply keeps_audit | apply keeps_fabric)
    | (with_reducible apply runAt_of)

theorem withRecords_keeps (x1 : Task) (x2 : List (Nat × Nat)) (x3 : RunOut) : RunKeeps (withRecords x1 x2 x3) := by
  unfold withRecords
  repeat' first
    | (with_reducible first | assumption | intro _ | apply modS_keeps | apply raisePlaus_keeps |
                            apply keeps_ite | apply keeps_foldl | apply runKeeps_pure | apply runKeeps_getS | apply
                            runKeeps_bind | apply runKeeps_ite | apply runKeeps_foldlM | apply runAt_set | apply
                            runAt_set_end | apply runAt_ite)
    | extract_lets
    | split
    | dsimp only
    | (with_reducible first | apply keeps_mk | apply keeps_audit | apply keeps_fabric)
    | (with_reducible apply runAt_of)

theorem runTask_keeps {b : Bool} {s0 s : State} (x1 : TaskRef) (x2 : Desc → Bool) (x3 : Task → Run RunOut) (hx3 : ∀ a0,
    RunKeeps (x3 a0)) (h : Keeps b s0 s) :
    Keeps b s0 (runTask x1 x2 x3 s) := by
  unfold runTask
  repeat' first
    | (with_reducible first | assumption | intro _ | apply State_setTask_keeps | apply killCtx_keeps
                            | apply afterComplete_keeps | apply completeWith_keeps | apply hx3 | apply keeps_ite | apply
                            keeps_foldl | apply runKeeps_pure | apply runKeeps_getS | apply runKeeps_bind | apply
                            runKeeps_ite | apply runKeeps_foldlM | apply runAt_set | apply runAt_set_end | apply runAt_ite)
    | (with_reducible refine keeps_run ?_ (by with_reducible assumption) ?_)
    | split
    | dsimp only
    | (with_reducible first | apply keeps_mk | apply keeps_audit | apply keeps_fabric)
    | (with_reducible apply runAt_of)

/-! ### Machine/Quantise.lean -/

theorem slotEntry_keeps (x1 : Env) (x2 : Task) (x3 : Nat) (x4 : Nat) (x5 : Slot) (x6 : Nat) : RunKeeps (slotEntry x1 x2
    x3 x4 x5 x6) := by
  unfold slotEntry
  repeat' first
    | (with_reducible first | assumption | intro _ | apply inTensor_keeps | apply readEntry_keeps |
                            apply keeps_ite | apply keeps_foldl | apply runKeeps_pure | apply runKeeps_getS | apply
                            runKeeps_bind | apply runKeeps_ite | apply runKeeps_foldlM | apply runAt_set | apply
                            runAt_set_end | apply runAt_ite)
    | extract_lets
    | split
    | dsimp only
    | (with_reducible first | apply keeps_mk | apply keeps_audit | apply keeps_fabric)
    | (with_reducible apply runAt_of)

theorem prevAlong_keeps (x1 : Env) (x2 : Task) (x3 : Slot) (x4 : Bool) : RunKeeps (prevAlong x1 x2 x3 x4) := by
  unfold prevAlong
  repeat' first
    | (with_reducible first | assumption | intro _ | apply inTensor_keeps | apply readMat_keeps |
                            apply keeps_ite | apply keeps_foldl | apply runKeeps_pure | apply runKeeps_getS | apply
                            runKeeps_bind | apply runKeeps_ite | apply runKeeps_foldlM | apply runAt_set | apply
                            runAt_set_end | apply runAt_ite)
    | extract_lets
    | split
    | dsimp only
    | (with_reducible first | apply keeps_mk | apply keeps_audit | apply keeps_fabric)
    | (with_reducible apply runAt_of)

theorem quantizeBody_keeps (x1 : Env) (x2 : Task) : RunKeeps (quantizeBody x1 x2) := by
  unfold quantizeBody
  repeat' first
    | (with_reducible first | assumption | intro _ | apply inTensor_keeps | apply readTiles_keeps |
                            apply getS_keeps | apply outTensor_keeps | apply prevAlong_keeps | apply writeTiles_keeps |
                            apply modS_keeps | apply noteOut_keeps | apply withRecords_keeps | apply slotEntry_keeps | apply
                            keeps_ite | apply keeps_foldl | apply runKeeps_pure | apply runKeeps_getS | apply runKeeps_bind
                            | apply runKeeps_ite | apply runKeeps_foldlM | apply runAt_set | apply runAt_set_end | apply
                            runAt_ite)
    | extract_lets
    | split
    | dsimp only
    | (with_reducible first | apply keeps_mk | apply keeps_audit | apply keeps_fabric)
    | (with_reducible apply runAt_of)

/-! ### Machine/Collective.lean -/

theorem readMap_keeps (x1 : Who) (x2 : Col) : RunKeeps (readMap x1 x2) := by
  unfold readMap
  repeat' first
    | (with_reducible first | assumption | intro _ | apply getS_keeps | apply readTile_keeps | apply
                            keeps_ite | apply keeps_foldl | apply keeps_ite_fst | apply keeps_foldl_fst | apply
                            keeps_foldl_snd | apply runKeeps_pure | apply runKeeps_getS | apply runKeeps_bind | apply
                            runKeeps_ite | apply runKeeps_foldlM | apply runAt_set | apply runAt_set_end | apply runAt_ite)
    | extract_lets
    | split
    | dsimp only
    | (with_reducible first | apply keeps_mk | apply keeps_audit | apply keeps_fabric)
    | (with_reducible apply runAt_of)

theorem setCredits_keeps {b : Bool} {s0 s : State} (x1 : Nat) (x2 : Nat) (x3 : BitVec 21) (x4 : Nat) (h : Keeps b s0 s) :
    Keeps b s0 (setCredits x1 x2 x3 x4 s) := by
  unfold setCredits
  repeat' first
    | (with_reducible first | assumption | intro _ | apply keeps_ite | apply keeps_foldl)
    | split
    | dsimp only
    | (with_reducible first | apply keeps_mk | apply keeps_audit | apply keeps_fabric)

theorem setWindow_keeps {b : Bool} {s0 s : State} (x1 : ColWindow) (h : Keeps b s0 s) :
    Keeps b s0 (setWindow x1 s) := by
  unfold setWindow
  repeat' first
    | (with_reducible first | assumption | intro _ | apply keeps_ite | apply keeps_foldl)
    | split
    | dsimp only
    | (with_reducible first | apply keeps_mk | apply keeps_audit | apply keeps_fabric)

theorem setOp_keeps {b : Bool} {s0 s : State} (x1 : FabOp) (h : Keeps b s0 s) :
    Keeps b s0 (setOp x1 s) := by
  unfold setOp
  repeat' first
    | (with_reducible first | assumption | intro _ | apply keeps_ite | apply keeps_foldl)
    | split
    | dsimp only
    | (with_reducible first | apply keeps_mk | apply keeps_audit | apply keeps_fabric)

theorem pump_keeps {b : Bool} {s0 s : State} (x1 : TaskRef) (x2 : Nat) (h : Keeps b s0 s) :
    Keeps b s0 (pump x1 x2 s) := by
  induction x2 generalizing s x1 with
  | zero => exact h
  | succ n ih =>
    unfold pump
    repeat' first
      | (with_reducible first | assumption | intro _ | apply inject_keeps | apply setCredits_keeps |
                              apply setWindow_keeps | apply setOp_keeps | apply keeps_ite | apply keeps_foldl | apply
                              keeps_ite_fst | apply keeps_foldl_fst | apply keeps_foldl_snd | apply ih)
      | (with_reducible refine keeps_fst (by with_reducible assumption) ?_)
      | split
      | dsimp only
      | (with_reducible first | apply keeps_mk | apply keeps_audit | apply keeps_fabric)

theorem queueLeg_keeps {b : Bool} {s0 s : State} (x1 : Col) (x2 : ColWindow) (x3 : ColKey) (x4 : NodeVal) (x5 : Leg) (h
    : Keeps b s0 s) :
    Keeps b s0 (queueLeg x1 x2 x3 x4 x5 s) := by
  unfold queueLeg
  repeat' first
    | (with_reducible first | assumption | intro _ | apply violation_keeps | apply setWindow_keeps |
                            apply keeps_ite | apply keeps_foldl)
    | split
    | dsimp only
    | (with_reducible first | apply keeps_mk | apply keeps_audit | apply keeps_fabric)

theorem colAdvance_keeps {b : Bool} {s0 s : State} (x1 : TaskRef) (h : Keeps b s0 s) :
    Keeps b s0 (colAdvance x1 s) := by
  unfold colAdvance
  repeat' first
    | (with_reducible first | assumption | intro _ | apply queueLeg_keeps | apply setWindow_keeps |
                            apply pump_keeps | apply keeps_ite | apply keeps_foldl | apply keeps_ite_fst | apply
                            keeps_foldl_fst | apply keeps_foldl_snd)
    | split
    | dsimp only
    | (with_reducible first | apply keeps_mk | apply keeps_audit | apply keeps_fabric)

theorem sendGrant_keeps {b : Bool} {s0 s : State} (x1 : ColWindow) (x2 : BitVec 21) (x3 : Nat) (h : Keeps b s0 s) :
    Keeps b s0 (sendGrant x1 x2 x3 s) := by
  unfold sendGrant
  repeat' first
    | (with_reducible first | assumption | intro _ | apply inject_keeps | apply violation_keeps |
                            apply keeps_ite | apply keeps_foldl)
    | (with_reducible refine keeps_fst (by with_reducible assumption) ?_)
    | split
    | dsimp only
    | (with_reducible first | apply keeps_mk | apply keeps_audit | apply keeps_fabric)

theorem colWindowOpen_keeps {b : Bool} {s0 s : State} (x1 : TaskRef) (h : Keeps b s0 s) :
    Keeps b s0 (colWindowOpen x1 s) := by
  unfold colWindowOpen
  repeat' first
    | (with_reducible first | assumption | intro _ | apply sendGrant_keeps | apply keeps_ite | apply
                            keeps_foldl | apply keeps_ite_fst | apply keeps_foldl_fst | apply keeps_foldl_snd)
    | split
    | dsimp only
    | (with_reducible first | apply keeps_mk | apply keeps_audit | apply keeps_fabric)

theorem runWait_keeps {b : Bool} {s0 s : State} (x1 : TaskRef) (x2 : Desc → Bool) (x3 : Task → Run (Option RunOut)) (hx3
    : ∀ a0, RunKeeps (x3 a0)) (h : Keeps b s0 s) :
    Keeps b s0 (runWait x1 x2 x3 s) := by
  unfold runWait
  repeat' first
    | (with_reducible first | assumption | intro _ | apply State_setTask_keeps | apply killCtx_keeps
                            | apply afterComplete_keeps | apply completeWith_keeps | apply hx3 | apply keeps_ite | apply
                            keeps_foldl | apply runKeeps_pure | apply runKeeps_getS | apply runKeeps_bind | apply
                            runKeeps_ite | apply runKeeps_foldlM | apply runAt_set | apply runAt_set_end | apply runAt_ite)
    | (with_reducible refine keeps_run ?_ (by with_reducible assumption) ?_)
    | split
    | dsimp only
    | (with_reducible first | apply keeps_mk | apply keeps_audit | apply keeps_fabric)
    | (with_reducible apply runAt_of)

theorem closeOps_keeps {b : Bool} {s0 s : State} (x1 : TaskRef) (h : Keeps b s0 s) :
    Keeps b s0 (closeOps x1 s) := by
  unfold closeOps
  repeat' first
    | (with_reducible first | assumption | intro _ | apply keeps_ite | apply keeps_foldl)
    | split
    | dsimp only
    | (with_reducible first | apply keeps_mk | apply keeps_audit | apply keeps_fabric)

theorem opsSettled_keeps (x1 : Task) : RunKeeps (opsSettled x1) := by
  unfold opsSettled
  repeat' first
    | (with_reducible first | assumption | intro _ | apply getS_keeps | apply modS_keeps | apply
                            closeOps_keeps | apply stop_keeps | apply keeps_ite | apply keeps_foldl | apply runKeeps_pure |
                            apply runKeeps_getS | apply runKeeps_bind | apply runKeeps_ite | apply runKeeps_foldlM | apply
                            runAt_set | apply runAt_set_end | apply runAt_ite)
    | extract_lets
    | split
    | dsimp only
    | (with_reducible first | apply keeps_mk | apply keeps_audit | apply keeps_fabric)
    | (with_reducible apply runAt_of)

theorem writeValue_keeps (x1 : Env) (x2 : Task) (x3 : Mat) : RunKeeps (writeValue x1 x2 x3) := by
  unfold writeValue
  repeat' first
    | (with_reducible first | assumption | intro _ | apply outTensor_keeps | apply writeLong_keeps |
                            apply writeTiles_keeps | apply modS_keeps | apply noteOut_keeps | apply inTensor_keeps | apply
                            readMat_keeps | apply keeps_ite | apply keeps_foldl | apply runKeeps_pure | apply runKeeps_getS
                            | apply runKeeps_bind | apply runKeeps_ite | apply runKeeps_foldlM | apply runAt_set | apply
                            runAt_set_end | apply runAt_ite)
    | extract_lets
    | split
    | dsimp only
    | (with_reducible first | apply keeps_mk | apply keeps_audit | apply keeps_fabric)
    | (with_reducible apply runAt_of)

theorem writeValues_keeps (x1 : Env) (x2 : Task) (x3 : List NodeVal) : RunKeeps (writeValues x1 x2 x3) := by
  unfold writeValues
  repeat' first
    | (with_reducible first | assumption | intro _ | apply outTensor_keeps | apply writeTiles_keeps
                            | apply modS_keeps | apply noteOut_keeps | apply writeValue_keeps | apply keeps_ite | apply
                            keeps_foldl | apply keeps_ite_fst | apply keeps_foldl_fst | apply keeps_foldl_snd | apply
                            runKeeps_pure | apply runKeeps_getS | apply runKeeps_bind | apply runKeeps_ite | apply
                            runKeeps_foldlM | apply runAt_set | apply runAt_set_end | apply runAt_ite)
    | extract_lets
    | split
    | dsimp only
    | (with_reducible first | apply keeps_mk | apply keeps_audit | apply keeps_fabric)
    | (with_reducible apply runAt_of)

theorem groupBody_keeps (x1 : Env) (x2 : Task) : RunKeeps (groupBody x1 x2) := by
  unfold groupBody
  repeat' first
    | (with_reducible first | assumption | intro _ | apply getS_keeps | apply readTiles_keeps |
                            apply modS_keeps | apply setWindow_keeps | apply colAdvance_keeps | apply opsSettled_keeps |
                            apply writeValues_keeps | apply closeOps_keeps | apply readMap_keeps | apply keeps_ite | apply
                            keeps_foldl | apply keeps_ite_fst | apply keeps_foldl_fst | apply keeps_foldl_snd | apply
                            runKeeps_pure | apply runKeeps_getS | apply runKeeps_bind | apply runKeeps_ite | apply
                            runKeeps_foldlM | apply runAt_set | apply runAt_set_end | apply runAt_ite)
    | extract_lets
    | split
    | dsimp only
    | (with_reducible first | apply keeps_mk | apply keeps_audit | apply keeps_fabric)
    | (with_reducible apply runAt_of)

theorem sendTile_keeps (x1 : Env) (x2 : Task) (x3 : TileLoc) (x4 : Nat) : RunKeeps (sendTile x1 x2 x3 x4) := by
  unfold sendTile
  repeat' first
    | (with_reducible first | assumption | intro _ | apply getS_keeps | apply loadTile_keeps | apply
                            modS_keeps | apply stopMem_keeps | apply raiseChecksum_keeps | apply stop_keeps | apply
                            keeps_ite | apply keeps_foldl | apply runKeeps_pure | apply runKeeps_getS | apply runKeeps_bind
                            | apply runKeeps_ite | apply runKeeps_foldlM | apply runAt_set | apply runAt_set_end | apply
                            runAt_ite)
    | (with_reducible refine keeps_fst (by with_reducible assumption) ?_)
    | extract_lets
    | split
    | dsimp only
    | (with_reducible first | apply keeps_mk | apply keeps_audit | apply keeps_fabric)
    | (with_reducible apply runAt_of)

theorem beginOp_keeps (x1 : Task) (x2 : ColParams) (x3 : State → List Packet) : RunKeeps (beginOp x1 x2 x3) := by
  unfold beginOp
  repeat' first
    | (with_reducible first | assumption | intro _ | apply getS_keeps | apply modS_keeps | apply
                            violation_keeps | apply stop_keeps | apply startOp_keeps | apply keeps_ite | apply keeps_foldl |
                            apply runKeeps_pure | apply runKeeps_getS | apply runKeeps_bind | apply runKeeps_ite | apply
                            runKeeps_foldlM | apply runAt_set | apply runAt_set_end | apply runAt_ite)
    | extract_lets
    | split
    | dsimp only
    | (with_reducible first | apply keeps_mk | apply keeps_audit | apply keeps_fabric)
    | (with_reducible apply runAt_of)

theorem sendBody_keeps (x1 : Env) (x2 : Task) : RunKeeps (sendBody x1 x2) := by
  unfold sendBody
  repeat' first
    | (with_reducible first | assumption | intro _ | apply inTensor_keeps | apply sendTile_keeps |
                            apply beginOp_keeps | apply opsSettled_keeps | apply modS_keeps | apply closeOps_keeps | apply
                            keeps_ite | apply keeps_foldl | apply keeps_ite_fst | apply keeps_foldl_fst | apply
                            keeps_foldl_snd | apply runKeeps_pure | apply runKeeps_getS | apply runKeeps_bind | apply
                            runKeeps_ite | apply runKeeps_foldlM | apply runAt_set | apply runAt_set_end | apply runAt_ite)
    | extract_lets
    | split
    | dsimp only
    | (with_reducible first | apply keeps_mk | apply keeps_audit | apply keeps_fabric)
    | (with_reducible apply runAt_of)

theorem fetchBody_keeps (x1 : Task) : RunKeeps (fetchBody x1) := by
  unfold fetchBody
  repeat' first
    | (with_reducible first | assumption | intro _ | apply outTensor_keeps | apply beginOp_keeps |
                            apply opsSettled_keeps | apply modS_keeps | apply noteOut_keeps | apply closeOps_keeps | apply
                            keeps_ite | apply keeps_foldl | apply runKeeps_pure | apply runKeeps_getS | apply runKeeps_bind
                            | apply runKeeps_ite | apply runKeeps_foldlM | apply runAt_set | apply runAt_set_end | apply
                            runAt_ite)
    | extract_lets
    | split
    | dsimp only
    | (with_reducible first | apply keeps_mk | apply keeps_audit | apply keeps_fabric)
    | (with_reducible apply runAt_of)

/-! ### Machine/CopyRuns.lean -/

theorem addCounter_keeps {b : Bool} {s0 s : State} (x1 : Nat) (x2 : Nat) (x3 : Nat) (h : Keeps b s0 s) :
    Keeps b s0 (addCounter x1 x2 x3 s) := by
  unfold addCounter
  repeat' first
    | (with_reducible first | assumption | intro _ | apply keeps_ite | apply keeps_foldl)
    | (with_reducible refine writeVa_keeps ?_ (by with_reducible assumption))
    | split
    | dsimp only
    | (with_reducible first | apply keeps_mk | apply keeps_audit | apply keeps_fabric)

theorem copyTile_keeps (x1 : Env) (x2 : Task) (x3 : TileLoc) (x4 : Nat) : RunKeeps (copyTile x1 x2 x3 x4) := by
  unfold copyTile
  repeat' first
    | (with_reducible first | assumption | intro _ | apply getS_keeps | apply loadTile_keeps | apply
                            modS_keeps | apply stopMem_keeps | apply raiseChecksum_keeps | apply stop_keeps | apply
                            keeps_ite | apply keeps_foldl | apply runKeeps_pure | apply runKeeps_getS | apply runKeeps_bind
                            | apply runKeeps_ite | apply runKeeps_foldlM | apply runAt_set | apply runAt_set_end | apply
                            runAt_ite)
    | (with_reducible refine keeps_fst (by with_reducible assumption) ?_)
    | extract_lets
    | split
    | dsimp only
    | (with_reducible first | apply keeps_mk | apply keeps_audit | apply keeps_fabric)
    | (with_reducible apply runAt_of)

theorem copyBody_keeps (x1 : Env) (x2 : Task) : RunKeeps (copyBody x1 x2) := by
  unfold copyBody
  repeat' first
    | (with_reducible first | assumption | intro _ | apply getS_keeps | apply inTensor_keeps | apply
                            outTensor_keeps | apply stop_keeps | apply copyTile_keeps | apply modS_keeps | apply
                            stopMem_keeps | apply noteOut_keeps | apply keeps_ite | apply keeps_foldl | apply keeps_ite_fst
                            | apply keeps_foldl_fst | apply keeps_foldl_snd | apply runKeeps_pure | apply runKeeps_getS |
                            apply runKeeps_bind | apply runKeeps_ite | apply runKeeps_foldlM | apply runAt_set | apply
                            runAt_set_end | apply runAt_ite)
    | (with_reducible refine storeTile_keeps ?_ (by with_reducible assumption))
    | extract_lets
    | split
    | dsimp only
    | (with_reducible first | apply keeps_mk | apply keeps_audit | apply keeps_fabric)
    | (with_reducible apply runAt_of)

theorem eventBody_keeps (x1 : Task) : RunKeeps (eventBody x1) := by
  unfold eventBody
  repeat' first
    | (with_reducible first | assumption | intro _ | apply modS_keeps | apply raise_keeps | apply
                            keeps_ite | apply keeps_foldl | apply runKeeps_pure | apply runKeeps_getS | apply runKeeps_bind
                            | apply runKeeps_ite | apply runKeeps_foldlM | apply runAt_set | apply runAt_set_end | apply
                            runAt_ite)
    | extract_lets
    | split
    | dsimp only
    | (with_reducible first | apply keeps_mk | apply keeps_audit | apply keeps_fabric)
    | (with_reducible apply runAt_of)

theorem waitBody_keeps (x1 : Byte) (x2 : Task) : RunKeeps (waitBody x1 x2) := by
  unfold waitBody
  repeat' first
    | (with_reducible first | assumption | intro _ | apply keeps_ite | apply keeps_foldl | apply
                            runKeeps_pure | apply runKeeps_getS | apply runKeeps_bind | apply runKeeps_ite | apply
                            runKeeps_foldlM | apply runAt_set | apply runAt_set_end | apply runAt_ite)
    | extract_lets
    | split
    | dsimp only
    | (with_reducible first | apply keeps_mk | apply keeps_audit | apply keeps_fabric)
    | (with_reducible apply runAt_of)

/-! ### Machine/Widen.lean -/

theorem opTensor_keeps (x1 : Task) (x2 : Slot) : RunKeeps (opTensor x1 x2) := by
  unfold opTensor
  repeat' first
    | (with_reducible first | assumption | intro _ | apply getS_keeps | apply inTensor_keeps | apply
                            keeps_ite | apply keeps_foldl | apply runKeeps_pure | apply runKeeps_getS | apply runKeeps_bind
                            | apply runKeeps_ite | apply runKeeps_foldlM | apply runAt_set | apply runAt_set_end | apply
                            runAt_ite)
    | extract_lets
    | split
    | dsimp only
    | (with_reducible first | apply keeps_mk | apply keeps_audit | apply keeps_fabric)
    | (with_reducible apply runAt_of)

/-! ### Machine/Products.lean -/

theorem loadSide_keeps (x1 : Env) (x2 : Task) (x3 : Nat) (x4 : Nat) (x5 : Nat) (x6 : Nat) (x7 : Nat) : RunKeeps
    (loadSide x1 x2 x3 x4 x5 x6 x7) := by
  unfold loadSide
  repeat' first
    | (with_reducible first | assumption | intro _ | apply opTensor_keeps | apply readTile_keeps |
                            apply keeps_ite | apply keeps_foldl | apply keeps_ite_fst | apply keeps_foldl_fst | apply
                            keeps_foldl_snd | apply runKeeps_pure | apply runKeeps_getS | apply runKeeps_bind | apply
                            runKeeps_ite | apply runKeeps_foldlM | apply runAt_set | apply runAt_set_end | apply runAt_ite)
    | extract_lets
    | split
    | dsimp only
    | (with_reducible first | apply keeps_mk | apply keeps_audit | apply keeps_fabric)
    | (with_reducible apply runAt_of)

theorem disarm_keeps {b : Bool} {s0 s : State} (x1 : Nat) (h : Keeps b s0 s) :
    Keeps b s0 (disarm x1 s) := by
  unfold disarm
  repeat' first
    | (with_reducible first | assumption | intro _ | apply State_setClus_keeps | apply keeps_ite | apply keeps_foldl)
    | split
    | dsimp only
    | (with_reducible first | apply keeps_mk | apply keeps_audit | apply keeps_fabric)

theorem takeInjection_keeps (x1 : Nat) (x2 : Nat × Nat × Int → Bool) : RunKeeps (takeInjection x1 x2) := by
  unfold takeInjection
  repeat' first
    | (with_reducible first | assumption | intro _ | apply getS_keeps | apply modS_keeps | apply
                            disarm_keeps | apply keeps_ite | apply keeps_foldl | apply runKeeps_pure | apply runKeeps_getS |
                            apply runKeeps_bind | apply runKeeps_ite | apply runKeeps_foldlM | apply runAt_set | apply
                            runAt_set_end | apply runAt_ite)
    | extract_lets
    | split
    | dsimp only
    | (with_reducible first | apply keeps_mk | apply keeps_audit | apply keeps_fabric)
    | (with_reducible apply runAt_of)

theorem stopAbft_keeps {α : Type} (x1 : Task) (x2 : Nat) (x3 : Nat) (x4 : Nat) (x5 : Mismatch) (x6 : Int) (x7 : Int) :
    RunKeeps (stopAbft (α := α) x1 x2 x3 x4 x5 x6 x7) := by
  unfold stopAbft
  repeat' first
    | (with_reducible first | assumption | intro _ | apply modS_keeps | apply count_keeps | apply
                            State_setReg64_keeps | apply State_setReg_keeps | apply raiseWho_keeps | apply
                            startDecision_keeps | apply stop_keeps | apply keeps_ite | apply keeps_foldl | apply
                            runKeeps_pure | apply runKeeps_getS | apply runKeeps_bind | apply runKeeps_ite | apply
                            runKeeps_foldlM | apply runAt_set | apply runAt_set_end | apply runAt_ite)
    | extract_lets
    | split
    | dsimp only
    | (with_reducible first | apply keeps_mk | apply keeps_audit | apply keeps_fabric)
    | (with_reducible apply runAt_of)

theorem checkArray_keeps (x1 : Env) (x2 : Option (Nat × Nat × Int)) (x3 : Task) (x4 : AccParams) (x5 : Opnd) (x6 : Opnd)
    (x7 : Nat) (x8 : Nat) : RunKeeps (checkArray x1 x2 x3 x4 x5 x6 x7 x8) := by
  unfold checkArray
  repeat' first
    | (with_reducible first | assumption | intro _ | apply stopAbft_keeps | apply keeps_ite | apply
                            keeps_foldl | apply keeps_ite_fst | apply keeps_foldl_fst | apply keeps_foldl_snd | apply
                            runKeeps_pure | apply runKeeps_getS | apply runKeeps_bind | apply runKeeps_ite | apply
                            runKeeps_foldlM | apply runAt_set | apply runAt_set_end | apply runAt_ite)
    | extract_lets
    | split
    | dsimp only
    | (with_reducible first | apply keeps_mk | apply keeps_audit | apply keeps_fabric)
    | (with_reducible apply runAt_of)

theorem checkMvp_keeps (x1 : Env) (x2 : Option (Nat × Nat × Int)) (x3 : Task) (x4 : AccParams) (x5 x6 : Opnd) (x7 x8 : Nat) :
    RunKeeps (checkMvp x1 x2 x3 x4 x5 x6 x7 x8) := by
  unfold checkMvp
  refine runKeeps_foldlM (fun _ g => ?_) _ _
  dsimp only
  split
  · exact runKeeps_pure _
  · exact stopAbft_keeps _ _ _ _ _ _ _

theorem productBody_keeps (x1 : Bool) (x2 : Env) (x3 : Task) : RunKeeps (productBody x1 x2 x3) := by
  unfold productBody
  extract_lets
  refine runKeeps_bind (outTensor_keeps _ _ _ _ _) fun o => runKeeps_bind (opTensor_keeps _ _) fun x0 => ?_
  extract_lets
  split
  refine runKeeps_bind (loadSide_keeps _ _ _ _ _ _ _) fun first => runKeeps_bind (loadSide_keeps _ _ _ _ _ _ _) fun second => ?_
  refine runKeeps_bind getS_keeps fun s => ?_
  refine runKeeps_bind (takeInjection_keeps _ _) fun inj => ?_
  repeat' first
    | (with_reducible first | assumption | intro _ | apply checkMvp_keeps | apply checkArray_keeps | apply runKeeps_pure
                            | apply writeLong_keeps | apply withRecords_keeps | apply modS_keeps | apply count_keeps
                            | apply State_setClus_keeps | apply runKeeps_bind | apply runKeeps_ite)
    | split
    | dsimp only

/-! ### Machine/VectorRuns.lean -/

theorem vectorInputs_keeps (x1 : Env) (x2 : Task) : RunKeeps (vectorInputs x1 x2) := by
  unfold vectorInputs
  repeat' first
    | (with_reducible first | assumption | intro _ | apply readIn_keeps | apply keeps_ite | apply
                            keeps_foldl | apply keeps_ite_fst | apply keeps_foldl_fst | apply keeps_foldl_snd | apply
                            runKeeps_pure | apply runKeeps_getS | apply runKeeps_bind | apply runKeeps_ite | apply
                            runKeeps_foldlM | apply runAt_set | apply runAt_set_end | apply runAt_ite)
    | extract_lets
    | split
    | dsimp only
    | (with_reducible first | apply keeps_mk | apply keeps_audit | apply keeps_fabric)
    | (with_reducible apply runAt_of)

theorem reportChecks_keeps {b : Bool} {s0 s : State} (x1 : Task) (x2 : List VCheck) (h : Keeps b s0 s) :
    Keeps b s0 (reportChecks x1 x2 s) := by
  unfold reportChecks
  repeat' first
    | (with_reducible first | assumption | intro _ | apply raisePlaus_keeps | apply
                            startDecision_keeps | apply keeps_ite | apply keeps_foldl)
    | split
    | dsimp only
    | (with_reducible first | apply keeps_mk | apply keeps_audit | apply keeps_fabric)

theorem vectorBody_keeps (x1 : Env) (x2 : Task) : RunKeeps (vectorBody x1 x2) := by
  unfold vectorBody
  repeat' first
    | (with_reducible first | assumption | intro _ | apply outTensor_keeps | apply
                            vectorInputs_keeps | apply getS_keeps | apply writeLong_keeps | apply modS_keeps | apply
                            reportChecks_keeps | apply withRecords_keeps | apply keeps_ite | apply keeps_foldl | apply
                            runKeeps_pure | apply runKeeps_getS | apply runKeeps_bind | apply runKeeps_ite | apply
                            runKeeps_foldlM | apply runAt_set | apply runAt_set_end | apply runAt_ite)
    | extract_lets
    | split
    | dsimp only
    | (with_reducible first | apply keeps_mk | apply keeps_audit | apply keeps_fabric)
    | (with_reducible apply runAt_of)

/-! ### Machine/OptimRuns.lean -/

theorem optIn_keeps (x1 : Env) (x2 : Task) (x3 : Slot) : RunKeeps (optIn x1 x2 x3) := by
  unfold optIn
  repeat' first
    | (with_reducible first | assumption | intro _ | apply readIn_keeps | apply keeps_ite | apply
                            keeps_foldl | apply runKeeps_pure | apply runKeeps_getS | apply runKeeps_bind | apply
                            runKeeps_ite | apply runKeeps_foldlM | apply runAt_set | apply runAt_set_end | apply runAt_ite)
    | extract_lets
    | split
    | dsimp only
    | (with_reducible first | apply keeps_mk | apply keeps_audit | apply keeps_fabric)
    | (with_reducible apply runAt_of)

theorem optInQ_keeps (x1 : Env) (x2 : Task) (x3 : Slot) : RunKeeps (optIn? x1 x2 x3) := by
  unfold optIn?
  repeat' first
    | (with_reducible first | assumption | intro _ | apply optIn_keeps | apply keeps_ite | apply
                            keeps_foldl | apply runKeeps_pure | apply runKeeps_getS | apply runKeeps_bind | apply
                            runKeeps_ite | apply runKeeps_foldlM | apply runAt_set | apply runAt_set_end | apply runAt_ite)
    | extract_lets
    | split
    | dsimp only
    | (with_reducible first | apply keeps_mk | apply keeps_audit | apply keeps_fabric)
    | (with_reducible apply runAt_of)

theorem optWrite_keeps (x1 : Env) (x2 : Task) (x3 : Slot) (x4 : List TileImg) : RunKeeps (optWrite x1 x2 x3 x4) := by
  unfold optWrite
  repeat' first
    | (with_reducible first | assumption | intro _ | apply outTensor_keeps | apply writeTiles_keeps
                            | apply modS_keeps | apply noteOut_keeps | apply keeps_ite | apply keeps_foldl | apply
                            runKeeps_pure | apply runKeeps_getS | apply runKeeps_bind | apply runKeeps_ite | apply
                            runKeeps_foldlM | apply runAt_set | apply runAt_set_end | apply runAt_ite)
    | extract_lets
    | split
    | dsimp only
    | (with_reducible first | apply keeps_mk | apply keeps_audit | apply keeps_fabric)
    | (with_reducible apply runAt_of)

theorem compressBody_keeps (x1 : Env) (x2 : Task) : RunKeeps (compressBody x1 x2) := by
  unfold compressBody
  repeat' first
    | (with_reducible first | assumption | intro _ | apply optIn_keeps | apply outTensor_keeps |
                            apply getS_keeps | apply slotEntry_keeps | apply optWrite_keeps | apply withRecords_keeps |
                            apply optInQ_keeps | apply keeps_ite | apply keeps_foldl | apply runKeeps_pure | apply
                            runKeeps_getS | apply runKeeps_bind | apply runKeeps_ite | apply runKeeps_foldlM | apply
                            runAt_set | apply runAt_set_end | apply runAt_ite)
    | extract_lets
    | split
    | dsimp only
    | (with_reducible first | apply keeps_mk | apply keeps_audit | apply keeps_fabric)
    | (with_reducible apply runAt_of)

theorem normBody_keeps (x1 : Env) (x2 : Task) : RunKeeps (normBody x1 x2) := by
  unfold normBody
  repeat' first
    | (with_reducible first | assumption | intro _ | apply optIn_keeps | apply optInQ_keeps | apply
                            optWrite_keeps | apply withRecords_keeps | apply keeps_ite | apply keeps_foldl | apply
                            runKeeps_pure | apply runKeeps_getS | apply runKeeps_bind | apply runKeeps_ite | apply
                            runKeeps_foldlM | apply runAt_set | apply runAt_set_end | apply runAt_ite)
    | extract_lets
    | split
    | dsimp only
    | (with_reducible first | apply keeps_mk | apply keeps_audit | apply keeps_fabric)
    | (with_reducible apply runAt_of)

theorem writeCopy_keeps (x1 : Env) (x2 : Task) (x3 : Slot) (x4 : Slot) (x5 : Bytes) (x6 : Bool) (x7 : Nat) (x8 : Mat)
    (x9 : Nat) (x10 : Nat) (x11 : CopyOut) : RunKeeps (writeCopy x1 x2 x3 x4 x5 x6 x7 x8 x9 x10 x11) := by
  unfold writeCopy
  repeat' first
    | (with_reducible first | assumption | intro _ | apply outTensor_keeps | apply slotEntry_keeps |
                            apply getS_keeps | apply optWrite_keeps | apply modS_keeps | apply State_setCtx_keeps | apply
                            keeps_ite | apply keeps_foldl | apply runKeeps_pure | apply runKeeps_getS | apply runKeeps_bind
                            | apply runKeeps_ite | apply runKeeps_foldlM | apply runAt_set | apply runAt_set_end | apply
                            runAt_ite)
    | extract_lets
    | split
    | dsimp only
    | (with_reducible first | apply keeps_mk | apply keeps_audit | apply keeps_fabric)
    | (with_reducible apply runAt_of)

theorem writeCopies_keeps (x1 : Env) (x2 : Task) (x3 : Nat) (x4 : Mat) (x5 : Nat) (x6 : Nat) : RunKeeps (writeCopies x1
    x2 x3 x4 x5 x6) := by
  unfold writeCopies
  repeat' first
    | (with_reducible first | assumption | intro _ | apply writeCopy_keeps | apply keeps_ite | apply
                            keeps_foldl | apply runKeeps_pure | apply runKeeps_getS | apply runKeeps_bind | apply
                            runKeeps_ite | apply runKeeps_foldlM | apply runAt_set | apply runAt_set_end | apply runAt_ite)
    | extract_lets
    | split
    | dsimp only
    | (with_reducible first | apply keeps_mk | apply keeps_audit | apply keeps_fabric)
    | (with_reducible apply runAt_of)

theorem requantBody_keeps (x1 : Env) (x2 : Task) : RunKeeps (requantBody x1 x2) := by
  unfold requantBody
  repeat' first
    | (with_reducible first | assumption | intro _ | apply optIn_keeps | apply writeCopies_keeps |
                            apply withRecords_keeps | apply keeps_ite | apply keeps_foldl | apply runKeeps_pure | apply
                            runKeeps_getS | apply runKeeps_bind | apply runKeeps_ite | apply runKeeps_foldlM | apply
                            runAt_set | apply runAt_set_end | apply runAt_ite)
    | extract_lets
    | split
    | dsimp only
    | (with_reducible first | apply keeps_mk | apply keeps_audit | apply keeps_fabric)
    | (with_reducible apply runAt_of)

theorem writeMoment_keeps (x1 : Env) (x2 : Task) (x3 : Slot) (x4 : TensorIn) (x5 : Mat) (x6 : Nat) (x7 : Nat) (x8 : Nat
    → Nat → Bool) : RunKeeps (writeMoment x1 x2 x3 x4 x5 x6 x7 x8) := by
  unfold writeMoment
  repeat' first
    | (with_reducible first | assumption | intro _ | apply getS_keeps | apply optWrite_keeps | apply
                            keeps_ite | apply keeps_foldl | apply runKeeps_pure | apply runKeeps_getS | apply runKeeps_bind
                            | apply runKeeps_ite | apply runKeeps_foldlM | apply runAt_set | apply runAt_set_end | apply
                            runAt_ite)
    | extract_lets
    | split
    | dsimp only
    | (with_reducible first | apply keeps_mk | apply keeps_audit | apply keeps_fabric)
    | (with_reducible apply runAt_of)

theorem updateBody_keeps (x1 : Env) (x2 : Task) : RunKeeps (updateBody x1 x2) := by
  unfold updateBody
  repeat' first
    | (with_reducible first | assumption | intro _ | apply optIn_keeps | apply getS_keeps | apply
                            optWrite_keeps | apply writeMoment_keeps | apply writeCopies_keeps | apply withRecords_keeps |
                            apply optInQ_keeps | apply keeps_ite | apply keeps_foldl | apply keeps_ite_fst | apply
                            keeps_foldl_fst | apply keeps_foldl_snd | apply runKeeps_pure | apply runKeeps_getS | apply
                            runKeeps_bind | apply runKeeps_ite | apply runKeeps_foldlM | apply runAt_set | apply
                            runAt_set_end | apply runAt_ite)
    | extract_lets
    | split
    | dsimp only
    | (with_reducible first | apply keeps_mk | apply keeps_audit | apply keeps_fabric)
    | (with_reducible apply runAt_of)

/-! ### Machine/TaskKinds.lean -/

theorem execMatmul_keeps {b : Bool} {s0 s u : State} {x1 : TaskRef} {x2 : Env} (h : Keeps b s0 s)
    (e : execMatmul x1 x2 s = .next u) : Keeps b s0 u := by
  unfold execMatmul at e
  (repeat' split at e) <;> (injection e with e; subst e)
  all_goals
    repeat' first
      | (with_reducible first | assumption | intro _ | apply runTask_keeps | apply productBody_keeps
                              | apply keeps_ite | apply keeps_foldl | apply runKeeps_pure | apply runKeeps_getS | apply
                              runKeeps_bind | apply runKeeps_ite | apply runKeeps_foldlM | apply runAt_set | apply
                              runAt_set_end | apply runAt_ite)
      | (with_reducible refine keeps_run ?_ (by with_reducible assumption) ?_)
      | split
      | dsimp only
      | (with_reducible first | apply keeps_mk | apply keeps_audit | apply keeps_fabric)
      | (with_reducible apply runAt_of)

theorem execMatvec_keeps {b : Bool} {s0 s u : State} {x1 : TaskRef} {x2 : Env} (h : Keeps b s0 s)
    (e : execMatvec x1 x2 s = .next u) : Keeps b s0 u := by
  unfold execMatvec at e
  (repeat' split at e) <;> (injection e with e; subst e)
  all_goals
    repeat' first
      | (with_reducible first | assumption | intro _ | apply runTask_keeps | apply productBody_keeps
                              | apply keeps_ite | apply keeps_foldl | apply runKeeps_pure | apply runKeeps_getS | apply
                              runKeeps_bind | apply runKeeps_ite | apply runKeeps_foldlM | apply runAt_set | apply
                              runAt_set_end | apply runAt_ite)
      | (with_reducible refine keeps_run ?_ (by with_reducible assumption) ?_)
      | split
      | dsimp only
      | (with_reducible first | apply keeps_mk | apply keeps_audit | apply keeps_fabric)
      | (with_reducible apply runAt_of)

theorem execQuantize_keeps {b : Bool} {s0 s u : State} {x1 : TaskRef} {x2 : Env} (h : Keeps b s0 s)
    (e : execQuantize x1 x2 s = .next u) : Keeps b s0 u := by
  unfold execQuantize at e
  (injection e with e; subst e)
  all_goals
    repeat' first
      | (with_reducible first | assumption | intro _ | apply runTask_keeps | apply
                              quantizeBody_keeps | apply keeps_ite | apply keeps_foldl | apply runKeeps_pure | apply
                              runKeeps_getS | apply runKeeps_bind | apply runKeeps_ite | apply runKeeps_foldlM | apply
                              runAt_set | apply runAt_set_end | apply runAt_ite)
      | (with_reducible refine keeps_run ?_ (by with_reducible assumption) ?_)
      | split
      | dsimp only
      | (with_reducible first | apply keeps_mk | apply keeps_audit | apply keeps_fabric)
      | (with_reducible apply runAt_of)

theorem execOplist_keeps {b : Bool} {s0 s u : State} {x1 : TaskRef} {x2 : Env} (h : Keeps b s0 s)
    (e : execOplist x1 x2 s = .next u) : Keeps b s0 u := by
  unfold execOplist at e
  (injection e with e; subst e)
  all_goals
    repeat' first
      | (with_reducible first | assumption | intro _ | apply runTask_keeps | apply vectorBody_keeps
                              | apply keeps_ite | apply keeps_foldl | apply runKeeps_pure | apply runKeeps_getS | apply
                              runKeeps_bind | apply runKeeps_ite | apply runKeeps_foldlM | apply runAt_set | apply
                              runAt_set_end | apply runAt_ite)
      | (with_reducible refine keeps_run ?_ (by with_reducible assumption) ?_)
      | split
      | dsimp only
      | (with_reducible first | apply keeps_mk | apply keeps_audit | apply keeps_fabric)
      | (with_reducible apply runAt_of)

theorem execRmsnormFwd_keeps {b : Bool} {s0 s u : State} {x1 : TaskRef} {x2 : Env} (h : Keeps b s0 s)
    (e : execRmsnormFwd x1 x2 s = .next u) : Keeps b s0 u := by
  unfold execRmsnormFwd at e
  (injection e with e; subst e)
  all_goals
    repeat' first
      | (with_reducible first | assumption | intro _ | apply runTask_keeps | apply vectorBody_keeps
                              | apply keeps_ite | apply keeps_foldl | apply runKeeps_pure | apply runKeeps_getS | apply
                              runKeeps_bind | apply runKeeps_ite | apply runKeeps_foldlM | apply runAt_set | apply
                              runAt_set_end | apply runAt_ite)
      | (with_reducible refine keeps_run ?_ (by with_reducible assumption) ?_)
      | split
      | dsimp only
      | (with_reducible first | apply keeps_mk | apply keeps_audit | apply keeps_fabric)
      | (with_reducible apply runAt_of)

theorem execRmsnormBwd_keeps {b : Bool} {s0 s u : State} {x1 : TaskRef} {x2 : Env} (h : Keeps b s0 s)
    (e : execRmsnormBwd x1 x2 s = .next u) : Keeps b s0 u := by
  unfold execRmsnormBwd at e
  (injection e with e; subst e)
  all_goals
    repeat' first
      | (with_reducible first | assumption | intro _ | apply runTask_keeps | apply vectorBody_keeps
                              | apply keeps_ite | apply keeps_foldl | apply runKeeps_pure | apply runKeeps_getS | apply
                              runKeeps_bind | apply runKeeps_ite | apply runKeeps_foldlM | apply runAt_set | apply
                              runAt_set_end | apply runAt_ite)
      | (with_reducible refine keeps_run ?_ (by with_reducible assumption) ?_)
      | split
      | dsimp only
      | (with_reducible first | apply keeps_mk | apply keeps_audit | apply keeps_fabric)
      | (with_reducible apply runAt_of)

theorem execLayernormFwd_keeps {b : Bool} {s0 s u : State} {x1 : TaskRef} {x2 : Env} (h : Keeps b s0 s)
    (e : execLayernormFwd x1 x2 s = .next u) : Keeps b s0 u := by
  unfold execLayernormFwd at e
  (injection e with e; subst e)
  all_goals
    repeat' first
      | (with_reducible first | assumption | intro _ | apply runTask_keeps | apply vectorBody_keeps
                              | apply keeps_ite | apply keeps_foldl | apply runKeeps_pure | apply runKeeps_getS | apply
                              runKeeps_bind | apply runKeeps_ite | apply runKeeps_foldlM | apply runAt_set | apply
                              runAt_set_end | apply runAt_ite)
      | (with_reducible refine keeps_run ?_ (by with_reducible assumption) ?_)
      | split
      | dsimp only
      | (with_reducible first | apply keeps_mk | apply keeps_audit | apply keeps_fabric)
      | (with_reducible apply runAt_of)

theorem execLayernormBwd_keeps {b : Bool} {s0 s u : State} {x1 : TaskRef} {x2 : Env} (h : Keeps b s0 s)
    (e : execLayernormBwd x1 x2 s = .next u) : Keeps b s0 u := by
  unfold execLayernormBwd at e
  (injection e with e; subst e)
  all_goals
    repeat' first
      | (with_reducible first | assumption | intro _ | apply runTask_keeps | apply vectorBody_keeps
                              | apply keeps_ite | apply keeps_foldl | apply runKeeps_pure | apply runKeeps_getS | apply
                              runKeeps_bind | apply runKeeps_ite | apply runKeeps_foldlM | apply runAt_set | apply
                              runAt_set_end | apply runAt_ite)
      | (with_reducible refine keeps_run ?_ (by with_reducible assumption) ?_)
      | split
      | dsimp only
      | (with_reducible first | apply keeps_mk | apply keeps_audit | apply keeps_fabric)
      | (with_reducible apply runAt_of)

theorem execSoftmaxFwd_keeps {b : Bool} {s0 s u : State} {x1 : TaskRef} {x2 : Env} (h : Keeps b s0 s)
    (e : execSoftmaxFwd x1 x2 s = .next u) : Keeps b s0 u := by
  unfold execSoftmaxFwd at e
  (injection e with e; subst e)
  all_goals
    repeat' first
      | (with_reducible first | assumption | intro _ | apply runTask_keeps | apply vectorBody_keeps
                              | apply keeps_ite | apply keeps_foldl | apply runKeeps_pure | apply runKeeps_getS | apply
                              runKeeps_bind | apply runKeeps_ite | apply runKeeps_foldlM | apply runAt_set | apply
                              runAt_set_end | apply runAt_ite)
      | (with_reducible refine keeps_run ?_ (by with_reducible assumption) ?_)
      | split
      | dsimp only
      | (with_reducible first | apply keeps_mk | apply keeps_audit | apply keeps_fabric)
      | (with_reducible apply runAt_of)

theorem execSoftmaxBwd_keeps {b : Bool} {s0 s u : State} {x1 : TaskRef} {x2 : Env} (h : Keeps b s0 s)
    (e : execSoftmaxBwd x1 x2 s = .next u) : Keeps b s0 u := by
  unfold execSoftmaxBwd at e
  (injection e with e; subst e)
  all_goals
    repeat' first
      | (with_reducible first | assumption | intro _ | apply runTask_keeps | apply vectorBody_keeps
                              | apply keeps_ite | apply keeps_foldl | apply runKeeps_pure | apply runKeeps_getS | apply
                              runKeeps_bind | apply runKeeps_ite | apply runKeeps_foldlM | apply runAt_set | apply
                              runAt_set_end | apply runAt_ite)
      | (with_reducible refine keeps_run ?_ (by with_reducible assumption) ?_)
      | split
      | dsimp only
      | (with_reducible first | apply keeps_mk | apply keeps_audit | apply keeps_fabric)
      | (with_reducible apply runAt_of)

theorem execCompress_keeps {b : Bool} {s0 s u : State} {x1 : TaskRef} {x2 : Env} (h : Keeps b s0 s)
    (e : execCompress x1 x2 s = .next u) : Keeps b s0 u := by
  unfold execCompress at e
  (injection e with e; subst e)
  all_goals
    repeat' first
      | (with_reducible first | assumption | intro _ | apply runTask_keeps | apply
                              compressBody_keeps | apply keeps_ite | apply keeps_foldl | apply runKeeps_pure | apply
                              runKeeps_getS | apply runKeeps_bind | apply runKeeps_ite | apply runKeeps_foldlM | apply
                              runAt_set | apply runAt_set_end | apply runAt_ite)
      | (with_reducible refine keeps_run ?_ (by with_reducible assumption) ?_)
      | split
      | dsimp only
      | (with_reducible first | apply keeps_mk | apply keeps_audit | apply keeps_fabric)
      | (with_reducible apply runAt_of)

theorem execNorm_keeps {b : Bool} {s0 s u : State} {x1 : TaskRef} {x2 : Env} (h : Keeps b s0 s)
    (e : execNorm x1 x2 s = .next u) : Keeps b s0 u := by
  unfold execNorm at e
  (injection e with e; subst e)
  all_goals
    repeat' first
      | (with_reducible first | assumption | intro _ | apply runTask_keeps | apply normBody_keeps |
                              apply keeps_ite | apply keeps_foldl | apply runKeeps_pure | apply runKeeps_getS | apply
                              runKeeps_bind | apply runKeeps_ite | apply runKeeps_foldlM | apply runAt_set | apply
                              runAt_set_end | apply runAt_ite)
      | (with_reducible refine keeps_run ?_ (by with_reducible assumption) ?_)
      | split
      | dsimp only
      | (with_reducible first | apply keeps_mk | apply keeps_audit | apply keeps_fabric)
      | (with_reducible apply runAt_of)

theorem execUpdate_keeps {b : Bool} {s0 s u : State} {x1 : TaskRef} {x2 : Env} (h : Keeps b s0 s)
    (e : execUpdate x1 x2 s = .next u) : Keeps b s0 u := by
  unfold execUpdate at e
  (injection e with e; subst e)
  all_goals
    repeat' first
      | (with_reducible first | assumption | intro _ | apply runTask_keeps | apply updateBody_keeps
                              | apply keeps_ite | apply keeps_foldl | apply runKeeps_pure | apply runKeeps_getS | apply
                              runKeeps_bind | apply runKeeps_ite | apply runKeeps_foldlM | apply runAt_set | apply
                              runAt_set_end | apply runAt_ite)
      | (with_reducible refine keeps_run ?_ (by with_reducible assumption) ?_)
      | split
      | dsimp only
      | (with_reducible first | apply keeps_mk | apply keeps_audit | apply keeps_fabric)
      | (with_reducible apply runAt_of)

theorem execRequant_keeps {b : Bool} {s0 s u : State} {x1 : TaskRef} {x2 : Env} (h : Keeps b s0 s)
    (e : execRequant x1 x2 s = .next u) : Keeps b s0 u := by
  unfold execRequant at e
  (injection e with e; subst e)
  all_goals
    repeat' first
      | (with_reducible first | assumption | intro _ | apply runTask_keeps | apply requantBody_keeps
                              | apply keeps_ite | apply keeps_foldl | apply runKeeps_pure | apply runKeeps_getS | apply
                              runKeeps_bind | apply runKeeps_ite | apply runKeeps_foldlM | apply runAt_set | apply
                              runAt_set_end | apply runAt_ite)
      | (with_reducible refine keeps_run ?_ (by with_reducible assumption) ?_)
      | split
      | dsimp only
      | (with_reducible first | apply keeps_mk | apply keeps_audit | apply keeps_fabric)
      | (with_reducible apply runAt_of)

theorem execAllReduce_keeps {b : Bool} {s0 s u : State} {x1 : TaskRef} {x2 : Env} (h : Keeps b s0 s)
    (e : execAllReduce x1 x2 s = .next u) : Keeps b s0 u := by
  unfold execAllReduce at e
  (injection e with e; subst e)
  all_goals
    repeat' first
      | (with_reducible first | assumption | intro _ | apply runWait_keeps | apply groupBody_keeps |
                              apply keeps_ite | apply keeps_foldl | apply runKeeps_pure | apply runKeeps_getS | apply
                              runKeeps_bind | apply runKeeps_ite | apply runKeeps_foldlM | apply runAt_set | apply
                              runAt_set_end | apply runAt_ite)
      | (with_reducible refine keeps_run ?_ (by with_reducible assumption) ?_)
      | split
      | dsimp only
      | (with_reducible first | apply keeps_mk | apply keeps_audit | apply keeps_fabric)
      | (with_reducible apply runAt_of)

theorem execReduceScatter_keeps {b : Bool} {s0 s u : State} {x1 : TaskRef} {x2 : Env} (h : Keeps b s0 s)
    (e : execReduceScatter x1 x2 s = .next u) : Keeps b s0 u := by
  unfold execReduceScatter at e
  (injection e with e; subst e)
  all_goals
    repeat' first
      | (with_reducible first | assumption | intro _ | apply runWait_keeps | apply groupBody_keeps |
                              apply keeps_ite | apply keeps_foldl | apply runKeeps_pure | apply runKeeps_getS | apply
                              runKeeps_bind | apply runKeeps_ite | apply runKeeps_foldlM | apply runAt_set | apply
                              runAt_set_end | apply runAt_ite)
      | (with_reducible refine keeps_run ?_ (by with_reducible assumption) ?_)
      | split
      | dsimp only
      | (with_reducible first | apply keeps_mk | apply keeps_audit | apply keeps_fabric)
      | (with_reducible apply runAt_of)

theorem execAllGather_keeps {b : Bool} {s0 s u : State} {x1 : TaskRef} {x2 : Env} (h : Keeps b s0 s)
    (e : execAllGather x1 x2 s = .next u) : Keeps b s0 u := by
  unfold execAllGather at e
  (injection e with e; subst e)
  all_goals
    repeat' first
      | (with_reducible first | assumption | intro _ | apply runWait_keeps | apply groupBody_keeps |
                              apply keeps_ite | apply keeps_foldl | apply runKeeps_pure | apply runKeeps_getS | apply
                              runKeeps_bind | apply runKeeps_ite | apply runKeeps_foldlM | apply runAt_set | apply
                              runAt_set_end | apply runAt_ite)
      | (with_reducible refine keeps_run ?_ (by with_reducible assumption) ?_)
      | split
      | dsimp only
      | (with_reducible first | apply keeps_mk | apply keeps_audit | apply keeps_fabric)
      | (with_reducible apply runAt_of)

theorem execBroadcast_keeps {b : Bool} {s0 s u : State} {x1 : TaskRef} {x2 : Env} (h : Keeps b s0 s)
    (e : execBroadcast x1 x2 s = .next u) : Keeps b s0 u := by
  unfold execBroadcast at e
  (injection e with e; subst e)
  all_goals
    repeat' first
      | (with_reducible first | assumption | intro _ | apply runWait_keeps | apply groupBody_keeps |
                              apply keeps_ite | apply keeps_foldl | apply runKeeps_pure | apply runKeeps_getS | apply
                              runKeeps_bind | apply runKeeps_ite | apply runKeeps_foldlM | apply runAt_set | apply
                              runAt_set_end | apply runAt_ite)
      | (with_reducible refine keeps_run ?_ (by with_reducible assumption) ?_)
      | split
      | dsimp only
      | (with_reducible first | apply keeps_mk | apply keeps_audit | apply keeps_fabric)
      | (with_reducible apply runAt_of)

theorem execAllToAll_keeps {b : Bool} {s0 s u : State} {x1 : TaskRef} {x2 : Env} (h : Keeps b s0 s)
    (e : execAllToAll x1 x2 s = .next u) : Keeps b s0 u := by
  unfold execAllToAll at e
  (injection e with e; subst e)
  all_goals
    repeat' first
      | (with_reducible first | assumption | intro _ | apply runWait_keeps | apply groupBody_keeps |
                              apply keeps_ite | apply keeps_foldl | apply runKeeps_pure | apply runKeeps_getS | apply
                              runKeeps_bind | apply runKeeps_ite | apply runKeeps_foldlM | apply runAt_set | apply
                              runAt_set_end | apply runAt_ite)
      | (with_reducible refine keeps_run ?_ (by with_reducible assumption) ?_)
      | split
      | dsimp only
      | (with_reducible first | apply keeps_mk | apply keeps_audit | apply keeps_fabric)
      | (with_reducible apply runAt_of)

theorem execSend_keeps {b : Bool} {s0 s u : State} {x1 : TaskRef} {x2 : Env} (h : Keeps b s0 s)
    (e : execSend x1 x2 s = .next u) : Keeps b s0 u := by
  unfold execSend at e
  (injection e with e; subst e)
  all_goals
    repeat' first
      | (with_reducible first | assumption | intro _ | apply runWait_keeps | apply sendBody_keeps |
                              apply keeps_ite | apply keeps_foldl | apply runKeeps_pure | apply runKeeps_getS | apply
                              runKeeps_bind | apply runKeeps_ite | apply runKeeps_foldlM | apply runAt_set | apply
                              runAt_set_end | apply runAt_ite)
      | (with_reducible refine keeps_run ?_ (by with_reducible assumption) ?_)
      | split
      | dsimp only
      | (with_reducible first | apply keeps_mk | apply keeps_audit | apply keeps_fabric)
      | (with_reducible apply runAt_of)

theorem execFetch_keeps {b : Bool} {s0 s u : State} {x1 : TaskRef} {x2 : Env} (h : Keeps b s0 s)
    (e : execFetch x1 x2 s = .next u) : Keeps b s0 u := by
  unfold execFetch at e
  (injection e with e; subst e)
  all_goals
    repeat' first
      | (with_reducible first | assumption | intro _ | apply runWait_keeps | apply fetchBody_keeps |
                              apply keeps_ite | apply keeps_foldl | apply runKeeps_pure | apply runKeeps_getS | apply
                              runKeeps_bind | apply runKeeps_ite | apply runKeeps_foldlM | apply runAt_set | apply
                              runAt_set_end | apply runAt_ite)
      | (with_reducible refine keeps_run ?_ (by with_reducible assumption) ?_)
      | split
      | dsimp only
      | (with_reducible first | apply keeps_mk | apply keeps_audit | apply keeps_fabric)
      | (with_reducible apply runAt_of)

theorem execColWindowOpen_keeps {b : Bool} {s0 s u : State} {x1 : TaskRef} (h : Keeps b s0 s)
    (e : execColWindowOpen x1 s = .next u) : Keeps b s0 u := by
  unfold execColWindowOpen at e
  (injection e with e; subst e)
  all_goals
    repeat' first
      | (with_reducible first | assumption | intro _ | apply colWindowOpen_keeps | apply keeps_ite | apply keeps_foldl)
      | split
      | dsimp only
      | (with_reducible first | apply keeps_mk | apply keeps_audit | apply keeps_fabric)

theorem execCopy_keeps {b : Bool} {s0 s u : State} {x1 : TaskRef} {x2 : Env} (h : Keeps b s0 s)
    (e : execCopy x1 x2 s = .next u) : Keeps b s0 u := by
  unfold execCopy at e
  (injection e with e; subst e)
  all_goals
    repeat' first
      | (with_reducible first | assumption | intro _ | apply runTask_keeps | apply copyBody_keeps |
                              apply keeps_ite | apply keeps_foldl | apply runKeeps_pure | apply runKeeps_getS | apply
                              runKeeps_bind | apply runKeeps_ite | apply runKeeps_foldlM | apply runAt_set | apply
                              runAt_set_end | apply runAt_ite)
      | (with_reducible refine keeps_run ?_ (by with_reducible assumption) ?_)
      | split
      | dsimp only
      | (with_reducible first | apply keeps_mk | apply keeps_audit | apply keeps_fabric)
      | (with_reducible apply runAt_of)

theorem execEvent_keeps {b : Bool} {s0 s u : State} {x1 : TaskRef} (h : Keeps b s0 s)
    (e : execEvent x1 s = .next u) : Keeps b s0 u := by
  unfold execEvent at e
  (injection e with e; subst e)
  all_goals
    repeat' first
      | (with_reducible first | assumption | intro _ | apply runTask_keeps | apply eventBody_keeps |
                              apply keeps_ite | apply keeps_foldl | apply runKeeps_pure | apply runKeeps_getS | apply
                              runKeeps_bind | apply runKeeps_ite | apply runKeeps_foldlM | apply runAt_set | apply
                              runAt_set_end | apply runAt_ite)
      | (with_reducible refine keeps_run ?_ (by with_reducible assumption) ?_)
      | split
      | dsimp only
      | (with_reducible first | apply keeps_mk | apply keeps_audit | apply keeps_fabric)
      | (with_reducible apply runAt_of)

theorem execWaitCounter_keeps {b : Bool} {s0 s u : State} {x1 : TaskRef} (h : Keeps b s0 s)
    (e : execWaitCounter x1 s = .next u) : Keeps b s0 u := by
  unfold execWaitCounter at e
  (repeat' split at e) <;> (injection e with e; subst e)
  all_goals
    repeat' first
      | (with_reducible first | assumption | intro _ | apply runTask_keeps | apply waitBody_keeps |
                              apply keeps_ite | apply keeps_foldl | apply runKeeps_pure | apply runKeeps_getS | apply
                              runKeeps_bind | apply runKeeps_ite | apply runKeeps_foldlM | apply runAt_set | apply
                              runAt_set_end | apply runAt_ite)
      | (with_reducible refine keeps_run ?_ (by with_reducible assumption) ?_)
      | split
      | dsimp only
      | (with_reducible first | apply keeps_mk | apply keeps_audit | apply keeps_fabric)
      | (with_reducible apply runAt_of)

theorem execWaitTimeout_keeps {b : Bool} {s0 s u : State} {x1 : TaskRef} (h : Keeps b s0 s)
    (e : execWaitTimeout x1 s = .next u) : Keeps b s0 u := by
  unfold execWaitTimeout at e
  (repeat' split at e) <;> (injection e with e; subst e)
  all_goals
    repeat' first
      | (with_reducible first | assumption | intro _ | apply runTask_keeps | apply waitBody_keeps |
                              apply keeps_ite | apply keeps_foldl | apply runKeeps_pure | apply runKeeps_getS | apply
                              runKeeps_bind | apply runKeeps_ite | apply runKeeps_foldlM | apply runAt_set | apply
                              runAt_set_end | apply runAt_ite)
      | (with_reducible refine keeps_run ?_ (by with_reducible assumption) ?_)
      | split
      | dsimp only
      | (with_reducible first | apply keeps_mk | apply keeps_audit | apply keeps_fabric)
      | (with_reducible apply runAt_of)

theorem execWaitTime_keeps {b : Bool} {s0 s u : State} {x1 : TaskRef} (h : Keeps b s0 s)
    (e : execWaitTime x1 s = .next u) : Keeps b s0 u := by
  unfold execWaitTime at e
  (repeat' split at e) <;> (injection e with e; subst e)
  all_goals
    repeat' first
      | (with_reducible first | assumption | intro _ | apply runTask_keeps | apply waitBody_keeps |
                              apply keeps_ite | apply keeps_foldl | apply runKeeps_pure | apply runKeeps_getS | apply
                              runKeeps_bind | apply runKeeps_ite | apply runKeeps_foldlM | apply runAt_set | apply
                              runAt_set_end | apply runAt_ite)
      | (with_reducible refine keeps_run ?_ (by with_reducible assumption) ?_)
      | split
      | dsimp only
      | (with_reducible first | apply keeps_mk | apply keeps_audit | apply keeps_fabric)
      | (with_reducible apply runAt_of)

/-! ### Machine/Segments.lean -/

theorem takeSegment_keeps {b : Bool} {s0 s : State} (x1 : Nat) (x2 : Nat) (h : Keeps b s0 s) :
    Keeps b s0 (takeSegment x1 x2 s) := by
  unfold takeSegment
  repeat' first
    | (with_reducible first | assumption | intro _ | apply ringError_keeps | apply consume_keeps |
                            apply State_setRing_keeps | apply keeps_ite | apply keeps_foldl)
    | split
    | dsimp only
    | (with_reducible first | apply keeps_mk | apply keeps_audit | apply keeps_fabric)

theorem takeNop_keeps {b : Bool} {s0 s : State} (x1 : Nat) (x2 : Nat) (h : Keeps b s0 s) :
    Keeps b s0 (takeNop x1 x2 s) := by
  unfold takeNop
  repeat' first
    | (with_reducible first | assumption | intro _ | apply ringError_keeps | apply consume_keeps |
                            apply keeps_ite | apply keeps_foldl)
    | split
    | dsimp only
    | (with_reducible first | apply keeps_mk | apply keeps_audit | apply keeps_fabric)

theorem fetchBlock_keeps {b : Bool} {s0 s u : State} {x : Except ReadOut Bytes} {x1 : Env} {x2 : Nat} {x3 : Nat} {x4 :
    Nat} (h : Keeps b s0 s)
    (e : fetchBlock x1 x2 x3 x4 s = (x, u)) : Keeps b s0 u := by
  unfold fetchBlock at e
  (repeat' split at e) <;> (first | cases e | skip)
  all_goals
    repeat' first
      | (with_reducible first | assumption | intro _ | apply keeps_ite | apply keeps_foldl)
      | (with_reducible refine fetchVa_keeps ?_ (by with_reducible assumption))
      | split
      | dsimp only
      | (with_reducible first | apply keeps_mk | apply keeps_audit | apply keeps_fabric)

theorem readBlock_keeps {b : Bool} {s0 s u : State} {x : Except ReadOut Bytes} {x1 : Env} {x2 : Nat} {x3 : Nat} {x4 :
    Desc} (h : Keeps b s0 s)
    (e : readBlock x1 x2 x3 x4 s = (x, u)) : Keeps b s0 u := by
  unfold readBlock at e
  try dsimp only at e
  (repeat' split at e) <;> (first | cases e | skip)
  all_goals
    repeat' first
      | (with_reducible first | assumption | intro _ | apply keeps_ite | apply keeps_foldl)
      | (with_reducible refine fetchBlock_keeps ?_ (by with_reducible assumption))
      | split
      | dsimp only
      | (with_reducible first | apply keeps_mk | apply keeps_audit | apply keeps_fabric)

theorem readBlocks_keeps {b : Bool} {s0 s u : State} {x : ReadOut} {x1 : Env} {x2 x3 : Nat} {x4 : List Bytes} (h : Keeps b s0 s)
    (e : readBlocks x1 x2 x3 x4 s = (x, u)) : Keeps b s0 u := by
  induction x4 generalizing s x u with
  | nil => cases e; exact h
  | cons y t ih =>
    unfold readBlocks at e
    split at e
    · cases e; exact readBlock_keeps h (by assumption)
    · have h1 := readBlock_keeps h (by assumption)
      split at e <;> (cases e; exact ih h1 (by assumption))

theorem readLines_keeps {b : Bool} {s0 s u : State} {x : Except ReadOut (List Bytes)} {x1 : Env} {x2 : Nat} {x3 :
    SegDesc} {x4 : List Bytes} (h : Keeps b s0 s)
    (e : readLines x1 x2 x3 x4 s = (x, u)) : Keeps b s0 u := by
  unfold readLines at e
  (repeat' split at e) <;> (first | cases e | skip)
  all_goals
    repeat' first
      | (with_reducible first | assumption | intro _ | apply violation_keeps | apply keeps_ite | apply keeps_foldl)
      | (with_reducible refine fetchBlock_keeps ?_ (by with_reducible assumption))
      | split
      | dsimp only
      | (with_reducible first | apply keeps_mk | apply keeps_audit | apply keeps_fabric)

theorem readTable_keeps {b : Bool} {s0 s u : State} {x : ReadOut} {x1 : Env} {x2 : Nat} {x3 : SegDesc} {x4 : List Bytes}
    (h : Keeps b s0 s)
    (e : readTable x1 x2 x3 x4 s = (x, u)) : Keeps b s0 u := by
  unfold readTable at e
  (repeat' split at e) <;> (first | cases e | skip)
  all_goals
    repeat' first
      | (with_reducible first | assumption | intro _ | apply keeps_ite | apply keeps_foldl)
      | (with_reducible refine readLines_keeps ?_ (by with_reducible assumption))
      | (with_reducible refine readBlocks_keeps ?_ (by with_reducible assumption))
      | split
      | dsimp only
      | (with_reducible first | apply keeps_mk | apply keeps_audit | apply keeps_fabric)

theorem rejectSegment_keeps {b : Bool} {s0 s : State} (x1 : Nat) (x2 : Nat) (x3 : SegDesc) (x4 : Byte) (x5 : BitVec 16)
    (h : Keeps b s0 s) :
    Keeps b s0 (rejectSegment x1 x2 x3 x4 x5 s) := by
  unfold rejectSegment
  repeat' first
    | (with_reducible first | assumption | intro _ | apply segmentRecord_keeps | apply
                            State_setRing_keeps | apply keeps_ite | apply keeps_foldl)
    | split
    | dsimp only
    | (with_reducible first | apply keeps_mk | apply keeps_audit | apply keeps_fabric)

theorem cancelAdmitted_keeps {b : Bool} {s0 s : State} (x1 : Fin 64) (x2 : Fin 4) (x3 : Word) (h : Keeps b s0 s) :
    Keeps b s0 (cancelAdmitted x1 x2 x3 s) := by
  unfold cancelAdmitted
  repeat' first
    | (with_reducible first | assumption | intro _ | apply State_setRing_keeps | apply
                            endTasks_keeps | apply castLost_keeps | apply keeps_ite | apply keeps_foldl)
    | split
    | dsimp only
    | (with_reducible first | apply keeps_mk | apply keeps_audit | apply keeps_fabric)

theorem admitSegment_keeps {b : Bool} {s0 s : State} (x1 : Fin 64) (x2 : Fin 4) (x3 : Bytes) (x4 : List VTask) (h :
    Keeps b s0 s) :
    Keeps b s0 (admitSegment x1 x2 x3 x4 s) := by
  unfold admitSegment
  repeat' first
    | (with_reducible first | assumption | intro _ | apply cancelAdmitted_keeps | apply
                            State_setCtx_keeps | apply keeps_ite | apply keeps_foldl)
    | split
    | dsimp only
    | (with_reducible first | apply keeps_mk | apply keeps_audit | apply keeps_fabric)

theorem segmentValidate_keeps {b : Bool} {s0 s : State} (x1 : Fin 64) (x2 : Fin 4) (x3 : List Bytes) (x4 : Env) (h :
    Keeps b s0 s) :
    Keeps b s0 (segmentValidate x1 x2 x3 x4 s) := by
  unfold segmentValidate
  repeat' first
    | (with_reducible first | assumption | intro _ | apply rejectSegment_keeps | apply killCtx_keeps
                            | apply raisePoisonConsumed_keeps | apply noteUe_keeps | apply admitSegment_keeps | apply
                            keeps_ite | apply keeps_foldl)
    | (with_reducible refine readTable_keeps ?_ (by with_reducible assumption))
    | split
    | dsimp only
    | (with_reducible first | apply keeps_mk | apply keeps_audit | apply keeps_fabric)

theorem sqResume_keeps {b : Bool} {s0 s : State} (x1 : Nat) (h : Keeps b s0 s) :
    Keeps b s0 (sqResume x1 s) := by
  unfold sqResume
  repeat' first
    | (with_reducible first | assumption | intro _ | apply readEntries_keeps | apply keeps_ite |
                            apply keeps_foldl | apply keeps_ite_fst | apply keeps_foldl_fst | apply keeps_foldl_snd)
    | split
    | dsimp only
    | (with_reducible first | apply keeps_mk | apply keeps_audit | apply keeps_fabric)

theorem endSegment_keeps {b : Bool} {s0 s : State} (x1 : Nat) (x2 : Segment) (x3 : Byte) (x4 : BitVec 16) (h : Keeps b s0 s) :
    Keeps b s0 (endSegment x1 x2 x3 x4 s) := by
  unfold endSegment
  repeat' first
    | (with_reducible first | assumption | intro _ | apply endTask_keeps | apply keeps_ite | apply
                            keeps_foldl | apply keeps_ite_fst | apply keeps_foldl_fst | apply keeps_foldl_snd)
    | split
    | dsimp only
    | (with_reducible first | apply keeps_mk | apply keeps_audit | apply keeps_fabric)

theorem predicateDecide_keeps {b : Bool} {s0 s : State} (x1 : Nat) (x2 : Fin 4) (x3 : Word) (h : Keeps b s0 s) :
    Keeps b s0 (predicateDecide x1 x2 x3 s) := by
  unfold predicateDecide
  repeat' first
    | (with_reducible first | assumption | intro _ | apply State_setCtx_keeps | apply
                            closeSegments_keeps | apply endSegment_keeps | apply readMat_keeps | apply killCtx_keeps | apply
                            keeps_ite | apply keeps_foldl | apply runKeeps_pure | apply runKeeps_getS | apply runKeeps_bind
                            | apply runKeeps_ite | apply runKeeps_foldlM | apply runAt_set | apply runAt_set_end | apply
                            runAt_ite)
    | (with_reducible refine keeps_run ?_ (by with_reducible assumption) ?_)
    | split
    | dsimp only
    | (with_reducible first | apply keeps_mk | apply keeps_audit | apply keeps_fabric)
    | (with_reducible apply runAt_of)

theorem askRamp_keeps {b : Bool} {s0 s : State} (x1 : Nat) (h : Keeps b s0 s) :
    Keeps b s0 (askRamp x1 s) := by
  unfold askRamp
  repeat' first
    | (with_reducible first | assumption | intro _ | apply keeps_ite | apply keeps_foldl)
    | split
    | dsimp only
    | (with_reducible first | apply keeps_mk | apply keeps_audit | apply keeps_fabric)

theorem endRun_keeps {b : Bool} {s0 s : State} (x1 : Nat) (h : Keeps b s0 s) :
    Keeps b s0 (endRun x1 s) := by
  unfold endRun
  repeat' first
    | (with_reducible first | assumption | intro _ | apply askRamp_keeps | apply State_setClus_keeps
                            | apply keeps_ite | apply keeps_foldl)
    | split
    | dsimp only
    | (with_reducible first | apply keeps_mk | apply keeps_audit | apply keeps_fabric)

theorem joinRun_keeps {b : Bool} {s0 s : State} (x1 : Task) (x2 : Nat) (h : Keeps b s0 s) :
    Keeps b s0 (joinRun x1 x2 s) := by
  unfold joinRun
  repeat' first
    | (with_reducible first | assumption | intro _ | apply State_setClus_keeps | apply askRamp_keeps
                            | apply endRun_keeps | apply keeps_ite | apply keeps_foldl)
    | split
    | dsimp only
    | (with_reducible first | apply keeps_mk | apply keeps_audit | apply keeps_fabric)

theorem placeTask_keeps {b : Bool} {s0 s : State} (x1 : Task) (x2 : Fin 512) (h : Keeps b s0 s) :
    Keeps b s0 (placeTask x1 x2 s) := by
  unfold placeTask
  repeat' first
    | (with_reducible first | assumption | intro _ | apply count_keeps | apply State_setClus_keeps |
                            apply joinRun_keeps | apply keeps_ite | apply keeps_foldl)
    | split
    | dsimp only
    | (with_reducible first | apply keeps_mk | apply keeps_audit | apply keeps_fabric)

theorem fixLevel_keeps {b : Bool} {s0 s : State} (x1 : Task) (h : Keeps b s0 s) :
    Keeps b s0 (fixLevel x1 s).1 := by
  unfold fixLevel
  repeat' first
    | (with_reducible first | assumption | intro _ | apply setNumcStatus_keeps | apply
                            State_setCtx_keeps | apply keeps_ite | apply keeps_foldl | apply keeps_ite_fst | apply
                            keeps_foldl_fst | apply keeps_foldl_snd)
    | split
    | dsimp only
    | (with_reducible first | apply keeps_mk | apply keeps_audit | apply keeps_fabric)

theorem taskIssue_keeps {b : Bool} {s0 s : State} (x1 : TaskRef) (x2 : Fin 512) (h : Keeps b s0 s) :
    Keeps b s0 (taskIssue x1 x2 s) := by
  unfold taskIssue
  repeat' first
    | (with_reducible first | assumption | intro _ | apply endTask_keeps | apply readTables_keeps |
                            apply killCtx_keeps | apply fixLevel_keeps | apply count_keeps | apply State_setTask_keeps |
                            apply placeTask_keeps | apply keeps_ite | apply keeps_foldl | apply runKeeps_pure | apply
                            runKeeps_getS | apply runKeeps_bind | apply runKeeps_ite | apply runKeeps_foldlM | apply
                            runAt_set | apply runAt_set_end | apply runAt_ite)
    | (with_reducible refine keeps_fst (by with_reducible assumption) ?_)
    | (with_reducible refine keeps_run ?_ (by with_reducible assumption) ?_)
    | split
    | dsimp only
    | (with_reducible first | apply keeps_mk | apply keeps_audit | apply keeps_fabric)
    | (with_reducible apply runAt_of)

theorem taskComplete_keeps {b : Bool} {s0 s : State} (x1 : TaskRef) (x2 : Word) (h : Keeps b s0 s) :
    Keeps b s0 (taskComplete x1 x2 s) := by
  unfold taskComplete
  repeat' first
    | (with_reducible first | assumption | intro _ | apply finishRun_keeps | apply closeOps_keeps |
                            apply keeps_ite | apply keeps_foldl)
    | split
    | dsimp only
    | (with_reducible first | apply keeps_mk | apply keeps_audit | apply keeps_fabric)

theorem rampDone_keeps {b : Bool} {s0 s : State} (x1 : Nat) (h : Keeps b s0 s) :
    Keeps b s0 (rampDone x1 s) := by
  unfold rampDone
  repeat' first
    | (with_reducible first | assumption | intro _ | apply State_setClus_keeps | apply askRamp_keeps
                            | apply keeps_ite | apply keeps_foldl)
    | split
    | dsimp only
    | (with_reducible first | apply keeps_mk | apply keeps_audit | apply keeps_fabric)

theorem rampBegin_keeps {b : Bool} {s0 s : State} (x1 : Nat) (h : Keeps b s0 s) :
    Keeps b s0 (rampBegin x1 s) := by
  unfold rampBegin
  repeat' first
    | (with_reducible first | assumption | intro _ | apply State_setClus_keeps | apply keeps_ite | apply keeps_foldl)
    | split
    | dsimp only
    | (with_reducible first | apply keeps_mk | apply keeps_audit | apply keeps_fabric)

theorem rampGrant_keeps {b : Bool} {s0 s : State} (x1 : Nat) (h : Keeps b s0 s) :
    Keeps b s0 (rampGrant x1 s) := by
  unfold rampGrant
  repeat' first
    | (with_reducible first | assumption | intro _ | apply rampDone_keeps | apply rampBegin_keeps |
                            apply keeps_ite | apply keeps_foldl | apply keeps_ite_fst | apply keeps_foldl_fst | apply
                            keeps_foldl_snd)
    | split
    | dsimp only
    | (with_reducible first | apply keeps_mk | apply keeps_audit | apply keeps_fabric)

theorem runEnd_keeps {b : Bool} {s0 s : State} (x1 : Nat) (h : Keeps b s0 s) :
    Keeps b s0 (runEnd x1 s) := by
  unfold runEnd
  repeat' first
    | (with_reducible first | assumption | intro _ | apply endRun_keeps | apply keeps_ite | apply keeps_foldl)
    | split
    | dsimp only
    | (with_reducible first | apply keeps_mk | apply keeps_audit | apply keeps_fabric)

theorem execSegment_keeps {b : Bool} {s0 s u : State} {x1 : Fin 64} {x2 : Fin 4} (h : Keeps b s0 s)
    (e : execSegment x1 x2 s = .next u) : Keeps b s0 u := by
  unfold execSegment at e
  (injection e with e; subst e)
  all_goals
    repeat' first
      | (with_reducible first | assumption | intro _ | apply takeSegment_keeps | apply keeps_ite | apply keeps_foldl)
      | split
      | dsimp only
      | (with_reducible first | apply keeps_mk | apply keeps_audit | apply keeps_fabric)

theorem execNop_keeps {b : Bool} {s0 s u : State} {x1 : Fin 64} {x2 : Fin 4} (h : Keeps b s0 s)
    (e : execNop x1 x2 s = .next u) : Keeps b s0 u := by
  unfold execNop at e
  (injection e with e; subst e)
  all_goals
    repeat' first
      | (with_reducible first | assumption | intro _ | apply takeNop_keeps | apply keeps_ite | apply keeps_foldl)
      | split
      | dsimp only
      | (with_reducible first | apply keeps_mk | apply keeps_audit | apply keeps_fabric)

theorem execSegmentValidate_keeps {b : Bool} {s0 s u : State} {x1 : Fin 64} {x2 : Fin 4} {x3 : List Bytes} {x4 : Env} (h
    : Keeps b s0 s)
    (e : execSegmentValidate x1 x2 x3 x4 s = .next u) : Keeps b s0 u := by
  unfold execSegmentValidate at e
  (injection e with e; subst e)
  all_goals
    repeat' first
      | (with_reducible first | assumption | intro _ | apply segmentValidate_keeps | apply keeps_ite | apply keeps_foldl)
      | split
      | dsimp only
      | (with_reducible first | apply keeps_mk | apply keeps_audit | apply keeps_fabric)

theorem execPredicateDecide_keeps {b : Bool} {s0 s u : State} {x1 : Fin 64} {x2 : Fin 4} {x3 : Word} (h : Keeps b s0 s)
    (e : execPredicateDecide x1 x2 x3 s = .next u) : Keeps b s0 u := by
  unfold execPredicateDecide at e
  (injection e with e; subst e)
  all_goals
    repeat' first
      | (with_reducible first | assumption | intro _ | apply predicateDecide_keeps | apply keeps_ite | apply keeps_foldl)
      | split
      | dsimp only
      | (with_reducible first | apply keeps_mk | apply keeps_audit | apply keeps_fabric)

theorem execSqResume_keeps {b : Bool} {s0 s u : State} {x1 : Fin 64} (h : Keeps b s0 s)
    (e : execSqResume x1 s = .next u) : Keeps b s0 u := by
  unfold execSqResume at e
  (injection e with e; subst e)
  all_goals
    repeat' first
      | (with_reducible first | assumption | intro _ | apply sqResume_keeps | apply keeps_ite | apply keeps_foldl)
      | split
      | dsimp only
      | (with_reducible first | apply keeps_mk | apply keeps_audit | apply keeps_fabric)

theorem execTaskIssue_keeps {b : Bool} {s0 s u : State} {x1 : TaskRef} {x2 : Fin 512} (h : Keeps b s0 s)
    (e : execTaskIssue x1 x2 s = .next u) : Keeps b s0 u := by
  unfold execTaskIssue at e
  (injection e with e; subst e)
  all_goals
    repeat' first
      | (with_reducible first | assumption | intro _ | apply taskIssue_keeps | apply keeps_ite | apply keeps_foldl)
      | split
      | dsimp only
      | (with_reducible first | apply keeps_mk | apply keeps_audit | apply keeps_fabric)

theorem execTaskComplete_keeps {b : Bool} {s0 s u : State} {x1 : TaskRef} {x2 : Word} (h : Keeps b s0 s)
    (e : execTaskComplete x1 x2 s = .next u) : Keeps b s0 u := by
  unfold execTaskComplete at e
  (injection e with e; subst e)
  all_goals
    repeat' first
      | (with_reducible first | assumption | intro _ | apply taskComplete_keeps | apply keeps_ite | apply keeps_foldl)
      | split
      | dsimp only
      | (with_reducible first | apply keeps_mk | apply keeps_audit | apply keeps_fabric)

theorem execRampGrant_keeps {b : Bool} {s0 s u : State} {x1 : Fin 32} (h : Keeps b s0 s)
    (e : execRampGrant x1 s = .next u) : Keeps b s0 u := by
  unfold execRampGrant at e
  (injection e with e; subst e)
  all_goals
    repeat' first
      | (with_reducible first | assumption | intro _ | apply rampGrant_keeps | apply keeps_ite | apply keeps_foldl)
      | split
      | dsimp only
      | (with_reducible first | apply keeps_mk | apply keeps_audit | apply keeps_fabric)

theorem execRunEnd_keeps {b : Bool} {s0 s u : State} {x1 : Fin 512} (h : Keeps b s0 s)
    (e : execRunEnd x1 s = .next u) : Keeps b s0 u := by
  unfold execRunEnd at e
  (injection e with e; subst e)
  all_goals
    repeat' first
      | (with_reducible first | assumption | intro _ | apply runEnd_keeps | apply keeps_ite | apply keeps_foldl)
      | split
      | dsimp only
      | (with_reducible first | apply keeps_mk | apply keeps_audit | apply keeps_fabric)

/-! ### Machine/RegRead.lean -/

theorem aliasRead_keeps {b : Bool} {s0 s : State} (x1 : Path) (x2 : AliasAt) (h : Keeps b s0 s) :
    Keeps b s0 (aliasRead x1 x2 s).1 := by
  unfold aliasRead
  repeat' first
    | (with_reducible first | assumption | intro _ | apply State_setPath_keeps | apply keeps_ite |
                            apply keeps_foldl | apply keeps_ite_fst | apply keeps_foldl_fst | apply keeps_foldl_snd)
    | split
    | dsimp only
    | (with_reducible first | apply keeps_mk | apply keeps_audit | apply keeps_fabric)

theorem readValue_keeps {b : Bool} {s0 s : State} (x1 : Path) (x2 : Nat) (h : Keeps b s0 s) : Keeps b s0 (readValue x1
    x2 s).1 := by
  have key : ∀ (p : Half × State × Word × Word), Keeps b s0 p.2.1 → Keeps b s0 (match p.1 with
      | .lo => (p.2.1.setPath (pathNo x1) { p.2.1.path (pathNo x1) with shadow := some (x2 + 4, p.2.2.2) }, p.2.2.1)
      | .hi => (p.2.1.setPath (pathNo x1) { p.2.1.path (pathNo x1) with shadow := none },
          match (s.path (pathNo x1)).shadow with
          | some (b, w) => if b = x2 then w else p.2.2.1
          | none => p.2.2.1)
      | .one => (p.2.1.setPath (pathNo x1) { p.2.1.path (pathNo x1) with shadow := none }, p.2.2.1)).1 := by
    intro p k
    split <;> exact State_setPath_keeps _ _ k
  unfold readValue
  cases findAlias x2 with
  | some x => exact key (_, (aliasRead x1 x s).1, (aliasRead x1 x s).2, _) (aliasRead_keeps x1 x h)
  | none =>
    cases locate x2 with
    | none => exact key (.one, s, 0, 0) h
    | some l => exact key (l.row.half, s, (if x2 = 0x020 then (s.path (pathNo x1)).bcast else if x2 = 0x024 then (s.path
        (pathNo x1)).diff
          else if x2 = 0x034 then BitVec.ofNat 32 (pathNo x1) else s.locValue l x2), s.regValue (x2 + 4)) h

/-! ### Machine/Admin.lean -/

theorem dropHandle_keeps {b : Bool} {s0 s : State} (x1 : Nat) (x2 : Nat) (h : Keeps b s0 s) :
    Keeps b s0 (dropHandle x1 x2 s) := by
  unfold dropHandle
  repeat' first
    | (with_reducible first | assumption | intro _ | apply keepImports_keeps | apply
                            State_setCtx_keeps | apply keeps_ite | apply keeps_foldl)
    | split
    | dsimp only
    | (with_reducible first | apply keeps_mk | apply keeps_audit | apply keeps_fabric)

theorem defineHandle_keeps {b : Bool} {s0 s : State} (x1 : Nat) (x2 : Nat) (x3 : Bytes) (h : Keeps b s0 s) :
    Keeps b s0 (defineHandle x1 x2 x3 s) := by
  unfold defineHandle
  repeat' first
    | (with_reducible first | assumption | intro _ | apply dropHandle_keeps | apply
                            State_setCtx_keeps | apply setNumcStatus_keeps | apply raiseCtx_keeps | apply keeps_ite | apply
                            keeps_foldl | apply keeps_ite_fst | apply keeps_foldl_fst | apply keeps_foldl_snd)
    | split
    | dsimp only
    | (with_reducible first | apply keeps_mk | apply keeps_audit | apply keeps_fabric)

theorem adminDefine_keeps {b : Bool} {s0 s u : State} {x : AdminEnd} {x1 : Nat} {x2 : Bytes} (h : Keeps b s0 s)
    (e : adminDefine x1 x2 s = .done x u) : Keeps b s0 u := by
  unfold adminDefine at e
  try dsimp only at e
  (repeat' split at e) <;> (first | cases e | skip)
  all_goals
    repeat' first
      | (with_reducible first | assumption | intro _ | apply defineHandle_keeps | apply keeps_ite | apply keeps_foldl)
      | split
      | dsimp only
      | (with_reducible first | apply keeps_mk | apply keeps_audit | apply keeps_fabric)

theorem adminShare_keeps {b : Bool} {s0 s u : State} {x : AdminEnd} {x1 : Nat} {x2 : Bytes} (h : Keeps b s0 s)
    (e : adminShare x1 x2 s = .done x u) : Keeps b s0 u := by
  unfold adminShare at e
  try dsimp only at e
  (repeat' split at e) <;> (first | cases e | skip)
  all_goals
    repeat' first
      | (with_reducible first | assumption | intro _ | apply dropHandle_keeps | apply
                              State_setCtx_keeps | apply keeps_ite | apply keeps_foldl)
      | split
      | dsimp only
      | (with_reducible first | apply keeps_mk | apply keeps_audit | apply keeps_fabric)

theorem adminDrop_keeps {b : Bool} {s0 s u : State} {x : AdminEnd} {x1 : Nat} {x2 : Bytes} (h : Keeps b s0 s)
    (e : adminDrop x1 x2 s = .done x u) : Keeps b s0 u := by
  unfold adminDrop at e
  try dsimp only at e
  (repeat' split at e) <;> (first | cases e | skip)
  all_goals
    repeat' first
      | (with_reducible first | assumption | intro _ | apply dropHandle_keeps | apply keeps_ite | apply keeps_foldl)
      | split
      | dsimp only
      | (with_reducible first | apply keeps_mk | apply keeps_audit | apply keeps_fabric)

theorem adminCancel_keeps {b : Bool} {s0 s u : State} {x : AdminEnd} {x1 : Nat} {x2 : Bytes} (h : Keeps b s0 s)
    (e : adminCancel x1 x2 s = .done x u) : Keeps b s0 u := by
  unfold adminCancel at e
  try dsimp only at e
  (repeat' split at e) <;> (first | cases e | skip)
  all_goals
    repeat' first
      | (with_reducible first | assumption | intro _ | apply endTasks_keeps | apply
                              State_setRing_keeps | apply castLost_keeps | apply keeps_ite | apply keeps_foldl)
      | split
      | dsimp only
      | (with_reducible first | apply keeps_mk | apply keeps_audit | apply keeps_fabric)

theorem adminCursor_keeps {b : Bool} {s0 s u : State} {x : AdminEnd} {x1 : Nat} {x2 : Bytes} (h : Keeps b s0 s)
    (e : adminCursor x1 x2 s = .done x u) : Keeps b s0 u := by
  unfold adminCursor at e
  try dsimp only at e
  (repeat' split at e) <;> (first | cases e | skip)
  all_goals
    repeat' first
      | (with_reducible first | assumption | intro _ | apply State_setCtx_keeps | apply keeps_ite | apply keeps_foldl)
      | split
      | dsimp only
      | (with_reducible first | apply keeps_mk | apply keeps_audit | apply keeps_fabric)

theorem readImage_keeps {b : Bool} {s0 s u : State} {x : Except AdminEnd Bytes} {x1 : Nat} {x2 : Bytes} {x3 : Bytes} {x4
    : Env} (h : Keeps b s0 s)
    (e : readImage x1 x2 x3 x4 s = (x, u)) : Keeps b s0 u := by
  unfold readImage at e
  try dsimp only at e
  (repeat' split at e) <;> (first | cases e | skip)
  all_goals
    repeat' first
      | (with_reducible first | assumption | intro _ | apply violation_keeps | apply keeps_ite | apply keeps_foldl)
      | (with_reducible refine fetchVa_keeps ?_ (by with_reducible assumption))
      | split
      | dsimp only
      | (with_reducible first | apply keeps_mk | apply keeps_audit | apply keeps_fabric)

theorem adminFunction_keeps {b : Bool} {s0 s u : State} {x : AdminEnd} {x1 : Nat} {x2 : Bytes} {x3 : Bytes} (h : Keeps b s0 s)
    (e : adminFunction x1 x2 x3 s = .done x u) : Keeps b s0 u := by
  unfold adminFunction at e
  try dsimp only at e
  (repeat' split at e) <;> (first | cases e | skip)
  all_goals
    repeat' first
      | (with_reducible first | assumption | intro _ | apply auditAppend_keeps | apply
                              State_setCtx_keeps | apply keeps_ite | apply keeps_foldl)
      | split
      | dsimp only
      | (with_reducible first | apply keeps_mk | apply keeps_audit | apply keeps_fabric)

theorem noteRealign_keeps {b : Bool} {s0 s : State} (x1 : Nat) (x2 : Nat) (x3 : Nat) (x4 : Nat) (x5 : Nat) (h : Keeps b s0 s) :
    Keeps b s0 (noteRealign x1 x2 x3 x4 x5 s) := by
  unfold noteRealign
  repeat' first
    | (with_reducible first | assumption | intro _ | apply raiseCtx_keeps | apply State_setReg_keeps
                            | apply keeps_ite | apply keeps_foldl)
    | split
    | dsimp only
    | (with_reducible first | apply keeps_mk | apply keeps_audit | apply keeps_fabric)

theorem adminTable_keeps {b : Bool} {s0 s u : State} {x : AdminEnd} {α : Type} {x1 : Nat} {x2 : Run α} {x3 : α → State →
    AdminOut}
    (hx2 : RunKeeps x2) (hx3 : ∀ a s1, Keeps b s0 s1 → x3 a s1 = .done x u → Keeps b s0 u) (h : Keeps b s0 s)
    (e : adminTable x1 x2 x3 s = .done x u) : Keeps b s0 u := by
  unfold adminTable at e
  split at e
  · next hr => exact hx3 _ _ (keeps_run hx2 hr h) e
  · next hr =>
    have h1 := keeps_run hx2 hr h
    split at e
    · cases e; exact killCtx_keeps _ _ h1
    · cases e; exact h1

theorem adminSetSlot_keeps {b : Bool} {s0 s u : State} {x : AdminEnd} {x1 : Nat} {x2 : Bytes} (h : Keeps b s0 s)
    (e : adminSetSlot x1 x2 s = .done x u) : Keeps b s0 u := by
  unfold adminSetSlot at e
  extract_lets at e
  repeat' (split at e)
  iterate 3 (cases e; exact h)
  refine adminTable_keeps (runKeeps_foldlM (fun _ _ => editTile_keeps _ _ _ _ _ _ _) _ _) (fun _ s1 h1 e1 => ?_) h e
  cases e1
  exact noteRealign_keeps _ _ _ _ _ (State_setCtx_keeps _ _ h1)

theorem adminRealign_keeps {b : Bool} {s0 s u : State} {x : AdminEnd} {x1 : Nat} {x2 : Bytes} (h : Keeps b s0 s)
    (e : adminRealign x1 x2 s = .done x u) : Keeps b s0 u := by
  unfold adminRealign at e
  repeat' (split at e)
  iterate 2 (cases e; exact h)
  refine adminTable_keeps (tableData_keeps _ _ _ _ _ _) (fun _ s1 h1 e1 => ?_) h e
  extract_lets at e1
  repeat' (split at e1)
  iterate 4 (cases e1; exact h1)
  cases e1
  exact noteRealign_keeps _ _ _ _ _ (State_setCtx_keeps _ _ (State_setReg64_keeps _ _ (State_setReg64_keeps _ _ h1)))

theorem adminRun_keeps {b : Bool} {s0 s u : State} {x : AdminEnd} {x1 : Nat} {x2 : Bytes} {x3 : Bytes} (h : Keeps b s0 s)
    (e : adminRun x1 x2 x3 s = .done x u) : Keeps b s0 u := by
  unfold adminRun at e
  try dsimp only at e
  (repeat' split at e) <;> (first | cases e | skip)
  all_goals
    repeat' first
      | (with_reducible first | assumption | intro _ | apply setCtxState_keeps | apply keeps_ite | apply keeps_foldl)
      | (with_reducible refine adminDefine_keeps ?_ (by with_reducible assumption))
      | (with_reducible refine adminShare_keeps ?_ (by with_reducible assumption))
      | (with_reducible refine adminDrop_keeps ?_ (by with_reducible assumption))
      | (with_reducible refine adminCancel_keeps ?_ (by with_reducible assumption))
      | (with_reducible refine adminCursor_keeps ?_ (by with_reducible assumption))
      | (with_reducible refine adminFunction_keeps ?_ (by with_reducible assumption))
      | (with_reducible refine adminSetSlot_keeps ?_ (by with_reducible assumption))
      | (with_reducible refine adminRealign_keeps ?_ (by with_reducible assumption))
      | split
      | dsimp only
      | (with_reducible first | apply keeps_mk | apply keeps_audit | apply keeps_fabric)

theorem adminDone_keeps {b : Bool} {s0 s : State} (x1 : Nat) (x2 : Bytes) (x3 : AdminEnd) (h : Keeps b s0 s) :
    Keeps b s0 (adminDone x1 x2 x3 s) := by
  unfold adminDone
  repeat' first
    | (with_reducible first | assumption | intro _ | apply adminRecord_keeps | apply keeps_ite | apply keeps_foldl)
    | split
    | dsimp only
    | (with_reducible first | apply keeps_mk | apply keeps_audit | apply keeps_fabric)

theorem adminStart_keeps {b : Bool} {s0 s : State} (x1 : Nat) (x2 : Bytes) (x3 : Bytes) (h : Keeps b s0 s) :
    Keeps b s0 (adminStart x1 x2 x3 s) := by
  unfold adminStart
  repeat' first
    | (with_reducible first | assumption | intro _ | apply adminDone_keeps | apply setCtxState_keeps
                            | apply State_setCtx_keeps | apply keeps_ite | apply keeps_foldl)
    | (with_reducible refine adminRun_keeps ?_ (by with_reducible assumption))
    | split
    | dsimp only
    | (with_reducible first | apply keeps_mk | apply keeps_audit | apply keeps_fabric)

theorem takeAdmin_keeps {b : Bool} {s0 s : State} (x1 : Nat) (x2 : Nat) (x3 : Option Nat) (x4 : Bytes → State → State)
    (hx4 : ∀ a0 t, Keeps b s0 t → Keeps b s0 (x4 a0 t)) (h : Keeps b s0 s) :
    Keeps b s0 (takeAdmin x1 x2 x3 x4 s) := by
  unfold takeAdmin
  repeat' first
    | (with_reducible first | assumption | intro _ | apply ringError_keeps | apply adminDone_keeps |
                            apply consume_keeps | apply State_setRing_keeps | apply hx4 | apply keeps_ite | apply
                            keeps_foldl)
    | split
    | dsimp only
    | (with_reducible first | apply keeps_mk | apply keeps_audit | apply keeps_fabric)

theorem loadFunction_keeps {b : Bool} {s0 s : State} (x1 : Nat) (x2 : Bytes) (x3 : Env) (x4 : Bytes) (h : Keeps b s0 s) :
    Keeps b s0 (loadFunction x1 x2 x3 x4 s) := by
  unfold loadFunction
  repeat' first
    | (with_reducible first | assumption | intro _ | apply adminDone_keeps | apply adminStart_keeps
                            | apply keeps_ite | apply keeps_foldl)
    | (with_reducible refine readImage_keeps ?_ (by with_reducible assumption))
    | split
    | dsimp only
    | (with_reducible first | apply keeps_mk | apply keeps_audit | apply keeps_fabric)

theorem adminResume_keeps {b : Bool} {s0 s : State} (x1 : Nat) (x2 : Nat → Bool) (h : Keeps b s0 s) :
    Keeps b s0 (adminResume x1 x2 s) := by
  unfold adminResume
  repeat' first
    | (with_reducible first | assumption | intro _ | apply adminDone_keeps | apply
                            State_setCtx_keeps | apply keeps_ite | apply keeps_foldl)
    | (with_reducible refine adminRun_keeps ?_ (by with_reducible assumption))
    | split
    | dsimp only
    | (with_reducible first | apply keeps_mk | apply keeps_audit | apply keeps_fabric)

theorem execDefineHandle_keeps {b : Bool} {s0 s u : State} {x1 : Fin 64} (h : Keeps b s0 s)
    (e : execDefineHandle x1 s = .next u) : Keeps b s0 u := by
  unfold execDefineHandle at e
  (injection e with e; subst e)
  all_goals
    repeat' first
      | (with_reducible first | assumption | intro _ | apply takeAdmin_keeps | apply
                              adminStart_keeps | apply keeps_ite | apply keeps_foldl)
      | split
      | dsimp only
      | (with_reducible first | apply keeps_mk | apply keeps_audit | apply keeps_fabric)

theorem execShareHandle_keeps {b : Bool} {s0 s u : State} {x1 : Fin 64} (h : Keeps b s0 s)
    (e : execShareHandle x1 s = .next u) : Keeps b s0 u := by
  unfold execShareHandle at e
  (injection e with e; subst e)
  all_goals
    repeat' first
      | (with_reducible first | assumption | intro _ | apply takeAdmin_keeps | apply
                              adminStart_keeps | apply keeps_ite | apply keeps_foldl)
      | split
      | dsimp only
      | (with_reducible first | apply keeps_mk | apply keeps_audit | apply keeps_fabric)

theorem execDropHandle_keeps {b : Bool} {s0 s u : State} {x1 : Fin 64} (h : Keeps b s0 s)
    (e : execDropHandle x1 s = .next u) : Keeps b s0 u := by
  unfold execDropHandle at e
  (injection e with e; subst e)
  all_goals
    repeat' first
      | (with_reducible first | assumption | intro _ | apply takeAdmin_keeps | apply
                              adminStart_keeps | apply keeps_ite | apply keeps_foldl)
      | split
      | dsimp only
      | (with_reducible first | apply keeps_mk | apply keeps_audit | apply keeps_fabric)

theorem execCancel_keeps {b : Bool} {s0 s u : State} {x1 : Fin 64} (h : Keeps b s0 s)
    (e : execCancel x1 s = .next u) : Keeps b s0 u := by
  unfold execCancel at e
  (injection e with e; subst e)
  all_goals
    repeat' first
      | (with_reducible first | assumption | intro _ | apply takeAdmin_keeps | apply
                              adminStart_keeps | apply keeps_ite | apply keeps_foldl)
      | split
      | dsimp only
      | (with_reducible first | apply keeps_mk | apply keeps_audit | apply keeps_fabric)

theorem execDataCursor_keeps {b : Bool} {s0 s u : State} {x1 : Fin 64} (h : Keeps b s0 s)
    (e : execDataCursor x1 s = .next u) : Keeps b s0 u := by
  unfold execDataCursor at e
  (injection e with e; subst e)
  all_goals
    repeat' first
      | (with_reducible first | assumption | intro _ | apply takeAdmin_keeps | apply
                              adminStart_keeps | apply keeps_ite | apply keeps_foldl)
      | split
      | dsimp only
      | (with_reducible first | apply keeps_mk | apply keeps_audit | apply keeps_fabric)

theorem execLoadFunction_keeps {b : Bool} {s0 s u : State} {x1 : Fin 64} {x2 : Bytes} {x3 : Env} (h : Keeps b s0 s)
    (e : execLoadFunction x1 x2 x3 s = .next u) : Keeps b s0 u := by
  unfold execLoadFunction at e
  (injection e with e; subst e)
  all_goals
    repeat' first
      | (with_reducible first | assumption | intro _ | apply takeAdmin_keeps | apply
                              loadFunction_keeps | apply keeps_ite | apply keeps_foldl)
      | split
      | dsimp only
      | (with_reducible first | apply keeps_mk | apply keeps_audit | apply keeps_fabric)

theorem execSetSlot_keeps {b : Bool} {s0 s u : State} {x1 : Fin 64} (h : Keeps b s0 s)
    (e : execSetSlot x1 s = .next u) : Keeps b s0 u := by
  unfold execSetSlot at e
  (injection e with e; subst e)
  all_goals
    repeat' first
      | (with_reducible first | assumption | intro _ | apply takeAdmin_keeps | apply
                              adminStart_keeps | apply keeps_ite | apply keeps_foldl)
      | split
      | dsimp only
      | (with_reducible first | apply keeps_mk | apply keeps_audit | apply keeps_fabric)

theorem execRealign_keeps {b : Bool} {s0 s u : State} {x1 : Fin 64} (h : Keeps b s0 s)
    (e : execRealign x1 s = .next u) : Keeps b s0 u := by
  unfold execRealign at e
  (injection e with e; subst e)
  all_goals
    repeat' first
      | (with_reducible first | assumption | intro _ | apply takeAdmin_keeps | apply
                              adminStart_keeps | apply keeps_ite | apply keeps_foldl)
      | split
      | dsimp only
      | (with_reducible first | apply keeps_mk | apply keeps_audit | apply keeps_fabric)

theorem execQuiesce_keeps {b : Bool} {s0 s u : State} {x1 : Fin 64} (h : Keeps b s0 s)
    (e : execQuiesce x1 s = .next u) : Keeps b s0 u := by
  unfold execQuiesce at e
  (injection e with e; subst e)
  all_goals
    repeat' first
      | (with_reducible first | assumption | intro _ | apply takeAdmin_keeps | apply
                              adminStart_keeps | apply keeps_ite | apply keeps_foldl)
      | split
      | dsimp only
      | (with_reducible first | apply keeps_mk | apply keeps_audit | apply keeps_fabric)

theorem execEcho_keeps {b : Bool} {s0 s u : State} {x1 : Fin 64} (h : Keeps b s0 s)
    (e : execEcho x1 s = .next u) : Keeps b s0 u := by
  unfold execEcho at e
  (injection e with e; subst e)
  all_goals
    repeat' first
      | (with_reducible first | assumption | intro _ | apply takeAdmin_keeps | apply
                              adminStart_keeps | apply keeps_ite | apply keeps_foldl)
      | split
      | dsimp only
      | (with_reducible first | apply keeps_mk | apply keeps_audit | apply keeps_fabric)

theorem execAdminDeferredEffect_keeps {b : Bool} {s0 s u : State} {x1 : Fin 64} (h : Keeps b s0 s)
    (e : execAdminDeferredEffect x1 s = .next u) : Keeps b s0 u := by
  unfold execAdminDeferredEffect at e
  (injection e with e; subst e)
  all_goals
    repeat' first
      | (with_reducible first | assumption | intro _ | apply adminResume_keeps | apply keeps_ite | apply keeps_foldl)
      | split
      | dsimp only
      | (with_reducible first | apply keeps_mk | apply keeps_audit | apply keeps_fabric)

theorem execQuiesceDone_keeps {b : Bool} {s0 s u : State} {x1 : Fin 64} (h : Keeps b s0 s)
    (e : execQuiesceDone x1 s = .next u) : Keeps b s0 u := by
  unfold execQuiesceDone at e
  (injection e with e; subst e)
  all_goals
    repeat' first
      | (with_reducible first | assumption | intro _ | apply adminResume_keeps | apply keeps_ite | apply keeps_foldl)
      | split
      | dsimp only
      | (with_reducible first | apply keeps_mk | apply keeps_audit | apply keeps_fabric)

/-! ### Machine/CommitCommands.lean -/

theorem takeDelivered_keeps {b : Bool} {s0 s u : State} {x : Delivered} {x1 : Byte} (h : Keeps b s0 s)
    (e : takeDelivered x1 s = some (x, u)) : Keeps b s0 u := by
  unfold takeDelivered at e
  (repeat' split at e) <;> (first | cases e | skip)
  all_goals
    repeat' first
      | (with_reducible first | assumption | intro _ | apply keeps_ite | apply keeps_foldl)
      | split
      | dsimp only
      | (with_reducible first | apply keeps_mk | apply keeps_audit | apply keeps_fabric)

theorem gotVote_keeps {b : Bool} {s0 s : State} (x1 : Nat) (x2 : Nat) (x3 : Packet) (h : Keeps b s0 s) :
    Keeps b s0 (gotVote x1 x2 x3 s) := by
  unfold gotVote
  repeat' first
    | (with_reducible first | assumption | intro _ | apply seqNote_keeps | apply sendVote_keeps |
                            apply State_setCtx_keeps | apply castLost_keeps | apply tryCombine_keeps | apply
                            gotReduced_keeps | apply keeps_ite | apply keeps_foldl)
    | (with_reducible refine keeps_fst (by with_reducible assumption) ?_)
    | split
    | dsimp only
    | (with_reducible first | apply keeps_mk | apply keeps_audit | apply keeps_fabric)

theorem voteArrives_keeps {b : Bool} {s0 s : State} (h : Keeps b s0 s) :
    Keeps b s0 (voteArrives s) := by
  unfold voteArrives
  repeat' first
    | (with_reducible first | assumption | intro _ | apply gotVote_keeps | apply keeps_ite | apply keeps_foldl)
    | (with_reducible refine takeDelivered_keeps ?_ (by with_reducible assumption))
    | split
    | dsimp only
    | (with_reducible first | apply keeps_mk | apply keeps_audit | apply keeps_fabric)

theorem inDoubt_keeps {b : Bool} {s0 s : State} (x1 : Nat) (h : Keeps b s0 s) :
    Keeps b s0 (inDoubt x1 s) := by
  unfold inDoubt
  repeat' first
    | (with_reducible first | assumption | intro _ | apply raiseCtx_keeps | apply State_setCtx_keeps
                            | apply keeps_ite | apply keeps_foldl)
    | split
    | dsimp only
    | (with_reducible first | apply keeps_mk | apply keeps_audit | apply keeps_fabric)

theorem comtAbort_keeps {b : Bool} {s0 s : State} (x1 : Nat) (h : Keeps b s0 s) :
    Keeps b s0 (comtAbort x1 s) := by
  unfold comtAbort
  repeat' first
    | (with_reducible first | assumption | intro _ | apply State_setCtx_keeps | apply keeps_ite | apply keeps_foldl)
    | split
    | dsimp only
    | (with_reducible first | apply keeps_mk | apply keeps_audit | apply keeps_fabric)

theorem resolveStep_keeps {b : Bool} {s0 s : State} (x1 : Nat) (x2 : Bool) (h : Keeps b s0 s) :
    Keeps b s0 (resolveStep x1 x2 s) := by
  unfold resolveStep
  repeat' first
    | (with_reducible first | assumption | intro _ | apply State_setCtx_keeps | apply
                            State_setReg64_keeps | apply castLost_keeps | apply commitStep_keeps | apply abortStep_keeps |
                            apply keeps_ite | apply keeps_foldl)
    | split
    | dsimp only
    | (with_reducible first | apply keeps_mk | apply keeps_audit | apply keeps_fabric)

theorem execStepEnd_keeps {b : Bool} {s0 s u : State} {x1 : TaskRef} {x2 : Env} (h : Keeps b s0 s)
    (e : execStepEnd x1 x2 s = .next u) : Keeps b s0 u := by
  unfold execStepEnd at e
  (injection e with e; subst e)
  all_goals
    repeat' first
      | (with_reducible first | assumption | intro _ | apply runStepEnd_keeps | apply keeps_ite | apply keeps_foldl)
      | split
      | dsimp only
      | (with_reducible first | apply keeps_mk | apply keeps_audit | apply keeps_fabric)

theorem execVote_keeps {b : Bool} {s0 s u : State} (h : Keeps b s0 s)
    (e : execVote s = .next u) : Keeps b s0 u := by
  unfold execVote at e
  (injection e with e; subst e)
  all_goals
    repeat' first
      | (with_reducible first | assumption | intro _ | apply voteArrives_keeps | apply keeps_ite | apply keeps_foldl)
      | split
      | dsimp only
      | (with_reducible first | apply keeps_mk | apply keeps_audit | apply keeps_fabric)

theorem execVoteTimeout_keeps {b : Bool} {s0 s u : State} {x1 : Fin 64} {x2 : Fin 16} (h : Keeps b s0 s)
    (e : execVoteTimeout x1 x2 s = .next u) : Keeps b s0 u := by
  unfold execVoteTimeout at e
  (repeat' split at e) <;> (injection e with e; subst e)
  all_goals
    repeat' first
      | (with_reducible first | assumption | intro _ | apply voteTimeout_keeps | apply keeps_ite | apply keeps_foldl)
      | split
      | dsimp only
      | (with_reducible first | apply keeps_mk | apply keeps_audit | apply keeps_fabric)

theorem execVoteResend_keeps {b : Bool} {s0 s u : State} {x1 : Fin 64} (h : Keeps b s0 s)
    (e : execVoteResend x1 s = .next u) : Keeps b s0 u := by
  unfold execVoteResend at e
  (repeat' split at e) <;> (injection e with e; subst e)
  all_goals
    repeat' first
      | (with_reducible first | assumption | intro _ | apply voteResend_keeps | apply keeps_ite | apply keeps_foldl)
      | split
      | dsimp only
      | (with_reducible first | apply keeps_mk | apply keeps_audit | apply keeps_fabric)

theorem execInDoubt_keeps {b : Bool} {s0 s u : State} {x1 : Fin 64} (h : Keeps b s0 s)
    (e : execInDoubt x1 s = .next u) : Keeps b s0 u := by
  unfold execInDoubt at e
  (injection e with e; subst e)
  all_goals
    repeat' first
      | (with_reducible first | assumption | intro _ | apply inDoubt_keeps | apply keeps_ite | apply keeps_foldl)
      | split
      | dsimp only
      | (with_reducible first | apply keeps_mk | apply keeps_audit | apply keeps_fabric)

theorem execQuietExpire_keeps {b : Bool} {s0 s u : State} {x1 : Fin 64} (h : Keeps b s0 s)
    (e : execQuietExpire x1 s = .next u) : Keeps b s0 u := by
  unfold execQuietExpire at e
  (repeat' split at e) <;> (injection e with e; subst e)
  all_goals
    repeat' first
      | (with_reducible first | assumption | intro _ | apply quietExpire_keeps | apply keeps_ite | apply keeps_foldl)
      | split
      | dsimp only
      | (with_reducible first | apply keeps_mk | apply keeps_audit | apply keeps_fabric)

end Sys2Proof.Machine
end

