-- ==== Sys2Proof/Laws/KeepsDevice.lean ====
section
/-! SUPPORT. What functions keep (Laws/Keeps.lean): power, starts, resets, faults, checkpoints, the fabric, the twin, security, JTAG, the boundary and HBM upkeep. -/

set_option linter.unusedVariables false

namespace Sys2Proof.Machine

-- One theorem after the other: checked all at once they take more threads than a checker has memory for.
set_option Elab.async false

/-! ### Machine/TwinLink.lean -/

theorem putTwin_keeps {b : Bool} {s0 s : State} (x1 : Packet) (h : Keeps b s0 s) :
    Keeps b s0 (putTwin x1 s) := by
  unfold putTwin
  repeat' first
    | (with_reducible first | assumption | intro _ | apply enqueue_keeps | apply keeps_ite | apply keeps_foldl)
    | split
    | dsimp only
    | (with_reducible first | apply keeps_mk | apply keeps_audit | apply keeps_fabric)

theorem sendTwin_keeps {b : Bool} {s0 s : State} (x1 : Packet) (h : Keeps b s0 s) :
    Keeps b s0 (sendTwin x1 s).1 := by
  unfold sendTwin
  repeat' first
    | (with_reducible first | assumption | intro _ | apply takeSeq_keeps | apply putTwin_keeps |
                            apply keeps_ite | apply keeps_foldl | apply keeps_ite_fst | apply keeps_foldl_fst | apply
                            keeps_foldl_snd)
    | (with_reducible refine keeps_fst (by with_reducible assumption) ?_)
    | split
    | dsimp only
    | (with_reducible first | apply keeps_mk | apply keeps_audit | apply keeps_fabric)

theorem twinMessage_keeps {b : Bool} {s0 s : State} (x1 : Nat) (x2 : Bytes) (h : Keeps b s0 s) :
    Keeps b s0 (twinMessage x1 x2 s) := by
  unfold twinMessage
  repeat' first
    | (with_reducible first | assumption | intro _ | apply sendTwin_keeps | apply keeps_ite | apply keeps_foldl)
    | (with_reducible refine keeps_fst (by with_reducible assumption) ?_)
    | split
    | dsimp only
    | (with_reducible first | apply keeps_mk | apply keeps_audit | apply keeps_fabric)

theorem sendHello_keeps {b : Bool} {s0 s : State} (h : Keeps b s0 s) :
    Keeps b s0 (sendHello s) := by
  unfold sendHello
  repeat' first
    | (with_reducible first | assumption | intro _ | apply twinMessage_keeps | apply keeps_ite | apply keeps_foldl)
    | split
    | dsimp only
    | (with_reducible first | apply keeps_mk | apply keeps_audit | apply keeps_fabric)

theorem pairOnUp_keeps {b : Bool} {s0 s : State} (x1 : Nat) (h : Keeps b s0 s) :
    Keeps b s0 (pairOnUp x1 s) := by
  unfold pairOnUp
  repeat' first
    | (with_reducible first | assumption | intro _ | apply sendHello_keeps | apply keeps_ite | apply keeps_foldl)
    | split
    | dsimp only
    | (with_reducible first | apply keeps_mk | apply keeps_audit | apply keeps_fabric)

/-! ### Machine/SmbRecords.lean -/

theorem smbKeep_keeps {b : Bool} {s0 s : State} (h : Keeps b s0 s) :
    Keeps b s0 (smbKeep s) := by
  unfold smbKeep
  repeat' first
    | (with_reducible first | assumption | intro _ | apply keeps_ite | apply keeps_foldl)
    | split
    | dsimp only
    | (with_reducible first | apply keeps_mk | apply keeps_audit | apply keeps_fabric)

theorem smbReply_keeps {b : Bool} {s0 s : State} (x1 : Nat) (h : Keeps b s0 s) :
    Keeps b s0 (smbReply x1 s) := by
  unfold smbReply
  repeat' first
    | (with_reducible first | assumption | intro _ | apply State_emit_keeps | apply keeps_ite | apply keeps_foldl)
    | split
    | dsimp only
    | (with_reducible first | apply keeps_mk | apply keeps_audit | apply keeps_fabric)

theorem smbAlerts_keeps {b : Bool} {s0 s : State} (h : Keeps b s0 s) :
    Keeps b s0 (smbAlerts s) := by
  unfold smbAlerts
  repeat' first
    | (with_reducible first | assumption | intro _ | apply State_emit_keeps | apply keeps_ite | apply keeps_foldl)
    | split
    | dsimp only
    | (with_reducible first | apply keeps_mk | apply keeps_audit | apply keeps_fabric)

theorem alertResponse_keeps {b : Bool} {s0 s : State} (h : Keeps b s0 s) :
    Keeps b s0 (alertResponse s) := by
  unfold alertResponse
  repeat' first
    | (with_reducible first | assumption | intro _ | apply State_emit_keeps | apply keeps_ite | apply keeps_foldl)
    | split
    | dsimp only
    | (with_reducible first | apply keeps_mk | apply keeps_audit | apply keeps_fabric)

theorem setHealth_keeps {b : Bool} {s0 s : State} (x1 : Word) (h : Keeps b s0 s) :
    Keeps b s0 (setHealth x1 s) := by
  unfold setHealth
  repeat' first
    | (with_reducible first | assumption | intro _ | apply smbAlert_keeps | apply keeps_ite | apply keeps_foldl)
    | split
    | dsimp only
    | (with_reducible first | apply keeps_mk | apply keeps_audit | apply keeps_fabric)

theorem execSmbIdentity_keeps {b : Bool} {s0 s u : State} (h : Keeps b s0 s)
    (e : execSmbIdentity s = .next u) : Keeps b s0 u := by
  unfold execSmbIdentity at e
  (injection e with e; subst e)
  all_goals
    repeat' first
      | (with_reducible first | assumption | intro _ | apply smbReply_keeps | apply keeps_ite | apply keeps_foldl)
      | split
      | dsimp only
      | (with_reducible first | apply keeps_mk | apply keeps_audit | apply keeps_fabric)

theorem execSmbState_keeps {b : Bool} {s0 s u : State} (h : Keeps b s0 s)
    (e : execSmbState s = .next u) : Keeps b s0 u := by
  unfold execSmbState at e
  (injection e with e; subst e)
  all_goals
    repeat' first
      | (with_reducible first | assumption | intro _ | apply smbReply_keeps | apply keeps_ite | apply keeps_foldl)
      | split
      | dsimp only
      | (with_reducible first | apply keeps_mk | apply keeps_audit | apply keeps_fabric)

theorem execSmbStartRecord_keeps {b : Bool} {s0 s u : State} (h : Keeps b s0 s)
    (e : execSmbStartRecord s = .next u) : Keeps b s0 u := by
  unfold execSmbStartRecord at e
  (injection e with e; subst e)
  all_goals
    repeat' first
      | (with_reducible first | assumption | intro _ | apply smbReply_keeps | apply keeps_ite | apply keeps_foldl)
      | split
      | dsimp only
      | (with_reducible first | apply keeps_mk | apply keeps_audit | apply keeps_fabric)

theorem execSmbHealth_keeps {b : Bool} {s0 s u : State} (h : Keeps b s0 s)
    (e : execSmbHealth s = .next u) : Keeps b s0 u := by
  unfold execSmbHealth at e
  (injection e with e; subst e)
  all_goals
    repeat' first
      | (with_reducible first | assumption | intro _ | apply smbReply_keeps | apply keeps_ite | apply keeps_foldl)
      | split
      | dsimp only
      | (with_reducible first | apply keeps_mk | apply keeps_audit | apply keeps_fabric)

theorem execSmbResetCause_keeps {b : Bool} {s0 s u : State} (h : Keeps b s0 s)
    (e : execSmbResetCause s = .next u) : Keeps b s0 u := by
  unfold execSmbResetCause at e
  (injection e with e; subst e)
  all_goals
    repeat' first
      | (with_reducible first | assumption | intro _ | apply smbReply_keeps | apply keeps_ite | apply keeps_foldl)
      | split
      | dsimp only
      | (with_reducible first | apply keeps_mk | apply keeps_audit | apply keeps_fabric)

theorem execSmbTemperature_keeps {b : Bool} {s0 s u : State} (h : Keeps b s0 s)
    (e : execSmbTemperature s = .next u) : Keeps b s0 u := by
  unfold execSmbTemperature at e
  (injection e with e; subst e)
  all_goals
    repeat' first
      | (with_reducible first | assumption | intro _ | apply smbReply_keeps | apply keeps_ite | apply keeps_foldl)
      | split
      | dsimp only
      | (with_reducible first | apply keeps_mk | apply keeps_audit | apply keeps_fabric)

theorem execSmbPower_keeps {b : Bool} {s0 s u : State} (h : Keeps b s0 s)
    (e : execSmbPower s = .next u) : Keeps b s0 u := by
  unfold execSmbPower at e
  (injection e with e; subst e)
  all_goals
    repeat' first
      | (with_reducible first | assumption | intro _ | apply smbReply_keeps | apply keeps_ite | apply keeps_foldl)
      | split
      | dsimp only
      | (with_reducible first | apply keeps_mk | apply keeps_audit | apply keeps_fabric)

theorem execSmbAlertStatus_keeps {b : Bool} {s0 s u : State} (h : Keeps b s0 s)
    (e : execSmbAlertStatus s = .next u) : Keeps b s0 u := by
  unfold execSmbAlertStatus at e
  (injection e with e; subst e)
  all_goals
    repeat' first
      | (with_reducible first | assumption | intro _ | apply smbAlerts_keeps | apply keeps_ite | apply keeps_foldl)
      | split
      | dsimp only
      | (with_reducible first | apply keeps_mk | apply keeps_audit | apply keeps_fabric)

theorem execSmbRecovery_keeps {b : Bool} {s0 s u : State} (h : Keeps b s0 s)
    (e : execSmbRecovery s = .next u) : Keeps b s0 u := by
  unfold execSmbRecovery at e
  (injection e with e; subst e)
  all_goals
    repeat' first
      | (with_reducible first | assumption | intro _ | apply smbReply_keeps | apply keeps_ite | apply keeps_foldl)
      | split
      | dsimp only
      | (with_reducible first | apply keeps_mk | apply keeps_audit | apply keeps_fabric)

theorem execSmbAuditHead_keeps {b : Bool} {s0 s u : State} (h : Keeps b s0 s)
    (e : execSmbAuditHead s = .next u) : Keeps b s0 u := by
  unfold execSmbAuditHead at e
  (injection e with e; subst e)
  all_goals
    repeat' first
      | (with_reducible first | assumption | intro _ | apply smbReply_keeps | apply keeps_ite | apply keeps_foldl)
      | split
      | dsimp only
      | (with_reducible first | apply keeps_mk | apply keeps_audit | apply keeps_fabric)

theorem execAlertResponseAddress_keeps {b : Bool} {s0 s u : State} (h : Keeps b s0 s)
    (e : execAlertResponseAddress s = .next u) : Keeps b s0 u := by
  unfold execAlertResponseAddress at e
  (injection e with e; subst e)
  all_goals
    repeat' first
      | (with_reducible first | assumption | intro _ | apply alertResponse_keeps | apply keeps_ite | apply keeps_foldl)
      | split
      | dsimp only
      | (with_reducible first | apply keeps_mk | apply keeps_audit | apply keeps_fabric)

/-! ### Machine/ResetRecords.lean -/

theorem countRecord_keeps {b : Bool} {s0 s : State} (h : Keeps b s0 s) :
    Keeps b s0 (countRecord s) := by
  unfold countRecord
  repeat' first
    | (with_reducible first | assumption | intro _ | apply State_setReg_keeps | apply keeps_ite | apply keeps_foldl)
    | split
    | dsimp only
    | (with_reducible first | apply keeps_mk | apply keeps_audit | apply keeps_fabric)

theorem flashRecord_keeps {b : Bool} {s0 s : State} (x1 : Bytes) (h : Keeps b s0 s) :
    Keeps b s0 (flashRecord x1 s) := by
  unfold flashRecord
  repeat' first
    | (with_reducible first | assumption | intro _ | apply countRecord_keeps | apply keeps_ite | apply keeps_foldl)
    | split
    | dsimp only
    | (with_reducible first | apply keeps_mk | apply keeps_audit | apply keeps_fabric)

theorem loseRecord_keeps {b : Bool} {s0 s : State} (h : Keeps b s0 s) :
    Keeps b s0 (loseRecord s) := by
  unfold loseRecord
  repeat' first
    | (with_reducible first | assumption | intro _ | apply State_setReg_keeps | apply keeps_ite | apply keeps_foldl)
    | split
    | dsimp only
    | (with_reducible first | apply keeps_mk | apply keeps_audit | apply keeps_fabric)

theorem writeRecord_keeps {b : Bool} {s0 s : State} (x1 : RecHead) (x2 : List (Nat × List Bytes)) (h : Keeps b s0 s) :
    Keeps b s0 (writeRecord x1 x2 s) := by
  unfold writeRecord
  repeat' first
    | (with_reducible first | assumption | intro _ | apply countRecord_keeps | apply writePhys_keeps
                            | apply flashRecord_keeps | apply keeps_ite | apply keeps_foldl)
    | split
    | dsimp only
    | (with_reducible first | apply keeps_mk | apply keeps_audit | apply keeps_fabric)

/-! ### Machine/Link.lean -/

theorem sendAck_keeps {b : Bool} {s0 s : State} (x1 : Bool) (h : Keeps b s0 s) :
    Keeps b s0 (sendAck x1 s) := by
  unfold sendAck
  repeat' first
    | (with_reducible first | assumption | intro _ | apply State_emit_keeps | apply keeps_ite | apply keeps_foldl)
    | split
    | dsimp only
    | (with_reducible first | apply keeps_mk | apply keeps_audit | apply keeps_fabric)

theorem setLink_keeps {b : Bool} {s0 s : State} (x1 : BitVec 2) (h : Keeps b s0 s) :
    Keeps b s0 (setLink x1 s) := by
  unfold setLink
  repeat' first
    | (with_reducible first | assumption | intro _ | apply auditState_keeps | apply keeps_ite | apply keeps_foldl)
    | split
    | dsimp only
    | (with_reducible first | apply keeps_mk | apply keeps_audit | apply keeps_fabric)

theorem linkFresh_keeps {b : Bool} {s0 s : State} (x1 : Option (BitVec 2)) (x2 : BitVec 16) (h : Keeps b s0 s) :
    Keeps b s0 (linkFresh x1 x2 s) := by
  unfold linkFresh
  repeat' first
    | (with_reducible first | assumption | intro _ | apply setLink_keeps | apply keeps_ite | apply keeps_foldl)
    | split
    | dsimp only
    | (with_reducible first | apply keeps_mk | apply keeps_audit | apply keeps_fabric)

theorem startRetrain_keeps {b : Bool} {s0 s : State} (h : Keeps b s0 s) :
    Keeps b s0 (startRetrain s) := by
  unfold startRetrain
  repeat' first
    | (with_reducible first | assumption | intro _ | apply count_keeps | apply setLink_keeps | apply
                            keeps_ite | apply keeps_foldl)
    | split
    | dsimp only
    | (with_reducible first | apply keeps_mk | apply keeps_audit | apply keeps_fabric)

theorem replayAll_keeps {b : Bool} {s0 s : State} (h : Keeps b s0 s) :
    Keeps b s0 (replayAll s) := by
  unfold replayAll
  repeat' first
    | (with_reducible first | assumption | intro _ | apply State_emit_keeps | apply count_keeps |
                            apply keeps_ite | apply keeps_foldl | apply keeps_ite_fst | apply keeps_foldl_fst | apply
                            keeps_foldl_snd)
    | split
    | dsimp only
    | (with_reducible first | apply keeps_mk | apply keeps_audit | apply keeps_fabric)

theorem replayOnce_keeps {b : Bool} {s0 s : State} (h : Keeps b s0 s) :
    Keeps b s0 (replayOnce s) := by
  unfold replayOnce
  repeat' first
    | (with_reducible first | assumption | intro _ | apply replayAll_keeps | apply
                            startRetrain_keeps | apply keeps_ite | apply keeps_foldl)
    | split
    | dsimp only
    | (with_reducible first | apply keeps_mk | apply keeps_audit | apply keeps_fabric)

theorem flushAll_keeps {b : Bool} {s0 s : State} (h : Keeps b s0 s) :
    Keeps b s0 (flushAll s) := by
  unfold flushAll
  repeat' first
    | (with_reducible first | assumption | intro _ | apply flushRecords_keeps | apply
                            writeDueLines_keeps | apply keeps_ite | apply keeps_foldl | apply keeps_ite_fst | apply
                            keeps_foldl_fst | apply keeps_foldl_snd)
    | split
    | dsimp only
    | (with_reducible first | apply keeps_mk | apply keeps_audit | apply keeps_fabric)

theorem retrainDone_keeps {b : Bool} {s0 s : State} (x1 : BitVec 16) (h : Keeps b s0 s) :
    Keeps b s0 (retrainDone x1 s) := by
  unfold retrainDone
  repeat' first
    | (with_reducible first | assumption | intro _ | apply flushAll_keeps | apply replayAll_keeps |
                            apply setLink_keeps | apply keeps_ite | apply keeps_foldl)
    | split
    | dsimp only
    | (with_reducible first | apply keeps_mk | apply keeps_audit | apply keeps_fabric)

theorem linkDown_keeps {b : Bool} {s0 s : State} (h : Keeps b s0 s) :
    Keeps b s0 (linkDown s) := by
  unfold linkDown
  repeat' first
    | (with_reducible first | assumption | intro _ | apply startRetrain_keeps | apply setLink_keeps
                            | apply keeps_ite | apply keeps_foldl)
    | split
    | dsimp only
    | (with_reducible first | apply keeps_mk | apply keeps_audit | apply keeps_fabric)

theorem takeAck_keeps {b : Bool} {s0 s : State} (x1 : Nat) (h : Keeps b s0 s) :
    Keeps b s0 (takeAck x1 s) := by
  unfold takeAck
  repeat' first
    | (with_reducible first | assumption | intro _ | apply replayOnce_keeps | apply keeps_ite | apply keeps_foldl)
    | split
    | dsimp only
    | (with_reducible first | apply keeps_mk | apply keeps_audit | apply keeps_fabric)

theorem flitReceived_keeps {b : Bool} {s0 s : State} (x1 : Bytes) (h : Keeps b s0 s) :
    Keeps b s0 (flitReceived x1 s) := by
  unfold flitReceived
  repeat' first
    | (with_reducible first | assumption | intro _ | apply sendAck_keeps | apply takeAck_keeps |
                            apply keeps_ite | apply keeps_foldl)
    | split
    | dsimp only
    | (with_reducible first | apply keeps_mk | apply keeps_audit | apply keeps_fabric)

theorem replayTimeout_keeps {b : Bool} {s0 s : State} (h : Keeps b s0 s) :
    Keeps b s0 (replayTimeout s) := by
  unfold replayTimeout
  repeat' first
    | (with_reducible first | assumption | intro _ | apply replayOnce_keeps | apply keeps_ite | apply keeps_foldl)
    | split
    | dsimp only
    | (with_reducible first | apply keeps_mk | apply keeps_audit | apply keeps_fabric)

theorem completion_keeps {b : Bool} {s0 s : State} (x1 : BitVec 16) (x2 : Byte) (x3 : Bytes) (h : Keeps b s0 s) :
    Keeps b s0 (completion x1 x2 x3 s) := by
  unfold completion
  repeat' first
    | (with_reducible first | assumption | intro _ | apply gotPointer_keeps | apply endRead_keeps |
                            apply gotEntry_keeps | apply ringError_keeps | apply keeps_ite | apply keeps_foldl)
    | split
    | dsimp only
    | (with_reducible first | apply keeps_mk | apply keeps_audit | apply keeps_fabric)

theorem execTrplFlitReceived_keeps {b : Bool} {s0 s u : State} {x1 : Bytes} (h : Keeps b s0 s)
    (e : execTrplFlitReceived x1 s = .next u) : Keeps b s0 u := by
  unfold execTrplFlitReceived at e
  (injection e with e; subst e)
  all_goals
    repeat' first
      | (with_reducible first | assumption | intro _ | apply flitReceived_keeps | apply keeps_ite | apply keeps_foldl)
      | split
      | dsimp only
      | (with_reducible first | apply keeps_mk | apply keeps_audit | apply keeps_fabric)

theorem execTrplReplayTimeout_keeps {b : Bool} {s0 s u : State} (h : Keeps b s0 s)
    (e : execTrplReplayTimeout s = .next u) : Keeps b s0 u := by
  unfold execTrplReplayTimeout at e
  (injection e with e; subst e)
  all_goals
    repeat' first
      | (with_reducible first | assumption | intro _ | apply replayTimeout_keeps | apply keeps_ite | apply keeps_foldl)
      | split
      | dsimp only
      | (with_reducible first | apply keeps_mk | apply keeps_audit | apply keeps_fabric)

theorem execTrplRetrainDone_keeps {b : Bool} {s0 s u : State} {x1 : BitVec 16} (h : Keeps b s0 s)
    (e : execTrplRetrainDone x1 s = .next u) : Keeps b s0 u := by
  unfold execTrplRetrainDone at e
  (injection e with e; subst e)
  all_goals
    repeat' first
      | (with_reducible first | assumption | intro _ | apply retrainDone_keeps | apply keeps_ite | apply keeps_foldl)
      | split
      | dsimp only
      | (with_reducible first | apply keeps_mk | apply keeps_audit | apply keeps_fabric)

theorem execTrplDownTimer_keeps {b : Bool} {s0 s u : State} (h : Keeps b s0 s)
    (e : execTrplDownTimer s = .next u) : Keeps b s0 u := by
  unfold execTrplDownTimer at e
  (injection e with e; subst e)
  all_goals
    repeat' first
      | (with_reducible first | assumption | intro _ | apply linkDown_keeps | apply keeps_ite | apply keeps_foldl)
      | split
      | dsimp only
      | (with_reducible first | apply keeps_mk | apply keeps_audit | apply keeps_fabric)

theorem execSnoop_keeps {b : Bool} {s0 s u : State} {x1 : Dword} {x2 : Bool} (h : Keeps b s0 s)
    (e : execSnoop x1 x2 s = .next u) : Keeps b s0 u := by
  unfold execSnoop at e
  (repeat' split at e) <;> (injection e with e; subst e)
  all_goals
    repeat' first
      | (with_reducible first | assumption | intro _ | apply snoop_keeps | apply count_keeps | apply
                              keeps_ite | apply keeps_foldl)
      | split
      | dsimp only
      | (with_reducible first | apply keeps_mk | apply keeps_audit | apply keeps_fabric)

theorem execGengPollExpire_keeps {b : Bool} {s0 s u : State} (h : Keeps b s0 s)
    (e : execGengPollExpire s = .next u) : Keeps b s0 u := by
  unfold execGengPollExpire at e
  (injection e with e; subst e)
  all_goals
    repeat' first
      | (with_reducible first | assumption | intro _ | apply pollRings_keeps | apply keeps_ite | apply keeps_foldl)
      | split
      | dsimp only
      | (with_reducible first | apply keeps_mk | apply keeps_audit | apply keeps_fabric)

theorem execRdSharedDone_keeps {b : Bool} {s0 s u : State} {x1 : Fin 64} {x2 : Fin 8} {x3 : RdData} (h : Keeps b s0 s)
    (e : execRdSharedDone x1 x2 x3 s = .next u) : Keeps b s0 u := by
  unfold execRdSharedDone at e
  (repeat' split at e) <;> (injection e with e; subst e)
  all_goals
    repeat' first
      | (with_reducible first | assumption | intro _ | apply gotPointer_keeps | apply
                              gotEntries_keeps | apply keeps_ite | apply keeps_foldl)
      | split
      | dsimp only
      | (with_reducible first | apply keeps_mk | apply keeps_audit | apply keeps_fabric)

theorem execCompletion_keeps {b : Bool} {s0 s u : State} {x1 : BitVec 16} {x2 : Byte} {x3 : Bytes} (h : Keeps b s0 s)
    (e : execCompletion x1 x2 x3 s = .next u) : Keeps b s0 u := by
  unfold execCompletion at e
  (injection e with e; subst e)
  all_goals
    repeat' first
      | (with_reducible first | assumption | intro _ | apply completion_keeps | apply keeps_ite | apply keeps_foldl)
      | split
      | dsimp only
      | (with_reducible first | apply keeps_mk | apply keeps_audit | apply keeps_fabric)

theorem execMsiTimerExpire_keeps {b : Bool} {s0 s u : State} {x1 : Fin 64} {x2 : Fin 8} (h : Keeps b s0 s)
    (e : execMsiTimerExpire x1 x2 s = .next u) : Keeps b s0 u := by
  unfold execMsiTimerExpire at e
  (injection e with e; subst e)
  all_goals
    repeat' first
      | (with_reducible first | assumption | intro _ | apply msiTimer_keeps | apply keeps_ite | apply keeps_foldl)
      | split
      | dsimp only
      | (with_reducible first | apply keeps_mk | apply keeps_audit | apply keeps_fabric)

theorem execContextRelease_keeps {s0 s u : State} {x1 : Fin 64} (h : Keeps false s0 s)
    (e : execContextRelease x1 s = .next u) : Keeps false s0 u := by
  unfold execContextRelease at e
  (injection e with e; subst e)
  all_goals
    repeat' first
      | (with_reducible first | assumption | intro _ | apply ctxRings_keeps | apply keeps_ite | apply keeps_foldl)
      | split
      | dsimp only
      | (with_reducible first | apply keeps_mk | apply keeps_audit | apply keeps_fabric)

/-! ### Machine/Starts.lean -/

theorem clearDevice_keeps {b : Bool} {s0 s : State} (x1 : Bool) (x2 : Bool) (h : Keeps b s0 s) :
    Keeps b s0 (clearDevice x1 x2 s) := by
  refine h.trans ⟨rfl, rfl, List.prefix_refl _, Nat.le_refl _, id, fun w => NMap.wf_filter _ w, fun w => ?_, fun w => ?_, id,
    fun _ => ⟨rfl, rfl⟩⟩
  · have kept : NMap.rising 0 s.keptCtxs = true := by
      have key : ∀ (l : NMap Ctx) (m : NMap Ctx), NMap.rising 0 m = true →
          NMap.rising 0 (l.foldl (fun m e => NMap.set (fun _ => Ctx.empty) m e.1 (e.2.voteOnly (s.ctxJob e.1))) m) = true := by
        intro l
        induction l with
        | nil => intro m hm; exact hm
        | cons e l ih => intro m hm; exact ih _ (rising_set _ _ hm)
      exact key _ _ rfl
    simp only [State.keysRise, Bool.and_eq_true] at w
    unfold clearDevice
    cases x1
    · rfl
    · simp only [State.keysRise, if_true, kept, Bool.and_eq_true]
      exact ⟨⟨⟨⟨trivial, rfl⟩, rfl⟩, rfl⟩, w.2⟩
  · unfold clearDevice
    cases x1
    · rfl
    · exact w

theorem recordDevice_keeps {b : Bool} {s0 s : State} (x1 : Source) (x2 : Bool) (x3 : Option Word) (h : Keeps b s0 s) :
    Keeps b s0 (recordDevice x1 x2 x3 s) := by
  unfold recordDevice
  repeat' first
    | (with_reducible first | assumption | intro _ | apply flashRecord_keeps | apply keeps_ite | apply keeps_foldl)
    | split
    | dsimp only
    | (with_reducible first | apply keeps_mk | apply keeps_audit | apply keeps_fabric)

theorem setCause_keeps {b : Bool} {s0 s : State} (x1 : Source) (x2 : Bool) (x3 : Bool) (x4 : Bool) (h : Keeps b s0 s) :
    Keeps b s0 (setCause x1 x2 x3 x4 s) := by
  unfold setCause
  repeat' first
    | (with_reducible first | assumption | intro _ | apply State_setReg_keeps | apply keeps_ite | apply keeps_foldl)
    | split
    | dsimp only
    | (with_reducible first | apply keeps_mk | apply keeps_audit | apply keeps_fabric)

theorem resetDevice_keeps {s0 s : State} (x1 : Source) (x2 : Bool) (x3 : Bool) (x4 : Option (Option Word)) (h : Keeps
    false s0 s) :
    Keeps false s0 (resetDevice x1 x2 x3 x4 s) := by
  unfold resetDevice
  split
  · exact h
  next ho =>
    have r := Keeps.refl true s
    dsimp only
    refine setDev_after (s := s) ?_ ?_ h
    · split
      · exact mayMove_coldStart _
      · exact mayMove_warmStart ho
    · repeat' first
        | (with_reducible first | assumption | intro _ | apply State_setRegBit_keeps | apply
                                setCause_keeps | apply clearDevice_keeps | apply recordDevice_keeps | apply forcedVote_keeps
                                | apply keeps_ite | apply keeps_foldl)
        | (with_reducible apply keeps_mk)
        | (refine keeps_hbm ?_ rfl)

theorem resetPower_keeps {s0 s : State} (x1 : Bool) (x2 : Straps) (h : Keeps false s0 s) :
    Keeps false s0 (resetPower x1 x2 s) := by
  unfold resetPower
  repeat' first
    | (with_reducible first | assumption | intro _ | apply clearDevice_keeps | apply setCause_keeps
                            | apply keeps_ite | apply keeps_foldl)
    | (with_reducible apply keeps_clear)
    | (with_reducible refine setDev_keeps _ (mayMove_coldStart _) ?_)
    | split
    | dsimp only
    | (with_reducible first | apply keeps_mk | apply keeps_audit | apply keeps_fabric)
    | (refine keeps_hbm ?_ rfl)

theorem rejectImage_keeps {b : Bool} {s0 s : State} (x1 : Nat) (x2 : Nat) (x3 : Nat) (x4 : Word) (h : Keeps b s0 s) :
    Keeps b s0 (rejectImage x1 x2 x3 x4 s) := by
  unfold rejectImage
  repeat' first
    | (with_reducible first | assumption | intro _ | apply raiseDev_keeps | apply keeps_ite | apply keeps_foldl)
    | split
    | dsimp only
    | (with_reducible first | apply keeps_mk | apply keeps_audit | apply keeps_fabric)

theorem checkObj_keeps {b : Bool} {s0 s : State} (x1 : Option SignedObj) (x2 : Nat) (x3 : Nat) (x4 : Bytes) (x5 : Word)
    (h : Keeps b s0 s) :
    Keeps b s0 (checkObj x1 x2 x3 x4 x5 s).1 := by
  unfold checkObj
  repeat' first
    | (with_reducible first | assumption | intro _ | apply rejectImage_keeps | apply keeps_ite |
                            apply keeps_foldl | apply keeps_ite_fst | apply keeps_foldl_fst | apply keeps_foldl_snd)
    | split
    | dsimp only
    | (with_reducible first | apply keeps_mk | apply keeps_audit | apply keeps_fabric)

theorem findPart_keeps {b : Bool} {s0 s : State} (x1 : StartEnv) (h : Keeps b s0 s) :
    Keeps b s0 (findPart x1 s).1 := by
  unfold findPart
  repeat' first
    | (with_reducible first | assumption | intro _ | apply checkObj_keeps | apply rejectImage_keeps
                            | apply keeps_ite | apply keeps_foldl | apply keeps_ite_fst | apply keeps_foldl_fst | apply
                            keeps_foldl_snd)
    | (with_reducible refine keeps_fst (by with_reducible assumption) ?_)
    | split
    | dsimp only
    | (with_reducible first | apply keeps_mk | apply keeps_audit | apply keeps_fabric)

theorem checkConfig_keeps {b : Bool} {s0 s : State} (x1 : Bytes) (x2 : Option SignedObj) (h : Keeps b s0 s) :
    Keeps b s0 (checkConfig x1 x2 s).1 := by
  unfold checkConfig
  repeat' first
    | (with_reducible first | assumption | intro _ | apply checkObj_keeps | apply rejectImage_keeps
                            | apply keeps_ite | apply keeps_foldl | apply keeps_ite_fst | apply keeps_foldl_fst | apply
                            keeps_foldl_snd)
    | (with_reducible refine keeps_fst (by with_reducible assumption) ?_)
    | split
    | dsimp only
    | (with_reducible first | apply keeps_mk | apply keeps_audit | apply keeps_fabric)

theorem findConfig_keeps {b : Bool} {s0 s : State} (x1 : Bytes) (h : Keeps b s0 s) :
    Keeps b s0 (findConfig x1 s).1 := by
  unfold findConfig
  repeat' first
    | (with_reducible first | assumption | intro _ | apply checkConfig_keeps | apply keeps_ite |
                            apply keeps_foldl | apply keeps_ite_fst | apply keeps_foldl_fst | apply keeps_foldl_snd)
    | (with_reducible refine keeps_fst (by with_reducible assumption) ?_)
    | split
    | dsimp only
    | (with_reducible first | apply keeps_mk | apply keeps_audit | apply keeps_fabric)

theorem checkCode_keeps {b : Bool} {s0 s : State} (x1 : BitVec 2) (x2 : Nat) (x3 : Nat) (x4 : Option SignedObj) (x5 :
    Option SignedObj) (x6 : Bytes) (x7 : Word) (h : Keeps b s0 s) :
    Keeps b s0 (checkCode x1 x2 x3 x4 x5 x6 x7 s).1 := by
  unfold checkCode
  repeat' first
    | (with_reducible first | assumption | intro _ | apply checkObj_keeps | apply keeps_ite | apply
                            keeps_foldl | apply keeps_ite_fst | apply keeps_foldl_fst | apply keeps_foldl_snd)
    | (with_reducible refine keeps_fst (by with_reducible assumption) ?_)
    | split
    | dsimp only
    | (with_reducible first | apply keeps_mk | apply keeps_audit | apply keeps_fabric)

theorem findCode_keeps {b : Bool} {s0 s : State} (x1 : Bytes) (x2 : Word) (h : Keeps b s0 s) :
    Keeps b s0 (findCode x1 x2 s).1 := by
  unfold findCode
  repeat' first
    | (with_reducible first | assumption | intro _ | apply checkCode_keeps | apply keeps_ite | apply
                            keeps_foldl | apply keeps_ite_fst | apply keeps_foldl_fst | apply keeps_foldl_snd)
    | (with_reducible refine keeps_fst (by with_reducible assumption) ?_)
    | split
    | dsimp only
    | (with_reducible first | apply keeps_mk | apply keeps_audit | apply keeps_fabric)

theorem promoteStaged_keeps {b : Bool} {s0 s : State} (x1 : Bytes) (h : Keeps b s0 s) :
    Keeps b s0 (promoteStaged x1 s) := by
  unfold promoteStaged
  repeat' first
    | (with_reducible first | assumption | intro _ | apply checkObj_keeps | apply keeps_ite | apply keeps_foldl)
    | (with_reducible refine keeps_fst (by with_reducible assumption) ?_)
    | split
    | dsimp only
    | (with_reducible first | apply keeps_mk | apply keeps_audit | apply keeps_fabric)

theorem lockRanges_keeps {b : Bool} {s0 s : State} (h : Keeps b s0 s) :
    Keeps b s0 (lockRanges s) := by
  unfold lockRanges
  repeat' first
    | (with_reducible first | assumption | intro _ | apply State_setReg_keeps | apply keeps_ite |
                            apply keeps_foldl | apply keeps_ite_fst | apply keeps_foldl_fst | apply keeps_foldl_snd)
    | split
    | dsimp only
    | (with_reducible first | apply keeps_mk | apply keeps_audit | apply keeps_fabric)

theorem measure_keeps {b : Bool} {s0 s : State} (x1 : Byte) (x2 : Byte) (x3 : SignedObj) (h : Keeps b s0 s) :
    Keeps b s0 (measure x1 x2 x3 s) := by
  unfold measure
  repeat' first
    | (with_reducible first | assumption | intro _ | apply raiseDev_keeps | apply keeps_ite | apply keeps_foldl)
    | split
    | dsimp only
    | (with_reducible first | apply keeps_mk | apply keeps_audit | apply keeps_fabric)

theorem drawEntropy_keeps {b : Bool} {s0 s : State} (h : Keeps b s0 s) :
    Keeps b s0 (drawEntropy s).1 := by
  unfold drawEntropy
  repeat' first
    | (with_reducible first | assumption | intro _ | apply keeps_ite | apply keeps_foldl | apply
                            keeps_ite_fst | apply keeps_foldl_fst | apply keeps_foldl_snd)
    | (with_reducible apply keeps_fresh)
    | split
    | dsimp only
    | (with_reducible first | apply keeps_mk | apply keeps_audit | apply keeps_fabric)

theorem deriveKeys_keeps {b : Bool} {s0 s : State} (x1 : SignedObj) (h : Keeps b s0 s) :
    Keeps b s0 (deriveKeys x1 s) := by
  unfold deriveKeys
  repeat' first
    | (with_reducible first | assumption | intro _ | apply drawEntropy_keeps | apply keeps_ite | apply keeps_foldl)
    | (with_reducible refine keeps_fst (by with_reducible assumption) ?_)
    | split
    | dsimp only
    | (with_reducible first | apply keeps_mk | apply keeps_audit | apply keeps_fabric)

theorem drawDebugNonce_keeps {b : Bool} {s0 s : State} (h : Keeps b s0 s) :
    Keeps b s0 (drawDebugNonce s) := by
  unfold drawDebugNonce
  repeat' first
    | (with_reducible first | assumption | intro _ | apply drawEntropy_keeps | apply keeps_ite | apply keeps_foldl)
    | (with_reducible refine keeps_fst (by with_reducible assumption) ?_)
    | split
    | dsimp only
    | (with_reducible first | apply keeps_mk | apply keeps_audit | apply keeps_fabric)

theorem flushReserve_keeps {b : Bool} {s0 s : State} (x1 : Nat) (h : Keeps b s0 s) :
    Keeps b s0 (flushReserve x1 s) := by
  induction x1 generalizing s  with
  | zero => exact h
  | succ n ih =>
    unfold flushReserve
    repeat' first
      | (with_reducible first | assumption | intro _ | apply auditAppend_keeps | apply keeps_ite | apply keeps_foldl | apply ih)
      | split
      | dsimp only
      | (with_reducible first | apply keeps_mk | apply keeps_audit | apply keeps_fabric)

theorem resumeAudit_keeps {b : Bool} {s0 s : State} (x1 : StartEnv) (h : Keeps b s0 s) : Keeps b s0 (resumeAudit x1 s) := by
  unfold resumeAudit
  dsimp only
  apply flushReserve_keeps
  apply auditPush_keeps
  exact h.trans ⟨rfl, rfl, List.prefix_refl _, Nat.le_refl _, id, id, id, fun _ => rfl, id, fun _ => ⟨rfl, rfl⟩⟩

theorem enterRecovery_keeps {s0 s : State} (x1 : Byte) (hd : s.starting = true) (h : Keeps false s0 s) :
    Keeps false s0 (enterRecovery x1 s) := by
  have r := Keeps.refl true s
  unfold enterRecovery
  dsimp only
  split
  · refine setDev_after (s := s) ?_ ?_ h
    · simp only [State.starting, decide_eq_true_eq] at hd
      rcases hd with hd | hd <;> rw [hd] <;> exact .inl rfl
    · repeat' first
        | (with_reducible first | assumption | apply linkFresh_keeps | apply smbAlert_keeps | apply raiseDev_keeps)
        | (with_reducible first | apply keeps_mk | apply keeps_audit)
  · repeat' first
      | (with_reducible first | assumption | apply smbAlert_keeps | apply raiseDev_keeps)
      | (with_reducible first | apply keeps_mk | apply keeps_audit)

theorem noteAttempt_keeps {b : Bool} {s0 s : State} (h : Keeps b s0 s) :
    Keeps b s0 (noteAttempt s) := by
  unfold noteAttempt
  repeat' first
    | (with_reducible first | assumption | intro _ | apply keeps_ite | apply keeps_foldl)
    | split
    | dsimp only
    | (with_reducible first | apply keeps_mk | apply keeps_audit | apply keeps_fabric)

theorem beginAttempt_keeps {b : Bool} {s0 s : State} (h : Keeps b s0 s) :
    Keeps b s0 (beginAttempt s) := by
  unfold beginAttempt
  repeat' first
    | (with_reducible first | assumption | intro _ | apply keeps_ite | apply keeps_foldl)
    | split
    | dsimp only
    | (with_reducible first | apply keeps_mk | apply keeps_audit | apply keeps_fabric)

theorem applyConfig_keeps {b : Bool} {s0 s : State} (x1 : Option SignedObj) (h : Keeps b s0 s) :
    Keeps b s0 (applyConfig x1 s) := by
  unfold applyConfig
  repeat' first
    | (with_reducible first | assumption | intro _ | apply keeps_ite | apply keeps_foldl)
    | split
    | dsimp only
    | (with_reducible first | apply keeps_mk | apply keeps_audit | apply keeps_fabric)

theorem rowEvent_keeps {b : Bool} {s0 s : State} (x1 : RowRepair) (x2 : Nat) (h : Keeps b s0 s) :
    Keeps b s0 (rowEvent x1 x2 s) := by
  unfold rowEvent
  repeat' first
    | (with_reducible first | assumption | intro _ | apply raiseDev_keeps | apply keeps_ite | apply keeps_foldl)
    | split
    | dsimp only
    | (with_reducible first | apply keeps_mk | apply keeps_audit | apply keeps_fabric)

theorem trainStacks_keeps {b : Bool} {s0 s : State} (x1 : StartEnv) (x2 : Bool) (h : Keeps b s0 s) :
    Keeps b s0 (trainStacks x1 x2 s) := by
  unfold trainStacks
  repeat' first
    | (with_reducible first | assumption | intro _ | apply setHealth_keeps | apply rowEvent_keeps |
                            apply State_setRegBit_keeps | apply keeps_ite | apply keeps_foldl | apply keeps_ite_fst | apply
                            keeps_foldl_fst | apply keeps_foldl_snd)
    | (with_reducible apply keeps_clear)
    | split
    | dsimp only
    | (with_reducible first | apply keeps_mk | apply keeps_audit | apply keeps_fabric)
    | (exact keeps_hbm h rfl)

theorem checkRepairLog_keeps {b : Bool} {s0 s : State} (h : Keeps b s0 s) :
    Keeps b s0 (checkRepairLog s) := by
  unfold checkRepairLog
  repeat' first
    | (with_reducible first | assumption | intro _ | apply rejectImage_keeps | apply keeps_ite |
                            apply keeps_foldl | apply keeps_ite_fst | apply keeps_foldl_fst | apply keeps_foldl_snd)
    | split
    | dsimp only
    | (with_reducible first | apply keeps_mk | apply keeps_audit | apply keeps_fabric)

theorem bootCode_keeps {s0 s : State} (x1 : StartEnv) (x2 : SignedObj) (x3 : Option SignedObj) (x4 : Code) (h : Keeps
    false s0 s) :
    Keeps false s0 (bootCode x1 x2 x3 x4 s) := by
  unfold bootCode
  repeat' first
    | (with_reducible first | assumption | intro _ | apply beginAttempt_keeps | apply
                            lockRanges_keeps | apply measure_keeps | apply drawDebugNonce_keeps | apply deriveKeys_keeps |
                            apply trainStacks_keeps | apply State_setRegBit_keeps | apply linkFresh_keeps | apply
                            checkRepairLog_keeps | apply flushReserve_keeps | apply resumeAudit_keeps | apply keeps_ite |
                            apply keeps_foldl)
    | (with_reducible refine setDev_keeps _ (mayMove_coldStart _) ?_)
    | split
    | dsimp only
    | (with_reducible first | apply keeps_mk | apply keeps_audit | apply keeps_fabric)
    | (refine keeps_hbm ?_ rfl)

theorem starting_of {s t : State} (k : Keeps true s t) (h : s.starting = true) : t.starting = true := by
  simpa only [State.starting, (k.still rfl).1] using h

theorem startDevice_keeps {s0 s : State} (x1 : StartEnv) (h : Keeps false s0 s) : Keeps false s0 (startDevice x1 s) := by
  unfold startDevice
  split
  · exact h
  next hs =>
    have hs' : s.starting = true := by
      simp only [not_or, Decidable.not_not] at hs
      exact hs.1
    have r := Keeps.refl true s
    have er : ∀ c {t : State}, Keeps true s t → Keeps false s0 (enterRecovery c t) := fun c t k =>
      enterRecovery_keeps c (starting_of k hs') (h.trans k.weak)
    extract_lets b0 a0 a1 a2
    have k1 : Keeps true s a2 := noteAttempt_keeps (keeps_mk r)
    clear_value a2
    split
    · exact er _ (keeps_mk k1)
    · split
      · exact er _ k1
      · have k2 : Keeps true s (findPart x1 a2).1 := findPart_keeps _ k1
        split
        next s2 part e2 =>
        rw [e2] at k2
        split
        · exact er _ (beginAttempt_keeps k2)
        next p =>
        split
        · exact er _ (beginAttempt_keeps (keeps_mk k2))
        · extract_lets b3
          have k3 : Keeps true s b3 := keeps_ite (promoteStaged_keeps _ k2) k2
          clear_value b3
          have k4 : Keeps true s (findConfig (objSerial p) b3).1 := findConfig_keeps _ k3
          split
          next s4 cfg e4 =>
          rw [e4] at k4
          extract_lets b5
          have k5 : Keeps true s b5 := applyConfig_keeps _ k4
          clear_value b5
          split
          next s6 code e6 =>
          have k6 : Keeps true s s6 := keeps_fst e6 (findCode_keeps _ _ k5)
          split
          · exact er _ (beginAttempt_keeps k6)
          · exact bootCode_keeps _ _ _ _ (h.trans k6.weak)

theorem noteDrain_keeps {b : Bool} {s0 s : State} (x1 : Nat) (x2 : Nat) (x3 : List Nat) (h : Keeps b s0 s) :
    Keeps b s0 (noteDrain x1 x2 x3 s) := by
  unfold noteDrain
  repeat' first
    | (with_reducible first | assumption | intro _ | apply State_setReg_keeps | apply raiseDev_keeps
                            | apply keeps_ite | apply keeps_foldl)
    | split
    | dsimp only
    | (with_reducible first | apply keeps_mk | apply keeps_audit | apply keeps_fabric)

theorem startComplete_keeps {s0 s : State} (h : Keeps false s0 s) : Keeps false s0 (startComplete s) := by
  unfold startComplete
  split
  · exact h
  next hs =>
    have hs' : s.starting = true := by
      simp only [not_or, Decidable.not_not] at hs
      exact hs.1
    have k1 : ∀ t : State, Keeps true s t → Keeps false s0 (setDev .ready t) := fun t k => by
      refine setDev_after (s := s) ?_ k h
      simp only [State.starting, decide_eq_true_eq] at hs'
      rcases hs' with hd | hd <;> rw [hd] <;> exact .inl rfl
    have k2 : ∀ t u : State, Keeps true s t → Keeps true (flushAll (setDev .ready t)) u → Keeps false s0 (setDev .fenced u) :=
      fun t u k ku => by
        refine setDev_after (.inl ?_) (Keeps.trans (flushAll_keeps (Keeps.refl true _)) ku) (k1 t k)
        rw [setDev_dev]; rfl
    dsimp only
    split
    · exact k2 _ _ (keeps_mk (Keeps.refl true s)) (noteDrain_keeps _ _ _ (setHealth_keeps _ (Keeps.refl true _)))
    · split
      · exact k2 _ _ (keeps_mk (Keeps.refl true s)) (Keeps.refl true _)
      · exact recount_keeps (flushAll_keeps (k1 _ (keeps_mk (Keeps.refl true s))))

theorem startTimerExpire_keeps {s0 s : State} (h : Keeps false s0 s) :
    Keeps false s0 (startTimerExpire s) := by
  unfold startTimerExpire
  repeat' first
    | (with_reducible first | assumption | intro _ | apply resetDevice_keeps | apply keeps_ite | apply keeps_foldl)
    | split
    | dsimp only
    | (with_reducible first | apply keeps_mk | apply keeps_audit | apply keeps_fabric)

theorem execStart_keeps {s0 s u : State} {x1 : StartEnv} (h : Keeps false s0 s)
    (e : execStart x1 s = .next u) : Keeps false s0 u := by
  unfold execStart at e
  (injection e with e; subst e)
  all_goals
    repeat' first
      | (with_reducible first | assumption | intro _ | apply startDevice_keeps | apply keeps_ite | apply keeps_foldl)
      | split
      | dsimp only
      | (with_reducible first | apply keeps_mk | apply keeps_audit | apply keeps_fabric)

theorem execStartComplete_keeps {s0 s u : State} (h : Keeps false s0 s)
    (e : execStartComplete s = .next u) : Keeps false s0 u := by
  unfold execStartComplete at e
  (injection e with e; subst e)
  all_goals
    repeat' first
      | (with_reducible first | assumption | intro _ | apply startComplete_keeps | apply keeps_ite | apply keeps_foldl)
      | split
      | dsimp only
      | (with_reducible first | apply keeps_mk | apply keeps_audit | apply keeps_fabric)

theorem execStartTimerExpire_keeps {s0 s u : State} (h : Keeps false s0 s)
    (e : execStartTimerExpire s = .next u) : Keeps false s0 u := by
  unfold execStartTimerExpire at e
  (injection e with e; subst e)
  all_goals
    repeat' first
      | (with_reducible first | assumption | intro _ | apply startTimerExpire_keeps | apply keeps_ite | apply keeps_foldl)
      | split
      | dsimp only
      | (with_reducible first | apply keeps_mk | apply keeps_audit | apply keeps_fabric)

/-! ### Machine/Ports.lean -/

theorem setPortState_keeps {b : Bool} {s0 s : State} (x1 : Nat) (x2 : BitVec 3) (h : Keeps b s0 s) :
    Keeps b s0 (setPortState x1 x2 s) := by
  unfold setPortState
  repeat' first
    | (with_reducible first | assumption | intro _ | apply auditState_keeps | apply
                            State_setPort_keeps | apply keeps_ite | apply keeps_foldl)
    | split
    | dsimp only
    | (with_reducible first | apply keeps_mk | apply keeps_audit | apply keeps_fabric)

theorem dropQueue_keeps {b : Bool} {s0 s : State} (x1 : Nat) (h : Keeps b s0 s) :
    Keeps b s0 (dropQueue x1 s) := by
  unfold dropQueue
  repeat' first
    | (with_reducible first | assumption | intro _ | apply discardAt_keeps | apply
                            State_setPort_keeps | apply keeps_ite | apply keeps_foldl | apply keeps_ite_fst | apply
                            keeps_foldl_fst | apply keeps_foldl_snd)
    | split
    | dsimp only
    | (with_reducible first | apply keeps_mk | apply keeps_audit | apply keeps_fabric)

theorem portDown_keeps {b : Bool} {s0 s : State} (x1 : Nat) (x2 : Nat) (x3 : Word) (h : Keeps b s0 s) :
    Keeps b s0 (portDown x1 x2 x3 s) := by
  unfold portDown
  repeat' first
    | (with_reducible first | assumption | intro _ | apply setPortState_keeps | apply
                            dropQueue_keeps | apply State_setPort_keeps | apply raiseDev_keeps | apply count_keeps | apply
                            keeps_ite | apply keeps_foldl)
    | split
    | dsimp only
    | (with_reducible first | apply keeps_mk | apply keeps_audit | apply keeps_fabric)

theorem refreshPort_keeps {b : Bool} {s0 s : State} (x1 : Nat) (h : Keeps b s0 s) :
    Keeps b s0 (refreshPort x1 s) := by
  unfold refreshPort
  repeat' first
    | (with_reducible first | assumption | intro _ | apply setPortState_keeps | apply
                            dropQueue_keeps | apply State_setPort_keeps | apply keeps_ite | apply keeps_foldl)
    | split
    | dsimp only
    | (with_reducible first | apply keeps_mk | apply keeps_audit | apply keeps_fabric)

theorem refreshPorts_keeps {b : Bool} {s0 s : State} (x1 : List Nat) (h : Keeps b s0 s) :
    Keeps b s0 (refreshPorts x1 s) := by
  unfold refreshPorts
  repeat' first
    | (with_reducible first | assumption | intro _ | apply refreshPort_keeps | apply keeps_ite |
                            apply keeps_foldl | apply keeps_ite_fst | apply keeps_foldl_fst | apply keeps_foldl_snd)
    | split
    | dsimp only
    | (with_reducible first | apply keeps_mk | apply keeps_audit | apply keeps_fabric)

theorem portUp_keeps {b : Bool} {s0 s : State} (x1 : Nat) (x2 : Byte) (x3 : Lanes) (h : Keeps b s0 s) :
    Keeps b s0 (portUp x1 x2 x3 s) := by
  unfold portUp
  repeat' first
    | (with_reducible first | assumption | intro _ | apply setPortState_keeps | apply
                            State_setPort_keeps | apply pairOnUp_keeps | apply raiseDev_keeps | apply keeps_ite | apply
                            keeps_foldl)
    | split
    | dsimp only
    | (with_reducible first | apply keeps_mk | apply keeps_audit | apply keeps_fabric)

theorem portTrained_keeps {b : Bool} {s0 s : State} (x1 : Nat) (x2 : Byte) (x3 : Bool) (h : Keeps b s0 s) :
    Keeps b s0 (portTrained x1 x2 x3 s) := by
  unfold portTrained
  repeat' first
    | (with_reducible first | assumption | intro _ | apply portDown_keeps | apply
                            State_setPort_keeps | apply portUp_keeps | apply keeps_ite | apply keeps_foldl)
    | split
    | dsimp only
    | (with_reducible first | apply keeps_mk | apply keeps_audit | apply keeps_fabric)

theorem pcsLoss_keeps {b : Bool} {s0 s : State} (x1 : Nat) (h : Keeps b s0 s) :
    Keeps b s0 (pcsLoss x1 s) := by
  unfold pcsLoss
  repeat' first
    | (with_reducible first | assumption | intro _ | apply portDown_keeps | apply keeps_ite | apply keeps_foldl)
    | split
    | dsimp only
    | (with_reducible first | apply keeps_mk | apply keeps_audit | apply keeps_fabric)

theorem ucwExceeded_keeps {b : Bool} {s0 s : State} (x1 : Nat) (x2 : Word) (h : Keeps b s0 s) :
    Keeps b s0 (ucwExceeded x1 x2 s) := by
  unfold ucwExceeded
  repeat' first
    | (with_reducible first | assumption | intro _ | apply portDown_keeps | apply keeps_ite | apply keeps_foldl)
    | split
    | dsimp only
    | (with_reducible first | apply keeps_mk | apply keeps_audit | apply keeps_fabric)

theorem portRetrain_keeps {b : Bool} {s0 s : State} (x1 : Nat) (h : Keeps b s0 s) :
    Keeps b s0 (portRetrain x1 s) := by
  unfold portRetrain
  repeat' first
    | (with_reducible first | assumption | intro _ | apply setPortState_keeps | apply keeps_ite | apply keeps_foldl)
    | split
    | dsimp only
    | (with_reducible first | apply keeps_mk | apply keeps_audit | apply keeps_fabric)

theorem execPortTrainingDone_keeps {b : Bool} {s0 s u : State} {x1 : Fin 9} {x2 : Byte} {x3 : Bool} (h : Keeps b s0 s)
    (e : execPortTrainingDone x1 x2 x3 s = .next u) : Keeps b s0 u := by
  unfold execPortTrainingDone at e
  (injection e with e; subst e)
  all_goals
    repeat' first
      | (with_reducible first | assumption | intro _ | apply portTrained_keeps | apply keeps_ite | apply keeps_foldl)
      | split
      | dsimp only
      | (with_reducible first | apply keeps_mk | apply keeps_audit | apply keeps_fabric)

theorem execPcsLockLoss_keeps {b : Bool} {s0 s u : State} {x1 : Fin 9} (h : Keeps b s0 s)
    (e : execPcsLockLoss x1 s = .next u) : Keeps b s0 u := by
  unfold execPcsLockLoss at e
  (injection e with e; subst e)
  all_goals
    repeat' first
      | (with_reducible first | assumption | intro _ | apply pcsLoss_keeps | apply keeps_ite | apply keeps_foldl)
      | split
      | dsimp only
      | (with_reducible first | apply keeps_mk | apply keeps_audit | apply keeps_fabric)

theorem execUcwLimitExceeded_keeps {b : Bool} {s0 s u : State} {x1 : Fin 9} {x2 : Word} (h : Keeps b s0 s)
    (e : execUcwLimitExceeded x1 x2 s = .next u) : Keeps b s0 u := by
  unfold execUcwLimitExceeded at e
  (injection e with e; subst e)
  all_goals
    repeat' first
      | (with_reducible first | assumption | intro _ | apply ucwExceeded_keeps | apply keeps_ite | apply keeps_foldl)
      | split
      | dsimp only
      | (with_reducible first | apply keeps_mk | apply keeps_audit | apply keeps_fabric)

theorem execPortRetrainTimer_keeps {b : Bool} {s0 s u : State} {x1 : Fin 9} (h : Keeps b s0 s)
    (e : execPortRetrainTimer x1 s = .next u) : Keeps b s0 u := by
  unfold execPortRetrainTimer at e
  (injection e with e; subst e)
  all_goals
    repeat' first
      | (with_reducible first | assumption | intro _ | apply portRetrain_keeps | apply keeps_ite | apply keeps_foldl)
      | split
      | dsimp only
      | (with_reducible first | apply keeps_mk | apply keeps_audit | apply keeps_fabric)

/-! ### Machine/Power.lean -/

theorem setSub_keeps {b : Bool} {s0 s : State} (x1 : SubState) (h : Keeps b s0 s) :
    Keeps b s0 (setSub x1 s) := by
  unfold setSub
  repeat' first
    | (with_reducible first | assumption | intro _ | apply smbAlert_keeps | apply keeps_ite | apply keeps_foldl)
    | split
    | dsimp only
    | (with_reducible first | apply keeps_mk | apply keeps_audit | apply keeps_fabric)

theorem refreshSub_keeps {b : Bool} {s0 s : State} (h : Keeps b s0 s) :
    Keeps b s0 (refreshSub s) := by
  unfold refreshSub
  repeat' first
    | (with_reducible first | assumption | intro _ | apply setSub_keeps | apply smbAlert_keeps |
                            apply keeps_ite | apply keeps_foldl)
    | split
    | dsimp only
    | (with_reducible first | apply keeps_mk | apply keeps_audit | apply keeps_fabric)

theorem railsUp_keeps {b : Bool} {s0 s : State} (h : Keeps b s0 s) :
    Keeps b s0 (railsUp s) := by
  unfold railsUp
  repeat' first
    | (with_reducible first | assumption | intro _ | apply refreshSub_keeps | apply keeps_ite | apply keeps_foldl)
    | split
    | dsimp only
    | (with_reducible first | apply keeps_mk | apply keeps_audit | apply keeps_fabric)

theorem railsOff_keeps {s0 s : State} (x1 : SubState) (h : Keeps false s0 s) :
    Keeps false s0 (railsOff x1 s) := by
  unfold railsOff
  repeat' first
    | (with_reducible first | assumption | intro _ | apply setSub_keeps | apply clearDevice_keeps |
                            apply smbKeep_keeps | apply keeps_ite | apply keeps_foldl)
    | (with_reducible refine setDev_keeps _ (Or.inl (mayMove_off _)) ?_)
    | split
    | dsimp only
    | (with_reducible first | apply keeps_mk | apply keeps_audit | apply keeps_fabric)
    | (refine keeps_clear_hbm ?_ rfl)

theorem standbyUp_keeps {b : Bool} {s0 s : State} (h : Keeps b s0 s) :
    Keeps b s0 (standbyUp s) := by
  unfold standbyUp
  repeat' first
    | (with_reducible first | assumption | intro _ | apply railsUp_keeps | apply keeps_ite | apply keeps_foldl)
    | split
    | dsimp only
    | (with_reducible first | apply keeps_mk | apply keeps_audit | apply keeps_fabric)

theorem pwrEnRise_keeps {b : Bool} {s0 s : State} (h : Keeps b s0 s) :
    Keeps b s0 (pwrEnRise s) := by
  unfold pwrEnRise
  repeat' first
    | (with_reducible first | assumption | intro _ | apply railsUp_keeps | apply keeps_ite | apply keeps_foldl)
    | split
    | dsimp only
    | (with_reducible first | apply keeps_mk | apply keeps_audit | apply keeps_fabric)

theorem porRelease_keeps {s0 s : State} (x1 : Straps) (h : Keeps false s0 s) :
    Keeps false s0 (porRelease x1 s) := by
  unfold porRelease
  repeat' first
    | (with_reducible first | assumption | intro _ | apply resetPower_keeps | apply keeps_ite | apply keeps_foldl)
    | split
    | dsimp only
    | (with_reducible first | apply keeps_mk | apply keeps_audit | apply keeps_fabric)

theorem pwrEnFall_keeps {s0 s : State} (h : Keeps false s0 s) :
    Keeps false s0 (pwrEnFall s) := by
  unfold pwrEnFall
  repeat' first
    | (with_reducible first | assumption | intro _ | apply railsOff_keeps | apply keeps_ite | apply keeps_foldl)
    | split
    | dsimp only
    | (with_reducible first | apply keeps_mk | apply keeps_audit | apply keeps_fabric)

theorem brownOut_keeps {s0 s : State} (h : Keeps false s0 s) :
    Keeps false s0 (brownOut s) := by
  unfold brownOut
  repeat' first
    | (with_reducible first | assumption | intro _ | apply smbAlert_keeps | apply railsOff_keeps |
                            apply keeps_ite | apply keeps_foldl)
    | split
    | dsimp only
    | (with_reducible first | apply keeps_mk | apply keeps_audit | apply keeps_fabric)

theorem brownOutRecovery_keeps {b : Bool} {s0 s : State} (h : Keeps b s0 s) :
    Keeps b s0 (brownOutRecovery s) := by
  unfold brownOutRecovery
  repeat' first
    | (with_reducible first | assumption | intro _ | apply railsUp_keeps | apply keeps_ite | apply keeps_foldl)
    | split
    | dsimp only
    | (with_reducible first | apply keeps_mk | apply keeps_audit | apply keeps_fabric)

theorem railFault_keeps {s0 s : State} (h : Keeps false s0 s) :
    Keeps false s0 (railFault s) := by
  unfold railFault
  repeat' first
    | (with_reducible first | assumption | intro _ | apply smbAlert_keeps | apply railsOff_keeps |
                            apply keeps_ite | apply keeps_foldl)
    | split
    | dsimp only
    | (with_reducible first | apply keeps_mk | apply keeps_audit | apply keeps_fabric)

theorem standbyOff_keeps {s0 s : State} (h : Keeps false s0 s) :
    Keeps false s0 (standbyOff s) := by
  unfold standbyOff
  repeat' first
    | (with_reducible first | assumption | intro _ | apply railsOff_keeps | apply keeps_ite | apply keeps_foldl)
    | split
    | dsimp only
    | (with_reducible first | apply keeps_mk | apply keeps_audit | apply keeps_fabric)

theorem resetPinLow_keeps {s0 s : State} (h : Keeps false s0 s) :
    Keeps false s0 (resetPinLow s) := by
  unfold resetPinLow
  repeat' first
    | (with_reducible first | assumption | intro _ | apply resetDevice_keeps | apply
                            refreshSub_keeps | apply keeps_ite | apply keeps_foldl)
    | split
    | dsimp only
    | (with_reducible first | apply keeps_mk | apply keeps_audit | apply keeps_fabric)

theorem resetPinHigh_keeps {b : Bool} {s0 s : State} (h : Keeps b s0 s) :
    Keeps b s0 (resetPinHigh s) := by
  unfold resetPinHigh
  repeat' first
    | (with_reducible first | assumption | intro _ | apply refreshSub_keeps | apply keeps_ite | apply keeps_foldl)
    | split
    | dsimp only
    | (with_reducible first | apply keeps_mk | apply keeps_audit | apply keeps_fabric)

theorem dbgPinLow_keeps {s0 s : State} (h : Keeps false s0 s) :
    Keeps false s0 (dbgPinLow s) := by
  unfold dbgPinLow
  repeat' first
    | (with_reducible first | assumption | intro _ | apply resetDevice_keeps | apply
                            refreshSub_keeps | apply keeps_ite | apply keeps_foldl)
    | split
    | dsimp only
    | (with_reducible first | apply keeps_mk | apply keeps_audit | apply keeps_fabric)

theorem dbgPinHigh_keeps {b : Bool} {s0 s : State} (h : Keeps b s0 s) :
    Keeps b s0 (dbgPinHigh s) := by
  unfold dbgPinHigh
  repeat' first
    | (with_reducible first | assumption | intro _ | apply refreshSub_keeps | apply keeps_ite | apply keeps_foldl)
    | split
    | dsimp only
    | (with_reducible first | apply keeps_mk | apply keeps_audit | apply keeps_fabric)

theorem clockFailure_keeps {s0 s : State} (x1 : Bool) (h : Keeps false s0 s) :
    Keeps false s0 (clockFailure x1 s) := by
  unfold clockFailure
  repeat' first
    | (with_reducible first | assumption | intro _ | apply refreshSub_keeps | apply portDown_keeps |
                            apply resetDevice_keeps | apply smbAlert_keeps | apply keeps_ite | apply keeps_foldl | apply
                            keeps_ite_fst | apply keeps_foldl_fst | apply keeps_foldl_snd)
    | split
    | dsimp only
    | (with_reducible first | apply keeps_mk | apply keeps_audit | apply keeps_fabric)

theorem refclkRestored_keeps {b : Bool} {s0 s : State} (h : Keeps b s0 s) :
    Keeps b s0 (refclkRestored s) := by
  unfold refclkRestored
  repeat' first
    | (with_reducible first | assumption | intro _ | apply refreshSub_keeps | apply keeps_ite | apply keeps_foldl)
    | split
    | dsimp only
    | (with_reducible first | apply keeps_mk | apply keeps_audit | apply keeps_fabric)

theorem recoveryCycle_keeps {s0 s : State} (h : Keeps false s0 s) :
    Keeps false s0 (recoveryCycle s) := by
  unfold recoveryCycle
  repeat' first
    | (with_reducible first | assumption | intro _ | apply railsOff_keeps | apply keeps_ite | apply keeps_foldl)
    | split
    | dsimp only
    | (with_reducible first | apply keeps_mk | apply keeps_audit | apply keeps_fabric)

theorem recoveryUp_keeps {b : Bool} {s0 s : State} (h : Keeps b s0 s) :
    Keeps b s0 (recoveryUp s) := by
  unfold recoveryUp
  repeat' first
    | (with_reducible first | assumption | intro _ | apply railsUp_keeps | apply keeps_ite | apply keeps_foldl)
    | split
    | dsimp only
    | (with_reducible first | apply keeps_mk | apply keeps_audit | apply keeps_fabric)

theorem execStandbyPowerUp_keeps {b : Bool} {s0 s u : State} (h : Keeps b s0 s)
    (e : execStandbyPowerUp s = .next u) : Keeps b s0 u := by
  unfold execStandbyPowerUp at e
  (injection e with e; subst e)
  all_goals
    repeat' first
      | (with_reducible first | assumption | intro _ | apply standbyUp_keeps | apply keeps_ite | apply keeps_foldl)
      | split
      | dsimp only
      | (with_reducible first | apply keeps_mk | apply keeps_audit | apply keeps_fabric)

theorem execModPwrEnRise_keeps {b : Bool} {s0 s u : State} (h : Keeps b s0 s)
    (e : execModPwrEnRise s = .next u) : Keeps b s0 u := by
  unfold execModPwrEnRise at e
  (injection e with e; subst e)
  all_goals
    repeat' first
      | (with_reducible first | assumption | intro _ | apply pwrEnRise_keeps | apply keeps_ite | apply keeps_foldl)
      | split
      | dsimp only
      | (with_reducible first | apply keeps_mk | apply keeps_audit | apply keeps_fabric)

theorem execPorRelease_keeps {s0 s u : State} {x1 : Straps} (h : Keeps false s0 s)
    (e : execPorRelease x1 s = .next u) : Keeps false s0 u := by
  unfold execPorRelease at e
  (injection e with e; subst e)
  all_goals
    repeat' first
      | (with_reducible first | assumption | intro _ | apply porRelease_keeps | apply keeps_ite | apply keeps_foldl)
      | split
      | dsimp only
      | (with_reducible first | apply keeps_mk | apply keeps_audit | apply keeps_fabric)

theorem execModPwrEnFall_keeps {s0 s u : State} (h : Keeps false s0 s)
    (e : execModPwrEnFall s = .next u) : Keeps false s0 u := by
  unfold execModPwrEnFall at e
  (injection e with e; subst e)
  all_goals
    repeat' first
      | (with_reducible first | assumption | intro _ | apply pwrEnFall_keeps | apply keeps_ite | apply keeps_foldl)
      | split
      | dsimp only
      | (with_reducible first | apply keeps_mk | apply keeps_audit | apply keeps_fabric)

theorem execBrownOut_keeps {s0 s u : State} (h : Keeps false s0 s)
    (e : execBrownOut s = .next u) : Keeps false s0 u := by
  unfold execBrownOut at e
  (injection e with e; subst e)
  all_goals
    repeat' first
      | (with_reducible first | assumption | intro _ | apply brownOut_keeps | apply keeps_ite | apply keeps_foldl)
      | split
      | dsimp only
      | (with_reducible first | apply keeps_mk | apply keeps_audit | apply keeps_fabric)

theorem execBrownOutRecovery_keeps {b : Bool} {s0 s u : State} (h : Keeps b s0 s)
    (e : execBrownOutRecovery s = .next u) : Keeps b s0 u := by
  unfold execBrownOutRecovery at e
  (injection e with e; subst e)
  all_goals
    repeat' first
      | (with_reducible first | assumption | intro _ | apply brownOutRecovery_keeps | apply keeps_ite | apply keeps_foldl)
      | split
      | dsimp only
      | (with_reducible first | apply keeps_mk | apply keeps_audit | apply keeps_fabric)

theorem execRailFault_keeps {s0 s u : State} (h : Keeps false s0 s)
    (e : execRailFault s = .next u) : Keeps false s0 u := by
  unfold execRailFault at e
  (injection e with e; subst e)
  all_goals
    repeat' first
      | (with_reducible first | assumption | intro _ | apply railFault_keeps | apply keeps_ite | apply keeps_foldl)
      | split
      | dsimp only
      | (with_reducible first | apply keeps_mk | apply keeps_audit | apply keeps_fabric)

theorem execModResetNAssert_keeps {s0 s u : State} (h : Keeps false s0 s)
    (e : execModResetNAssert s = .next u) : Keeps false s0 u := by
  unfold execModResetNAssert at e
  (injection e with e; subst e)
  all_goals
    repeat' first
      | (with_reducible first | assumption | intro _ | apply resetPinLow_keeps | apply keeps_ite | apply keeps_foldl)
      | split
      | dsimp only
      | (with_reducible first | apply keeps_mk | apply keeps_audit | apply keeps_fabric)

theorem execModResetNRelease_keeps {b : Bool} {s0 s u : State} (h : Keeps b s0 s)
    (e : execModResetNRelease s = .next u) : Keeps b s0 u := by
  unfold execModResetNRelease at e
  (injection e with e; subst e)
  all_goals
    repeat' first
      | (with_reducible first | assumption | intro _ | apply resetPinHigh_keeps | apply keeps_ite | apply keeps_foldl)
      | split
      | dsimp only
      | (with_reducible first | apply keeps_mk | apply keeps_audit | apply keeps_fabric)

theorem execDbgReqNAssert_keeps {s0 s u : State} (h : Keeps false s0 s)
    (e : execDbgReqNAssert s = .next u) : Keeps false s0 u := by
  unfold execDbgReqNAssert at e
  (injection e with e; subst e)
  all_goals
    repeat' first
      | (with_reducible first | assumption | intro _ | apply dbgPinLow_keeps | apply keeps_ite | apply keeps_foldl)
      | split
      | dsimp only
      | (with_reducible first | apply keeps_mk | apply keeps_audit | apply keeps_fabric)

theorem execDbgReqNRelease_keeps {b : Bool} {s0 s u : State} (h : Keeps b s0 s)
    (e : execDbgReqNRelease s = .next u) : Keeps b s0 u := by
  unfold execDbgReqNRelease at e
  (injection e with e; subst e)
  all_goals
    repeat' first
      | (with_reducible first | assumption | intro _ | apply dbgPinHigh_keeps | apply keeps_ite | apply keeps_foldl)
      | split
      | dsimp only
      | (with_reducible first | apply keeps_mk | apply keeps_audit | apply keeps_fabric)

theorem execClockFailure_keeps {s0 s u : State} {x1 : Bool} (h : Keeps false s0 s)
    (e : execClockFailure x1 s = .next u) : Keeps false s0 u := by
  unfold execClockFailure at e
  (injection e with e; subst e)
  all_goals
    repeat' first
      | (with_reducible first | assumption | intro _ | apply clockFailure_keeps | apply keeps_ite | apply keeps_foldl)
      | split
      | dsimp only
      | (with_reducible first | apply keeps_mk | apply keeps_audit | apply keeps_fabric)

theorem execRefclkRestored_keeps {b : Bool} {s0 s u : State} (h : Keeps b s0 s)
    (e : execRefclkRestored s = .next u) : Keeps b s0 u := by
  unfold execRefclkRestored at e
  (injection e with e; subst e)
  all_goals
    repeat' first
      | (with_reducible first | assumption | intro _ | apply refclkRestored_keeps | apply keeps_ite | apply keeps_foldl)
      | split
      | dsimp only
      | (with_reducible first | apply keeps_mk | apply keeps_audit | apply keeps_fabric)

theorem execRecoveryPowerCycle_keeps {s0 s u : State} (h : Keeps false s0 s)
    (e : execRecoveryPowerCycle s = .next u) : Keeps false s0 u := by
  unfold execRecoveryPowerCycle at e
  (injection e with e; subst e)
  all_goals
    repeat' first
      | (with_reducible first | assumption | intro _ | apply recoveryCycle_keeps | apply keeps_ite | apply keeps_foldl)
      | split
      | dsimp only
      | (with_reducible first | apply keeps_mk | apply keeps_audit | apply keeps_fabric)

theorem execRecoveryPowerUp_keeps {b : Bool} {s0 s u : State} (h : Keeps b s0 s)
    (e : execRecoveryPowerUp s = .next u) : Keeps b s0 u := by
  unfold execRecoveryPowerUp at e
  (injection e with e; subst e)
  all_goals
    repeat' first
      | (with_reducible first | assumption | intro _ | apply recoveryUp_keeps | apply keeps_ite | apply keeps_foldl)
      | split
      | dsimp only
      | (with_reducible first | apply keeps_mk | apply keeps_audit | apply keeps_fabric)

theorem execStandbyRailOff_keeps {s0 s u : State} (h : Keeps false s0 s)
    (e : execStandbyRailOff s = .next u) : Keeps false s0 u := by
  unfold execStandbyRailOff at e
  (injection e with e; subst e)
  all_goals
    repeat' first
      | (with_reducible first | assumption | intro _ | apply standbyOff_keeps | apply keeps_ite | apply keeps_foldl)
      | split
      | dsimp only
      | (with_reducible first | apply keeps_mk | apply keeps_audit | apply keeps_fabric)

/-! ### Machine/Resets.lean -/

theorem fenceUnits_keeps {b : Bool} {s0 s : State} (x1 : Nat) (x2 : Nat) (h : Keeps b s0 s) :
    Keeps b s0 (fenceUnits x1 x2 s) := by
  unfold fenceUnits
  repeat' first
    | (with_reducible first | assumption | intro _ | apply State_setClus_keeps | apply
                            State_setStack_keeps | apply setPortState_keeps | apply portDown_keeps | apply keeps_ite | apply
                            keeps_foldl | apply keeps_ite_fst | apply keeps_foldl_fst | apply keeps_foldl_snd)
    | split
    | dsimp only
    | (with_reducible first | apply keeps_mk | apply keeps_audit | apply keeps_fabric)

theorem startReset_keeps {b : Bool} {s0 s : State} (x1 : Nat) (x2 : Nat) (x3 : Byte) (x4 : Option Word) (h : Keeps b s0 s) :
    Keeps b s0 (startReset x1 x2 x3 x4 s) := by
  unfold startReset
  repeat' first
    | (with_reducible first | assumption | intro _ | apply fenceUnits_keeps | apply keeps_ite | apply keeps_foldl)
    | split
    | dsimp only
    | (with_reducible first | apply keeps_mk | apply keeps_audit | apply keeps_fabric)

theorem putReset_keeps {b : Bool} {s0 s : State} (x1 : DomReset) (h : Keeps b s0 s) :
    Keeps b s0 (putReset x1 s) := by
  unfold putReset
  repeat' first
    | (with_reducible first | assumption | intro _ | apply keeps_ite | apply keeps_foldl)
    | split
    | dsimp only
    | (with_reducible first | apply keeps_mk | apply keeps_audit | apply keeps_fabric)

theorem dropReset_keeps {b : Bool} {s0 s : State} (x1 : Nat) (h : Keeps b s0 s) :
    Keeps b s0 (dropReset x1 s) := by
  unfold dropReset
  repeat' first
    | (with_reducible first | assumption | intro _ | apply keeps_ite | apply keeps_foldl)
    | split
    | dsimp only
    | (with_reducible first | apply keeps_mk | apply keeps_audit | apply keeps_fabric)

theorem restartDecisions_keeps {b : Bool} {s0 s : State} (x1 : Nat) (x2 : Nat) (h : Keeps b s0 s) :
    Keeps b s0 (restartDecisions x1 x2 s) := by
  unfold restartDecisions
  repeat' first
    | (with_reducible first | assumption | intro _ | apply keeps_ite | apply keeps_foldl)
    | split
    | dsimp only
    | (with_reducible first | apply keeps_mk | apply keeps_audit | apply keeps_fabric)

theorem domainFence_keeps {b : Bool} {s0 s : State} (x1 : Nat) (h : Keeps b s0 s) :
    Keeps b s0 (domainFence x1 s) := by
  unfold domainFence
  repeat' first
    | (with_reducible first | assumption | intro _ | apply endTasks_keeps | apply putReset_keeps |
                            apply restartDecisions_keeps | apply keeps_ite | apply keeps_foldl | apply keeps_ite_fst | apply
                            keeps_foldl_fst | apply keeps_foldl_snd)
    | split
    | dsimp only
    | (with_reducible first | apply keeps_mk | apply keeps_audit | apply keeps_fabric)

theorem domainDrainEnd_keeps {b : Bool} {s0 s : State} (x1 : Nat) (h : Keeps b s0 s) :
    Keeps b s0 (domainDrainEnd x1 s) := by
  unfold domainDrainEnd
  repeat' first
    | (with_reducible first | assumption | intro _ | apply putReset_keeps | apply keeps_ite | apply keeps_foldl)
    | split
    | dsimp only
    | (with_reducible first | apply keeps_mk | apply keeps_audit | apply keeps_fabric)

theorem drainLimitExpire_keeps {b : Bool} {s0 s : State} (x1 : Nat) (x2 : Word) (h : Keeps b s0 s) :
    Keeps b s0 (drainLimitExpire x1 x2 s) := by
  unfold drainLimitExpire
  repeat' first
    | (with_reducible first | assumption | intro _ | apply putReset_keeps | apply keeps_ite | apply keeps_foldl)
    | split
    | dsimp only
    | (with_reducible first | apply keeps_mk | apply keeps_audit | apply keeps_fabric)

theorem assertReset_keeps {b : Bool} {s0 s : State} (x1 : DomReset) (h : Keeps b s0 s) :
    Keeps b s0 (assertReset x1 s) := by
  unfold assertReset
  repeat' first
    | (with_reducible first | assumption | intro _ | apply State_setReg_keeps | apply
                            State_setClus_keeps | apply State_setStack_keeps | apply setPortState_keeps | apply
                            State_setPort_keeps | apply putReset_keeps | apply keeps_ite | apply keeps_foldl | apply
                            keeps_ite_fst | apply keeps_foldl_fst | apply keeps_foldl_snd)
    | split
    | dsimp only
    | (with_reducible first | apply keeps_mk | apply keeps_audit | apply keeps_fabric)

theorem resetRecordWritten_keeps {b : Bool} {s0 s : State} (x1 : Nat) (x2 : Bool) (h : Keeps b s0 s) :
    Keeps b s0 (resetRecordWritten x1 x2 s) := by
  unfold resetRecordWritten
  repeat' first
    | (with_reducible first | assumption | intro _ | apply assertReset_keeps | apply
                            writeRecord_keeps | apply loseRecord_keeps | apply keeps_ite | apply keeps_foldl)
    | split
    | dsimp only
    | (with_reducible first | apply keeps_mk | apply keeps_audit | apply keeps_fabric)

theorem confirmReset_keeps {b : Bool} {s0 s : State} (x1 : DomReset) (h : Keeps b s0 s) :
    Keeps b s0 (confirmReset x1 s) := by
  unfold confirmReset
  repeat' first
    | (with_reducible first | assumption | intro _ | apply State_setClus_keeps | apply
                            flushLate_keeps | apply count_keeps | apply dropReset_keeps | apply raiseDev_keeps | apply
                            keeps_ite | apply keeps_foldl | apply keeps_ite_fst | apply keeps_foldl_fst | apply
                            keeps_foldl_snd)
    | split
    | dsimp only
    | (with_reducible first | apply keeps_mk | apply keeps_audit | apply keeps_fabric)

theorem partReady_keeps {b : Bool} {s0 s u : State} {x1 : DomReset} {x2 : Nat} {x3 : Bool} (h : Keeps b s0 s)
    (e : partReady x1 x2 x3 s = some u) : Keeps b s0 u := by
  unfold partReady at e
  try dsimp only at e
  (repeat' split at e) <;> (first | cases e | skip)
  all_goals
    repeat' first
      | (with_reducible first | assumption | intro _ | apply State_setStack_keeps | apply
                              setHealth_keeps | apply setPortState_keeps | apply portTrained_keeps | apply keeps_ite | apply
                              keeps_foldl | apply keeps_ite_fst | apply keeps_foldl_fst | apply keeps_foldl_snd)
      | split
      | dsimp only
      | (with_reducible first | apply keeps_mk | apply keeps_audit | apply keeps_fabric)

theorem domainPartReady_keeps {b : Bool} {s0 s : State} (x1 : Nat) (x2 : Bool) (h : Keeps b s0 s) :
    Keeps b s0 (domainPartReady x1 x2 s) := by
  unfold domainPartReady
  repeat' first
    | (with_reducible first | assumption | intro _ | apply confirmReset_keeps | apply putReset_keeps
                            | apply keeps_ite | apply keeps_foldl)
    | (with_reducible refine partReady_keeps ?_ (by with_reducible assumption))
    | split
    | dsimp only
    | (with_reducible first | apply keeps_mk | apply keeps_audit | apply keeps_fabric)

theorem escalateDevice_keeps {s0 s : State} (x1 : Option Word) (h : Keeps false s0 s) :
    Keeps false s0 (escalateDevice x1 s) := by
  unfold escalateDevice
  repeat' first
    | (with_reducible first | assumption | intro _ | apply State_setReg_keeps | apply
                            resetDevice_keeps | apply keeps_ite | apply keeps_foldl)
    | split
    | dsimp only
    | (with_reducible first | apply keeps_mk | apply keeps_audit | apply keeps_fabric)

theorem isolatePort_keeps {b : Bool} {s0 s : State} (x1 : DomReset) (h : Keeps b s0 s) :
    Keeps b s0 (isolatePort x1 s) := by
  unfold isolatePort
  repeat' first
    | (with_reducible first | assumption | intro _ | apply setPortState_keeps | apply
                            dropReset_keeps | apply setHealth_keeps | apply State_setPort_keeps | apply keeps_ite | apply
                            keeps_foldl)
    | split
    | dsimp only
    | (with_reducible first | apply keeps_mk | apply keeps_audit | apply keeps_fabric)

theorem resetBoundExpire_keeps {s0 s : State} (x1 : Nat) (h : Keeps false s0 s) :
    Keeps false s0 (resetBoundExpire x1 s) := by
  unfold resetBoundExpire
  repeat' first
    | (with_reducible first | assumption | intro _ | apply isolatePort_keeps | apply count_keeps |
                            apply dropReset_keeps | apply escalateDevice_keeps | apply startReset_keeps | apply
                            raiseDev_keeps | apply keeps_ite | apply keeps_foldl)
    | split
    | dsimp only
    | (with_reducible first | apply keeps_mk | apply keeps_audit | apply keeps_fabric)

theorem liftGate_keeps {b : Bool} {s0 s : State} (h : Keeps b s0 s) :
    Keeps b s0 (liftGate s) := by
  unfold liftGate
  repeat' first
    | (with_reducible first | assumption | intro _ | apply keeps_ite | apply keeps_foldl)
    | split
    | dsimp only
    | (with_reducible first | apply keeps_mk | apply keeps_audit | apply keeps_fabric)

theorem gateDies_keeps {b : Bool} {s0 s : State} (h : Keeps b s0 s) :
    Keeps b s0 (gateDies s) := by
  unfold gateDies
  repeat' first
    | (with_reducible first | assumption | intro _ | apply startReset_keeps | apply keeps_ite |
                            apply keeps_foldl | apply keeps_ite_fst | apply keeps_foldl_fst | apply keeps_foldl_snd)
    | split
    | dsimp only
    | (with_reducible first | apply keeps_mk | apply keeps_audit | apply keeps_fabric)

theorem wdtExpire_keeps {s0 s : State} (h : Keeps false s0 s) :
    Keeps false s0 (wdtExpire s) := by
  unfold wdtExpire
  repeat' first
    | (with_reducible first | assumption | intro _ | apply resetDevice_keeps | apply keeps_ite | apply keeps_foldl)
    | split
    | dsimp only
    | (with_reducible first | apply keeps_mk | apply keeps_audit | apply keeps_fabric)

theorem taskOverrun_keeps {b : Bool} {s0 s : State} (x1 : TaskRef) (h : Keeps b s0 s) :
    Keeps b s0 (taskOverrun x1 s) := by
  unfold taskOverrun
  repeat' first
    | (with_reducible first | assumption | intro _ | apply endTask_keeps | apply startReset_keeps |
                            apply keeps_ite | apply keeps_foldl)
    | split
    | dsimp only
    | (with_reducible first | apply keeps_mk | apply keeps_audit | apply keeps_fabric)

theorem setSpine_keeps {b : Bool} {s0 s : State} (x1 : Nat) (x2 : List Dword) (h : Keeps b s0 s) :
    Keeps b s0 (setSpine x1 x2 s) := by
  unfold setSpine
  repeat' first
    | (with_reducible first | assumption | intro _ | apply keeps_ite | apply keeps_foldl)
    | split
    | dsimp only
    | (with_reducible first | apply keeps_mk | apply keeps_audit | apply keeps_fabric)

theorem spineFlit_keeps {b : Bool} {s0 s : State} (x1 : Nat) (x2 : Bool) (h : Keeps b s0 s) :
    Keeps b s0 (spineFlit x1 x2 s) := by
  unfold spineFlit
  repeat' first
    | (with_reducible first | assumption | intro _ | apply setSpine_keeps | apply keeps_ite | apply keeps_foldl)
    | split
    | dsimp only
    | (with_reducible first | apply keeps_mk | apply keeps_audit | apply keeps_fabric)

theorem spineDown_keeps {b : Bool} {s0 s : State} (x1 : Nat) (h : Keeps b s0 s) :
    Keeps b s0 (spineDown x1 s) := by
  unfold spineDown
  repeat' first
    | (with_reducible first | assumption | intro _ | apply startReset_keeps | apply setSpine_keeps |
                            apply keeps_ite | apply keeps_foldl)
    | split
    | dsimp only
    | (with_reducible first | apply keeps_mk | apply keeps_audit | apply keeps_fabric)

theorem execDomainFence_keeps {b : Bool} {s0 s u : State} {x1 : Nat} (h : Keeps b s0 s)
    (e : execDomainFence x1 s = .next u) : Keeps b s0 u := by
  unfold execDomainFence at e
  (injection e with e; subst e)
  all_goals
    repeat' first
      | (with_reducible first | assumption | intro _ | apply domainFence_keeps | apply keeps_ite | apply keeps_foldl)
      | split
      | dsimp only
      | (with_reducible first | apply keeps_mk | apply keeps_audit | apply keeps_fabric)

theorem execDomainDrainEnd_keeps {b : Bool} {s0 s u : State} {x1 : Nat} (h : Keeps b s0 s)
    (e : execDomainDrainEnd x1 s = .next u) : Keeps b s0 u := by
  unfold execDomainDrainEnd at e
  (injection e with e; subst e)
  all_goals
    repeat' first
      | (with_reducible first | assumption | intro _ | apply domainDrainEnd_keeps | apply keeps_ite | apply keeps_foldl)
      | split
      | dsimp only
      | (with_reducible first | apply keeps_mk | apply keeps_audit | apply keeps_fabric)

theorem execDrainLimitExpire_keeps {b : Bool} {s0 s u : State} {x1 : Nat} {x2 : Word} (h : Keeps b s0 s)
    (e : execDrainLimitExpire x1 x2 s = .next u) : Keeps b s0 u := by
  unfold execDrainLimitExpire at e
  (injection e with e; subst e)
  all_goals
    repeat' first
      | (with_reducible first | assumption | intro _ | apply drainLimitExpire_keeps | apply keeps_ite | apply keeps_foldl)
      | split
      | dsimp only
      | (with_reducible first | apply keeps_mk | apply keeps_audit | apply keeps_fabric)

theorem execResetRecordWritten_keeps {b : Bool} {s0 s u : State} {x1 : Nat} {x2 : Bool} (h : Keeps b s0 s)
    (e : execResetRecordWritten x1 x2 s = .next u) : Keeps b s0 u := by
  unfold execResetRecordWritten at e
  (injection e with e; subst e)
  all_goals
    repeat' first
      | (with_reducible first | assumption | intro _ | apply resetRecordWritten_keeps | apply keeps_ite | apply keeps_foldl)
      | split
      | dsimp only
      | (with_reducible first | apply keeps_mk | apply keeps_audit | apply keeps_fabric)

theorem execDomainPartReady_keeps {b : Bool} {s0 s u : State} {x1 : Nat} {x2 : Bool} (h : Keeps b s0 s)
    (e : execDomainPartReady x1 x2 s = .next u) : Keeps b s0 u := by
  unfold execDomainPartReady at e
  (injection e with e; subst e)
  all_goals
    repeat' first
      | (with_reducible first | assumption | intro _ | apply domainPartReady_keeps | apply keeps_ite | apply keeps_foldl)
      | split
      | dsimp only
      | (with_reducible first | apply keeps_mk | apply keeps_audit | apply keeps_fabric)

theorem execResetBoundExpire_keeps {s0 s u : State} {x1 : Nat} (h : Keeps false s0 s)
    (e : execResetBoundExpire x1 s = .next u) : Keeps false s0 u := by
  unfold execResetBoundExpire at e
  (injection e with e; subst e)
  all_goals
    repeat' first
      | (with_reducible first | assumption | intro _ | apply resetBoundExpire_keeps | apply keeps_ite | apply keeps_foldl)
      | split
      | dsimp only
      | (with_reducible first | apply keeps_mk | apply keeps_audit | apply keeps_fabric)

theorem execWdtExpire_keeps {s0 s u : State} (h : Keeps false s0 s)
    (e : execWdtExpire s = .next u) : Keeps false s0 u := by
  unfold execWdtExpire at e
  (injection e with e; subst e)
  all_goals
    repeat' first
      | (with_reducible first | assumption | intro _ | apply wdtExpire_keeps | apply keeps_ite | apply keeps_foldl)
      | split
      | dsimp only
      | (with_reducible first | apply keeps_mk | apply keeps_audit | apply keeps_fabric)

theorem execTaskOverrun_keeps {b : Bool} {s0 s u : State} {x1 : TaskRef} (h : Keeps b s0 s)
    (e : execTaskOverrun x1 s = .next u) : Keeps b s0 u := by
  unfold execTaskOverrun at e
  (injection e with e; subst e)
  all_goals
    repeat' first
      | (with_reducible first | assumption | intro _ | apply taskOverrun_keeps | apply keeps_ite | apply keeps_foldl)
      | split
      | dsimp only
      | (with_reducible first | apply keeps_mk | apply keeps_audit | apply keeps_fabric)

theorem execSpineFlitReceived_keeps {b : Bool} {s0 s u : State} {x1 : Fin 8} {x2 : Bool} (h : Keeps b s0 s)
    (e : execSpineFlitReceived x1 x2 s = .next u) : Keeps b s0 u := by
  unfold execSpineFlitReceived at e
  (injection e with e; subst e)
  all_goals
    repeat' first
      | (with_reducible first | assumption | intro _ | apply spineFlit_keeps | apply keeps_ite | apply keeps_foldl)
      | split
      | dsimp only
      | (with_reducible first | apply keeps_mk | apply keeps_audit | apply keeps_fabric)

theorem execSpineLinkDown_keeps {b : Bool} {s0 s u : State} {x1 : Fin 8} (h : Keeps b s0 s)
    (e : execSpineLinkDown x1 s = .next u) : Keeps b s0 u := by
  unfold execSpineLinkDown at e
  (injection e with e; subst e)
  all_goals
    repeat' first
      | (with_reducible first | assumption | intro _ | apply spineDown_keeps | apply keeps_ite | apply keeps_foldl)
      | split
      | dsimp only
      | (with_reducible first | apply keeps_mk | apply keeps_audit | apply keeps_fabric)

/-! ### Machine/Faults.lean -/

theorem holdSuspects_keeps {b : Bool} {s0 s : State} (h : Keeps b s0 s) :
    Keeps b s0 (holdSuspects s) := by
  unfold holdSuspects
  repeat' first
    | (with_reducible first | assumption | intro _ | apply startReset_keeps | apply keeps_ite |
                            apply keeps_foldl | apply keeps_ite_fst | apply keeps_foldl_fst | apply keeps_foldl_snd)
    | split
    | dsimp only
    | (with_reducible first | apply keeps_mk | apply keeps_audit | apply keeps_fabric)

theorem chipDrain_keeps {s0 s : State} (x1 : Nat) (x2 : Nat) (x3 : List Nat) (h : Keeps false s0 s) :
    Keeps false s0 (chipDrain x1 x2 x3 s) := by
  have r := Keeps.refl true s
  unfold chipDrain
  dsimp only
  split
  next hd =>
    refine setDev_after (s := s) (.inl (by rw [hd]; rfl)) ?_ h
    repeat' first
      | (with_reducible first | assumption | intro _ | apply noteDrain_keeps | apply State_setCtx_keeps | apply keeps_foldl)
      | (with_reducible apply keeps_mk)
  next hd =>
    apply holdSuspects_keeps
    refine setDev_after (s := s) (.inl (by rw [hd]; rfl)) ?_ h
    repeat' first
      | (with_reducible first | assumption | intro _ | apply noteDrain_keeps | apply keeps_foldl)
      | (with_reducible apply keeps_mk)
  · exact keeps_mk h

theorem endDecision_keeps {s0 s : State} (x1 : Decision) (x2 : Nat) (x3 : Nat) (x4 : List Nat) (h : Keeps false s0 s) :
    Keeps false s0 (endDecision x1 x2 x3 x4 s) := by
  unfold endDecision
  repeat' first
    | (with_reducible first | assumption | intro _ | apply count_keeps | apply chipDrain_keeps |
                            apply keeps_ite | apply keeps_foldl)
    | split
    | dsimp only
    | (with_reducible first | apply keeps_mk | apply keeps_audit | apply keeps_fabric)

theorem abftDecision_keeps {s0 s : State} (x1 : TaskRef) (x2 : Nat) (x3 : ThirdSums) (h : Keeps false s0 s) :
    Keeps false s0 (abftDecision x1 x2 x3 s) := by
  unfold abftDecision
  repeat' first
    | (with_reducible first | assumption | intro _ | apply endDecision_keeps | apply keeps_ite | apply keeps_foldl)
    | split
    | dsimp only
    | (with_reducible first | apply keeps_mk | apply keeps_audit | apply keeps_fabric)

theorem raiseCross_keeps {b : Bool} {s0 s : State} (x1 : Decision) (x2 : Nat) (x3 : Nat) (h : Keeps b s0 s) :
    Keeps b s0 (raiseCross x1 x2 x3 s) := by
  unfold raiseCross
  repeat' first
    | (with_reducible first | assumption | intro _ | apply raiseDev_keeps | apply keeps_ite | apply keeps_foldl)
    | split
    | dsimp only
    | (with_reducible first | apply keeps_mk | apply keeps_audit | apply keeps_fabric)

theorem crosscheckDecision_keeps {s0 s : State} (x1 : Nat) (x2 : Bool) (x3 : Bool) (x4 : Bool) (h : Keeps false s0 s) :
    Keeps false s0 (crosscheckDecision x1 x2 x3 x4 s) := by
  unfold crosscheckDecision
  repeat' first
    | (with_reducible first | assumption | intro _ | apply endDecision_keeps | apply
                            raiseCross_keeps | apply keeps_ite | apply keeps_foldl)
    | split
    | dsimp only
    | (with_reducible first | apply keeps_mk | apply keeps_audit | apply keeps_fabric)

theorem pipHardDecision_keeps {s0 s : State} (x1 : TaskRef) (x2 : Nat) (x3 : Bool) (x4 : Bool) (h : Keeps false s0 s) :
    Keeps false s0 (pipHardDecision x1 x2 x3 x4 s) := by
  unfold pipHardDecision
  repeat' first
    | (with_reducible first | assumption | intro _ | apply endDecision_keeps | apply keeps_ite | apply keeps_foldl)
    | split
    | dsimp only
    | (with_reducible first | apply keeps_mk | apply keeps_audit | apply keeps_fabric)

theorem plausibilityDecision_keeps {s0 s : State} (x1 : TaskRef) (x2 : Nat) (x3 : Nat) (x4 : Bool) (x5 : Bool) (h :
    Keeps false s0 s) :
    Keeps false s0 (plausibilityDecision x1 x2 x3 x4 x5 s) := by
  unfold plausibilityDecision
  repeat' first
    | (with_reducible first | assumption | intro _ | apply endDecision_keeps | apply keeps_ite | apply keeps_foldl)
    | split
    | dsimp only
    | (with_reducible first | apply keeps_mk | apply keeps_audit | apply keeps_fabric)

theorem decisionTimeout_keeps {s0 s : State} (x1 : Nat) (h : Keeps false s0 s) :
    Keeps false s0 (decisionTimeout x1 s) := by
  unfold decisionTimeout
  repeat' first
    | (with_reducible first | assumption | intro _ | apply raiseCross_keeps | apply
                            endDecision_keeps | apply keeps_ite | apply keeps_foldl)
    | split
    | dsimp only
    | (with_reducible first | apply keeps_mk | apply keeps_audit | apply keeps_fabric)

theorem crossClean_keeps {b : Bool} {s0 s : State} (x1 : Nat) (x2 : Nat) (h : Keeps b s0 s) :
    Keeps b s0 (crossClean x1 x2 s) := by
  unfold crossClean
  repeat' first
    | (with_reducible first | assumption | intro _ | apply State_setClus_keeps | apply count_keeps |
                            apply keeps_ite | apply keeps_foldl)
    | split
    | dsimp only
    | (with_reducible first | apply keeps_mk | apply keeps_audit | apply keeps_fabric)

theorem crossFail_keeps {b : Bool} {s0 s : State} (x1 : Nat) (x2 : Nat) (x3 : Word) (x4 : Bool) (x5 : Bool) (x6 : Option
    (Nat × Nat)) (h : Keeps b s0 s) :
    Keeps b s0 (crossFail x1 x2 x3 x4 x5 x6 s) := by
  unfold crossFail
  repeat' first
    | (with_reducible first | assumption | intro _ | apply count_keeps | apply startDecision_keeps |
                            apply keeps_ite | apply keeps_foldl)
    | split
    | dsimp only
    | (with_reducible first | apply keeps_mk | apply keeps_audit | apply keeps_fabric)

theorem crosscheck_keeps {b : Bool} {s0 s : State} (x1 : List (Nat × Word)) (x2 : List (Nat × Word)) (x3 : Bool) (x4 :
    Bool) (x5 : Nat) (h : Keeps b s0 s) :
    Keeps b s0 (crosscheck x1 x2 x3 x4 x5 s) := by
  unfold crosscheck
  repeat' first
    | (with_reducible first | assumption | intro _ | apply State_setReg_keeps | apply
                            noteLimited_keeps | apply count_keeps | apply useCross_keeps | apply crossClean_keeps | apply
                            crossFail_keeps | apply keeps_ite | apply keeps_foldl)
    | split
    | dsimp only
    | (with_reducible first | apply keeps_mk | apply keeps_audit | apply keeps_fabric)

theorem tcsRateTrip_keeps {s0 s : State} (h : Keeps false s0 s) :
    Keeps false s0 (tcsRateTrip s) := by
  unfold tcsRateTrip
  repeat' first
    | (with_reducible first | assumption | intro _ | apply chipDrain_keeps | apply keeps_ite | apply keeps_foldl)
    | split
    | dsimp only
    | (with_reducible first | apply keeps_mk | apply keeps_audit | apply keeps_fabric)

theorem chipDrained_keeps {s0 s : State} (x1 : Nat) (x2 : List (Fin 528)) (h : Keeps false s0 s) :
    Keeps false s0 (chipDrained x1 x2 s) := by
  unfold chipDrained
  repeat' first
    | (with_reducible first | assumption | intro _ | apply chipDrain_keeps | apply keeps_ite | apply keeps_foldl)
    | split
    | dsimp only
    | (with_reducible first | apply keeps_mk | apply keeps_audit | apply keeps_fabric)

theorem spareCluster_keeps {b : Bool} {s0 s : State} (x1 : Nat) (x2 : Nat) (x3 : Word) (h : Keeps b s0 s) :
    Keeps b s0 (spareCluster x1 x2 x3 s) := by
  unfold spareCluster
  repeat' first
    | (with_reducible first | assumption | intro _ | apply State_setClus_keeps | apply
                            raiseDev_keeps | apply startReset_keeps | apply keeps_ite | apply keeps_foldl | apply
                            keeps_ite_fst | apply keeps_foldl_fst | apply keeps_foldl_snd)
    | split
    | dsimp only
    | (with_reducible first | apply keeps_mk | apply keeps_audit | apply keeps_fabric)

theorem diagnosis_keeps {b : Bool} {s0 s : State} (x1 : List (Fin 512)) (x2 : Bool) (x3 : Word) (h : Keeps b s0 s) :
    Keeps b s0 (diagnosis x1 x2 x3 s) := by
  unfold diagnosis
  repeat' first
    | (with_reducible first | assumption | intro _ | apply spareCluster_keeps | apply
                            setHealth_keeps | apply keeps_ite | apply keeps_foldl)
    | split
    | dsimp only
    | (with_reducible first | apply keeps_mk | apply keeps_audit | apply keeps_fabric)

theorem mgmtRestart_keeps {b : Bool} {s0 s : State} (x1 : Nat) (h : Keeps b s0 s) :
    Keeps b s0 (mgmtRestart x1 s) := by
  unfold mgmtRestart
  repeat' first
    | (with_reducible first | assumption | intro _ | apply writeRecord_keeps | apply keeps_ite | apply keeps_foldl)
    | split
    | dsimp only
    | (with_reducible first | apply keeps_mk | apply keeps_audit | apply keeps_fabric)

theorem coreDoubleFault_keeps {s0 s : State} (x1 : Nat) (h : Keeps false s0 s) :
    Keeps false s0 (coreDoubleFault x1 s) := by
  unfold coreDoubleFault
  repeat' first
    | (with_reducible first | assumption | intro _ | apply resetDevice_keeps | apply
                            mgmtRestart_keeps | apply keeps_ite | apply keeps_foldl)
    | split
    | dsimp only
    | (with_reducible first | apply keeps_mk | apply keeps_audit | apply keeps_fabric)

theorem mgmtTimeout_keeps {s0 s : State} (h : Keeps false s0 s) :
    Keeps false s0 (mgmtTimeout s) := by
  unfold mgmtTimeout
  repeat' first
    | (with_reducible first | assumption | intro _ | apply resetDevice_keeps | apply keeps_ite | apply keeps_foldl)
    | split
    | dsimp only
    | (with_reducible first | apply keeps_mk | apply keeps_audit | apply keeps_fabric)

theorem execCrosscheck_keeps {b : Bool} {s0 s u : State} {x1 : List (Nat × Word)} {x2 : List (Nat × Word)} {x3 : Bool}
    {x4 : Bool} {x5 : Word} (h : Keeps b s0 s)
    (e : execCrosscheck x1 x2 x3 x4 x5 s = .next u) : Keeps b s0 u := by
  unfold execCrosscheck at e
  (injection e with e; subst e)
  all_goals
    repeat' first
      | (with_reducible first | assumption | intro _ | apply crosscheck_keeps | apply keeps_ite | apply keeps_foldl)
      | split
      | dsimp only
      | (with_reducible first | apply keeps_mk | apply keeps_audit | apply keeps_fabric)

theorem execAbftDecision_keeps {s0 s u : State} {x1 : TaskRef} {x2 : Fin 512} {x3 : ThirdSums} (h : Keeps false s0 s)
    (e : execAbftDecision x1 x2 x3 s = .next u) : Keeps false s0 u := by
  unfold execAbftDecision at e
  (injection e with e; subst e)
  all_goals
    repeat' first
      | (with_reducible first | assumption | intro _ | apply abftDecision_keeps | apply keeps_ite | apply keeps_foldl)
      | split
      | dsimp only
      | (with_reducible first | apply keeps_mk | apply keeps_audit | apply keeps_fabric)

theorem execCrosscheckDecision_keeps {s0 s u : State} {x1 : Fin 512} {x2 : Bool} {x3 : Bool} {x4 : Bool} (h : Keeps false s0 s)
    (e : execCrosscheckDecision x1 x2 x3 x4 s = .next u) : Keeps false s0 u := by
  unfold execCrosscheckDecision at e
  (injection e with e; subst e)
  all_goals
    repeat' first
      | (with_reducible first | assumption | intro _ | apply crosscheckDecision_keeps | apply keeps_ite | apply keeps_foldl)
      | split
      | dsimp only
      | (with_reducible first | apply keeps_mk | apply keeps_audit | apply keeps_fabric)

theorem execPipHardDecision_keeps {s0 s u : State} {x1 : TaskRef} {x2 : Fin 512} {x3 : Bool} {x4 : Bool} (h : Keeps false s0 s)
    (e : execPipHardDecision x1 x2 x3 x4 s = .next u) : Keeps false s0 u := by
  unfold execPipHardDecision at e
  (injection e with e; subst e)
  all_goals
    repeat' first
      | (with_reducible first | assumption | intro _ | apply pipHardDecision_keeps | apply keeps_ite | apply keeps_foldl)
      | split
      | dsimp only
      | (with_reducible first | apply keeps_mk | apply keeps_audit | apply keeps_fabric)

theorem execPlausibilityDecision_keeps {s0 s u : State} {x1 : TaskRef} {x2 : Fin 512} {x3 : Fin 512} {x4 : Bool} {x5 :
    Bool} (h : Keeps false s0 s)
    (e : execPlausibilityDecision x1 x2 x3 x4 x5 s = .next u) : Keeps false s0 u := by
  unfold execPlausibilityDecision at e
  (injection e with e; subst e)
  all_goals
    repeat' first
      | (with_reducible first | assumption | intro _ | apply plausibilityDecision_keeps | apply keeps_ite | apply keeps_foldl)
      | split
      | dsimp only
      | (with_reducible first | apply keeps_mk | apply keeps_audit | apply keeps_fabric)

theorem execDecisionTimeout_keeps {s0 s u : State} {x1 : Nat} (h : Keeps false s0 s)
    (e : execDecisionTimeout x1 s = .next u) : Keeps false s0 u := by
  unfold execDecisionTimeout at e
  (injection e with e; subst e)
  all_goals
    repeat' first
      | (with_reducible first | assumption | intro _ | apply decisionTimeout_keeps | apply keeps_ite | apply keeps_foldl)
      | split
      | dsimp only
      | (with_reducible first | apply keeps_mk | apply keeps_audit | apply keeps_fabric)

theorem execTcsRateTrip_keeps {s0 s u : State} (h : Keeps false s0 s)
    (e : execTcsRateTrip s = .next u) : Keeps false s0 u := by
  unfold execTcsRateTrip at e
  (injection e with e; subst e)
  all_goals
    repeat' first
      | (with_reducible first | assumption | intro _ | apply tcsRateTrip_keeps | apply keeps_ite | apply keeps_foldl)
      | split
      | dsimp only
      | (with_reducible first | apply keeps_mk | apply keeps_audit | apply keeps_fabric)

theorem execChipDrained_keeps {s0 s u : State} {x1 : BitVec 8} {x2 : List (Fin 528)} (h : Keeps false s0 s)
    (e : execChipDrained x1 x2 s = .next u) : Keeps false s0 u := by
  unfold execChipDrained at e
  (injection e with e; subst e)
  all_goals
    repeat' first
      | (with_reducible first | assumption | intro _ | apply chipDrained_keeps | apply keeps_ite | apply keeps_foldl)
      | split
      | dsimp only
      | (with_reducible first | apply keeps_mk | apply keeps_audit | apply keeps_fabric)

theorem execDiagnosis_keeps {b : Bool} {s0 s u : State} {x1 : List (Fin 512)} {x2 : Bool} {x3 : Word} (h : Keeps b s0 s)
    (e : execDiagnosis x1 x2 x3 s = .next u) : Keeps b s0 u := by
  unfold execDiagnosis at e
  (injection e with e; subst e)
  all_goals
    repeat' first
      | (with_reducible first | assumption | intro _ | apply diagnosis_keeps | apply keeps_ite | apply keeps_foldl)
      | split
      | dsimp only
      | (with_reducible first | apply keeps_mk | apply keeps_audit | apply keeps_fabric)

theorem execCoreDoubleFault_keeps {s0 s u : State} {x1 : Fin 8} (h : Keeps false s0 s)
    (e : execCoreDoubleFault x1 s = .next u) : Keeps false s0 u := by
  unfold execCoreDoubleFault at e
  (injection e with e; subst e)
  all_goals
    repeat' first
      | (with_reducible first | assumption | intro _ | apply coreDoubleFault_keeps | apply keeps_ite | apply keeps_foldl)
      | split
      | dsimp only
      | (with_reducible first | apply keeps_mk | apply keeps_audit | apply keeps_fabric)

theorem execMgmtTransactionTimeout_keeps {s0 s u : State} (h : Keeps false s0 s)
    (e : execMgmtTransactionTimeout s = .next u) : Keeps false s0 u := by
  unfold execMgmtTransactionTimeout at e
  (injection e with e; subst e)
  all_goals
    repeat' first
      | (with_reducible first | assumption | intro _ | apply mgmtTimeout_keeps | apply keeps_ite | apply keeps_foldl)
      | split
      | dsimp only
      | (with_reducible first | apply keeps_mk | apply keeps_audit | apply keeps_fabric)

/-! ### Machine/Checkpoint.lean -/

theorem ckpTile_keeps (x1 : Env) (x2 : Who) (x3 : TileLoc) (x4 : Nat) : RunKeeps (ckpTile x1 x2 x3 x4) := by
  unfold ckpTile
  repeat' first
    | (with_reducible first | assumption | intro _ | apply getS_keeps | apply loadTile_keeps | apply
                            modS_keeps | apply stopMem_keeps | apply raiseChecksum_keeps | apply stop_keeps | apply
                            keeps_ite | apply keeps_foldl | apply runKeeps_pure | apply runKeeps_getS | apply runKeeps_bind
                            | apply runKeeps_ite | apply runKeeps_foldlM | apply runAt_set | apply runAt_set_end | apply
                            runAt_ite)
    | (with_reducible refine keeps_fst (by with_reducible assumption) ?_)
    | extract_lets
    | split
    | dsimp only
    | (with_reducible first | apply keeps_mk | apply keeps_audit | apply keeps_fabric)
    | (with_reducible apply runAt_of)

theorem ckpHandle_keeps (x1 : Env) (x2 : Who) (x3 : Nat) (x4 : Handle) : RunKeeps (ckpHandle x1 x2 x3 x4) := by
  unfold ckpHandle
  repeat' first
    | (with_reducible first | assumption | intro _ | apply getS_keeps | apply stop_keeps | apply
                            ckpTile_keeps | apply stopMem_keeps | apply keeps_ite | apply keeps_foldl | apply keeps_ite_fst
                            | apply keeps_foldl_fst | apply keeps_foldl_snd | apply runKeeps_pure | apply runKeeps_getS |
                            apply runKeeps_bind | apply runKeeps_ite | apply runKeeps_foldlM | apply runAt_set | apply
                            runAt_set_end | apply runAt_ite)
    | extract_lets
    | split
    | dsimp only
    | (with_reducible first | apply keeps_mk | apply keeps_audit | apply keeps_fabric)
    | (with_reducible apply runAt_of)

theorem drainRecords_keeps {b : Bool} {s0 s u : State} {x : Bytes} {x1 : Env} {x2 : Nat} {x3 : Nat} {x4 x5 : Word} {x6 : Bytes}
    (h : Keeps b s0 s) (e : drainRecords x1 x2 x3 x4 x5 x6 s = .ok (x, u)) : Keeps b s0 u := by
  induction x3 generalizing s x4 x6 with
  | zero => cases e; exact h
  | succ n ih =>
    unfold drainRecords at e
    split at e
    · cases e; exact h
    · split at e
      · cases e
      · extract_lets at e
        split at e
        · cases e
        · exact ih (keeps_ite (count_keeps _ _ (fetchVa_keeps h (by assumption))) (fetchVa_keeps h (by assumption))) e

theorem ckpLedger_keeps (x1 : Env) (x2 : Who) : RunKeeps (ckpLedger x1 x2) := by
  unfold ckpLedger
  repeat' first
    | (with_reducible first | assumption | intro _ | apply getS_keeps | apply stopMem_keeps | apply
                            modS_keeps | apply State_setReg_keeps | apply keeps_ite | apply keeps_foldl | apply
                            runKeeps_pure | apply runKeeps_getS | apply runKeeps_bind | apply runKeeps_ite | apply
                            runKeeps_foldlM | apply runAt_set | apply runAt_set_end | apply runAt_ite)
    | (with_reducible refine drainRecords_keeps ?_ (by with_reducible assumption))
    | extract_lets
    | split
    | dsimp only
    | (with_reducible first | apply keeps_mk | apply keeps_audit | apply keeps_fabric)
    | (with_reducible apply runAt_of)

theorem ckpImage_keeps (x1 : Env) (x2 : Who) (x3 : Bool) (x4 : Bool) : RunKeeps (ckpImage x1 x2 x3 x4) := by
  unfold ckpImage
  repeat' first
    | (with_reducible first | assumption | intro _ | apply getS_keeps | apply ckpHandle_keeps |
                            apply ckpLedger_keeps | apply keeps_ite | apply keeps_foldl | apply keeps_ite_fst | apply
                            keeps_foldl_fst | apply keeps_foldl_snd | apply runKeeps_pure | apply runKeeps_getS | apply
                            runKeeps_bind | apply runKeeps_ite | apply runKeeps_foldlM | apply runAt_set | apply
                            runAt_set_end | apply runAt_ite)
    | extract_lets
    | split
    | dsimp only
    | (with_reducible first | apply keeps_mk | apply keeps_audit | apply keeps_fabric)
    | (with_reducible apply runAt_of)

theorem sendImage_keeps {b : Bool} {s0 s : State} (x1 : Nat) (x2 : Option TaskRef) (x3 : Bytes) (h : Keeps b s0 s) :
    Keeps b s0 (sendImage x1 x2 x3 s) := by
  unfold sendImage
  repeat' first
    | (with_reducible first | assumption | intro _ | apply sendTwin_keeps | apply keeps_ite | apply
                            keeps_foldl | apply keeps_ite_fst | apply keeps_foldl_fst | apply keeps_foldl_snd)
    | (with_reducible refine keeps_fst (by with_reducible assumption) ?_)
    | (with_reducible apply keeps_fresh)
    | split
    | dsimp only
    | (with_reducible first | apply keeps_mk | apply keeps_audit | apply keeps_fabric)

theorem programImage_keeps {b : Bool} {s0 s : State} (x1 : Image) (h : Keeps b s0 s) :
    Keeps b s0 (programImage x1 s) := by
  unfold programImage
  repeat' first
    | (with_reducible first | assumption | intro _ | apply count_keeps | apply keeps_ite | apply keeps_foldl)
    | split
    | dsimp only
    | (with_reducible first | apply keeps_mk | apply keeps_audit | apply keeps_fabric)

theorem streamImage_keeps {b : Bool} {s0 s : State} (x1 : Nat) (x2 : Bytes) (h : Keeps b s0 s) :
    Keeps b s0 (streamImage x1 x2 s) := by
  unfold streamImage
  repeat' first
    | (with_reducible first | assumption | intro _ | apply State_emit_keeps | apply keeps_ite |
                            apply keeps_foldl | apply keeps_ite_fst | apply keeps_foldl_fst | apply keeps_foldl_snd)
    | split
    | dsimp only
    | (with_reducible first | apply keeps_mk | apply keeps_audit | apply keeps_fabric)

theorem ckpWritten_keeps {b : Bool} {s0 s : State} (x1 : Nat) (x2 : Dword) (x3 : Nat) (x4 : Nat) (x5 : Bool) (x6 : Bool)
    (x7 : Nat) (x8 : Nat) (h : Keeps b s0 s) :
    Keeps b s0 (ckpWritten x1 x2 x3 x4 x5 x6 x7 x8 s) := by
  unfold ckpWritten
  repeat' first
    | (with_reducible first | assumption | intro _ | apply raiseCtx_keeps | apply keeps_ite | apply keeps_foldl)
    | split
    | dsimp only
    | (with_reducible first | apply keeps_mk | apply keeps_audit | apply keeps_fabric)

theorem ckpEvent_keeps {b : Bool} {s0 s : State} (x1 : Nat) (x2 : CkpRun) (x3 : Nat) (x4 : Nat) (x5 : Nat) (h : Keeps b s0 s) :
    Keeps b s0 (ckpEvent x1 x2 x3 x4 x5 s) := by
  unfold ckpEvent
  repeat' first
    | (with_reducible first | assumption | intro _ | apply ckpWritten_keeps | apply keeps_ite | apply keeps_foldl)
    | split
    | dsimp only
    | (with_reducible first | apply keeps_mk | apply keeps_audit | apply keeps_fabric)

theorem noteDurable_keeps {b : Bool} {s0 s : State} (x1 : Nat) (x2 : Dword) (x3 : Bool) (h : Keeps b s0 s) :
    Keeps b s0 (noteDurable x1 x2 x3 s) := by
  unfold noteDurable
  repeat' first
    | (with_reducible first | assumption | intro _ | apply State_setReg64_keeps | apply keeps_ite | apply keeps_foldl)
    | split
    | dsimp only
    | (with_reducible first | apply keeps_mk | apply keeps_audit | apply keeps_fabric)

theorem ckpAdvance_keeps {b : Bool} {s0 s : State} (x1 : Nat) (h : Keeps b s0 s) :
    Keeps b s0 (ckpAdvance x1 s) := by
  unfold ckpAdvance
  repeat' first
    | (with_reducible first | assumption | intro _ | apply streamImage_keeps | apply ckpEvent_keeps
                            | apply violation_keeps | apply State_setCtx_keeps | apply State_setTask_keeps | apply keeps_ite
                            | apply keeps_foldl)
    | split
    | dsimp only
    | (with_reducible first | apply keeps_mk | apply keeps_audit | apply keeps_fabric)

theorem ckpStart_keeps {b : Bool} {s0 s : State} (x1 : Nat) (x2 : CkpRun) (x3 : BitVec 3) (h : Keeps b s0 s) :
    Keeps b s0 (ckpStart x1 x2 x3 s) := by
  unfold ckpStart
  repeat' first
    | (with_reducible first | assumption | intro _ | apply ckpEvent_keeps | apply sendImage_keeps |
                            apply ckpAdvance_keeps | apply State_setCtx_keeps | apply keeps_ite | apply keeps_foldl)
    | (with_reducible apply keeps_id)
    | (with_reducible apply keeps_ite_snd)
    | (with_reducible refine keeps_snd (by with_reducible assumption) ?_)
    | split
    | dsimp only
    | (with_reducible first | apply keeps_mk | apply keeps_audit | apply keeps_fabric)

theorem ckpWriteBody_keeps (x1 : Env) (x2 : Task) : RunKeeps (ckpWriteBody x1 x2) := by
  unfold ckpWriteBody
  repeat' first
    | (with_reducible first | assumption | intro _ | apply getS_keeps | apply ckpImage_keeps | apply
                            modS_keeps | apply State_setCtx_keeps | apply keeps_ite | apply keeps_foldl | apply
                            runKeeps_pure | apply runKeeps_getS | apply runKeeps_bind | apply runKeeps_ite | apply
                            runKeeps_foldlM | apply runAt_set | apply runAt_set_end | apply runAt_ite)
    | extract_lets
    | split
    | dsimp only
    | (with_reducible first | apply keeps_mk | apply keeps_audit | apply keeps_fabric)
    | (with_reducible apply runAt_of)

theorem ckpBegin_keeps {b : Bool} {s0 s : State} (x1 : Nat) (h : Keeps b s0 s) :
    Keeps b s0 (ckpBegin x1 s) := by
  unfold ckpBegin
  repeat' first
    | (with_reducible first | assumption | intro _ | apply ckpStart_keeps | apply keeps_ite | apply keeps_foldl)
    | split
    | dsimp only
    | (with_reducible first | apply keeps_mk | apply keeps_audit | apply keeps_fabric)

theorem ckpWrite_keeps {b : Bool} {s0 s : State} (x1 : TaskRef) (x2 : Env) (h : Keeps b s0 s) :
    Keeps b s0 (ckpWrite x1 x2 s) := by
  unfold ckpWrite
  repeat' first
    | (with_reducible first | assumption | intro _ | apply ckpBegin_keeps | apply runWait_keeps |
                            apply ckpWriteBody_keeps | apply keeps_ite | apply keeps_foldl | apply runKeeps_pure | apply
                            runKeeps_getS | apply runKeeps_bind | apply runKeeps_ite | apply runKeeps_foldlM | apply
                            runAt_set | apply runAt_set_end | apply runAt_ite)
    | (with_reducible refine keeps_run ?_ (by with_reducible assumption) ?_)
    | split
    | dsimp only
    | (with_reducible first | apply keeps_mk | apply keeps_audit | apply keeps_fabric)
    | (with_reducible apply runAt_of)

theorem ckpDone1_keeps {b : Bool} {s0 s : State} (x1 : Nat) (x2 : CkpRun) (x3 : Bool) (x4 : Word) (h : Keeps b s0 s) :
    Keeps b s0 (ckpDone1 x1 x2 x3 x4 s) := by
  unfold ckpDone1
  repeat' first
    | (with_reducible first | assumption | intro _ | apply closeOps_keeps | apply noteDurable_keeps
                            | apply State_setReg_keeps | apply ckpEvent_keeps | apply State_setCtx_keeps | apply keeps_ite |
                            apply keeps_foldl)
    | split
    | dsimp only
    | (with_reducible first | apply keeps_mk | apply keeps_audit | apply keeps_fabric)

theorem ckpDone2_keeps {b : Bool} {s0 s : State} (x1 : Nat) (x2 : CkpRun) (x3 : Bool) (x4 : Word) (h : Keeps b s0 s) :
    Keeps b s0 (ckpDone2 x1 x2 x3 x4 s) := by
  unfold ckpDone2
  repeat' first
    | (with_reducible first | assumption | intro _ | apply ckpEvent_keeps | apply noteDurable_keeps
                            | apply programImage_keeps | apply State_setReg_keeps | apply State_setCtx_keeps | apply
                            keeps_ite | apply keeps_foldl)
    | (with_reducible apply keeps_id)
    | split
    | dsimp only
    | (with_reducible first | apply keeps_mk | apply keeps_audit | apply keeps_fabric)

theorem ckpDone3_keeps {b : Bool} {s0 s : State} (x1 : Nat) (x2 : CkpRun) (x3 : Bool) (x4 : Word) (h : Keeps b s0 s) :
    Keeps b s0 (ckpDone3 x1 x2 x3 x4 s) := by
  unfold ckpDone3
  repeat' first
    | (with_reducible first | assumption | intro _ | apply noteDurable_keeps | apply ckpEvent_keeps
                            | apply State_setCtx_keeps | apply keeps_ite | apply keeps_foldl)
    | split
    | dsimp only
    | (with_reducible first | apply keeps_mk | apply keeps_audit | apply keeps_fabric)

theorem ckpDurable_keeps {b : Bool} {s0 s : State} (x1 : TaskRef) (x2 : Nat) (x3 : Bool) (x4 : Word) (h : Keeps b s0 s) :
    Keeps b s0 (ckpDurable x1 x2 x3 x4 s) := by
  unfold ckpDurable
  repeat' first
    | (with_reducible first | assumption | intro _ | apply cadRefresh_keeps | apply ckpAdvance_keeps
                            | apply ckpDone1_keeps | apply ckpDone2_keeps | apply ckpDone3_keeps | apply keeps_ite | apply
                            keeps_foldl)
    | split
    | dsimp only
    | (with_reducible first | apply keeps_mk | apply keeps_audit | apply keeps_fabric)

theorem restoreHandle_keeps (x1 : Who) (x2 : ImgHandle) : RunKeeps (restoreHandle x1 x2) := by
  unfold restoreHandle
  repeat' first
    | (with_reducible first | assumption | intro _ | apply getS_keeps | apply stopMem_keeps | apply
                            modS_keeps | apply keeps_ite | apply keeps_foldl | apply runKeeps_pure | apply runKeeps_getS |
                            apply runKeeps_bind | apply runKeeps_ite | apply runKeeps_foldlM | apply runAt_set | apply
                            runAt_set_end | apply runAt_ite)
    | (with_reducible refine writeVa_keeps ?_ (by with_reducible assumption))
    | extract_lets
    | split
    | dsimp only
    | (with_reducible first | apply keeps_mk | apply keeps_audit | apply keeps_fabric)
    | (with_reducible apply runAt_of)

theorem ckpRestored_keeps {b : Bool} {s0 s : State} (x1 : Nat) (x2 : Dword) (x3 : Nat) (x4 : Nat) (x5 : Nat) (h : Keeps
    b s0 s) :
    Keeps b s0 (ckpRestored x1 x2 x3 x4 x5 s) := by
  unfold ckpRestored
  repeat' first
    | (with_reducible first | assumption | intro _ | apply raiseCtx_keeps | apply keeps_ite | apply keeps_foldl)
    | split
    | dsimp only
    | (with_reducible first | apply keeps_mk | apply keeps_audit | apply keeps_fabric)

theorem restoreBody_keeps (x1 : Bytes) (x2 : Bool) (x3 : Bool) (x4 : Task) : RunKeeps (restoreBody x1 x2 x3 x4) := by
  unfold restoreBody
  repeat' first
    | (with_reducible first | assumption | intro _ | apply getS_keeps | apply modS_keeps | apply
                            violation_keeps | apply stop_keeps | apply count_keeps | apply restoreHandle_keeps | apply
                            writeMap_keeps | apply writeWord_keeps | apply ckpRestored_keeps | apply State_setCtx_keeps |
                            apply State_setReg64_keeps | apply keeps_ite | apply keeps_foldl | apply keeps_ite_fst | apply
                            keeps_foldl_fst | apply keeps_foldl_snd | apply runKeeps_pure | apply runKeeps_getS | apply
                            runKeeps_bind | apply runKeeps_ite | apply runKeeps_foldlM | apply runAt_set | apply
                            runAt_set_end | apply runAt_ite)
    | (with_reducible refine keeps_fst (by with_reducible assumption) ?_)
    | extract_lets
    | split
    | dsimp only
    | (with_reducible first | apply keeps_mk | apply keeps_audit | apply keeps_fabric)
    | (with_reducible apply runAt_of)

theorem ckpRestore_keeps {b : Bool} {s0 s : State} (x1 : TaskRef) (x2 : Bytes) (x3 : Bool) (x4 : Bool) (h : Keeps b s0 s) :
    Keeps b s0 (ckpRestore x1 x2 x3 x4 s) := by
  unfold ckpRestore
  repeat' first
    | (with_reducible first | assumption | intro _ | apply runTask_keeps | apply restoreBody_keeps |
                            apply keeps_ite | apply keeps_foldl | apply runKeeps_pure | apply runKeeps_getS | apply
                            runKeeps_bind | apply runKeeps_ite | apply runKeeps_foldlM | apply runAt_set | apply
                            runAt_set_end | apply runAt_ite)
    | (with_reducible refine keeps_run ?_ (by with_reducible assumption) ?_)
    | split
    | dsimp only
    | (with_reducible first | apply keeps_mk | apply keeps_audit | apply keeps_fabric)
    | (with_reducible apply runAt_of)

theorem restoreLocalBody_keeps (x1 : Task) : RunKeeps (restoreLocalBody x1) := by
  unfold restoreLocalBody
  repeat' first
    | (with_reducible first | assumption | intro _ | apply getS_keeps | apply stop_keeps | apply
                            writeWord_keeps | apply modS_keeps | apply ckpRestored_keeps | apply State_setCtx_keeps | apply
                            State_setReg64_keeps | apply keeps_ite | apply keeps_foldl | apply runKeeps_pure | apply
                            runKeeps_getS | apply runKeeps_bind | apply runKeeps_ite | apply runKeeps_foldlM | apply
                            runAt_set | apply runAt_set_end | apply runAt_ite)
    | (with_reducible refine keeps_fst (by with_reducible assumption) ?_)
    | extract_lets
    | split
    | dsimp only
    | (with_reducible first | apply keeps_mk | apply keeps_audit | apply keeps_fabric)
    | (with_reducible apply runAt_of)

theorem ckpRestoreLocal_keeps {b : Bool} {s0 s : State} (x1 : TaskRef) (h : Keeps b s0 s) :
    Keeps b s0 (ckpRestoreLocal x1 s) := by
  unfold ckpRestoreLocal
  repeat' first
    | (with_reducible first | assumption | intro _ | apply runTask_keeps | apply
                            restoreLocalBody_keeps | apply keeps_ite | apply keeps_foldl | apply runKeeps_pure | apply
                            runKeeps_getS | apply runKeeps_bind | apply runKeeps_ite | apply runKeeps_foldlM | apply
                            runAt_set | apply runAt_set_end | apply runAt_ite)
    | (with_reducible refine keeps_run ?_ (by with_reducible assumption) ?_)
    | split
    | dsimp only
    | (with_reducible first | apply keeps_mk | apply keeps_audit | apply keeps_fabric)
    | (with_reducible apply runAt_of)

theorem drainImage_keeps {b : Bool} {s0 s : State} (x1 : Nat) (h : Keeps b s0 s) :
    Keeps b s0 (drainImage x1 s) := by
  unfold drainImage
  repeat' first
    | (with_reducible first | assumption | intro _ | apply ckpImage_keeps | apply sendImage_keeps |
                            apply programImage_keeps | apply noteDurable_keeps | apply ckpWritten_keeps | apply keeps_ite |
                            apply keeps_foldl | apply runKeeps_pure | apply runKeeps_getS | apply runKeeps_bind | apply
                            runKeeps_ite | apply runKeeps_foldlM | apply runAt_set | apply runAt_set_end | apply runAt_ite)
    | (with_reducible refine keeps_run ?_ (by with_reducible assumption) ?_)
    | split
    | dsimp only
    | (with_reducible first | apply keeps_mk | apply keeps_audit | apply keeps_fabric)
    | (with_reducible apply runAt_of)

theorem foldl_still {α : Type} {s : State} {f : State → α → State} (hd : s.dev = .draining)
    (hf : ∀ t a, t.dev = .draining → Keeps true s t → Keeps true s (f t a)) (l : List α) {t : State} (h : Keeps true s t) :
    Keeps true s (l.foldl f t) := by
  induction l generalizing t with
  | nil => exact h
  | cons a l ih => exact ih (hf t a (by rw [(h.still rfl).1]; exact hd) h)

/-- In DRAINING the release of a context does not move the device. -/
theorem drainRelease_still {s0 s : State} (x1 : Nat) (hd : s.dev = .draining) (h : Keeps true s0 s) :
    Keeps true s0 (drainRelease x1 s) := by
  have k1 : Keeps true s0 ((List.range 8).foldl (fun t r => disableRing x1 r (t.setRegBit (aRing x1 r 8) 0 false)) s) :=
    h.trans (foldl_still hd (fun t r ht k => disableRing_still x1 r (s := t.setRegBit (aRing x1 r 8) 0 false)
      (by rw [((State_setRegBit_keeps (aRing x1 r 8) 0 false (Keeps.refl true t)).still rfl).1]; exact ht)
      (State_setRegBit_keeps _ _ _ k)) _ (Keeps.refl true s))
  unfold drainRelease
  dsimp only
  split
  · exact State_setCtx_keeps _ _ (State_setRegBit_keeps _ _ _ (setCtxState_keeps _ _ (keepImports_keeps _ _ k1)))
  · exact setCtxState_keeps _ _ k1
  · exact setCtxState_keeps _ _ k1
  · exact k1

theorem drainComplete_keeps {s0 s : State} (h : Keeps false s0 s) : Keeps false s0 (drainComplete s) := by
  unfold drainComplete
  split
  · exact h
  next hs =>
    have hd : s.dev = .draining := by
      simp only [not_or, Decidable.not_not] at hs
      exact hs.1
    have k : Keeps true s (s.activeCtxs.foldl (fun t c => drainRelease c (drainImage c t)) s) :=
      foldl_still hd (fun t c ht k => drainRelease_still c
        (by rw [((drainImage_keeps c (Keeps.refl true t)).still rfl).1]; exact ht) (drainImage_keeps c k)) _ (Keeps.refl true s)
    have k2 : ∀ t : State, Keeps true s t → Keeps false s0 (setDev .fenced t) := fun t k =>
      setDev_after (s := s) (.inl (by rw [hd]; rfl)) k h
    dsimp only
    split
    · exact k2 _ (keeps_mk k)
    · exact holdSuspects_keeps (k2 _ (keeps_mk k))

theorem detachConfirmed_keeps {s0 s : State} (h : Keeps false s0 s) : Keeps false s0 (detachConfirmed s) := by
  unfold detachConfirmed
  split
  next hd => exact setDev_keeps _ (.inl (by rw [hd.1]; rfl)) h
  next => exact h

theorem execCheckpointWrite_keeps {b : Bool} {s0 s u : State} {x1 : TaskRef} {x2 : Env} (h : Keeps b s0 s)
    (e : execCheckpointWrite x1 x2 s = .next u) : Keeps b s0 u := by
  unfold execCheckpointWrite at e
  (injection e with e; subst e)
  all_goals
    repeat' first
      | (with_reducible first | assumption | intro _ | apply ckpWrite_keeps | apply keeps_ite | apply keeps_foldl)
      | split
      | dsimp only
      | (with_reducible first | apply keeps_mk | apply keeps_audit | apply keeps_fabric)

theorem execCheckpointRestore_keeps {b : Bool} {s0 s u : State} {x1 : TaskRef} {x2 : Bytes} {x3 : Bool} {x4 : Bool} (h :
    Keeps b s0 s)
    (e : execCheckpointRestore x1 x2 x3 x4 s = .next u) : Keeps b s0 u := by
  unfold execCheckpointRestore at e
  (injection e with e; subst e)
  all_goals
    repeat' first
      | (with_reducible first | assumption | intro _ | apply ckpRestore_keeps | apply keeps_ite | apply keeps_foldl)
      | split
      | dsimp only
      | (with_reducible first | apply keeps_mk | apply keeps_audit | apply keeps_fabric)

theorem execCheckpointRestoreLocal_keeps {b : Bool} {s0 s u : State} {x1 : TaskRef} (h : Keeps b s0 s)
    (e : execCheckpointRestoreLocal x1 s = .next u) : Keeps b s0 u := by
  unfold execCheckpointRestoreLocal at e
  (injection e with e; subst e)
  all_goals
    repeat' first
      | (with_reducible first | assumption | intro _ | apply ckpRestoreLocal_keeps | apply keeps_ite | apply keeps_foldl)
      | split
      | dsimp only
      | (with_reducible first | apply keeps_mk | apply keeps_audit | apply keeps_fabric)

theorem execCkpLayerDurable_keeps {b : Bool} {s0 s u : State} {x1 : TaskRef} {x2 : Fin 4} {x3 : Bool} {x4 : Word} (h :
    Keeps b s0 s)
    (e : execCkpLayerDurable x1 x2 x3 x4 s = .next u) : Keeps b s0 u := by
  unfold execCkpLayerDurable at e
  (injection e with e; subst e)
  all_goals
    repeat' first
      | (with_reducible first | assumption | intro _ | apply ckpDurable_keeps | apply keeps_ite | apply keeps_foldl)
      | split
      | dsimp only
      | (with_reducible first | apply keeps_mk | apply keeps_audit | apply keeps_fabric)

theorem execDrainComplete_keeps {s0 s u : State} (h : Keeps false s0 s)
    (e : execDrainComplete s = .next u) : Keeps false s0 u := by
  unfold execDrainComplete at e
  (injection e with e; subst e)
  all_goals
    repeat' first
      | (with_reducible first | assumption | intro _ | apply drainComplete_keeps | apply keeps_ite | apply keeps_foldl)
      | split
      | dsimp only
      | (with_reducible first | apply keeps_mk | apply keeps_audit | apply keeps_fabric)

theorem execDetachConfirmed_keeps {s0 s u : State} (h : Keeps false s0 s)
    (e : execDetachConfirmed s = .next u) : Keeps false s0 u := by
  unfold execDetachConfirmed at e
  (injection e with e; subst e)
  all_goals
    repeat' first
      | (with_reducible first | assumption | intro _ | apply detachConfirmed_keeps | apply keeps_ite | apply keeps_foldl)
      | split
      | dsimp only
      | (with_reducible first | apply keeps_mk | apply keeps_audit | apply keeps_fabric)

/-! ### Machine/Frames.lean -/

theorem noteFec_keeps {b : Bool} {s0 s : State} (x1 : Nat) (x2 : Fec) (h : Keeps b s0 s) :
    Keeps b s0 (noteFec x1 x2 s) := by
  unfold noteFec
  repeat' first
    | (with_reducible first | assumption | intro _ | apply count_keeps | apply State_setReg_keeps |
                            apply keeps_ite | apply keeps_foldl | apply keeps_ite_fst | apply keeps_foldl_fst | apply
                            keeps_foldl_snd)
    | split
    | dsimp only
    | (with_reducible first | apply keeps_mk | apply keeps_audit | apply keeps_fabric)

theorem v0Route_keeps {b : Bool} {s0 s : State} (x1 : Nat) (x2 : Bytes) (h : Keeps b s0 s) :
    Keeps b s0 (v0Route x1 x2 s) := by
  unfold v0Route
  repeat' first
    | (with_reducible first | assumption | intro _ | apply discardAt_keeps | apply enqueue_keeps |
                            apply count_keeps | apply keeps_ite | apply keeps_foldl)
    | split
    | dsimp only
    | (with_reducible first | apply keeps_mk | apply keeps_audit | apply keeps_fabric)

theorem v0Forward_keeps {b : Bool} {s0 s : State} (x1 : Nat) (x2 : Bytes) (x3 : Fec) (h : Keeps b s0 s) :
    Keeps b s0 (v0Forward x1 x2 x3 s) := by
  unfold v0Forward
  repeat' first
    | (with_reducible first | assumption | intro _ | apply noteFec_keeps | apply discardAt_keeps |
                            apply count_keeps | apply v0Route_keeps | apply keeps_ite | apply keeps_foldl)
    | split
    | dsimp only
    | (with_reducible first | apply keeps_mk | apply keeps_audit | apply keeps_fabric)

theorem gotTransport_keeps {b : Bool} {s0 s : State} (x1 : Nat) (x2 : Bytes) (x3 : Bytes) (x4 : Bool) (h : Keeps b s0 s) :
    Keeps b s0 (gotTransport x1 x2 x3 x4 s) := by
  unfold gotTransport
  repeat' first
    | (with_reducible first | assumption | intro _ | apply discardAt_keeps | apply hopPacket_keeps |
                            apply deliverPacket_keeps | apply keeps_ite | apply keeps_foldl)
    | split
    | dsimp only
    | (with_reducible first | apply keeps_mk | apply keeps_audit | apply keeps_fabric)

theorem meeting_keeps {b : Bool} {s0 s : State} (x1 : Env) (x2 : State) (h : Keeps b s0 s) :
    Keeps b s0 (meeting x1 x2 s) := by
  unfold meeting
  dsimp only
  (with_reducible apply keeps_fabric); assumption

theorem nativeFrame_keeps {b : Bool} {s0 s : State} (x1 : Nat) (x2 : Bytes) (x3 : Arrival) (h : Keeps b s0 s) :
    Keeps b s0 (nativeFrame x1 x2 x3 s) := by
  unfold nativeFrame
  repeat' first
    | (with_reducible first | assumption | intro _ | apply noteFec_keeps | apply count_keeps | apply
                            discardAt_keeps | apply v0Route_keeps | apply meeting_keeps | apply gotTransport_keeps | apply keeps_ite | apply
                            keeps_foldl)
    | split
    | dsimp only
    | (with_reducible first | apply keeps_mk | apply keeps_audit | apply keeps_fabric)

theorem coreAnswer_keeps {b : Bool} {s0 s : State} (x1 : Nat) (x2 : Option Bytes) (h : Keeps b s0 s) :
    Keeps b s0 (coreAnswer x1 x2 s) := by
  unfold coreAnswer
  repeat' first
    | (with_reducible first | assumption | intro _ | apply State_emit_keeps | apply count_keeps |
                            apply keeps_ite | apply keeps_foldl)
    | split
    | dsimp only
    | (with_reducible first | apply keeps_mk | apply keeps_audit | apply keeps_fabric)

theorem routedFrame_keeps {b : Bool} {s0 s : State} (x1 : Nat) (x2 : Bytes) (x3 : Arrival) (h : Keeps b s0 s) :
    Keeps b s0 (routedFrame x1 x2 x3 s) := by
  unfold routedFrame
  repeat' first
    | (with_reducible first | assumption | intro _ | apply noteFec_keeps | apply count_keeps | apply
                            discardAt_keeps | apply coreAnswer_keeps | apply v0Route_keeps | apply meeting_keeps | apply gotTransport_keeps |
                            apply keeps_ite | apply keeps_foldl)
    | split
    | dsimp only
    | (with_reducible first | apply keeps_mk | apply keeps_audit | apply keeps_fabric)

theorem linkTransmit_keeps {b : Bool} {s0 s : State} (x1 : Nat) (x2 : List (Nat × Nat × Nat)) (h : Keeps b s0 s) :
    Keeps b s0 (linkTransmit x1 x2 s) := by
  unfold linkTransmit
  repeat' first
    | (with_reducible first | assumption | intro _ | apply State_setPort_keeps | apply
                            State_emit_keeps | apply count_keeps | apply keeps_ite | apply keeps_foldl)
    | split
    | dsimp only
    | (with_reducible first | apply keeps_mk | apply keeps_audit | apply keeps_fabric)

theorem dwellExpire_keeps {b : Bool} {s0 s : State} (x1 : Nat) (x2 : Nat) (h : Keeps b s0 s) :
    Keeps b s0 (dwellExpire x1 x2 s) := by
  unfold dwellExpire
  repeat' first
    | (with_reducible first | assumption | intro _ | apply discardAt_keeps | apply
                            State_setPort_keeps | apply keeps_ite | apply keeps_foldl)
    | split
    | dsimp only
    | (with_reducible first | apply keeps_mk | apply keeps_audit | apply keeps_fabric)

theorem setEpoch_keeps {b : Bool} {s0 s : State} (x1 : Bool) (h : Keeps b s0 s) : Keeps b s0 (setEpoch x1 s) := by
  unfold setEpoch
  dsimp only
  split
  · exact h
  · exact keeps_same (State_setRegBit_keeps _ _ _ h) rfl rfl rfl rfl rfl rfl rfl rfl rfl rfl rfl rfl rfl rfl

theorem epochSwitch_keeps {b : Bool} {s0 s : State} (h : Keeps b s0 s) :
    Keeps b s0 (epochSwitch s) := by
  unfold epochSwitch
  repeat' first
    | (with_reducible first | assumption | intro _ | apply raiseDev_keeps | apply keeps_ite | apply keeps_foldl)
    | split
    | dsimp only
    | (with_reducible first | apply keeps_mk | apply keeps_audit | apply keeps_fabric)

theorem flowEvict_keeps {b : Bool} {s0 s : State} (x1 : Bool) (x2 : Nat) (h : Keeps b s0 s) :
    Keeps b s0 (flowEvict x1 x2 s) := by
  unfold flowEvict
  repeat' first
    | (with_reducible first | assumption | intro _ | apply keeps_ite | apply keeps_foldl)
    | split
    | dsimp only
    | (with_reducible first | apply keeps_mk | apply keeps_audit | apply keeps_fabric)

theorem servoUpdate_keeps {b : Bool} {s0 s : State} (x1 : Int) (h : Keeps b s0 s) : Keeps b s0 (servoUpdate x1 s) := by
  have k : Keeps b s0 (s.setReg (aFabr 0x5C) (BitVec.ofInt 32 (max (-(2 ^ 31)) (min (2 ^ 31 - 1) x1)))) :=
      State_setReg_keeps _ _ h
  unfold servoUpdate
  dsimp only
  repeat' first
    | (with_reducible apply State_setRegBit_keeps)
    | split
    | exact keeps_same k rfl rfl rfl rfl rfl rfl rfl rfl rfl rfl rfl rfl rfl rfl

theorem ptpSend_keeps {b : Bool} {s0 s : State} (x1 : Nat) (x2 : Nat) (x3 : Bytes) (h : Keeps b s0 s) :
    Keeps b s0 (ptpSend x1 x2 x3 s) := by
  unfold ptpSend
  repeat' first
    | (with_reducible first | assumption | intro _ | apply count_keeps | apply State_emit_keeps |
                            apply keeps_ite | apply keeps_foldl)
    | split
    | dsimp only
    | (with_reducible first | apply keeps_mk | apply keeps_audit | apply keeps_fabric)

theorem ptpMessage_keeps {b : Bool} {s0 s : State} (x1 : Nat) (x2 : Option Bytes) (x3 : Nat) (x4 : Option Int) (h :
    Keeps b s0 s) :
    Keeps b s0 (ptpMessage x1 x2 x3 x4 s) := by
  unfold ptpMessage
  split
  · exact h
  · cases x2 with
    | some frame => exact ptpSend_keeps _ _ _ h
    | none =>
      have h0 : Keeps b s0 (if x3 = 2 then s.setPort x1 { s.port x1 with pdelayAt := s.rxStamp x1 } else s) :=
        keeps_ite (State_setPort_keeps _ _ h) h
      have hp : ∀ t, Keeps b s0 t → Keeps b s0 { t with fabric := { t.fabric with
          ports := t.fabric.ports.map fun e => (e.1, { e.2 with ptpSlave := decide (e.1 = x1) }) } } := fun t ht =>
        keeps_ports (fun e => (e.1, { e.2 with ptpSlave := decide (e.1 = x1) })) (fun _ => rfl) ht rfl rfl
      cases x4 with
      | none => exact keeps_ite (keeps_fabric h0) h0
      | some o => exact servoUpdate_keeps _ (keeps_ite (keeps_fabric (hp _ h0)) (hp _ h0))

theorem ppsEdge_keeps {b : Bool} {s0 s : State} (h : Keeps b s0 s) :
    Keeps b s0 (ppsEdge s) := by
  unfold ppsEdge
  repeat' first
    | (with_reducible first | assumption | intro _ | apply State_setReg64_keeps | apply keeps_ite | apply keeps_foldl)
    | split
    | dsimp only
    | (with_reducible first | apply keeps_mk | apply keeps_audit | apply keeps_fabric)

theorem ppsLost_keeps {b : Bool} {s0 s : State} (h : Keeps b s0 s) :
    Keeps b s0 (ppsLost s) := by
  unfold ppsLost
  repeat' first
    | (with_reducible first | assumption | intro _ | apply State_setRegBit_keeps | apply keeps_ite | apply keeps_foldl)
    | split
    | dsimp only
    | (with_reducible first | apply keeps_mk | apply keeps_audit | apply keeps_fabric)

theorem ptpLost_keeps {b : Bool} {s0 s : State} (h : Keeps b s0 s) : Keeps b s0 (ptpLost s) := by
  unfold ptpLost
  split
  · exact keeps_ports (fun e => (e.1, { e.2 with ptpSlave := false })) (fun _ => rfl) (State_setRegBit_keeps _ _ _ h) rfl rfl
  · exact h

theorem execNativeFrameReceived_keeps {b : Bool} {s0 s u : State} {x1 : Fin 9} {x2 : Bytes} {x3 : Arrival} (h : Keeps b s0 s)
    (e : execNativeFrameReceived x1 x2 x3 s = .next u) : Keeps b s0 u := by
  unfold execNativeFrameReceived at e
  (injection e with e; subst e)
  all_goals
    repeat' first
      | (with_reducible first | assumption | intro _ | apply nativeFrame_keeps | apply keeps_ite | apply keeps_foldl)
      | split
      | dsimp only
      | (with_reducible first | apply keeps_mk | apply keeps_audit | apply keeps_fabric)

theorem execRoutedFrameReceived_keeps {b : Bool} {s0 s u : State} {x1 : Fin 9} {x2 : RxFrame} (h : Keeps b s0 s)
    (e : execRoutedFrameReceived x1 x2 s = .next u) : Keeps b s0 u := by
  unfold execRoutedFrameReceived at e
  (injection e with e; subst e)
  all_goals
    repeat' first
      | (with_reducible first | assumption | intro _ | apply routedFrame_keeps | apply keeps_ite | apply keeps_foldl)
      | split
      | dsimp only
      | (with_reducible first | apply keeps_mk | apply keeps_audit | apply keeps_fabric)

theorem execPtpMessage_keeps {b : Bool} {s0 s u : State} {x1 : Fin 9} {x2 : Option Bytes} {x3 : BitVec 4} {x4 : Option
    Int} (h : Keeps b s0 s)
    (e : execPtpMessage x1 x2 x3 x4 s = .next u) : Keeps b s0 u := by
  unfold execPtpMessage at e
  (injection e with e; subst e)
  all_goals
    repeat' first
      | (with_reducible first | assumption | intro _ | apply ptpMessage_keeps | apply keeps_ite | apply keeps_foldl)
      | split
      | dsimp only
      | (with_reducible first | apply keeps_mk | apply keeps_audit | apply keeps_fabric)

theorem execV0FrameForward_keeps {b : Bool} {s0 s u : State} {x1 : Fin 9} {x2 : RxFrame} (h : Keeps b s0 s)
    (e : execV0FrameForward x1 x2 s = .next u) : Keeps b s0 u := by
  unfold execV0FrameForward at e
  (injection e with e; subst e)
  all_goals
    repeat' first
      | (with_reducible first | assumption | intro _ | apply v0Forward_keeps | apply keeps_ite | apply keeps_foldl)
      | split
      | dsimp only
      | (with_reducible first | apply keeps_mk | apply keeps_audit | apply keeps_fabric)

theorem execLinkTransmit_keeps {b : Bool} {s0 s u : State} {x1 : Fin 9} {x2 : List (Nat × Nat × Nat)} (h : Keeps b s0 s)
    (e : execLinkTransmit x1 x2 s = .next u) : Keeps b s0 u := by
  unfold execLinkTransmit at e
  (injection e with e; subst e)
  all_goals
    repeat' first
      | (with_reducible first | assumption | intro _ | apply linkTransmit_keeps | apply keeps_ite | apply keeps_foldl)
      | split
      | dsimp only
      | (with_reducible first | apply keeps_mk | apply keeps_audit | apply keeps_fabric)

theorem execDwellExpire_keeps {b : Bool} {s0 s u : State} {x1 : Fin 9} {x2 : Nat} (h : Keeps b s0 s)
    (e : execDwellExpire x1 x2 s = .next u) : Keeps b s0 u := by
  unfold execDwellExpire at e
  (injection e with e; subst e)
  all_goals
    repeat' first
      | (with_reducible first | assumption | intro _ | apply dwellExpire_keeps | apply keeps_ite | apply keeps_foldl)
      | split
      | dsimp only
      | (with_reducible first | apply keeps_mk | apply keeps_audit | apply keeps_fabric)

theorem execFlowEvict_keeps {b : Bool} {s0 s u : State} {x1 : Bool} {x2 : Nat} (h : Keeps b s0 s)
    (e : execFlowEvict x1 x2 s = .next u) : Keeps b s0 u := by
  unfold execFlowEvict at e
  (injection e with e; subst e)
  all_goals
    repeat' first
      | (with_reducible first | assumption | intro _ | apply flowEvict_keeps | apply keeps_ite | apply keeps_foldl)
      | split
      | dsimp only
      | (with_reducible first | apply keeps_mk | apply keeps_audit | apply keeps_fabric)

theorem execEpochSwitch_keeps {b : Bool} {s0 s u : State} (h : Keeps b s0 s)
    (e : execEpochSwitch s = .next u) : Keeps b s0 u := by
  unfold execEpochSwitch at e
  (injection e with e; subst e)
  all_goals
    repeat' first
      | (with_reducible first | assumption | intro _ | apply epochSwitch_keeps | apply keeps_ite | apply keeps_foldl)
      | split
      | dsimp only
      | (with_reducible first | apply keeps_mk | apply keeps_audit | apply keeps_fabric)

theorem execPpsEdge_keeps {b : Bool} {s0 s u : State} (h : Keeps b s0 s)
    (e : execPpsEdge s = .next u) : Keeps b s0 u := by
  unfold execPpsEdge at e
  (injection e with e; subst e)
  all_goals
    repeat' first
      | (with_reducible first | assumption | intro _ | apply ppsEdge_keeps | apply keeps_ite | apply keeps_foldl)
      | split
      | dsimp only
      | (with_reducible first | apply keeps_mk | apply keeps_audit | apply keeps_fabric)

theorem execPpsLost_keeps {b : Bool} {s0 s u : State} (h : Keeps b s0 s)
    (e : execPpsLost s = .next u) : Keeps b s0 u := by
  unfold execPpsLost at e
  (injection e with e; subst e)
  all_goals
    repeat' first
      | (with_reducible first | assumption | intro _ | apply ppsLost_keeps | apply keeps_ite | apply keeps_foldl)
      | split
      | dsimp only
      | (with_reducible first | apply keeps_mk | apply keeps_audit | apply keeps_fabric)

theorem execPtpLost_keeps {b : Bool} {s0 s u : State} (h : Keeps b s0 s)
    (e : execPtpLost s = .next u) : Keeps b s0 u := by
  unfold execPtpLost at e
  (injection e with e; subst e)
  all_goals
    repeat' first
      | (with_reducible first | assumption | intro _ | apply ptpLost_keeps | apply keeps_ite | apply keeps_foldl)
      | split
      | dsimp only
      | (with_reducible first | apply keeps_mk | apply keeps_audit | apply keeps_fabric)

/-! ### Machine/Requests.lean -/

theorem answer_keeps {b : Bool} {s0 s : State} (x1 : Nat) (x2 : Packet) (x3 : Byte) (x4 : Word) (x5 : Bool) (x6 : Bytes)
    (h : Keeps b s0 s) :
    Keeps b s0 (answer x1 x2 x3 x4 x5 x6 s) := by
  unfold answer
  repeat' first
    | (with_reducible first | assumption | intro _ | apply inject_keeps | apply keeps_ite | apply keeps_foldl)
    | (with_reducible refine keeps_fst (by with_reducible assumption) ?_)
    | split
    | dsimp only
    | (with_reducible first | apply keeps_mk | apply keeps_audit | apply keeps_fabric)

theorem sendAckTo_keeps {b : Bool} {s0 s : State} (x1 : Nat) (x2 : Packet) (h : Keeps b s0 s) :
    Keeps b s0 (sendAckTo x1 x2 s) := by
  unfold sendAckTo
  repeat' first
    | (with_reducible first | assumption | intro _ | apply answer_keeps | apply keeps_ite | apply keeps_foldl)
    | split
    | dsimp only
    | (with_reducible first | apply keeps_mk | apply keeps_audit | apply keeps_fabric)

theorem sendNack_keeps {b : Bool} {s0 s : State} (x1 : Nat) (x2 : Packet) (x3 : Byte) (h : Keeps b s0 s) :
    Keeps b s0 (sendNack x1 x2 x3 s) := by
  unfold sendNack
  repeat' first
    | (with_reducible first | assumption | intro _ | apply answer_keeps | apply keeps_ite | apply keeps_foldl)
    | split
    | dsimp only
    | (with_reducible first | apply keeps_mk | apply keeps_audit | apply keeps_fabric)

theorem runRequest_keeps {b : Bool} {s0 s : State} (x1 : Nat) (x2 : Nat) (x3 : Packet) (x4 : State → State) (x5 : State
    → State × Option Byte) (hx4 : ∀ t, Keeps b s0 t → Keeps b s0 (x4 t)) (hx5 : ∀ t, Keeps b s0 t → Keeps b s0 (x5 t).1) (h
    : Keeps b s0 s) :
    Keeps b s0 (runRequest x1 x2 x3 x4 x5 s) := by
  unfold runRequest
  repeat' first
    | (with_reducible first | assumption | intro _ | apply sendNack_keeps | apply seqNote_keeps |
                            apply hx4 | apply hx5 | apply keeps_ite | apply keeps_foldl)
    | (with_reducible refine keeps_fst (by with_reducible assumption) ?_)
    | split
    | dsimp only
    | (with_reducible first | apply keeps_mk | apply keeps_audit | apply keeps_fabric)

theorem memFail_keeps {b : Bool} {s0 s : State} (x1 : Nat) (x2 : MemErr) (h : Keeps b s0 s) :
    Keeps b s0 (memFail x1 x2 s).1 := by
  unfold memFail
  repeat' first
    | (with_reducible first | assumption | intro _ | apply killCtx_keeps | apply
                            raisePoisonConsumed_keeps | apply noteUe_keeps | apply keeps_ite | apply keeps_foldl | apply
                            keeps_ite_fst | apply keeps_foldl_fst | apply keeps_foldl_snd)
    | split
    | dsimp only
    | (with_reducible first | apply keeps_mk | apply keeps_audit | apply keeps_fabric)

theorem raiseReceived_keeps {b : Bool} {s0 s : State} (x1 : Who) (x2 : Nat) (x3 : Fmt) (x4 : Nat) (x5 : Nat) (x6 :
    Packet) (h : Keeps b s0 s) :
    Keeps b s0 (raiseReceived x1 x2 x3 x4 x5 x6 s) := by
  unfold raiseReceived
  repeat' first
    | (with_reducible first | assumption | intro _ | apply raiseChecksum_keeps | apply keeps_ite | apply keeps_foldl)
    | split
    | dsimp only
    | (with_reducible first | apply keeps_mk | apply keeps_audit | apply keeps_fabric)

theorem doTileWrite_keeps {b : Bool} {s0 s : State} (x1 : Env) (x2 : Nat) (x3 : Packet) (h : Keeps b s0 s) :
    Keeps b s0 (doTileWrite x1 x2 x3 s).1 := by
  unfold doTileWrite
  repeat' first
    | (with_reducible first | assumption | intro _ | apply raiseReceived_keeps | apply memFail_keeps
                            | apply sendAckTo_keeps | apply addCounter_keeps | apply keeps_ite | apply keeps_foldl | apply
                            keeps_ite_fst | apply keeps_foldl_fst | apply keeps_foldl_snd)
    | (with_reducible refine storeTile_keeps ?_ (by with_reducible assumption))
    | (with_reducible refine keeps_fst (by with_reducible assumption) ?_)
    | split
    | dsimp only
    | (with_reducible first | apply keeps_mk | apply keeps_audit | apply keeps_fabric)

theorem doMemWrite_keeps {b : Bool} {s0 s : State} (x1 : Env) (x2 : Nat) (x3 : Packet) (h : Keeps b s0 s) :
    Keeps b s0 (doMemWrite x1 x2 x3 s).1 := by
  unfold doMemWrite
  repeat' first
    | (with_reducible first | assumption | intro _ | apply memFail_keeps | apply sendAckTo_keeps |
                            apply addCounter_keeps | apply keeps_ite | apply keeps_foldl | apply keeps_ite_fst | apply
                            keeps_foldl_fst | apply keeps_foldl_snd)
    | (with_reducible refine writeVa_keeps ?_ (by with_reducible assumption))
    | (with_reducible refine keeps_fst (by with_reducible assumption) ?_)
    | split
    | dsimp only
    | (with_reducible first | apply keeps_mk | apply keeps_audit | apply keeps_fabric)

theorem tileWrite_keeps {b : Bool} {s0 s : State} (h : Keeps b s0 s) :
    Keeps b s0 (tileWrite s) := by
  unfold tileWrite
  repeat' first
    | (with_reducible first | assumption | intro _ | apply runRequest_keeps | apply sendAckTo_keeps
                            | apply doTileWrite_keeps | apply keeps_ite | apply keeps_foldl)
    | (with_reducible refine takeDelivered_keeps ?_ (by with_reducible assumption))
    | (with_reducible refine keeps_fst (by with_reducible assumption) ?_)
    | split
    | dsimp only
    | (with_reducible first | apply keeps_mk | apply keeps_audit | apply keeps_fabric)

theorem twinAnswer_keeps {b : Bool} {s0 s : State} (x1 : Packet) (x2 : Byte) (x3 : Word) (x4 : Bytes) (h : Keeps b s0 s) :
    Keeps b s0 (twinAnswer x1 x2 x3 x4 s) := by
  unfold twinAnswer
  repeat' first
    | (with_reducible first | assumption | intro _ | apply sendTwin_keeps | apply keeps_ite | apply keeps_foldl)
    | (with_reducible refine keeps_fst (by with_reducible assumption) ?_)
    | split
    | dsimp only
    | (with_reducible first | apply keeps_mk | apply keeps_audit | apply keeps_fabric)

theorem partnerRequest_keeps {b : Bool} {s0 s : State} (x1 : Packet) (x2 : Env) (h : Keeps b s0 s) :
    Keeps b s0 (partnerRequest x1 x2 s) := by
  unfold partnerRequest
  repeat' first
    | (with_reducible first | assumption | intro _ | apply seqNote_keeps | apply twinAnswer_keeps |
                            apply writePieces_keeps | apply noteUes_keeps | apply noteCes_keeps | apply keeps_ite | apply
                            keeps_foldl | apply keeps_ite_fst | apply keeps_foldl_fst | apply keeps_foldl_snd)
    | (with_reducible refine keeps_fst (by with_reducible assumption) ?_)
    | split
    | dsimp only
    | (with_reducible first | apply keeps_mk | apply keeps_audit | apply keeps_fabric)

theorem memWrite_keeps {b : Bool} {s0 s : State} (h : Keeps b s0 s) :
    Keeps b s0 (memWrite s) := by
  unfold memWrite
  repeat' first
    | (with_reducible first | assumption | intro _ | apply partnerRequest_keeps | apply
                            runRequest_keeps | apply sendAckTo_keeps | apply doMemWrite_keeps | apply keeps_ite | apply
                            keeps_foldl)
    | (with_reducible refine takeDelivered_keeps ?_ (by with_reducible assumption))
    | (with_reducible refine keeps_fst (by with_reducible assumption) ?_)
    | split
    | dsimp only
    | (with_reducible first | apply keeps_mk | apply keeps_audit | apply keeps_fabric)

theorem doRead_keeps {b : Bool} {s0 s : State} (x1 : Nat) (x2 : Packet) (x3 : Env) (h : Keeps b s0 s) :
    Keeps b s0 (doRead x1 x2 x3 s).1 := by
  unfold doRead
  repeat' first
    | (with_reducible first | assumption | intro _ | apply answer_keeps | apply loadTile_keeps |
                            apply raiseChecksum_keeps | apply memFail_keeps | apply keeps_ite | apply keeps_foldl | apply
                            keeps_ite_fst | apply keeps_foldl_fst | apply keeps_foldl_snd)
    | (with_reducible refine keeps_fst (by with_reducible assumption) ?_)
    | (with_reducible refine fetchVa_keeps ?_ (by with_reducible assumption))
    | split
    | dsimp only
    | (with_reducible first | apply keeps_mk | apply keeps_audit | apply keeps_fabric)

theorem readReq_keeps {b : Bool} {s0 s : State} (x1 : Env) (h : Keeps b s0 s) :
    Keeps b s0 (readReq x1 s) := by
  unfold readReq
  repeat' first
    | (with_reducible first | assumption | intro _ | apply partnerRequest_keeps | apply doRead_keeps
                            | apply sendNack_keeps | apply runRequest_keeps | apply keeps_ite | apply keeps_foldl)
    | (with_reducible refine takeDelivered_keeps ?_ (by with_reducible assumption))
    | (with_reducible refine keeps_fst (by with_reducible assumption) ?_)
    | split
    | dsimp only
    | (with_reducible first | apply keeps_mk | apply keeps_audit | apply keeps_fabric)

theorem failOp_keeps {b : Bool} {s0 s : State} (x1 : FabOp) (x2 : Byte) (h : Keeps b s0 s) :
    Keeps b s0 (failOp x1 x2 s) := by
  unfold failOp
  repeat' first
    | (with_reducible first | assumption | intro _ | apply setOp_keeps | apply keeps_ite | apply keeps_foldl)
    | split
    | dsimp only
    | (with_reducible first | apply keeps_mk | apply keeps_audit | apply keeps_fabric)

theorem noteMirrored_keeps {b : Bool} {s0 s : State} (x1 : Packet) (h : Keeps b s0 s) :
    Keeps b s0 (noteMirrored x1 s) := by
  unfold noteMirrored
  repeat' first
    | (with_reducible first | assumption | intro _ | apply State_setReg64_keeps | apply keeps_ite | apply keeps_foldl)
    | split
    | dsimp only
    | (with_reducible first | apply keeps_mk | apply keeps_audit | apply keeps_fabric)

theorem ackArrives_keeps {b : Bool} {s0 s : State} (h : Keeps b s0 s) :
    Keeps b s0 (ackArrives s) := by
  unfold ackArrives
  repeat' first
    | (with_reducible first | assumption | intro _ | apply seqNote_keeps | apply noteMirrored_keeps
                            | apply setOp_keeps | apply keeps_ite | apply keeps_foldl)
    | (with_reducible refine takeDelivered_keeps ?_ (by with_reducible assumption))
    | (with_reducible refine keeps_fst (by with_reducible assumption) ?_)
    | split
    | dsimp only
    | (with_reducible first | apply keeps_mk | apply keeps_audit | apply keeps_fabric)

theorem nackArrives_keeps {b : Bool} {s0 s : State} (h : Keeps b s0 s) :
    Keeps b s0 (nackArrives s) := by
  unfold nackArrives
  repeat' first
    | (with_reducible first | assumption | intro _ | apply seqNote_keeps | apply failOp_keeps |
                            apply keeps_ite | apply keeps_foldl)
    | (with_reducible refine takeDelivered_keeps ?_ (by with_reducible assumption))
    | (with_reducible refine keeps_fst (by with_reducible assumption) ?_)
    | split
    | dsimp only
    | (with_reducible first | apply keeps_mk | apply keeps_audit | apply keeps_fabric)

theorem storeFetched_keeps {b : Bool} {s0 s : State} (x1 : Env) (x2 : TaskRef) (x3 : Nat) (x4 : Packet) (h : Keeps b s0 s) :
    Keeps b s0 (storeFetched x1 x2 x3 x4 s).1 := by
  unfold storeFetched
  repeat' first
    | (with_reducible first | assumption | intro _ | apply outTensor_keeps | apply
                            raiseReceived_keeps | apply memFail_keeps | apply addCounter_keeps | apply keeps_ite | apply
                            keeps_foldl | apply keeps_ite_fst | apply keeps_foldl_fst | apply keeps_foldl_snd | apply
                            runKeeps_pure | apply runKeeps_getS | apply runKeeps_bind | apply runKeeps_ite | apply
                            runKeeps_foldlM | apply runAt_set | apply runAt_set_end | apply runAt_ite)
    | (with_reducible refine storeTile_keeps ?_ (by with_reducible assumption))
    | (with_reducible refine keeps_fst (by with_reducible assumption) ?_)
    | (with_reducible refine keeps_run ?_ (by with_reducible assumption) ?_)
    | split
    | dsimp only
    | (with_reducible first | apply keeps_mk | apply keeps_audit | apply keeps_fabric)
    | (with_reducible apply runAt_of)

theorem readData_keeps {b : Bool} {s0 s : State} (h : Keeps b s0 s) :
    Keeps b s0 (readData s) := by
  unfold readData
  repeat' first
    | (with_reducible first | assumption | intro _ | apply seqNote_keeps | apply setOp_keeps | apply
                            storeFetched_keeps | apply failOp_keeps | apply keeps_ite | apply keeps_foldl)
    | (with_reducible refine takeDelivered_keeps ?_ (by with_reducible assumption))
    | (with_reducible refine keeps_fst (by with_reducible assumption) ?_)
    | split
    | dsimp only
    | (with_reducible first | apply keeps_mk | apply keeps_audit | apply keeps_fabric)

theorem resend_keeps {b : Bool} {s0 s : State} (x1 : Packet) (h : Keeps b s0 s) :
    Keeps b s0 (resend x1 s) := by
  unfold resend
  repeat' first
    | (with_reducible first | assumption | intro _ | apply count_keeps | apply putTwin_keeps | apply
                            launch_keeps | apply keeps_ite | apply keeps_foldl)
    | split
    | dsimp only
    | (with_reducible first | apply keeps_mk | apply keeps_audit | apply keeps_fabric)

theorem opTimedOut_keeps {b : Bool} {s0 s : State} (x1 : FabOp) (h : Keeps b s0 s) :
    Keeps b s0 (opTimedOut x1 s) := by
  unfold opTimedOut
  repeat' first
    | (with_reducible first | assumption | intro _ | apply raiseWho_keeps | apply keeps_ite | apply keeps_foldl)
    | split
    | dsimp only
    | (with_reducible first | apply keeps_mk | apply keeps_audit | apply keeps_fabric)

theorem opTimer_keeps {b : Bool} {s0 s : State} (x1 : Nat) (h : Keeps b s0 s) :
    Keeps b s0 (opTimer x1 s) := by
  unfold opTimer
  repeat' first
    | (with_reducible first | assumption | intro _ | apply resend_keeps | apply setOp_keeps | apply
                            failOp_keeps | apply opTimedOut_keeps | apply count_keeps | apply keeps_ite | apply keeps_foldl
                            | apply keeps_ite_fst | apply keeps_foldl_fst | apply keeps_foldl_snd)
    | split
    | dsimp only
    | (with_reducible first | apply keeps_mk | apply keeps_audit | apply keeps_fabric)

theorem colPoison_keeps {b : Bool} {s0 s : State} (x1 : ColWindow) (x2 : Nat) (h : Keeps b s0 s) :
    Keeps b s0 (colPoison x1 x2 s) := by
  unfold colPoison
  repeat' first
    | (with_reducible first | assumption | intro _ | apply raisePoisonConsumed_keeps | apply
                            killCtx_keeps | apply afterComplete_keeps | apply completeWith_keeps | apply keeps_ite | apply
                            keeps_foldl)
    | split
    | dsimp only
    | (with_reducible first | apply keeps_mk | apply keeps_audit | apply keeps_fabric)

theorem colRegrant_keeps {b : Bool} {s0 s : State} (x1 : ColWindow) (x2 : Packet) (h : Keeps b s0 s) :
    Keeps b s0 (colRegrant x1 x2 s) := by
  unfold colRegrant
  repeat' first
    | (with_reducible first | assumption | intro _ | apply sendGrant_keeps | apply setWindow_keeps |
                            apply keeps_ite | apply keeps_foldl)
    | split
    | dsimp only
    | (with_reducible first | apply keeps_mk | apply keeps_audit | apply keeps_fabric)

theorem colData_keeps {b : Bool} {s0 s : State} (h : Keeps b s0 s) :
    Keeps b s0 (colData s) := by
  unfold colData
  repeat' first
    | (with_reducible first | assumption | intro _ | apply sendNack_keeps | apply discardAt_keeps |
                            apply raiseReceived_keeps | apply seqNote_keeps | apply sendGrant_keeps | apply colPoison_keeps
                            | apply colAdvance_keeps | apply colRegrant_keeps | apply setWindow_keeps | apply keeps_ite |
                            apply keeps_foldl)
    | (with_reducible refine takeDelivered_keeps ?_ (by with_reducible assumption))
    | (with_reducible refine keeps_fst (by with_reducible assumption) ?_)
    | split
    | dsimp only
    | (with_reducible first | apply keeps_mk | apply keeps_audit | apply keeps_fabric)

theorem colGrant_keeps {b : Bool} {s0 s : State} (h : Keeps b s0 s) :
    Keeps b s0 (colGrant s) := by
  unfold colGrant
  repeat' first
    | (with_reducible first | assumption | intro _ | apply seqNote_keeps | apply setCredits_keeps |
                            apply setOp_keeps | apply pump_keeps | apply keeps_ite | apply keeps_foldl)
    | (with_reducible refine takeDelivered_keeps ?_ (by with_reducible assumption))
    | (with_reducible refine keeps_fst (by with_reducible assumption) ?_)
    | split
    | dsimp only
    | (with_reducible first | apply keeps_mk | apply keeps_audit | apply keeps_fabric)

theorem execTileWrite_keeps {b : Bool} {s0 s u : State} (h : Keeps b s0 s)
    (e : execTileWrite s = .next u) : Keeps b s0 u := by
  unfold execTileWrite at e
  (injection e with e; subst e)
  all_goals
    repeat' first
      | (with_reducible first | assumption | intro _ | apply tileWrite_keeps | apply keeps_ite | apply keeps_foldl)
      | split
      | dsimp only
      | (with_reducible first | apply keeps_mk | apply keeps_audit | apply keeps_fabric)

theorem execMemWrite_keeps {b : Bool} {s0 s u : State} (h : Keeps b s0 s)
    (e : execMemWrite s = .next u) : Keeps b s0 u := by
  unfold execMemWrite at e
  (injection e with e; subst e)
  all_goals
    repeat' first
      | (with_reducible first | assumption | intro _ | apply memWrite_keeps | apply keeps_ite | apply keeps_foldl)
      | split
      | dsimp only
      | (with_reducible first | apply keeps_mk | apply keeps_audit | apply keeps_fabric)

theorem execReadReq_keeps {b : Bool} {s0 s u : State} {x1 : Env} (h : Keeps b s0 s)
    (e : execReadReq x1 s = .next u) : Keeps b s0 u := by
  unfold execReadReq at e
  (injection e with e; subst e)
  all_goals
    repeat' first
      | (with_reducible first | assumption | intro _ | apply readReq_keeps | apply keeps_ite | apply keeps_foldl)
      | split
      | dsimp only
      | (with_reducible first | apply keeps_mk | apply keeps_audit | apply keeps_fabric)

theorem execReadData_keeps {b : Bool} {s0 s u : State} (h : Keeps b s0 s)
    (e : execReadData s = .next u) : Keeps b s0 u := by
  unfold execReadData at e
  (injection e with e; subst e)
  all_goals
    repeat' first
      | (with_reducible first | assumption | intro _ | apply readData_keeps | apply keeps_ite | apply keeps_foldl)
      | split
      | dsimp only
      | (with_reducible first | apply keeps_mk | apply keeps_audit | apply keeps_fabric)

theorem execAck_keeps {b : Bool} {s0 s u : State} (h : Keeps b s0 s)
    (e : execAck s = .next u) : Keeps b s0 u := by
  unfold execAck at e
  (injection e with e; subst e)
  all_goals
    repeat' first
      | (with_reducible first | assumption | intro _ | apply ackArrives_keeps | apply keeps_ite | apply keeps_foldl)
      | split
      | dsimp only
      | (with_reducible first | apply keeps_mk | apply keeps_audit | apply keeps_fabric)

theorem execNack_keeps {b : Bool} {s0 s u : State} (h : Keeps b s0 s)
    (e : execNack s = .next u) : Keeps b s0 u := by
  unfold execNack at e
  (injection e with e; subst e)
  all_goals
    repeat' first
      | (with_reducible first | assumption | intro _ | apply nackArrives_keeps | apply keeps_ite | apply keeps_foldl)
      | split
      | dsimp only
      | (with_reducible first | apply keeps_mk | apply keeps_audit | apply keeps_fabric)

theorem execColData_keeps {b : Bool} {s0 s u : State} (h : Keeps b s0 s)
    (e : execColData s = .next u) : Keeps b s0 u := by
  unfold execColData at e
  (injection e with e; subst e)
  all_goals
    repeat' first
      | (with_reducible first | assumption | intro _ | apply colData_keeps | apply keeps_ite | apply keeps_foldl)
      | split
      | dsimp only
      | (with_reducible first | apply keeps_mk | apply keeps_audit | apply keeps_fabric)

theorem execColGrant_keeps {b : Bool} {s0 s u : State} (h : Keeps b s0 s)
    (e : execColGrant s = .next u) : Keeps b s0 u := by
  unfold execColGrant at e
  (injection e with e; subst e)
  all_goals
    repeat' first
      | (with_reducible first | assumption | intro _ | apply colGrant_keeps | apply keeps_ite | apply keeps_foldl)
      | split
      | dsimp only
      | (with_reducible first | apply keeps_mk | apply keeps_audit | apply keeps_fabric)

theorem execOpTimerExpire_keeps {b : Bool} {s0 s u : State} {x1 : Nat} (h : Keeps b s0 s)
    (e : execOpTimerExpire x1 s = .next u) : Keeps b s0 u := by
  unfold execOpTimerExpire at e
  (injection e with e; subst e)
  all_goals
    repeat' first
      | (with_reducible first | assumption | intro _ | apply opTimer_keeps | apply keeps_ite | apply keeps_foldl)
      | split
      | dsimp only
      | (with_reducible first | apply keeps_mk | apply keeps_audit | apply keeps_fabric)

/-! ### Machine/Twin.lean -/

theorem setTwin_keeps {b : Bool} {s0 s : State} (x1 : Twin) (h : Keeps b s0 s) :
    Keeps b s0 (setTwin x1 s) := by
  unfold setTwin
  repeat' first
    | (with_reducible first | assumption | intro _ | apply auditState_keeps | apply keeps_ite | apply keeps_foldl)
    | split
    | dsimp only
    | (with_reducible first | apply keeps_mk | apply keeps_audit | apply keeps_fabric)

theorem pairCheck_keeps {b : Bool} {s0 s : State} (h : Keeps b s0 s) :
    Keeps b s0 (pairCheck s) := by
  unfold pairCheck
  repeat' first
    | (with_reducible first | assumption | intro _ | apply setTwin_keeps | apply State_setCtx_keeps
                            | apply cadRefresh_keeps | apply raiseDev_keeps | apply keeps_ite | apply keeps_foldl | apply
                            keeps_ite_fst | apply keeps_foldl_fst | apply keeps_foldl_snd)
    | split
    | dsimp only
    | (with_reducible first | apply keeps_mk | apply keeps_audit | apply keeps_fabric)

theorem takeTwin_keeps {b : Bool} {s0 s u : State} {x : Delivered} {y : Bool} {x1 : Nat} (h : Keeps b s0 s)
    (e : takeTwin x1 s = some (x, y, u)) : Keeps b s0 u := by
  unfold takeTwin at e
  try dsimp only at e
  (repeat' split at e) <;> (first | cases e | skip)
  all_goals
    repeat' first
      | (with_reducible first | assumption | intro _ | apply seqNote_keeps | apply keeps_ite | apply keeps_foldl)
      | (with_reducible refine keeps_fst (by with_reducible assumption) ?_)
      | split
      | dsimp only
      | (with_reducible first | apply keeps_mk | apply keeps_audit | apply keeps_fabric)

theorem twinPair_keeps {b : Bool} {s0 s : State} (h : Keeps b s0 s) :
    Keeps b s0 (twinPair s) := by
  unfold twinPair
  repeat' first
    | (with_reducible first | assumption | intro _ | apply setTwin_keeps | apply sendHello_keeps |
                            apply keeps_ite | apply keeps_foldl)
    | split
    | dsimp only
    | (with_reducible first | apply keeps_mk | apply keeps_audit | apply keeps_fabric)

theorem twinUnpair_keeps {b : Bool} {s0 s : State} (h : Keeps b s0 s) :
    Keeps b s0 (twinUnpair s) := by
  unfold twinUnpair
  repeat' first
    | (with_reducible first | assumption | intro _ | apply cadRefresh_keeps | apply setTwin_keeps |
                            apply keeps_ite | apply keeps_foldl)
    | split
    | dsimp only
    | (with_reducible first | apply keeps_mk | apply keeps_audit | apply keeps_fabric)

theorem pairHello_keeps {b : Bool} {s0 s : State} (h : Keeps b s0 s) :
    Keeps b s0 (pairHello s) := by
  unfold pairHello
  repeat' first
    | (with_reducible first | assumption | intro _ | apply pairCheck_keeps | apply twinMessage_keeps
                            | apply keeps_ite | apply keeps_foldl)
    | (with_reducible refine takeTwin_keeps ?_ (by with_reducible assumption))
    | split
    | dsimp only
    | (with_reducible first | apply keeps_mk | apply keeps_audit | apply keeps_fabric)

theorem pairConfirm_keeps {b : Bool} {s0 s : State} (h : Keeps b s0 s) :
    Keeps b s0 (pairConfirm s) := by
  unfold pairConfirm
  repeat' first
    | (with_reducible first | assumption | intro _ | apply pairCheck_keeps | apply keeps_ite | apply keeps_foldl)
    | (with_reducible refine takeTwin_keeps ?_ (by with_reducible assumption))
    | split
    | dsimp only
    | (with_reducible first | apply keeps_mk | apply keeps_audit | apply keeps_fabric)

theorem heartbeat_keeps {b : Bool} {s0 s : State} (h : Keeps b s0 s) :
    Keeps b s0 (heartbeat s) := by
  unfold heartbeat
  repeat' first
    | (with_reducible first | assumption | intro _ | apply keeps_ite | apply keeps_foldl)
    | (with_reducible refine takeTwin_keeps ?_ (by with_reducible assumption))
    | split
    | dsimp only
    | (with_reducible first | apply keeps_mk | apply keeps_audit | apply keeps_fabric)

theorem heartbeatSend_keeps {b : Bool} {s0 s : State} (h : Keeps b s0 s) :
    Keeps b s0 (heartbeatSend s) := by
  unfold heartbeatSend
  repeat' first
    | (with_reducible first | assumption | intro _ | apply twinMessage_keeps | apply keeps_ite | apply keeps_foldl)
    | split
    | dsimp only
    | (with_reducible first | apply keeps_mk | apply keeps_audit | apply keeps_fabric)

theorem twinLost_keeps {b : Bool} {s0 s : State} (h : Keeps b s0 s) :
    Keeps b s0 (twinLost s) := by
  unfold twinLost
  repeat' first
    | (with_reducible first | assumption | intro _ | apply cadRefresh_keeps | apply setTwin_keeps |
                            apply keeps_ite | apply keeps_foldl)
    | split
    | dsimp only
    | (with_reducible first | apply keeps_mk | apply keeps_audit | apply keeps_fabric)

theorem ctlMsg_keeps {b : Bool} {s0 s : State} (h : Keeps b s0 s) :
    Keeps b s0 (ctlMsg s) := by
  unfold ctlMsg
  repeat' first
    | (with_reducible first | assumption | intro _ | apply seqNote_keeps | apply discardAt_keeps |
                            apply keeps_ite | apply keeps_foldl)
    | (with_reducible refine keeps_fst (by with_reducible assumption) ?_)
    | split
    | dsimp only
    | (with_reducible first | apply keeps_mk | apply keeps_audit | apply keeps_fabric)

theorem startDetach_keeps {s0 s : State} (h : Keeps false s0 s) : Keeps false s0 (startDetach s) := by
  unfold startDetach
  dsimp only
  split
  next hd => exact setDev_after (s := s) (.inl (by rw [hd]; rfl)) (keeps_mk (Keeps.refl true s)) h
  next =>
    split
    · exact keeps_mk h
    · exact h

theorem cadInterrupt_keeps {b : Bool} {s0 s : State} (x1 : Dword) (h : Keeps b s0 s) :
    Keeps b s0 (cadInterrupt x1 s) := by
  unfold cadInterrupt
  repeat' first
    | (with_reducible first | assumption | intro _ | apply cadRefresh_keeps | apply keeps_ite | apply keeps_foldl)
    | split
    | dsimp only
    | (with_reducible first | apply keeps_mk | apply keeps_audit | apply keeps_fabric)

theorem execPairHello_keeps {b : Bool} {s0 s u : State} (h : Keeps b s0 s)
    (e : execPairHello s = .next u) : Keeps b s0 u := by
  unfold execPairHello at e
  (injection e with e; subst e)
  all_goals
    repeat' first
      | (with_reducible first | assumption | intro _ | apply pairHello_keeps | apply keeps_ite | apply keeps_foldl)
      | split
      | dsimp only
      | (with_reducible first | apply keeps_mk | apply keeps_audit | apply keeps_fabric)

theorem execPairConfirm_keeps {b : Bool} {s0 s u : State} (h : Keeps b s0 s)
    (e : execPairConfirm s = .next u) : Keeps b s0 u := by
  unfold execPairConfirm at e
  (injection e with e; subst e)
  all_goals
    repeat' first
      | (with_reducible first | assumption | intro _ | apply pairConfirm_keeps | apply keeps_ite | apply keeps_foldl)
      | split
      | dsimp only
      | (with_reducible first | apply keeps_mk | apply keeps_audit | apply keeps_fabric)

theorem execHeartbeat_keeps {b : Bool} {s0 s u : State} (h : Keeps b s0 s)
    (e : execHeartbeat s = .next u) : Keeps b s0 u := by
  unfold execHeartbeat at e
  (injection e with e; subst e)
  all_goals
    repeat' first
      | (with_reducible first | assumption | intro _ | apply heartbeat_keeps | apply keeps_ite | apply keeps_foldl)
      | split
      | dsimp only
      | (with_reducible first | apply keeps_mk | apply keeps_audit | apply keeps_fabric)

theorem execHeartbeatSend_keeps {b : Bool} {s0 s u : State} (h : Keeps b s0 s)
    (e : execHeartbeatSend s = .next u) : Keeps b s0 u := by
  unfold execHeartbeatSend at e
  (injection e with e; subst e)
  all_goals
    repeat' first
      | (with_reducible first | assumption | intro _ | apply heartbeatSend_keeps | apply keeps_ite | apply keeps_foldl)
      | split
      | dsimp only
      | (with_reducible first | apply keeps_mk | apply keeps_audit | apply keeps_fabric)

theorem execTwinLost_keeps {b : Bool} {s0 s u : State} (h : Keeps b s0 s)
    (e : execTwinLost s = .next u) : Keeps b s0 u := by
  unfold execTwinLost at e
  (injection e with e; subst e)
  all_goals
    repeat' first
      | (with_reducible first | assumption | intro _ | apply twinLost_keeps | apply keeps_ite | apply keeps_foldl)
      | split
      | dsimp only
      | (with_reducible first | apply keeps_mk | apply keeps_audit | apply keeps_fabric)

theorem execCtlMsg_keeps {b : Bool} {s0 s u : State} (h : Keeps b s0 s)
    (e : execCtlMsg s = .next u) : Keeps b s0 u := by
  unfold execCtlMsg at e
  (injection e with e; subst e)
  all_goals
    repeat' first
      | (with_reducible first | assumption | intro _ | apply ctlMsg_keeps | apply keeps_ite | apply keeps_foldl)
      | split
      | dsimp only
      | (with_reducible first | apply keeps_mk | apply keeps_audit | apply keeps_fabric)

/-! ### Machine/Secu.lean -/

theorem setLoadStatus_keeps {b : Bool} {s0 s : State} (x1 : Nat) (x2 : Nat) (h : Keeps b s0 s) :
    Keeps b s0 (setLoadStatus x1 x2 s) := by
  unfold setLoadStatus
  repeat' first
    | (with_reducible first | assumption | intro _ | apply State_setReg_keeps | apply keeps_ite | apply keeps_foldl)
    | split
    | dsimp only
    | (with_reducible first | apply keeps_mk | apply keeps_audit | apply keeps_fabric)

theorem loadRefuse_keeps {b : Bool} {s0 s : State} (x1 : Nat) (h : Keeps b s0 s) :
    Keeps b s0 (loadRefuse x1 s) := by
  unfold loadRefuse
  repeat' first
    | (with_reducible first | assumption | intro _ | apply violation_keeps | apply
                            setLoadStatus_keeps | apply keeps_ite | apply keeps_foldl)
    | split
    | dsimp only
    | (with_reducible first | apply keeps_mk | apply keeps_audit | apply keeps_fabric)

theorem secuLoad_keeps {b : Bool} {s0 s : State} (x1 : Nat) (h : Keeps b s0 s) :
    Keeps b s0 (secuLoad x1 s) := by
  unfold secuLoad
  repeat' first
    | (with_reducible first | assumption | intro _ | apply setLoadStatus_keeps | apply keeps_ite | apply keeps_foldl)
    | split
    | dsimp only
    | (with_reducible first | apply keeps_mk | apply keeps_audit | apply keeps_fabric)

theorem secuLoadDone_keeps {b : Bool} {s0 s : State} (x1 : SignedObj) (h : Keeps b s0 s) :
    Keeps b s0 (secuLoadDone x1 s) := by
  unfold secuLoadDone
  repeat' first
    | (with_reducible first | assumption | intro _ | apply rejectImage_keeps | apply
                            setLoadStatus_keeps | apply auditHw_keeps | apply keeps_ite | apply keeps_foldl)
    | split
    | dsimp only
    | (with_reducible first | apply keeps_mk | apply keeps_audit | apply keeps_fabric)

theorem activateRefuse_keeps {b : Bool} {s0 s : State} (h : Keeps b s0 s) :
    Keeps b s0 (activateRefuse s) := by
  unfold activateRefuse
  repeat' first
    | (with_reducible first | assumption | intro _ | apply setLoadStatus_keeps | apply keeps_ite | apply keeps_foldl)
    | split
    | dsimp only
    | (with_reducible first | apply keeps_mk | apply keeps_audit | apply keeps_fabric)

theorem activate_keeps {b : Bool} {s0 s : State} (h : Keeps b s0 s) :
    Keeps b s0 (activate s) := by
  unfold activate
  repeat' first
    | (with_reducible first | assumption | intro _ | apply mgmtRestart_keeps | apply keeps_ite | apply keeps_foldl)
    | split
    | dsimp only
    | (with_reducible first | apply keeps_mk | apply keeps_audit | apply keeps_fabric)

theorem confirmUpdate_keeps {b : Bool} {s0 s : State} (h : Keeps b s0 s) :
    Keeps b s0 (confirmUpdate s) := by
  unfold confirmUpdate
  repeat' first
    | (with_reducible first | assumption | intro _ | apply keeps_ite | apply keeps_foldl)
    | split
    | dsimp only
    | (with_reducible first | apply keeps_mk | apply keeps_audit | apply keeps_fabric)

theorem confirmTimeout_keeps {b : Bool} {s0 s : State} (h : Keeps b s0 s) :
    Keeps b s0 (confirmTimeout s) := by
  unfold confirmTimeout
  repeat' first
    | (with_reducible first | assumption | intro _ | apply mgmtRestart_keeps | apply
                            rejectImage_keeps | apply keeps_ite | apply keeps_foldl)
    | split
    | dsimp only
    | (with_reducible first | apply keeps_mk | apply keeps_audit | apply keeps_fabric)

theorem mgmtRestarted_keeps {b : Bool} {s0 s : State} (h : Keeps b s0 s) :
    Keeps b s0 (mgmtRestarted s) := by
  unfold mgmtRestarted
  repeat' first
    | (with_reducible first | assumption | intro _ | apply deriveKeys_keeps | apply measure_keeps |
                            apply keeps_ite | apply keeps_foldl)
    | split
    | dsimp only
    | (with_reducible first | apply keeps_mk | apply keeps_audit | apply keeps_fabric)

theorem quoteGo_keeps {b : Bool} {s0 s : State} (x1 : Bool) (h : Keeps b s0 s) :
    Keeps b s0 (quoteGo x1 s) := by
  unfold quoteGo
  repeat' first
    | (with_reducible first | assumption | intro _ | apply State_setReg_keeps | apply keeps_ite | apply keeps_foldl)
    | split
    | dsimp only
    | (with_reducible first | apply keeps_mk | apply keeps_audit | apply keeps_fabric)

theorem quoteDone_keeps {b : Bool} {s0 s : State} (h : Keeps b s0 s) :
    Keeps b s0 (quoteDone s) := by
  unfold quoteDone
  repeat' first
    | (with_reducible first | assumption | intro _ | apply streamImage_keeps | apply
                            State_setReg_keeps | apply violation_keeps | apply keeps_ite | apply keeps_foldl)
    | split
    | dsimp only
    | (with_reducible first | apply keeps_mk | apply keeps_audit | apply keeps_fabric)

theorem setDbgStatus_keeps {b : Bool} {s0 s : State} (x1 : Bool) (h : Keeps b s0 s) :
    Keeps b s0 (setDbgStatus x1 s) := by
  unfold setDbgStatus
  repeat' first
    | (with_reducible first | assumption | intro _ | apply State_setReg_keeps | apply keeps_ite | apply keeps_foldl)
    | split
    | dsimp only
    | (with_reducible first | apply keeps_mk | apply keeps_audit | apply keeps_fabric)

theorem dbgEnable_keeps {b : Bool} {s0 s : State} (x1 : Option SignedObj) (h : Keeps b s0 s) :
    Keeps b s0 (dbgEnable x1 s) := by
  unfold dbgEnable
  repeat' first
    | (with_reducible first | assumption | intro _ | apply drawDebugNonce_keeps | apply
                            setDbgStatus_keeps | apply violation_keeps | apply rejectImage_keeps | apply measure_keeps |
                            apply keeps_ite | apply keeps_foldl)
    | split
    | dsimp only
    | (with_reducible first | apply keeps_mk | apply keeps_audit | apply keeps_fabric)

theorem dbgEnd_keeps {b : Bool} {s0 s : State} (h : Keeps b s0 s) :
    Keeps b s0 (dbgEnd s) := by
  unfold dbgEnd
  repeat' first
    | (with_reducible first | assumption | intro _ | apply setDbgStatus_keeps | apply keeps_ite | apply keeps_foldl)
    | split
    | dsimp only
    | (with_reducible first | apply keeps_mk | apply keeps_audit | apply keeps_fabric)

theorem dbgExpire_keeps {b : Bool} {s0 s : State} (h : Keeps b s0 s) :
    Keeps b s0 (dbgExpire s) := by
  unfold dbgExpire
  repeat' first
    | (with_reducible first | assumption | intro _ | apply dbgEnd_keeps | apply keeps_ite | apply keeps_foldl)
    | split
    | dsimp only
    | (with_reducible first | apply keeps_mk | apply keeps_audit | apply keeps_fabric)

theorem mirrorEntries_keeps {b : Bool} {s0 s : State} (h : Keeps b s0 s) : Keeps b s0 (mirrorEntries s) := by
  unfold mirrorEntries
  extract_lets es
  clear_value es
  split
  · exact h
  · split
    next s1 sent e =>
    have k : Keeps b s0 s1 := by
      refine keeps_fst e (keeps_foldl_fst (fun t i ht => ?_) _ h)
      split
      · exact ht
      · exact sendTwin_keeps _ ht
    exact keeps_fabric_audit k

theorem getLast?_drop {α : Type} (l : List α) (n : Nat) : (l.drop n).getLast? = if n < l.length then l.getLast? else none := by
  split
  next h => rw [List.getLast?_drop]; simp [Nat.not_le.2 h]
  next h => rw [List.drop_eq_nil_of_le (Nat.le_of_not_lt h)]; rfl

/-- Entries that leave the ring at its front leave it one chain. -/
theorem chained_drop {a a' : Audit} (n : Nat) (w : a.chained = true) (h1 : a'.next = a.next) (h2 : a'.chain = a.chain)
    (h3 : a'.ring = a.ring.drop n) : a'.chained = true := by
  simp only [Audit.chained, Bool.and_eq_true] at w ⊢
  rw [h1, h2, h3, getLast?_drop]
  refine ⟨linked_drop _ _ w.1, ?_⟩
  by_cases hn : n < a.ring.length
  · simp only [hn, if_true]; exact w.2
  · simp only [hn, if_false]

theorem programEntries_keeps {b : Bool} {s0 s : State} (x1 : Nat) (h : Keeps b s0 s) : Keeps b s0 (programEntries x1 s) := by
  unfold programEntries
  dsimp only
  exact h.trans ⟨rfl, rfl, List.prefix_refl _, Nat.le_refl _, id, fun w => by simpa only [State.regsWf] using w,
    fun w => by simpa only [State.keysRise] using w, fun w => chained_drop _ w rfl rfl rfl, fun w => by simpa only
        [State.moved] using w, fun _ => ⟨rfl, rfl⟩⟩

theorem auditDrain_keeps {b : Bool} {s0 s : State} (h : Keeps b s0 s) :
    Keeps b s0 (auditDrain s) := by
  unfold auditDrain
  repeat' first
    | (with_reducible first | assumption | intro _ | apply programEntries_keeps | apply
                            mirrorEntries_keeps | apply keeps_ite | apply keeps_foldl)
    | split
    | dsimp only
    | (with_reducible first | apply keeps_mk | apply keeps_audit | apply keeps_fabric)

theorem auditRead_keeps {b : Bool} {s0 s : State} (x1 : Dword) (h : Keeps b s0 s) :
    Keeps b s0 (auditRead x1 s) := by
  unfold auditRead
  repeat' first
    | (with_reducible first | assumption | intro _ | apply count_keeps | apply State_setReg_keeps |
                            apply keeps_ite | apply keeps_foldl)
    | split
    | dsimp only
    | (with_reducible first | apply keeps_mk | apply keeps_audit | apply keeps_fabric)

theorem execSecuLoadDone_keeps {b : Bool} {s0 s u : State} {x1 : SignedObj} (h : Keeps b s0 s)
    (e : execSecuLoadDone x1 s = .next u) : Keeps b s0 u := by
  unfold execSecuLoadDone at e
  (injection e with e; subst e)
  all_goals
    repeat' first
      | (with_reducible first | assumption | intro _ | apply secuLoadDone_keeps | apply keeps_ite | apply keeps_foldl)
      | split
      | dsimp only
      | (with_reducible first | apply keeps_mk | apply keeps_audit | apply keeps_fabric)

theorem execConfirmTimeout_keeps {b : Bool} {s0 s u : State} (h : Keeps b s0 s)
    (e : execConfirmTimeout s = .next u) : Keeps b s0 u := by
  unfold execConfirmTimeout at e
  (injection e with e; subst e)
  all_goals
    repeat' first
      | (with_reducible first | assumption | intro _ | apply confirmTimeout_keeps | apply keeps_ite | apply keeps_foldl)
      | split
      | dsimp only
      | (with_reducible first | apply keeps_mk | apply keeps_audit | apply keeps_fabric)

theorem execQuoteDone_keeps {b : Bool} {s0 s u : State} (h : Keeps b s0 s)
    (e : execQuoteDone s = .next u) : Keeps b s0 u := by
  unfold execQuoteDone at e
  (injection e with e; subst e)
  all_goals
    repeat' first
      | (with_reducible first | assumption | intro _ | apply quoteDone_keeps | apply keeps_ite | apply keeps_foldl)
      | split
      | dsimp only
      | (with_reducible first | apply keeps_mk | apply keeps_audit | apply keeps_fabric)

theorem execDbgExpire_keeps {b : Bool} {s0 s u : State} (h : Keeps b s0 s)
    (e : execDbgExpire s = .next u) : Keeps b s0 u := by
  unfold execDbgExpire at e
  (injection e with e; subst e)
  all_goals
    repeat' first
      | (with_reducible first | assumption | intro _ | apply dbgExpire_keeps | apply keeps_ite | apply keeps_foldl)
      | split
      | dsimp only
      | (with_reducible first | apply keeps_mk | apply keeps_audit | apply keeps_fabric)

theorem execAuditDrain_keeps {b : Bool} {s0 s u : State} (h : Keeps b s0 s)
    (e : execAuditDrain s = .next u) : Keeps b s0 u := by
  unfold execAuditDrain at e
  (injection e with e; subst e)
  all_goals
    repeat' first
      | (with_reducible first | assumption | intro _ | apply auditDrain_keeps | apply keeps_ite | apply keeps_foldl)
      | split
      | dsimp only
      | (with_reducible first | apply keeps_mk | apply keeps_audit | apply keeps_fabric)

/-! ### Machine/Jtag.lean -/

theorem stall_keeps {b : Bool} {s0 s : State} (x1 : Instr) (h : Keeps b s0 s) :
    Keeps b s0 (stall x1 s) := by
  unfold stall
  repeat' first
    | (with_reducible first | assumption | intro _ | apply count_keeps | apply smbAlert_keeps |
                            apply raiseDev_keeps | apply keeps_ite | apply keeps_foldl)
    | split
    | dsimp only
    | (with_reducible first | apply keeps_mk | apply keeps_audit | apply keeps_fabric)

theorem loadIr_keeps {b : Bool} {s0 s : State} (x1 : Byte) (h : Keeps b s0 s) :
    Keeps b s0 (loadIr x1 s) := by
  unfold loadIr
  repeat' first
    | (with_reducible first | assumption | intro _ | apply keeps_ite | apply keeps_foldl)
    | split
    | dsimp only
    | (with_reducible first | apply keeps_mk | apply keeps_audit | apply keeps_fabric)

theorem showBypass_keeps {b : Bool} {s0 s : State} (h : Keeps b s0 s) :
    Keeps b s0 (showBypass s) := by
  unfold showBypass
  repeat' first
    | (with_reducible first | assumption | intro _ | apply State_emit_keeps | apply loadIr_keeps |
                            apply keeps_ite | apply keeps_foldl)
    | split
    | dsimp only
    | (with_reducible first | apply keeps_mk | apply keeps_audit | apply keeps_fabric)

theorem boundaryScan_keeps {b : Bool} {s0 s : State} (x1 : Byte) (h : Keeps b s0 s) :
    Keeps b s0 (boundaryScan x1 s) := by
  unfold boundaryScan
  repeat' first
    | (with_reducible first | assumption | intro _ | apply loadIr_keeps | apply keeps_ite | apply keeps_foldl)
    | split
    | dsimp only
    | (with_reducible first | apply keeps_mk | apply keeps_audit | apply keeps_fabric)

theorem refuseIr_keeps {b : Bool} {s0 s : State} (x1 : Byte) (x2 : Instr) (h : Keeps b s0 s) :
    Keeps b s0 (refuseIr x1 x2 s) := by
  unfold refuseIr
  repeat' first
    | (with_reducible first | assumption | intro _ | apply loadIr_keeps | apply stall_keeps | apply
                            auditAppend_keeps | apply keeps_ite | apply keeps_foldl)
    | split
    | dsimp only
    | (with_reducible first | apply keeps_mk | apply keeps_audit | apply keeps_fabric)

theorem idcode_keeps {b : Bool} {s0 s : State} (h : Keeps b s0 s) :
    Keeps b s0 (idcode s) := by
  unfold idcode
  repeat' first
    | (with_reducible first | assumption | intro _ | apply State_emit_keeps | apply loadIr_keeps |
                            apply keeps_ite | apply keeps_foldl)
    | split
    | dsimp only
    | (with_reducible first | apply keeps_mk | apply keeps_audit | apply keeps_fabric)

theorem coreDebug_keeps {b : Bool} {s0 s : State} (h : Keeps b s0 s) :
    Keeps b s0 (coreDebug s) := by
  unfold coreDebug
  repeat' first
    | (with_reducible first | assumption | intro _ | apply loadIr_keeps | apply refuseIr_keeps |
                            apply keeps_ite | apply keeps_foldl)
    | split
    | dsimp only
    | (with_reducible first | apply keeps_mk | apply keeps_audit | apply keeps_fabric)

theorem debugReset_keeps {s0 s : State} (x1 : Bool) (h : Keeps false s0 s) :
    Keeps false s0 (debugReset x1 s) := by
  unfold debugReset
  repeat' first
    | (with_reducible first | assumption | intro _ | apply loadIr_keeps | apply resetDevice_keeps |
                            apply refuseIr_keeps | apply keeps_ite | apply keeps_foldl)
    | split
    | dsimp only
    | (with_reducible first | apply keeps_mk | apply keeps_audit | apply keeps_fabric)

theorem securityStatus_keeps {b : Bool} {s0 s : State} (h : Keeps b s0 s) :
    Keeps b s0 (securityStatus s) := by
  unfold securityStatus
  repeat' first
    | (with_reducible first | assumption | intro _ | apply State_emit_keeps | apply loadIr_keeps |
                            apply keeps_ite | apply keeps_foldl)
    | split
    | dsimp only
    | (with_reducible first | apply keeps_mk | apply keeps_audit | apply keeps_fabric)

theorem bypass_keeps {b : Bool} {s0 s : State} (h : Keeps b s0 s) :
    Keeps b s0 (bypass s) := by
  unfold bypass
  repeat' first
    | (with_reducible first | assumption | intro _ | apply showBypass_keeps | apply keeps_ite | apply keeps_foldl)
    | split
    | dsimp only
    | (with_reducible first | apply keeps_mk | apply keeps_audit | apply keeps_fabric)

theorem testLogicReset_keeps {b : Bool} {s0 s : State} (h : Keeps b s0 s) :
    Keeps b s0 (testLogicReset s) := by
  unfold testLogicReset
  repeat' first
    | (with_reducible first | assumption | intro _ | apply refreshSub_keeps | apply loadIr_keeps |
                            apply keeps_ite | apply keeps_foldl)
    | split
    | dsimp only
    | (with_reducible first | apply keeps_mk | apply keeps_audit | apply keeps_fabric)

theorem execIdcode_keeps {b : Bool} {s0 s u : State} (h : Keeps b s0 s)
    (e : execIdcode s = .next u) : Keeps b s0 u := by
  unfold execIdcode at e
  (injection e with e; subst e)
  all_goals
    repeat' first
      | (with_reducible first | assumption | intro _ | apply idcode_keeps | apply keeps_ite | apply keeps_foldl)
      | split
      | dsimp only
      | (with_reducible first | apply keeps_mk | apply keeps_audit | apply keeps_fabric)

theorem execSamplePreload_keeps {b : Bool} {s0 s u : State} (h : Keeps b s0 s)
    (e : execSamplePreload s = .next u) : Keeps b s0 u := by
  unfold execSamplePreload at e
  (repeat' split at e) <;> (injection e with e; subst e)
  all_goals
    repeat' first
      | (with_reducible first | assumption | intro _ | apply loadIr_keeps | apply keeps_ite | apply keeps_foldl)
      | split
      | dsimp only
      | (with_reducible first | apply keeps_mk | apply keeps_audit | apply keeps_fabric)

theorem execExtest_keeps {b : Bool} {s0 s u : State} (h : Keeps b s0 s)
    (e : execExtest s = .next u) : Keeps b s0 u := by
  unfold execExtest at e
  (injection e with e; subst e)
  all_goals
    repeat' first
      | (with_reducible first | assumption | intro _ | apply boundaryScan_keeps | apply keeps_ite | apply keeps_foldl)
      | split
      | dsimp only
      | (with_reducible first | apply keeps_mk | apply keeps_audit | apply keeps_fabric)

theorem execExtestPulse_keeps {b : Bool} {s0 s u : State} (h : Keeps b s0 s)
    (e : execExtestPulse s = .next u) : Keeps b s0 u := by
  unfold execExtestPulse at e
  (injection e with e; subst e)
  all_goals
    repeat' first
      | (with_reducible first | assumption | intro _ | apply boundaryScan_keeps | apply keeps_ite | apply keeps_foldl)
      | split
      | dsimp only
      | (with_reducible first | apply keeps_mk | apply keeps_audit | apply keeps_fabric)

theorem execExtestTrain_keeps {b : Bool} {s0 s u : State} (h : Keeps b s0 s)
    (e : execExtestTrain s = .next u) : Keeps b s0 u := by
  unfold execExtestTrain at e
  (injection e with e; subst e)
  all_goals
    repeat' first
      | (with_reducible first | assumption | intro _ | apply boundaryScan_keeps | apply keeps_ite | apply keeps_foldl)
      | split
      | dsimp only
      | (with_reducible first | apply keeps_mk | apply keeps_audit | apply keeps_fabric)

theorem execClamp_keeps {b : Bool} {s0 s u : State} (h : Keeps b s0 s)
    (e : execClamp s = .next u) : Keeps b s0 u := by
  unfold execClamp at e
  (injection e with e; subst e)
  all_goals
    repeat' first
      | (with_reducible first | assumption | intro _ | apply boundaryScan_keeps | apply keeps_ite | apply keeps_foldl)
      | split
      | dsimp only
      | (with_reducible first | apply keeps_mk | apply keeps_audit | apply keeps_fabric)

theorem execHighz_keeps {b : Bool} {s0 s u : State} (h : Keeps b s0 s)
    (e : execHighz s = .next u) : Keeps b s0 u := by
  unfold execHighz at e
  (injection e with e; subst e)
  all_goals
    repeat' first
      | (with_reducible first | assumption | intro _ | apply boundaryScan_keeps | apply keeps_ite | apply keeps_foldl)
      | split
      | dsimp only
      | (with_reducible first | apply keeps_mk | apply keeps_audit | apply keeps_fabric)

theorem execCoreDebug_keeps {b : Bool} {s0 s u : State} (h : Keeps b s0 s)
    (e : execCoreDebug s = .next u) : Keeps b s0 u := by
  unfold execCoreDebug at e
  (injection e with e; subst e)
  all_goals
    repeat' first
      | (with_reducible first | assumption | intro _ | apply coreDebug_keeps | apply keeps_ite | apply keeps_foldl)
      | split
      | dsimp only
      | (with_reducible first | apply keeps_mk | apply keeps_audit | apply keeps_fabric)

theorem execDebugReset_keeps {s0 s u : State} {x1 : Bool} (h : Keeps false s0 s)
    (e : execDebugReset x1 s = .next u) : Keeps false s0 u := by
  unfold execDebugReset at e
  (injection e with e; subst e)
  all_goals
    repeat' first
      | (with_reducible first | assumption | intro _ | apply debugReset_keeps | apply keeps_ite | apply keeps_foldl)
      | split
      | dsimp only
      | (with_reducible first | apply keeps_mk | apply keeps_audit | apply keeps_fabric)

theorem execSecurityStatus_keeps {b : Bool} {s0 s u : State} (h : Keeps b s0 s)
    (e : execSecurityStatus s = .next u) : Keeps b s0 u := by
  unfold execSecurityStatus at e
  (injection e with e; subst e)
  all_goals
    repeat' first
      | (with_reducible first | assumption | intro _ | apply securityStatus_keeps | apply keeps_ite | apply keeps_foldl)
      | split
      | dsimp only
      | (with_reducible first | apply keeps_mk | apply keeps_audit | apply keeps_fabric)

theorem execBypass_keeps {b : Bool} {s0 s u : State} {x1 : Byte} (h : Keeps b s0 s)
    (e : execBypass x1 s = .next u) : Keeps b s0 u := by
  unfold execBypass at e
  (injection e with e; subst e)
  all_goals
    repeat' first
      | (with_reducible first | assumption | intro _ | apply bypass_keeps | apply keeps_ite | apply keeps_foldl)
      | split
      | dsimp only
      | (with_reducible first | apply keeps_mk | apply keeps_audit | apply keeps_fabric)

theorem execTestLogicReset_keeps {b : Bool} {s0 s u : State} (h : Keeps b s0 s)
    (e : execTestLogicReset s = .next u) : Keeps b s0 u := by
  unfold execTestLogicReset at e
  (injection e with e; subst e)
  all_goals
    repeat' first
      | (with_reducible first | assumption | intro _ | apply testLogicReset_keeps | apply keeps_ite | apply keeps_foldl)
      | split
      | dsimp only
      | (with_reducible first | apply keeps_mk | apply keeps_audit | apply keeps_fabric)

/-! ### Machine/Boundary.lean -/

theorem windowWrite_keeps {b : Bool} {s0 s : State} (x1 : Nat) (x2 : Word) (h : Keeps b s0 s) :
    Keeps b s0 (windowWrite x1 x2 s) := by
  unfold windowWrite
  repeat' first
    | (with_reducible first | assumption | intro _ | apply keeps_ite | apply keeps_foldl)
    | split
    | dsimp only
    | (with_reducible first | apply keeps_mk | apply keeps_audit | apply keeps_fabric)

theorem dropLines_keeps {b : Bool} {s0 s : State} (x1 : Nat → Bool) (h : Keeps b s0 s) :
    Keeps b s0 (dropLines x1 s) := by
  unfold dropLines
  repeat' first
    | (with_reducible first | assumption | intro _ | apply keeps_ite | apply keeps_foldl)
    | (with_reducible apply keeps_out)
    | split
    | dsimp only
    | (with_reducible first | apply keeps_mk | apply keeps_audit | apply keeps_fabric)

theorem winPendingClear_keeps {b : Bool} {s0 s : State} (h : Keeps b s0 s) :
    Keeps b s0 (winPendingClear s) := by
  unfold winPendingClear
  repeat' first
    | (with_reducible first | assumption | intro _ | apply dropLines_keeps | apply keeps_ite | apply keeps_foldl)
    | split
    | dsimp only
    | (with_reducible first | apply keeps_mk | apply keeps_audit | apply keeps_fabric)

theorem descStart_keeps {b : Bool} {s0 s : State} (h : Keeps b s0 s) :
    Keeps b s0 (descStart s) := by
  unfold descStart
  repeat' first
    | (with_reducible first | assumption | intro _ | apply keeps_ite | apply keeps_foldl)
    | split
    | dsimp only
    | (with_reducible first | apply keeps_mk | apply keeps_audit | apply keeps_fabric)

theorem putRtt_keeps {b : Bool} {s0 s : State} (x1 : Nat) (x2 : List Nat) (h : Keeps b s0 s) :
    Keeps b s0 (putRtt x1 x2 s) := by
  unfold putRtt
  repeat' first
    | (with_reducible first | assumption | intro _ | apply keeps_ite | apply keeps_foldl)
    | split
    | dsimp only
    | (with_reducible first | apply keeps_mk | apply keeps_audit | apply keeps_fabric)

theorem putDir_keeps {b : Bool} {s0 s : State} (x1 : Nat) (x2 : Nat) (h : Keeps b s0 s) :
    Keeps b s0 (putDir x1 x2 s) := by
  unfold putDir
  repeat' first
    | (with_reducible first | assumption | intro _ | apply keeps_ite | apply keeps_foldl)
    | split
    | dsimp only
    | (with_reducible first | apply keeps_mk | apply keeps_audit | apply keeps_fabric)

theorem applyDesc_keeps {b : Bool} {s0 s : State} (x1 : Bytes) (h : Keeps b s0 s) :
    Keeps b s0 (applyDesc x1 s) := by
  unfold applyDesc
  repeat' first
    | (with_reducible first | assumption | intro _ | apply putRtt_keeps | apply putDir_keeps | apply
                            keeps_ite | apply keeps_foldl)
    | split
    | dsimp only
    | (with_reducible first | apply keeps_mk | apply keeps_audit | apply keeps_fabric)

theorem descLoadDone_keeps {b : Bool} {s0 s : State} (x1 : Bytes) (x2 : Bool) (h : Keeps b s0 s) :
    Keeps b s0 (descLoadDone x1 x2 s) := by
  unfold descLoadDone
  repeat' first
    | (with_reducible first | assumption | intro _ | apply auditHw_keeps | apply violation_keeps |
                            apply applyDesc_keeps | apply State_setRegBit_keeps | apply keeps_ite | apply keeps_foldl)
    | split
    | dsimp only
    | (with_reducible first | apply keeps_mk | apply keeps_audit | apply keeps_fabric)

theorem apErr_keeps {b : Bool} {s0 s : State} (h : Keeps b s0 s) :
    Keeps b s0 (apErr s) := by
  unfold apErr
  repeat' first
    | (with_reducible first | assumption | intro _ | apply count_keeps | apply keeps_ite | apply keeps_foldl)
    | split
    | dsimp only
    | (with_reducible first | apply keeps_mk | apply keeps_audit | apply keeps_fabric)

theorem apDone_keeps {b : Bool} {s0 s : State} (x1 : Bool) (x2 : Byte) (x3 : Dword) (x4 : Bytes) (h : Keeps b s0 s) :
    Keeps b s0 (apDone x1 x2 x3 x4 s) := by
  unfold apDone
  repeat' first
    | (with_reducible first | assumption | intro _ | apply State_emit_keeps | apply keeps_ite | apply keeps_foldl)
    | split
    | dsimp only
    | (with_reducible first | apply keeps_mk | apply keeps_audit | apply keeps_fabric)

theorem dataAccess_keeps {b : Bool} {s0 s : State} (x1 : Byte) (x2 : Dword) (x3 : Nat) (x4 : Option Bytes) (x5 : Env)
    (x6 : Instr) (h : Keeps b s0 s) :
    Keeps b s0 (dataAccess x1 x2 x3 x4 x5 x6 s) := by
  unfold dataAccess
  repeat' first
    | (with_reducible first | assumption | intro _ | apply apDone_keeps | apply apErr_keeps | apply
                            stall_keeps | apply auditAppend_keeps | apply writePhys_keeps | apply noteUes_keeps | apply
                            noteCes_keeps | apply keeps_ite | apply keeps_foldl)
    | split
    | dsimp only
    | (with_reducible first | apply keeps_mk | apply keeps_audit | apply keeps_fabric)

theorem tableWrite_keeps {b : Bool} {s0 s : State} (x1 : Byte) (x2 : Dword) (x3 : Bytes) (x4 : Instr) (h : Keeps b s0 s) :
    Keeps b s0 (tableWrite x1 x2 x3 x4 s) := by
  unfold tableWrite
  repeat' first
    | (with_reducible first | assumption | intro _ | apply stall_keeps | apply auditAppend_keeps |
                            apply apErr_keeps | apply writePhys_keeps | apply noteTableChange_keeps | apply keeps_ite |
                            apply keeps_foldl)
    | split
    | dsimp only
    | (with_reducible first | apply keeps_mk | apply keeps_audit | apply keeps_fabric)

theorem ptRelease_keeps {b : Bool} {s0 s : State} (x1 : Nat) (h : Keeps b s0 s) :
    Keeps b s0 (ptRelease x1 s) := by
  unfold ptRelease
  repeat' first
    | (with_reducible first | assumption | intro _ | apply keeps_ite | apply keeps_foldl)
    | split
    | dsimp only
    | (with_reducible first | apply keeps_mk | apply keeps_audit | apply keeps_fabric)

theorem aclkRetarget_keeps {b : Bool} {s0 s : State} (h : Keeps b s0 s) :
    Keeps b s0 (aclkRetarget s) := by
  unfold aclkRetarget
  repeat' first
    | (with_reducible first | assumption | intro _ | apply State_setRegBit_keeps | apply keeps_ite | apply keeps_foldl)
    | split
    | dsimp only
    | (with_reducible first | apply keeps_mk | apply keeps_audit | apply keeps_fabric)

theorem glideDone_keeps {b : Bool} {s0 s : State} (h : Keeps b s0 s) :
    Keeps b s0 (glideDone s) := by
  unfold glideDone
  repeat' first
    | (with_reducible first | assumption | intro _ | apply State_setReg_keeps | apply keeps_ite | apply keeps_foldl)
    | split
    | dsimp only
    | (with_reducible first | apply keeps_mk | apply keeps_audit | apply keeps_fabric)

theorem setCeil_keeps {b : Bool} {s0 s : State} (x1 : Nat) (h : Keeps b s0 s) :
    Keeps b s0 (setCeil x1 s) := by
  unfold setCeil
  repeat' first
    | (with_reducible first | assumption | intro _ | apply aclkRetarget_keeps | apply
                            auditState_keeps | apply State_setReg_keeps | apply keeps_ite | apply keeps_foldl)
    | split
    | dsimp only
    | (with_reducible first | apply keeps_mk | apply keeps_audit | apply keeps_fabric)

theorem thermalGate_keeps {b : Bool} {s0 s : State} (x1 : Sensors) (h : Keeps b s0 s) :
    Keeps b s0 (thermalGate x1 s) := by
  unfold thermalGate
  repeat' first
    | (with_reducible first | assumption | intro _ | apply liftGate_keeps | apply auditAction_keeps
                            | apply gateDies_keeps | apply smbAlert_keeps | apply keeps_ite | apply keeps_foldl)
    | split
    | dsimp only
    | (with_reducible first | apply keeps_mk | apply keeps_audit | apply keeps_fabric)

theorem clampTick_keeps {b : Bool} {s0 s : State} (x1 : Sensors) (x2 : Bool) (h : Keeps b s0 s) :
    Keeps b s0 (clampTick x1 x2 s) := by
  unfold clampTick
  repeat' first
    | (with_reducible first | assumption | intro _ | apply smbAlert_keeps | apply setCeil_keeps |
                            apply keeps_ite | apply keeps_foldl)
    | split
    | dsimp only
    | (with_reducible first | apply keeps_mk | apply keeps_audit | apply keeps_fabric)

theorem thermalTick_keeps {b : Bool} {s0 s : State} (x1 : Sensors) (x2 : Bool) (h : Keeps b s0 s) :
    Keeps b s0 (thermalTick x1 x2 s) := by
  unfold thermalTick
  repeat' first
    | (with_reducible first | assumption | intro _ | apply thermalGate_keeps | apply clampTick_keeps
                            | apply keeps_ite | apply keeps_foldl)
    | split
    | dsimp only
    | (with_reducible first | apply keeps_mk | apply keeps_audit | apply keeps_fabric)

theorem execWinPendingClear_keeps {b : Bool} {s0 s u : State} (h : Keeps b s0 s)
    (e : execWinPendingClear s = .next u) : Keeps b s0 u := by
  unfold execWinPendingClear at e
  (injection e with e; subst e)
  all_goals
    repeat' first
      | (with_reducible first | assumption | intro _ | apply winPendingClear_keeps | apply keeps_ite | apply keeps_foldl)
      | split
      | dsimp only
      | (with_reducible first | apply keeps_mk | apply keeps_audit | apply keeps_fabric)

theorem execDescLoadDone_keeps {b : Bool} {s0 s u : State} {x1 : Bytes} {x2 : Bool} (h : Keeps b s0 s)
    (e : execDescLoadDone x1 x2 s = .next u) : Keeps b s0 u := by
  unfold execDescLoadDone at e
  (injection e with e; subst e)
  all_goals
    repeat' first
      | (with_reducible first | assumption | intro _ | apply descLoadDone_keeps | apply keeps_ite | apply keeps_foldl)
      | split
      | dsimp only
      | (with_reducible first | apply keeps_mk | apply keeps_audit | apply keeps_fabric)

theorem execMemDataApertureAccess_keeps {b : Bool} {s0 s u : State} {x1 : Byte} {x2 : Dword} {x3 : Nat} {x4 : Option
    Bytes} {x5 : Env} (h : Keeps b s0 s)
    (e : execMemDataApertureAccess x1 x2 x3 x4 x5 s = .next u) : Keeps b s0 u := by
  unfold execMemDataApertureAccess at e
  (injection e with e; subst e)
  all_goals
    repeat' first
      | (with_reducible first | assumption | intro _ | apply dataAccess_keeps | apply keeps_ite | apply keeps_foldl)
      | split
      | dsimp only
      | (with_reducible first | apply keeps_mk | apply keeps_audit | apply keeps_fabric)

theorem execMemTableApertureWrite_keeps {b : Bool} {s0 s u : State} {x1 : Byte} {x2 : Dword} {x3 : Bytes} (h : Keeps b s0 s)
    (e : execMemTableApertureWrite x1 x2 x3 s = .next u) : Keeps b s0 u := by
  unfold execMemTableApertureWrite at e
  (injection e with e; subst e)
  all_goals
    repeat' first
      | (with_reducible first | assumption | intro _ | apply tableWrite_keeps | apply keeps_ite | apply keeps_foldl)
      | split
      | dsimp only
      | (with_reducible first | apply keeps_mk | apply keeps_audit | apply keeps_fabric)

theorem execThermalClampTick_keeps {b : Bool} {s0 s u : State} {x1 : Sensors} {x2 : Bool} (h : Keeps b s0 s)
    (e : execThermalClampTick x1 x2 s = .next u) : Keeps b s0 u := by
  unfold execThermalClampTick at e
  (injection e with e; subst e)
  all_goals
    repeat' first
      | (with_reducible first | assumption | intro _ | apply thermalTick_keeps | apply keeps_ite | apply keeps_foldl)
      | split
      | dsimp only
      | (with_reducible first | apply keeps_mk | apply keeps_audit | apply keeps_fabric)

theorem execAclkGlideDone_keeps {b : Bool} {s0 s u : State} (h : Keeps b s0 s)
    (e : execAclkGlideDone s = .next u) : Keeps b s0 u := by
  unfold execAclkGlideDone at e
  (injection e with e; subst e)
  all_goals
    repeat' first
      | (with_reducible first | assumption | intro _ | apply glideDone_keeps | apply keeps_ite | apply keeps_foldl)
      | split
      | dsimp only
      | (with_reducible first | apply keeps_mk | apply keeps_audit | apply keeps_fabric)

/-! ### Machine/Margin.lean -/

theorem deferSlot_keeps {b : Bool} {s0 s : State} (h : Keeps b s0 s) :
    Keeps b s0 (deferSlot s) := by
  unfold deferSlot
  repeat' first
    | (with_reducible first | assumption | intro _ | apply count_keeps | apply keeps_ite | apply keeps_foldl)
    | split
    | dsimp only
    | (with_reducible first | apply keeps_mk | apply keeps_audit | apply keeps_fabric)

theorem endPreempt_keeps {b : Bool} {s0 s : State} (h : Keeps b s0 s) :
    Keeps b s0 (endPreempt s) := by
  unfold endPreempt
  repeat' first
    | (with_reducible first | assumption | intro _ | apply State_setRegBit_keeps | apply keeps_ite | apply keeps_foldl)
    | split
    | dsimp only
    | (with_reducible first | apply keeps_mk | apply keeps_audit | apply keeps_fabric)

theorem allDue_keeps {b : Bool} {s0 s : State} (x1 : Nat) (x2 : Byte) (h : Keeps b s0 s) :
    Keeps b s0 (allDue x1 x2 s) := by
  unfold allDue
  repeat' first
    | (with_reducible first | assumption | intro _ | apply State_setStack_keeps | apply keeps_ite |
                            apply keeps_foldl | apply keeps_ite_fst | apply keeps_foldl_fst | apply keeps_foldl_snd)
    | split
    | dsimp only
    | (with_reducible first | apply keeps_mk | apply keeps_audit | apply keeps_fabric)

theorem retrainDue_keeps {b : Bool} {s0 s : State} (x1 : Nat) (x2 : Option Nat) (h : Keeps b s0 s) :
    Keeps b s0 (retrainDue x1 x2 s) := by
  unfold retrainDue
  repeat' first
    | (with_reducible first | assumption | intro _ | apply State_setStack_keeps | apply allDue_keeps
                            | apply keeps_ite | apply keeps_foldl)
    | split
    | dsimp only
    | (with_reducible first | apply keeps_mk | apply keeps_audit | apply keeps_fabric)

theorem trainedOk_keeps {b : Bool} {s0 s : State} (x1 : Nat) (x2 : Nat) (x3 : Byte) (x4 : Int) (x5 : Int) (h : Keeps b s0 s) :
    Keeps b s0 (trainedOk x1 x2 x3 x4 x5 s) := by
  unfold trainedOk
  repeat' first
    | (with_reducible first | assumption | intro _ | apply State_setStack_keeps | apply
                            raiseDev_keeps | apply keeps_ite | apply keeps_foldl)
    | split
    | dsimp only
    | (with_reducible first | apply keeps_mk | apply keeps_audit | apply keeps_fabric)

theorem trainedBad_keeps {b : Bool} {s0 s : State} (x1 : Nat) (x2 : Nat) (h : Keeps b s0 s) :
    Keeps b s0 (trainedBad x1 x2 s) := by
  unfold trainedBad
  repeat' first
    | (with_reducible first | assumption | intro _ | apply startReset_keeps | apply
                            State_setStack_keeps | apply keeps_ite | apply keeps_foldl)
    | split
    | dsimp only
    | (with_reducible first | apply keeps_mk | apply keeps_audit | apply keeps_fabric)

theorem stackTemp_keeps {b : Bool} {s0 s : State} (x1 : Nat) (x2 : Int) (h : Keeps b s0 s) :
    Keeps b s0 (stackTemp x1 x2 s) := by
  unfold stackTemp
  repeat' first
    | (with_reducible first | assumption | intro _ | apply State_setStack_keeps | apply keeps_ite | apply keeps_foldl)
    | split
    | dsimp only
    | (with_reducible first | apply keeps_mk | apply keeps_audit | apply keeps_fabric)

theorem trainingSlot_keeps {b : Bool} {s0 s : State} (x1 : Nat) (x2 : Nat) (x3 : Bool) (x4 : Int) (x5 : Int) (h : Keeps
    b s0 s) :
    Keeps b s0 (trainingSlot x1 x2 x3 x4 x5 s) := by
  unfold trainingSlot
  repeat' first
    | (with_reducible first | assumption | intro _ | apply deferSlot_keeps | apply endPreempt_keeps
                            | apply count_keeps | apply useStack_keeps | apply stackTemp_keeps | apply trainedOk_keeps |
                            apply trainedBad_keeps | apply keeps_ite | apply keeps_foldl)
    | split
    | dsimp only
    | (with_reducible first | apply keeps_mk | apply keeps_audit | apply keeps_fabric)

theorem rowRepair_keeps {b : Bool} {s0 s : State} (x1 : Nat) (x2 : RowAddr) (x3 : Bool) (x4 : Nat) (h : Keeps b s0 s) :
    Keeps b s0 (rowRepair x1 x2 x3 x4 s) := by
  unfold rowRepair
  repeat' first
    | (with_reducible first | assumption | intro _ | apply deferSlot_keeps | apply noteLimited_keeps
                            | apply useStack_keeps | apply State_setStack_keeps | apply keeps_ite | apply keeps_foldl)
    | split
    | dsimp only
    | (with_reducible first | apply keeps_mk | apply keeps_audit | apply keeps_fabric)

theorem rowSpared_keeps {b : Bool} {s0 s : State} (x1 : Nat) (h : Keeps b s0 s) :
    Keeps b s0 (rowSpared x1 s) := by
  unfold rowSpared
  repeat' first
    | (with_reducible first | assumption | intro _ | apply State_setStack_keeps | apply
                            State_setReg_keeps | apply rowEvent_keeps | apply keeps_ite | apply keeps_foldl)
    | split
    | dsimp only
    | (with_reducible first | apply keeps_mk | apply keeps_audit | apply keeps_fabric)

theorem pageRetired_keeps {b : Bool} {s0 s : State} (x1 : Nat) (x2 : Nat) (x3 : Nat) (x4 : Nat) (x5 : Nat) (x6 : Nat) (h
    : Keeps b s0 s) :
    Keeps b s0 (pageRetired x1 x2 x3 x4 x5 x6 s) := by
  unfold pageRetired
  repeat' first
    | (with_reducible first | assumption | intro _ | apply raiseDev_keeps | apply keeps_ite | apply keeps_foldl)
    | split
    | dsimp only
    | (with_reducible first | apply keeps_mk | apply keeps_audit | apply keeps_fabric)

theorem frameRetire_keeps {b : Bool} {s0 s : State} (x1 : Nat) (x2 : BitVec 19) (x3 : Bool) (h : Keeps b s0 s) :
    Keeps b s0 (frameRetire x1 x2 x3 s) := by
  unfold frameRetire
  repeat' first
    | (with_reducible first | assumption | intro _ | apply setHealth_keeps | apply pageRetired_keeps
                            | apply State_setStack_keeps | apply keeps_ite | apply keeps_foldl)
    | split
    | dsimp only
    | (with_reducible first | apply keeps_mk | apply keeps_audit | apply keeps_fabric)

theorem rising_shift (a c b : Nat) : ∀ (l : List Host.Cell) (n : Nat), a ≤ n → (∀ e ∈ l, e.1 < a + c) → NMap.rising n l = true →
    NMap.rising (n - a + b) (l.map fun e => (e.1 - a + b, e.2)) = true
  | [], _, _, _, _ => rfl
  | x :: t, n, hn, hl, h => by
    simp only [NMap.rising, Bool.and_eq_true, decide_eq_true_eq] at h
    simp only [List.map_cons, NMap.rising, Bool.and_eq_true, decide_eq_true_eq]
    refine ⟨by omega, ?_⟩
    have := rising_shift a c b t (x.1 + 1) (by omega) (fun e he => hl e (List.mem_cons_of_mem _ he)) h.2
    rwa [show x.1 + 1 - a + b = x.1 - a + b + 1 by omega] at this

theorem rising_from (c : Nat) : ∀ (l : List Host.Cell) (n : Nat), (∀ e ∈ l, c ≤ e.1) → NMap.rising n l = true →
    NMap.rising c l = true
  | [], _, _, _ => rfl
  | x :: t, n, hl, h => by
    simp only [NMap.rising, Bool.and_eq_true, decide_eq_true_eq] at h ⊢
    exact ⟨hl x List.mem_cons_self, h.2⟩

/-- Cells moved from one range to another keep the canonical form. -/
theorem moved_wf (m : List Host.Cell) (a b c : Nat) (h : NMap.wf hbmClear m = true) :
    NMap.wf hbmClear ((m.filter fun e => decide (e.1 < b)) ++
      ((m.filter fun e => decide (a ≤ e.1) && decide (e.1 < a + c)).map fun e => (e.1 - a + b, e.2)) ++
      (m.filter fun e => decide (b + c ≤ e.1))) = true := by
  have hw := NMap.wf_iff.1 h
  rw [NMap.wf_iff]
  constructor
  · rw [List.append_assoc]
    refine NMap.rising_append (c := b) (NMap.rising_filter _ hw.1) (fun e he => by simpa using (List.mem_filter.1 he).2) ?_
      (Nat.zero_le _)
    refine NMap.rising_append (c := b + c) ?_ ?_ ?_ (Nat.le_add_right _ _)
    · have k := rising_shift a c b (m.filter fun e => decide (a ≤ e.1) && decide (e.1 < a + c)) a (Nat.le_refl _)
        (fun e he => by have := (List.mem_filter.1 he).2; simp only [Bool.and_eq_true, decide_eq_true_eq] at this; exact this.2)
        (rising_from _ _ 0 (fun e he => by
          have := (List.mem_filter.1 he).2; simp only [Bool.and_eq_true, decide_eq_true_eq] at this; exact this.1)
          (NMap.rising_filter _ hw.1))
      rwa [Nat.sub_self, Nat.zero_add] at k
    · intro e he
      obtain ⟨e', he', rfl⟩ := List.mem_map.1 he
      have := (List.mem_filter.1 he').2
      simp only [Bool.and_eq_true, decide_eq_true_eq] at this
      show e'.1 - a + b < _
      omega
    · exact rising_from _ _ 0 (fun e he => by simpa using (List.mem_filter.1 he).2) (NMap.rising_filter _ hw.1)
  · intro e he
    rcases List.mem_append.1 he with he | he
    · rcases List.mem_append.1 he with he | he
      · exact hw.2 e (List.mem_filter.1 he).1
      · obtain ⟨e', he', rfl⟩ := List.mem_map.1 he
        exact hw.2 e' (List.mem_filter.1 he').1
    · exact hw.2 e (List.mem_filter.1 he).1

theorem poisoned_wf (b : Nat) (v : Bytes) (l : List Nat) (m : List Host.Cell) (h : NMap.wf hbmClear m = true) :
    NMap.wf hbmClear (l.foldl (fun m i => NMap.setRun hbmClear m (b + 32 * i) v) m) = true := by
  induction l generalizing m with
  | nil => exact h
  | cons i l ih => exact ih _ (NMap.wf_setRun _ _ h)

/-- A frame move keeps memory in canonical form. -/
theorem copyFrame_keeps {b : Bool} {s0 s : State} (x1 : Nat) (x2 : Nat) (x3 : List Nat) (h : Keeps b s0 s) :
    Keeps b s0 (copyFrame x1 x2 x3 s) := by
  unfold copyFrame
  generalize 2 ^ 21 = w
  exact h.trans ⟨rfl, rfl, List.prefix_refl _, Nat.le_refl _, fun k => poisoned_wf _ _ _ _ (moved_wf _ _ _ _ k), id, id, id, id,
    fun _ => ⟨rfl, rfl⟩⟩

theorem frameCopyDone_keeps {b : Bool} {s0 s : State} (x1 : Nat) (x2 : List Nat) (x3 : Word) (h : Keeps b s0 s) :
    Keeps b s0 (frameCopyDone x1 x2 x3 s) := by
  unfold frameCopyDone
  repeat' first
    | (with_reducible first | assumption | intro _ | apply deferSlot_keeps | apply noteLimited_keeps
                            | apply useStack_keeps | apply noteUes_keeps | apply copyFrame_keeps | apply
                            State_setStack_keeps | apply pageRetired_keeps | apply keeps_ite | apply keeps_foldl)
    | split
    | dsimp only
    | (with_reducible first | apply keeps_mk | apply keeps_audit | apply keeps_fabric)

theorem recalibrate_keeps {b : Bool} {s0 s : State} (h : Keeps b s0 s) :
    Keeps b s0 (recalibrate s) := by
  unfold recalibrate
  repeat' first
    | (with_reducible first | assumption | intro _ | apply deferSlot_keeps | apply endPreempt_keeps
                            | apply keeps_ite | apply keeps_foldl)
    | split
    | dsimp only
    | (with_reducible first | apply keeps_mk | apply keeps_audit | apply keeps_fabric)

theorem mrgnWindow_keeps {b : Bool} {s0 s : State} (x1 x2 : Nat) (x3 : Bool) (h : Keeps b s0 s) :
    Keeps b s0 (mrgnWindow x1 x2 x3 s) := by
  unfold mrgnWindow
  repeat' first
    | (with_reducible first | assumption | intro _ | apply State_setRegBit_keeps | apply
                            State_setReg_keeps | apply keeps_ite | apply keeps_foldl)
    | split
    | dsimp only
    | (with_reducible first | apply keeps_mk | apply keeps_audit | apply keeps_fabric)

theorem deadlineExpire_keeps {b : Bool} {s0 s : State} (x1 : Nat) (x2 : Dword) (h : Keeps b s0 s) :
    Keeps b s0 (deadlineExpire x1 x2 s) := by
  unfold deadlineExpire
  repeat' first
    | (with_reducible first | assumption | intro _ | apply State_setReg64_keeps | apply count_keeps
                            | apply auditHw_keeps | apply State_setRegBit_keeps | apply keeps_ite | apply keeps_foldl)
    | split
    | dsimp only
    | (with_reducible first | apply keeps_mk | apply keeps_audit | apply keeps_fabric)

theorem execHbmRetrainDue_keeps {b : Bool} {s0 s u : State} {x1 : Fin 12} {x2 : Option (Fin 32)} (h : Keeps b s0 s)
    (e : execHbmRetrainDue x1 x2 s = .next u) : Keeps b s0 u := by
  unfold execHbmRetrainDue at e
  (injection e with e; subst e)
  all_goals
    repeat' first
      | (with_reducible first | assumption | intro _ | apply retrainDue_keeps | apply keeps_ite | apply keeps_foldl)
      | split
      | dsimp only
      | (with_reducible first | apply keeps_mk | apply keeps_audit | apply keeps_fabric)

theorem execHbmTrainingSlot_keeps {b : Bool} {s0 s u : State} {x1 : Fin 12} {x2 : Fin 32} {x3 : Bool} {x4 : Int} {x5 :
    Int} (h : Keeps b s0 s)
    (e : execHbmTrainingSlot x1 x2 x3 x4 x5 s = .next u) : Keeps b s0 u := by
  unfold execHbmTrainingSlot at e
  (injection e with e; subst e)
  all_goals
    repeat' first
      | (with_reducible first | assumption | intro _ | apply trainingSlot_keeps | apply keeps_ite | apply keeps_foldl)
      | split
      | dsimp only
      | (with_reducible first | apply keeps_mk | apply keeps_audit | apply keeps_fabric)

theorem execRowRepair_keeps {b : Bool} {s0 s u : State} {x1 : Fin 12} {x2 : RowAddr} {x3 : Bool} {x4 : Nat} (h : Keeps b s0 s)
    (e : execRowRepair x1 x2 x3 x4 s = .next u) : Keeps b s0 u := by
  unfold execRowRepair at e
  (injection e with e; subst e)
  all_goals
    repeat' first
      | (with_reducible first | assumption | intro _ | apply rowRepair_keeps | apply keeps_ite | apply keeps_foldl)
      | split
      | dsimp only
      | (with_reducible first | apply keeps_mk | apply keeps_audit | apply keeps_fabric)

theorem execRowSpared_keeps {b : Bool} {s0 s u : State} {x1 : Fin 12} (h : Keeps b s0 s)
    (e : execRowSpared x1 s = .next u) : Keeps b s0 u := by
  unfold execRowSpared at e
  (injection e with e; subst e)
  all_goals
    repeat' first
      | (with_reducible first | assumption | intro _ | apply rowSpared_keeps | apply keeps_ite | apply keeps_foldl)
      | split
      | dsimp only
      | (with_reducible first | apply keeps_mk | apply keeps_audit | apply keeps_fabric)

theorem execFrameRetire_keeps {b : Bool} {s0 s u : State} {x1 : Fin 12} {x2 : BitVec 19} {x3 : Bool} (h : Keeps b s0 s)
    (e : execFrameRetire x1 x2 x3 s = .next u) : Keeps b s0 u := by
  unfold execFrameRetire at e
  (injection e with e; subst e)
  all_goals
    repeat' first
      | (with_reducible first | assumption | intro _ | apply frameRetire_keeps | apply keeps_ite | apply keeps_foldl)
      | split
      | dsimp only
      | (with_reducible first | apply keeps_mk | apply keeps_audit | apply keeps_fabric)

theorem execFrameCopyDone_keeps {b : Bool} {s0 s u : State} {x1 : Fin 12} {x2 : List Nat} {x3 : Word} (h : Keeps b s0 s)
    (e : execFrameCopyDone x1 x2 x3 s = .next u) : Keeps b s0 u := by
  unfold execFrameCopyDone at e
  (injection e with e; subst e)
  all_goals
    repeat' first
      | (with_reducible first | assumption | intro _ | apply frameCopyDone_keeps | apply keeps_ite | apply keeps_foldl)
      | split
      | dsimp only
      | (with_reducible first | apply keeps_mk | apply keeps_audit | apply keeps_fabric)

theorem execRecalibration_keeps {b : Bool} {s0 s u : State} (h : Keeps b s0 s)
    (e : execRecalibration s = .next u) : Keeps b s0 u := by
  unfold execRecalibration at e
  (injection e with e; subst e)
  all_goals
    repeat' first
      | (with_reducible first | assumption | intro _ | apply recalibrate_keeps | apply keeps_ite | apply keeps_foldl)
      | split
      | dsimp only
      | (with_reducible first | apply keeps_mk | apply keeps_audit | apply keeps_fabric)

theorem execMrgnWindow_keeps {b : Bool} {s0 s u : State} {x1 x2 : BitVec 16} {x3 : Bool} (h : Keeps b s0 s)
    (e : execMrgnWindow x1 x2 x3 s = .next u) : Keeps b s0 u := by
  unfold execMrgnWindow at e
  (injection e with e; subst e)
  all_goals
    repeat' first
      | (with_reducible first | assumption | intro _ | apply mrgnWindow_keeps | apply keeps_ite | apply keeps_foldl)
      | split
      | dsimp only
      | (with_reducible first | apply keeps_mk | apply keeps_audit | apply keeps_fabric)

theorem execMrgnDeadlineExpire_keeps {b : Bool} {s0 s u : State} {x1 : BitVec 8} {x2 : Dword} (h : Keeps b s0 s)
    (e : execMrgnDeadlineExpire x1 x2 s = .next u) : Keeps b s0 u := by
  unfold execMrgnDeadlineExpire at e
  (injection e with e; subst e)
  all_goals
    repeat' first
      | (with_reducible first | assumption | intro _ | apply deadlineExpire_keeps | apply keeps_ite | apply keeps_foldl)
      | split
      | dsimp only
      | (with_reducible first | apply keeps_mk | apply keeps_audit | apply keeps_fabric)

theorem execHbmHot_keeps {b : Bool} {s0 s u : State} {x1 : Fin 12} {x2 : Int} (h : Keeps b s0 s)
    (e : execHbmHot x1 x2 s = .next u) : Keeps b s0 u := by
  unfold execHbmHot at e
  (injection e with e; subst e)
  all_goals
    repeat' first
      | (with_reducible first | assumption | intro _ | apply stackTemp_keeps | apply keeps_ite | apply keeps_foldl)
      | split
      | dsimp only
      | (with_reducible first | apply keeps_mk | apply keeps_audit | apply keeps_fabric)

/-! ### Machine/PipCheck.lean -/

theorem pipTile_keeps {b : Bool} {s0 s : State} (x1 : Env) (x2 : Who) (x3 : TileLoc) (x4 : Nat) (h : Keeps b s0 s) :
    Keeps b s0 (pipTile x1 x2 x3 x4 s).1 := by
  unfold pipTile
  repeat' first
    | (with_reducible first | assumption | intro _ | apply loadTile_keeps | apply
                            raiseChecksum_keeps | apply keeps_ite | apply keeps_foldl | apply keeps_ite_fst | apply
                            keeps_foldl_fst | apply keeps_foldl_snd)
    | (with_reducible refine keeps_fst (by with_reducible assumption) ?_)
    | split
    | dsimp only
    | (with_reducible first | apply keeps_mk | apply keeps_audit | apply keeps_fabric)

theorem pipLoad_keeps {b : Bool} {s0 s : State} (x1 : Env) (x2 : Who) (x3 : TileLoc) (x4 : List Nat) (h : Keeps b s0 s) :
    Keeps b s0 (pipLoad x1 x2 x3 x4 s).1 := by
  unfold pipLoad
  repeat' first
    | (with_reducible first | assumption | intro _ | apply pipTile_keeps | apply keeps_ite | apply
                            keeps_foldl | apply keeps_ite_fst | apply keeps_foldl_fst | apply keeps_foldl_snd)
    | (with_reducible refine keeps_fst (by with_reducible assumption) ?_)
    | split
    | dsimp only
    | (with_reducible first | apply keeps_mk | apply keeps_audit | apply keeps_fabric)

theorem pipSide_keeps {b : Bool} {s0 s : State} (x1 : Env) (x2 : Task) (x3 : Nat) (x4 : Nat) (x5 : Nat) (x6 : Nat) (x7 :
    Nat) (h : Keeps b s0 s) :
    Keeps b s0 (pipSide x1 x2 x3 x4 x5 x6 x7 s).1 := by
  unfold pipSide
  repeat' first
    | (with_reducible first | assumption | intro _ | apply opTensor_keeps | apply pipLoad_keeps |
                            apply keeps_ite | apply keeps_foldl | apply keeps_ite_fst | apply keeps_foldl_fst | apply
                            keeps_foldl_snd | apply runKeeps_pure | apply runKeeps_getS | apply runKeeps_bind | apply
                            runKeeps_ite | apply runKeeps_foldlM | apply runAt_set | apply runAt_set_end | apply runAt_ite)
    | (with_reducible refine keeps_fst (by with_reducible assumption) ?_)
    | (with_reducible refine keeps_run ?_ (by with_reducible assumption) ?_)
    | split
    | dsimp only
    | (with_reducible first | apply keeps_mk | apply keeps_audit | apply keeps_fabric)
    | (with_reducible apply runAt_of)

theorem pipRun_keeps {b : Bool} {s0 s : State} (x1 : Env) (x2 : Task) (x3 : Nat) (h : Keeps b s0 s) :
    Keeps b s0 (pipRun x1 x2 x3 s).1 := by
  unfold pipRun
  repeat' first
    | (with_reducible first | assumption | intro _ | apply opTensor_keeps | apply pipLoad_keeps |
                            apply pipSide_keeps | apply keeps_ite | apply keeps_foldl | apply keeps_ite_fst | apply
                            keeps_foldl_fst | apply keeps_foldl_snd | apply runKeeps_pure | apply runKeeps_getS | apply
                            runKeeps_bind | apply runKeeps_ite | apply runKeeps_foldlM | apply runAt_set | apply
                            runAt_set_end | apply runAt_ite)
    | (with_reducible refine keeps_fst (by with_reducible assumption) ?_)
    | (with_reducible refine keeps_run ?_ (by with_reducible assumption) ?_)
    | split
    | dsimp only
    | (with_reducible first | apply keeps_mk | apply keeps_audit | apply keeps_fabric)
    | (with_reducible apply runAt_of)

theorem raisePip_keeps {b : Bool} {s0 s : State} (x1 : Task) (x2 : Byte) (x3 : Nat) (x4 : Nat) (x5 : PipRun) (h : Keeps
    b s0 s) :
    Keeps b s0 (raisePip x1 x2 x3 x4 x5 s) := by
  unfold raisePip
  repeat' first
    | (with_reducible first | assumption | intro _ | apply raiseWho_keeps | apply keeps_ite | apply keeps_foldl)
    | split
    | dsimp only
    | (with_reducible first | apply keeps_mk | apply keeps_audit | apply keeps_fabric)

theorem pipNote_keeps {b : Bool} {s0 s : State} (x1 : Task) (x2 : PipRun) (h : Keeps b s0 s) :
    Keeps b s0 (pipNote x1 x2 s).1 := by
  unfold pipNote
  repeat' first
    | (with_reducible first | assumption | intro _ | apply setNumcStatus_keeps | apply
                            editTile_keeps | apply raisePip_keeps | apply keeps_ite | apply keeps_foldl | apply
                            keeps_ite_fst | apply keeps_foldl_fst | apply keeps_foldl_snd | apply runKeeps_pure | apply
                            runKeeps_getS | apply runKeeps_bind | apply runKeeps_ite | apply runKeeps_foldlM | apply
                            runAt_set | apply runAt_set_end | apply runAt_ite)
    | (with_reducible refine keeps_run ?_ (by with_reducible assumption) ?_)
    | split
    | dsimp only
    | (with_reducible first | apply keeps_mk | apply keeps_audit | apply keeps_fabric)
    | (with_reducible apply runAt_of)

theorem pipEnd_keeps {b : Bool} {s0 s : State} (x1 : Task) (x2 : PipRun) (h : Keeps b s0 s) :
    Keeps b s0 (pipEnd x1 x2 s) := by
  unfold pipEnd
  repeat' first
    | (with_reducible first | assumption | intro _ | apply pipRecord_keeps | apply count_keeps |
                            apply State_setCtx_keeps | apply pipNote_keeps | apply raisePip_keeps | apply
                            startDecision_keeps | apply keeps_ite | apply keeps_foldl)
    | (with_reducible refine keeps_fst (by with_reducible assumption) ?_)
    | split
    | dsimp only
    | (with_reducible first | apply keeps_mk | apply keeps_audit | apply keeps_fabric)

theorem pipStart_keeps {b : Bool} {s0 s : State} (x1 : Task) (x2 : Nat) (x3 : Nat) (x4 : Nat) (x5 : Env) (h : Keeps b s0 s) :
    Keeps b s0 (pipStart x1 x2 x3 x4 x5 s) := by
  unfold pipStart
  repeat' first
    | (with_reducible first | assumption | intro _ | apply skipShort_keeps | apply pipRun_keeps |
                            apply usePip_keeps | apply State_setTask_keeps | apply State_setCtx_keeps | apply keeps_ite |
                            apply keeps_foldl)
    | (with_reducible refine keeps_fst (by with_reducible assumption) ?_)
    | split
    | dsimp only
    | (with_reducible first | apply keeps_mk | apply keeps_audit | apply keeps_fabric)

theorem pipCheck_keeps {b : Bool} {s0 s : State} (x1 : TaskRef) (x2 : Nat) (x3 : Nat) (x4 : Nat) (x5 : Env) (h : Keeps b s0 s) :
    Keeps b s0 (pipCheck x1 x2 x3 x4 x5 s) := by
  unfold pipCheck
  repeat' first
    | (with_reducible first | assumption | intro _ | apply pipEnd_keeps | apply pipStart_keeps |
                            apply keeps_ite | apply keeps_foldl)
    | split
    | dsimp only
    | (with_reducible first | apply keeps_mk | apply keeps_audit | apply keeps_fabric)

theorem execPipCheck_keeps {b : Bool} {s0 s u : State} {x1 : TaskRef} {x2 : Nat} {x3 : Fin 512} {x4 : CheckRun}
    (h : Keeps b s0 s)
    (e : execPipCheck x1 x2 x3 x4 s = .next u) : Keeps b s0 u := by
  unfold execPipCheck at e
  (injection e with e; subst e)
  all_goals
    repeat' first
      | (with_reducible first | assumption | intro _ | apply pipCheck_keeps | apply keeps_ite | apply keeps_foldl)
      | split
      | dsimp only
      | (with_reducible first | apply keeps_mk | apply keeps_audit | apply keeps_fabric)

end Sys2Proof.Machine
end

