-- ==== Sys2Proof/Laws/KeepsRegs.lean ====
section
/-! SUPPORT. What functions keep (Laws/Keeps.lean): register accesses and their commands, the layer repeat, the idle step. -/

set_option linter.unusedVariables false

namespace Sys2Proof.Machine

-- One theorem after the other: checked all at once they take more threads than a checker has memory for.
set_option Elab.async false

/-! ### Machine/RegHooks.lean -/

theorem ctxrRefuse_keeps {b : Bool} {s0 s : State} (x1 : RegWr) (h : Keeps b s0 s) :
    Keeps b s0 (ctxrRefuse x1 s) := by
  unfold ctxrRefuse
  repeat' first
    | (with_reducible first | assumption | intro _ | apply State_setCtx_keeps | apply keeps_ite | apply keeps_foldl)
    | split
    | dsimp only
    | (with_reducible first | apply keeps_mk | apply keeps_audit | apply keeps_fabric)

theorem ctxRelease_keeps {s0 s : State} (x1 : Nat) (h : Keeps false s0 s) :
    Keeps false s0 (ctxRelease x1 s) := by
  unfold ctxRelease
  repeat' first
    | (with_reducible first | assumption | intro _ | apply setCtxState_keeps | apply
                            keepImports_keeps | apply recount_keeps | apply State_setCtx_keeps | apply keeps_ite | apply
                            keeps_foldl)
    | split
    | dsimp only
    | (with_reducible first | apply keeps_mk | apply keeps_audit | apply keeps_fabric)

theorem ctxCtrl_keeps {s0 s : State} (x1 : RegWr) (h : Keeps false s0 s) :
    Keeps false s0 (ctxCtrl x1 s) := by
  unfold ctxCtrl
  repeat' first
    | (with_reducible first | assumption | intro _ | apply setCtxState_keeps | apply
                            ctxRelease_keeps | apply killCtx_keeps | apply keeps_ite | apply keeps_foldl)
    | split
    | dsimp only
    | (with_reducible first | apply keeps_mk | apply keeps_audit | apply keeps_fabric)

theorem ctxrHook_keeps {s0 s : State} (x1 : RegWr) (x2 : State) (h : Keeps false s0 s) :
    Keeps false s0 (ctxrHook x1 x2 s) := by
  unfold ctxrHook
  repeat' first
    | (with_reducible first | assumption | intro _ | apply ctxCtrl_keeps | apply State_setCtx_keeps
                            | apply enableRing_keeps | apply disableRing_keeps | apply State_setRing_keeps | apply keeps_ite
                            | apply keeps_foldl)
    | split
    | dsimp only
    | (with_reducible first | apply keeps_mk | apply keeps_audit | apply keeps_fabric)

theorem startDrain_keeps {s0 s : State} (hd : s.dev = .active) (h : Keeps false s0 s) : Keeps false s0 (startDrain s) := by
  unfold startDrain
  refine setDev_after (s := s) (.inl (by rw [hd]; rfl)) ?_ h
  have r := Keeps.refl true s
  repeat' first
    | (with_reducible first | assumption | intro _ | apply State_setCtx_keeps | apply keeps_foldl)
    | (with_reducible apply keeps_mk)

theorem gctlCtrl_keeps {s0 s : State} (x1 : RegWr) (h : Keeps false s0 s) : Keeps false s0 (gctlCtrl x1 s) := by
  unfold gctlCtrl
  split
  next hd => exact startDrain_keeps hd.2 h
  next =>
    split
    next hd => exact recount_keeps (setDev_after (s := s) (.inl (by rw [hd.2]; rfl)) (keeps_mk (Keeps.refl true s)) h)
    next => exact h

theorem gctlEnable_keeps {b : Bool} {s0 s : State} (x1 : State) (h : Keeps b s0 s) :
    Keeps b s0 (gctlEnable x1 s) := by
  unfold gctlEnable
  repeat' first
    | (with_reducible first | assumption | intro _ | apply refreshPorts_keeps | apply
                            dropLines_keeps | apply flushAll_keeps | apply keeps_ite | apply keeps_foldl)
    | split
    | dsimp only
    | (with_reducible first | apply keeps_mk | apply keeps_audit | apply keeps_fabric)

theorem gctlHook_keeps {s0 s : State} (x1 : RegWr) (x2 : State) (h : Keeps false s0 s) :
    Keeps false s0 (gctlHook x1 x2 s) := by
  unfold gctlHook
  repeat' first
    | (with_reducible first | assumption | intro _ | apply gctlEnable_keeps | apply
                            State_setPath_keeps | apply aclkRetarget_keeps | apply gctlCtrl_keeps | apply keeps_ite | apply
                            keeps_foldl)
    | split
    | dsimp only
    | (with_reducible first | apply keeps_mk | apply keeps_audit | apply keeps_fabric)

theorem rstcCtrl_keeps {s0 s : State} (x1 : RegWr) (x2 : State) (h : Keeps false s0 s) :
    Keeps false s0 (rstcCtrl x1 x2 s) := by
  unfold rstcCtrl
  repeat' first
    | (with_reducible first | assumption | intro _ | apply State_setRegBit_keeps | apply
                            mgmtRestart_keeps | apply resetDevice_keeps | apply keeps_ite | apply keeps_foldl)
    | split
    | dsimp only
    | (with_reducible first | apply keeps_mk | apply keeps_audit | apply keeps_fabric)

theorem rstcHook_keeps {s0 s : State} (x1 : RegWr) (x2 : State) (h : Keeps false s0 s) :
    Keeps false s0 (rstcHook x1 x2 s) := by
  unfold rstcHook
  repeat' first
    | (with_reducible first | assumption | intro _ | apply rstcCtrl_keeps | apply startReset_keeps |
                            apply keeps_ite | apply keeps_foldl)
    | split
    | dsimp only
    | (with_reducible first | apply keeps_mk | apply keeps_audit | apply keeps_fabric)

theorem secuRefuse_keeps {b : Bool} {s0 s : State} (x1 : RegWr) (h : Keeps b s0 s) :
    Keeps b s0 (secuRefuse x1 s) := by
  unfold secuRefuse
  repeat' first
    | (with_reducible first | assumption | intro _ | apply loadRefuse_keeps | apply
                            activateRefuse_keeps | apply keeps_ite | apply keeps_foldl)
    | split
    | dsimp only
    | (with_reducible first | apply keeps_mk | apply keeps_audit | apply keeps_fabric)

theorem secuHook_keeps {b : Bool} {s0 s : State} (x1 : RegWr) (h : Keeps b s0 s) :
    Keeps b s0 (secuHook x1 s) := by
  unfold secuHook
  repeat' first
    | (with_reducible first | assumption | intro _ | apply secuLoad_keeps | apply
                            confirmUpdate_keeps | apply activate_keeps | apply quoteGo_keeps | apply dbgEnable_keeps | apply
                            dbgEnd_keeps | apply keeps_ite | apply keeps_foldl)
    | split
    | dsimp only
    | (with_reducible first | apply keeps_mk | apply keeps_audit | apply keeps_fabric)

theorem bndyRefuse_keeps {b : Bool} {s0 s : State} (x1 : RegWr) (h : Keeps b s0 s) :
    Keeps b s0 (bndyRefuse x1 s) := by
  unfold bndyRefuse
  repeat' first
    | (with_reducible first | assumption | intro _ | apply keeps_ite | apply keeps_foldl)
    | split
    | dsimp only
    | (with_reducible first | apply keeps_mk | apply keeps_audit | apply keeps_fabric)

theorem bndyHook_keeps {b : Bool} {s0 s : State} (x1 : RegWr) (x2 : State) (h : Keeps b s0 s) :
    Keeps b s0 (bndyHook x1 x2 s) := by
  unfold bndyHook
  repeat' first
    | (with_reducible first | assumption | intro _ | apply descStart_keeps | apply ptRelease_keeps |
                            apply State_setPort_keeps | apply State_setRegBit_keeps | apply windowWrite_keeps | apply
                            keeps_ite | apply keeps_foldl)
    | split
    | dsimp only
    | (with_reducible first | apply keeps_mk | apply keeps_audit | apply keeps_fabric)

theorem probeStart_keeps {b : Bool} {s0 s : State} (h : Keeps b s0 s) :
    Keeps b s0 (probeStart s) := by
  unfold probeStart
  repeat' first
    | (with_reducible first | assumption | intro _ | apply State_setReg_keeps | apply keeps_ite |
                            apply keeps_foldl | apply keeps_ite_fst | apply keeps_foldl_fst | apply keeps_foldl_snd)
    | split
    | dsimp only
    | (with_reducible first | apply keeps_mk | apply keeps_audit | apply keeps_fabric)

theorem probeDone_keeps {b : Bool} {s0 s : State} (h : Keeps b s0 s) :
    Keeps b s0 (probeDone s) := by
  unfold probeDone
  repeat' first
    | (with_reducible first | assumption | intro _ | apply State_setReg_keeps | apply keeps_ite | apply keeps_foldl)
    | split
    | dsimp only
    | (with_reducible first | apply keeps_mk | apply keeps_audit | apply keeps_fabric)

theorem comtCtrl_keeps {b : Bool} {s0 s : State} (x1 : RegWr) (h : Keeps b s0 s) :
    Keeps b s0 (comtCtrl x1 s) := by
  unfold comtCtrl
  repeat' first
    | (with_reducible first | assumption | intro _ | apply comtAbort_keeps | apply resolveStep_keeps
                            | apply keeps_ite | apply keeps_foldl)
    | split
    | dsimp only
    | (with_reducible first | apply keeps_mk | apply keeps_audit | apply keeps_fabric)

theorem comtDevHook_keeps {s0 s : State} (x1 : RegWr) (h : Keeps false s0 s) :
    Keeps false s0 (comtDevHook x1 s) := by
  unfold comtDevHook
  repeat' first
    | (with_reducible first | assumption | intro _ | apply twinPair_keeps | apply twinUnpair_keeps |
                            apply startDetach_keeps | apply cadRefresh_keeps | apply cadInterrupt_keeps | apply keeps_ite |
                            apply keeps_foldl)
    | split
    | dsimp only
    | (with_reducible first | apply keeps_mk | apply keeps_audit | apply keeps_fabric)

theorem clearCounters_keeps {b : Bool} {s0 s : State} (x1 : List Nat) (h : Keeps b s0 s) :
    Keeps b s0 (clearCounters x1 s) := by
  unfold clearCounters
  repeat' first
    | (with_reducible first | assumption | intro _ | apply countClear_keeps | apply keeps_ite |
                            apply keeps_foldl | apply keeps_ite_fst | apply keeps_foldl_fst | apply keeps_foldl_snd)
    | split
    | dsimp only
    | (with_reducible first | apply keeps_mk | apply keeps_audit | apply keeps_fabric)

theorem clusCtrl_keeps {b : Bool} {s0 s : State} (x1 : RegWr) (h : Keeps b s0 s) :
    Keeps b s0 (clusCtrl x1 s) := by
  unfold clusCtrl
  repeat' first
    | (with_reducible first | assumption | intro _ | apply clearCounters_keeps | apply
                            State_setClus_keeps | apply startReset_keeps | apply keeps_ite | apply keeps_foldl)
    | split
    | dsimp only
    | (with_reducible first | apply keeps_mk | apply keeps_audit | apply keeps_fabric)

theorem hbmcCtrl_keeps {b : Bool} {s0 s : State} (x1 : RegWr) (h : Keeps b s0 s) :
    Keeps b s0 (hbmcCtrl x1 s) := by
  unfold hbmcCtrl
  repeat' first
    | (with_reducible first | assumption | intro _ | apply clearCounters_keeps | apply allDue_keeps
                            | apply startReset_keeps | apply keeps_ite | apply keeps_foldl)
    | split
    | dsimp only
    | (with_reducible first | apply keeps_mk | apply keeps_audit | apply keeps_fabric)

theorem portCtrl_keeps {b : Bool} {s0 s : State} (x1 : RegWr) (h : Keeps b s0 s) :
    Keeps b s0 (portCtrl x1 s) := by
  unfold portCtrl
  repeat' first
    | (with_reducible first | assumption | intro _ | apply State_setReg_keeps | apply
                            clearCounters_keeps | apply refreshPort_keeps | apply startReset_keeps | apply keeps_ite | apply
                            keeps_foldl | apply keeps_ite_fst | apply keeps_foldl_fst | apply keeps_foldl_snd)
    | split
    | dsimp only
    | (with_reducible first | apply keeps_mk | apply keeps_audit | apply keeps_fabric)

theorem trplCtrl_keeps {b : Bool} {s0 s : State} (x1 : RegWr) (h : Keeps b s0 s) :
    Keeps b s0 (trplCtrl x1 s) := by
  unfold trplCtrl
  repeat' first
    | (with_reducible first | assumption | intro _ | apply clearCounters_keeps | apply
                            startRetrain_keeps | apply keeps_ite | apply keeps_foldl)
    | split
    | dsimp only
    | (with_reducible first | apply keeps_mk | apply keeps_audit | apply keeps_fabric)

theorem fabrRefuse_keeps {b : Bool} {s0 s : State} (x1 : RegWr) (h : Keeps b s0 s) :
    Keeps b s0 (fabrRefuse x1 s) := by
  unfold fabrRefuse
  repeat' first
    | (with_reducible first | assumption | intro _ | apply State_setRegBit_keeps | apply keeps_ite | apply keeps_foldl)
    | split
    | dsimp only
    | (with_reducible first | apply keeps_mk | apply keeps_audit | apply keeps_fabric)

theorem putFabrData_keeps {b : Bool} {s0 s : State} (x1 : Nat) (x2 : Nat) (x3 : Nat) (h : Keeps b s0 s) :
    Keeps b s0 (putFabrData x1 x2 x3 s) := by
  unfold putFabrData
  repeat' first
    | (with_reducible first | assumption | intro _ | apply State_setReg_keeps | apply keeps_ite |
                            apply keeps_foldl | apply keeps_ite_fst | apply keeps_foldl_fst | apply keeps_foldl_snd)
    | split
    | dsimp only
    | (with_reducible first | apply keeps_mk | apply keeps_audit | apply keeps_fabric)

theorem tblCmd_keeps {b : Bool} {s0 s : State} (x1 : RegWr) (h : Keeps b s0 s) :
    Keeps b s0 (tblCmd x1 s) := by
  unfold tblCmd
  repeat' first
    | (with_reducible first | assumption | intro _ | apply State_setRegBit_keeps | apply
                            auditAppend_keeps | apply putFabrData_keeps | apply keeps_ite | apply keeps_foldl)
    | split
    | dsimp only
    | (with_reducible first | apply keeps_mk | apply keeps_audit | apply keeps_fabric)

theorem excCmd_keeps {b : Bool} {s0 s : State} (x1 : RegWr) (h : Keeps b s0 s) :
    Keeps b s0 (excCmd x1 s) := by
  unfold excCmd
  repeat' first
    | (with_reducible first | assumption | intro _ | apply auditAppend_keeps | apply
                            State_setRegBit_keeps | apply putFabrData_keeps | apply keeps_ite | apply keeps_foldl)
    | split
    | dsimp only
    | (with_reducible first | apply keeps_mk | apply keeps_audit | apply keeps_fabric)

theorem fabrHook_keeps {b : Bool} {s0 s : State} (x1 : RegWr) (h : Keeps b s0 s) :
    Keeps b s0 (fabrHook x1 s) := by
  unfold fabrHook
  repeat' first
    | (with_reducible first | assumption | intro _ | apply tblCmd_keeps | apply setEpoch_keeps |
                            apply excCmd_keeps | apply keeps_ite | apply keeps_foldl)
    | split
    | dsimp only
    | (with_reducible first | apply keeps_mk | apply keeps_audit | apply keeps_fabric)

theorem hookRefuse_keeps {b : Bool} {s0 s : State} (x1 : RegWr) (h : Keeps b s0 s) :
    Keeps b s0 (hookRefuse x1 s) := by
  unfold hookRefuse
  repeat' first
    | (with_reducible first | assumption | intro _ | apply secuRefuse_keeps | apply bndyRefuse_keeps
                            | apply ctxrRefuse_keeps | apply fabrRefuse_keeps | apply keeps_ite | apply keeps_foldl)
    | split
    | dsimp only
    | (with_reducible first | apply keeps_mk | apply keeps_audit | apply keeps_fabric)

theorem hookRun_keeps {s0 s : State} (x1 : RegWr) (x2 : State) (h : Keeps false s0 s) :
    Keeps false s0 (hookRun x1 x2 s) := by
  unfold hookRun
  repeat' first
    | (with_reducible first | assumption | intro _ | apply gctlHook_keeps | apply rstcHook_keeps |
                            apply auditRead_keeps | apply secuHook_keeps | apply bndyHook_keeps | apply ctxrHook_keeps |
                            apply probeStart_keeps | apply comtCtrl_keeps | apply comtDevHook_keeps | apply clusCtrl_keeps |
                            apply hbmcCtrl_keeps | apply fabrHook_keeps | apply portCtrl_keeps | apply trplCtrl_keeps |
                            apply countClear_keeps | apply keeps_ite | apply keeps_foldl)
    | split
    | dsimp only
    | (with_reducible first | apply keeps_mk | apply keeps_audit | apply keeps_fabric)

/-! ### Machine/RegWrite.lean -/

theorem storeWord_keeps {b : Bool} {s0 s : State} (x1 : RegLoc) (x2 : Nat) (x3 : Word) (h : Keeps b s0 s) :
    Keeps b s0 (storeWord x1 x2 x3 s) := by
  unfold storeWord
  repeat' first
    | (with_reducible first | assumption | intro _ | apply State_setReg_keeps | apply keeps_ite | apply keeps_foldl)
    | split
    | dsimp only
    | (with_reducible first | apply keeps_mk | apply keeps_audit | apply keeps_fabric)

theorem storeWr_keeps {b : Bool} {s0 s : State} (x1 : RegWr) (h : Keeps b s0 s) :
    Keeps b s0 (storeWr x1 s) := by
  unfold storeWr
  repeat' first
    | (with_reducible first | assumption | intro _ | apply storeWord_keeps | apply keeps_ite | apply keeps_foldl)
    | split
    | dsimp only
    | (with_reducible first | apply keeps_mk | apply keeps_audit | apply keeps_fabric)

theorem countVerdict_keeps {b : Bool} {s0 s : State} (x1 : Path) (x2 : Verdict) (h : Keeps b s0 s) :
    Keeps b s0 (countVerdict x1 x2 s) := by
  unfold countVerdict
  repeat' first
    | (with_reducible first | assumption | intro _ | apply count_keeps | apply keeps_ite | apply keeps_foldl)
    | split
    | dsimp only
    | (with_reducible first | apply keeps_mk | apply keeps_audit | apply keeps_fabric)

theorem appendOrigin_keeps {b : Bool} {s0 s : State} (x1 : Nat) (x2 : AuditEntry) (h : Keeps b s0 s) :
    Keeps b s0 (appendOrigin x1 x2 s) := by
  unfold appendOrigin
  repeat' first
    | (with_reducible first | assumption | intro _ | apply flushReserve_keeps | apply auditHw_keeps
                            | apply auditAppend_keeps | apply keeps_ite | apply keeps_foldl)
    | split
    | dsimp only
    | (with_reducible first | apply keeps_mk | apply keeps_audit | apply keeps_fabric)

theorem landWrite_keeps {s0 s : State} (x1 : RegWr) (x2 : Verdict) (h : Keeps false s0 s) :
    Keeps false s0 (landWrite x1 x2 s) := by
  unfold landWrite
  repeat' first
    | (with_reducible first | assumption | intro _ | apply appendOrigin_keeps | apply
                            hookRefuse_keeps | apply hookRun_keeps | apply storeWr_keeps | apply keeps_ite | apply
                            keeps_foldl)
    | split
    | dsimp only
    | (with_reducible first | apply keeps_mk | apply keeps_audit | apply keeps_fabric)

theorem discardStaged_keeps {b : Bool} {s0 s : State} (x1 : Path) (x2 : Nat) (h : Keeps b s0 s) :
    Keeps b s0 (discardStaged x1 x2 s) := by
  unfold discardStaged
  repeat' first
    | (with_reducible first | assumption | intro _ | apply countVerdict_keeps | apply
                            appendOrigin_keeps | apply State_setPath_keeps | apply keeps_ite | apply keeps_foldl)
    | split
    | dsimp only
    | (with_reducible first | apply keeps_mk | apply keeps_audit | apply keeps_fabric)

theorem stageLo_keeps {b : Bool} {s0 s : State} (x1 : Path) (x2 : Nat) (x3 : Word) (h : Keeps b s0 s) :
    Keeps b s0 (stageLo x1 x2 x3 s) := by
  unfold stageLo
  repeat' first
    | (with_reducible first | assumption | intro _ | apply State_setPath_keeps | apply keeps_ite | apply keeps_foldl)
    | split
    | dsimp only
    | (with_reducible first | apply keeps_mk | apply keeps_audit | apply keeps_fabric)

theorem unstage_keeps {b : Bool} {s0 s : State} (x1 : Path) (h : Keeps b s0 s) :
    Keeps b s0 (unstage x1 s) := by
  unfold unstage
  repeat' first
    | (with_reducible first | assumption | intro _ | apply State_setPath_keeps | apply keeps_ite | apply keeps_foldl)
    | split
    | dsimp only
    | (with_reducible first | apply keeps_mk | apply keeps_audit | apply keeps_fabric)

theorem landNowhere_keeps {b : Bool} {s0 s : State} (x1 : Path) (x2 : Nat) (x3 : Word) (h : Keeps b s0 s) :
    Keeps b s0 (landNowhere x1 x2 x3 s) := by
  unfold landNowhere
  repeat' first
    | (with_reducible first | assumption | intro _ | apply countVerdict_keeps | apply
                            appendOrigin_keeps | apply keeps_ite | apply keeps_foldl)
    | split
    | dsimp only
    | (with_reducible first | apply keeps_mk | apply keeps_audit | apply keeps_fabric)

theorem writeOne_keeps {s0 s : State} (x1 : Path) (x2 : Nat) (x3 : Word) (x4 : Option SignedObj) (h : Keeps false s0 s) :
    Keeps false s0 (writeOne x1 x2 x3 x4 s) := by
  unfold writeOne
  repeat' first
    | (with_reducible first | assumption | intro _ | apply landNowhere_keeps | apply stageLo_keeps |
                            apply landWrite_keeps | apply countVerdict_keeps | apply unstage_keeps | apply keeps_ite | apply
                            keeps_foldl)
    | split
    | dsimp only
    | (with_reducible first | apply keeps_mk | apply keeps_audit | apply keeps_fabric)

theorem memberEntry_keeps {b : Bool} {s0 s : State} (x1 : RegWr) (x2 : Byte) (h : Keeps b s0 s) :
    Keeps b s0 (memberEntry x1 x2 s) := by
  unfold memberEntry
  repeat' first
    | (with_reducible first | assumption | intro _ | apply appendOrigin_keeps | apply keeps_ite | apply keeps_foldl)
    | split
    | dsimp only
    | (with_reducible first | apply keeps_mk | apply keeps_audit | apply keeps_fabric)

theorem writeAlias_keeps {s0 s : State} (x1 : Path) (x2 : AliasAt) (x3 : Nat) (x4 : Word) (h : Keeps false s0 s) :
    Keeps false s0 (writeAlias x1 x2 x3 x4 s) := by
  unfold writeAlias
  repeat' first
    | (with_reducible first | assumption | intro _ | apply landNowhere_keeps | apply stageLo_keeps |
                            apply unstage_keeps | apply memberEntry_keeps | apply countVerdict_keeps | apply landWrite_keeps
                            | apply keeps_ite | apply keeps_foldl | apply keeps_ite_fst | apply keeps_foldl_fst | apply
                            keeps_foldl_snd)
    | split
    | dsimp only
    | (with_reducible first | apply keeps_mk | apply keeps_audit | apply keeps_fabric)

theorem waitBehind_keeps {b : Bool} {s0 s : State} (x1 : Instr) (h : Keeps b s0 s) :
    Keeps b s0 (waitBehind x1 s) := by
  unfold waitBehind
  repeat' first
    | (with_reducible first | assumption | intro _ | apply keeps_ite | apply keeps_foldl)
    | split
    | dsimp only
    | (with_reducible first | apply keeps_mk | apply keeps_audit | apply keeps_fabric)

theorem regWrite_keeps {s0 s : State} (x1 : Path) (x2 : Nat) (x3 : Word) (x4 : Option SignedObj) (x5 : Instr) (h : Keeps
    false s0 s) :
    Keeps false s0 (regWrite x1 x2 x3 x4 x5 s) := by
  unfold regWrite
  repeat' first
    | (with_reducible first | assumption | intro _ | apply apErr_keeps | apply waitBehind_keeps |
                            apply stall_keeps | apply discardStaged_keeps | apply writeAlias_keeps | apply writeOne_keeps |
                            apply keeps_ite | apply keeps_foldl)
    | split
    | dsimp only
    | (with_reducible first | apply keeps_mk | apply keeps_audit | apply keeps_fabric)

theorem writeReg_keeps {s0 s : State} (x1 : Path) (x2 : Nat) (x3 : Word) (h : Keeps false s0 s) :
    Keeps false s0 (writeReg x1 x2 x3 s) := by
  unfold writeReg
  repeat' first
    | (with_reducible first | assumption | intro _ | apply regWrite_keeps | apply keeps_ite | apply keeps_foldl)
    | split
    | dsimp only
    | (with_reducible first | apply keeps_mk | apply keeps_audit | apply keeps_fabric)

theorem readOn_keeps {b : Bool} {s0 s : State} (x1 : Path) (x2 : Nat) (h : Keeps b s0 s) :
    Keeps b s0 (readOn x1 x2 s).1 := by
  unfold readOn
  repeat' first
    | (with_reducible first | assumption | intro _ | apply readValue_keeps | apply keeps_ite | apply
                            keeps_foldl | apply keeps_ite_fst | apply keeps_foldl_fst | apply keeps_foldl_snd)
    | (with_reducible refine keeps_fst (by with_reducible assumption) ?_)
    | split
    | dsimp only
    | (with_reducible first | apply keeps_mk | apply keeps_audit | apply keeps_fabric)

theorem readReg_keeps {b : Bool} {s0 s : State} (x1 : Path) (x2 : Nat) (x3 : Instr) (h : Keeps b s0 s) :
    Keeps b s0 (readReg x1 x2 x3 s) := by
  unfold readReg
  repeat' first
    | (with_reducible first | assumption | intro _ | apply waitBehind_keeps | apply readOn_keeps |
                            apply State_emit_keeps | apply apErr_keeps | apply keeps_ite | apply keeps_foldl)
    | (with_reducible refine keeps_fst (by with_reducible assumption) ?_)
    | split
    | dsimp only
    | (with_reducible first | apply keeps_mk | apply keeps_audit | apply keeps_fabric)

theorem apertureAccess_keeps {s0 s : State} (x1 : Byte) (x2 : Dword) (x3 : Nat) (x4 : Option Bytes) (h : Keeps false s0 s) :
    Keeps false s0 (apertureAccess x1 x2 x3 x4 s) := by
  unfold apertureAccess
  repeat' first
    | (with_reducible first | assumption | intro _ | apply apDone_keeps | apply apErr_keeps | apply
                            regWrite_keeps | apply readReg_keeps | apply keeps_ite | apply keeps_foldl)
    | split
    | dsimp only
    | (with_reducible first | apply keeps_mk | apply keeps_audit | apply keeps_fabric)

theorem jtagAccess_keeps {s0 s : State} (x1 : BitVec 72) (h : Keeps false s0 s) :
    Keeps false s0 (jtagAccess x1 s) := by
  unfold jtagAccess
  repeat' first
    | (with_reducible first | assumption | intro _ | apply State_emit_keeps | apply regWrite_keeps |
                            apply waitBehind_keeps | apply readOn_keeps | apply keeps_ite | apply keeps_foldl)
    | (with_reducible refine keeps_fst (by with_reducible assumption) ?_)
    | split
    | dsimp only
    | (with_reducible first | apply keeps_mk | apply keeps_audit | apply keeps_fabric)

theorem regAccess_keeps {s0 s : State} (x1 : BitVec 72) (h : Keeps false s0 s) :
    Keeps false s0 (regAccess x1 s) := by
  unfold regAccess
  repeat' first
    | (with_reducible first | assumption | intro _ | apply refuseIr_keeps | apply loadIr_keeps |
                            apply jtagAccess_keeps | apply keeps_ite | apply keeps_foldl)
    | split
    | dsimp only
    | (with_reducible first | apply keeps_mk | apply keeps_audit | apply keeps_fabric)

theorem replay_keeps {s0 s : State} (x1 : Instr) (h : Keeps false s0 s) : Keeps false s0 (replay x1 s) := by
  cases x1 with
  | registerWrite p a v => exact regWrite_keeps _ _ _ _ _ h
  | aliasRead p a => exact readReg_keeps _ _ _ h
  | dbgEnable p t => exact regWrite_keeps _ _ _ _ _ h
  | regApertureAccess req addr len write => exact apertureAccess_keeps _ _ _ _ h
  | memDataApertureAccess req addr len write ue => exact dataAccess_keeps _ _ _ _ _ _ h
  | memTableApertureWrite req addr data => exact tableWrite_keeps _ _ _ _ h
  | regAccess dr => exact regAccess_keeps _ h
  | coreDebug => exact coreDebug_keeps h
  | debugReset b => exact debugReset_keeps _ h
  | _ => exact h

theorem replayStalled_keeps {s0 s : State} (h : Keeps false s0 s) :
    Keeps false s0 (replayStalled s) := by
  unfold replayStalled
  repeat' first
    | (with_reducible first | assumption | intro _ | apply waitBehind_keeps | apply replay_keeps |
                            apply keeps_ite | apply keeps_foldl | apply keeps_ite_fst | apply keeps_foldl_fst | apply
                            keeps_foldl_snd)
    | split
    | dsimp only
    | (with_reducible first | apply keeps_mk | apply keeps_audit | apply keeps_fabric)

theorem slotFreed_keeps {s0 s : State} (h : Keeps false s0 s) :
    Keeps false s0 (slotFreed s) := by
  unfold slotFreed
  repeat' first
    | (with_reducible first | assumption | intro _ | apply flushReserve_keeps | apply
                            replayStalled_keeps | apply keeps_ite | apply keeps_foldl)
    | split
    | dsimp only
    | (with_reducible first | apply keeps_mk | apply keeps_audit | apply keeps_fabric)

theorem restartDone_keeps {s0 s : State} (h : Keeps false s0 s) :
    Keeps false s0 (restartDone s) := by
  unfold restartDone
  repeat' first
    | (with_reducible first | assumption | intro _ | apply replayStalled_keeps | apply
                            mgmtRestarted_keeps | apply keeps_ite | apply keeps_foldl)
    | split
    | dsimp only
    | (with_reducible first | apply keeps_mk | apply keeps_audit | apply keeps_fabric)

/-! ### Machine/RegCommands.lean -/

theorem execCtxValidWrite_keeps {s0 s u : State} {x1 : Path} {x2 : Fin 64} {x3 : Word} (h : Keeps false s0 s)
    (e : execCtxValidWrite x1 x2 x3 s = .next u) : Keeps false s0 u := by
  unfold execCtxValidWrite at e
  (injection e with e; subst e)
  all_goals
    repeat' first
      | (with_reducible first | assumption | intro _ | apply writeReg_keeps | apply keeps_ite | apply keeps_foldl)
      | split
      | dsimp only
      | (with_reducible first | apply keeps_mk | apply keeps_audit | apply keeps_fabric)

theorem execCtxQuiesceBit_keeps {s0 s u : State} {x1 : Path} {x2 : Fin 64} (h : Keeps false s0 s)
    (e : execCtxQuiesceBit x1 x2 s = .next u) : Keeps false s0 u := by
  unfold execCtxQuiesceBit at e
  (injection e with e; subst e)
  all_goals
    repeat' first
      | (with_reducible first | assumption | intro _ | apply writeReg_keeps | apply keeps_ite | apply keeps_foldl)
      | split
      | dsimp only
      | (with_reducible first | apply keeps_mk | apply keeps_audit | apply keeps_fabric)

theorem execCtxKillBit_keeps {s0 s u : State} {x1 : Path} {x2 : Fin 64} (h : Keeps false s0 s)
    (e : execCtxKillBit x1 x2 s = .next u) : Keeps false s0 u := by
  unfold execCtxKillBit at e
  (injection e with e; subst e)
  all_goals
    repeat' first
      | (with_reducible first | assumption | intro _ | apply writeReg_keeps | apply keeps_ite | apply keeps_foldl)
      | split
      | dsimp only
      | (with_reducible first | apply keeps_mk | apply keeps_audit | apply keeps_fabric)

theorem execCtxHtabSizeWrite_keeps {s0 s u : State} {x1 : Path} {x2 : Fin 64} {x3 : Word} (h : Keeps false s0 s)
    (e : execCtxHtabSizeWrite x1 x2 x3 s = .next u) : Keeps false s0 u := by
  unfold execCtxHtabSizeWrite at e
  (injection e with e; subst e)
  all_goals
    repeat' first
      | (with_reducible first | assumption | intro _ | apply writeReg_keeps | apply keeps_ite | apply keeps_foldl)
      | split
      | dsimp only
      | (with_reducible first | apply keeps_mk | apply keeps_audit | apply keeps_fabric)

theorem execRingCtrlWrite_keeps {s0 s u : State} {x1 : Path} {x2 : Fin 64} {x3 : Fin 8} {x4 : Word} (h : Keeps false s0 s)
    (e : execRingCtrlWrite x1 x2 x3 x4 s = .next u) : Keeps false s0 u := by
  unfold execRingCtrlWrite at e
  (injection e with e; subst e)
  all_goals
    repeat' first
      | (with_reducible first | assumption | intro _ | apply writeReg_keeps | apply keeps_ite | apply keeps_foldl)
      | split
      | dsimp only
      | (with_reducible first | apply keeps_mk | apply keeps_audit | apply keeps_fabric)

theorem execRstcWdtKick_keeps {s0 s u : State} {x1 : Path} {x2 : Word} (h : Keeps false s0 s)
    (e : execRstcWdtKick x1 x2 s = .next u) : Keeps false s0 u := by
  unfold execRstcWdtKick at e
  (injection e with e; subst e)
  all_goals
    repeat' first
      | (with_reducible first | assumption | intro _ | apply writeReg_keeps | apply keeps_ite | apply keeps_foldl)
      | split
      | dsimp only
      | (with_reducible first | apply keeps_mk | apply keeps_audit | apply keeps_fabric)

theorem execWdtEn_keeps {s0 s u : State} {x1 : Path} (h : Keeps false s0 s)
    (e : execWdtEn x1 s = .next u) : Keeps false s0 u := by
  unfold execWdtEn at e
  (injection e with e; subst e)
  all_goals
    repeat' first
      | (with_reducible first | assumption | intro _ | apply writeReg_keeps | apply keeps_ite | apply keeps_foldl)
      | split
      | dsimp only
      | (with_reducible first | apply keeps_mk | apply keeps_audit | apply keeps_fabric)

theorem execSwr_keeps {s0 s u : State} {x1 : Path} {x2 : Word} (h : Keeps false s0 s)
    (e : execSwr x1 x2 s = .next u) : Keeps false s0 u := by
  unfold execSwr at e
  (injection e with e; subst e)
  all_goals
    repeat' first
      | (with_reducible first | assumption | intro _ | apply writeReg_keeps | apply keeps_ite | apply keeps_foldl)
      | split
      | dsimp only
      | (with_reducible first | apply keeps_mk | apply keeps_audit | apply keeps_fabric)

theorem execRstcDomainReq_keeps {s0 s u : State} {x1 : Path} {x2 : Word} (h : Keeps false s0 s)
    (e : execRstcDomainReq x1 x2 s = .next u) : Keeps false s0 u := by
  unfold execRstcDomainReq at e
  (injection e with e; subst e)
  all_goals
    repeat' first
      | (with_reducible first | assumption | intro _ | apply writeReg_keeps | apply keeps_ite | apply keeps_foldl)
      | split
      | dsimp only
      | (with_reducible first | apply keeps_mk | apply keeps_audit | apply keeps_fabric)

theorem execClusSrst_keeps {s0 s u : State} {x1 : Path} {x2 : Fin 512} (h : Keeps false s0 s)
    (e : execClusSrst x1 x2 s = .next u) : Keeps false s0 u := by
  unfold execClusSrst at e
  (injection e with e; subst e)
  all_goals
    repeat' first
      | (with_reducible first | assumption | intro _ | apply writeReg_keeps | apply keeps_ite | apply keeps_foldl)
      | split
      | dsimp only
      | (with_reducible first | apply keeps_mk | apply keeps_audit | apply keeps_fabric)

theorem execClusHold_keeps {s0 s u : State} {x1 : Path} {x2 : Fin 512} {x3 : Bool} (h : Keeps false s0 s)
    (e : execClusHold x1 x2 x3 s = .next u) : Keeps false s0 u := by
  unfold execClusHold at e
  (repeat' split at e) <;> (injection e with e; subst e)
  all_goals
    repeat' first
      | (with_reducible first | assumption | intro _ | apply writeReg_keeps | apply keeps_ite | apply keeps_foldl)
      | split
      | dsimp only
      | (with_reducible first | apply keeps_mk | apply keeps_audit | apply keeps_fabric)

theorem execClusClrCnt_keeps {s0 s u : State} {x1 : Path} {x2 : Fin 512} (h : Keeps false s0 s)
    (e : execClusClrCnt x1 x2 s = .next u) : Keeps false s0 u := by
  unfold execClusClrCnt at e
  (injection e with e; subst e)
  all_goals
    repeat' first
      | (with_reducible first | assumption | intro _ | apply writeReg_keeps | apply keeps_ite | apply keeps_foldl)
      | split
      | dsimp only
      | (with_reducible first | apply keeps_mk | apply keeps_audit | apply keeps_fabric)

theorem execInjectArm_keeps {s0 s u : State} {x1 : Path} {x2 : Fin 512} (h : Keeps false s0 s)
    (e : execInjectArm x1 x2 s = .next u) : Keeps false s0 u := by
  unfold execInjectArm at e
  (injection e with e; subst e)
  all_goals
    repeat' first
      | (with_reducible first | assumption | intro _ | apply writeReg_keeps | apply keeps_ite | apply keeps_foldl)
      | split
      | dsimp only
      | (with_reducible first | apply keeps_mk | apply keeps_audit | apply keeps_fabric)

theorem execClusInjectWrite_keeps {s0 s u : State} {x1 : Path} {x2 : Fin 512} {x3 : Word} (h : Keeps false s0 s)
    (e : execClusInjectWrite x1 x2 x3 s = .next u) : Keeps false s0 u := by
  unfold execClusInjectWrite at e
  (injection e with e; subst e)
  all_goals
    repeat' first
      | (with_reducible first | assumption | intro _ | apply writeReg_keeps | apply keeps_ite | apply keeps_foldl)
      | split
      | dsimp only
      | (with_reducible first | apply keeps_mk | apply keeps_audit | apply keeps_fabric)

theorem execAliasWrite_keeps {s0 s u : State} {x1 : Path} {x2 : BitVec 27} {x3 : Word} (h : Keeps false s0 s)
    (e : execAliasWrite x1 x2 x3 s = .next u) : Keeps false s0 u := by
  unfold execAliasWrite at e
  (injection e with e; subst e)
  all_goals
    repeat' first
      | (with_reducible first | assumption | intro _ | apply writeReg_keeps | apply keeps_ite | apply keeps_foldl)
      | split
      | dsimp only
      | (with_reducible first | apply keeps_mk | apply keeps_audit | apply keeps_fabric)

theorem execAliasRead_keeps {b : Bool} {s0 s u : State} {x1 : Path} {x2 : BitVec 27} (h : Keeps b s0 s)
    (e : execAliasRead x1 x2 s = .next u) : Keeps b s0 u := by
  unfold execAliasRead at e
  (injection e with e; subst e)
  all_goals
    repeat' first
      | (with_reducible first | assumption | intro _ | apply readReg_keeps | apply keeps_ite | apply keeps_foldl)
      | split
      | dsimp only
      | (with_reducible first | apply keeps_mk | apply keeps_audit | apply keeps_fabric)

theorem execHbmcSrst_keeps {s0 s u : State} {x1 : Path} {x2 : Fin 12} (h : Keeps false s0 s)
    (e : execHbmcSrst x1 x2 s = .next u) : Keeps false s0 u := by
  unfold execHbmcSrst at e
  (injection e with e; subst e)
  all_goals
    repeat' first
      | (with_reducible first | assumption | intro _ | apply writeReg_keeps | apply keeps_ite | apply keeps_foldl)
      | split
      | dsimp only
      | (with_reducible first | apply keeps_mk | apply keeps_audit | apply keeps_fabric)

theorem execRetrainNow_keeps {s0 s u : State} {x1 : Path} {x2 : Fin 12} (h : Keeps false s0 s)
    (e : execRetrainNow x1 x2 s = .next u) : Keeps false s0 u := by
  unfold execRetrainNow at e
  (injection e with e; subst e)
  all_goals
    repeat' first
      | (with_reducible first | assumption | intro _ | apply writeReg_keeps | apply keeps_ite | apply keeps_foldl)
      | split
      | dsimp only
      | (with_reducible first | apply keeps_mk | apply keeps_audit | apply keeps_fabric)

theorem execHbmcClrCnt_keeps {s0 s u : State} {x1 : Path} {x2 : Fin 12} (h : Keeps false s0 s)
    (e : execHbmcClrCnt x1 x2 s = .next u) : Keeps false s0 u := by
  unfold execHbmcClrCnt at e
  (injection e with e; subst e)
  all_goals
    repeat' first
      | (with_reducible first | assumption | intro _ | apply writeReg_keeps | apply keeps_ite | apply keeps_foldl)
      | split
      | dsimp only
      | (with_reducible first | apply keeps_mk | apply keeps_audit | apply keeps_fabric)

theorem execMrgnShareWrite_keeps {s0 s u : State} {x1 : Path} {x2 : BitVec 27} {x3 : Word} (h : Keeps false s0 s)
    (e : execMrgnShareWrite x1 x2 x3 s = .next u) : Keeps false s0 u := by
  unfold execMrgnShareWrite at e
  (injection e with e; subst e)
  all_goals
    repeat' first
      | (with_reducible first | assumption | intro _ | apply writeReg_keeps | apply keeps_ite | apply keeps_foldl)
      | split
      | dsimp only
      | (with_reducible first | apply keeps_mk | apply keeps_audit | apply keeps_fabric)

theorem execPortEn_keeps {s0 s u : State} {x1 : Path} {x2 : Fin 9} {x3 : Bool} (h : Keeps false s0 s)
    (e : execPortEn x1 x2 x3 s = .next u) : Keeps false s0 u := by
  unfold execPortEn at e
  (repeat' split at e) <;> (injection e with e; subst e)
  all_goals
    repeat' first
      | (with_reducible first | assumption | intro _ | apply writeReg_keeps | apply keeps_ite | apply keeps_foldl)
      | split
      | dsimp only
      | (with_reducible first | apply keeps_mk | apply keeps_audit | apply keeps_fabric)

theorem execPortSrst_keeps {s0 s u : State} {x1 : Path} {x2 : Fin 9} (h : Keeps false s0 s)
    (e : execPortSrst x1 x2 s = .next u) : Keeps false s0 u := by
  unfold execPortSrst at e
  (injection e with e; subst e)
  all_goals
    repeat' first
      | (with_reducible first | assumption | intro _ | apply writeReg_keeps | apply keeps_ite | apply keeps_foldl)
      | split
      | dsimp only
      | (with_reducible first | apply keeps_mk | apply keeps_audit | apply keeps_fabric)

theorem execPortClrCnt_keeps {s0 s u : State} {x1 : Path} {x2 : Fin 9} (h : Keeps false s0 s)
    (e : execPortClrCnt x1 x2 s = .next u) : Keeps false s0 u := by
  unfold execPortClrCnt at e
  (injection e with e; subst e)
  all_goals
    repeat' first
      | (with_reducible first | assumption | intro _ | apply writeReg_keeps | apply keeps_ite | apply keeps_foldl)
      | split
      | dsimp only
      | (with_reducible first | apply keeps_mk | apply keeps_audit | apply keeps_fabric)

theorem execFabrEpochWrite_keeps {s0 s u : State} {x1 : Path} {x2 : Word} (h : Keeps false s0 s)
    (e : execFabrEpochWrite x1 x2 s = .next u) : Keeps false s0 u := by
  unfold execFabrEpochWrite at e
  (injection e with e; subst e)
  all_goals
    repeat' first
      | (with_reducible first | assumption | intro _ | apply writeReg_keeps | apply keeps_ite | apply keeps_foldl)
      | split
      | dsimp only
      | (with_reducible first | apply keeps_mk | apply keeps_audit | apply keeps_fabric)

theorem execFabrExcRead_keeps {s0 s u : State} {x1 : Path} (h : Keeps false s0 s)
    (e : execFabrExcRead x1 s = .next u) : Keeps false s0 u := by
  unfold execFabrExcRead at e
  (injection e with e; subst e)
  all_goals
    repeat' first
      | (with_reducible first | assumption | intro _ | apply writeReg_keeps | apply keeps_ite | apply keeps_foldl)
      | split
      | dsimp only
      | (with_reducible first | apply keeps_mk | apply keeps_audit | apply keeps_fabric)

theorem execFabrExcWrite_keeps {s0 s u : State} {x1 : Path} (h : Keeps false s0 s)
    (e : execFabrExcWrite x1 s = .next u) : Keeps false s0 u := by
  unfold execFabrExcWrite at e
  (injection e with e; subst e)
  all_goals
    repeat' first
      | (with_reducible first | assumption | intro _ | apply writeReg_keeps | apply keeps_ite | apply keeps_foldl)
      | split
      | dsimp only
      | (with_reducible first | apply keeps_mk | apply keeps_audit | apply keeps_fabric)

theorem execFabrTblRead_keeps {s0 s u : State} {x1 : Path} (h : Keeps false s0 s)
    (e : execFabrTblRead x1 s = .next u) : Keeps false s0 u := by
  unfold execFabrTblRead at e
  (injection e with e; subst e)
  all_goals
    repeat' first
      | (with_reducible first | assumption | intro _ | apply writeReg_keeps | apply keeps_ite | apply keeps_foldl)
      | split
      | dsimp only
      | (with_reducible first | apply keeps_mk | apply keeps_audit | apply keeps_fabric)

theorem execFabrTblWrite_keeps {s0 s u : State} {x1 : Path} (h : Keeps false s0 s)
    (e : execFabrTblWrite x1 s = .next u) : Keeps false s0 u := by
  unfold execFabrTblWrite at e
  (injection e with e; subst e)
  all_goals
    repeat' first
      | (with_reducible first | assumption | intro _ | apply writeReg_keeps | apply keeps_ite | apply keeps_foldl)
      | split
      | dsimp only
      | (with_reducible first | apply keeps_mk | apply keeps_audit | apply keeps_fabric)

theorem execFabrCtxRankWrite_keeps {s0 s u : State} {x1 : Path} {x2 : Fin 64} {x3 : Word} (h : Keeps false s0 s)
    (e : execFabrCtxRankWrite x1 x2 x3 s = .next u) : Keeps false s0 u := by
  unfold execFabrCtxRankWrite at e
  (injection e with e; subst e)
  all_goals
    repeat' first
      | (with_reducible first | assumption | intro _ | apply writeReg_keeps | apply keeps_ite | apply keeps_foldl)
      | split
      | dsimp only
      | (with_reducible first | apply keeps_mk | apply keeps_audit | apply keeps_fabric)

theorem execFabrTimeStep_keeps {s0 s u : State} {x1 : Path} {x2 : Word} (h : Keeps false s0 s)
    (e : execFabrTimeStep x1 x2 s = .next u) : Keeps false s0 u := by
  unfold execFabrTimeStep at e
  (injection e with e; subst e)
  all_goals
    repeat' first
      | (with_reducible first | assumption | intro _ | apply writeReg_keeps | apply keeps_ite | apply keeps_foldl)
      | split
      | dsimp only
      | (with_reducible first | apply keeps_mk | apply keeps_audit | apply keeps_fabric)

theorem execBndyWinCtrlWrite_keeps {s0 s u : State} {x1 : Path} {x2 : Fin 64} {x3 : Word} (h : Keeps false s0 s)
    (e : execBndyWinCtrlWrite x1 x2 x3 s = .next u) : Keeps false s0 u := by
  unfold execBndyWinCtrlWrite at e
  (injection e with e; subst e)
  all_goals
    repeat' first
      | (with_reducible first | assumption | intro _ | apply writeReg_keeps | apply keeps_ite | apply keeps_foldl)
      | split
      | dsimp only
      | (with_reducible first | apply keeps_mk | apply keeps_audit | apply keeps_fabric)

theorem execDescLoad_keeps {s0 s u : State} {x1 : Path} (h : Keeps false s0 s)
    (e : execDescLoad x1 s = .next u) : Keeps false s0 u := by
  unfold execDescLoad at e
  (injection e with e; subst e)
  all_goals
    repeat' first
      | (with_reducible first | assumption | intro _ | apply writeReg_keeps | apply keeps_ite | apply keeps_foldl)
      | split
      | dsimp only
      | (with_reducible first | apply keeps_mk | apply keeps_audit | apply keeps_fabric)

theorem execBndyPtRelease_keeps {s0 s u : State} {x1 : Path} {x2 : Word} (h : Keeps false s0 s)
    (e : execBndyPtRelease x1 x2 s = .next u) : Keeps false s0 u := by
  unfold execBndyPtRelease at e
  (injection e with e; subst e)
  all_goals
    repeat' first
      | (with_reducible first | assumption | intro _ | apply writeReg_keeps | apply keeps_ite | apply keeps_foldl)
      | split
      | dsimp only
      | (with_reducible first | apply keeps_mk | apply keeps_audit | apply keeps_fabric)

theorem execBndyFwpLock_keeps {s0 s u : State} {x1 : Path} {x2 : Fin 8} {x3 : Word} (h : Keeps false s0 s)
    (e : execBndyFwpLock x1 x2 x3 s = .next u) : Keeps false s0 u := by
  unfold execBndyFwpLock at e
  (injection e with e; subst e)
  all_goals
    repeat' first
      | (with_reducible first | assumption | intro _ | apply writeReg_keeps | apply keeps_ite | apply keeps_foldl)
      | split
      | dsimp only
      | (with_reducible first | apply keeps_mk | apply keeps_audit | apply keeps_fabric)

theorem execTrplRetrain_keeps {s0 s u : State} {x1 : Path} (h : Keeps false s0 s)
    (e : execTrplRetrain x1 s = .next u) : Keeps false s0 u := by
  unfold execTrplRetrain at e
  (injection e with e; subst e)
  all_goals
    repeat' first
      | (with_reducible first | assumption | intro _ | apply writeReg_keeps | apply keeps_ite | apply keeps_foldl)
      | split
      | dsimp only
      | (with_reducible first | apply keeps_mk | apply keeps_audit | apply keeps_fabric)

theorem execTrplClrCnt_keeps {s0 s u : State} {x1 : Path} (h : Keeps false s0 s)
    (e : execTrplClrCnt x1 s = .next u) : Keeps false s0 u := by
  unfold execTrplClrCnt at e
  (injection e with e; subst e)
  all_goals
    repeat' first
      | (with_reducible first | assumption | intro _ | apply writeReg_keeps | apply keeps_ite | apply keeps_foldl)
      | split
      | dsimp only
      | (with_reducible first | apply keeps_mk | apply keeps_audit | apply keeps_fabric)

theorem execComtAbort_keeps {s0 s u : State} {x1 : Path} {x2 : Fin 64} (h : Keeps false s0 s)
    (e : execComtAbort x1 x2 s = .next u) : Keeps false s0 u := by
  unfold execComtAbort at e
  (injection e with e; subst e)
  all_goals
    repeat' first
      | (with_reducible first | assumption | intro _ | apply writeReg_keeps | apply keeps_ite | apply keeps_foldl)
      | split
      | dsimp only
      | (with_reducible first | apply keeps_mk | apply keeps_audit | apply keeps_fabric)

theorem execResolveCommit_keeps {s0 s u : State} {x1 : Path} {x2 : Fin 64} (h : Keeps false s0 s)
    (e : execResolveCommit x1 x2 s = .next u) : Keeps false s0 u := by
  unfold execResolveCommit at e
  (injection e with e; subst e)
  all_goals
    repeat' first
      | (with_reducible first | assumption | intro _ | apply writeReg_keeps | apply keeps_ite | apply keeps_foldl)
      | split
      | dsimp only
      | (with_reducible first | apply keeps_mk | apply keeps_audit | apply keeps_fabric)

theorem execResolveAbort_keeps {s0 s u : State} {x1 : Path} {x2 : Fin 64} (h : Keeps false s0 s)
    (e : execResolveAbort x1 x2 s = .next u) : Keeps false s0 u := by
  unfold execResolveAbort at e
  (injection e with e; subst e)
  all_goals
    repeat' first
      | (with_reducible first | assumption | intro _ | apply writeReg_keeps | apply keeps_ite | apply keeps_foldl)
      | split
      | dsimp only
      | (with_reducible first | apply keeps_mk | apply keeps_audit | apply keeps_fabric)

theorem execCadInterruptReport_keeps {s0 s u : State} {x1 : Path} {x2 : Word} (h : Keeps false s0 s)
    (e : execCadInterruptReport x1 x2 s = .next u) : Keeps false s0 u := by
  unfold execCadInterruptReport at e
  (injection e with e; subst e)
  all_goals
    repeat' first
      | (with_reducible first | assumption | intro _ | apply writeReg_keeps | apply keeps_ite | apply keeps_foldl)
      | split
      | dsimp only
      | (with_reducible first | apply keeps_mk | apply keeps_audit | apply keeps_fabric)

theorem execTwinPair_keeps {s0 s u : State} {x1 : Path} (h : Keeps false s0 s)
    (e : execTwinPair x1 s = .next u) : Keeps false s0 u := by
  unfold execTwinPair at e
  (injection e with e; subst e)
  all_goals
    repeat' first
      | (with_reducible first | assumption | intro _ | apply writeReg_keeps | apply keeps_ite | apply keeps_foldl)
      | split
      | dsimp only
      | (with_reducible first | apply keeps_mk | apply keeps_audit | apply keeps_fabric)

theorem execTwinUnpair_keeps {s0 s u : State} {x1 : Path} (h : Keeps false s0 s)
    (e : execTwinUnpair x1 s = .next u) : Keeps false s0 u := by
  unfold execTwinUnpair at e
  (injection e with e; subst e)
  all_goals
    repeat' first
      | (with_reducible first | assumption | intro _ | apply writeReg_keeps | apply keeps_ite | apply keeps_foldl)
      | split
      | dsimp only
      | (with_reducible first | apply keeps_mk | apply keeps_audit | apply keeps_fabric)

theorem execDetach_keeps {s0 s u : State} {x1 : Path} (h : Keeps false s0 s)
    (e : execDetach x1 s = .next u) : Keeps false s0 u := by
  unfold execDetach at e
  (injection e with e; subst e)
  all_goals
    repeat' first
      | (with_reducible first | assumption | intro _ | apply writeReg_keeps | apply keeps_ite | apply keeps_foldl)
      | split
      | dsimp only
      | (with_reducible first | apply keeps_mk | apply keeps_audit | apply keeps_fabric)

theorem execGctlDrain_keeps {s0 s u : State} {x1 : Path} (h : Keeps false s0 s)
    (e : execGctlDrain x1 s = .next u) : Keeps false s0 u := by
  unfold execGctlDrain at e
  (injection e with e; subst e)
  all_goals
    repeat' first
      | (with_reducible first | assumption | intro _ | apply writeReg_keeps | apply keeps_ite | apply keeps_foldl)
      | split
      | dsimp only
      | (with_reducible first | apply keeps_mk | apply keeps_audit | apply keeps_fabric)

theorem execGctlUnfence_keeps {s0 s u : State} {x1 : Path} (h : Keeps false s0 s)
    (e : execGctlUnfence x1 s = .next u) : Keeps false s0 u := by
  unfold execGctlUnfence at e
  (injection e with e; subst e)
  all_goals
    repeat' first
      | (with_reducible first | assumption | intro _ | apply writeReg_keeps | apply keeps_ite | apply keeps_foldl)
      | split
      | dsimp only
      | (with_reducible first | apply keeps_mk | apply keeps_audit | apply keeps_fabric)

theorem execClusEn_keeps {s0 s u : State} {x1 : Path} {x2 : Bool} (h : Keeps false s0 s)
    (e : execClusEn x1 x2 s = .next u) : Keeps false s0 u := by
  unfold execClusEn at e
  (injection e with e; subst e)
  all_goals
    repeat' first
      | (with_reducible first | assumption | intro _ | apply writeReg_keeps | apply keeps_ite | apply keeps_foldl)
      | split
      | dsimp only
      | (with_reducible first | apply keeps_mk | apply keeps_audit | apply keeps_fabric)

theorem execFabrEn_keeps {s0 s u : State} {x1 : Path} {x2 : Bool} (h : Keeps false s0 s)
    (e : execFabrEn x1 x2 s = .next u) : Keeps false s0 u := by
  unfold execFabrEn at e
  (injection e with e; subst e)
  all_goals
    repeat' first
      | (with_reducible first | assumption | intro _ | apply writeReg_keeps | apply keeps_ite | apply keeps_foldl)
      | split
      | dsimp only
      | (with_reducible first | apply keeps_mk | apply keeps_audit | apply keeps_fabric)

theorem execUplinkEn_keeps {s0 s u : State} {x1 : Path} {x2 : Bool} (h : Keeps false s0 s)
    (e : execUplinkEn x1 x2 s = .next u) : Keeps false s0 u := by
  unfold execUplinkEn at e
  (injection e with e; subst e)
  all_goals
    repeat' first
      | (with_reducible first | assumption | intro _ | apply writeReg_keeps | apply keeps_ite | apply keeps_foldl)
      | split
      | dsimp only
      | (with_reducible first | apply keeps_mk | apply keeps_audit | apply keeps_fabric)

theorem execTwinEn_keeps {s0 s u : State} {x1 : Path} {x2 : Bool} (h : Keeps false s0 s)
    (e : execTwinEn x1 x2 s = .next u) : Keeps false s0 u := by
  unfold execTwinEn at e
  (injection e with e; subst e)
  all_goals
    repeat' first
      | (with_reducible first | assumption | intro _ | apply writeReg_keeps | apply keeps_ite | apply keeps_foldl)
      | split
      | dsimp only
      | (with_reducible first | apply keeps_mk | apply keeps_audit | apply keeps_fabric)

theorem execTrplEn_keeps {s0 s u : State} {x1 : Path} {x2 : Bool} (h : Keeps false s0 s)
    (e : execTrplEn x1 x2 s = .next u) : Keeps false s0 u := by
  unfold execTrplEn at e
  (injection e with e; subst e)
  all_goals
    repeat' first
      | (with_reducible first | assumption | intro _ | apply writeReg_keeps | apply keeps_ite | apply keeps_foldl)
      | split
      | dsimp only
      | (with_reducible first | apply keeps_mk | apply keeps_audit | apply keeps_fabric)

theorem execGengEn_keeps {s0 s u : State} {x1 : Path} {x2 : Bool} (h : Keeps false s0 s)
    (e : execGengEn x1 x2 s = .next u) : Keeps false s0 u := by
  unfold execGengEn at e
  (injection e with e; subst e)
  all_goals
    repeat' first
      | (with_reducible first | assumption | intro _ | apply writeReg_keeps | apply keeps_ite | apply keeps_foldl)
      | split
      | dsimp only
      | (with_reducible first | apply keeps_mk | apply keeps_audit | apply keeps_fabric)

theorem execGctlAclkWrite_keeps {s0 s u : State} {x1 : Path} {x2 : Word} (h : Keeps false s0 s)
    (e : execGctlAclkWrite x1 x2 s = .next u) : Keeps false s0 u := by
  unfold execGctlAclkWrite at e
  (injection e with e; subst e)
  all_goals
    repeat' first
      | (with_reducible first | assumption | intro _ | apply writeReg_keeps | apply keeps_ite | apply keeps_foldl)
      | split
      | dsimp only
      | (with_reducible first | apply keeps_mk | apply keeps_audit | apply keeps_fabric)

theorem execNumcLedgerRdWrite_keeps {s0 s u : State} {x1 : Path} {x2 : Fin 64} {x3 : Word} (h : Keeps false s0 s)
    (e : execNumcLedgerRdWrite x1 x2 x3 s = .next u) : Keeps false s0 u := by
  unfold execNumcLedgerRdWrite at e
  (injection e with e; subst e)
  all_goals
    repeat' first
      | (with_reducible first | assumption | intro _ | apply writeReg_keeps | apply keeps_ite | apply keeps_foldl)
      | split
      | dsimp only
      | (with_reducible first | apply keeps_mk | apply keeps_audit | apply keeps_fabric)

theorem execRngsProbeStart_keeps {s0 s u : State} {x1 : Path} {x2 : Word} (h : Keeps false s0 s)
    (e : execRngsProbeStart x1 x2 s = .next u) : Keeps false s0 u := by
  unfold execRngsProbeStart at e
  (injection e with e; subst e)
  all_goals
    repeat' first
      | (with_reducible first | assumption | intro _ | apply writeReg_keeps | apply keeps_ite | apply keeps_foldl)
      | split
      | dsimp only
      | (with_reducible first | apply keeps_mk | apply keeps_audit | apply keeps_fabric)

theorem execRngsProbeDone_keeps {b : Bool} {s0 s u : State} (h : Keeps b s0 s)
    (e : execRngsProbeDone s = .next u) : Keeps b s0 u := by
  unfold execRngsProbeDone at e
  (injection e with e; subst e)
  all_goals
    repeat' first
      | (with_reducible first | assumption | intro _ | apply probeDone_keeps | apply keeps_ite | apply keeps_foldl)
      | split
      | dsimp only
      | (with_reducible first | apply keeps_mk | apply keeps_audit | apply keeps_fabric)

theorem execSecuLoad_keeps {s0 s u : State} {x1 : Path} {x2 : Word} (h : Keeps false s0 s)
    (e : execSecuLoad x1 x2 s = .next u) : Keeps false s0 u := by
  unfold execSecuLoad at e
  (injection e with e; subst e)
  all_goals
    repeat' first
      | (with_reducible first | assumption | intro _ | apply writeReg_keeps | apply keeps_ite | apply keeps_foldl)
      | split
      | dsimp only
      | (with_reducible first | apply keeps_mk | apply keeps_audit | apply keeps_fabric)

theorem execActivate_keeps {s0 s u : State} {x1 : Path} (h : Keeps false s0 s)
    (e : execActivate x1 s = .next u) : Keeps false s0 u := by
  unfold execActivate at e
  (injection e with e; subst e)
  all_goals
    repeat' first
      | (with_reducible first | assumption | intro _ | apply writeReg_keeps | apply keeps_ite | apply keeps_foldl)
      | split
      | dsimp only
      | (with_reducible first | apply keeps_mk | apply keeps_audit | apply keeps_fabric)

theorem execConfirm_keeps {s0 s u : State} {x1 : Path} (h : Keeps false s0 s)
    (e : execConfirm x1 s = .next u) : Keeps false s0 u := by
  unfold execConfirm at e
  (injection e with e; subst e)
  all_goals
    repeat' first
      | (with_reducible first | assumption | intro _ | apply writeReg_keeps | apply keeps_ite | apply keeps_foldl)
      | split
      | dsimp only
      | (with_reducible first | apply keeps_mk | apply keeps_audit | apply keeps_fabric)

theorem execMgmtOnlyRestart_keeps {s0 s u : State} (h : Keeps false s0 s)
    (e : execMgmtOnlyRestart s = .next u) : Keeps false s0 u := by
  unfold execMgmtOnlyRestart at e
  (injection e with e; subst e)
  all_goals
    repeat' first
      | (with_reducible first | assumption | intro _ | apply restartDone_keeps | apply keeps_ite | apply keeps_foldl)
      | split
      | dsimp only
      | (with_reducible first | apply keeps_mk | apply keeps_audit | apply keeps_fabric)

theorem execQuoteGo_keeps {s0 s u : State} {x1 : Path} {x2 : Word} (h : Keeps false s0 s)
    (e : execQuoteGo x1 x2 s = .next u) : Keeps false s0 u := by
  unfold execQuoteGo at e
  (injection e with e; subst e)
  all_goals
    repeat' first
      | (with_reducible first | assumption | intro _ | apply writeReg_keeps | apply keeps_ite | apply keeps_foldl)
      | split
      | dsimp only
      | (with_reducible first | apply keeps_mk | apply keeps_audit | apply keeps_fabric)

theorem execDbgEnable_keeps {s0 s u : State} {x1 : Path} {x2 : SignedObj} (h : Keeps false s0 s)
    (e : execDbgEnable x1 x2 s = .next u) : Keeps false s0 u := by
  unfold execDbgEnable at e
  (injection e with e; subst e)
  all_goals
    repeat' first
      | (with_reducible first | assumption | intro _ | apply regWrite_keeps | apply keeps_ite | apply keeps_foldl)
      | split
      | dsimp only
      | (with_reducible first | apply keeps_mk | apply keeps_audit | apply keeps_fabric)

theorem execDbgRevoke_keeps {s0 s u : State} {x1 : Path} (h : Keeps false s0 s)
    (e : execDbgRevoke x1 s = .next u) : Keeps false s0 u := by
  unfold execDbgRevoke at e
  (injection e with e; subst e)
  all_goals
    repeat' first
      | (with_reducible first | assumption | intro _ | apply writeReg_keeps | apply keeps_ite | apply keeps_foldl)
      | split
      | dsimp only
      | (with_reducible first | apply keeps_mk | apply keeps_audit | apply keeps_fabric)

theorem execAuditSlotFreed_keeps {s0 s u : State} (h : Keeps false s0 s)
    (e : execAuditSlotFreed s = .next u) : Keeps false s0 u := by
  unfold execAuditSlotFreed at e
  (injection e with e; subst e)
  all_goals
    repeat' first
      | (with_reducible first | assumption | intro _ | apply slotFreed_keeps | apply keeps_ite | apply keeps_foldl)
      | split
      | dsimp only
      | (with_reducible first | apply keeps_mk | apply keeps_audit | apply keeps_fabric)

theorem execAudtAckSeqWrite_keeps {s0 s u : State} {x1 : Path} {x2 : Word} (h : Keeps false s0 s)
    (e : execAudtAckSeqWrite x1 x2 s = .next u) : Keeps false s0 u := by
  unfold execAudtAckSeqWrite at e
  (injection e with e; subst e)
  all_goals
    repeat' first
      | (with_reducible first | assumption | intro _ | apply writeReg_keeps | apply keeps_ite | apply keeps_foldl)
      | split
      | dsimp only
      | (with_reducible first | apply keeps_mk | apply keeps_audit | apply keeps_fabric)

theorem execAudtRdSeqWrite_keeps {s0 s u : State} {x1 : Path} {x2 : AuditFetch} (h : Keeps false s0 s)
    (e : execAudtRdSeqWrite x1 x2 s = .next u) : Keeps false s0 u := by
  unfold execAudtRdSeqWrite at e
  (injection e with e; subst e)
  all_goals
    repeat' first
      | (with_reducible first | assumption | intro _ | apply writeReg_keeps | apply keeps_ite | apply keeps_foldl)
      | split
      | dsimp only
      | (with_reducible first | apply keeps_mk | apply keeps_audit | apply keeps_fabric)

theorem execRegisterWrite_keeps {s0 s u : State} {x1 : Path} {x2 : BitVec 27} {x3 : Word} (h : Keeps false s0 s)
    (e : execRegisterWrite x1 x2 x3 s = .next u) : Keeps false s0 u := by
  unfold execRegisterWrite at e
  (injection e with e; subst e)
  all_goals
    repeat' first
      | (with_reducible first | assumption | intro _ | apply writeReg_keeps | apply keeps_ite | apply keeps_foldl)
      | split
      | dsimp only
      | (with_reducible first | apply keeps_mk | apply keeps_audit | apply keeps_fabric)

theorem execRegApertureAccess_keeps {s0 s u : State} {x1 : Byte} {x2 : Dword} {x3 : Nat} {x4 : Option Bytes} (h : Keeps
    false s0 s)
    (e : execRegApertureAccess x1 x2 x3 x4 s = .next u) : Keeps false s0 u := by
  unfold execRegApertureAccess at e
  (injection e with e; subst e)
  all_goals
    repeat' first
      | (with_reducible first | assumption | intro _ | apply apertureAccess_keeps | apply keeps_ite | apply keeps_foldl)
      | split
      | dsimp only
      | (with_reducible first | apply keeps_mk | apply keeps_audit | apply keeps_fabric)

theorem execRegAccess_keeps {s0 s u : State} {x1 : BitVec 72} (h : Keeps false s0 s)
    (e : execRegAccess x1 s = .next u) : Keeps false s0 u := by
  unfold execRegAccess at e
  (injection e with e; subst e)
  all_goals
    repeat' first
      | (with_reducible first | assumption | intro _ | apply regAccess_keeps | apply keeps_ite | apply keeps_foldl)
      | split
      | dsimp only
      | (with_reducible first | apply keeps_mk | apply keeps_audit | apply keeps_fabric)

/-! ### Machine/Repeat.lean -/

theorem dropAttempt_keeps {b : Bool} {s0 s : State} (x1 : Task) (h : Keeps b s0 s) :
    Keeps b s0 (dropAttempt x1 s) := by
  unfold dropAttempt
  repeat' first
    | (with_reducible first | assumption | intro _ | apply putBack_keeps | apply State_setCtx_keeps
                            | apply keeps_ite | apply keeps_foldl | apply keeps_ite_fst | apply keeps_foldl_fst | apply
                            keeps_foldl_snd)
    | split
    | dsimp only
    | (with_reducible first | apply keeps_mk | apply keeps_audit | apply keeps_fabric)

theorem convertMaster_keeps (x1 : Env) (x2 : Task) (x3 : CopyRec) (x4 : Tensor) : RunKeeps (convertMaster x1 x2 x3 x4) := by
  unfold convertMaster
  repeat' first
    | (with_reducible first | assumption | intro _ | apply getS_keeps | apply stop_keeps | apply
                            readMat_keeps | apply writeTiles_keeps | apply slotEntry_keeps | apply keeps_ite | apply
                            keeps_foldl | apply runKeeps_pure | apply runKeeps_getS | apply runKeeps_bind | apply
                            runKeeps_ite | apply runKeeps_foldlM | apply runAt_set | apply runAt_set_end | apply runAt_ite)
    | extract_lets
    | split
    | dsimp only
    | (with_reducible first | apply keeps_mk | apply keeps_audit | apply keeps_fabric)
    | (with_reducible apply runAt_of)

theorem convertMasters_keeps {b : Bool} {s0 s : State} (x1 : Env) (x2 : Nat) (x3 : List Task) (h : Keeps b s0 s) :
    Keeps b s0 (convertMasters x1 x2 x3 s) := by
  unfold convertMasters
  repeat' first
    | (with_reducible first | assumption | intro _ | apply convertMaster_keeps | apply killCtx_keeps
                            | apply endTask_keeps | apply keeps_ite | apply keeps_foldl | apply keeps_ite_fst | apply
                            keeps_foldl_fst | apply keeps_foldl_snd | apply runKeeps_pure | apply runKeeps_getS | apply
                            runKeeps_bind | apply runKeeps_ite | apply runKeeps_foldlM | apply runAt_set | apply
                            runAt_set_end | apply runAt_ite)
    | (with_reducible refine keeps_run ?_ (by with_reducible assumption) ?_)
    | split
    | dsimp only
    | (with_reducible first | apply keeps_mk | apply keeps_audit | apply keeps_fabric)
    | (with_reducible apply runAt_of)

theorem supersede_keeps {b : Bool} {s0 s : State} (x1 : Task) (h : Keeps b s0 s) :
    Keeps b s0 (supersede x1 s) := by
  unfold supersede
  repeat' first
    | (with_reducible first | assumption | intro _ | apply skipPips_keeps | apply
                            markSuperseded_keeps | apply State_setCtx_keeps | apply keeps_ite | apply keeps_foldl)
    | split
    | dsimp only
    | (with_reducible first | apply keeps_mk | apply keeps_audit | apply keeps_fabric)

theorem layerRepeat_keeps {b : Bool} {s0 s : State} (x1 : Nat) (x2 : Fin 4) (x3 : Word) (x4 : BitVec 16) (x5 : Env) (h :
    Keeps b s0 s) :
    Keeps b s0 (layerRepeat x1 x2 x3 x4 x5 s) := by
  unfold layerRepeat
  repeat' first
    | (with_reducible first | assumption | intro _ | apply dropAttempt_keeps | apply supersede_keeps
                            | apply State_setCtx_keeps | apply convertMasters_keeps | apply keeps_ite | apply keeps_foldl |
                            apply keeps_ite_fst | apply keeps_foldl_fst | apply keeps_foldl_snd)
    | split
    | dsimp only
    | (with_reducible first | apply keeps_mk | apply keeps_audit | apply keeps_fabric)

theorem execLayerRepeat_keeps {b : Bool} {s0 s u : State} {x1 : Fin 64} {x2 : Fin 4} {x3 : Word} {x4 : BitVec 16} {x5 :
    Env} (h : Keeps b s0 s)
    (e : execLayerRepeat x1 x2 x3 x4 x5 s = .next u) : Keeps b s0 u := by
  unfold execLayerRepeat at e
  (injection e with e; subst e)
  all_goals
    repeat' first
      | (with_reducible first | assumption | intro _ | apply layerRepeat_keeps | apply keeps_ite | apply keeps_foldl)
      | split
      | dsimp only
      | (with_reducible first | apply keeps_mk | apply keeps_audit | apply keeps_fabric)

/-! ### Machine/Idle.lean -/

theorem idle_keeps {b : Bool} {s0 s : State} (h : Keeps b s0 s) :
    Keeps b s0 (idle s) := by
  unfold idle
  repeat' first
    | (with_reducible first | assumption | intro _ | apply keeps_ite | apply keeps_foldl)
    | split
    | dsimp only
    | (with_reducible first | apply keeps_mk | apply keeps_audit | apply keeps_fabric)

end Sys2Proof.Machine
end

