-- ==== Sys2Proof/Laws/State.lean ====
section
/-! SUPPORT. What the named updates of State leave unchanged, field by field, and what is read after them. -/

namespace Sys2Proof.Machine

-- One theorem after the other: checked all at once they take more threads than a checker has memory for.
set_option Elab.async false

/-! ### State.setCtx -/

@[simp] theorem State.setCtx_part (s : State) (c : Nat) (x : Ctx) : (s.setCtx c x).part = s.part := rfl
@[simp] theorem State.setCtx_time (s : State) (c : Nat) (x : Ctx) : (s.setCtx c x).time = s.time := rfl
@[simp] theorem State.setCtx_dev (s : State) (c : Nat) (x : Ctx) : (s.setCtx c x).dev = s.dev := rfl
@[simp] theorem State.setCtx_prev (s : State) (c : Nat) (x : Ctx) : (s.setCtx c x).prev = s.prev := rfl
@[simp] theorem State.setCtx_devSince (s : State) (c : Nat) (x : Ctx) : (s.setCtx c x).devSince = s.devSince := rfl
@[simp] theorem State.setCtx_power (s : State) (c : Nat) (x : Ctx) : (s.setCtx c x).power = s.power := rfl
@[simp] theorem State.setCtx_boot (s : State) (c : Nat) (x : Ctx) : (s.setCtx c x).boot = s.boot := rfl
@[simp] theorem State.setCtx_flash (s : State) (c : Nat) (x : Ctx) : (s.setCtx c x).flash = s.flash := rfl
@[simp] theorem State.setCtx_secu (s : State) (c : Nat) (x : Ctx) : (s.setCtx c x).secu = s.secu := rfl
@[simp] theorem State.setCtx_audit (s : State) (c : Nat) (x : Ctx) : (s.setCtx c x).audit = s.audit := rfl
@[simp] theorem State.setCtx_regs (s : State) (c : Nat) (x : Ctx) : (s.setCtx c x).regs = s.regs := rfl
@[simp] theorem State.setCtx_paths (s : State) (c : Nat) (x : Ctx) : (s.setCtx c x).paths = s.paths := rfl
@[simp] theorem State.setCtx_mem (s : State) (c : Nat) (x : Ctx) : (s.setCtx c x).mem = s.mem := rfl
@[simp] theorem State.setCtx_hbm (s : State) (c : Nat) (x : Ctx) : (s.setCtx c x).hbm = s.hbm := rfl
@[simp] theorem State.setCtx_mrgnRecal (s : State) (c : Nat) (x : Ctx) : (s.setCtx c x).mrgnRecal = s.mrgnRecal := rfl
@[simp] theorem State.setCtx_mrgnUse (s : State) (c : Nat) (x : Ctx) : (s.setCtx c x).mrgnUse = s.mrgnUse := rfl
@[simp] theorem State.setCtx_mrgnLast (s : State) (c : Nat) (x : Ctx) : (s.setCtx c x).mrgnLast = s.mrgnLast := rfl
@[simp] theorem State.setCtx_trepel (s : State) (c : Nat) (x : Ctx) : (s.setCtx c x).trepel = s.trepel := rfl
@[simp] theorem State.setCtx_bndy (s : State) (c : Nat) (x : Ctx) : (s.setCtx c x).bndy = s.bndy := rfl
@[simp] theorem State.setCtx_fabric (s : State) (c : Nat) (x : Ctx) : (s.setCtx c x).fabric = s.fabric := rfl
@[simp] theorem State.setCtx_clusters (s : State) (c : Nat) (x : Ctx) : (s.setCtx c x).clusters = s.clusters := rfl
@[simp] theorem State.setCtx_ramps (s : State) (c : Nat) (x : Ctx) : (s.setCtx c x).ramps = s.ramps := rfl
@[simp] theorem State.setCtx_faults (s : State) (c : Nat) (x : Ctx) : (s.setCtx c x).faults = s.faults := rfl
@[simp] theorem State.setCtx_twin (s : State) (c : Nat) (x : Ctx) : (s.setCtx c x).twin = s.twin := rfl
@[simp] theorem State.setCtx_cadence (s : State) (c : Nat) (x : Ctx) : (s.setCtx c x).cadence = s.cadence := rfl
@[simp] theorem State.setCtx_smb (s : State) (c : Nat) (x : Ctx) : (s.setCtx c x).smb = s.smb := rfl
@[simp] theorem State.setCtx_jtag (s : State) (c : Nat) (x : Ctx) : (s.setCtx c x).jtag = s.jtag := rfl
@[simp] theorem State.setCtx_probe (s : State) (c : Nat) (x : Ctx) : (s.setCtx c x).probe = s.probe := rfl
@[simp] theorem State.setCtx_outputs (s : State) (c : Nat) (x : Ctx) : (s.setCtx c x).outputs = s.outputs := rfl
@[simp] theorem State.setCtx_fresh (s : State) (c : Nat) (x : Ctx) : (s.setCtx c x).fresh = s.fresh := rfl
@[simp] theorem State.setCtx_pending (s : State) (c : Nat) (x : Ctx) : (s.setCtx c x).pending = s.pending := rfl

/-! ### State.setRing -/

@[simp] theorem State.setRing_part (s : State) (c r : Nat) (g : Ring) : (s.setRing c r g).part = s.part := rfl
@[simp] theorem State.setRing_time (s : State) (c r : Nat) (g : Ring) : (s.setRing c r g).time = s.time := rfl
@[simp] theorem State.setRing_dev (s : State) (c r : Nat) (g : Ring) : (s.setRing c r g).dev = s.dev := rfl
@[simp] theorem State.setRing_prev (s : State) (c r : Nat) (g : Ring) : (s.setRing c r g).prev = s.prev := rfl
@[simp] theorem State.setRing_devSince (s : State) (c r : Nat) (g : Ring) : (s.setRing c r g).devSince = s.devSince := rfl
@[simp] theorem State.setRing_power (s : State) (c r : Nat) (g : Ring) : (s.setRing c r g).power = s.power := rfl
@[simp] theorem State.setRing_boot (s : State) (c r : Nat) (g : Ring) : (s.setRing c r g).boot = s.boot := rfl
@[simp] theorem State.setRing_flash (s : State) (c r : Nat) (g : Ring) : (s.setRing c r g).flash = s.flash := rfl
@[simp] theorem State.setRing_secu (s : State) (c r : Nat) (g : Ring) : (s.setRing c r g).secu = s.secu := rfl
@[simp] theorem State.setRing_audit (s : State) (c r : Nat) (g : Ring) : (s.setRing c r g).audit = s.audit := rfl
@[simp] theorem State.setRing_regs (s : State) (c r : Nat) (g : Ring) : (s.setRing c r g).regs = s.regs := rfl
@[simp] theorem State.setRing_paths (s : State) (c r : Nat) (g : Ring) : (s.setRing c r g).paths = s.paths := rfl
@[simp] theorem State.setRing_mem (s : State) (c r : Nat) (g : Ring) : (s.setRing c r g).mem = s.mem := rfl
@[simp] theorem State.setRing_hbm (s : State) (c r : Nat) (g : Ring) : (s.setRing c r g).hbm = s.hbm := rfl
@[simp] theorem State.setRing_mrgnRecal (s : State) (c r : Nat) (g : Ring) : (s.setRing c r g).mrgnRecal = s.mrgnRecal := rfl
@[simp] theorem State.setRing_mrgnUse (s : State) (c r : Nat) (g : Ring) : (s.setRing c r g).mrgnUse = s.mrgnUse := rfl
@[simp] theorem State.setRing_mrgnLast (s : State) (c r : Nat) (g : Ring) : (s.setRing c r g).mrgnLast = s.mrgnLast := rfl
@[simp] theorem State.setRing_trepel (s : State) (c r : Nat) (g : Ring) : (s.setRing c r g).trepel = s.trepel := rfl
@[simp] theorem State.setRing_bndy (s : State) (c r : Nat) (g : Ring) : (s.setRing c r g).bndy = s.bndy := rfl
@[simp] theorem State.setRing_fabric (s : State) (c r : Nat) (g : Ring) : (s.setRing c r g).fabric = s.fabric := rfl
@[simp] theorem State.setRing_clusters (s : State) (c r : Nat) (g : Ring) : (s.setRing c r g).clusters = s.clusters := rfl
@[simp] theorem State.setRing_ramps (s : State) (c r : Nat) (g : Ring) : (s.setRing c r g).ramps = s.ramps := rfl
@[simp] theorem State.setRing_faults (s : State) (c r : Nat) (g : Ring) : (s.setRing c r g).faults = s.faults := rfl
@[simp] theorem State.setRing_twin (s : State) (c r : Nat) (g : Ring) : (s.setRing c r g).twin = s.twin := rfl
@[simp] theorem State.setRing_cadence (s : State) (c r : Nat) (g : Ring) : (s.setRing c r g).cadence = s.cadence := rfl
@[simp] theorem State.setRing_smb (s : State) (c r : Nat) (g : Ring) : (s.setRing c r g).smb = s.smb := rfl
@[simp] theorem State.setRing_jtag (s : State) (c r : Nat) (g : Ring) : (s.setRing c r g).jtag = s.jtag := rfl
@[simp] theorem State.setRing_probe (s : State) (c r : Nat) (g : Ring) : (s.setRing c r g).probe = s.probe := rfl
@[simp] theorem State.setRing_outputs (s : State) (c r : Nat) (g : Ring) : (s.setRing c r g).outputs = s.outputs := rfl
@[simp] theorem State.setRing_fresh (s : State) (c r : Nat) (g : Ring) : (s.setRing c r g).fresh = s.fresh := rfl
@[simp] theorem State.setRing_pending (s : State) (c r : Nat) (g : Ring) : (s.setRing c r g).pending = s.pending := rfl

/-! ### State.setClus -/

@[simp] theorem State.setClus_part (s : State) (n : Nat) (x : Cluster) : (s.setClus n x).part = s.part := rfl
@[simp] theorem State.setClus_time (s : State) (n : Nat) (x : Cluster) : (s.setClus n x).time = s.time := rfl
@[simp] theorem State.setClus_dev (s : State) (n : Nat) (x : Cluster) : (s.setClus n x).dev = s.dev := rfl
@[simp] theorem State.setClus_prev (s : State) (n : Nat) (x : Cluster) : (s.setClus n x).prev = s.prev := rfl
@[simp] theorem State.setClus_devSince (s : State) (n : Nat) (x : Cluster) : (s.setClus n x).devSince = s.devSince := rfl
@[simp] theorem State.setClus_power (s : State) (n : Nat) (x : Cluster) : (s.setClus n x).power = s.power := rfl
@[simp] theorem State.setClus_boot (s : State) (n : Nat) (x : Cluster) : (s.setClus n x).boot = s.boot := rfl
@[simp] theorem State.setClus_flash (s : State) (n : Nat) (x : Cluster) : (s.setClus n x).flash = s.flash := rfl
@[simp] theorem State.setClus_secu (s : State) (n : Nat) (x : Cluster) : (s.setClus n x).secu = s.secu := rfl
@[simp] theorem State.setClus_audit (s : State) (n : Nat) (x : Cluster) : (s.setClus n x).audit = s.audit := rfl
@[simp] theorem State.setClus_regs (s : State) (n : Nat) (x : Cluster) : (s.setClus n x).regs = s.regs := rfl
@[simp] theorem State.setClus_paths (s : State) (n : Nat) (x : Cluster) : (s.setClus n x).paths = s.paths := rfl
@[simp] theorem State.setClus_mem (s : State) (n : Nat) (x : Cluster) : (s.setClus n x).mem = s.mem := rfl
@[simp] theorem State.setClus_hbm (s : State) (n : Nat) (x : Cluster) : (s.setClus n x).hbm = s.hbm := rfl
@[simp] theorem State.setClus_mrgnRecal (s : State) (n : Nat) (x : Cluster) : (s.setClus n x).mrgnRecal = s.mrgnRecal := rfl
@[simp] theorem State.setClus_mrgnUse (s : State) (n : Nat) (x : Cluster) : (s.setClus n x).mrgnUse = s.mrgnUse := rfl
@[simp] theorem State.setClus_mrgnLast (s : State) (n : Nat) (x : Cluster) : (s.setClus n x).mrgnLast = s.mrgnLast := rfl
@[simp] theorem State.setClus_trepel (s : State) (n : Nat) (x : Cluster) : (s.setClus n x).trepel = s.trepel := rfl
@[simp] theorem State.setClus_bndy (s : State) (n : Nat) (x : Cluster) : (s.setClus n x).bndy = s.bndy := rfl
@[simp] theorem State.setClus_fabric (s : State) (n : Nat) (x : Cluster) : (s.setClus n x).fabric = s.fabric := rfl
@[simp] theorem State.setClus_ctxs (s : State) (n : Nat) (x : Cluster) : (s.setClus n x).ctxs = s.ctxs := rfl
@[simp] theorem State.setClus_ramps (s : State) (n : Nat) (x : Cluster) : (s.setClus n x).ramps = s.ramps := rfl
@[simp] theorem State.setClus_faults (s : State) (n : Nat) (x : Cluster) : (s.setClus n x).faults = s.faults := rfl
@[simp] theorem State.setClus_twin (s : State) (n : Nat) (x : Cluster) : (s.setClus n x).twin = s.twin := rfl
@[simp] theorem State.setClus_cadence (s : State) (n : Nat) (x : Cluster) : (s.setClus n x).cadence = s.cadence := rfl
@[simp] theorem State.setClus_smb (s : State) (n : Nat) (x : Cluster) : (s.setClus n x).smb = s.smb := rfl
@[simp] theorem State.setClus_jtag (s : State) (n : Nat) (x : Cluster) : (s.setClus n x).jtag = s.jtag := rfl
@[simp] theorem State.setClus_probe (s : State) (n : Nat) (x : Cluster) : (s.setClus n x).probe = s.probe := rfl
@[simp] theorem State.setClus_outputs (s : State) (n : Nat) (x : Cluster) : (s.setClus n x).outputs = s.outputs := rfl
@[simp] theorem State.setClus_fresh (s : State) (n : Nat) (x : Cluster) : (s.setClus n x).fresh = s.fresh := rfl
@[simp] theorem State.setClus_pending (s : State) (n : Nat) (x : Cluster) : (s.setClus n x).pending = s.pending := rfl

/-! ### State.setStack -/

@[simp] theorem State.setStack_part (s : State) (n : Nat) (x : Stack) : (s.setStack n x).part = s.part := rfl
@[simp] theorem State.setStack_time (s : State) (n : Nat) (x : Stack) : (s.setStack n x).time = s.time := rfl
@[simp] theorem State.setStack_dev (s : State) (n : Nat) (x : Stack) : (s.setStack n x).dev = s.dev := rfl
@[simp] theorem State.setStack_prev (s : State) (n : Nat) (x : Stack) : (s.setStack n x).prev = s.prev := rfl
@[simp] theorem State.setStack_devSince (s : State) (n : Nat) (x : Stack) : (s.setStack n x).devSince = s.devSince := rfl
@[simp] theorem State.setStack_power (s : State) (n : Nat) (x : Stack) : (s.setStack n x).power = s.power := rfl
@[simp] theorem State.setStack_boot (s : State) (n : Nat) (x : Stack) : (s.setStack n x).boot = s.boot := rfl
@[simp] theorem State.setStack_flash (s : State) (n : Nat) (x : Stack) : (s.setStack n x).flash = s.flash := rfl
@[simp] theorem State.setStack_secu (s : State) (n : Nat) (x : Stack) : (s.setStack n x).secu = s.secu := rfl
@[simp] theorem State.setStack_audit (s : State) (n : Nat) (x : Stack) : (s.setStack n x).audit = s.audit := rfl
@[simp] theorem State.setStack_regs (s : State) (n : Nat) (x : Stack) : (s.setStack n x).regs = s.regs := rfl
@[simp] theorem State.setStack_paths (s : State) (n : Nat) (x : Stack) : (s.setStack n x).paths = s.paths := rfl
@[simp] theorem State.setStack_mem (s : State) (n : Nat) (x : Stack) : (s.setStack n x).mem = s.mem := rfl
@[simp] theorem State.setStack_mrgnRecal (s : State) (n : Nat) (x : Stack) : (s.setStack n x).mrgnRecal = s.mrgnRecal := rfl
@[simp] theorem State.setStack_mrgnUse (s : State) (n : Nat) (x : Stack) : (s.setStack n x).mrgnUse = s.mrgnUse := rfl
@[simp] theorem State.setStack_mrgnLast (s : State) (n : Nat) (x : Stack) : (s.setStack n x).mrgnLast = s.mrgnLast := rfl
@[simp] theorem State.setStack_trepel (s : State) (n : Nat) (x : Stack) : (s.setStack n x).trepel = s.trepel := rfl
@[simp] theorem State.setStack_bndy (s : State) (n : Nat) (x : Stack) : (s.setStack n x).bndy = s.bndy := rfl
@[simp] theorem State.setStack_fabric (s : State) (n : Nat) (x : Stack) : (s.setStack n x).fabric = s.fabric := rfl
@[simp] theorem State.setStack_ctxs (s : State) (n : Nat) (x : Stack) : (s.setStack n x).ctxs = s.ctxs := rfl
@[simp] theorem State.setStack_clusters (s : State) (n : Nat) (x : Stack) : (s.setStack n x).clusters = s.clusters := rfl
@[simp] theorem State.setStack_ramps (s : State) (n : Nat) (x : Stack) : (s.setStack n x).ramps = s.ramps := rfl
@[simp] theorem State.setStack_faults (s : State) (n : Nat) (x : Stack) : (s.setStack n x).faults = s.faults := rfl
@[simp] theorem State.setStack_twin (s : State) (n : Nat) (x : Stack) : (s.setStack n x).twin = s.twin := rfl
@[simp] theorem State.setStack_cadence (s : State) (n : Nat) (x : Stack) : (s.setStack n x).cadence = s.cadence := rfl
@[simp] theorem State.setStack_smb (s : State) (n : Nat) (x : Stack) : (s.setStack n x).smb = s.smb := rfl
@[simp] theorem State.setStack_jtag (s : State) (n : Nat) (x : Stack) : (s.setStack n x).jtag = s.jtag := rfl
@[simp] theorem State.setStack_probe (s : State) (n : Nat) (x : Stack) : (s.setStack n x).probe = s.probe := rfl
@[simp] theorem State.setStack_outputs (s : State) (n : Nat) (x : Stack) : (s.setStack n x).outputs = s.outputs := rfl
@[simp] theorem State.setStack_fresh (s : State) (n : Nat) (x : Stack) : (s.setStack n x).fresh = s.fresh := rfl
@[simp] theorem State.setStack_pending (s : State) (n : Nat) (x : Stack) : (s.setStack n x).pending = s.pending := rfl

/-! ### State.setPort -/

@[simp] theorem State.setPort_part (s : State) (p : Nat) (x : Port) : (s.setPort p x).part = s.part := rfl
@[simp] theorem State.setPort_time (s : State) (p : Nat) (x : Port) : (s.setPort p x).time = s.time := rfl
@[simp] theorem State.setPort_dev (s : State) (p : Nat) (x : Port) : (s.setPort p x).dev = s.dev := rfl
@[simp] theorem State.setPort_prev (s : State) (p : Nat) (x : Port) : (s.setPort p x).prev = s.prev := rfl
@[simp] theorem State.setPort_devSince (s : State) (p : Nat) (x : Port) : (s.setPort p x).devSince = s.devSince := rfl
@[simp] theorem State.setPort_power (s : State) (p : Nat) (x : Port) : (s.setPort p x).power = s.power := rfl
@[simp] theorem State.setPort_boot (s : State) (p : Nat) (x : Port) : (s.setPort p x).boot = s.boot := rfl
@[simp] theorem State.setPort_flash (s : State) (p : Nat) (x : Port) : (s.setPort p x).flash = s.flash := rfl
@[simp] theorem State.setPort_secu (s : State) (p : Nat) (x : Port) : (s.setPort p x).secu = s.secu := rfl
@[simp] theorem State.setPort_audit (s : State) (p : Nat) (x : Port) : (s.setPort p x).audit = s.audit := rfl
@[simp] theorem State.setPort_regs (s : State) (p : Nat) (x : Port) : (s.setPort p x).regs = s.regs := rfl
@[simp] theorem State.setPort_paths (s : State) (p : Nat) (x : Port) : (s.setPort p x).paths = s.paths := rfl
@[simp] theorem State.setPort_mem (s : State) (p : Nat) (x : Port) : (s.setPort p x).mem = s.mem := rfl
@[simp] theorem State.setPort_hbm (s : State) (p : Nat) (x : Port) : (s.setPort p x).hbm = s.hbm := rfl
@[simp] theorem State.setPort_mrgnRecal (s : State) (p : Nat) (x : Port) : (s.setPort p x).mrgnRecal = s.mrgnRecal := rfl
@[simp] theorem State.setPort_mrgnUse (s : State) (p : Nat) (x : Port) : (s.setPort p x).mrgnUse = s.mrgnUse := rfl
@[simp] theorem State.setPort_mrgnLast (s : State) (p : Nat) (x : Port) : (s.setPort p x).mrgnLast = s.mrgnLast := rfl
@[simp] theorem State.setPort_trepel (s : State) (p : Nat) (x : Port) : (s.setPort p x).trepel = s.trepel := rfl
@[simp] theorem State.setPort_bndy (s : State) (p : Nat) (x : Port) : (s.setPort p x).bndy = s.bndy := rfl
@[simp] theorem State.setPort_ctxs (s : State) (p : Nat) (x : Port) : (s.setPort p x).ctxs = s.ctxs := rfl
@[simp] theorem State.setPort_clusters (s : State) (p : Nat) (x : Port) : (s.setPort p x).clusters = s.clusters := rfl
@[simp] theorem State.setPort_ramps (s : State) (p : Nat) (x : Port) : (s.setPort p x).ramps = s.ramps := rfl
@[simp] theorem State.setPort_faults (s : State) (p : Nat) (x : Port) : (s.setPort p x).faults = s.faults := rfl
@[simp] theorem State.setPort_twin (s : State) (p : Nat) (x : Port) : (s.setPort p x).twin = s.twin := rfl
@[simp] theorem State.setPort_cadence (s : State) (p : Nat) (x : Port) : (s.setPort p x).cadence = s.cadence := rfl
@[simp] theorem State.setPort_smb (s : State) (p : Nat) (x : Port) : (s.setPort p x).smb = s.smb := rfl
@[simp] theorem State.setPort_jtag (s : State) (p : Nat) (x : Port) : (s.setPort p x).jtag = s.jtag := rfl
@[simp] theorem State.setPort_probe (s : State) (p : Nat) (x : Port) : (s.setPort p x).probe = s.probe := rfl
@[simp] theorem State.setPort_outputs (s : State) (p : Nat) (x : Port) : (s.setPort p x).outputs = s.outputs := rfl
@[simp] theorem State.setPort_fresh (s : State) (p : Nat) (x : Port) : (s.setPort p x).fresh = s.fresh := rfl
@[simp] theorem State.setPort_pending (s : State) (p : Nat) (x : Port) : (s.setPort p x).pending = s.pending := rfl

/-! ### State.setPath -/

@[simp] theorem State.setPath_part (s : State) (p : Nat) (x : PathState) : (s.setPath p x).part = s.part := rfl
@[simp] theorem State.setPath_time (s : State) (p : Nat) (x : PathState) : (s.setPath p x).time = s.time := rfl
@[simp] theorem State.setPath_dev (s : State) (p : Nat) (x : PathState) : (s.setPath p x).dev = s.dev := rfl
@[simp] theorem State.setPath_prev (s : State) (p : Nat) (x : PathState) : (s.setPath p x).prev = s.prev := rfl
@[simp] theorem State.setPath_devSince (s : State) (p : Nat) (x : PathState) : (s.setPath p x).devSince = s.devSince := rfl
@[simp] theorem State.setPath_power (s : State) (p : Nat) (x : PathState) : (s.setPath p x).power = s.power := rfl
@[simp] theorem State.setPath_boot (s : State) (p : Nat) (x : PathState) : (s.setPath p x).boot = s.boot := rfl
@[simp] theorem State.setPath_flash (s : State) (p : Nat) (x : PathState) : (s.setPath p x).flash = s.flash := rfl
@[simp] theorem State.setPath_secu (s : State) (p : Nat) (x : PathState) : (s.setPath p x).secu = s.secu := rfl
@[simp] theorem State.setPath_audit (s : State) (p : Nat) (x : PathState) : (s.setPath p x).audit = s.audit := rfl
@[simp] theorem State.setPath_regs (s : State) (p : Nat) (x : PathState) : (s.setPath p x).regs = s.regs := rfl
@[simp] theorem State.setPath_mem (s : State) (p : Nat) (x : PathState) : (s.setPath p x).mem = s.mem := rfl
@[simp] theorem State.setPath_hbm (s : State) (p : Nat) (x : PathState) : (s.setPath p x).hbm = s.hbm := rfl
@[simp] theorem State.setPath_mrgnRecal (s : State) (p : Nat) (x : PathState) : (s.setPath p x).mrgnRecal = s.mrgnRecal := rfl
@[simp] theorem State.setPath_mrgnUse (s : State) (p : Nat) (x : PathState) : (s.setPath p x).mrgnUse = s.mrgnUse := rfl
@[simp] theorem State.setPath_mrgnLast (s : State) (p : Nat) (x : PathState) : (s.setPath p x).mrgnLast = s.mrgnLast := rfl
@[simp] theorem State.setPath_trepel (s : State) (p : Nat) (x : PathState) : (s.setPath p x).trepel = s.trepel := rfl
@[simp] theorem State.setPath_bndy (s : State) (p : Nat) (x : PathState) : (s.setPath p x).bndy = s.bndy := rfl
@[simp] theorem State.setPath_fabric (s : State) (p : Nat) (x : PathState) : (s.setPath p x).fabric = s.fabric := rfl
@[simp] theorem State.setPath_ctxs (s : State) (p : Nat) (x : PathState) : (s.setPath p x).ctxs = s.ctxs := rfl
@[simp] theorem State.setPath_clusters (s : State) (p : Nat) (x : PathState) : (s.setPath p x).clusters = s.clusters := rfl
@[simp] theorem State.setPath_ramps (s : State) (p : Nat) (x : PathState) : (s.setPath p x).ramps = s.ramps := rfl
@[simp] theorem State.setPath_faults (s : State) (p : Nat) (x : PathState) : (s.setPath p x).faults = s.faults := rfl
@[simp] theorem State.setPath_twin (s : State) (p : Nat) (x : PathState) : (s.setPath p x).twin = s.twin := rfl
@[simp] theorem State.setPath_cadence (s : State) (p : Nat) (x : PathState) : (s.setPath p x).cadence = s.cadence := rfl
@[simp] theorem State.setPath_smb (s : State) (p : Nat) (x : PathState) : (s.setPath p x).smb = s.smb := rfl
@[simp] theorem State.setPath_jtag (s : State) (p : Nat) (x : PathState) : (s.setPath p x).jtag = s.jtag := rfl
@[simp] theorem State.setPath_probe (s : State) (p : Nat) (x : PathState) : (s.setPath p x).probe = s.probe := rfl
@[simp] theorem State.setPath_outputs (s : State) (p : Nat) (x : PathState) : (s.setPath p x).outputs = s.outputs := rfl
@[simp] theorem State.setPath_fresh (s : State) (p : Nat) (x : PathState) : (s.setPath p x).fresh = s.fresh := rfl
@[simp] theorem State.setPath_pending (s : State) (p : Nat) (x : PathState) : (s.setPath p x).pending = s.pending := rfl

/-! ### State.setReg -/

@[simp] theorem State.setReg_part (s : State) (a : Nat) (v : Word) : (s.setReg a v).part = s.part := rfl
@[simp] theorem State.setReg_time (s : State) (a : Nat) (v : Word) : (s.setReg a v).time = s.time := rfl
@[simp] theorem State.setReg_dev (s : State) (a : Nat) (v : Word) : (s.setReg a v).dev = s.dev := rfl
@[simp] theorem State.setReg_prev (s : State) (a : Nat) (v : Word) : (s.setReg a v).prev = s.prev := rfl
@[simp] theorem State.setReg_devSince (s : State) (a : Nat) (v : Word) : (s.setReg a v).devSince = s.devSince := rfl
@[simp] theorem State.setReg_power (s : State) (a : Nat) (v : Word) : (s.setReg a v).power = s.power := rfl
@[simp] theorem State.setReg_boot (s : State) (a : Nat) (v : Word) : (s.setReg a v).boot = s.boot := rfl
@[simp] theorem State.setReg_flash (s : State) (a : Nat) (v : Word) : (s.setReg a v).flash = s.flash := rfl
@[simp] theorem State.setReg_secu (s : State) (a : Nat) (v : Word) : (s.setReg a v).secu = s.secu := rfl
@[simp] theorem State.setReg_audit (s : State) (a : Nat) (v : Word) : (s.setReg a v).audit = s.audit := rfl
@[simp] theorem State.setReg_paths (s : State) (a : Nat) (v : Word) : (s.setReg a v).paths = s.paths := rfl
@[simp] theorem State.setReg_mem (s : State) (a : Nat) (v : Word) : (s.setReg a v).mem = s.mem := rfl
@[simp] theorem State.setReg_hbm (s : State) (a : Nat) (v : Word) : (s.setReg a v).hbm = s.hbm := rfl
@[simp] theorem State.setReg_mrgnRecal (s : State) (a : Nat) (v : Word) : (s.setReg a v).mrgnRecal = s.mrgnRecal := rfl
@[simp] theorem State.setReg_mrgnUse (s : State) (a : Nat) (v : Word) : (s.setReg a v).mrgnUse = s.mrgnUse := rfl
@[simp] theorem State.setReg_mrgnLast (s : State) (a : Nat) (v : Word) : (s.setReg a v).mrgnLast = s.mrgnLast := rfl
@[simp] theorem State.setReg_trepel (s : State) (a : Nat) (v : Word) : (s.setReg a v).trepel = s.trepel := rfl
@[simp] theorem State.setReg_bndy (s : State) (a : Nat) (v : Word) : (s.setReg a v).bndy = s.bndy := rfl
@[simp] theorem State.setReg_fabric (s : State) (a : Nat) (v : Word) : (s.setReg a v).fabric = s.fabric := rfl
@[simp] theorem State.setReg_ctxs (s : State) (a : Nat) (v : Word) : (s.setReg a v).ctxs = s.ctxs := rfl
@[simp] theorem State.setReg_clusters (s : State) (a : Nat) (v : Word) : (s.setReg a v).clusters = s.clusters := rfl
@[simp] theorem State.setReg_ramps (s : State) (a : Nat) (v : Word) : (s.setReg a v).ramps = s.ramps := rfl
@[simp] theorem State.setReg_faults (s : State) (a : Nat) (v : Word) : (s.setReg a v).faults = s.faults := rfl
@[simp] theorem State.setReg_twin (s : State) (a : Nat) (v : Word) : (s.setReg a v).twin = s.twin := rfl
@[simp] theorem State.setReg_cadence (s : State) (a : Nat) (v : Word) : (s.setReg a v).cadence = s.cadence := rfl
@[simp] theorem State.setReg_smb (s : State) (a : Nat) (v : Word) : (s.setReg a v).smb = s.smb := rfl
@[simp] theorem State.setReg_jtag (s : State) (a : Nat) (v : Word) : (s.setReg a v).jtag = s.jtag := rfl
@[simp] theorem State.setReg_probe (s : State) (a : Nat) (v : Word) : (s.setReg a v).probe = s.probe := rfl
@[simp] theorem State.setReg_outputs (s : State) (a : Nat) (v : Word) : (s.setReg a v).outputs = s.outputs := rfl
@[simp] theorem State.setReg_fresh (s : State) (a : Nat) (v : Word) : (s.setReg a v).fresh = s.fresh := rfl
@[simp] theorem State.setReg_pending (s : State) (a : Nat) (v : Word) : (s.setReg a v).pending = s.pending := rfl

/-! ### State.setReg64 -/

@[simp] theorem State.setReg64_part (s : State) (a : Nat) (v : Dword) : (s.setReg64 a v).part = s.part := rfl
@[simp] theorem State.setReg64_time (s : State) (a : Nat) (v : Dword) : (s.setReg64 a v).time = s.time := rfl
@[simp] theorem State.setReg64_dev (s : State) (a : Nat) (v : Dword) : (s.setReg64 a v).dev = s.dev := rfl
@[simp] theorem State.setReg64_prev (s : State) (a : Nat) (v : Dword) : (s.setReg64 a v).prev = s.prev := rfl
@[simp] theorem State.setReg64_devSince (s : State) (a : Nat) (v : Dword) : (s.setReg64 a v).devSince = s.devSince := rfl
@[simp] theorem State.setReg64_power (s : State) (a : Nat) (v : Dword) : (s.setReg64 a v).power = s.power := rfl
@[simp] theorem State.setReg64_boot (s : State) (a : Nat) (v : Dword) : (s.setReg64 a v).boot = s.boot := rfl
@[simp] theorem State.setReg64_flash (s : State) (a : Nat) (v : Dword) : (s.setReg64 a v).flash = s.flash := rfl
@[simp] theorem State.setReg64_secu (s : State) (a : Nat) (v : Dword) : (s.setReg64 a v).secu = s.secu := rfl
@[simp] theorem State.setReg64_audit (s : State) (a : Nat) (v : Dword) : (s.setReg64 a v).audit = s.audit := rfl
@[simp] theorem State.setReg64_paths (s : State) (a : Nat) (v : Dword) : (s.setReg64 a v).paths = s.paths := rfl
@[simp] theorem State.setReg64_mem (s : State) (a : Nat) (v : Dword) : (s.setReg64 a v).mem = s.mem := rfl
@[simp] theorem State.setReg64_hbm (s : State) (a : Nat) (v : Dword) : (s.setReg64 a v).hbm = s.hbm := rfl
@[simp] theorem State.setReg64_mrgnRecal (s : State) (a : Nat) (v : Dword) : (s.setReg64 a v).mrgnRecal = s.mrgnRecal := rfl
@[simp] theorem State.setReg64_mrgnUse (s : State) (a : Nat) (v : Dword) : (s.setReg64 a v).mrgnUse = s.mrgnUse := rfl
@[simp] theorem State.setReg64_mrgnLast (s : State) (a : Nat) (v : Dword) : (s.setReg64 a v).mrgnLast = s.mrgnLast := rfl
@[simp] theorem State.setReg64_trepel (s : State) (a : Nat) (v : Dword) : (s.setReg64 a v).trepel = s.trepel := rfl
@[simp] theorem State.setReg64_bndy (s : State) (a : Nat) (v : Dword) : (s.setReg64 a v).bndy = s.bndy := rfl
@[simp] theorem State.setReg64_fabric (s : State) (a : Nat) (v : Dword) : (s.setReg64 a v).fabric = s.fabric := rfl
@[simp] theorem State.setReg64_ctxs (s : State) (a : Nat) (v : Dword) : (s.setReg64 a v).ctxs = s.ctxs := rfl
@[simp] theorem State.setReg64_clusters (s : State) (a : Nat) (v : Dword) : (s.setReg64 a v).clusters = s.clusters := rfl
@[simp] theorem State.setReg64_ramps (s : State) (a : Nat) (v : Dword) : (s.setReg64 a v).ramps = s.ramps := rfl
@[simp] theorem State.setReg64_faults (s : State) (a : Nat) (v : Dword) : (s.setReg64 a v).faults = s.faults := rfl
@[simp] theorem State.setReg64_twin (s : State) (a : Nat) (v : Dword) : (s.setReg64 a v).twin = s.twin := rfl
@[simp] theorem State.setReg64_cadence (s : State) (a : Nat) (v : Dword) : (s.setReg64 a v).cadence = s.cadence := rfl
@[simp] theorem State.setReg64_smb (s : State) (a : Nat) (v : Dword) : (s.setReg64 a v).smb = s.smb := rfl
@[simp] theorem State.setReg64_jtag (s : State) (a : Nat) (v : Dword) : (s.setReg64 a v).jtag = s.jtag := rfl
@[simp] theorem State.setReg64_probe (s : State) (a : Nat) (v : Dword) : (s.setReg64 a v).probe = s.probe := rfl
@[simp] theorem State.setReg64_outputs (s : State) (a : Nat) (v : Dword) : (s.setReg64 a v).outputs = s.outputs := rfl
@[simp] theorem State.setReg64_fresh (s : State) (a : Nat) (v : Dword) : (s.setReg64 a v).fresh = s.fresh := rfl
@[simp] theorem State.setReg64_pending (s : State) (a : Nat) (v : Dword) : (s.setReg64 a v).pending = s.pending := rfl

/-! ### State.setRegBit -/

@[simp] theorem State.setRegBit_part (s : State) (a i : Nat) (b : Bool) : (s.setRegBit a i b).part = s.part := rfl
@[simp] theorem State.setRegBit_time (s : State) (a i : Nat) (b : Bool) : (s.setRegBit a i b).time = s.time := rfl
@[simp] theorem State.setRegBit_dev (s : State) (a i : Nat) (b : Bool) : (s.setRegBit a i b).dev = s.dev := rfl
@[simp] theorem State.setRegBit_prev (s : State) (a i : Nat) (b : Bool) : (s.setRegBit a i b).prev = s.prev := rfl
@[simp] theorem State.setRegBit_devSince (s : State) (a i : Nat) (b : Bool) : (s.setRegBit a i b).devSince = s.devSince := rfl
@[simp] theorem State.setRegBit_power (s : State) (a i : Nat) (b : Bool) : (s.setRegBit a i b).power = s.power := rfl
@[simp] theorem State.setRegBit_boot (s : State) (a i : Nat) (b : Bool) : (s.setRegBit a i b).boot = s.boot := rfl
@[simp] theorem State.setRegBit_flash (s : State) (a i : Nat) (b : Bool) : (s.setRegBit a i b).flash = s.flash := rfl
@[simp] theorem State.setRegBit_secu (s : State) (a i : Nat) (b : Bool) : (s.setRegBit a i b).secu = s.secu := rfl
@[simp] theorem State.setRegBit_audit (s : State) (a i : Nat) (b : Bool) : (s.setRegBit a i b).audit = s.audit := rfl
@[simp] theorem State.setRegBit_paths (s : State) (a i : Nat) (b : Bool) : (s.setRegBit a i b).paths = s.paths := rfl
@[simp] theorem State.setRegBit_mem (s : State) (a i : Nat) (b : Bool) : (s.setRegBit a i b).mem = s.mem := rfl
@[simp] theorem State.setRegBit_hbm (s : State) (a i : Nat) (b : Bool) : (s.setRegBit a i b).hbm = s.hbm := rfl
@[simp] theorem State.setRegBit_mrgnRecal (s : State) (a i : Nat) (b : Bool) : (s.setRegBit a i b).mrgnRecal = s.mrgnRecal := rfl
@[simp] theorem State.setRegBit_mrgnUse (s : State) (a i : Nat) (b : Bool) : (s.setRegBit a i b).mrgnUse = s.mrgnUse := rfl
@[simp] theorem State.setRegBit_mrgnLast (s : State) (a i : Nat) (b : Bool) : (s.setRegBit a i b).mrgnLast = s.mrgnLast := rfl
@[simp] theorem State.setRegBit_trepel (s : State) (a i : Nat) (b : Bool) : (s.setRegBit a i b).trepel = s.trepel := rfl
@[simp] theorem State.setRegBit_bndy (s : State) (a i : Nat) (b : Bool) : (s.setRegBit a i b).bndy = s.bndy := rfl
@[simp] theorem State.setRegBit_fabric (s : State) (a i : Nat) (b : Bool) : (s.setRegBit a i b).fabric = s.fabric := rfl
@[simp] theorem State.setRegBit_ctxs (s : State) (a i : Nat) (b : Bool) : (s.setRegBit a i b).ctxs = s.ctxs := rfl
@[simp] theorem State.setRegBit_clusters (s : State) (a i : Nat) (b : Bool) : (s.setRegBit a i b).clusters = s.clusters := rfl
@[simp] theorem State.setRegBit_ramps (s : State) (a i : Nat) (b : Bool) : (s.setRegBit a i b).ramps = s.ramps := rfl
@[simp] theorem State.setRegBit_faults (s : State) (a i : Nat) (b : Bool) : (s.setRegBit a i b).faults = s.faults := rfl
@[simp] theorem State.setRegBit_twin (s : State) (a i : Nat) (b : Bool) : (s.setRegBit a i b).twin = s.twin := rfl
@[simp] theorem State.setRegBit_cadence (s : State) (a i : Nat) (b : Bool) : (s.setRegBit a i b).cadence = s.cadence := rfl
@[simp] theorem State.setRegBit_smb (s : State) (a i : Nat) (b : Bool) : (s.setRegBit a i b).smb = s.smb := rfl
@[simp] theorem State.setRegBit_jtag (s : State) (a i : Nat) (b : Bool) : (s.setRegBit a i b).jtag = s.jtag := rfl
@[simp] theorem State.setRegBit_probe (s : State) (a i : Nat) (b : Bool) : (s.setRegBit a i b).probe = s.probe := rfl
@[simp] theorem State.setRegBit_outputs (s : State) (a i : Nat) (b : Bool) : (s.setRegBit a i b).outputs = s.outputs := rfl
@[simp] theorem State.setRegBit_fresh (s : State) (a i : Nat) (b : Bool) : (s.setRegBit a i b).fresh = s.fresh := rfl
@[simp] theorem State.setRegBit_pending (s : State) (a i : Nat) (b : Bool) : (s.setRegBit a i b).pending = s.pending := rfl

/-! ### State.emit -/

@[simp] theorem State.emit_part (s : State) (o : Out) : (s.emit o).part = s.part := rfl
@[simp] theorem State.emit_time (s : State) (o : Out) : (s.emit o).time = s.time := rfl
@[simp] theorem State.emit_dev (s : State) (o : Out) : (s.emit o).dev = s.dev := rfl
@[simp] theorem State.emit_prev (s : State) (o : Out) : (s.emit o).prev = s.prev := rfl
@[simp] theorem State.emit_devSince (s : State) (o : Out) : (s.emit o).devSince = s.devSince := rfl
@[simp] theorem State.emit_power (s : State) (o : Out) : (s.emit o).power = s.power := rfl
@[simp] theorem State.emit_boot (s : State) (o : Out) : (s.emit o).boot = s.boot := rfl
@[simp] theorem State.emit_flash (s : State) (o : Out) : (s.emit o).flash = s.flash := rfl
@[simp] theorem State.emit_secu (s : State) (o : Out) : (s.emit o).secu = s.secu := rfl
@[simp] theorem State.emit_audit (s : State) (o : Out) : (s.emit o).audit = s.audit := rfl
@[simp] theorem State.emit_regs (s : State) (o : Out) : (s.emit o).regs = s.regs := rfl
@[simp] theorem State.emit_paths (s : State) (o : Out) : (s.emit o).paths = s.paths := rfl
@[simp] theorem State.emit_mem (s : State) (o : Out) : (s.emit o).mem = s.mem := rfl
@[simp] theorem State.emit_hbm (s : State) (o : Out) : (s.emit o).hbm = s.hbm := rfl
@[simp] theorem State.emit_mrgnRecal (s : State) (o : Out) : (s.emit o).mrgnRecal = s.mrgnRecal := rfl
@[simp] theorem State.emit_mrgnUse (s : State) (o : Out) : (s.emit o).mrgnUse = s.mrgnUse := rfl
@[simp] theorem State.emit_mrgnLast (s : State) (o : Out) : (s.emit o).mrgnLast = s.mrgnLast := rfl
@[simp] theorem State.emit_trepel (s : State) (o : Out) : (s.emit o).trepel = s.trepel := rfl
@[simp] theorem State.emit_bndy (s : State) (o : Out) : (s.emit o).bndy = s.bndy := rfl
@[simp] theorem State.emit_fabric (s : State) (o : Out) : (s.emit o).fabric = s.fabric := rfl
@[simp] theorem State.emit_ctxs (s : State) (o : Out) : (s.emit o).ctxs = s.ctxs := rfl
@[simp] theorem State.emit_clusters (s : State) (o : Out) : (s.emit o).clusters = s.clusters := rfl
@[simp] theorem State.emit_ramps (s : State) (o : Out) : (s.emit o).ramps = s.ramps := rfl
@[simp] theorem State.emit_faults (s : State) (o : Out) : (s.emit o).faults = s.faults := rfl
@[simp] theorem State.emit_twin (s : State) (o : Out) : (s.emit o).twin = s.twin := rfl
@[simp] theorem State.emit_cadence (s : State) (o : Out) : (s.emit o).cadence = s.cadence := rfl
@[simp] theorem State.emit_smb (s : State) (o : Out) : (s.emit o).smb = s.smb := rfl
@[simp] theorem State.emit_jtag (s : State) (o : Out) : (s.emit o).jtag = s.jtag := rfl
@[simp] theorem State.emit_probe (s : State) (o : Out) : (s.emit o).probe = s.probe := rfl
@[simp] theorem State.emit_fresh (s : State) (o : Out) : (s.emit o).fresh = s.fresh := rfl
@[simp] theorem State.emit_pending (s : State) (o : Out) : (s.emit o).pending = s.pending := rfl

/-! ### Reads after writes -/

theorem State.ctx_setCtx {s : State} (h : s.keysRise = true) (c c' : Nat) (x : Ctx) :
    (s.setCtx c x).ctx c' = if c' = c then x else s.ctx c' := by
  simp only [State.keysRise, Bool.and_eq_true] at h
  exact NMap.get_set h.1.1.1.1 c x c'

theorem State.clus_setClus {s : State} (h : s.keysRise = true) (n n' : Nat) (x : Cluster) :
    (s.setClus n x).clus n' = if n' = n then x else s.clus n' := by
  simp only [State.keysRise, Bool.and_eq_true] at h
  exact NMap.get_set h.1.1.1.2 n x n'

theorem State.stack_setStack {s : State} (h : s.keysRise = true) (n n' : Nat) (x : Stack) :
    (s.setStack n x).stack n' = if n' = n then x else s.stack n' := by
  simp only [State.keysRise, Bool.and_eq_true] at h
  exact NMap.get_set h.1.1.2 n x n'

theorem State.path_setPath {s : State} (h : s.keysRise = true) (p p' : Nat) (x : PathState) :
    (s.setPath p x).path p' = if p' = p then x else s.path p' := by
  simp only [State.keysRise, Bool.and_eq_true] at h
  exact NMap.get_set h.1.2 p x p'

theorem State.port_setPort {s : State} (h : s.keysRise = true) (p p' : Nat) (x : Port) :
    (s.setPort p x).port p' = if p' = p then x else s.port p' := by
  simp only [State.keysRise, Bool.and_eq_true] at h
  exact NMap.get_set h.2 p x p'

theorem State.reg_setReg {s : State} (h : s.regsWf = true) (a a' : Nat) (v : Word) :
    (s.setReg a v).reg a' = if a' = a then v else s.reg a' :=
  NMap.get_set (NMap.wf_iff.1 h).1 a v a'

theorem State.regsWf_setReg {s : State} (h : s.regsWf = true) (a : Nat) (v : Word) : (s.setReg a v).regsWf = true :=
  NMap.wf_set a v h

theorem State.reg_setReg64 {s : State} (h : s.regsWf = true) (a a' : Nat) (v : Dword) :
    (s.setReg64 a v).reg a' = if a' = a + 4 then (v >>> 32).setWidth 32 else if a' = a then v.setWidth 32 else s.reg a' := by
  unfold State.setReg64
  rw [State.reg_setReg (State.regsWf_setReg h a _), State.reg_setReg h]

/-- A bit of a register reads as written; the register's other bits and the other registers are unchanged. -/
theorem State.reg_setRegBit {s : State} (h : s.regsWf = true) (a i a' : Nat) (b : Bool) :
    (s.setRegBit a i b).reg a' = if a' = a then (if b then s.reg a ||| ((1 : Word) <<< i) else s.reg a &&& ~~~((1 : Word) <<< i))
      else s.reg a' :=
  State.reg_setReg h a a' _

/-- A byte of memory after a write within one frame that is not being moved: the bytes written read as written, every other
byte as before. -/
theorem State.get_writePhys {s : State} (h : Memory.wf s.mem = true) (dpa : Nat) (bs : Bytes) (hd : s.dual dpa = none) (k : Nat) :
    NMap.get hbmClear (writePhys dpa bs s).mem k =
      if s.resolve dpa ≤ k ∧ k < s.resolve dpa + bs.length then bs[k - s.resolve dpa]?.getD 0 else NMap.get hbmClear s.mem k := by
  unfold writePhys
  rw [hd]
  exact NMap.get_setRun (NMap.wf_iff.1 h).1 _ _ k

end Sys2Proof.Machine
end

