-- ==== Sys2Proof/Laws/Records.lean ====
section
/-! SUPPORT. Raising events, counting and appending audit entries leave alone whatever `Recorded` says. -/

namespace Sys2Proof.Machine

-- One theorem after the other: checked all at once they take more threads than a checker has memory for.
set_option Elab.async false

/-! ### Steps -/

theorem Recorded.refl (k : List Nat) (s : State) : Recorded k s s :=
  ⟨⟨_, _, _, _, rfl⟩, fun _ _ _ _ => rfl, fun _ _ => ⟨_, _, _, rfl⟩, List.prefix_refl _⟩

/-- Recording in two parts, the first of which keeps the invariant's parts. -/
theorem Recorded.trans {k : List Nat} {s t u : State} (h : Recorded k s t) (hk : Keeps true s t) (g : Recorded k t u) :
    Recorded k s u := by
  refine ⟨?_, fun w a ha hk' => (g.regs (hk.regs w) a ha hk').trans (h.regs w a ha hk'), fun w c => ?_, h.outs.trans g.outs⟩
  · obtain ⟨r, a, c, o, rfl⟩ := h.frame
    obtain ⟨r', a', c', o', rfl⟩ := g.frame
    exact ⟨r', a', c', o', rfl⟩
  · obtain ⟨x, y, z, e⟩ := h.ctxs w c
    obtain ⟨x', y', z', e'⟩ := g.ctxs (hk.keys w) c
    exact ⟨x', y', z', e'.trans (by rw [e])⟩

/-- Fewer counters named, more left alone. -/
theorem Recorded.mono {k k' : List Nat} {s t : State} (h : Recorded k s t) (hk : ∀ a ∈ k, a ∈ k' ∨ recordReg a = true) :
    Recorded k' s t :=
  ⟨h.frame, fun w a ha hn => h.regs w a ha fun hm => (hk a hm).elim hn fun r => (Bool.eq_false_iff.1 ha) r, h.ctxs, h.outs⟩

/-- Recorded, and with the queue, the device state and the parts of the invariant kept. -/
def Rec (k : List Nat) (s t : State) : Prop := Recorded k s t ∧ Keeps true s t

theorem Rec.refl (k : List Nat) (s : State) : Rec k s s := ⟨.refl k s, .refl true s⟩

theorem Rec.trans {k : List Nat} {s t u : State} (h : Rec k s t) (g : Rec k t u) : Rec k s u :=
  ⟨h.1.trans h.2 g.1, h.2.trans g.2⟩

theorem Rec.mono {k k' : List Nat} {s t : State} (h : Rec k s t) (hk : ∀ a ∈ k, a ∈ k' ∨ recordReg a = true) : Rec k' s t :=
  ⟨h.1.mono hk, h.2⟩

/-! ### Single changes -/

theorem rec_setReg {k : List Nat} {s0 s : State} (a : Nat) (v : Word) (ha : a ∈ k ∨ recordReg a = true) (h : Rec k s0 s) :
    Rec k s0 (s.setReg a v) := by
  refine h.trans ⟨⟨⟨_, _, _, _, rfl⟩, fun w b hb hn => ?_, fun _ _ => ⟨_, _, _, rfl⟩, List.prefix_refl _⟩,
    State_setReg_keeps a v (.refl _ _)⟩
  rw [State.reg_setReg w, if_neg]
  rintro rfl
  exact ha.elim hn fun r => (Bool.eq_false_iff.1 hb) r

theorem rec_setReg64 {k : List Nat} {s0 s : State} (a : Nat) (v : Dword) (ha : a ∈ k ∨ recordReg a = true)
    (hb : a + 4 ∈ k ∨ recordReg (a + 4) = true) (h : Rec k s0 s) : Rec k s0 (s.setReg64 a v) :=
  rec_setReg _ _ hb (rec_setReg _ _ ha h)

theorem rec_emit {k : List Nat} {s0 s : State} (o : Out) (h : Rec k s0 s) : Rec k s0 (s.emit o) :=
  h.trans ⟨⟨⟨_, _, _, _, rfl⟩, fun _ _ _ _ => rfl, fun _ _ => ⟨_, _, _, rfl⟩, List.prefix_append _ _⟩, State_emit_keeps o (.refl _ _)⟩

/-- The audit logic may change freely, as long as its ring stays one chain. -/
theorem rec_audit {k : List Nat} {s0 s : State} (x : Audit) (hx : s.audit.chained = true → x.chained = true) (h : Rec k s0 s) :
    Rec k s0 { s with audit := x } :=
  h.trans ⟨⟨⟨_, _, _, _, rfl⟩, fun _ _ _ _ => rfl, fun _ _ => ⟨_, _, _, rfl⟩, List.prefix_refl _⟩,
    ⟨rfl, rfl, List.prefix_refl _, Nat.le_refl _, id, id, id, hx, id, fun _ => ⟨rfl, rfl⟩⟩⟩

/-- A context whose rings and event buffer change. -/
theorem rec_setCtx {k : List Nat} {s0 s : State} (c : Nat) (g : NMap Ring) (b : List ERec) (l : Bool) (h : Rec k s0 s) :
    Rec k s0 (s.setCtx c { s.ctx c with rings := g, evBuf := b, evLost := l }) := by
  refine h.trans ⟨⟨⟨_, _, _, _, rfl⟩, fun _ _ _ _ => rfl, fun w d => ?_, List.prefix_refl _⟩, State_setCtx_keeps c _ (.refl _ _)⟩
  rw [State.ctx_setCtx w]
  split
  · next e => exact ⟨g, b, l, by rw [e]⟩
  · exact ⟨_, _, _, rfl⟩

theorem rec_setRing {k : List Nat} {s0 s : State} (c r : Nat) (g : Ring) (h : Rec k s0 s) : Rec k s0 (s.setRing c r g) :=
  rec_setCtx c _ (s.ctx c).evBuf (s.ctx c).evLost h

theorem rec_ite {k : List Nat} {s0 a b : State} {p : Prop} [Decidable p] (ha : Rec k s0 a) (hb : Rec k s0 b) :
    Rec k s0 (if p then a else b) := by
  split <;> assumption

theorem rec_foldl {α : Type} {k : List Nat} {s0 : State} (f : State → α → State) (hf : ∀ t x, Rec k s0 t → Rec k s0 (f t x)) :
    ∀ (l : List α) {s : State}, Rec k s0 s → Rec k s0 (l.foldl f s)
  | [], _, h => h
  | x :: l, _, h => rec_foldl f hf l (hf _ x h)

/-! ### Counters and entries -/

theorem rec_countRaw {k : List Nat} {s0 s : State} (a n : Nat) (ha : a ∈ k ∨ recordReg a = true)
    (hb : a + 4 ∈ k ∨ recordReg (a + 4) = true) (h : Rec k s0 s) : Rec k s0 (countRaw a n s).1 := by
  unfold countRaw
  repeat' split
  · exact h
  · exact rec_setReg64 a _ ha hb h
  · exact h
  · exact rec_setReg _ _ hb (rec_setReg _ _ ha h)

theorem rec_countWith {k : List Nat} {s0 s : State} {rz : ERec → State → State} (hrz : ∀ e t, Rec k s0 t → Rec k s0 (rz e t))
    (a n : Nat) (ha : a ∈ k ∨ recordReg a = true) (hb : a + 4 ∈ k ∨ recordReg (a + 4) = true) (h : Rec k s0 s) :
    Rec k s0 (countWith rz a n s) := by
  have hc := rec_countRaw (s := s) a n ha hb h
  unfold countWith
  split
  next e =>
    rw [e] at hc
    exact rec_ite (hrz _ _ hc) hc

theorem rec_auditAppend {k : List Nat} {s0 s : State} (e : AuditEntry) (h : Rec k s0 s) : Rec k s0 (auditAppend e s) := by
  have hp : ∀ (e : AuditEntry) (t : State), Rec k s0 t → Rec k s0 (auditPush e t) := fun e t ht =>
    rec_audit _ (auditPush_keeps (b := true) (s0 := t) (s := t) e (.refl _ _)).audit ht
  unfold auditAppend auditGap
  refine hp _ _ ?_
  split
  · exact h
  · exact hp _ _ (rec_audit _ id h)

theorem rec_auditHwWith {k : List Nat} {s0 s : State} {rz : ERec → State → State} (hrz : ∀ e t, Rec k s0 t → Rec k s0 (rz e t))
    (e : AuditEntry) (h : Rec k s0 s) : Rec k s0 (auditHwWith rz e s) := by
  unfold auditHwWith
  split
  · exact rec_auditAppend _ h
  · split
    · exact rec_audit _ id h
    · dsimp only
      have hc := rec_countWith hrz (s := { s with audit := { s.audit with lostRun := s.audit.lostRun + 1 } }) (aAudt 0x40) 1
        (.inr (by decide)) (.inr (by decide)) (rec_audit _ id h)
      exact rec_ite (hrz _ _ hc) hc

/-! ### Events -/

theorem rec_sendMsi {k : List Nat} {s0 s : State} (c r : Nat) (h : Rec k s0 s) : Rec k s0 (sendMsi c r s) := rec_emit _ h

theorem rec_ringError {k : List Nat} {s0 s : State} (c r : Nat) (x : BitVec 3) (h : Rec k s0 s) : Rec k s0 (ringError c r x s) := by
  unfold ringError
  exact rec_ite (rec_sendMsi _ _ (rec_setRing _ _ _ h)) (rec_setRing _ _ _ h)

theorem rec_noteRecord {k : List Nat} {s0 s : State} (c r : Nat) (h : Rec k s0 s) : Rec k s0 (noteRecord c r s) := by
  unfold noteRecord
  exact rec_ite (rec_sendMsi _ _ (rec_setRing _ _ _ h)) (rec_setRing _ _ _ h)

theorem rec_putRecord {k : List Nat} {s0 s : State} (c r : Nat) (line : Bytes) (h : Rec k s0 s) : Rec k s0 (putRecord c r line s) := by
  unfold putRecord
  exact rec_noteRecord _ _ (rec_emit _ (rec_setRing _ _ _ (rec_emit _ (rec_emit _ h))))

theorem recordReg_lost (c : Nat) : recordReg (aCtx c 0x30) = true ∧ recordReg (aCtx c 0x30 + 4) = true := by
  have h1 : (aCtx c 0x30) % 0x400 = 0x30 := by unfold aCtx; omega
  have h2 : (aCtx c 0x30 + 4) % 0x400 = 0x34 := by unfold aCtx; omega
  have h3 : 0x100000 ≤ aCtx c 0x30 := by unfold aCtx; omega
  constructor
  · unfold recordReg; rw [h1]; simp [h3]
  · unfold recordReg; rw [h2]; simp only [Bool.or_eq_true, Bool.and_eq_true, decide_eq_true_eq]; exact .inr ⟨by omega, .inr rfl⟩

theorem rec_bufferEventWith {k : List Nat} {s0 s : State} {rz : ERec → State → State} (hrz : ∀ e t, Rec k s0 t → Rec k s0 (rz e t))
    (c : Nat) (e : ERec) (h : Rec k s0 s) : Rec k s0 (bufferEventWith rz c e s) := by
  unfold bufferEventWith
  dsimp only
  split
  · exact rec_setCtx c (s.ctx c).rings _ (s.ctx c).evLost h
  · exact rec_countWith hrz _ _ (.inr (recordReg_lost c).1) (.inr (recordReg_lost c).2)
      (rec_setCtx c (s.ctx c).rings (s.ctx c).evBuf true h)

theorem rec_ringOutsideWith {k : List Nat} {s0 s : State} {rz : ERec → State → State} (hrz : ∀ e t, Rec k s0 t → Rec k s0 (rz e t))
    (c r : Nat) (h : Rec k s0 s) : Rec k s0 (ringOutsideWith rz c r s) := by
  unfold ringOutsideWith violationWith
  exact rec_ringError _ _ _ (rec_auditHwWith hrz _ (rec_countWith hrz _ _ (.inr (by decide)) (.inr (by decide)) h))

theorem rec_deliverWith {k : List Nat} {s0 s : State} {rz : ERec → State → State} (hrz : ∀ e t, Rec k s0 t → Rec k s0 (rz e t))
    (c : Nat) (e : ERec) (h : Rec k s0 s) : Rec k s0 (deliverWith rz c e s) := by
  unfold deliverWith
  dsimp only
  repeat' split
  · refine rec_setCtx c _ _ false ?_
    exact rec_putRecord _ _ _ h
  · exact rec_bufferEventWith hrz _ _ (rec_ringOutsideWith hrz _ _ h)
  · exact rec_bufferEventWith hrz _ _ h

theorem rec_raiseN {k : List Nat} {s0 : State} : ∀ (n : Nat) (e : ERec) {s : State}, Rec k s0 s → Rec k s0 (raiseN n e s)
  | 0, _, _, h => h
  | n + 1, e, s, h => by
    have hr : ∀ e t, Rec k s0 t → Rec k s0 (raiseN n e t) := fun e t ht => rec_raiseN n e ht
    rw [raiseN]
    split
    · exact rec_foldl _ (fun t x ht => rec_deliverWith hr _ _ ht) _ h
    · exact rec_deliverWith hr _ _ h

theorem rec_raise {k : List Nat} {s0 s : State} (e : ERec) (h : Rec k s0 s) : Rec k s0 (raise e s) := by
  unfold raise
  exact rec_raiseN 72 e h

/-- Raising an event is recording. -/
theorem raise_rec (e : ERec) (s : State) : Rec [] s (raise e s) := rec_raise e (.refl _ _)

theorem rec_raiseDev {k : List Nat} {s0 s : State} (code : BitVec 16) (sev : Byte) (unit : Nat) (d : Bytes) (h : Rec k s0 s) :
    Rec k s0 (raiseDev code sev unit d s) := rec_raise _ h

theorem rec_raiseCtx {k : List Nat} {s0 s : State} (c : Nat) (code : BitVec 16) (sev : Byte) (unit : Nat) (d : Bytes) (h : Rec k s0 s) :
    Rec k s0 (raiseCtx c code sev unit d s) := rec_raise _ h

theorem rec_raiseWho {k : List Nat} {s0 s : State} (w : Who) (code : BitVec 16) (sev : Byte) (unit : Nat) (d : Bytes) (h : Rec k s0 s) :
    Rec k s0 (raiseWho w code sev unit d s) := rec_raise _ h

/-- Counting moves the counter named, and otherwise records. -/
theorem rec_count {k : List Nat} {s0 s : State} (a n : Nat) (ha : a ∈ k ∨ recordReg a = true)
    (hb : a + 4 ∈ k ∨ recordReg (a + 4) = true) (h : Rec k s0 s) : Rec k s0 (count a n s) :=
  rec_countWith (fun _ _ ht => rec_raise _ ht) a n ha hb h

theorem rec_auditHw {k : List Nat} {s0 s : State} (e : AuditEntry) (h : Rec k s0 s) : Rec k s0 (auditHw e s) :=
  rec_auditHwWith (fun _ _ ht => rec_raise _ ht) e h

theorem rec_auditState {k : List Nat} {s0 s : State} (b w u x y : Nat) (h : Rec k s0 s) : Rec k s0 (auditState b w u x y s) :=
  rec_auditHw _ h

theorem rec_auditAction {k : List Nat} {s0 s : State} (b x u : Nat) (h : Rec k s0 s) : Rec k s0 (auditAction b x u s) := rec_auditHw _ h

theorem rec_violation {k : List Nat} {s0 s : State} (u : Nat) (h : Rec k s0 s) : Rec k s0 (violation u s) := by
  unfold violation violationWith
  exact rec_auditHw _ (rec_count _ _ (.inr (by decide)) (.inr (by decide)) h)

end Sys2Proof.Machine
end

