-- ==== Sys2Proof/Laws/Writes.lean ====
section
/-! SUPPORT. Writes of registers that take effect at once: what they are, once the register is located. -/

namespace Sys2Proof.Machine

-- One theorem after the other: checked all at once they take more threads than a checker has memory for.
set_option Elab.async false

theorem flushReserve_empty {s : State} (n : Nat) (h : s.audit.reserve = []) : flushReserve n s = s := by
  cases n with
  | zero => rfl
  | succ n => simp [flushReserve, h]

theorem auditRoom_of {s : State} {p : Path} {a : Nat} {v : Word} (h : s.Takes p a v) : 64 ≤ s.auditRoom := by
  have := h.room
  unfold State.auditRoom
  rw [h.reserve, h.gapless]
  simp only [List.length_nil, bne_self_eq_false, bit]
  simp only [Bool.false_eq_true, if_false]
  omega

/-- A write that is not refused for room or waiting goes to its register. -/
theorem writeReg_one {s : State} {p : Path} {a : Nat} {v : Word} (h : s.Takes p a v) (ha : findAlias a = none) (h27 : a < 2 ^ 27)
    (h4 : a % 4 = 0) (tok : Option SignedObj) (c : Instr) : regWrite p a v tok c s = writeOne p a v tok s := by
  have hr := auditRoom_of h
  have he : s.entriesOf p a v ≤ 3 := by
    unfold State.entriesOf
    rw [ha]
    dsimp only
    have hb : ∀ b : Bool, bit b ≤ 1 := by decide
    have := hb (s.discards p a).isSome
    have := hb ((decide (a = aFabr 0x18) || decide (a = aFabr 0x208)) && v.getLsbD 1)
    cases hl : locate a with
    | none => dsimp only; omega
    | some l => dsimp only; split <;> omega
  unfold regWrite
  rw [if_neg (fun e => e.elim (fun e => e h.up) (fun e => absurd e (by omega))), if_neg (by simp [h4]), if_neg (by simp [h.waits]), if_neg (by omega)]
  unfold discardStaged
  rw [h.kept, ha]

/-- A write of a register of 32 bits that is applied: its entry, the bits stored, and what the block does. -/
theorem write_applied {s : State} {p : Path} {a : Nat} {v : Word} {l : RegLoc} (h : s.Takes p a v) (ha : findAlias a = none)
    (h27 : a < 2 ^ 27) (h4 : a % 4 = 0) (hl : locate a = some l) (h1 : l.row.half = .one) (hr : l.row.readOnly = false) (hk : isAck a = false)
    (tok : Option SignedObj) (c : Instr) (w : RegWr) (hw : w = { path := p, loc := l, addr := a, val := v.toNat, tok := tok })
    (hv : w.verdict s = .applied) :
    regWrite p a v tok c s = hookRun w (s.entered p a v.toNat false) (storeWr w (s.entered p a v.toNat false)) := by
  rw [writeReg_one h ha h27 h4]
  have hl' : ({ l with row := { l.row with half := .one } } : RegLoc) = l := by
    cases l with | mk b i r k => cases r; simp at h1; simp [h1]
  unfold writeOne
  rw [hl]
  dsimp only
  rw [hr, if_neg (by simp), h1]
  dsimp only
  rw [hl', ← hw, hv]
  unfold landWrite appendOrigin countVerdict
  dsimp only
  subst hw
  dsimp only
  rw [flushReserve_empty _ h.reserve, hk, h1]
  rfl

/-- An entry changes nothing but the ledger. -/
theorem entered_frame (s : State) (p : Path) (a v : Nat) (b : Bool) : ∃ x, s.entered p a v b = { s with audit := x } := by
  unfold State.entered auditAppend auditGap
  split
  · exact ⟨_, rfl⟩
  · exact ⟨_, rfl⟩

theorem entered_reg (s : State) (p : Path) (a v : Nat) (b : Bool) : (s.entered p a v b).reg = s.reg := by
  obtain ⟨x, h⟩ := entered_frame s p a v b
  rw [h]; rfl

theorem entered_ctx (s : State) (p : Path) (a v : Nat) (b : Bool) (c : Nat) : (s.entered p a v b).ctx c = s.ctx c := by
  obtain ⟨x, h⟩ := entered_frame s p a v b
  rw [h]; rfl

theorem storeWr_frame (w : RegWr) (s : State) : ∃ r, storeWr w s = { s with regs := r } := by
  unfold storeWr
  split
  · exact ⟨_, rfl⟩
  · split
    · split
      · exact ⟨_, rfl⟩
      · exact ⟨_, rfl⟩
    · exact ⟨_, rfl⟩

/-- Storing a write changes nothing but the registers and the ledger. -/
theorem stored_frame (s : State) (p : Path) (a : Nat) (v : Word) : ∃ r x, s.stored p a v = { s with regs := r, audit := x } := by
  obtain ⟨x, h⟩ := entered_frame s p a v.toNat false
  unfold State.stored
  dsimp only
  split
  · exact ⟨_, _, h⟩
  · obtain ⟨r, h'⟩ := storeWr_frame ‹_› (s.entered p a v.toNat false)
    rw [h', h]
    exact ⟨_, _, rfl⟩

theorem storedPair_frame (s : State) (p : Path) (a v : Nat) :
    ∃ r x, s.storedPair p a v = { unstage p s with regs := r, audit := x } := by
  obtain ⟨x, h⟩ := entered_frame (unstage p s) p a v true
  unfold State.storedPair
  dsimp only
  split
  · exact ⟨_, _, h⟩
  · obtain ⟨r, h'⟩ := storeWr_frame ‹_› ((unstage p s).entered p a v true)
    rw [h', h]
    exact ⟨_, _, rfl⟩

theorem stored_ctx (s : State) (p : Path) (a : Nat) (v : Word) (c : Nat) : (s.stored p a v).ctx c = s.ctx c := by
  obtain ⟨r, x, h⟩ := stored_frame s p a v
  rw [h]; rfl

/-- The same for a pair, at the write of its `_HI`. -/
theorem write_pair {s : State} {p : Path} {a : Nat} {v : Word} {l lo : RegLoc} (h : s.Takes p (a + 4) v) (ha : findAlias (a + 4) = none)
    (h27 : a + 4 < 2 ^ 27) (h4 : a % 4 = 0) (hl : locate (a + 4) = some l) (h1 : l.row.half = .hi) (hr : l.row.readOnly = false)
    (hl2 : locate a = some lo) (h2 : lo.row.half = .lo) (hk : isAck a = false) (tok : Option SignedObj) (c : Instr) (w : RegWr)
    (hw : w = { path := p, loc := lo, addr := a, val := s.pairValue p a a v, tok := tok }) (hv : w.verdict s = .applied) :
    regWrite p (a + 4) v tok c s =
      hookRun w ((unstage p s).entered p a w.val true) (storeWr w ((unstage p s).entered p a w.val true)) := by
  rw [writeReg_one h ha h27 (by omega)]
  unfold writeOne
  rw [hl]
  dsimp only
  rw [hr, if_neg (by simp), h1]
  dsimp only
  rw [Nat.add_sub_cancel, hl2]
  dsimp only
  rw [← hw, hv]
  unfold landWrite appendOrigin countVerdict
  dsimp only
  subst hw
  dsimp only
  rw [flushReserve_empty _ (show (unstage p s).audit.reserve = [] from h.reserve), hk, h2]
  rfl

/-- A write of a 32-bit register that changes nothing lands with its verdict. -/
theorem write_lands {s : State} {p : Path} {a : Nat} {v : Word} {l : RegLoc} (hp : regWrite p a v none (.registerWrite p (BitVec.ofNat 27 a) v) s
    = writeOne p a v none s) (hl : locate a = some l) (h1 : l.row.half = .one) (w : RegWr)
    (hw : w = { path := p, loc := l, addr := a, val := v.toNat, tok := none }) :
    writeReg p a v s = landWrite w (w.verdict s) (countVerdict p (w.verdict s) s) := by
  unfold writeReg
  rw [hp]
  have hl' : ({ l with row := { l.row with half := .one } } : RegLoc) = l := by
    cases l with | mk b i r k => cases r; simp at h1; simp [h1]
  unfold writeOne
  rw [hl]
  dsimp only
  rw [h1]
  simp only [ite_self, hl']
  rw [← hw]

/-- A row that `findRow` answers is one of the list. -/
theorem findRow_mem {rs : List RegRow} {off : Nat} {r : RegRow} {k : Nat} (h : findRow rs off = some (r, k)) : r ∈ rs := by
  induction rs with
  | nil => cases h
  | cons x t ih =>
    unfold findRow at h
    split at h
    · cases h; exact List.mem_cons_self
    · exact List.mem_cons_of_mem _ (ih h)

theorem findBlk_mem {bs : List BlkRow} {a : Nat} {b : BlkRow} (h : findBlk bs a = some b) : b ∈ bs := by
  induction bs with
  | nil => cases h
  | cons x t ih =>
    unfold findBlk at h
    split at h
    · cases h; exact List.mem_cons_self
    · exact List.mem_cons_of_mem _ (ih h)

/-- A located register is a row of its block's table, or one of an uplink's registers on another port, which is reserved there. -/
theorem locate_row {a : Nat} {l : RegLoc} (h : locate a = some l) :
    ∃ b ∈ blkRows, l.blk = b.blk ∧ ∃ r ∈ b.rows, l.row.off = r.off ∧ (l.row = r ∨ (r.uplink = true ∧ l.row.readOnly = true ∧ l.row.half = .one)) := by
  unfold locate at h
  split at h
  · cases h
  next b hb =>
    split at h
    · cases h
    next r k hr =>
      refine ⟨b, findBlk_mem hb, ?_⟩
      split at h
      next hu => cases h; exact ⟨rfl, r, findRow_mem hr, rfl, .inr ⟨hu.1, rfl, rfl⟩⟩
      next => cases h; exact ⟨rfl, r, findRow_mem hr, rfl, .inl rfl⟩

/-- The registers whose writes do more than store bits. -/
def hooked : List (Blk × Nat) :=
  [(.gctl, 0x10), (.gctl, 0x20), (.gctl, 0x28), (.gctl, 0x30), (.rstc, 0xC), (.rstc, 0x10), (.rstc, 0x1C), (.audt, 0x50),
    (.secu, 0x1C), (.secu, 0x24), (.secu, 0x30), (.secu, 0x38), (.bndy, 0x18), (.bndy, 0x2C), (.bndy, 0x40), (.bndy, 0x80), (.bndy, 0x10C), (.ctxr, 0),
    (.ctxr, 4), (.ctxr, 0x108), (.ctxr, 0x120), (.probe, 0x10), (.comt, 0), (.comtDev, 0), (.comtDev, 0x14), (.comtDev, 0x1C),
    (.comtDev, 0x3C), (.comtDev, 0x24), (.clus, 0), (.hbmc, 0), (.fabr, 0x18), (.fabr, 0x48), (.fabr, 0x200), (.fabr, 0x208), (.port, 0),
    (.trpl, 0), (.flsh, 0)]

theorem hook_gctl {w : RegWr} (s0 s : State) (h : (Blk.gctl, w.off) ∉ hooked) : gctlHook w s0 s = s := by
  unfold gctlHook; split <;> first | (next e => rw [e] at h; exact absurd (by decide) h) | rfl
theorem hook_rstc {w : RegWr} (s0 s : State) (h : (Blk.rstc, w.off) ∉ hooked) : rstcHook w s0 s = s := by
  unfold rstcHook; split <;> first | (next e => rw [e] at h; exact absurd (by decide) h) | rfl
theorem hook_secu {w : RegWr} (s : State) (h : (Blk.secu, w.off) ∉ hooked) : secuHook w s = s := by
  unfold secuHook; split <;> first | (next e => rw [e] at h; exact absurd (by decide) h) | rfl
theorem hook_bndy {w : RegWr} (s0 s : State) (h : (Blk.bndy, w.off) ∉ hooked) : bndyHook w s0 s = s := by
  unfold bndyHook; split <;> first | (next e => rw [e] at h; exact absurd (by decide) h) | rfl
theorem hook_ctxr {w : RegWr} (s0 s : State) (h : (Blk.ctxr, w.off) ∉ hooked) : ctxrHook w s0 s = s := by
  unfold ctxrHook; dsimp only; split <;> first | (next e => rw [e] at h; exact absurd (by decide) h) | rfl
theorem hook_comtDev {w : RegWr} (s : State) (h : (Blk.comtDev, w.off) ∉ hooked) : comtDevHook w s = s := by
  unfold comtDevHook; split <;> first | (next e => rw [e] at h; exact absurd (by decide) h) | rfl
theorem hook_fabr {w : RegWr} (s : State) (h : (Blk.fabr, w.off) ∉ hooked) : fabrHook w s = s := by
  unfold fabrHook; split <;> first | (next e => rw [e] at h; exact absurd (by decide) h) | rfl

/-- Nothing more happens at a write of any other register. -/
theorem hookRun_other {w : RegWr} (s0 s : State) (h : (w.loc.blk, w.off) ∉ hooked) : hookRun w s0 s = s := by
  unfold hookRun
  split
  all_goals (rename_i e; rw [e] at h)
  · exact hook_gctl s0 s h
  · exact hook_rstc s0 s h
  · rw [if_neg (fun e => by rw [e] at h; exact absurd (by decide) h)]
  · exact hook_secu s h
  · exact hook_bndy s0 s h
  · exact hook_ctxr s0 s h
  · rw [if_neg (fun e => by rw [e] at h; exact absurd (by decide) h)]
  · rw [if_neg (fun e => by rw [e] at h; exact absurd (by decide) h)]
  · exact hook_comtDev s h
  · rw [if_neg (fun e => by rw [e] at h; exact absurd (by decide) h)]
  · rw [if_neg (fun e => by rw [e] at h; exact absurd (by decide) h)]
  · exact hook_fabr s h
  · rw [if_neg (fun e => by rw [e] at h; exact absurd (by decide) h)]
  · rw [if_neg (fun e => by rw [e] at h; exact absurd (by decide) h)]
  · rw [if_neg (fun e => by rw [e.1] at h; exact absurd (by decide) h)]
  all_goals rfl

/-- Nothing happens at a write of a register that has no bit to write. -/
theorem hookRun_readOnly {a : Nat} {l : RegLoc} (hl : locate a = some l) (hr : l.row.readOnly = true) (w : RegWr) (hb : w.loc.blk = l.blk)
    (ho : w.loc.row.off = l.row.off) (s0 s : State) : hookRun w s0 s = s := by
  have hx : ∀ b ∈ blkRows, ∀ r ∈ b.rows, (r.readOnly = true ∨ r.uplink = true) → (b.blk, r.off) ∉ hooked := by decide +kernel
  obtain ⟨b, hbm, e1, r, hrm, e2, e3⟩ := locate_row hl
  have h := hx b hbm r hrm (e3.elim (fun e => .inl (e ▸ hr)) (fun e => .inr e.1))
  rw [← e1, ← e2, ← hb, ← ho] at h
  exact hookRun_other s0 s h

/-- A register of 32 bits that a write acts on, and where it lies. -/
structure Placed (a : Nat) (l : RegLoc) : Prop where
  loc : locate a = some l
  one : l.row.half = .one
  acts : l.row.readOnly = false
  plain : findAlias a = none
  low : a < 2 ^ 27
  aligned : a % 4 = 0
  noAck : isAck a = false

/-- A pair that a write acts on, and where it lies. -/
structure PlacedPair (a : Nat) (lo hi : RegLoc) : Prop where
  loc : locate a = some lo
  locHi : locate (a + 4) = some hi
  half : lo.row.half = .lo
  halfHi : hi.row.half = .hi
  acts : hi.row.readOnly = false
  plain : findAlias (a + 4) = none
  low : a + 4 < 2 ^ 27
  aligned : a % 4 = 0
  noAck : isAck a = false

theorem write_stored {s : State} {p : Path} {a : Nat} {v : Word} {l : RegLoc} (h : s.Takes p a v) (hp : Placed a l)
    (hv : RegWr.verdict { path := p, loc := l, addr := a, val := v.toNat, tok := none } s = .applied) :
    writeReg p a v s = hookRun { path := p, loc := l, addr := a, val := v.toNat, tok := none } (s.entered p a v.toNat false) (s.stored p a v) := by
  unfold writeReg
  rw [write_applied h hp.plain hp.low hp.aligned hp.loc hp.one hp.acts hp.noAck none _ _ rfl hv]
  unfold State.stored theWrite
  rw [hp.loc]
  rfl

theorem write_storedPair {s : State} {p : Path} {a : Nat} {v : Word} {lo hi : RegLoc} (h : s.Takes p (a + 4) v) (hp : PlacedPair a lo hi)
    (hv : RegWr.verdict { path := p, loc := lo, addr := a, val := s.pairValue p a a v, tok := none } s = .applied) :
    writeReg p (a + 4) v s = hookRun { path := p, loc := lo, addr := a, val := s.pairValue p a a v, tok := none }
      ((unstage p s).entered p a (s.pairValue p a a v) true) (s.storedPair p a (s.pairValue p a a v)) := by
  unfold writeReg
  rw [write_pair h hp.plain hp.low hp.aligned hp.locHi hp.halfHi hp.acts hp.loc hp.half hp.noAck none _ _ rfl hv]
  unfold State.storedPair theWrite
  rw [hp.loc]
  rfl

/-! ### Where registers lie (R482) -/

theorem placed_clus (c : Fin 512) : Placed (aClus c 0) ⟨.clus, c, { off := 0, rw := 2, w1s := 0xD }, 0⟩ := by
  have h : ∀ (c : Fin 512), locate (aClus c 0) = some ⟨.clus, c, { off := 0, rw := 2, w1s := 0xD }, 0⟩ ∧ findAlias (aClus c 0) = none ∧ (aClus c 0) < 2 ^ 27 ∧ (aClus c 0) % 4 = 0 ∧ isAck (aClus c 0) = false := by
    decide +kernel
  exact ⟨(h c).1, rfl, rfl, (h c).2.1, (h c).2.2.1, (h c).2.2.2.1, (h c).2.2.2.2⟩

theorem placed_clusInject (c : Fin 512) : Placed (aClus c 0x40) ⟨.clus, c, { off := 0x40, rw := allBits }, 0⟩ := by
  have h : ∀ (c : Fin 512), locate (aClus c 0x40) = some ⟨.clus, c, { off := 0x40, rw := allBits }, 0⟩ ∧ findAlias (aClus c 0x40) = none ∧ (aClus c 0x40) < 2 ^ 27 ∧ (aClus c 0x40) % 4 = 0 ∧ isAck (aClus c 0x40) = false := by
    decide +kernel
  exact ⟨(h c).1, rfl, rfl, (h c).2.1, (h c).2.2.1, (h c).2.2.2.1, (h c).2.2.2.2⟩

theorem placed_ctx (c : Fin 64) : Placed (aCtx c 0) ⟨.ctxr, c, { off := 0, rw := 1, w1s := 6 }, 0⟩ := by
  have h : ∀ (c : Fin 64), locate (aCtx c 0) = some ⟨.ctxr, c, { off := 0, rw := 1, w1s := 6 }, 0⟩ ∧ findAlias (aCtx c 0) = none ∧ (aCtx c 0) < 2 ^ 27 ∧ (aCtx c 0) % 4 = 0 ∧ isAck (aCtx c 0) = false := by
    decide +kernel
  exact ⟨(h c).1, rfl, rfl, (h c).2.1, (h c).2.2.1, (h c).2.2.2.1, (h c).2.2.2.2⟩

theorem placed_htab (c : Fin 64) : Placed (aCtx c 0x20) ⟨.ctxr, c, { off := 0x20, rw := allBits, cfg := true }, 0⟩ := by
  have h : ∀ (c : Fin 64), locate (aCtx c 0x20) = some ⟨.ctxr, c, { off := 0x20, rw := allBits, cfg := true }, 0⟩ ∧ findAlias (aCtx c 0x20) = none ∧ (aCtx c 0x20) < 2 ^ 27 ∧ (aCtx c 0x20) % 4 = 0 ∧ isAck (aCtx c 0x20) = false := by
    decide +kernel
  exact ⟨(h c).1, rfl, rfl, (h c).2.1, (h c).2.2.1, (h c).2.2.2.1, (h c).2.2.2.2⟩

theorem placed_ring (c : Fin 64) (r : Fin 8) : Placed (aRing c r 8) ⟨.ctxr, c, { off := 0x108, count := 8, stride := 64, rw := 0x1F03, reset := 0x600 }, r⟩ := by
  have h : ∀ (c : Fin 64) (r : Fin 8), locate (aRing c r 8) = some ⟨.ctxr, c, { off := 0x108, count := 8, stride := 64, rw := 0x1F03, reset := 0x600 }, r⟩ ∧ findAlias (aRing c r 8) = none ∧ (aRing c r 8) < 2 ^ 27 ∧ (aRing c r 8) % 4 = 0 ∧ isAck (aRing c r 8) = false := by
    decide +kernel
  exact ⟨(h c r).1, rfl, rfl, (h c r).2.1, (h c r).2.2.1, (h c r).2.2.2.1, (h c r).2.2.2.2⟩

theorem placed_rstcCtrl : Placed (aRstc 0x0C) ⟨.rstc, 0, { off := 0x0C, rw := 6, w1s := 9 }, 0⟩ := by
  exact ⟨by decide +kernel, rfl, rfl, by decide +kernel, by decide, by decide, by decide⟩

theorem placed_rstcReq : Placed (aRstc 0x10) ⟨.rstc, 0, { off := 0x10, w1s := 0x1F07 }, 0⟩ := by
  exact ⟨by decide +kernel, rfl, rfl, by decide +kernel, by decide, by decide, by decide⟩

theorem placed_rstcKick : Placed (aRstc 0x1C) ⟨.rstc, 0, { off := 0x1C, w1s := allBits }, 0⟩ := by
  exact ⟨by decide +kernel, rfl, rfl, by decide +kernel, by decide, by decide, by decide⟩

theorem placed_hbmc (n : Fin 12) : Placed (aHbmc n 0) ⟨.hbmc, n, { off := 0, w1s := 7 }, 0⟩ := by
  have h : ∀ (n : Fin 12), locate (aHbmc n 0) = some ⟨.hbmc, n, { off := 0, w1s := 7 }, 0⟩ ∧ findAlias (aHbmc n 0) = none ∧ (aHbmc n 0) < 2 ^ 27 ∧ (aHbmc n 0) % 4 = 0 ∧ isAck (aHbmc n 0) = false := by
    decide +kernel
  exact ⟨(h n).1, rfl, rfl, (h n).2.1, (h n).2.2.1, (h n).2.2.2.1, (h n).2.2.2.2⟩

theorem placed_port (n : Fin 9) : Placed (aPort n 0) ⟨.port, n, { off := 0, rw := 0x3D, lock := 0x3C, w1s := 0x42 }, 0⟩ := by
  have h : ∀ (n : Fin 9), locate (aPort n 0) = some ⟨.port, n, { off := 0, rw := 0x3D, lock := 0x3C, w1s := 0x42 }, 0⟩ ∧ findAlias (aPort n 0) = none ∧ (aPort n 0) < 2 ^ 27 ∧ (aPort n 0) % 4 = 0 ∧ isAck (aPort n 0) = false := by
    decide +kernel
  exact ⟨(h n).1, rfl, rfl, (h n).2.1, (h n).2.2.1, (h n).2.2.2.1, (h n).2.2.2.2⟩

theorem placed_trpl : Placed (aTrpl 0) ⟨.trpl, 0, { off := 0, rw := 0xC, lock := 0xC, w1s := 3 }, 0⟩ := by
  exact ⟨by decide +kernel, rfl, rfl, by decide +kernel, by decide, by decide, by decide⟩

theorem placed_fabrTbl : Placed (aFabr 0x18) ⟨.fabr, 0, { off := 0x18, w1s := 3 }, 0⟩ := by
  exact ⟨by decide +kernel, rfl, rfl, by decide +kernel, by decide, by decide, by decide⟩

theorem placed_fabrRank (c : Fin 64) : Placed (aFabr (0x100 + 4 * c)) ⟨.fabr, 0, { off := 0x100, count := 64, rw := 0x801FFFFF, cfg := true }, c⟩ := by
  have h : ∀ (c : Fin 64), locate (aFabr (0x100 + 4 * c)) = some ⟨.fabr, 0, { off := 0x100, count := 64, rw := 0x801FFFFF, cfg := true }, c⟩ ∧ findAlias (aFabr (0x100 + 4 * c)) = none ∧ (aFabr (0x100 + 4 * c)) < 2 ^ 27 ∧ (aFabr (0x100 + 4 * c)) % 4 = 0 ∧ isAck (aFabr (0x100 + 4 * c)) = false := by
    decide +kernel
  exact ⟨(h c).1, rfl, rfl, (h c).2.1, (h c).2.2.1, (h c).2.2.2.1, (h c).2.2.2.2⟩

theorem placed_fabrEpoch : Placed (aFabr 0x200) ⟨.fabr, 0, { off := 0x200, rw := 1 }, 0⟩ := by
  exact ⟨by decide +kernel, rfl, rfl, by decide +kernel, by decide, by decide, by decide⟩

theorem placed_fabrExc : Placed (aFabr 0x208) ⟨.fabr, 0, { off := 0x208, w1s := 3 }, 0⟩ := by
  exact ⟨by decide +kernel, rfl, rfl, by decide +kernel, by decide, by decide, by decide⟩

theorem placed_bndyDesc : Placed (aBndy 0x18) ⟨.bndy, 0, { off := 0x18, w1s := 1 }, 0⟩ := by
  exact ⟨by decide +kernel, rfl, rfl, by decide +kernel, by decide, by decide, by decide⟩

theorem placed_bndyPt : Placed (aBndy 0x2C) ⟨.bndy, 0, { off := 0x2C, w1s := 0x7FFFF }, 0⟩ := by
  exact ⟨by decide +kernel, rfl, rfl, by decide +kernel, by decide, by decide, by decide⟩

theorem placed_bndyFwp (r : Fin 8) : Placed (aBndy (0x80 + 8 * r)) ⟨.bndy, 0, { off := 0x80, count := 8, stride := 8, rw := 0xFFFFF, w1s := 0x80000000 }, r⟩ := by
  have h : ∀ (r : Fin 8), locate (aBndy (0x80 + 8 * r)) = some ⟨.bndy, 0, { off := 0x80, count := 8, stride := 8, rw := 0xFFFFF, w1s := 0x80000000 }, r⟩ ∧ findAlias (aBndy (0x80 + 8 * r)) = none ∧ (aBndy (0x80 + 8 * r)) < 2 ^ 27 ∧ (aBndy (0x80 + 8 * r)) % 4 = 0 ∧ isAck (aBndy (0x80 + 8 * r)) = false := by
    decide +kernel
  exact ⟨(h r).1, rfl, rfl, (h r).2.1, (h r).2.2.1, (h r).2.2.2.1, (h r).2.2.2.2⟩

theorem placed_bndyWin (n : Fin 64) : Placed (aBndy (0x10C + 16 * n)) ⟨.bndy, 0, { off := 0x10C, count := 64, stride := 16, rw := 7 }, n⟩ := by
  have h : ∀ (n : Fin 64), locate (aBndy (0x10C + 16 * n)) = some ⟨.bndy, 0, { off := 0x10C, count := 64, stride := 16, rw := 7 }, n⟩ ∧ findAlias (aBndy (0x10C + 16 * n)) = none ∧ (aBndy (0x10C + 16 * n)) < 2 ^ 27 ∧ (aBndy (0x10C + 16 * n)) % 4 = 0 ∧ isAck (aBndy (0x10C + 16 * n)) = false := by
    decide +kernel
  exact ⟨(h n).1, rfl, rfl, (h n).2.1, (h n).2.2.1, (h n).2.2.2.1, (h n).2.2.2.2⟩

theorem placed_comt (c : Fin 64) : Placed (aComt c 0) ⟨.comt, c, { off := 0, rw := 8, w1s := 7, reset := 8 }, 0⟩ := by
  have h : ∀ (c : Fin 64), locate (aComt c 0) = some ⟨.comt, c, { off := 0, rw := 8, w1s := 7, reset := 8 }, 0⟩ ∧ findAlias (aComt c 0) = none ∧ (aComt c 0) < 2 ^ 27 ∧ (aComt c 0) % 4 = 0 ∧ isAck (aComt c 0) = false := by
    decide +kernel
  exact ⟨(h c).1, rfl, rfl, (h c).2.1, (h c).2.2.1, (h c).2.2.2.1, (h c).2.2.2.2⟩

theorem placed_comtDev : Placed (aComtDev 0) ⟨.comtDev, 0, { off := 0, w1s := 3 }, 0⟩ := by
  exact ⟨by decide +kernel, rfl, rfl, by decide +kernel, by decide, by decide, by decide⟩

theorem placed_comtDetach : Placed (aComtDev 0x14) ⟨.comtDev, 0, { off := 0x14, w1s := 1 }, 0⟩ := by
  exact ⟨by decide +kernel, rfl, rfl, by decide +kernel, by decide, by decide, by decide⟩

theorem placed_gctlEnable : Placed (aGctl 0x10) ⟨.gctl, 0, { off := 0x10, rw := 0x7D, lock := 0x7D }, 0⟩ := by
  exact ⟨by decide +kernel, rfl, rfl, by decide +kernel, by decide, by decide, by decide⟩

theorem placed_gctlAclk : Placed (aGctl 0x28) ⟨.gctl, 0, { off := 0x28, rw := 0x3F, reset := 40 }, 0⟩ := by
  exact ⟨by decide +kernel, rfl, rfl, by decide +kernel, by decide, by decide, by decide⟩

theorem placed_gctlCtrl : Placed (aGctl 0x30) ⟨.gctl, 0, { off := 0x30, w1s := 3 }, 0⟩ := by
  exact ⟨by decide +kernel, rfl, rfl, by decide +kernel, by decide, by decide, by decide⟩

theorem placed_ledgerRd (c : Fin 64) : Placed (aNumc c 0x50) ⟨.numc, c, { off := 0x50, rw := allBits }, 0⟩ := by
  have h : ∀ (c : Fin 64), locate (aNumc c 0x50) = some ⟨.numc, c, { off := 0x50, rw := allBits }, 0⟩ ∧ findAlias (aNumc c 0x50) = none ∧ (aNumc c 0x50) < 2 ^ 27 ∧ (aNumc c 0x50) % 4 = 0 ∧ isAck (aNumc c 0x50) = false := by
    decide +kernel
  exact ⟨(h c).1, rfl, rfl, (h c).2.1, (h c).2.2.1, (h c).2.2.2.1, (h c).2.2.2.2⟩

theorem placed_secuLoad : Placed (aSecu 0x1C) ⟨.secu, 0, { off := 0x1C, w1s := 0xF }, 0⟩ := by
  exact ⟨by decide +kernel, rfl, rfl, by decide +kernel, by decide, by decide, by decide⟩

theorem placed_secuUpdate : Placed (aSecu 0x24) ⟨.secu, 0, { off := 0x24, w1s := 3 }, 0⟩ := by
  exact ⟨by decide +kernel, rfl, rfl, by decide +kernel, by decide, by decide, by decide⟩

theorem placed_secuQuote : Placed (aSecu 0x30) ⟨.secu, 0, { off := 0x30, w1s := 3 }, 0⟩ := by
  exact ⟨by decide +kernel, rfl, rfl, by decide +kernel, by decide, by decide, by decide⟩

theorem placed_secuDbg : Placed (aSecu 0x38) ⟨.secu, 0, { off := 0x38, w1s := 3 }, 0⟩ := by
  exact ⟨by decide +kernel, rfl, rfl, by decide +kernel, by decide, by decide, by decide⟩

theorem placed_timeStep : PlacedPair (aFabr 0x48) ⟨.fabr, 0, { off := 0x48, half := .lo, rw := allBits }, 0⟩
    ⟨.fabr, 0, { off := 0x4C, half := .hi, rw := allBits }, 0⟩ :=
  ⟨by decide +kernel, by decide +kernel, rfl, rfl, rfl, by decide +kernel, by decide, by decide, by decide⟩

theorem placed_cadence : PlacedPair (aComtDev 0x24) ⟨.comtDev, 0, { off := 0x24, half := .lo, w1s := allBits }, 0⟩
    ⟨.comtDev, 0, { off := 0x28, half := .hi, w1s := allBits }, 0⟩ :=
  ⟨by decide +kernel, by decide +kernel, rfl, rfl, rfl, by decide +kernel, by decide, by decide, by decide⟩

theorem placed_probe : PlacedPair (aProbe 0x10) ⟨.probe, 0, { off := 0x10, half := .lo, rw := allBits }, 0⟩
    ⟨.probe, 0, { off := 0x14, half := .hi, rw := allBits }, 0⟩ :=
  ⟨by decide +kernel, by decide +kernel, rfl, rfl, rfl, by decide +kernel, by decide, by decide, by decide⟩

theorem placed_audtRd : PlacedPair (aAudt 0x50) ⟨.audt, 0, { off := 0x50, half := .lo, rw := allBits }, 0⟩
    ⟨.audt, 0, { off := 0x54, half := .hi, rw := allBits }, 0⟩ :=
  ⟨by decide +kernel, by decide +kernel, rfl, rfl, rfl, by decide +kernel, by decide, by decide, by decide⟩

end Sys2Proof.Machine
end

