-- ==== Sys2Proof/WellFormed.lean ====
section
/-! DEFINITION. Which operands a command can come with: the lengths and ranges the spec gives to what reaches the device. -/

namespace Sys2Proof

/-- INDEX is the task's position in its segment, below 65,536 (R56). -/
def TaskRef.wf (t : TaskRef) : Bool := decide (t.index < 65536)

/-- A cell of the 128 × 128 array, its two checksum rows or its two checksum columns (R139). -/
def CellFault.wf (f : CellFault) : Bool := decide (f.row < 130) && decide (f.col < 130)

/-- Numbers of 32-byte bursts of the 40-bit device physical address space (R263, R276). -/
def burstsWf (l : List Nat) : Bool := l.all fun b => decide (b < 2 ^ 35)

/-- An environment of a task. -/
def Env.wf (e : Env) : Bool := burstsWf e.ue && burstsWf e.ce && e.faults.all CellFault.wf

/-- The device has twelve stacks (R2); an audit entry holds 48 bytes before its CHAIN (R456). -/
def StartEnv.wf (e : StartEnv) : Bool := decide (e.capacity.length = 12) && e.mirror.all fun m => decide (m.2.length = 48)

/-- Lines of 64 bytes (R56, R66). -/
def linesWf (l : List Bytes) : Bool := l.all fun b => decide (b.length = 64)

/-- What a coherent read returns: lines of 64 bytes (R348). -/
def RdData.wf : RdData → Bool
  | .pointer l => decide (l.length = 64)
  | .entries ls => linesWf ls

/-- A signed object has a 256-byte header (R443). -/
def SignedObj.wf (o : SignedObj) : Bool := decide (256 ≤ o.bytes.length)

/-- Five dies and twelve stacks have sensors (R362). -/
def Sensors.wf (x : Sensors) : Bool := decide (x.junction.length = 5) && decide (x.stack.length = 12)

/-- An aperture access moves 4 to 256 bytes (R348), a write as many as its LEN says. -/
def accessWf (len : Nat) (write : Option Bytes) : Bool :=
  decide (4 ≤ len) && decide (len ≤ 256) && write.all fun b => decide (b.length = len)

/-- Whether a command's operands are as the spec lays them out. -/
def Instr.wf : Instr → Bool
  | .standbyPowerUp => true
  | .modPwrEnRise => true
  | .porRelease _ => true
  | .modPwrEnFall => true
  | .brownOut => true
  | .brownOutRecovery => true
  | .railFault => true
  | .modResetNAssert => true
  | .modResetNRelease => true
  | .dbgReqNAssert => true
  | .dbgReqNRelease => true
  | .clockFailure _ => true
  | .refclkRestored => true
  | .start env => env.wf
  | .startComplete => true
  | .startTimerExpire => true
  | .recoveryPowerCycle => true
  | .recoveryPowerUp => true
  | .spineFlitReceived _ _ => true
  | .spineLinkDown _ => true
  | .trplFlitReceived flit => decide (flit.length = 256)
  | .trplReplayTimeout => true
  | .trplRetrainDone _ => true
  | .trplDownTimer => true
  | .snoop _ _ => true
  | .gengPollExpire => true
  | .rdSharedDone _ _ data => data.wf
  | .completion _ _ data => decide (data.length ≤ 256)
  | .regApertureAccess _ _ len write => accessWf len write
  | .memDataApertureAccess _ _ len write env => accessWf len write && env.wf
  | .memTableApertureWrite _ _ data => decide (data.length ≤ 256)
  | .segment _ _ => true
  | .nop _ _ => true
  | .segmentValidate _ _ table env => linesWf table && env.wf
  | .predicateDecide _ _ _ => true
  | .sqResume _ => true
  | .taskIssue task _ => task.wf
  | .matmul task env => task.wf && env.wf
  | .matvec task env => task.wf && env.wf
  | .quantize task env => task.wf && env.wf
  | .oplist task env => task.wf && env.wf
  | .rmsnormFwd task env => task.wf && env.wf
  | .rmsnormBwd task env => task.wf && env.wf
  | .layernormFwd task env => task.wf && env.wf
  | .layernormBwd task env => task.wf && env.wf
  | .softmaxFwd task env => task.wf && env.wf
  | .softmaxBwd task env => task.wf && env.wf
  | .compress task env => task.wf && env.wf
  | .norm task env => task.wf && env.wf
  | .update task env => task.wf && env.wf
  | .requant task env => task.wf && env.wf
  | .allReduce task env => task.wf && env.wf
  | .reduceScatter task env => task.wf && env.wf
  | .allGather task env => task.wf && env.wf
  | .broadcast task env => task.wf && env.wf
  | .allToAll task env => task.wf && env.wf
  | .send task env => task.wf && env.wf
  | .fetch task env => task.wf && env.wf
  | .colWindowOpen task => task.wf
  | .copy task env => task.wf && env.wf
  | .event task => task.wf
  | .waitCounter task => task.wf
  | .waitTimeout task => task.wf
  | .waitTime task => task.wf
  | .taskComplete task _ => task.wf
  | .layerRepeat _ _ _ _ env => env.wf
  | .taskOverrun task => task.wf
  | .rampGrant _ => true
  | .defineHandle _ => true
  | .shareHandle _ => true
  | .dropHandle _ => true
  | .cancel _ => true
  | .dataCursor _ => true
  | .loadFunction _ image env => decide (image.length = 24640) && env.wf
  | .setSlot _ => true
  | .realign _ => true
  | .quiesce _ => true
  | .echo _ => true
  | .adminDeferredEffect _ => true
  | .quiesceDone _ => true
  | .contextRelease _ => true
  | .ctxValidWrite _ _ _ => true
  | .ctxQuiesceBit _ _ => true
  | .ctxKillBit _ _ => true
  | .ctxHtabSizeWrite _ _ _ => true
  | .ringCtrlWrite _ _ _ _ => true
  | .msiTimerExpire _ _ => true
  | .pipCheck task _ _ run => task.wf && run.env.wf
  | .crosscheck _ _ _ _ _ => true
  | .abftDecision task _ _ => task.wf
  | .crosscheckDecision _ _ _ _ => true
  | .pipHardDecision task _ _ _ => task.wf
  | .plausibilityDecision task _ _ _ _ => task.wf
  | .decisionTimeout _ => true
  | .tcsRateTrip => true
  | .chipDrained _ _ => true
  | .drainComplete => true
  | .diagnosis _ _ _ => true
  | .coreDoubleFault _ => true
  | .mgmtTransactionTimeout => true
  | .wdtExpire => true
  | .rstcWdtKick _ _ => true
  | .wdtEn _ => true
  | .swr _ _ => true
  | .rstcDomainReq _ _ => true
  | .domainFence _ => true
  | .drainLimitExpire _ _ => true
  | .resetRecordWritten _ _ => true
  | .domainPartReady _ _ => true
  | .resetBoundExpire _ => true
  | .clusSrst _ _ => true
  | .clusHold _ _ _ => true
  | .clusClrCnt _ _ => true
  | .injectArm _ _ => true
  | .clusInjectWrite _ _ _ => true
  | .aliasWrite _ _ _ => true
  | .aliasRead _ _ => true
  | .hbmcSrst _ _ => true
  | .retrainNow _ _ => true
  | .hbmcClrCnt _ _ => true
  | .hbmRetrainDue _ _ => true
  | .hbmTrainingSlot _ _ _ _ _ => true
  | .rowRepair _ _ _ _ => true
  | .frameRetire _ _ _ => true
  | .frameCopyDone _ filled _ => filled.all fun b => decide (b < 65536)
  | .recalibration => true
  | .mrgnWindow _ _ _ => true
  | .mrgnDeadlineExpire _ _ => true
  | .mrgnShareWrite _ _ _ => true
  | .portEn _ _ _ => true
  | .portSrst _ _ => true
  | .portClrCnt _ _ => true
  | .portTrainingDone _ _ _ => true
  | .pcsLockLoss _ => true
  | .ucwLimitExceeded _ _ => true
  | .portRetrainTimer _ => true
  | .nativeFrameReceived _ _ rx => decide (rx.fec.lanes.length ≤ 8) && rx.env.wf
  | .routedFrameReceived _ frame => decide (frame.rx.fec.lanes.length ≤ 8) && frame.rx.env.wf
  | .ptpMessage _ _ _ _ => true
  | .v0FrameForward _ frame => decide (frame.rx.fec.lanes.length ≤ 8) && frame.rx.env.wf
  | .linkTransmit _ credits => credits.all fun e => decide (e.1 < 4) && decide (e.2.1 < 2)
  | .dwellExpire _ _ => true
  | .tileWrite => true
  | .memWrite => true
  | .readReq env => env.wf
  | .readData => true
  | .ack => true
  | .nack => true
  | .colData => true
  | .colGrant => true
  | .vote => true
  | .pairHello => true
  | .pairConfirm => true
  | .heartbeat => true
  | .heartbeatSend => true
  | .twinLost => true
  | .ctlMsg => true
  | .opTimerExpire _ => true
  | .flowEvict _ _ => true
  | .fabrEpochWrite _ _ => true
  | .epochSwitch => true
  | .fabrExcRead _ => true
  | .fabrExcWrite _ => true
  | .fabrTblRead _ => true
  | .fabrTblWrite _ => true
  | .fabrCtxRankWrite _ _ _ => true
  | .fabrTimeStep _ _ => true
  | .ppsEdge => true
  | .ppsLost => true
  | .ptpLost => true
  | .bndyWinCtrlWrite _ _ _ => true
  | .winPendingClear => true
  | .descLoad _ => true
  | .descLoadDone descriptor _ => decide (178 ≤ descriptor.length)
  | .bndyPtRelease _ _ => true
  | .bndyFwpLock _ _ _ => true
  | .thermalClampTick sensors _ => sensors.wf
  | .trplRetrain _ => true
  | .trplClrCnt _ => true
  | .stepEnd task env => task.wf && env.wf
  | .voteTimeout _ _ => true
  | .voteResend _ => true
  | .inDoubt _ => true
  | .quietExpire _ => true
  | .comtAbort _ _ => true
  | .resolveCommit _ _ => true
  | .resolveAbort _ _ => true
  | .checkpointWrite task env => task.wf && env.wf
  | .checkpointRestore task _ _ _ => task.wf
  | .checkpointRestoreLocal task => task.wf
  | .ckpLayerDurable task _ _ _ => task.wf
  | .cadInterruptReport _ _ => true
  | .twinPair _ => true
  | .twinUnpair _ => true
  | .detach _ => true
  | .detachConfirmed => true
  | .gctlDrain _ => true
  | .gctlUnfence _ => true
  | .clusEn _ _ => true
  | .fabrEn _ _ => true
  | .uplinkEn _ _ => true
  | .twinEn _ _ => true
  | .trplEn _ _ => true
  | .gengEn _ _ => true
  | .gctlAclkWrite _ _ => true
  | .aclkGlideDone => true
  | .numcLedgerRdWrite _ _ _ => true
  | .rngsProbeStart _ _ => true
  | .rngsProbeDone => true
  | .secuLoad _ _ => true
  | .secuLoadDone object => object.wf
  | .activate _ => true
  | .confirm _ => true
  | .confirmTimeout => true
  | .mgmtOnlyRestart => true
  | .quoteGo _ _ => true
  | .quoteDone => true
  | .dbgEnable _ token => token.wf
  | .dbgRevoke _ => true
  | .dbgExpire => true
  | .auditDrain => true
  | .auditSlotFreed => true
  | .audtAckSeqWrite _ _ => true
  | .audtRdSeqWrite _ _ => true
  | .registerWrite _ _ _ => true
  | .domainDrainEnd _ => true
  | .rowSpared _ => true
  | .runEnd _ => true
  | .hbmHot _ _ => true
  | .regAccess _ => true
  | .debugReset _ => true
  | .bypass _ => true
  | .standbyRailOff => true
  | .smbIdentity => true
  | .smbState => true
  | .smbStartRecord => true
  | .smbHealth => true
  | .smbResetCause => true
  | .smbTemperature => true
  | .smbPower => true
  | .smbAlertStatus => true
  | .smbRecovery => true
  | .smbAuditHead => true
  | .alertResponseAddress => true
  | .idcode => true
  | .samplePreload => true
  | .extest => true
  | .extestPulse => true
  | .extestTrain => true
  | .clamp => true
  | .highz => true
  | .coreDebug => true
  | .securityStatus => true
  | .testLogicReset => true

end Sys2Proof
end

