-- ==== Sys2Proof/Tests/Slice0.lean ====
section
/-! SUPPORT. Ill-formed commands that the checks refuse; for each statement, states and operands that meet the hypotheses of its clauses;
and small tests of single commands. -/

namespace Sys2Proof.Machine
open Sys2Proof

-- One theorem after the other: checked all at once they take more threads than a checker has memory for.
set_option Elab.async false

/-! ### Small states -/

/-- Power on, out of reset. -/
def tPower : Power := { Power.reset with standby := true, railsOn := true, porDone := true, pwrEn := true, pgood := true }

/-- A READY device with its clocks, every enable and the Trepel Link. -/
def tUp : State :=
  { State.reset with dev := .ready, prev := .warmStart, power := tPower, time := 5000000000, regs := [(0x10, 0x7D)],
                     trepel := { Trepel.reset with state := 1 },
                     bndy := { Bndy.reset with wins := [(0, { base := 0, pages := 0xFFFFFFF, valid := true, read := true, write := true })] } }

/-- The same, ACTIVE with context 0 as given. -/
def tAct (x : Ctx) : State := { tUp with dev := .active, prev := .ready, ctxs := [(0, x)] }

/-- An active context with nothing in it. -/
def tCtx : Ctx := { Ctx.empty with st := .active }

/-- `State.Takes`, as a test. -/
def takesB (s : State) (p : Path) (a : Nat) (v : Word) : Bool :=
  s.pathUp p && !s.pathWaits p && (s.discards p a).isNone && s.audit.reserve.isEmpty && decide (s.audit.lostRun = 0) &&
    decide (s.audit.ring.length + 64 ≤ auditSlots) && !s.originRefused p a v.toNat

theorem takes_of {s : State} {p : Path} {a : Nat} {v : Word} (h : takesB s p a v = true) : s.Takes p a v := by
  simp only [takesB, Bool.and_eq_true, Bool.not_eq_true', decide_eq_true_eq, Option.isNone_iff_eq_none, List.isEmpty_iff] at h
  exact ⟨h.1.1.1.1.1.1, h.1.1.1.1.1.2, h.1.1.1.1.2, h.1.1.1.2, h.1.1.2, h.1.2, h.2⟩

/-- The device of `tAct` with stack 0 READY, and in HBM a page table of context 0 that maps VA 0 to frame 4. -/
def tMem (x : Ctx) : State :=
  let put := fun (m : List Host.Cell) (a : Nat) (b : Bytes) => NMap.setRun hbmClear m a b
  let mem := put (put (put [] 0x200000 (leBytes 8 0x400001)) 0x400000 (leBytes 8 0x600001)) 0x600000 (leBytes 8 0x800003)
  ({ tAct x with mem := mem, hbm := [(0, { Stack.empty with state := 2 })], bndy := { tUp.bndy with tableFrames := [1, 2, 3] } }).setReg (aCtx 0 0x10) 0x200000

/-- A 64-byte flit of sequence number 1, and an IDLE one. -/
def tFlit (hdr : Nat) : Bytes := let b := leBytes 2 hdr ++ List.replicate 246 0; b ++ leBytes 8 (crc64 b)

/-- One ring of context 0 enabled, its first entry fetched. -/
def tRing (r : Nat) (e : Bytes) : State :=
  (tAct { tCtx with rings := [(r, { Ring.empty with fetched := [e], compPtr := 1 })] }).setReg (aRing 0 r 8) 0x601

/-- A 64-byte entry or descriptor with its CHECK. -/
def tEntry (b : Bytes) : Bytes := withCheck (sliceB b 0 60)

/-- A segment of one task, its table in host memory at 0. -/
def tSeg (flags count id : Nat) : Bytes := tEntry (leBytes 1 1 ++ leBytes 1 flags ++ leBytes 2 count ++ leBytes 4 id ++ leBytes 16 0 ++ leBytes 4 0x80000001 ++ leBytes 1 1)

/-- A task descriptor without slots. -/
def tDesc (kind flags : Nat) (params : Bytes) : Bytes :=
  tEntry (leBytes 1 kind ++ leBytes 1 flags ++ leBytes 30 0 ++ sliceB params 0 24 ++ leBytes 4 0xFFFFFFFF)

/-- Handle of one binary32 value at VA 0. -/
def tScalar : Handle :=
  { addrA := 0, addrB := 0, tiles := 1, format := 0, flags := 0, rows := 1, cols := 1, source := none, clipBound := false, charge := 0, shadow := none,
    kept := none }

/-- A task of a kind and OP in a state. -/
def tTask (st : TaskState) (kind op : Nat) : Task :=
  { ref := { ctx := 0, ring := 0, seg := 0, index := 0 }, order := 0, step := 0, desc := tDesc kind 0 (leBytes 1 op), ext := [], attempt := 0, level := 0, st := st,
    cluster := none, engine := none, trips := 0, superseded := false, deadline := 0, issuedAt := 0, stepped := false, verDue := none, orient := false, binds := [], undo := [], undoVers := [], pip := [], pipRes := [],
    pipMax := 0, ledger := none, held := none, res := Result.empty }

/-- Context 0 with one task. -/
def tRun (t : Task) : State := tAct { tCtx with tasks := [t] }

/-- A packet of one kind that has come for context 0. -/
def tPacket (op : Byte) (payload : Bytes) : Packet :=
  { epoch := false, cls := 0, addrMode := false, poison := false, mc := false, dst := 0, op := op, src := 5, job := 0, counter := 0, seq := 1, retx := false,
    last := false, mcSpan := 0, mcDim := 0, target := 0, info := 0, altRank := 0, vc := false, hops := 0, payload := payload }
def tDelivered (c : Option Nat) (p : Packet) (s : State) : State :=
  { s with fabric := { s.fabric with delivered := [{ port := 0, ctx := c, pkt := p }] } }

def tTaskRef : TaskRef := { ctx := 0, ring := 0, seg := 0, index := 0 }

/-! ### What meets the hypotheses -/

theorem test_meets_StepRunsFront : State.reset.pending = [] := rfl

theorem test_meets_StepKeepsInvariant : tUp.inv = true ∧ (tAct tCtx).inv = true ∧
    ∃ t, step { tAct tCtx with pending := [.gctlDrain (.core 0)] } = .next t := ⟨by decide +kernel, by decide +kernel, _, rfl⟩

theorem test_meets_CommandFrame : ∃ t, exec (.spineLinkDown 0) tUp = .next t := ⟨_, rfl⟩

theorem test_meets_RecordingOnlyRecords : tUp.regsWf = true ∧ tUp.keysRise = true := by decide +kernel

/-- A counter below its end, at its end, and stopped. -/
theorem test_meets_CountersSaturate :
    (tUp.regsWf = true ∧ tUp.countOvf 0x50 = false ∧ tUp.count 0x50 + 1 < 2 ^ 48 - 1) ∧
    (let s := { tUp with regs := [(0x50, 0xFFFFFFFE), (0x54, 0xFFFF)] }
     s.regsWf = true ∧ s.countOvf 0x50 = false ∧ 2 ^ 48 - 1 ≤ s.count 0x50 + 1) ∧
    (let s := { tUp with regs := [(0x50, 0xFFFFFFFF), (0x54, 0x8000FFFF)] }
     s.regsWf = true ∧ s.countOvf 0x50 = true) := by decide +kernel

theorem test_meets_RailsComeUp :
    let off := State.reset
    let p := off.power
    (off.power.railsOn = false ∧ off.power.standby = false ∧ ({ p with pwrEn := true }).pwrEn = true ∧ off.power.pwrEn = false) ∧
    (let q := { p with standby := true }; q.railsOn = false ∧ q.pwrEn = false ∧ q.standby = true ∧ q.railLatch = false) ∧
    (let q := { p with standby := true, railLatch := true }; q.railsOn = false ∧ q.pwrEn = false ∧ q.railLatch = true) ∧
    (let q := { p with standby := true, pwrEn := true, brownOut := true }; q.railsOn = false ∧ q.brownOut = true ∧ q.pwrEn = true) ∧
    (let q := { p with standby := true, pwrEn := true, recoveryCycle := true }; q.railsOn = false ∧ q.recoveryCycle = true) ∧
    (let q := { p with refNet := false }; q.railsOn = false ∧ (q.refSys && q.refNet) = false) := by decide

theorem test_meets_RailsGoOff :
    (tUp.power.railsOn = true ∧ tUp.power.pwrEn = true ∧ tUp.power.standby = true) ∧
    (let s := { tUp with dev := .warmStart, boot := { Boot.reset with running := true, fromPor := false },
                         flash := { Flash.blank with start := { Flash.blank.start with recoveryPending := some 1 } } }
     s.power.railsOn = true ∧ s.starting = true ∧ s.boot.running = true ∧ s.boot.fromPor = false ∧ s.flash.start.recoveryPending.isSome = true) := by
  decide

theorem test_meets_PorReleaseStartsCold :
    let s := { State.reset with power := { tPower with porDone := false } }
    s.dev = .off ∧ s.power.railsOn = true ∧ s.power.pgood = true ∧ s.power.porDone = false ∧ s.power.refSys = true ∧ s.power.refNet = true ∧
      s.power.resetLow = false ∧ s.power.dbgLow = false ∧ s.power.heldScan = false ∧ s.regsWf = true := by decide

theorem test_meets_ResetPins :
    (tUp.regsWf = true ∧ tUp.dev ≠ .off ∧ tUp.power.porDone = true ∧ tUp.power.resetLow = false ∧ tUp.power.dbgLow = false ∧
      tUp.power.standby = true ∧ tUp.starting = false ∧ tUp.dev ≠ .recovery ∧ tUp.activeCtxs = []) ∧
    ({ tUp with dev := .recovery }).dev = .recovery ∧
    (State.reset.power.porDone = false ∧ State.reset.power.railsOn = false ∧ State.reset.power.resetLow = false ∧ State.reset.power.dbgLow = false) ∧
    (let s := { State.reset with power := { tPower with porDone := false } }
     s.power.porDone = false ∧ s.power.railsOn = true ∧ s.power.refSys = true ∧ s.power.refNet = true ∧ s.power.resetLow = false) := by decide +kernel

/-! ### Starts, SMBus, JTAG -/

/-- A signed object with an empty payload: type, SVN, serial. -/
def tObj (typ svn : Nat) (serial : Bytes) : SignedObj :=
  let head := leBytes 4 0x4D494446 ++ leBytes 1 1 ++ leBytes 1 typ ++ leBytes 2 0 ++ leBytes 4 svn ++ leBytes 4 0 ++ sliceB serial 0 16 ++ leBytes 16 0 ++
    shake256 [] 64
  { bytes := head ++ List.replicate (256 - head.length) 0, sigOk := true }

/-- The part record of a module. -/
def tPart : SignedObj := tObj 4 0 [1]

/-- A start from power-on reset, of a module provisioned with one image of each kind. -/
def tStart : State :=
  { tUp with dev := .coldStart, prev := .off, boot := { Boot.reset with kind := .cold, fromPor := true },
             flash := { Flash.blank with part0 := some tPart, slotA := { stage1 := some (tObj 1 0 []), runtime := some (tObj 2 0 []) } } }

/-- FIPS 202 gives these bytes for SHAKE256 of the empty string. -/
theorem test_shake256_empty : (shake256 [] 64).take 8 = [0x46, 0xB9, 0xDD, 0x2B, 0x0B, 0xA8, 0x8D, 0x13] := by decide +kernel

/-- Objects that pass their checks; the part record is one that SECU_LOAD_DONE places. -/
theorem test_objects_good : objReason tPart 4 [] 0 = none ∧ objReason (tObj 1 0 []) 1 (objSerial tPart) 0 = none ∧
    objReason (tObj 2 0 []) 2 (objSerial tPart) 0 = none ∧
    ({ tUp with secu := { Secu.reset with loading := some 5 } }.setReg (aSecu 0x18) 256).loadReason 5 tPart = none ∧ tUp.dev ≠ .recovery := by decide +kernel

/-- What the PUF reads is free, so the two clauses share everything but that. -/
theorem test_meets_StartRunsCode :
    let s := tStart
    let f := s.flash
    (s.regsWf = true ∧ s.dev = .coldStart ∧ s.boot.running = false ∧ s.power.held = false ∧ s.boot.kind = .cold ∧ s.boot.fromPor = true ∧
      f.start.recoveryPending = none ∧ f.start.failed + (if f.start.inProgress then 1 else 0) < f.start.limit ∧ f.part0 = some tPart ∧
      s.part.gib = 64) ∧
    (f.boot.confirmed = false ∧ f.cfgA = none ∧ f.cfgB = none ∧ s.secu.config = none ∧ f.boot.slotB = false ∧
      f.slotA = { stage1 := some (tObj 1 0 []), runtime := some (tObj 2 0 []) }) := by decide +kernel

theorem test_meets_StartEntersRecovery :
    let r := Flash.blank.start
    let s := { tStart with flash := { Flash.blank with start := r } }
    (s.starting = true ∧ s.boot.running = false ∧ s.power.held = false ∧ s.boot.fromPor = true ∧ r.recoveryPending = none ∧
      ¬ r.limit ≤ r.failed + (if r.inProgress then 1 else 0) ∧ s.flash.part0 = none ∧ s.flash.part1 = none) ∧
    ({ tStart.power with heldPin := true }).held = true ∧
    ({ r with recoveryPending := some 2 }).recoveryPending = some 2 ∧
    (let q := { r with failed := 2, inProgress := true }; q.recoveryPending = none ∧ q.limit ≤ q.failed + (if q.inProgress then 1 else 0)) ∧
    ({ tStart.boot with fromPor := false }).fromPor = false := by decide +kernel

theorem test_meets_StartEnds :
    let s := { tStart with boot := { tStart.boot with running := true, stage := 7, timer := some 5000000000 } }
    (s.starting = true ∧ s.boot.running = true ∧ s.boot.stage = 7 ∧ 6 ≤ s.coresOnline) ∧
    ({ s with flash := { s.flash with coreMask := 0x1F } }).coresOnline < 6 ∧
    (s.regsWf = true ∧ s.boot.timer = some 5000000000 ∧ (5000000000 : Dword) ≤ s.time ∧ s.activeCtxs = []) := by decide +kernel

theorem test_meets_SmbusReplies : tUp.power.standby = true ∧ tUp.power.smbAlertLow = false ∧
    ({ tUp.power with smbAlertLow := true }).smbAlertLow = true ∧ tUp.smb.alerts.getLsbD 7 = false := by decide

theorem test_meets_JtagInstructions :
    let s := { tUp with secu := { Secu.reset with caps := 0xC } }
    tUp.power.pgood = true ∧ (s.secu.caps.getLsbD 3 = true ∧ s.secu.caps.getLsbD 2 = true) ∧
    (tUp.power.porDone = true ∧ tUp.power.held = false ∧ tUp.auditFull = false ∧ tUp.secu.caps.getLsbD 3 = false ∧ tUp.secu.caps.getLsbD 2 = false) := by
  decide +kernel

/-! ### The register space -/

/-- FABR_CTX_RANK of context 0, written by core 0. -/
theorem test_meets_RegisterWriteLands : ∃ w,
    tUp.Takes (.core 0) 0x3000100 7 ∧ findAlias 0x3000100 = none ∧ theWrite (.core 0) 0x3000100 7 = some w ∧ w.loc.row.half = .one ∧
      w.loc.row.readOnly = false ∧ w.verdict tUp = .applied ∧ isAck 0x3000100 = false ∧ heldElsewhere w.loc = false ∧ tUp.regsWf = true ∧
      tUp.audit.lostRun = 0 :=
  ⟨_, takes_of (by decide +kernel), by decide +kernel, rfl, by decide +kernel, by decide +kernel, by decide +kernel, by decide +kernel,
    by decide +kernel, by decide +kernel, rfl⟩

/-- The same statement's hypotheses but for what storing needs. -/
theorem test_meets_StoredBits : ∃ w, tUp.regsWf = true ∧ tUp.audit.lostRun = 0 ∧ theWrite (.core 0) 0x3000100 7 = some w ∧ w.loc.row.half = .one ∧
    heldElsewhere w.loc = false :=
  ⟨_, by decide +kernel, rfl, rfl, by decide +kernel, by decide +kernel⟩

/-- A write of the Boundary Unit by core 0. -/
theorem test_meets_RefusedWrite : ∃ w,
    (tUp.pathUp (.core 0) = true ∧ tUp.pathWaits (.core 0) = false ∧ tUp.discards (.core 0) 0x40020 = none ∧ tUp.audit.reserve = [] ∧
      tUp.audit.ring.length + 64 ≤ auditSlots ∧ isAck 0x40020 = false ∧ findAlias 0x40020 = none) ∧
    theWrite (.core 0) 0x40020 2000 = some w ∧ w.loc.row.half = .one ∧ w.loc.row.readOnly = false ∧ tUp.originRefused (.core 0) 0x40020 2000 = true ∧
    (count (aGctl 0x50) 1 tUp).audit.reserve = [] :=
  ⟨_, by decide +kernel, rfl, by decide +kernel, by decide +kernel, by decide +kernel, by decide +kernel⟩

/-- An offset of the GCTL block that no chapter describes, and GCTL_STATE, which is read-only. -/
theorem test_meets_IgnoredWrite :
    tUp.Takes (.core 0) 0xFFFC 1 ∧ locate 0xFFFC = none ∧ findAlias 0xFFFC = none ∧ tUp.Takes (.core 0) 0x14 1 ∧ findAlias 0x14 = none ∧
      (∃ l, locate 0x14 = some l ∧ l.row.rw = 0 ∧ l.row.w1c = 0 ∧ l.row.w1s = 0) ∧ (count (aGctl 0x50) 1 tUp).audit.reserve = [] :=
  ⟨takes_of (by decide +kernel), by decide +kernel, by decide +kernel, takes_of (by decide +kernel), by decide +kernel,
    ⟨_, rfl, by decide +kernel, by decide +kernel, by decide +kernel⟩, by decide +kernel⟩

/-- FABR_TIME_STEP, a pair that is written; the path has its `_LO` staged, another pair's shadow, or this one's. -/
theorem test_meets_PairsAreWhole : ∃ l h,
    let p := Path.core 0
    let s := tUp.setPath 1 { PathState.empty with staged := some (0x3000048, 5) }
    let r := tUp.setPath 1 { PathState.empty with shadow := some (0x300004C, 9) }
    (findAlias 0x3000048 = none ∧ findAlias 0x300004C = none ∧ tUp.keysRise = true ∧ tUp.regsWf = true ∧ s.keysRise = true ∧ r.keysRise = true) ∧
    locate 0x3000048 = some l ∧ l.row.half = .lo ∧ locate 0x300004C = some h ∧ h.row.half = .hi ∧
    (tUp.Reads p 0x3000048 ∧ r.Reads p 0x300004C ∧ (r.path 1).shadow = some (0x300004C, 9) ∧ tUp.Reads p 0x300004C ∧ (tUp.path 1).shadow = none ∧
      tUp.Reads p 0x300) ∧
    (l.row.readOnly = false ∧ h.row.readOnly = false ∧ isAck 0x300004C = false) ∧
    (tUp.Takes p 0x3000048 5 ∧ s.Takes p 0x300004C 0 ∧ (s.path 1).staged = some (0x3000048, 5) ∧ tUp.Takes p 0x300004C 0 ∧ (tUp.path 1).staged = none) ∧
    (({ path := p, loc := l, addr := 0x3000048, val := 5, tok := none } : RegWr).verdict s = .applied ∧
      ({ path := p, loc := l, addr := 0x3000048, val := 0, tok := none } : RegWr).verdict tUp = .applied ∧ heldElsewhere l = false ∧ tUp.audit.lostRun = 0) ∧
    (isAck 0x3000048 = false ∧ findAlias 0x3000100 = none ∧ s.pathUp p = true ∧ s.pathWaits p = false ∧ s.audit.reserve = []) :=
  ⟨_, _, by decide +kernel, rfl, by decide +kernel, rfl, by decide +kernel,
    ⟨⟨by decide +kernel, by decide +kernel, by decide, trivial⟩, ⟨by decide +kernel, by decide +kernel, by decide, trivial⟩, by decide +kernel,
      ⟨by decide +kernel, by decide +kernel, by decide, trivial⟩, by decide +kernel, ⟨by decide +kernel, by decide +kernel, by decide, trivial⟩⟩,
    by decide +kernel,
    ⟨takes_of (by decide +kernel), takes_of (by decide +kernel), by decide +kernel, takes_of (by decide +kernel), by decide +kernel⟩,
    by decide +kernel, by decide +kernel⟩

/-- The alias of every stack: CE_ROW at its own place, and the counter pair at 0x10. -/
theorem test_meets_AliasReadOrs : ∃ x y l m,
    (tUp.Reads (.core 0) 0x20F0028 ∧ findAlias 0x20F0028 = some x ∧ locate (x.addr 0) = some l ∧ tUp.keysRise = true ∧ l.row.half ≠ .hi) ∧
    (tUp.Reads .jtag 0x20F0010 ∨ tUp.Reads (.aperture 1) 0x20F0010) ∧ findAlias 0x20F0010 = some y ∧ locate (y.addr 0) = some m ∧ m.row.half = .lo :=
  ⟨_, _, _, _, ⟨⟨by decide +kernel, by decide +kernel, by decide, trivial⟩, rfl, rfl, by decide +kernel, by decide +kernel⟩,
    .inr ⟨by decide +kernel, by decide +kernel, by decide, by decide +kernel⟩, rfl, rfl, by decide +kernel⟩

/-- The hypotheses of ACTIVATE, in `SecurityCommands`: a valid runtime staged. -/
theorem test_meets_Activate :
    let s := { tStart with dev := .ready, prev := .warmStart, flash := { tStart.flash with staging := some (tObj 2 1 []) } }
    s.Takes (.aperture 1) (aSecu 0x24) 1 ∧ s.activateRefused = false := ⟨takes_of (by decide +kernel), by decide +kernel⟩

/-! ### Aliases, the aperture, REG_ACCESS -/

/-- CE_ROW of every stack, which is written; CLUS_CTRL of a held cluster is the other case. -/
theorem test_meets_AliasWrite : ∃ x l,
    (tUp.pathUp (.core 0) = true ∧ tUp.pathWaits (.core 0) = false ∧ tUp.discards (.core 0) 0x20F0040 = none ∧
      tUp.entriesOf (.core 0) 0x20F0040 5 ≤ tUp.auditRoom ∧ tUp.audit.reserve = []) ∧
    findAlias 0x20F0040 = some x ∧ locate (x.addr 6) = some l ∧ l.row.half = .one ∧
    (let ms := (tUp.aliasMembers x).filter fun n => !tUp.memberOut x.block n
     let ws := ms.filterMap (memberWrite (.core 0) x 0x20F0040 5 tUp)
     ws ≠ [] ∧ ∀ w ∈ ws, w.verdict tUp = .applied) ∧
    (let ws := (tUp.aliasMembers x).filterMap (memberWrite .jtag x 0x20F0040 5 tUp)
     ∃ w ∈ ws, w.verdict tUp = .refused) :=
  ⟨_, _, by decide +kernel, rfl, rfl, by decide +kernel, by decide +kernel, by decide +kernel⟩

theorem test_meets_RegisterAperture :
    (tUp.auditRuns = true ∧ tUp.pathWaits (.aperture 7) = false ∧ tUp.apertureShut 0x3000100 = false ∧ findAlias 0x3000100 = none ∧
      ∃ l, locate 0x3000100 = some l ∧ l.row.half = .one) ∧
    tUp.Takes (.aperture 7) 0x3000100 (BitVec.ofNat 32 (fieldLe [1, 2, 3, 4] 0 4)) :=
  ⟨⟨by decide, by decide +kernel, by decide +kernel, by decide +kernel, _, rfl, by decide +kernel⟩, takes_of (by decide +kernel)⟩

/-- A data register without start, one that reads FABR_CTX_RANK of context 0, and one that writes it. -/
theorem test_meets_JtagRegisterAccess :
    let s := { tUp with secu := { Secu.reset with caps := 1 } }
    let rd : BitVec 72 := 0x3000100 + 2 ^ 65
    let wr : BitVec 72 := 0x3000100 + 7 * 2 ^ 32 + 2 ^ 64 + 2 ^ 65
    (s.power.pgood = true ∧ s.power.porDone = true ∧ s.power.held = false ∧ s.secu.caps.getLsbD 0 = true ∧ (0x3000100 : BitVec 72).getLsbD 65 = false) ∧
    (rd.getLsbD 65 = true ∧ rd.getLsbD 64 = false ∧ s.pathWaits .jtag = false ∧ rd.toNat % 2 ^ 27 = 0x3000100) ∧
    (wr.getLsbD 65 = true ∧ wr.getLsbD 64 = true ∧ wr.toNat % 2 ^ 27 = 0x3000100 ∧
      (loadIr 0x20 s).Takes .jtag 0x3000100 (BitVec.ofNat 32 (wr.toNat / 2 ^ 32))) :=
  ⟨by decide +kernel, by decide +kernel, by decide +kernel, by decide +kernel, by decide +kernel, takes_of (by decide +kernel)⟩

/-! ### Commands that are register writes -/

theorem test_meets_ClusterCommands :
    let s := { tUp with secu := { Secu.reset with caps := 2 } }
    tUp.Takes (.core 0) (aClus 511 0) 1 ∧ tUp.Takes (.core 0) (aClus 511 0) 2 ∧ tUp.Takes (.core 0) (aClus 511 0) 0 ∧ tUp.Takes (.core 0) (aClus 511 0) 4 ∧
      s.Takes (.core 0) (aClus 511 0) 8 ∧ s.Takes (.core 0) (aClus 0 0x40) 129 ∧ s.secu.caps.getLsbD 1 = true ∧ tUp.reg (aClus 511 0) &&& 2 = 0 :=
  ⟨takes_of (by decide +kernel), takes_of (by decide +kernel), takes_of (by decide +kernel), takes_of (by decide +kernel), takes_of (by decide +kernel),
    takes_of (by decide +kernel), by decide +kernel, by decide +kernel⟩

theorem test_meets_StackPortLink :
    let p := Path.core 0
    (tUp.Takes p (aHbmc 11 0) 1 ∧ tUp.Takes p (aHbmc 11 0) 2 ∧ tUp.Takes p (aHbmc 11 0) 4) ∧
    (tUp.Takes p (aPort 8 0) 0 ∧ tUp.Takes p (aPort 8 0) 1 ∧ tUp.Takes p (aPort 8 0) 2 ∧ tUp.Takes p (aPort 8 0) 0x40 ∧ tUp.locked = false) ∧
    (tUp.Takes p (aTrpl 0) 1 ∧ tUp.Takes p (aTrpl 0) 2 ∧ tUp.reg (aTrpl 0) &&& 0xC = 0) :=
  ⟨⟨takes_of (by decide +kernel), takes_of (by decide +kernel), takes_of (by decide +kernel)⟩,
    ⟨takes_of (by decide +kernel), takes_of (by decide +kernel), takes_of (by decide +kernel), takes_of (by decide +kernel), by decide +kernel⟩,
    takes_of (by decide +kernel), takes_of (by decide +kernel), by decide +kernel⟩

theorem test_meets_ResetController :
    let p := Path.core 0
    tUp.Takes p (aRstc 0x1C) 0x5AA5 ∧ tUp.Takes p (aRstc 0x0C) 8 ∧ tUp.Takes p (aRstc 0x0C) 7 ∧ (6 : Word).getLsbD 3 = false ∧
      tUp.Takes p (aRstc 0x10) 0x303 ∧ tUp.Takes p (aRstc 0x10) 0x1F04 :=
  ⟨takes_of (by decide +kernel), takes_of (by decide +kernel), takes_of (by decide +kernel), by decide, takes_of (by decide +kernel),
    takes_of (by decide +kernel)⟩

/-- Context 63 INVALID, with a quota that fits and one that does not; context 0 configured, active, quiescing. -/
theorem test_meets_ContextCommands :
    let p := Path.aperture 1
    let big := { tUp with regs := [(0x10, 0x7D), (aCtx 63 0x20, 1048577)] }
    let cfg := { tUp with ctxs := [(0, { Ctx.empty with st := .configured })] }
    let twice := { cfg with regs := [(0x10, 0x7D), (aFabr 0x100, 0x80000001), (aFabr 0x1FC, 0x80000001)] }
    (tUp.Takes p (aCtx 63 0) 1 ∧ (tUp.ctx 63).st = .invalid ∧ tUp.overcommits 63 (tUp.reg (aCtx 63 0x20)).toNat = false ∧
      tUp.rankHeld 63 0 0 = false) ∧
    (twice.Takes p (aCtx 63 0) 1 ∧ (twice.ctx 63).st = .invalid ∧ twice.rankHeld 63 (twice.regField (aCtx 63 8) 15 0) (twice.reg (aFabr 0x1FC)).toNat = true) ∧
    (big.Takes p (aCtx 63 0) 1 ∧ big.overcommits 63 (big.reg (aCtx 63 0x20)).toNat = true ∧ big.keysRise = true) ∧
    (cfg.Takes p (aCtx 0 0) 0 ∧ (cfg.ctx 0).st = .configured ∧ cfg.ctxIdle 0 = true) ∧
    ((tAct tCtx).Takes p (aCtx 0 0) 3 ∧ (tAct tCtx).Takes p (aCtx 0 0) 5 ∧ ((tAct tCtx).ctx 0).st = .active) ∧
    tUp.Takes p (aCtx 63 0x20) 16 :=
  ⟨⟨takes_of (by decide +kernel), by decide +kernel, by decide +kernel⟩, ⟨takes_of (by decide +kernel), by decide +kernel, by decide +kernel⟩,
    ⟨takes_of (by decide +kernel), by decide +kernel, by decide +kernel⟩, ⟨takes_of (by decide +kernel), by decide +kernel, by decide +kernel⟩,
    ⟨takes_of (by decide +kernel), takes_of (by decide +kernel), by decide +kernel⟩, takes_of (by decide +kernel)⟩

theorem test_meets_RingCommands :
    let p := Path.aperture 1
    let cfg := { tUp with ctxs := [(0, { Ctx.empty with st := .configured })] }
    let on := { tAct tCtx with regs := [(0x10, 0x7D), (aRing 0 7 8, 0x601)] }
    (cfg.Takes p (aRing 0 7 8) 0x601 ∧ cfg.ringEn 0 7 = false ∧ (cfg.ctx 0).st = .configured) ∧
    (on.Takes p (aRing 0 7 8) 0x600 ∧ on.ringEn 0 7 = true ∧ (0x600 ^^^ on.reg (aRing 0 7 8)) &&& 0x1F00 = 0) ∧
    (tUp.Takes p (aRing 63 0 8) 1 ∧ tUp.ringEn 63 0 = false ∧ (tUp.ctx 63).st = .invalid ∧ tUp.regsWf = true) ∧
    (let s := { on with ctxs := cfg.ctxs }
     (s.ctx 0).st = .configured ∧ s.anyRing 0 = true ∧ s.keysRise = true) ∧
    ((tAct tCtx).locked = true ∧ ({ tAct tCtx with dev := .ready }).dev = .ready) :=
  ⟨⟨takes_of (by decide +kernel), by decide +kernel, by decide +kernel⟩, ⟨takes_of (by decide +kernel), by decide +kernel, by decide +kernel⟩,
    ⟨takes_of (by decide +kernel), by decide +kernel, by decide +kernel, by decide +kernel⟩, by decide +kernel, by decide +kernel⟩

/-- Each enable set and cleared; DRAIN from ACTIVE; UNFENCE from FENCED. -/
theorem test_meets_GlobalCommands :
    let p := Path.core 0
    let e := aGctl 0x10
    let all := { tUp with regs := [(0x10, 0x3C)] }
    let fenced := { tUp with dev := .fenced, prev := .ready }
    (tUp.regsWf = true ∧ tUp.locked = false ∧ tUp.Takes p e (0x7D ||| 1) ∧ all.Takes p e (0x3C &&& ~~~1) ∧ (all.reg e).getLsbD 6 = false) ∧
    (tUp.Takes p e 0x79 ∧ tUp.Takes p e 0x75 ∧ tUp.Takes p e 0x6D ∧
      tUp.Takes p e 0x5D ∧ tUp.Takes p e 0x7D ∧ (tUp.reg e).getLsbD 6 = true ∧ (tUp.reg e).getLsbD 0 = true) ∧
    (tUp.Takes p (aGctl 0x28) 24 ∧ (tAct tCtx).Takes p (aGctl 0x30) 1 ∧ (tAct tCtx).dev = .active) ∧
    (fenced.Takes p (aGctl 0x30) 2 ∧ fenced.dev = .fenced ∧ fenced.faults.diagnosing = false ∧ fenced.flash.health &&& 0x26 = 0) :=
  ⟨⟨by decide +kernel, by decide +kernel, takes_of (by decide +kernel), takes_of (by decide +kernel), by decide +kernel⟩,
    ⟨takes_of (by decide +kernel), takes_of (by decide +kernel), takes_of (by decide +kernel), takes_of (by decide +kernel), takes_of (by decide +kernel),
      by decide +kernel, by decide +kernel⟩,
    ⟨takes_of (by decide +kernel), takes_of (by decide +kernel), by decide⟩, takes_of (by decide +kernel), by decide, by decide, by decide⟩

/-- A version that injects nothing and holds nothing, and one that injects; the uplink table and the RTT; a forward step and a backward one. -/
theorem test_meets_FabricCommands :
    let p := Path.aperture 1
    let inj := { tUp with regs := [(0x10, 0x7D), (aFabr 0x200, 1)] }
    let up := { tUp with regs := [(0x10, 0x7D), (aFabr 0x10, 2), (aFabr 0x14, 4095)] }
    (tUp.Takes p (aFabr 0x200) 1 ∧ tUp.Takes p (aFabr 0x208) 1) ∧
    (inj.Takes p (aFabr 0x208) 2 ∧ (inj.stored p (aFabr 0x208) 2).regBit (aFabr 0x200) 0 ≠ (inj.stored p (aFabr 0x208) 2).regBit (aFabr 0x204) 16 ∧
      (inj.stored p (aFabr 0x208) 2).epochHeld false = 0) ∧
    (tUp.Takes p (aFabr 0x208) 2 ∧ (tUp.stored p (aFabr 0x208) 2).regBit (aFabr 0x200) 0 = (tUp.stored p (aFabr 0x208) 2).regBit (aFabr 0x204) 16) ∧
    (tUp.Takes p (aFabr 0x18) 1 ∧ up.Takes p (aFabr 0x18) 2 ∧ (up.stored p (aFabr 0x18) 2).tblEntry = some (2, 4095, 8, 0) ∧
      (tUp.stored p (aFabr 0x18) 2).tblEntry = some (0, 0, 2, 0)) ∧
    (tUp.Takes p (aFabr 0x1FC) 0x80000001 ∧ (tUp.ctx 63).st.isActive = false ∧ tUp.rankHeld 63 0 0x80000001 = false) ∧
    (tUp.Takes p (aFabr 0x4C) 0x7FFFFFFF ∧ tUp.pairValue p (aFabr 0x48) (aFabr 0x48) 0x7FFFFFFF < 2 ^ 63 ∧
      tUp.Takes p (aFabr 0x4C) 0x80000000 ∧ 2 ^ 63 ≤ tUp.pairValue p (aFabr 0x48) (aFabr 0x48) 0x80000000) :=
  ⟨⟨takes_of (by decide +kernel), takes_of (by decide +kernel)⟩, ⟨takes_of (by decide +kernel), by decide +kernel, by decide +kernel⟩,
    ⟨takes_of (by decide +kernel), by decide +kernel⟩,
    ⟨takes_of (by decide +kernel), takes_of (by decide +kernel), by decide +kernel, by decide +kernel⟩,
    ⟨takes_of (by decide +kernel), by decide +kernel, by decide +kernel⟩,
    takes_of (by decide +kernel), by decide +kernel, takes_of (by decide +kernel), by decide +kernel⟩

theorem test_meets_BoundaryCommands :
    let p := Path.aperture 1
    let busy := { tUp with bndy := { tUp.bndy with desc := some 0x1000 } }
    (tUp.Takes p (aBndy 0x4FC) 7 ∧ tUp.Takes p (aBndy 0x18) 1 ∧ tUp.bndy.desc = none) ∧ (busy.Takes p (aBndy 0x18) 1 ∧ busy.bndy.desc.isSome = true) ∧
    (tUp.Takes p (aBndy 0x2C) 0x7FFFF ∧ tUp.Takes p (aBndy 0xB8) 0x80000001 ∧ tUp.regBit (aBndy 0xB8) 31 = false) ∧
    (tUp.Takes p (aMrgn 0x10) 0 ∧ tUp.sharesFit (aMrgn 0x10) (BitVec.ofNat 32 (clampReg .mrgn 0x10 0)) = true) :=
  ⟨⟨takes_of (by decide +kernel), takes_of (by decide +kernel), by decide⟩, ⟨takes_of (by decide +kernel), by decide⟩,
    ⟨takes_of (by decide +kernel), takes_of (by decide +kernel), by decide +kernel⟩, takes_of (by decide +kernel), by decide +kernel⟩

theorem test_meets_CommitCommands :
    let p := Path.aperture 1
    let doubt := tAct { tCtx with phase := 4 }
    let led := { tUp with regs := [(0x10, 0x7D), (aNumc 0 0x4C, 9)] }
    (tUp.Takes p (aComt 63 0) 9 ∧ tUp.reg (aComt 63 0) &&& 8 = 8) ∧
    (doubt.Takes p (aComt 0 0) 10 ∧ doubt.Takes p (aComt 0 0) 12 ∧ (doubt.ctx 0).phase = 4 ∧ tUp.Takes p (aComt 0 0) 10 ∧ (tUp.ctx 0).phase ≠ 4) ∧
    (tUp.Takes p (aComtDev 0x28) 0 ∧ tUp.Takes p (aComtDev 0) 1 ∧ tUp.Takes p (aComtDev 0) 2 ∧ (tAct tCtx).Takes p (aComtDev 0x14) 1) ∧
    (led.Takes p (aNumc 0 0x50) 9 ∧ ((9 : Word) - led.reg (aNumc 0 0x50)).toNat ≤ (led.reg (aNumc 0 0x4C) - led.reg (aNumc 0 0x50)).toNat) ∧
    (tUp.Takes p (aProbe 0x14) 1 ∧ ({ tUp with probe := some (1, 2) }).probe = some (1, 2)) :=
  ⟨⟨takes_of (by decide +kernel), by decide +kernel⟩,
    ⟨takes_of (by decide +kernel), takes_of (by decide +kernel), by decide +kernel, takes_of (by decide +kernel), by decide +kernel⟩,
    ⟨takes_of (by decide +kernel), takes_of (by decide +kernel), takes_of (by decide +kernel), takes_of (by decide +kernel)⟩,
    ⟨takes_of (by decide +kernel), by decide +kernel⟩, takes_of (by decide +kernel), rfl⟩

/-- A load of 256 bytes at 4096 into slot A, an activation of a valid staged runtime, and an acknowledgement of three drained entries. -/
theorem test_meets_SecurityCommands :
    let p := Path.aperture 1
    let ld := { tUp with regs := [(0x10, 0x7D), (aSecu 0x10, 4096), (aSecu 0x18, 256)] }
    let dr := { tUp with audit := { Audit.reset with drained := 3 } }
    (ld.Takes p (aSecu 0x1C) 1 ∧ ld.loadRefused 0 = false) ∧ (tUp.Takes p (aSecu 0x24) 1 ∧ tUp.Takes p (aSecu 0x24) 2) ∧
    (tUp.Takes p (aSecu 0x30) 3 ∧ tUp.secu.quote = none) ∧ (tUp.Takes p (aSecu 0x38) 1 ∧ tUp.Takes p (aSecu 0x38) 2) ∧
    (dr.Takes p (aAudt 0x2C) 0 ∧ dr.regsWf = true ∧ dr.ackOk 3 = true) ∧ tUp.Takes p (aAudt 0x54) 0 :=
  ⟨⟨takes_of (by decide +kernel), by decide +kernel⟩, ⟨takes_of (by decide +kernel), takes_of (by decide +kernel)⟩,
    ⟨takes_of (by decide +kernel), by decide⟩, ⟨takes_of (by decide +kernel), takes_of (by decide +kernel)⟩,
    ⟨takes_of (by decide +kernel), by decide +kernel, by decide +kernel⟩, takes_of (by decide +kernel)⟩

/-! ### Memory, rings, tasks -/

theorem test_meets_LinkFlits :
    tUp.dev ≠ .off ∧ tUp.trepel.state = 1 ∧ ([] : Bytes).length ≠ 256 ∧
    (let b := tFlit 0; b.length = 256 ∧ fieldLe b 0xF8 8 = crc64 (sliceB b 0 0xF8) ∧ fieldLe b 0 2 / 4096 = 0) ∧
    (let b := tFlit 0x1001; b.length = 256 ∧ fieldLe b 0xF8 8 = crc64 (sliceB b 0 0xF8) ∧ fieldLe b 0 2 / 4096 ≠ 0 ∧
      BitVec.ofNat 12 (fieldLe b 0 2) = tUp.trepel.rxSeq + 1) ∧
    (let b := tFlit 0x1FFF; fieldLe b 0xF8 8 = crc64 (sliceB b 0 0xF8) ∧ BitVec.ofNat 12 (fieldLe b 0 2) ≠ tUp.trepel.rxSeq + 1) ∧
    (let s := { tUp with outputs := [.line 0 [1]] }; s.trepel.state = 1 ∧ s.replayFlits ≠ []) ∧
    (let s := { tUp with trepel := { Trepel.reset with state := 2 } }; s.trepel.state ≠ 1 ∧ trainTrepel 0 s.linkCap = some 0) ∧
    ((0x100 : BitVec 16) ≠ 0 ∧ (0x100 : BitVec 16).toNat % 256 = 0) ∧
    (tUp.linkServes = true ∧ tUp.watchers 64 = [] ∧ tUp.keysRise = true ∧ NMap.rising 0 tUp.trepel.cache = true) := by decide +kernel

theorem test_meets_MemoryApertures :
    let s := tMem tCtx
    let at0 := 0x800000
    (s.trplEn = true ∧ dataSizeOk at0 256 = true ∧ s.frameOk (at0 / 2 ^ 21) = true ∧ s.partnerFrame (at0 / 2 ^ 21) = false ∧ s.stackUp (at0 / 2 ^ 36) = true ∧
      s.bndy.tableFrames.contains (at0 / 2 ^ 21) = false ∧ s.dual at0 = none ∧ Memory.wf s.mem = true) ∧
    (dataSizeOk 0x200000 4 = true ∧ s.frameOk 1 = true ∧ s.partnerFrame 1 = false ∧ s.bndy.tableFrames.contains 1 = true ∧ s.auditFull = false) ∧
    State.reset.trplEn = false ∧ dataSizeOk 0x800002 4 = false := by decide +kernel

theorem test_meets_RingEngine :
    let s := (tRing 0 []).setReg (aGeng 0) 100
    let p := { s with trepel := { s.trepel with outstanding := [(5, .pointer 0 0)] } }
    let late := ({ tRing 5 [] with time := 5000000000 }).setReg (aRing 0 5 8) 0x603
    let g := late.setRing 0 5 { Ring.empty with firstAt := some 0 }
    ((s.setReg (aGeng 0) 0).regField (aGeng 0) 15 0 = 0) ∧
    (s.regField (aGeng 0) 15 0 ≠ 0 ∧ s.activeCtxs = [0] ∧ s.ringWorks 0 0 = true ∧ (∀ q, q < 8 → q ≠ 0 → s.ringWorks 0 q = false) ∧
      s.winAllows (s.reg64 (aRing 0 0 0x0C)).toNat 64 false = true ∧ (∀ q, q < 8 → s.readingPtr 0 q = false)) ∧
    (p.ringWorks 0 0 = true ∧ p.readingPtr 0 0 = true ∧ p.trepel.marks.contains (watchIdx 0 0) = false) ∧
    (newer (p.ring 0 0).compPtr 64 = false ∧ ((64 : Word) - (p.ring 0 0).devPtr).toNat ≤ p.ringSize 0 0) ∧ newer (p.ring 0 0).compPtr 0 = true ∧
    (newer (p.ring 0 0).compPtr 65 = false ∧ p.ringSize 0 0 < ((65 : Word) - (p.ring 0 0).devPtr).toNat) ∧
    (let q := { s with trepel := { s.trepel with outstanding := [(5, .entries 0 0 0)] } }
     q.linkServes = true ∧ q.trepel.outstanding.find? (fun o => o.1 = 5) = some (5, .entries 0 0 0)) ∧
    ((g.ring 0 5).firstAt = some 0 ∧ g.regBit (aRing 0 5 8) 1 = true ∧ max 1 (g.regField (aRing 0 5 0x28) 15 0) * 1000 ≤ g.time.toNat) := by
  decide +kernel

theorem test_meets_SegmentCommands :
    let bad : Bytes := List.replicate 64 0
    let one := tSeg 0 1 0
    let nop := tEntry (leBytes 60 0)
    let taken := fun (e : Bytes) => (tAct { tCtx with rings := [(0, { Ring.empty with taken := some e })] }).setReg (aRing 0 0 8) 0x601
    let open' := fun (s : State) => s.admits 0 && s.ringEn 0 0 && (s.ring 0 0).taken.isSome
    ((tRing 0 bad).sqHead 0 0 = some bad ∧ checkOk bad = false) ∧
    (let s := tRing 0 one
     s.keysRise = true ∧ NMap.rising 0 (s.ctx 0).rings = true ∧ s.sqHead 0 0 = some one ∧ checkOk one = true ∧ (SegDesc.ofBytes one).type ≠ 0 ∧
       s.room 0 (SegDesc.ofBytes one).places = true ∧ s.afterMet 0 (SegDesc.ofBytes one) = true ∧ s.winAllows (s.reg64 (aRing 0 0 0x14)).toNat 64 true = true) ∧
    ((tRing 0 nop).sqHead 0 0 = some nop ∧ checkOk nop = true ∧ fieldLe nop 0 1 = 0) ∧
    (open' (taken (tSeg 0 1 1)) = true ∧ (SegDesc.ofBytes (tSeg 0 1 1)).id ≠ ((taken (tSeg 0 1 1)).ring 0 0).expect) ∧
    (open' (taken (tSeg 0 0 0)) = true ∧ checkSegDesc (tSeg 0 0 0) = some dTooLarge) := by decide +kernel

/-- A segment whose one task is an EVENT, and one whose predicate is decided. -/
theorem test_meets_SegmentAdmitted :
    let s := (tAct { tCtx with rings := [(0, { Ring.empty with taken := some (tSeg 0 1 0) })] }).setReg (aRing 0 0 8) 0x601
    let g := SegDesc.ofBytes (tSeg 0 1 0)
    (s.keysRise = true ∧ NMap.rising 0 (s.ctx 0).rings = true ∧ g.id = (s.ring 0 0).expect ∧ checkSegDesc (tSeg 0 1 0) = none) ∧
    (match readTable envQuiet 0 g [tDesc 10 0 []] s with
      | (.tasks vs, s1) => decide (vs.length = 1) && (checkSegTasks { s := s1, c := 0, pend := [], tasks := vs } g).isNone && s1.keysRise &&
          NMap.rising 0 (s1.ctx 0).rings && (s1.ring 0 0).cancel.isEmpty
      | _ => false) = true ∧
    (g.inDevice = false ∧ s.winAllows g.table (64 * g.count) false = true ∧ (Desc.ofBytes (sliceB (tDesc 10 0 []) 0 64)).readsExt = false) ∧
    (match readTable envQuiet 0 g [] { s with bndy := Bndy.reset } with
      | (.reject _ _, _) => true
      | _ => false) = true ∧
    (let k : Segment := { ring := 0, id := 0, order := 0, entry := tSeg 2 1 0, closed := false, predWait := true, predBind := none }
     let p := tMem { tCtx with segs := [k], handles := [(1, tScalar)] }
     (p.ctx 0).segs.find? (fun g => decide (g.ring = 0) && decide (g.id = 0) && g.predWait) = some k ∧ p.predReady 0 k = true ∧
       (Slot.ofWord k.d.predWord).handle = 1 ∧ (p.readVer 0 1 none).failed = none ∧ (p.readTensor 0 1 none).isSome = true) := by decide +kernel

/-- Room is short where a context has a task in flight and its quota is one. -/
theorem test_meets_SegmentNoRoom :
    let one := tSeg 0 1 0
    let s := ((tAct { tCtx with rings := [(0, { Ring.empty with fetched := [one] })], tasks := [tTask .queued 10 0] }).setReg (aRing 0 0 8) 0x601).setReg (aCtx 0 0x24) 1
    s.sqHead 0 0 = some one ∧ checkOk one = true ∧ (SegDesc.ofBytes one).type ≠ 0 ∧ s.room 0 (SegDesc.ofBytes one).places = false := by decide +kernel

theorem test_meets_TaskIssueAndEnd :
    let ready := fun (t : Task) => (tRun t).task? t.ref == some t && decide (t.st = .queued) && !t.superseded && decide (((tRun t).ctx 0).st = .active) &&
      !(tRun t).cqBufFull 0 && decide (((tRun t).ctx 0).lateWords = []) && (tRun t).depsMet t && (tRun t).partnerReady t &&
        (match (readTables t.who (tableConsumer t.d.kind) (tableUse t.d.kind) ((tRun t).taskStreams t) none).run (tRun t) with
          | (.ok (), u) => (u.ctx 0).group? t |>.isNone
          | _ => false) && ((tRun t).taskStreams t).isEmpty
    (ready (tTask .queued 10 0) = true ∧ (tRun (tTask .queued 10 0)).inheritedOf (tTask .queued 10 0) = none ∧ kindOnCluster (tTask .queued 10 0).d.kind = false ∧
      ((tRun (tTask .queued 10 0)).ctx 0).group? (tTask .queued 10 0) = none) ∧
    (ready (tTask .queued 1 0) = true ∧ (tRun (tTask .queued 1 0)).inheritedOf (tTask .queued 1 0) = none ∧ kindOnCluster (tTask .queued 1 0).d.kind = true ∧
      ((tRun (tTask .queued 1 0)).ctx 0).group? (tTask .queued 1 0) = none ∧ (tRun (tTask .queued 1 0)).clusterFree 0 511 1 0 = true) ∧
    (tTask .queued 5 1).d.kind = kOptimize ∧ (tRun (tTask .queued 5 1)).engineUp (quireFin 511) = true ∧
    (let t := { tTask .queued 7 0 with desc := tEntry (leBytes 1 7 ++ leBytes 7 0 ++ leBytes 4 0x80000001 ++ leBytes 44 0 ++ leBytes 4 0xFFFFFFFF) }
     let s := tAct { tCtx with tasks := [t], handles := [(1, tScalar)], vers := [(1, { Version.plain with failed := some 2 })] }
     s.task? t.ref = some t ∧ s.depsMet t = true ∧ s.inheritedOf t = some 2) ∧
    ((tRun (tTask .ran 1 0)).task? (tTask .ran 1 0).ref = some (tTask .ran 1 0) ∧ (tTask .ran 1 0).st = .ran ∧ kindOnCluster (tTask .ran 10 0).d.kind = false) ∧
    (tUp.clusters = [] ∧ tUp.rampQueue 31 = []) ∧
    (∀ k ∈ [{ Cluster.empty with rampDown := true }, { Cluster.empty with rampWait := true }],
      let s := { tUp with ramps := [(31, [511])], clusters := [(511, k)] }
      s.keysRise = true ∧ quireOf 511 = 31 ∧ s.rampQueue 31 = [511] ∧ (s.clus 511).ramping = false ∧ ∀ b, b < 512 → b ≠ 511 → (s.clus b).ramping = false) ∧
    (∀ k ∈ [{ Cluster.empty with ramping := true, rampDown := true }, { Cluster.empty with ramping := true, run := true }],
      let s := { tUp with clusters := [(511, k)] }
      s.keysRise = true ∧ s.rampQueue 31 = [] ∧ (s.clus 511).ramping = true ∧ (s.clus 511).rampWait = false ∧ ∀ b, b < 512 → b ≠ 511 → (s.clus b).ramping = false) ∧
    (let s := { tUp with clusters := [(511, { Cluster.empty with run := true, ctx := 0xFF })] }
     (s.clus 511).run = true ∧ (s.clus 511).ctx = 0xFF ∧ (s.clus 511).ramping = false ∧ (s.rampQueue 31).contains 511 = false) := by decide +kernel

/-- One issued task of each kind and OP. -/
theorem test_meets_TasksRun :
    (∀ k ∈ [(1, 0), (2, 0), (4, 0), (3, 0), (3, 1), (3, 2), (3, 3), (3, 4), (3, 5), (3, 6), (5, 1), (5, 2), (5, 3), (5, 4), (7, 0), (10, 0), (11, 1), (11, 2)],
      let t := tTask .issued k.1 k.2
      (tRun t).task? t.ref = some t ∧ t.st = .issued ∧ ((tRun t).ctx 0).st.isActive = true ∧ t.d.kind = k.1 ∧ t.d.op = k.2 ∧ t.cluster = none) ∧
    ((tTask .issued 11 1).deadline ≤ (tRun (tTask .issued 11 1)).time ∧ fieldLe (tTask .issued 11 2).d.params 8 8 ≤ (tRun (tTask .issued 11 2)).time.toNat) := by
  decide +kernel

/-- A counter of the context that stands at its wanted value, in mapped memory. -/
theorem test_meets_WaitCounter :
    let t := tTask .issued 11 1
    let s := (tMem { tCtx with tasks := [t] }).setReg (aCtx 0 0x18) 0
    s.task? t.ref = some t ∧ s.counterReached t = true := by decide +kernel

/-- A task of each collective, issued and waiting; a window that opens for one whose tensors are defined. -/
theorem test_meets_CollectivesRun :
    (∀ op ∈ [1, 2, 3, 4, 5, 6, 7], ∀ st ∈ [TaskState.issued, TaskState.waiting],
      let t := tTask st 6 op
      (tRun t).task? t.ref = some t ∧ t.st = st ∧ ((tRun t).ctx 0).st.isActive = true ∧ t.d.kind = kCollective ∧ t.d.op = op) ∧
    (let t := { tTask .issued 6 1 with desc := tEntry (leBytes 1 6 ++ leBytes 7 0 ++ leBytes 4 0x80000001 ++ leBytes 12 0 ++ leBytes 4 0x80000001 ++ leBytes 4 0 ++
        leBytes 1 1 ++ leBytes 23 0 ++ leBytes 4 0xFFFFFFFF) }
     let s := tAct { tCtx with tasks := [t], handles := [(1, tScalar)] }
     (ColParams.ofBytes t.d.params).group = true ∧ s.window? t.ref = none ∧ (s.fabric.windows.length + 1) * s.colWindowBytes ≤ 32 * 2 ^ 20 ∧
       (match s.colView t with | some v => !s.mapFails v | none => false) = true) := by decide +kernel

/-! ### The admin ring -/

/-- An admin command of number 0 at the head of its ring: TYPE, and the 44 operand bytes. -/
def tAdminEntry (typ : Nat) (ops : Bytes) : Bytes := tEntry (leBytes 1 typ ++ leBytes 15 0 ++ sliceB ops 0 44)
def tAdmin (x : Ctx) (e : Bytes) : State :=
  ((tMem { x with rings := [(7, { Ring.empty with fetched := [e], compPtr := 1 })] }).setReg (aRing 0 7 8) 0x601).setReg (aCtx 0 0x20) 16

/-- What a command of the ring meets before its own checks. -/
def tHead (s : State) (e : Bytes) : Bool :=
  decide (s.adminHead 0 = some e) && checkOk e && decide (BitVec.ofNat 32 (fieldLe e 4 4) = (s.ring 0 7).expect) && !adminReserved e

/-- The state with that command taken. -/
def tTaken (s : State) : State := (consume 0 7 s).setRing 0 7 { (consume 0 7 s).ring 0 7 with expect := ((consume 0 7 s).ring 0 7).expect + 1 }

/-- A task in flight that reads or writes handle 1. -/
def tBusy : Task := { tTask .issued 7 0 with desc := tEntry (leBytes 1 7 ++ leBytes 7 0 ++ leBytes 4 0x80000001 ++ leBytes 44 0 ++ leBytes 4 0xFFFFFFFF) }

/-- A defined binary32 stream table at VA 0 in two copies, its header at the context's values. -/
def tStream (e : Bytes) : State :=
  let s := tAdmin { tCtx with handles := [(2, { tScalar with flags := 1, tiles := 2 })] } e
  let head := NMap.setRun hbmClear (NMap.setRun hbmClear s.mem 0x800000 (leBytes 8 (2 ^ 64 - 1))) 0x800018 (8 :: leBytes 8 0xf7a18709ff1ebc66)
  (({ s with mem := NMap.setRun hbmClear head 0x804000 (leBytes 8 (2 ^ 64 - 1)) }).setReg (aRngs 0 0x08) 0x80000002).setReg64 (aRngs 0 0) 0xFFFFFFFFFFFFFFFF

theorem test_meets_AdminCommands :
    (let e := tAdminEntry 0x20 (leBytes 4 1 ++ leBytes 20 0 ++ leBytes 4 1)
     let s := tAdmin tCtx e
     let b := tAdmin { tCtx with tasks := [tBusy] } e
     tHead s e = true ∧ fieldLe e 0 1 = 0x20 ∧ checkDefn (sliceB e 0x18 32) = none ∧ (tTaken s).beyondHtab 0 1 = false ∧ (tTaken s).handleBusy 0 1 = false ∧
       tHead b e = true ∧ (tTaken b).handleBusy 0 1 = true) ∧
    (let e := tAdminEntry 0x21 (leBytes 4 1 ++ leBytes 4 1 ++ leBytes 4 2)
     let s := tAdmin tCtx e
     let v := s.setCtx 1 { tCtx with handles := [(1, { tScalar with flags := 4 })] }
     let u := tTaken v
     tHead v e = true ∧ fieldLe e 0 1 = 0x21 ∧ fieldLe e 0x10 1 = 1 ∧ (u.ctx 1).st ≠ .invalid ∧ (u.ctx 1).handle? 1 = some { tScalar with flags := 4 } ∧
       u.beyondHtab 0 2 = false ∧ u.ctxJob 0 = u.ctxJob 1 ∧ u.handleBusy 0 2 = false) ∧
    (let e := tAdminEntry 0x22 (leBytes 4 2)
     let s := tStream e
     tHead s e = true ∧ fieldLe e 0 1 = 0x22 ∧ (tTaken s).beyondHtab 0 2 = false ∧ (((tTaken s).ctx 0).handle? 2).isSome = true ∧ (tTaken s).handleBusy 0 2 = false) ∧
    (let e := tAdminEntry 0x23 (leBytes 4 3)
     tHead (tAdmin tCtx e) e = true ∧ fieldLe e 0 1 = 0x23 ∧ fieldLe e 0x10 1 = 3) ∧
    (let e := tAdminEntry 0x24 (leBytes 8 1)
     let s := tAdmin tCtx e
     tHead s e = true ∧ fieldLe e 0 1 = 0x24 ∧ ¬ BitVec.ofNat 64 (fieldLe e 0x10 8) ≤ (tTaken s).reg64 (aRngs 0 0x20)) ∧
    (let e := tAdminEntry 0x26 (leBytes 2 0 ++ leBytes 2 256)
     let s := tStream e
     tHead s e = true ∧ fieldLe e 0 1 = 0x26 ∧ fieldLe e 0x10 1 = 0 ∧ (match adminSetSlot 0 e (tTaken s) with | .done _ _ => true | .wait => false) = true) ∧
    (let e := tAdminEntry 0x26 (leBytes 4 1)
     let s := { tAdmin { tCtx with handles := [(2, { tScalar with flags := 1, tiles := 2, addrA := 0x40000000 })] } e with time := 5000000001 }
     let u := (tTaken s).setReg (aRngs 0 0x08) 0x80000002
     (u.streamHandle 0 = some 2 ∧ (match u.commTensor 0 2 with
       | none => false
       | some t => match (tableData envQuiet (Who.ofCtx 0) 1 1 t 0).run u with | (.error _, _) => true | _ => false) = true)) ∧
    (let e := tAdminEntry 0x27 []
     let s := tAdmin tCtx e
     let b := tAdmin { tCtx with tasks := [tBusy] } e
     tHead s e = true ∧ fieldLe e 0 1 = 0x27 ∧ ((tTaken s).ctx 0).st = .active ∧ ((setCtxState 0 .quiescing (tTaken s)).ctx 0).inflight = 0 ∧
       tHead b e = true ∧ ((setCtxState 0 .quiescing (tTaken b)).ctx 0).inflight ≠ 0) ∧
    (let e := tAdminEntry 0x28 []
     tHead (tAdmin tCtx e) e = true ∧ fieldLe e 0 1 = 0x28) := by decide +kernel

/-- Where no cell lies in a run, it reads as HBM does that nothing has written. -/
theorem readRun_clear : ∀ (n a : Nat) (m : List Host.Cell), (∀ e ∈ m, a + n ≤ e.1) → readRun n a m = List.replicate n 0
  | 0, _, _, _ => rfl
  | n + 1, a, [], h => by rw [readRun, readRun_clear n (a + 1) [] (by simp), List.replicate_succ]; rfl
  | n + 1, a, (k, v) :: t, h => by
    have hk := h (k, v) (List.mem_cons_self ..)
    simp only at hk
    rw [readRun, if_neg (by omega), readRun_clear n (a + 1) ((k, v) :: t) (fun e he => by have := h e he; omega), List.replicate_succ]; rfl

/-- The cells left after a run. -/
def tRest : Nat → Nat → List Host.Cell → List Host.Cell
  | 0, _, m => m
  | _ + 1, _, [] => []
  | n + 1, a, (k, v) :: t => if k = a then tRest n (a + 1) t else tRest n (a + 1) ((k, v) :: t)

/-- A run in two parts. -/
theorem readRun_add : ∀ (n k a : Nat) (m : List Host.Cell), readRun (n + k) a m = readRun n a m ++ readRun k (a + n) (tRest n a m)
  | 0, k, a, m => by simp [readRun, tRest]
  | n + 1, k, a, [] => by
    rw [show n + 1 + k = n + k + 1 by omega, readRun, readRun_add n k (a + 1) [], show a + 1 + n = a + (n + 1) by omega]
    cases n <;> rfl
  | n + 1, k, a, (x, v) :: t => by
    rw [show n + 1 + k = n + k + 1 by omega, readRun, readRun, tRest]
    split
    · rw [readRun_add n k (a + 1) t, show a + 1 + n = a + (n + 1) by omega]; rfl
    · rw [readRun_add n k (a + 1) ((x, v) :: t), show a + 1 + n = a + (n + 1) by omega]; rfl

/-- The bytes that a header tile starts with: the seed, and 8 for the slots, with seven more that bring the CRC back to 0. -/
def tHead33 : Bytes := List.replicate 8 0xFF ++ List.replicate 16 0 ++ [8] ++ leBytes 8 0xf7a18709ff1ebc66

/-- The element data of the header tile. -/
def tHeader : Bytes := tHead33 ++ List.replicate 8159 0

/-- The CRC-64 of the header tile. -/
theorem tHeader_crc : crc64 tHeader = 2 ^ 64 - 1 := by
  have h0 : tHead33.foldl (fun (c : Nat) (b : Byte) => crcBits 0xC96C5795D7870F42 8 (Nat.xor c b.toNat)) (2 ^ 64 - 1) = 0 := by decide +kernel
  have hz : ∀ n, (List.replicate n (0 : Byte)).foldl (fun (c : Nat) (b : Byte) => crcBits 0xC96C5795D7870F42 8 (Nat.xor c b.toNat)) 0 = 0 := by
    intro n
    induction n with
    | zero => rfl
    | succ n h => rw [List.replicate_succ, List.foldl_cons]; exact h
  rw [crc64, crcReflected, tHeader, List.foldl_append, h0, hz]; rfl

theorem eq_ok {ε α : Type} [DecidableEq α] {x : Except ε α} {a : α} (h : (match x with | .ok p => decide (p = a) | .error _ => false) = true) : x = .ok a := by
  cases x with
  | ok p => exact congrArg Except.ok (of_decide_eq_true h)
  | error e => exact nomatch h

/-- A tile whose bytes carry their CRC is read as it stands. -/
theorem loadTile_good (env : Env) (w : Who) (l : TileLoc) (i : Nat) (s : State) (pd ps : List (Nat × Nat))
    (h1 : s.rangeAt env l.ctx (l.rootIn s) (l.dataVa i) 8192 false = .ok pd)
    (h2 : s.rangeAt env l.ctx (l.rootIn s) (l.sideVa i) l.fmt.side false = .ok ps)
    (h3 : ((pd ++ ps).flatMap fun p => (bursts p.1 p.2).filter fun b => env.ue.contains b) = []) :
    let s0 := noteReads env l.ctx (l.rootIn s) (l.sideVa i) l.fmt.side (noteReads env l.ctx (l.rootIn s) (l.dataVa i) 8192 s)
    let img : TileImg := { data := s0.readPieces pd, side := (s0.readPieces ps).take (l.fmt.crcOff + 8) }
    img.slot l.fmt = img.crc l.fmt → img.huskOk l.fmt = true → loadTile env w l i s = (s0, .ok img) := by
  intro s0 img hc hh
  unfold loadTile
  simp only [h1, h2, h3]
  rw [if_neg (by simp [TileImg.poisoned, img, s0] at hc ⊢; intro _; exact hc), if_neg (by exact fun h => h hc), if_neg (by simpa using hh)]

/-- The element data of such a tile. -/
theorem tableData_good {env : Env} {w : Who} {t : Tensor} {i consumer use : Nat} {s s0 : State} {img : TileImg} (h : loadTile env w t.loc i s = (s0, .ok img)) :
    (tableData env w consumer use t i).run s = (.ok img.data, s0) := by
  simp [tableData, readTile, getS, modS, h, bind, ExceptT.bind, ExceptT.mk, ExceptT.bindCont, StateT.bind, pure, ExceptT.pure, StateT.pure, ExceptT.run]

/-- A REALIGN taken, the stream table's location, and the state once its header tile has been read. -/
def tRe : State := tTaken (tStream (tAdminEntry 0x26 (leBytes 4 1)))
def tReLoc : TileLoc := { ctx := 0, root := none, base := 0, tiles := 2, fmt := Fmt.f32, handle := 2 }
def tReRead : State :=
  noteReads envQuiet tReLoc.ctx (tReLoc.rootIn tRe) (tReLoc.sideVa 0) tReLoc.fmt.side (noteReads envQuiet tReLoc.ctx (tReLoc.rootIn tRe) (tReLoc.dataVa 0) 8192 tRe)

theorem tRe_data : tReRead.readPieces [(0x800000, 8192)] = tHeader := by
  have hr : tReRead.resolve 0x800000 = 0x800000 := by decide +kernel
  have hm : readRun 33 0x800000 (tReRead.mem.dropWhile fun e => decide (e.1 < 0x800000)) = tHead33 := by decide +kernel
  have hk : ∀ e ∈ tRest 33 0x800000 (tReRead.mem.dropWhile fun e => decide (e.1 < 0x800000)), 0x804000 ≤ e.1 := by decide +kernel
  rw [State.readPieces, List.flatMap_cons, List.flatMap_nil, List.append_nil, State.readPhys, hr, show 8192 = 33 + 8159 from rfl,
    readRun_add 33, hm, readRun_clear 8159 _ _ (by intro x hx; have := hk x hx; omega), tHeader]

theorem tRe_slot : (tReRead.readPieces [(0x804000, 64)]).take (tReLoc.fmt.crcOff + 8) = leBytes 8 0xFFFFFFFFFFFFFFFF := by decide +kernel

theorem tRe_load : loadTile envQuiet (Who.ofCtx 0) tReLoc 0 tRe = (tReRead, .ok { data := tHeader, side := leBytes 8 0xFFFFFFFFFFFFFFFF }) := by
  have h := loadTile_good envQuiet (Who.ofCtx 0) tReLoc 0 tRe [(0x800000, 8192)] [(0x804000, 64)] (eq_ok (by decide +kernel)) (eq_ok (by decide +kernel)) (by decide +kernel)
  rw [← tReRead] at h
  dsimp only at h
  rw [tRe_data, tRe_slot] at h
  refine h ?_ (by rfl)
  rw [TileImg.slot, TileImg.crc, show Fmt.crcOff tReLoc.fmt = 0 from rfl, List.take_zero, List.append_nil, tHeader_crc]
  decide

/-- REALIGN from a header tile of the context's values. -/
theorem test_meets_Realign :
    let e := tAdminEntry 0x26 (leBytes 4 1)
    tHead (tStream e) e = true ∧ fieldLe e 0 1 = 0x26 ∧ fieldLe e 0x10 1 = 1 ∧ tRe.streamHandle 0 = some 2 ∧
      ∃ t hd v, tRe.commTensor 0 2 = some t ∧ (tableData envQuiet (Who.ofCtx 0) 1 1 t 0).run tRe = (.ok hd, v) ∧ fieldLe hd 0 8 = v.seed 0 ∧
        fieldLe hd 0x18 1 = v.slotsLog2 0 ∧ fieldLe hd 8 8 = fieldLe e 0x18 8 ∧ (v.ctx 0).streamsBusy = false := by
  refine ⟨by decide +kernel, by decide +kernel, by decide +kernel, by decide +kernel, { loc := tReLoc, rows := 1, cols := 1, orient := false, rot := none }, tHeader, tReRead,
    by decide +kernel, tableData_good (t := { loc := tReLoc, rows := 1, cols := 1, orient := false, rot := none }) tRe_load, ?_, ?_, ?_, by decide +kernel⟩
  all_goals rw [tHeader, fieldLe_append_left (by decide)]; decide +kernel

/-- A function image of zeros with its CHECK. -/
def tImage : Bytes :=
  let z : Bytes := List.replicate 24576 0
  (leBytes 60 1 ++ leBytes 4 (crc32c (leBytes 60 1 ++ z))) ++ z

theorem tImage_length : tImage.length = 24640 := by simp only [tImage, List.length_append, leBytes_length, List.length_replicate]

/-- Its fields past the first byte and before the CHECK are zero. -/
theorem tImage_field (o n : Nat) (h : o + n ≤ 60) : fieldLe tImage o n = fieldLe (leBytes 60 1) o n := by
  rw [tImage, fieldLe_append_left (by simp only [List.length_append, leBytes_length]; omega), fieldLe_append_left (by simp only [leBytes_length]; omega)]

theorem tImage_zero (o n : Nat) (h : 64 ≤ o) : fieldLe tImage o n = 0 := by
  rw [tImage, fieldLe_append_right (by simp only [List.length_append, leBytes_length]; omega), fieldLe_zeros]

theorem tImage_check : fieldLe tImage 0x3C 4 = crc32c (sliceB tImage 0 0x3C ++ tImage.drop 0x40) := by
  have l : (leBytes 60 1).length = 60 := leBytes_length _ _
  have h := fieldLe_leBytes (leBytes 60 1) 4 (crc32c (leBytes 60 1 ++ List.replicate 24576 0)) (crc32c_lt _)
  rw [l] at h
  have d : tImage.drop 0x40 = List.replicate 24576 0 := by
    rw [tImage, List.drop_left' (by simp only [List.length_append, leBytes_length])]
  rw [d, tImage, fieldLe_append_left (by simp only [List.length_append, leBytes_length]; omega), h, List.append_assoc, sliceB_append l]

theorem tImage_ok : checkImage tImage = none := by
  have f := tImage_field
  have z : ∀ o, 64 ≤ o → fieldLe tImage o 4 = 0 := fun o h => tImage_zero o 4 h
  have w : userLog2w tImage = userLog2w (leBytes 60 1) := by rw [userLog2w, f 1 1 (by decide)]; rfl
  have lo : fieldLe tImage 8 4 = 0 := (f 8 4 (by decide)).trans (by decide)
  have sp : zeroB tImage 44 16 = true := by
    have l : (leBytes 60 1).length = 60 := leBytes_length _ _
    have : (tImage.drop 44).take 16 = ((leBytes 60 1).drop 44).take 16 := by
      rw [tImage, List.append_assoc, List.drop_append_of_le_length (by rw [l]; decide), List.take_append_of_le_length (by simp only [List.length_drop, l]; decide)]
    rw [zeroB, sliceB, this]; decide
  have a4 : ((List.range 4).any fun i => decide (3 < fieldLe tImage (2 + i) 1)) = false := by
    rw [List.any_eq_false]; intro i hi; have := List.mem_range.1 hi
    rw [f (2 + i) 1 (by omega)]; revert i; decide
  have fin0 : fmt32.isFin 0 = true := by decide
  have a8 : ((List.range 8).any fun i => !fmt32.isFin (fieldLe tImage (12 + 4 * i) 4)) = false := by
    rw [List.any_eq_false]; intro i hi; have := List.mem_range.1 hi
    rw [f (12 + 4 * i) 4 (by omega)]; revert i; decide
  have ak : ((List.range 6144).any fun i => !fmt32.isFin (fieldLe tImage (64 + 4 * i) 4)) = false := by
    rw [List.any_eq_false]; intro i _; rw [z (64 + 4 * i) (by omega), fin0]; decide
  rw [checkImage, if_neg (fun h => h tImage_check), if_neg]
  simp only [f 0 1 (by decide), f 6 2 (by decide), w, lo, sp, a4, a8, ak]
  decide

/-- LOAD_FUNCTION of that image. -/
theorem test_meets_LoadFunction :
    let e := tAdminEntry 0x25 (leBytes 8 0xBF ++ leBytes 8 0 ++ leBytes 4 24640)
    let s := tAdmin tCtx e
    (tHead s e = true ∧ fieldLe e 0 1 = 0x25 ∧ fieldLe e 0x10 1 = 0xBF ∧ fieldLe e 0x11 1 = 0 ∧ fieldLe e 0x20 4 = 24640 ∧
      (tTaken s).winAllows (fieldLe e 0x18 8) 24640 false = true ∧ ((tTaken s).ctx 0).funcBusy 0xBF = false ∧ (tTaken s).auditFull = false) ∧
    checkImage (sliceB tImage 0 24640) = none := by
  refine ⟨by decide +kernel, ?_⟩
  rw [← tImage_length, sliceB_self]; exact tImage_ok

theorem test_meets_WaitingEnds :
    (let b := tAdminEntry 0x28 []
     let s := tAct { tCtx with adminWait := some b }
     (s.ctx 0).adminWait = some b ∧ fieldLe (b.take 64) 0 1 ≠ 0x27 ∧ (s.ctx 0).st = .active ∧
       (match adminRun 0 (b.take 64) (b.drop 64) s with | .done _ _ => true | .wait => false) = true) ∧
    (let b := tAdminEntry 0x27 []
     let s := tAct { tCtx with st := .quiescing, adminWait := some b }
     (s.ctx 0).adminWait = some b ∧ fieldLe (b.take 64) 0 1 = 0x27 ∧ adminReserved (b.take 64) = false ∧ (s.ctx 0).st = .quiescing ∧ (s.ctx 0).inflight = 0) ∧
    (let s := tAct tCtx
     s.keysRise = true ∧ s.dev = .active ∧ s.activeCtxs = [0] ∧ s.anyRing 0 = false ∧ (s.ctx 0).inflight = 0 ∧ (s.ctx 0).st = .active) ∧
    (let g : Group := { ring := 0, seg := 0, layer := 0, step := 0, start := none, level := 0, attempt := 0, causes := 1, causesRep := 0, first := none, due := true,
                        settled := false, outcome := 0 }
     let find := fun (x : Ctx) => x.groups.find? (fun g => decide (g.ring = (0 : Fin 4) ∧ g.seg = (0 : Word) ∧ g.layer = (0 : BitVec 16)) && g.due)
     let x := { tCtx with groups := [g] }
     let t := { tTask .complete 1 0 with desc := tDesc 1 1 [] }
     let y := { tCtx with groups := [g], tasks := [t] }
     (tAct x).keysRise = true ∧ find x = some g ∧ x.st.isActive = true ∧ x.repeatSet g = [] ∧ find y = some g ∧
       ((y.repeatSet g).any fun t => decide (t.st = .issued ∨ t.st = .waiting ∨ t.st = .ran)) = false ∧ y.repeatSet g ≠ []) := by decide +kernel

/-! ### Votes, steps and checkpoints -/

/-- Three words of a tree in two orders. -/
theorem test_meets_VotesCombineInAnyOrder : ([1, 0x100000002] : List Dword).Perm [0x100000002, 1] := .swap _ _ _

/-- A word of each row of the decision table. -/
theorem test_meets_ReducedWordDecides :
    ((0x100 : Dword).getLsbD 8 = true ∧ (0x1 : Dword).getLsbD 0 = true) ∧
    (([0x20000, 0x600002, 0x200004, 0x2, 0] : List Dword).all fun w => [0, 3, 4, 5, 6, 7, 8].all fun i => !w.getLsbD i) = true ∧
    (0x20000 : Dword).getLsbD 17 = true ∧ ([0x600002, 0x200004, 0x2, 0] : List Dword).all (fun w => !w.getLsbD 17) = true ∧
    ((0x600002 : Dword).getLsbD 21 = true ∧ (0x600002 : Dword).getLsbD 22 = true) ∧
    ((0x200004 : Dword).getLsbD 2 = true ∧ (0x200004 : Dword).getLsbD 21 = true ∧ (0x200004 : Dword).getLsbD 22 = false) ∧
    ((0x2 : Dword).getLsbD 1 = true ∧ (0x2 : Dword).getLsbD 21 = false) ∧ (0 : Dword).getLsbD 1 = false ∧ (0 : Dword).getLsbD 2 = false := by
  decide +kernel

theorem test_meets_StepCommands :
    let vote := tPacket 0x20 (votePayload 0x100000001)
    let held := fun (x : Ctx) (reg : Nat) (v : Word) => (tDelivered (some 0) vote (tAct x)).setReg (aComt 0 reg) v
    let came := fun (s : State) => match takeDelivered 0x20 s with
      | none => false
      | some (d, u) => decide (d.ctx = some 0) && (match seqCheck d.pkt u with
        | (u1, .fresh) => payloadOk d.pkt.payload && decide (d.pkt.payload.length = 12) && u1.participant 0
        | _ => false)
    let child := held tCtx 0x20 0x80000005
    let leaf := ((held { tCtx with phase := 3, castAt := some 0 } 0x10 0x80000005).setReg (aComt 0 0x18) 65535).setReg (aComt 0 0x20) 0
    let root := (tAct { tCtx with phase := 3, castAt := some 0 }).setReg (aComt 0 0x20) 0x80000005
    (let t := { tTask .issued 9 0 with step := 1 }
     let s := tRun t
     s.task? t.ref = some t ∧ t.d.kind = kStepEnd ∧ t.st = .issued ∧ t.step = s.stepOf 0 ∧ (s.ctx 0).phase.toNat < 3 ∧ s.repairRuns = false ∧
       (match (writeTables envQuiet t.who t.ref t.step).run (skipStepPips 0 t.step (s.setCtx 0 { s.ctx 0 with stepTask := some t.ref })) with
         | (.ok _, _) => true
         | _ => false) = true) ∧
    (let t := { tTask .issued 9 0 with step := 1 }
     let wrote := fun (env : Env) (addr : Dword) =>
       let s := (tMem { tCtx with tasks := [t], handles := [(2, { tScalar with flags := 1, tiles := 2, addrA := addr })] }).setReg (aRngs 0 0x08) 0x80000002
       if s.task? t.ref = some t ∧ t.step = s.stepOf 0 ∧ s.repairRuns = false then
         match (writeTables env t.who t.ref t.step).run (skipStepPips 0 t.step (s.setCtx 0 { s.ctx 0 with stepTask := some t.ref })) with
         | (.error e, _) => some e.kill.isSome
         | _ => none
       else none
     wrote envQuiet 0x40000000 = some false ∧ wrote { envQuiet with ue := [0x800000 / 32] } 0 = some true) ∧
    (let s := child.setReg (aComt 0 0x10) 0x80000000
     came s = true ∧ (s.voteChildren 0).find? (fun e => decide (e.2 = vote.src)) = some (0, 5) ∧ (s.ctx 0).heldWord vote.info = none ∧
       ((s.ctx 0).childWords.find? 0).isSome = false ∧ (s.ctx 0).voted = false) ∧
    (let s := (held { tCtx with history := [(0x100000000, 7)] } 0x20 0x80000005).setReg (aComt 0 0x10) 0x40000000
     came s = true ∧ (s.voteChildren 0).find? (fun e => decide (e.2 = vote.src)) = some (0, 5) ∧ (s.ctx 0).heldWord vote.info = some (0x100000000, 7)) ∧
    (came leaf = true ∧ (leaf.voteChildren 0).find? (fun e => decide (e.2 = vote.src)) = none ∧ vote.src = leaf.voteParent 0 ∧ leaf.voteRoot 0 = false ∧
      (leaf.ctx 0).heldWord vote.info = none ∧ (leaf.ctx 0).voted = true ∧ leaf.sinceCast 0 (leaf.voteResendNs 0) = true ∧ leaf.waitsReduced 0 = true ∧
      leaf.keysRise = true ∧ (leaf.ctx 0).phase = 3 ∧ (leaf.setReg (aComt 0 0x14) 100).sinceCast 0 (2 * (leaf.setReg (aComt 0 0x14) 100).voteTimeoutNs 0) = true) ∧
    (root.sinceCast 0 (root.voteTimeoutNs 0) = true ∧ (root.ctx 0).voted = true ∧ ((root.ctx 0).childWords.find? 0).isSome = false ∧ root.regBit (aComt 0 0x20) 31 = true) ∧
    (let s := tAct { tCtx with phase := 5, castAt := some 0 }
     s.keysRise = true ∧ (s.ctx 0).phase = 5 ∧ s.sinceCast 0 (s.quietNs 0) = true) := by decide +kernel

theorem test_meets_CheckpointCommands :
    let task := fun (st : TaskState) (ps : Bytes) => { tTask st 8 0 with desc := tDesc 8 0 ps }
    let free := fun (t : Task) => (tRun t).task? t.ref == some t && decide (t.st = .issued) && ((tRun t).ctx 0).st.isActive && decide (t.d.kind = kCheckpoint) && !((tRun t).ctx 0).ckpBusy
    let run := fun (w : List Nat) => ({ task := { ctx := 0, ring := 0, seg := 0, index := 0 }, step := 0, image := [], tainted := false, correlated := false, addr := 0, waiting := w,
                                        redirected := false, l2Bad := false, l3Sent := false, status := 0 } : CkpRun)
    (let s := tAct { tCtx with tasks := [task .waiting []], ckp := some (run [1]) }
     (s.ctx 0).ckpBusy = true ∧ (s.ctx 0).ckp = some (run [1]) ∧ (run [1]).waiting.contains 1 = true) ∧
    (let t := task .issued [1]
     free t = true ∧ fieldLe t.d.params 0 1 = 1 ∧ ((tRun t).ctx 0).ckpLayers t.d.params = 0) ∧
    (let t := task .issued [1, 7]
     let s := (tRun t)
     free t = true ∧ fieldLe t.d.params 0 1 = 1 ∧ (s.ctx 0).ckpLayers t.d.params ≠ 0 ∧ s.keysRise = true ∧
       (match (ckpImage envQuiet t.who ((fieldLe t.d.params 2 1).testBit 0) false).run s with | (.ok _, u) => u.keysRise | _ => false) = true) ∧
    (let t := task .issued [2, 1]
     free t = true ∧ fieldLe t.d.params 0 1 = 2 ∧ fieldLe t.d.params 1 1 ≠ 0) ∧
    (let t := task .issued [2]
     free t = true ∧ fieldLe t.d.params 0 1 = 2 ∧ fieldLe t.d.params 1 1 = 0) ∧
    ((run [2, 3]).waiting.contains 2 = true ∧ (run [4]).waiting.contains 4 = true ∧ (run [2, 3]).waiting.contains 3 = true) ∧
    (let s := { tUp with dev := .fenced, faults := { Faults.reset with drainDetach := true } }
     s.dev = .fenced ∧ s.faults.drainDetach = true) := by decide +kernel

/-! ### Decisions, faults and resets -/

def tDecision (k : DecisionKind) (cs : List Nat) : Decision :=
  { id := 1, kind := k, clusters := cs, task := if k = .crosscheck then none else some tTaskRef, since := 0, observed := 3, checksum := 5, n := 0, element := 0, xor := 0,
    restarted := false }
def tDeciding (d : Decision) : State := { tUp with faults := { Faults.reset with decisions := [d] } }

theorem test_meets_DecisionCommands :
    (let t := { tTask .complete 1 0 with cluster := some 15, pip := [4] }
     let s := (tRun t).setReg (aMrgn 0) 0x0D
     s.task? t.ref = some t ∧ (s.ctx 0).pipRuns = [] ∧ t.st = .complete ∧ t.superseded = false ∧ t.pip.contains 4 = true ∧ t.cluster = some 15 ∧ quireOf 15 ≠ quireOf 511 ∧
       s.pipFits (quireOf 511) 5 = true ∧ s.pipFits (quireOf 511) 0x80000000 = false ∧ s.crossFits 0 5 = true ∧ s.crossFits 0 0x80000000 = false ∧ (s.clus 511).busy = false ∧
       s.clusterOut 511 = false ∧ s.regBit (aMrgn 0) 0 = true ∧ s.regBit (aMrgn 0) 3 = true ∧ s.dev.serves = true ∧ (s.ctx 0).st.isActive = true ∧
       s.regBit (aMrgn 0) 2 = true ∧ s.clusterOut (crossPair (s.reg (aRstc 0x38)).toNat).1 = false ∧ s.clusterOut (crossPair (s.reg (aRstc 0x38)).toNat).2 = false ∧
       (s.setClus 0 { Cluster.empty with reset := true }).clusterOut (crossPair (s.reg (aRstc 0x38)).toNat).1 = true) ∧
    (let k : PipRun := { tile := 4, check := 511, result := 0, row := 0, col := 0, diff := 0, tau := 0, h := 0, ratio := 0, dropped := false }
     let s := tAct { tCtx with pipRuns := [(tTask .complete 1 0, k)] }
     (s.ctx 0).pipRuns.find? (fun e => decide (e.1.ref = tTaskRef) && decide (e.2.tile = 4)) = some (tTask .complete 1 0, k) ∧ crossDiff [] [] [] = none) ∧
    (let d := tDecision .abft [0]
     (tDeciding d).decision? .abft (some tTaskRef) = some d ∧ d.clusters.contains 511 = false ∧ (2 : Int) ≠ 7 ∧ (3 : Int) = d.observed ∧ (5 : Int) ≠ d.observed ∧
       (5 : Int) = d.checksum ∧ (4 : Int) ≠ d.observed ∧ (4 : Int) ≠ d.checksum ∧
       (tDeciding d).faults.decisions.find? (fun k => decide (k.id = 1)) = some d ∧ d.kind ≠ .crosscheck ∧ d.since.toNat + 1000000 ≤ (tDeciding d).time.toNat) ∧
    (let d := tDecision .crosscheck [0, 16]
     (tDeciding d).decision? .crosscheck none = some d ∧ d.clusters.contains 511 = false) ∧
    (let d := tDecision .pip [0, 16]
     (tDeciding d).decision? .pip (some tTaskRef) = some d ∧ d.clusters.contains 511 = false) ∧
    (let d := tDecision .plausibility [0]
     (tDeciding d).decision? .plausibility (some tTaskRef) = some d ∧ ((511 :: 16 :: d.clusters).map quireOf).Nodup) := by decide +kernel

theorem test_meets_FaultCommands :
    ((tAct tCtx).dev = .active ∧ tUp.dev = .ready) ∧
    (let s := { tUp with faults := { Faults.reset with tcsCount := 17, tcsHour := 0 } }
     s.faults.tcsHour.toNat = s.time.toNat / 3600000000000 ∧ (if s.regField (aRstc 0x3C) 15 0 = 0 then 16 else s.regField (aRstc 0x3C) 15 0) < s.faults.tcsCount) ∧
    (let s := { tAct tCtx with dev := .draining }
     s.dev = .draining ∧ s.activeCtxs = [0] ∧ (s.ctx 0).inflight = 0) ∧
    (let s := { tUp with dev := .fenced, faults := { Faults.reset with diagnosing := true } }
     let x := { s with flash := { s.flash with substs := [(400, 524), (401, 525), (402, 526), (403, 527)] } }
     s.dev = .fenced ∧ s.faults.diagnosing = true ∧ s.freeSpare (511 / 128) = some 524 ∧ x.freeSpare (511 / 128) = none) ∧
    (let s := { tUp with flash := { Flash.blank with coreMask := 0x7F } }
     let f := { s with flash := { Flash.blank with coreMask := 0x3F } }
     let g := { s with faults := { Faults.reset with dblFault := some s.time } }
     s.dev ≠ .off ∧ s.flash.coreMask.getLsbD 6 = true ∧ 7 ≤ s.coresOnline ∧ s.faults.dblFault = none ∧ f.flash.coreMask.getLsbD 5 = true ∧ f.coresOnline < 7 ∧
       g.faults.dblFault = some s.time ∧ s.time.toNat < s.time.toNat + 1000000000) ∧
    (let s := { tUp with faults := { Faults.reset with spine := [(0, List.replicate 9 tUp.time)] } }
     s.spineFailed 0 = true ∧ s.spineFailed 1 = false) ∧
    (let s := (tUp.setReg (aRstc 0x0C) 8).setReg (aRstc 0x18) 100
     s.regBit (aRstc 0x0C) 3 = true ∧ s.faults.wdtKick.toNat + s.wdtTimeout ≤ s.time.toNat) ∧
    (let t := { tTask .issued 1 0 with cluster := some 511 }
     (tRun t).task? t.ref = some t ∧ t.cluster = some 511 ∧ t.st = .issued ∧ ¬ (tRun t).time < t.deadline) := by decide +kernel

def tReset (domain unit : Nat) (st : RStage) (parts : List Nat) : DomReset :=
  { id := 1, domain := domain, unit := unit, stage := st, source := 2, fenceAt := 0, boundAt := 0, answered := 0, recSeq := none, prevSeq := none, gated := false, parts := parts,
    ctxs := [], queue := [] }
def tResetting (r : DomReset) : State := { tUp with faults := { Faults.reset with resets := [r] } }

theorem test_meets_DomainResetStages :
    (∀ st ∈ [RStage.fence, .drain, .record, .assert, .release], (tResetting (tReset 5 511 st [])).reset? 1 = some (tReset 5 511 st [])) ∧
    (let s := tResetting (tReset 5 511 .drain [])
     (tReset 5 511 .drain []).fenceAt.toNat + s.drainLimit ≤ s.time.toNat) ∧
    (let r := tReset 3 3 .release [6, 3]
     (tResetting r).reset? 1 = some r ∧ (partReady r 6 true (tResetting r)).isSome = true ∧ ¬ (tResetting r).time < r.boundAt ∧ r.gated = false) ∧
    (let r := tReset 7 8 .release [7]
     (tResetting r).reset? 1 = some r ∧ (partReady r 7 true (tResetting r)).isSome = true ∧ r.domain = 7 ∧ ¬ (tResetting r).time < r.boundAt ∧ r.gated = false) ∧
    (∀ d ∈ [4, 5, 6], let r := tReset d 0 .drain []
      (tResetting r).reset? 1 = some r ∧ ¬ (tResetting r).time < r.boundAt ∧ r.gated = false) ∧
    (let r := { tReset 4 31 .assert [] with gated := true }
     (tResetting r).reset? 1 = some r ∧ r.gated = true ∧ r.stage = .assert) := by decide +kernel

/-! ### HBM, ports, the Boundary Unit -/

/-- The device with a stack as given, MRGN enabled. -/
def tHbm (n : Nat) (k : Stack) : State := { tUp with hbm := [(n, { k with state := 2 })] }.setReg (aMrgn 0) 0x13

def tRow : RowAddr := { pc := 63, bank := 15, row := 0xFFFF }

theorem test_meets_HbmUpkeep :
    let x : DueChannel := { channel := 31, reason := 1, since := 0 }
    let s := tHbm 11 { Stack.empty with due := [x], repairing := some (tRow, 2, 5) }
    let drifts := tHbm 11 { Stack.empty with temp := 50, lastTemp := [(31, 30)], erring := [{ row := { tRow with row := 1 }, ue := true, times := [] }], ueFrames := [(0x58000, 2)] }
    let idle := tHbm 11 Stack.empty
    let vote := s.setCtx 0 { tCtx with phase := 3 }
    let mv : Move := { frame := 0x58000, spare := 7, trigger := 1 }
    let moves := tHbm 11 { Stack.empty with move := some mv }
    let used := { drifts with flash := { Flash.blank with redirects := (List.range 8).map fun i => { stack := 11, frame := BitVec.ofNat 19 (0x58001 + i), spare := BitVec.ofNat 3 i } } }
    (s.stackUp 11 = true ∧ (s.stack 11).due.find? (fun e => decide (e.channel = 31)) = some x ∧ s.voteWindow = false ∧ s.slotRuns 1 = true ∧ s.keysRise = true ∧
      (s.stack 11).repairing = some (tRow, 2, 5) ∧ s.regsWf = true) ∧
    (vote.stackUp 11 = true ∧ (vote.stack 11).due.find? (fun e => decide (e.channel = 31)) = some x ∧ vote.voteWindow = true) ∧
    (idle.stackUp 11 = true ∧ (idle.stack 11).repairing = none ∧ idle.voteWindow = false ∧ idle.regBit (aMrgn 0) 0 = true ∧ idle.rowDue 11 tRow = false ∧ idle.intervalDue 11 31 = true ∧
      (idle.setReg (aMrgn 0x08) 50).stackFits 11 repairNs = true ∧ (idle.setReg (aMrgn 0x08) 0).stackFits 11 repairNs = false) ∧
    ((({ idle with time := 0 }) : State).intervalDue 11 31 = false ∧ drifts.stackUp 11 = true ∧ drifts.driftDue 11 = true ∧ drifts.rowDue 11 { tRow with row := 1 } = true ∧
      drifts.frameSpent 11 0x58000 = true ∧ 2 ≤ NMap.get (fun _ => 0) (drifts.stack 11).ueFrames 0x58000 ∧ drifts.freeFrame 11 = some 0 ∧ (drifts.stack 11).move = none ∧
      drifts.frameOk 0x58000 = true) ∧
    (let frame : BitVec 19 := 0x58000
     frame.toNat / 2 ^ 15 = 11 ∧ idle.frameOk frame.toNat = true ∧ (idle.stack 11).move = none ∧ (idle.flash.redirects.any fun r => decide (r.frame = frame)) = false ∧
       idle.freeFrame 11 = some 0 ∧ used.frameOk frame.toNat = true ∧ used.stackUp 11 = true ∧ (used.flash.redirects.any fun r => decide (r.frame = frame)) = false ∧
       used.freeFrame 11 = none) ∧
    ((moves.stack 11).move = some mv ∧ moves.stackUp 11 = true ∧ moves.voteWindow = false ∧ (moves.setReg (aMrgn 0x08) 50).stackFits 11 copyNs = true ∧ (moves.setReg (aMrgn 0x08) 0).stackFits 11 copyNs = false ∧ moves.keysRise = true ∧ NMap.rising 0 moves.hbm = true) ∧
    (idle.recalDue 0 = true ∧ idle.slotRuns 4 = true ∧ s.activityLate 1 = true ∧ idle.activityLate 4 = true) := by decide +kernel

theorem test_meets_PortAndTimeCommands :
    let at0 := fun (x : Port) => ({ tUp with fabric := { Fabric.reset with ports := [(8, x)] } }).setReg (aPort 8 0) 1
    let down := at0 { Port.empty with state := 4 }
    let up := ((at0 { Port.empty with state := 2 }).setReg (aPort 8 0x38) 1).setReg (aPort 8 0x10) 1
    let q : Queued := { pkt := tPacket 1 [], transit := true, turned := false, stomp := false, since := 0, v0 := none, uplink := 0 }
    (down.portEnabled 8 = true ∧ (down.port 8).isolated = false ∧ (down.port 8).state = 4 ∧ down.lanesOf 8 0xF0 ≠ .none ∧ down.lanesOf 8 0xFF = .none) ∧
    ((up.port 8).up = true ∧ up.ucwLimit 8 < (2 : Word).toNat ∧ up.portCarries 8 = true ∧ up.regBit (aPort 8 0x38) 0 = true ∧ up.regBit (aPort 8 0x38) 2 = false ∧
      (up.setReg (aPort 8 0x38) 5).regBit (aPort 8 0x38) 2 = true) ∧
    (let s := { tUp with fabric := { Fabric.reset with epochOpen := true } }
     let h := { tUp with fabric := { Fabric.reset with epochOpen := true, ports := [(0, { Port.empty with queue := [{ q with pkt := { q.pkt with epoch := true } }] })] } }
     s.fabric.epochOpen = true ∧ s.epochHeld (!s.regBit (aFabr 0x200) 0) = 0 ∧ h.epochHeld (!h.regBit (aFabr 0x200) 0) ≠ 0) ∧
    (let s := tUp.setReg (aFabr 0x54) 4
     s.regBit (aFabr 0x54) 2 = true ∧ (s.reg64 (aFabr 0x60)).toNat + 2000000000 ≤ s.time.toNat) ∧
    (let s := at0 { Port.empty with state := 2, ptpSlave := true }
     (s.fabric.ports.any fun q => q.2.ptpSlave) = true ∧ s.fabric.syncAt.toNat + 3000000000 ≤ s.time.toNat) := by decide +kernel

theorem test_meets_BoundaryEvents :
    let b := leBytes 1 1 ++ leBytes 1 1 ++ leBytes 2 1 ++ leBytes 4 178 ++ leBytes 4 1 ++ leBytes 16 0 ++ leBytes 4 1 ++ leBytes 146 0
    let load := fun (a : Dword) => { tUp with bndy := { tUp.bndy with desc := some a } }
    let hot := { sensorsZero with junction := [0, 110] }
    ({ tUp with bndy := { tUp.bndy with winPending := true } }).bndy.winPending = true ∧ tUp.bndy.winPending = false ∧
    ((load 0).bndy.desc = some 0 ∧ (load 0).linkServes = true ∧ (load 0).descResult 0 b true = 1 ∧ fieldLe b 1 1 = 1 ∧ (load 0).descResult 0 b false = 5) ∧
    (tUp.power.porDone = true ∧ tUp.power.held = false ∧ State.reset.power.porDone = false ∧ tUp.regsWf = true ∧ tUp.bndy.trip = false) ∧
    (let calm := { tUp with bndy := { tUp.bndy with calm := 9 } }
     (∀ d ∈ sensorsZero.junction, d < 95) ∧ calm.bndy.calm = 9 ∧ ¬ calm.powerLimit < sensorsZero.watt1ms.toNat) ∧
    (let c := leBytes 1 1 ++ leBytes 1 1 ++ leBytes 2 1 ++ leBytes 4 178 ++ leBytes 4 1 ++ leBytes 12 0 ++ leBytes 4 (2 ^ 21) ++ leBytes 4 1 ++ leBytes 146 0
     (load 0).descResult 0 c true = 8 ∧ fieldLe c 1 1 = 1 ∧ (load 0).rangeBad 1 (fieldLe c 0x18 4) (fieldLe c 0x1C 4) = true) ∧
    ((∃ d ∈ hot.junction, 100 ≤ d) ∧ ∃ d ∈ hot.junction, 110 ≤ d) ∧
    (tUp.setReg (aGctl 0x2C) 0x128).regBit (aGctl 0x2C) 8 = true ∧ ({ tUp with probe := some (1, 2) }).probe = some (1, 2) := by decide +kernel

/-! ### Frames, packets, the twin, the security engine -/

theorem test_meets_HeaderReadsBack :
    let p := tPacket 1 (List.replicate 9600 0)
    opClass p.op.toNat = some p.cls.toNat ∧ p.mc = false ∧ p.mcDim = 0 ∧ p.mcSpan = 0 ∧ p.addrMode = false ∧ p.altRank = 0 ∧ p.payload.length ≤ 9600 ∧
      p.hops.toNat < tUp.hopLimit ∧
      (let q := { tPacket 0x10 [] with mc := true, cls := 2, mcDim := 2 }
       q.mc = true ∧ q.mcDim ≠ 3 ∧ 2 ≤ q.cls.toNat ∧ opClass q.op.toNat = some q.cls.toNat) := by decide +kernel

/-- A device whose port `n` is up as given. -/
def tPort (n : Nat) (x : Port) : State := ({ tUp with fabric := { Fabric.reset with ports := [(n, { x with state := 2 })] } }).setReg (aFabr 0) 0x80000000

/-- A frame around a transport header, native or in UDP over IPv4. -/
def tNative (ver : Byte) : Bytes := withFcs (List.replicate 12 0 ++ [0x88, 0xB5, ver] ++ List.replicate 47 0) false
def tRouted : Bytes :=
  withFcs (List.replicate 12 0 ++ [0x08, 0, 0x45, 0, 0, 76] ++ List.replicate 5 0 ++ [17] ++ List.replicate 6 0 ++ [10, 0, 0, 1, 0x10, 0, 0x10, 0, 0, 56, 0, 0, 0x10] ++
    List.replicate 47 0) false

theorem test_meets_FrameCommands :
    let s := tPort 0 Port.empty
    let good := tNative 0x10
    let bad := good.take 65 ++ [0]
    let u := ((tPort 7 Port.empty).setReg (aPort 7 0x30) 0x0A000001).setReg (aFabr 8) 0x1000
    let q : Queued := { pkt := tPacket 1 [], transit := true, turned := false, stomp := false, since := 0, v0 := none, uplink := 0 }
    let w := tPort 8 { Port.empty with queue := [q] }
    let clean : Fec := { corrected := 1, uncorrectable := 0, lanes := [3] }
    let p := (noteFec 7 clean (count (aPort 7 0x88) 1 u))
    let arp : Bytes := List.replicate 12 0 ++ [8, 6, 0, 1, 8, 0, 6, 4, 0, 1] ++ List.replicate 16 0 ++ [10, 0, 0, 1]
    ((fecBad clean = false ∧ 0 < ({ clean with uncorrectable := 1 } : Fec).uncorrectable) ∧ (match p.judgeRouted 7 arp with | .other (some _) => true | _ => false) = true) ∧
    (s.portCarries 0 = true ∧ frameFcs good false = .good ∧ 66 ≤ good.length ∧ fieldBe good 12 2 = 0x88B5 ∧ fieldBe good 14 4 / 2 ^ 28 ≠ 0) ∧
    frameFcs (withFcs [] true) false = .stomped ∧ (bad.take 60).length < 66 ∧ frameFcs (bad.take 60) false = .bad ∧
    (u.portCarries 7 = true ∧ 64 ≤ tRouted.length ∧ frameFcs tRouted false = .good ∧
      (match p.judgeRouted 7 (tRouted.take (tRouted.length - 4)) with | .transport b => decide (fieldBe b 0 4 / 2 ^ 28 ≠ 0) | _ => false) = true ∧
      (match p.judgeRouted 7 ((tNative 0).take 62) with | .drop _ => true | _ => false) = true ∧ frameFcs (tNative 0) false = .good) ∧
    (w.portCarries 8 = true ∧ w.inert 8 = false ∧ (tPort 7 Port.empty).inert 7 = true ∧ (w.arbitrate 8 [(0, 0, 1)]).isSome = true ∧ (w.port 8).queue[0]? = some q ∧ w.arbitrate 8 [] = none ∧
      q.since.toNat + clampNat (w.reg (aFabr 0x234)).toNat 20 10000 * 1000 < w.time.toNat) ∧
    (let f : TxFlow := { job := 0, src := 0, dst := 0, cls := 0, next := 0, last := 0 }
     let g : RxFlow := { job := 0, src := 0, dst := 0, cls := 0, newest := 0, seen := [], last := 0 }
     let x := ({ tUp with fabric := { Fabric.reset with tx := [f], rx := [g] } }).setReg (aFabr 0x230) 10
     x.fabric.tx[0]? = some f ∧ f.last.toNat + 2 * x.flowIdle ≤ x.time.toNat ∧ x.fabric.rx[0]? = some g ∧ g.last.toNat + x.flowIdle ≤ x.time.toNat) := by decide +kernel

/-- A sealed binary32 tile, as it is stored and as it travels. -/
def tTile : TileImg := TileImg.seal Fmt.f32 { data := List.replicate 8192 0, side := [] }
def tTilePayload : Bytes := tTile.data ++ tTile.side

theorem tTile_parts : tTilePayload.take 8192 = tTile.data ∧ tTilePayload.drop 8192 = tTile.side ∧ tTilePayload.length = Fmt.f32.stored := by
  have l : tTile.data.length = 8192 := List.length_replicate
  have m : tTile.side.length = 8 := rfl
  exact ⟨List.take_left' l, List.drop_left' l, by rw [tTilePayload, List.length_append, l, m]; rfl⟩

/-- Its CRC slot is right. -/
theorem tTile_slot : ({ data := tTilePayload.take 8192, side := tTilePayload.drop 8192 } : TileImg).slot Fmt.f32 =
    ({ data := tTilePayload.take 8192, side := tTilePayload.drop 8192 } : TileImg).crc Fmt.f32 := by
  rw [tTile_parts.1, tTile_parts.2.1]
  exact slot_seal Fmt.f32 { data := List.replicate 8192 0, side := [] } (Nat.le_of_eq rfl)

/-- So a packet that carries it is whole. -/
theorem tTile_good (op : Byte) : (tPacket op tTilePayload).tileBad Fmt.f32 = none := by
  have hl : (tPacket op tTilePayload).payload.length = Fmt.f32.stored := tTile_parts.2.2
  have hs : (tPacket op tTilePayload).image.slot Fmt.f32 = (tPacket op tTilePayload).image.crc Fmt.f32 := tTile_slot
  have hh : (tPacket op tTilePayload).image.huskOk Fmt.f32 = true := rfl
  have hp : (tPacket op tTilePayload).poison = false := rfl
  rw [Packet.tileBad, if_neg (by rw [hp]; decide), if_neg (fun h => h.elim (fun h => h hl) (fun h => h hs)), if_neg (fun h => h hh)]

/-- A fresh packet for context 0 of the memory device; the state behind its sequence check. -/
def tCame (op : Byte) (p : Packet) (s : State) : Bool := match takeDelivered op s with
  | none => false
  | some (d, u) => decide (d.ctx = some 0) && decide (d.pkt.op = p.op) && (match seqNote d.port p u with
    | (_, .fresh) => !u.resetAnswers 0 && decide ((u.ctx 0).st ≠ .killed)
    | _ => false)
def tFresh (p : Packet) (s : State) : State := (seqNote 0 p { s with fabric := { s.fabric with delivered := [] } }).1

theorem test_meets_TileWrite :
    let p := { tPacket 1 tTilePayload with target := 1 }
    let s := tDelivered (some 0) p (tMem { tCtx with handles := [(1, tScalar)] })
    let v := tFresh p s
    let seen : RxFlow := { job := 0, src := 5, dst := 0, cls := 0, newest := 1, seen := [1], last := 0 }
    tCame 1 p s = true ∧ (v.ctx 0).handle? (p.target.toNat % 2 ^ 20) = some tScalar ∧ tScalar.folio = false ∧ p.target.toNat < 2 ^ 48 ∧ ({ p with payload := [] }).tileBad Fmt.f32 = some 1 ∧
      (match v.writeTensor 0 1 0 false none with
        | none => false
        | some t => decide (p.target.toNat / 2 ^ 20 % 2 ^ 28 < t.loc.tiles) && decide (t.loc.fmt = Fmt.f32) &&
            (match storeTile envQuiet t.loc 0 (p.tile Fmt.f32 0) v with | .ok _ => true | .error _ => false)) = true ∧
      (match seqNote 0 p { s with fabric := { s.fabric with rx := [seen], delivered := [] } } with | (_, .dup) => !s.resetAnswers 0 | _ => false) = true := by
  decide +kernel

theorem test_meets_PacketCommands :
    let op : FabOp := { id := 0, task := some tTaskRef, ctx := 0, port := 0, state := .waiting, unacked := [], retries := 0, timer := 0, first := 0, tile0 := 0, acks := [] }
    let sent := { tPacket 1 [] with dst := 5, seq := 7 }
    let ops := fun (q : Packet) (s : State) => { s with fabric := { s.fabric with ops := [{ op with unacked := [q] }] } }
    (let p := { tPacket 2 (leBytes 4 1 ++ leBytes 4 (crc32c (leBytes 4 1))) with target := 0x40 }
     let s := tDelivered (some 0) p (tMem tCtx)
     tCame 2 p s = true ∧ payloadOk p.payload = true ∧ p.target.toNat % 64 = 0 ∧ ((tFresh p s).ctx 0).inFolio p.target.toNat (p.payload.length - 4) = false ∧
       (match writeVa envQuiet 0 p.target.toNat (p.payload.take 4) (tFresh p s) with | .ok _ => true | .error _ => false) = true) ∧
    (let p := { tPacket 3 [] with info := 64 }
     let s := tDelivered (some 0) p (tMem tCtx)
     tCame 3 p s = true ∧ p.info.getLsbD 31 = false ∧ p.info.toNat % 2 ^ 14 ≤ 9596 ∧
       (match fetchVa envQuiet 0 p.target.toNat 64 (tFresh p s) with | (.ok (_, none), _) => true | _ => false) = true) ∧
    (let p := tPacket 4 []
     let req := { tPacket 3 [] with dst := 5 }
     let s := ops req (tDelivered (some 0) p (tMem tCtx))
     tCame 4 p s = true ∧ (((tFresh p s).opWith (some 0) fun k => decide (k.op = 3) && decide (k.target = p.target) && decide (k.info = p.info) && decide (k.rank = p.src)).map
       fun e => e.1.task) = some (some tTaskRef)) ∧
    (let p := { tPacket 5 [] with info := 7 }
     let s := ops sent (tDelivered (some 0) p (tMem tCtx))
     tCame 5 p s = true ∧ ((tFresh p s).opWith (some 0) fun k => decide (k.cls = 0) && decide (k.seq = p.info) && decide (k.rank = p.src)).isSome = true) ∧
    (let p := { tPacket 6 [] with info := 8 }
     let s := ops sent (tDelivered (some 0) p (tMem tCtx))
     tCame 6 p s = true ∧ (nackStatus p.info).isSome = true ∧ ((tFresh p s).opWith (some 0) fun k => decide (k.cls = 0 ∨ k.cls = 2) && decide (k.rank = p.src)).isSome = true) ∧
    (let p := tPacket 0x10 tTilePayload
     let w : ColWindow := { ctx := 0, job := 0, collId := 0, task := tTaskRef, started := true, vals := [], sent := [], outbox := [], share := 140, ungranted := [] }
     let s := { tMem tCtx with fabric := { Fabric.reset with windows := [w], delivered := [{ port := 0, ctx := some 0, pkt := p }] } }
     tCame 0x10 p s = true ∧ some p.src ≠ s.ctxRank 0 ∧ s.resetAnswers 0 = false ∧ s.colWindowFor { port := 0, ctx := some 0, pkt := p } = some w ∧ p.poison = false ∧ ({ p with poison := true }).tileBad Fmt.f32 = none ∧
       (s.colTile w p).1 = Fmt.f32) ∧
    (let p := { tPacket 0x11 [] with info := 0x2400 }
     let s := tDelivered (some 0) p (tMem tCtx)
     let v := tFresh p s
     tCame 0x11 p s = true ∧ (setCredits 0 0 p.src (v.creditsFor 0 0 p.src + 9) v).colWindowFor { port := 0, ctx := some 0, pkt := p } = none) ∧
    (let s := (ops sent tUp).setReg (aFabr 0x224) 7
     let e := { op with unacked := [sent] }
     s.fabric.ops.find? (fun k => decide (k.id = 0)) = some e ∧ e.state = .waiting ∧ ¬ s.time < e.timer ∧ e.retries < s.regField (aFabr 0x224) 2 0 ∧
       (s.setReg (aFabr 0x224) 0).regField (aFabr 0x224) 2 0 ≤ e.retries) := by decide +kernel

theorem test_meets_TwinCommands :
    let twin := fun (st : BitVec 3) (hello : Bool) => { Twin.reset with state := st, hello := hello }
    let msg := fun (typ : Nat) (t : Twin) =>
      let p := { tPacket 0x21 (leBytes 12 0 ++ leBytes 4 (crc32c (leBytes 12 0))) with addrMode := true, altRank := 1, target := BitVec.ofNat 64 typ }
      { tUp with twin := t, fabric := { Fabric.reset with delivered := [{ port := 8, ctx := none, pkt := p }] } }
    let takes := fun (typ : Nat) (s : State) => match takeTwin typ s with
      | some (_, true, u) => decide (u.twin.state = s.twin.state)
      | _ => false
    (takes 3 (msg 3 (twin 1 false)) = true ∧ takes 3 (msg 3 (twin 2 true)) = true ∧ takes 4 (msg 4 (twin 1 true)) = true ∧ takes 5 (msg 5 (twin 2 true)) = true) ∧
    (let s := { tPort 8 Port.empty with twin := twin 2 true }
     s.twin.state = 2 ∧ (s.port 8).up = true ∧ s.twin.lastBeat.toNat + 1000000000 ≤ s.time.toNat) ∧
    (let p := tPacket 0x21 []
     let d : Delivered := { port := 0, ctx := none, pkt := p }
     let s := { tUp with fabric := { Fabric.reset with delivered := [d] } }
     let full := { s with fabric := { s.fabric with mgmt := List.replicate 256 p } }
     let fits := fun (s : State) => match seqNote 0 p { s with fabric := { s.fabric with delivered := s.fabric.delivered.erase d } } with
       | (u, .fresh) => decide (u.fabric.mgmt.length < 256)
       | _ => false
     let none' := fun (s : State) => match seqNote 0 p { s with fabric := { s.fabric with delivered := s.fabric.delivered.erase d } } with
       | (u, .fresh) => decide (256 ≤ u.fabric.mgmt.length)
       | _ => false
     s.fabric.delivered.find? (fun e => decide (e.pkt.op = 0x21) && !(e.pkt.pairing && decide (e.port = 8))) = some d ∧ fits s = true ∧ none' full = true) := by
  decide +kernel

theorem quoteBytes_length (s : State) : (s.quoteBytes false).length ≤ 512 := by
  simp [State.quoteBytes] <;> decide

theorem test_meets_SecurityEvents :
    let obj : SignedObj := { bytes := List.replicate 256 0, sigOk := true }
    let load := { tUp with secu := { Secu.reset with loading := some 0 } }
    (load.secu.loading = some 0 ∧ { load with secu := { load.secu with loading := none } }.loadReason 0 obj = some 1) ∧
    ({ Secu.reset with activateAt := some 0 }.activateAt = some 0 ∧ (0 : Dword).toNat + 2000000000 ≤ tUp.time.toNat) ∧
    ({ Secu.reset with restart := true }.restart = true ∧ Secu.reset.next = none) ∧
    ({ Secu.reset with quote := some false }.quote = some false) ∧
    ({ Secu.reset with caps := 8, capsExpire := 0 }.caps ≠ 0 ∧ (0 : Dword) ≤ tUp.time ∧ tUp.regsWf = true) ∧
    (tUp.twin.state ≠ 2 ∧ (tUp.setReg 0x10 0xFF).flshEn = true ∧ tUp.audit.ring.length + tUp.flash.auditArea.length ≤ auditAreaSlots) ∧ tUp.auditFull = false := by decide +kernel

/-- The quote's window allows it, and no window does not. -/
theorem test_meets_QuoteDone :
    let s := { tUp with secu := { Secu.reset with quote := some false } }
    let n := { s with bndy := { s.bndy with wins := [] } }
    s.secu.quote = some false ∧ s.winAllows (s.reg64 (aSecu 0x28)).toNat (s.quoteBytes false).length true = true ∧
      n.winAllows (n.reg64 (aSecu 0x28)).toNat (n.quoteBytes false).length true = false := by
  refine ⟨rfl, ?_, rfl⟩
  have w : ∀ (s : State) (a n : Nat), s.bndy.wins = [(0, { base := 0, pages := 0xFFFFFFF, valid := true, read := true, write := true })] → a = 0 → n ≤ 512 →
      s.winAllows a n true = true := by
    intro s a n hw ha hn
    have : n ≤ (0 : Dword).toNat + (0xFFFFFFF : BitVec 28).toNat * 4096 := Nat.le_trans hn (by decide)
    subst ha
    simp only [State.winAllows, hw, List.any_cons, List.any_nil, Bool.or_false, Bool.true_and, if_true, Nat.zero_add, Bool.and_eq_true, decide_eq_true_eq]
    exact ⟨Nat.zero_le _, this⟩
  exact w _ _ _ rfl (by decide +kernel) (quoteBytes_length _)

/-- A full audit ring. -/
theorem test_meets_AuditSlotFreed (e : AuditEntry) (s : State) (h : s.audit.ring = List.replicate auditSlots e) : s.auditFull = true := by
  rw [State.auditFull, h, List.length_replicate]; exact decide_eq_true (Nat.le_refl _)

/-! ### Arithmetic -/

/-- Magnitudes between two codes of each format: a tie, and the smallest step. -/
theorem test_meets_RoundingTakesTheRightNeighbour :
    (∀ k ∈ [fmt16, fmtBf, fmt32], (k.pack .rtz false 3 (-1) false).1 + 1 < k.inf) ∧ (fmt32.pack .rtz false 0x1000001 0 false).1 + 1 < fmt32.inf ∧
      (fmt16.pack .rtz false 1 (-25) false).1 + 1 < fmt16.inf := by decide

/-- A signalling NaN, the least code and the greatest. -/
theorem test_meets_NarrowingUndoesWidening : fmt16.isSnan 0x7C01 = true ∧ fmt16.isNan 0x7C01 = true ∧ fmtBf.isSnan 0x7F81 = true ∧ fmt16.isNan 1 = false ∧
    fmtBf.isNan 0xFF80 = false := by decide

/-! ### The spec's worked examples -/

/-- R18: 0x0000_0005 is newer than 0xFFFF_FFF0. -/
theorem test_newer : newer 0x00000005 0xFFFFFFF0 = true ∧ newer 0xFFFFFFF0 0x00000005 = false := by decide

/-- R80: the five results after it. -/
theorem test_max_min : (fMax fmt32.qnan 0x40400000 Exc.none).1 = 0x7FC00000 ∧ (fMax 0x80000000 0 Exc.none).1 = 0 ∧ (fMax 0xC0A00000 0x80000000 Exc.none).1 = 0x80000000 := by decide +kernel

/-- R99: the F4A block of class Saturated scale, and the F8A block of class Flushed. -/
theorem test_quantise_block :
    quantiseBlock 5 0x39800000 ([0x42C80000, 0xC2BE0000, 0x42A00000, 0x41400000] ++ List.replicate 12 0) (List.replicate 16 true) none none (fun _ => .rne) =
      { s8 := 0xF7, codes := [7, 15, 7, 2] ++ List.replicate 12 0, counts := { QCounts.zero with sat := 2, satBlocks := 1 } } := by decide +kernel

/-- R99: 1.3 into F4A under two draws. -/
theorem test_quantise_stochastic :
    (quantElem 5 0x3F800000 (.stoch 0x80000000) 0x3FA66666).1 = 3 ∧ (quantElem 5 0x3F800000 (.stoch 0xA0000000) 0x3FA66666).1 = 2 := by decide +kernel

/-- R99: F8B codes under S8 1.0 and T 2.0. -/
theorem test_dequant :
    let k : Fmt := { elem := 4, husks := false, block32 := false }
    (dequant k 0x3D 0x78 0x40000000 none).1 = 0x40200000 ∧ (dequant k 0xFC 0x78 0x40000000 none).1 = 0xFF800000 ∧
      (dequant k 0x7E 0x78 0x40000000 none).1 = 0x7FC00000 ∧ (dequant k 0x3D 0x03 0x40000000 none).1 = 0x7FC00000 := by decide +kernel

/-- R206: Adam at step 1. -/
theorem test_adam :
    let h : Hyper := { lr := 0x3A800000, beta1 := 0x3F600000, beta2 := 0x3F7FC000, eps := 0x35800000, wd := 0x3D800000, dampen := 0, clipNorm := 0, gradScale := 0, origin := 0 }
    let k := updConsts true false false h none 0
    let e := (updElt k 0x3D800000 0x3F400000 0 0 Exc.none).1
    k.alpha = 0x39800000 ∧ k.eps = 0x33000000 ∧ k.lrwd = 0x38800000 ∧ e.m = 0x3C000000 ∧ e.v = 0x36800000 ∧ e.w = 0x3F3FBD00 := by decide +kernel

/-- R246: a DROPOUT reference of slot 17. -/
theorem test_stepped_stream : steppedId 0x70000011 1000 8 = 0x7003E811 := by decide

/-- R264: where a device physical address lies. -/
theorem test_row : rowOf 0x3012345678 = { pc := 53, bank := 7, row := 0x123 } ∧ columnOf 0x3012345678 = 11 := by decide

/-- R306: the header words of a TILE_WRITE. -/
theorem test_header :
    ({ tPacket 1 (List.replicate 9504 0) with epoch := true, dst := 0x11171, src := 5000, job := 0x0A3C, counter := 0x17, seq := 0x2A01, last := true, target := 0x04700312 }).header.take 24 =
      [0x18, 0x01, 0x11, 0x71, 0x01, 0x00, 0x13, 0x88, 0x0A, 0x3C, 0x00, 0x17, 0x00, 0x00, 0x2A, 0x01, 0x01, 0x00, 0x25, 0x20, 0, 0, 0, 0] := by decide +kernel

/-- R323: the first hop from (6, 1, 0) to (1, 2, 3) on 8 × 8 × 4 goes X+ on virtual channel 0. -/
theorem test_route :
    (((tUp.setReg (aFabr 4) 0x040808).setReg (aFabr 0) (BitVec.ofNat 32 (0x80000000 + 6 * 2 ^ 14 + 1 * 2 ^ 7))).routeTo (1 * 2 ^ 14 + 2 * 2 ^ 7 + 3) 0 none) = some (0, false) := by decide +kernel

/-- R458: the entry of a write of 32 to CTX_SHARE of context 5. -/
theorem test_audit_entry :
    { mkEntry 1 1 0 5 0x0010140C 16 32 with seq := 0x12D687, time := 0x034630B8A000 }.head =
      [0x87, 0xD6, 0x12, 0, 0, 0, 0, 0, 0, 0xA0, 0xB8, 0x30, 0x46, 3, 0, 0, 9, 0, 5, 0, 0, 0, 0, 0, 0x0C, 0x14, 0x10, 0, 0, 0, 0, 0, 0x10, 0, 0, 0, 0, 0, 0, 0,
       0x20, 0, 0, 0, 0, 0, 0, 0] := by decide +kernel

/-- R49: the CRC-32C of the nine digits is the value every reference gives. -/
theorem test_crc32c : crc32c [0x31, 0x32, 0x33, 0x34, 0x35, 0x36, 0x37, 0x38, 0x39] = 0xE3069283 := by decide +kernel

/-! ### Ill-formed commands -/

/-- An environment that passes, and tasks at both ends of INDEX. -/
def tTaskAt (i : Nat) : TaskRef := { ctx := 63, ring := 3, seg := 0, index := i }
def tStartEnv (caps mirror : Nat) : StartEnv :=
  { capacity := List.replicate caps 64, selfRefreshAcked := true, tempsNear := true, scratchOk := true, stacksFailed := [], puf := [], trplLaneFail := 0,
    mirror := [(0, List.replicate mirror 0)] }

/-- Each check refuses an operand just outside it, and lets one at its edge pass. -/
theorem test_ill_formed_task : (Instr.event (tTaskAt 65535)).wf = true ∧ (Instr.event (tTaskAt 65536)).wf = false := by decide
theorem test_ill_formed_env :
    (Instr.matmul (tTaskAt 0) { ue := [2 ^ 35 - 1], ce := [], faults := [{ tile := 0, block := 0, row := 129, col := 129, delta := 5 }] }).wf = true ∧
      (Instr.matmul (tTaskAt 0) { ue := [2 ^ 35], ce := [], faults := [] }).wf = false ∧ (Instr.copy (tTaskAt 0) { ue := [], ce := [2 ^ 35], faults := [] }).wf = false ∧
      (Instr.matmul (tTaskAt 0) { ue := [], ce := [], faults := [{ tile := 0, block := 0, row := 130, col := 0, delta := 5 }] }).wf = false ∧
      (Instr.matvec (tTaskAt 0) { ue := [], ce := [], faults := [{ tile := 0, block := 0, row := 0, col := 130, delta := 5 }] }).wf = false := by decide
theorem test_ill_formed_start : (Instr.start (tStartEnv 12 48)).wf = true ∧ (Instr.start (tStartEnv 11 48)).wf = false ∧ (Instr.start (tStartEnv 12 47)).wf = false := by decide +kernel
theorem test_ill_formed_lines :
    (Instr.trplFlitReceived (List.replicate 256 0)).wf = true ∧ (Instr.trplFlitReceived (List.replicate 255 0)).wf = false ∧
      (Instr.rdSharedDone 0 0 (.pointer (List.replicate 64 0))).wf = true ∧ (Instr.rdSharedDone 0 0 (.pointer [])).wf = false ∧
      (Instr.rdSharedDone 0 0 (.entries [List.replicate 63 0])).wf = false ∧ (Instr.segmentValidate 0 0 [List.replicate 65 0] envQuiet).wf = false ∧
      (Instr.completion 0 0 (List.replicate 256 0)).wf = true ∧ (Instr.completion 0 0 (List.replicate 257 0)).wf = false ∧
      (Instr.memTableApertureWrite 0 0 (List.replicate 257 0)).wf = false := by decide +kernel
theorem test_ill_formed_access :
    (Instr.regApertureAccess 0 0 4 none).wf = true ∧ (Instr.regApertureAccess 0 0 3 none).wf = false ∧ (Instr.regApertureAccess 0 0 257 none).wf = false ∧
      (Instr.memDataApertureAccess 0 0 8 (some [0, 0, 0, 0]) envQuiet).wf = false := by decide
theorem test_ill_formed_images :
    (Instr.loadFunction 0 [0] envQuiet).wf = false ∧ (Instr.secuLoadDone { bytes := List.replicate 256 0, sigOk := true }).wf = true ∧
      (Instr.secuLoadDone { bytes := List.replicate 255 0, sigOk := true }).wf = false ∧ (Instr.dbgEnable (.core 0) { bytes := [], sigOk := true }).wf = false ∧
      (Instr.descLoadDone (List.replicate 178 0) true).wf = true ∧ (Instr.descLoadDone (List.replicate 177 0) true).wf = false := by decide +kernel
theorem test_ill_formed_sensors :
    (Instr.thermalClampTick { sensorsZero with junction := List.replicate 5 0, stack := List.replicate 12 0 } false).wf = true ∧
      (Instr.thermalClampTick { sensorsZero with junction := List.replicate 4 0, stack := List.replicate 12 0 } false).wf = false ∧
      (Instr.thermalClampTick { sensorsZero with junction := List.replicate 5 0, stack := List.replicate 13 0 } false).wf = false := by decide
theorem test_ill_formed_hbm_and_fabric :
    (Instr.frameCopyDone 0 [65535] 0).wf = true ∧ (Instr.frameCopyDone 0 [65536] 0).wf = false ∧ (Instr.linkTransmit 0 [(3, 1, 9)]).wf = true ∧
      (Instr.linkTransmit 0 [(4, 0, 9)]).wf = false ∧ (Instr.linkTransmit 0 [(0, 2, 9)]).wf = false ∧ (Instr.readReq { envQuiet with ue := [2 ^ 35] }).wf = false ∧
      (Instr.nativeFrameReceived 8 [] { fec := { corrected := 0, uncorrectable := 0, lanes := List.replicate 8 0 }, env := envQuiet }).wf = true ∧
      (Instr.nativeFrameReceived 8 [] { fec := { corrected := 0, uncorrectable := 0, lanes := List.replicate 9 0 }, env := envQuiet }).wf = false := by decide +kernel

/-! ### No word spells a command -/

/-- The table gives its rows no bits. -/
theorem test_no_word : decodeTableWord 16 0 = none ∧ (tUp.withFetchWord 16 0) = tUp := ⟨rfl, rfl⟩

end Sys2Proof.Machine
end

section
/-! PROOFS. The scope of the model: every step keeps the invariant, recording only records, counters saturate, and writes of registers
are stored or ignored as their verdict says. -/

namespace Sys2Proof.Machine

/-! ### Every step keeps the invariant -/

/-- What each command keeps, by the law of its meaning (Laws/Keeps*.lean). -/
theorem exec_keeps {s0 s u : State} {c : Instr} (h : Keeps false s0 s) (e : exec c s = .next u) : Keeps false s0 u := by
  cases c with
  | standbyPowerUp => exact execStandbyPowerUp_keeps h e
  | modPwrEnRise => exact execModPwrEnRise_keeps h e
  | porRelease => exact execPorRelease_keeps h e
  | modPwrEnFall => exact execModPwrEnFall_keeps h e
  | brownOut => exact execBrownOut_keeps h e
  | brownOutRecovery => exact execBrownOutRecovery_keeps h e
  | railFault => exact execRailFault_keeps h e
  | modResetNAssert => exact execModResetNAssert_keeps h e
  | modResetNRelease => exact execModResetNRelease_keeps h e
  | dbgReqNAssert => exact execDbgReqNAssert_keeps h e
  | dbgReqNRelease => exact execDbgReqNRelease_keeps h e
  | clockFailure => exact execClockFailure_keeps h e
  | refclkRestored => exact execRefclkRestored_keeps h e
  | start => exact execStart_keeps h e
  | startComplete => exact execStartComplete_keeps h e
  | startTimerExpire => exact execStartTimerExpire_keeps h e
  | recoveryPowerCycle => exact execRecoveryPowerCycle_keeps h e
  | recoveryPowerUp => exact execRecoveryPowerUp_keeps h e
  | spineFlitReceived => exact execSpineFlitReceived_keeps h e
  | spineLinkDown => exact execSpineLinkDown_keeps h e
  | trplFlitReceived => exact execTrplFlitReceived_keeps h e
  | trplReplayTimeout => exact execTrplReplayTimeout_keeps h e
  | trplRetrainDone => exact execTrplRetrainDone_keeps h e
  | trplDownTimer => exact execTrplDownTimer_keeps h e
  | snoop => exact execSnoop_keeps h e
  | gengPollExpire => exact execGengPollExpire_keeps h e
  | rdSharedDone => exact execRdSharedDone_keeps h e
  | completion => exact execCompletion_keeps h e
  | regApertureAccess => exact execRegApertureAccess_keeps h e
  | memDataApertureAccess => exact execMemDataApertureAccess_keeps h e
  | memTableApertureWrite => exact execMemTableApertureWrite_keeps h e
  | segment => exact execSegment_keeps h e
  | nop => exact execNop_keeps h e
  | segmentValidate => exact execSegmentValidate_keeps h e
  | predicateDecide => exact execPredicateDecide_keeps h e
  | sqResume => exact execSqResume_keeps h e
  | taskIssue => exact execTaskIssue_keeps h e
  | matmul => exact execMatmul_keeps h e
  | matvec => exact execMatvec_keeps h e
  | quantize => exact execQuantize_keeps h e
  | oplist => exact execOplist_keeps h e
  | rmsnormFwd => exact execRmsnormFwd_keeps h e
  | rmsnormBwd => exact execRmsnormBwd_keeps h e
  | layernormFwd => exact execLayernormFwd_keeps h e
  | layernormBwd => exact execLayernormBwd_keeps h e
  | softmaxFwd => exact execSoftmaxFwd_keeps h e
  | softmaxBwd => exact execSoftmaxBwd_keeps h e
  | compress => exact execCompress_keeps h e
  | norm => exact execNorm_keeps h e
  | update => exact execUpdate_keeps h e
  | requant => exact execRequant_keeps h e
  | allReduce => exact execAllReduce_keeps h e
  | reduceScatter => exact execReduceScatter_keeps h e
  | allGather => exact execAllGather_keeps h e
  | broadcast => exact execBroadcast_keeps h e
  | allToAll => exact execAllToAll_keeps h e
  | send => exact execSend_keeps h e
  | fetch task env => exact execFetch_keeps (x2 := env) h e
  | colWindowOpen => exact execColWindowOpen_keeps h e
  | copy => exact execCopy_keeps h e
  | event => exact execEvent_keeps h e
  | waitCounter => exact execWaitCounter_keeps h e
  | waitTimeout => exact execWaitTimeout_keeps h e
  | waitTime => exact execWaitTime_keeps h e
  | taskComplete => exact execTaskComplete_keeps h e
  | layerRepeat => exact execLayerRepeat_keeps h e
  | taskOverrun => exact execTaskOverrun_keeps h e
  | rampGrant => exact execRampGrant_keeps h e
  | defineHandle => exact execDefineHandle_keeps h e
  | shareHandle => exact execShareHandle_keeps h e
  | dropHandle => exact execDropHandle_keeps h e
  | cancel => exact execCancel_keeps h e
  | dataCursor => exact execDataCursor_keeps h e
  | loadFunction => exact execLoadFunction_keeps h e
  | setSlot => exact execSetSlot_keeps h e
  | realign => exact execRealign_keeps h e
  | quiesce => exact execQuiesce_keeps h e
  | echo => exact execEcho_keeps h e
  | adminDeferredEffect => exact execAdminDeferredEffect_keeps h e
  | quiesceDone => exact execQuiesceDone_keeps h e
  | contextRelease => exact execContextRelease_keeps h e
  | ctxValidWrite => exact execCtxValidWrite_keeps h e
  | ctxQuiesceBit => exact execCtxQuiesceBit_keeps h e
  | ctxKillBit => exact execCtxKillBit_keeps h e
  | ctxHtabSizeWrite => exact execCtxHtabSizeWrite_keeps h e
  | ringCtrlWrite => exact execRingCtrlWrite_keeps h e
  | msiTimerExpire => exact execMsiTimerExpire_keeps h e
  | pipCheck => exact execPipCheck_keeps h e
  | crosscheck => exact execCrosscheck_keeps h e
  | abftDecision => exact execAbftDecision_keeps h e
  | crosscheckDecision => exact execCrosscheckDecision_keeps h e
  | pipHardDecision => exact execPipHardDecision_keeps h e
  | plausibilityDecision => exact execPlausibilityDecision_keeps h e
  | decisionTimeout => exact execDecisionTimeout_keeps h e
  | tcsRateTrip => exact execTcsRateTrip_keeps h e
  | chipDrained => exact execChipDrained_keeps h e
  | drainComplete => exact execDrainComplete_keeps h e
  | diagnosis => exact execDiagnosis_keeps h e
  | coreDoubleFault => exact execCoreDoubleFault_keeps h e
  | mgmtTransactionTimeout => exact execMgmtTransactionTimeout_keeps h e
  | wdtExpire => exact execWdtExpire_keeps h e
  | rstcWdtKick => exact execRstcWdtKick_keeps h e
  | wdtEn => exact execWdtEn_keeps h e
  | swr => exact execSwr_keeps h e
  | rstcDomainReq => exact execRstcDomainReq_keeps h e
  | domainFence => exact execDomainFence_keeps h e
  | drainLimitExpire => exact execDrainLimitExpire_keeps h e
  | resetRecordWritten => exact execResetRecordWritten_keeps h e
  | domainPartReady => exact execDomainPartReady_keeps h e
  | resetBoundExpire => exact execResetBoundExpire_keeps h e
  | clusSrst => exact execClusSrst_keeps h e
  | clusHold => exact execClusHold_keeps h e
  | clusClrCnt => exact execClusClrCnt_keeps h e
  | injectArm => exact execInjectArm_keeps h e
  | clusInjectWrite => exact execClusInjectWrite_keeps h e
  | aliasWrite => exact execAliasWrite_keeps h e
  | aliasRead => exact execAliasRead_keeps h e
  | hbmcSrst => exact execHbmcSrst_keeps h e
  | retrainNow => exact execRetrainNow_keeps h e
  | hbmcClrCnt => exact execHbmcClrCnt_keeps h e
  | hbmRetrainDue => exact execHbmRetrainDue_keeps h e
  | hbmTrainingSlot => exact execHbmTrainingSlot_keeps h e
  | rowRepair => exact execRowRepair_keeps h e
  | frameRetire => exact execFrameRetire_keeps h e
  | frameCopyDone => exact execFrameCopyDone_keeps h e
  | recalibration => exact execRecalibration_keeps h e
  | mrgnWindow => exact execMrgnWindow_keeps h e
  | mrgnDeadlineExpire => exact execMrgnDeadlineExpire_keeps h e
  | mrgnShareWrite => exact execMrgnShareWrite_keeps h e
  | portEn => exact execPortEn_keeps h e
  | portSrst => exact execPortSrst_keeps h e
  | portClrCnt => exact execPortClrCnt_keeps h e
  | portTrainingDone => exact execPortTrainingDone_keeps h e
  | pcsLockLoss => exact execPcsLockLoss_keeps h e
  | ucwLimitExceeded => exact execUcwLimitExceeded_keeps h e
  | portRetrainTimer => exact execPortRetrainTimer_keeps h e
  | nativeFrameReceived => exact execNativeFrameReceived_keeps h e
  | routedFrameReceived => exact execRoutedFrameReceived_keeps h e
  | ptpMessage => exact execPtpMessage_keeps h e
  | v0FrameForward => exact execV0FrameForward_keeps h e
  | linkTransmit => exact execLinkTransmit_keeps h e
  | dwellExpire => exact execDwellExpire_keeps h e
  | tileWrite => exact execTileWrite_keeps h e
  | memWrite => exact execMemWrite_keeps h e
  | readReq => exact execReadReq_keeps h e
  | readData => exact execReadData_keeps h e
  | ack => exact execAck_keeps h e
  | nack => exact execNack_keeps h e
  | colData => exact execColData_keeps h e
  | colGrant => exact execColGrant_keeps h e
  | vote => exact execVote_keeps h e
  | pairHello => exact execPairHello_keeps h e
  | pairConfirm => exact execPairConfirm_keeps h e
  | heartbeat => exact execHeartbeat_keeps h e
  | heartbeatSend => exact execHeartbeatSend_keeps h e
  | twinLost => exact execTwinLost_keeps h e
  | ctlMsg => exact execCtlMsg_keeps h e
  | opTimerExpire => exact execOpTimerExpire_keeps h e
  | flowEvict => exact execFlowEvict_keeps h e
  | fabrEpochWrite => exact execFabrEpochWrite_keeps h e
  | epochSwitch => exact execEpochSwitch_keeps h e
  | fabrExcRead => exact execFabrExcRead_keeps h e
  | fabrExcWrite => exact execFabrExcWrite_keeps h e
  | fabrTblRead => exact execFabrTblRead_keeps h e
  | fabrTblWrite => exact execFabrTblWrite_keeps h e
  | fabrCtxRankWrite => exact execFabrCtxRankWrite_keeps h e
  | fabrTimeStep => exact execFabrTimeStep_keeps h e
  | ppsEdge => exact execPpsEdge_keeps h e
  | ppsLost => exact execPpsLost_keeps h e
  | ptpLost => exact execPtpLost_keeps h e
  | bndyWinCtrlWrite => exact execBndyWinCtrlWrite_keeps h e
  | winPendingClear => exact execWinPendingClear_keeps h e
  | descLoad => exact execDescLoad_keeps h e
  | descLoadDone => exact execDescLoadDone_keeps h e
  | bndyPtRelease => exact execBndyPtRelease_keeps h e
  | bndyFwpLock => exact execBndyFwpLock_keeps h e
  | thermalClampTick => exact execThermalClampTick_keeps h e
  | trplRetrain => exact execTrplRetrain_keeps h e
  | trplClrCnt => exact execTrplClrCnt_keeps h e
  | stepEnd => exact execStepEnd_keeps h e
  | voteTimeout => exact execVoteTimeout_keeps h e
  | voteResend => exact execVoteResend_keeps h e
  | inDoubt => exact execInDoubt_keeps h e
  | quietExpire => exact execQuietExpire_keeps h e
  | comtAbort => exact execComtAbort_keeps h e
  | resolveCommit => exact execResolveCommit_keeps h e
  | resolveAbort => exact execResolveAbort_keeps h e
  | checkpointWrite => exact execCheckpointWrite_keeps h e
  | checkpointRestore => exact execCheckpointRestore_keeps h e
  | checkpointRestoreLocal => exact execCheckpointRestoreLocal_keeps h e
  | ckpLayerDurable => exact execCkpLayerDurable_keeps h e
  | cadInterruptReport => exact execCadInterruptReport_keeps h e
  | twinPair => exact execTwinPair_keeps h e
  | twinUnpair => exact execTwinUnpair_keeps h e
  | detach => exact execDetach_keeps h e
  | detachConfirmed => exact execDetachConfirmed_keeps h e
  | gctlDrain => exact execGctlDrain_keeps h e
  | gctlUnfence => exact execGctlUnfence_keeps h e
  | clusEn => exact execClusEn_keeps h e
  | fabrEn => exact execFabrEn_keeps h e
  | uplinkEn => exact execUplinkEn_keeps h e
  | twinEn => exact execTwinEn_keeps h e
  | trplEn => exact execTrplEn_keeps h e
  | gengEn => exact execGengEn_keeps h e
  | gctlAclkWrite => exact execGctlAclkWrite_keeps h e
  | aclkGlideDone => exact execAclkGlideDone_keeps h e
  | numcLedgerRdWrite => exact execNumcLedgerRdWrite_keeps h e
  | rngsProbeStart => exact execRngsProbeStart_keeps h e
  | rngsProbeDone => exact execRngsProbeDone_keeps h e
  | secuLoad => exact execSecuLoad_keeps h e
  | secuLoadDone => exact execSecuLoadDone_keeps h e
  | activate => exact execActivate_keeps h e
  | confirm => exact execConfirm_keeps h e
  | confirmTimeout => exact execConfirmTimeout_keeps h e
  | mgmtOnlyRestart => exact execMgmtOnlyRestart_keeps h e
  | quoteGo => exact execQuoteGo_keeps h e
  | quoteDone => exact execQuoteDone_keeps h e
  | dbgEnable => exact execDbgEnable_keeps h e
  | dbgRevoke => exact execDbgRevoke_keeps h e
  | dbgExpire => exact execDbgExpire_keeps h e
  | auditDrain => exact execAuditDrain_keeps h e
  | auditSlotFreed => exact execAuditSlotFreed_keeps h e
  | audtAckSeqWrite => exact execAudtAckSeqWrite_keeps h e
  | audtRdSeqWrite => exact execAudtRdSeqWrite_keeps h e
  | registerWrite => exact execRegisterWrite_keeps h e
  | domainDrainEnd => exact execDomainDrainEnd_keeps h e
  | rowSpared => exact execRowSpared_keeps h e
  | runEnd => exact execRunEnd_keeps h e
  | hbmHot => exact execHbmHot_keeps h e
  | regAccess => exact execRegAccess_keeps h e
  | debugReset => exact execDebugReset_keeps h e
  | bypass code => exact execBypass_keeps (x1 := code) h e
  | standbyRailOff => exact execStandbyRailOff_keeps h e
  | smbIdentity => exact execSmbIdentity_keeps h e
  | smbState => exact execSmbState_keeps h e
  | smbStartRecord => exact execSmbStartRecord_keeps h e
  | smbHealth => exact execSmbHealth_keeps h e
  | smbResetCause => exact execSmbResetCause_keeps h e
  | smbTemperature => exact execSmbTemperature_keeps h e
  | smbPower => exact execSmbPower_keeps h e
  | smbAlertStatus => exact execSmbAlertStatus_keeps h e
  | smbRecovery => exact execSmbRecovery_keeps h e
  | smbAuditHead => exact execSmbAuditHead_keeps h e
  | alertResponseAddress => exact execAlertResponseAddress_keeps h e
  | idcode => exact execIdcode_keeps h e
  | samplePreload => exact execSamplePreload_keeps h e
  | extest => exact execExtest_keeps h e
  | extestPulse => exact execExtestPulse_keeps h e
  | extestTrain => exact execExtestTrain_keeps h e
  | clamp => exact execClamp_keeps h e
  | highz => exact execHighz_keeps h e
  | coreDebug => exact execCoreDebug_keeps h e
  | securityStatus => exact execSecurityStatus_keeps h e
  | testLogicReset => exact execTestLogicReset_keeps h e

/-- Taking a command from the queue leaves what the invariant speaks of. -/
theorem inv_withPending (s : State) (q : List Instr) : { s with pending := q }.inv = s.inv := rfl

/-- A step keeps the invariant: an idle one by `idle_keeps`, any other by what its command keeps. -/
theorem step_keeps_inv {s t : State} (i : s.inv = true) (e : step s = .next t) : t.inv = true := by
  unfold step at e
  split at e
  · injection e with e
    exact e ▸ (idle_keeps (Keeps.refl true s)).inv i
  next c rest _ =>
    exact (exec_keeps (Keeps.refl false { s with pending := rest }) e).inv ((inv_withPending s rest).trans i)

/-- Settles O3: each command's law says what it keeps, and the invariant is part of that. -/
theorem stepKeepsInvariant : Obligations.StepKeepsInvariant := fun _ _ i e => step_keeps_inv i e

/-! ### Recording -/

/-- Settles O5: both are recording in the sense of Laws/Records.lean, which follows the nesting of `raiseN`. -/
theorem recordingOnlyRecords : Obligations.RecordingOnlyRecords :=
  ⟨fun e s => (raise_rec e s).1,
    fun a n s => (rec_count a n (.inl (by simp)) (.inl (by simp)) (Rec.refl [a, a + 4] s)).1⟩

/-! ### Counters (R15) -/

section
variable {s : State} (h : s.regsWf = true) (a : Nat)
include h

theorem reg_setReg64_lo (v : Dword) : (s.setReg64 a v).reg a = v.setWidth 32 := by
  rw [State.reg_setReg64 h, if_neg (by omega), if_pos rfl]

theorem reg_setReg64_hi (v : Dword) : (s.setReg64 a v).reg (a + 4) = (v >>> 32).setWidth 32 := by
  rw [State.reg_setReg64 h, if_pos rfl]

theorem reg_setReg64_other (v : Dword) {b : Nat} (ha : b ≠ a) (hb : b ≠ a + 4) : (s.setReg64 a v).reg b = s.reg b := by
  rw [State.reg_setReg64 h, if_neg hb, if_neg ha]

/-- A counter whose pair holds `v` stands at the low 48 bits of `v`. -/
theorem count_setReg64 (v : Dword) : (s.setReg64 a v).count a = v.toNat % 2 ^ 48 := by
  unfold State.count
  rw [reg_setReg64_lo h, reg_setReg64_hi h]
  simp only [BitVec.toNat_setWidth, BitVec.toNat_ushiftRight, Nat.shiftRight_eq_div_pow]
  omega

/-- Its OVF bit is bit 63 of `v`. -/
theorem countOvf_setReg64 (v : Dword) : (s.setReg64 a v).countOvf a = v.getLsbD 63 := by
  unfold State.countOvf State.regBit
  rw [reg_setReg64_hi h]
  simp

end

/-- What a counter holds that has stopped: 2^48 − 1 with OVF set. -/
def stoppedCount : Dword := 0x8000FFFFFFFFFFFF

theorem countRaw_stopped {s : State} {a : Nat} (n : Nat) (ho : s.countOvf a = true) : countRaw a n s = (s, false) := by
  unfold countRaw
  rw [if_pos ho]

theorem countRaw_below {s : State} {a n : Nat} (ho : s.countOvf a = false) (hn : s.count a + n < 2 ^ 48 - 1) :
    countRaw a n s = (s.setReg64 a (BitVec.ofNat 64 (s.count a + n)), false) := by
  unfold countRaw
  rw [if_neg (by simp [ho]), if_pos hn]

theorem countRaw_reaches {s : State} {a n : Nat} (ho : s.countOvf a = false) (hn : 2 ^ 48 - 1 ≤ s.count a + n) (h0 : n ≠ 0) :
    countRaw a n s = (s.setReg64 a stoppedCount, true) := by
  unfold countRaw
  rw [if_neg (by simp [ho]), if_neg (by omega), if_neg h0]
  rfl

theorem count_stopped {s : State} {a : Nat} (n : Nat) (ho : s.countOvf a = true) : count a n s = s := by
  unfold count countWith
  rw [countRaw_stopped n ho]
  rfl

theorem count_below {s : State} {a n : Nat} (ho : s.countOvf a = false) (hn : s.count a + n < 2 ^ 48 - 1) :
    count a n s = s.setReg64 a (BitVec.ofNat 64 (s.count a + n)) := by
  unfold count countWith
  rw [countRaw_below ho hn]
  rfl

theorem count_reaches {s : State} {a n : Nat} (ho : s.countOvf a = false) (hn : 2 ^ 48 - 1 ≤ s.count a + n) (h0 : n ≠ 0) :
    count a n s = raise (cntSaturated a) (s.setReg64 a stoppedCount) := by
  unfold count countWith
  rw [countRaw_reaches ho hn h0]
  rfl

/-- Settles O6: each clause is one case of `count`, read back from the pair that it writes. -/
theorem countersSaturate : Obligations.CountersSaturate := by
  intro s a n h
  have only (v : Dword) : s.setReg64 a v = { s with regs := (s.setReg64 a v).regs } ∧
      ∀ b, b ≠ a → b ≠ a + 4 → (s.setReg64 a v).reg b = s.reg b :=
    ⟨rfl, fun _ => reg_setReg64_other h a v⟩
  refine ⟨fun ho hn _ => ?below, fun ho hn h0 => ?reaches, count_stopped n, ?clear, ⟨rfl, rfl, rfl, rfl, rfl⟩⟩
  case below =>
    have hv : (BitVec.ofNat 64 (s.count a + n)).toNat = s.count a + n := by
      rw [BitVec.toNat_ofNat]
      omega
    rw [count_below ho hn]
    refine ⟨?_, ?_, only _⟩
    · rw [count_setReg64 h, hv]
      omega
    · rw [countOvf_setReg64 h]
      rw [BitVec.getLsbD, hv]
      exact Nat.testBit_lt_two_pow (by omega)
  case reaches =>
    refine ⟨_, count_reaches ho hn h0, ?_, ?_, only _⟩
    · exact count_setReg64 h a stoppedCount
    · exact countOvf_setReg64 h a stoppedCount
  case clear =>
    exact ⟨count_setReg64 h a 0, countOvf_setReg64 h a 0, only 0⟩

/-! ### Writes that take effect at once (R9, R10, R455, R466, R469) -/

/-- A located register's write, as the blocks see it. -/
theorem theWrite_eq_some {p : Path} {a v : Nat} {w : RegWr} (hw : theWrite p a v = some w) :
    ∃ l, locate a = some l ∧ w = { path := p, loc := l, addr := a, val := v, tok := none } := by
  obtain ⟨l, hl, e⟩ := Option.map_eq_some_iff.1 hw
  exact ⟨l, hl, e.symm⟩

/-- REGISTER_WRITE is the write at its address. -/
theorem exec_registerWrite (p : Path) (a : BitVec 27) (v : Word) (s : State) :
    exec (.registerWrite p a v) s = .next (writeReg p a.toNat v s) := rfl

/-- Settles O16: the write reaches its register with the verdict `applied`, and `write_stored` says what that does. -/
theorem registerWriteLands : Obligations.RegisterWriteLands := by
  intro s p a v w ht hal h4 hw h1 hr hv hk
  obtain ⟨l, hl, rfl⟩ := theWrite_eq_some hw
  rw [exec_registerWrite, write_stored ht ⟨hl, h1, hr, hal, a.isLt, h4, hk⟩ hv]

/-! ### The bits stored -/

/-- What a register at `l` that holds `cur` holds after a write of `v`: its RW bits that are not locked take the value, within its
range, and the W1C bits that are 1 clear. -/
def State.mergedWord (s : State) (l : RegLoc) (cur v : Word) : Word :=
  let m := if s.locked then l.writable &&& ~~~l.row.lock else l.writable
  (cur &&& ~~~m &&& ~~~(v &&& l.row.w1c)) ||| (BitVec.ofNat 32 (clampReg l.blk l.row.off v.toNat) &&& m)

theorem storeWord_eq (l : RegLoc) (a : Nat) (v : Word) (s : State) : storeWord l a v s = s.setReg a (s.mergedWord l (s.reg a) v) := rfl

section
variable {w : RegWr} {s : State} (h : s.regsWf = true) (h1 : w.loc.row.half = .one)
include h1

theorem storeWr_one (hh : heldElsewhere w.loc = false) : storeWr w s = storeWord w.loc w.addr (BitVec.ofNat 32 w.val) s := by
  unfold storeWr
  rw [if_neg (by simp [hh]), if_neg (by simp [h1])]

include h

theorem reg_storeWr_same (hh : heldElsewhere w.loc = false) :
    (storeWr w s).reg w.addr = s.mergedWord w.loc (s.reg w.addr) (BitVec.ofNat 32 w.val) := by
  rw [storeWr_one h1 hh, storeWord_eq, State.reg_setReg h, if_pos rfl]

theorem reg_storeWr_other {b : Nat} (hb : b ≠ w.addr) : (storeWr w s).reg b = s.reg b := by
  cases hh : heldElsewhere w.loc with
  | true =>
    unfold storeWr
    rw [if_pos hh]
  | false => rw [storeWr_one h1 hh, storeWord_eq, State.reg_setReg h, if_neg hb]

end

theorem storeWr_audit (w : RegWr) (s : State) : (storeWr w s).audit = s.audit := by
  obtain ⟨r, e⟩ := storeWr_frame w s
  rw [e]

/-- CHAIN is computed from the bytes before it (R458). -/
theorem chainNext_withChain (c x : BitVec 128) (e : AuditEntry) : chainNext c { e with chain := x } = chainNext c e := by
  simp only [chainNext, AuditEntry.head]

/-- With no loss recorded an entry is appended as it is: next in SEQ, stamped with TIME, chained to the entry before it. -/
theorem auditAppend_ring {s : State} (h : s.audit.lostRun = 0) (e : AuditEntry) :
    ∃ x, (auditAppend e s).audit.ring = s.audit.ring ++ [{ e with seq := s.audit.next, time := s.time, chain := x }] ∧
      x = chainNext s.audit.chain { e with seq := s.audit.next, time := s.time, chain := x } := by
  have hg : auditGap s = s := if_pos h
  unfold auditAppend
  rw [hg]
  exact ⟨_, rfl, (chainNext_withChain _ _ _).symm⟩

/-- Settles O17: the entry changes only the ledger, and the store that follows only the register written. -/
theorem storedBits : Obligations.StoredBits := by
  intro s p a v w h hlost hw h1
  have ht : s.stored p a v = storeWr w (s.entered p a v.toNat false) := by
    unfold State.stored
    rw [hw]
  obtain ⟨x, hx⟩ := entered_frame s p a v.toNat false
  obtain ⟨l, hl, rfl⟩ := theWrite_eq_some hw
  have hwf : (s.entered p a v.toNat false).regsWf = true := by rw [hx]; exact h
  have hreg : (s.entered p a v.toNat false).reg = s.reg := entered_reg s p a v.toNat false
  refine ⟨fun hh => ?bits, fun b hb => ?others, stored_frame s p a v, ?entry⟩
  case bits =>
    rw [ht, reg_storeWr_same hwf h1 hh, hreg, hx, BitVec.ofNat_toNat, BitVec.setWidth_eq]
    rfl
  case others => rw [ht, reg_storeWr_other hwf h1 hb, hreg]
  case entry =>
    obtain ⟨c, hring, hc⟩ := auditAppend_ring hlost (regEntry p 0 a (s.oldValue p a false) v.toNat)
    rw [ht, storeWr_audit]
    exact ⟨_, hring, rfl, rfl, rfl, rfl, rfl, rfl, rfl, BitVec.ofNat_toNat .., hc⟩

/-! ### Writes without effect (R9, R469) -/

theorem auditAppend_frame (e : AuditEntry) (s : State) : ∃ x, auditAppend e s = { s with audit := x } := by
  unfold auditAppend auditGap
  split
  · exact ⟨_, rfl⟩
  · exact ⟨_, rfl⟩

/-- With nothing in the reserve an origin's entry goes to the ring, but for one of AUDT_ACK_SEQ. -/
theorem appendOrigin_ring {a : Nat} {s : State} (e : AuditEntry) (hk : isAck a = false) (hr : s.audit.reserve = []) :
    appendOrigin a e s = auditAppend e s := by
  unfold appendOrigin
  rw [flushReserve_empty _ hr, if_neg (by simp [hk])]

/-- A write at a reserved offset that is not refused: its entry, then the count. -/
theorem landNowhere_ignored {s : State} {p : Path} {a : Nat} {v : Word} (ho : s.originRefused p a v.toNat = false) (hk : isAck a = false)
    (hr : s.audit.reserve = []) : landNowhere p a v s = count (aGctl 0x50) 1 (auditAppend (regEntry p 2 a 0 v.toNat) s) := by
  unfold landNowhere
  rw [ho, if_neg (by simp)]
  dsimp only
  rw [appendOrigin_ring _ hk hr]
  rfl

/-- The register as a write of 32 bits names it, whether or not it is half of a pair. -/
def RegLoc.single (l : RegLoc) : RegLoc := { l with row := { l.row with half := .one } }

@[simp] theorem RegLoc.single_writable (l : RegLoc) : l.single.writable = l.writable := rfl

/-- A write of a register with no bit to write is one of 32 bits. -/
theorem writeOne_readOnly {a : Nat} {l : RegLoc} (hl : locate a = some l) (hr : l.row.readOnly = true) (p : Path) (v : Word) (s : State)
    (w : RegWr) (hw : w = { path := p, loc := l.single, addr := a, val := v.toNat, tok := none }) :
    writeOne p a v none s = landWrite w (w.verdict s) (countVerdict p (w.verdict s) s) := by
  subst hw
  unfold writeOne
  rw [hl]
  dsimp only
  rw [if_pos hr]
  rfl

theorem verdict_readOnly {w : RegWr} {s : State} (ho : s.originRefused w.path w.addr w.val = false) (hr : w.loc.row.readOnly = true) :
    w.verdict s = .ignored := by
  unfold RegWr.verdict
  rw [if_neg (by simp [ho]), if_pos hr]

theorem landWrite_ignored {w : RegWr} {s : State} (h1 : w.loc.row.half = .one) (hk : isAck w.addr = false) (hr : s.audit.reserve = []) :
    landWrite w .ignored s =
      hookRun w (auditAppend (regEntry w.path 2 w.addr (s.oldValue w.path w.addr false) w.val) s)
        (storeWr w (auditAppend (regEntry w.path 2 w.addr (s.oldValue w.path w.addr false) w.val) s)) := by
  unfold landWrite
  rw [h1]
  dsimp only
  rw [appendOrigin_ring _ hk hr]
  rfl

/-- A located register with no bit to write has none on its member either: PORT_CTRL, whose bits depend on the port, has bits to write. -/
theorem writable_of_readOnly {a : Nat} {l : RegLoc} (hl : locate a = some l) (hr : l.row.readOnly = true) : l.writable = 0 := by
  have hx : ∀ b ∈ blkRows, ∀ r ∈ b.rows, (r.readOnly = true ∨ r.uplink = true) → ¬ (b.blk = .port ∧ r.off = 0) := by decide +kernel
  obtain ⟨b, hb, eb, r, hr', er, hrow⟩ := locate_row hl
  have hn := hx b hb r hr' (hrow.elim (fun e => .inl (e ▸ hr)) (fun e => .inr e.1))
  rw [← eb, ← er] at hn
  unfold RegLoc.writable
  rw [if_neg hn]
  simp only [RegRow.readOnly, Bool.and_eq_true, decide_eq_true_eq] at hr
  exact hr.1.1

theorem mergedWord_noBits {l : RegLoc} (hm : l.writable = 0) (hc : l.row.w1c = 0) (s : State) (cur v : Word) :
    s.mergedWord l cur v = cur := by
  unfold State.mergedWord
  simp only [hm, hc, BitVec.ofNat_eq_ofNat, BitVec.zero_and, BitVec.and_zero, ite_self, BitVec.not_zero, BitVec.and_allOnes, BitVec.or_zero]

/-- Storing a write that has no bit to write changes no register. -/
theorem reg_storeWr_noBits {w : RegWr} {s : State} (h : s.regsWf = true) (h1 : w.loc.row.half = .one) (hm : w.loc.writable = 0)
    (hc : w.loc.row.w1c = 0) (b : Nat) : (storeWr w s).reg b = s.reg b := by
  cases hh : heldElsewhere w.loc with
  | true =>
    unfold storeWr
    rw [if_pos hh]
  | false =>
    by_cases hb : b = w.addr
    · rw [hb, reg_storeWr_same h h1 hh, mergedWord_noBits hm hc]
    · exact reg_storeWr_other h h1 hb

theorem regValue_reserved {s : State} {a : Nat} (hl : locate a = none) : s.regValue a = 0 := by
  unfold State.regValue
  rw [hl]

/-- A write of a register with no bit to write is counted, then entered as ignored; nothing but the store follows. -/
theorem write_readOnly {s : State} {p : Path} {a : Nat} {v : Word} {l : RegLoc} (ht : s.Takes p a v) (hal : findAlias a = none)
    (h27 : a < 2 ^ 27) (h4 : a % 4 = 0) (hl : locate a = some l) (hr : l.row.readOnly = true) (hk : isAck a = false)
    (hres : (count (aGctl 0x50) 1 s).audit.reserve = []) :
    writeReg p a v s = storeWr { path := p, loc := l.single, addr := a, val := v.toNat, tok := none }
      (auditAppend (regEntry p 2 a ((count (aGctl 0x50) 1 s).oldValue p a false) v.toNat) (count (aGctl 0x50) 1 s)) := by
  have hv : RegWr.verdict { path := p, loc := l.single, addr := a, val := v.toNat, tok := none } s = .ignored :=
    verdict_readOnly ht.origin hr
  unfold writeReg
  rw [writeReg_one ht hal h27 h4, writeOne_readOnly hl hr p v s _ rfl, hv]
  exact (landWrite_ignored rfl hk hres).trans (hookRun_readOnly hl hr _ rfl rfl _ _)

/-- Settles O19: at a reserved offset the write lands nowhere; at a read-only register it is counted and entered, and the store finds no
bit that it may change. -/
theorem ignoredWriteChangesNothing : Obligations.IgnoredWriteChangesNothing := by
  intro s p a v h ht hal h4 hk once hres
  refine ⟨fun hl => ⟨?reserved, regValue_reserved hl⟩, fun l hl hrw hw1c hw1s => ?readOnly⟩
  case reserved =>
    rw [exec_registerWrite, ← landNowhere_ignored ht.origin hk ht.reserve, writeReg, writeReg_one ht hal a.isLt h4, writeOne, hl]
  case readOnly =>
    have hr : l.row.readOnly = true := by simp [RegRow.readOnly, hrw, hw1c, hw1s]
    obtain ⟨x, hx⟩ := auditAppend_frame (regEntry p 2 a.toNat (once.oldValue p a.toNat false) v.toNat) once
    have hwf : once.regsWf = true := (count_keeps (aGctl 0x50) 1 (Keeps.refl true s)).regs h
    refine ⟨_, congrArg Host.Outcome.next (write_readOnly ht hal a.isLt h4 hl hr hk hres), storeWr_audit _ _, fun b => ?_⟩
    rw [hx]
    exact reg_storeWr_noBits (s := { once with audit := x }) hwf rfl (l.single_writable.trans (writable_of_readOnly hl hr)) hw1c b

end Sys2Proof.Machine
end

section
/-! PROOFS. Number formats: a value is rounded to one of the two codes around it (R76, R77, R96), and narrowing undoes widening (R78, R79). -/

namespace Sys2Proof.Machine

/-! ### Lengths and shifts -/

theorem bitLen_le {m n : Nat} : bitLen m ≤ n ↔ m < 2 ^ n := by
  unfold bitLen
  split
  case isTrue h => exact ⟨fun _ => h ▸ Nat.two_pow_pos n, fun _ => Nat.zero_le n⟩
  case isFalse h => rw [Nat.succ_le_iff, Nat.log2_lt h]

theorem lt_bitLen {m n : Nat} : n < bitLen m ↔ 2 ^ n ≤ m := by
  rw [← Nat.not_le, bitLen_le, Nat.not_lt]

theorem bitLen_mul_pow {m : Nat} (h : m ≠ 0) (j : Nat) : bitLen (m * 2 ^ j) = bitLen m + j := by
  have le {n : Nat} : bitLen (m * 2 ^ j) ≤ n + j ↔ bitLen m ≤ n := by
    rw [bitLen_le, bitLen_le, Nat.pow_add, Nat.mul_lt_mul_right (Nat.two_pow_pos j)]
  have long : j < bitLen (m * 2 ^ j) := lt_bitLen.2 (Nat.le_mul_of_pos_left _ (Nat.pos_of_ne_zero h))
  have below := le.2 (Nat.le_refl (bitLen m))
  have above := (le (n := bitLen (m * 2 ^ j) - j)).1 (by omega)
  omega

theorem mul_pow_ne_zero {a : Nat} (t : Nat) : a * 2 ^ t ≠ 0 ↔ a ≠ 0 := by
  rw [ne_eq, Nat.mul_eq_zero, or_iff_left (Nat.ne_of_gt (Nat.two_pow_pos t))]

/-- The magnitude m · 2^e in units of 2^u, for a `u` at or below `e`. -/
def inUnits (m : Nat) (e u : Int) : Nat := m * 2 ^ (e - u).toNat

theorem shiftLeft_eq_inUnits (m : Nat) (e u : Int) : m <<< (e - u).toNat = inUnits m e u := Nat.shiftLeft_eq _ _

theorem inUnits_inUnits {m : Nat} {e q u : Int} (hq : q ≤ e) (hu : u ≤ q) : inUnits (inUnits m e q) q u = inUnits m e u := by
  have : (e - u).toNat = (e - q).toNat + (q - u).toNat := by omega
  rw [inUnits, inUnits, inUnits, Nat.mul_assoc, ← Nat.pow_add, this]

/-! ### Rounding to a multiple of a quantum -/

/-- Nothing below the quantum rounds nothing up. -/
theorem up_exact (r : Rnd) (s odd : Bool) (sh : Nat) : r.up s odd 0 sh false = false := by
  have pos := Nat.ne_of_gt (Nat.two_pow_pos sh)
  cases r with
  | rne => simp only [Rnd.up, Nat.mul_zero, Nat.not_lt_zero, decide_false, ne_eq, not_true_eq_false, Bool.and_false, Bool.or_false]
  | rta => simp only [Rnd.up, Nat.mul_zero, Nat.le_zero_eq, pos, decide_false]
  | rtp => simp only [Rnd.up, ne_eq, not_true_eq_false, decide_false, Bool.or_false, Bool.and_false]
  | rtn => simp only [Rnd.up, ne_eq, not_true_eq_false, decide_false, Bool.or_false, Bool.and_false]
  | rtz => rfl
  | stoch u => simp only [Rnd.up, Nat.zero_mul, Nat.zero_div, Nat.not_lt_zero, decide_false]

/-- Rounding up depends on the part below the quantum as a fraction of it. -/
theorem up_scale (r : Rnd) (s odd : Bool) (rem sh t : Nat) : r.up s odd (rem * 2 ^ t) (sh + t) false = r.up s odd rem sh false := by
  have pos := Nat.two_pow_pos t
  have twice : 2 * (rem * 2 ^ t) = 2 * rem * 2 ^ t := (Nat.mul_assoc ..).symm
  have nonzero : rem * 2 ^ t ≠ 0 ↔ rem ≠ 0 := mul_pow_ne_zero t
  have tie : 2 * rem * 2 ^ t = 2 ^ sh * 2 ^ t ↔ 2 * rem = 2 ^ sh := Nat.mul_left_inj (Nat.ne_of_gt pos)
  cases r with
  | rne => rw [Rnd.up, Rnd.up, Nat.pow_add, twice, decide_eq_decide.2 (Nat.mul_lt_mul_right pos), decide_eq_decide.2 tie, decide_eq_decide.2 nonzero]
  | rta => rw [Rnd.up, Rnd.up, Nat.pow_add, twice, decide_eq_decide.2 (Nat.mul_le_mul_right_iff pos)]
  | rtp => rw [Rnd.up, Rnd.up, decide_eq_decide.2 nonzero]
  | rtn => rw [Rnd.up, Rnd.up, decide_eq_decide.2 nonzero]
  | rtz => rfl
  | stoch u => rw [Rnd.up, Rnd.up, Nat.pow_add, Nat.mul_right_comm, Nat.mul_div_mul_right _ _ pos]

/-- The magnitude `x`, in units of which the quantum has 2^g, rounded to a multiple of the quantum. -/
def roundUnits (r : Rnd) (s : Bool) (x g : Nat) : Nat :=
  if r.up s (decide (x / 2 ^ g % 2 = 1)) (x % 2 ^ g) g false then x / 2 ^ g + 1 else x / 2 ^ g

/-- Rounding in any units at or below both the value's exponent and the quantum. -/
theorem roundQ_eq (r : Rnd) (s : Bool) {m : Nat} {e q u : Int} (he : u ≤ e) (hq : u ≤ q) :
    roundQ r s m e false q = (roundUnits r s (inUnits m e u) (q - u).toNat, decide (inUnits m e u % 2 ^ (q - u).toNat ≠ 0)) := by
  have pos := Nat.two_pow_pos (q - u).toNat
  unfold roundQ roundUnits
  split
  case isTrue h =>
    rw [← inUnits_inUnits h hq, shiftLeft_eq_inUnits, inUnits.eq_1 _ q u, Nat.mul_mod_left, Nat.mul_div_cancel _ pos, up_exact]
    rfl
  case isFalse h =>
    have places : (q - u).toNat = (q - e).toNat + (e - u).toNat := by omega
    have inexact : decide (m % 2 ^ (q - e).toNat * 2 ^ (e - u).toNat ≠ 0) = decide (m % 2 ^ (q - e).toNat ≠ 0) :=
      decide_eq_decide.2 (mul_pow_ne_zero _)
    rw [inUnits, places, Nat.pow_add, Nat.mul_div_mul_right _ _ (Nat.two_pow_pos _), Nat.mul_mod_mul_right, up_scale,
      inexact, ← Nat.shiftRight_eq_div_pow]
    simp only [Bool.or_false]

/-- Rounding depends on the value m · 2^e alone. -/
theorem roundQ_scale (r : Rnd) (s : Bool) (m j : Nat) (e q : Int) : roundQ r s (m * 2 ^ j) (e - j) false q = roundQ r s m e false q := by
  have same : inUnits (m * 2 ^ j) (e - j) (min (e - j) q) = inUnits m e (min (e - j) q) := by
    have : (e - min (e - j) q).toNat = j + (e - j - min (e - j) q).toNat := by omega
    rw [inUnits, inUnits, Nat.mul_assoc, ← Nat.pow_add, this]
  rw [roundQ_eq r s (u := min (e - j) q) (Int.min_le_left ..) (Int.min_le_right ..), same,
    ← roundQ_eq r s (by omega) (Int.min_le_right ..)]

/-! ### Packing -/

/-- The code `c` with the sign `s`. -/
def FFmt.signed (k : FFmt) (s : Bool) (c : Nat) : Nat := (if s then k.signBit else 0) + c

@[simp] theorem signed_false (k : FFmt) (c : Nat) : k.signed false c = c := Nat.zero_add c

@[simp] theorem signed_true (k : FFmt) (c : Nat) : k.signed true c = k.signBit + c := rfl

/-- The code of the value v · 2^q, for a `v` of at most f + 1 bits that is a significand at the exponent `q`. -/
def FFmt.codeAt (k : FFmt) (q : Int) (v : Nat) : Nat := (q - k.qmin).toNat * 2 ^ k.f + v

theorem codeAt_add (k : FFmt) (n v : Nat) : k.codeAt (k.qmin + n) v = n * 2 ^ k.f + v := by
  have : (k.qmin + n - k.qmin).toNat = n := by omega
  rw [FFmt.codeAt, this]

/-- `v` is a significand at the exponent `q`: normal, or subnormal at the least exponent. -/
structure FFmt.Canon (k : FFmt) (q : Int) (v : Nat) : Prop where
  least : k.qmin ≤ q
  short : v < 2 ^ (k.f + 1)
  normal : q ≠ k.qmin → 2 ^ k.f ≤ v

/-- The quantum of a value: the weight of the last place of the codes around it. -/
def FFmt.quantum (k : FFmt) (m : Nat) (e : Int) : Int := if m = 0 then k.qmin else Max.max (e + bitLen m - 1 - k.f) k.qmin

theorem FFmt.qmin_le_quantum (k : FFmt) (m : Nat) (e : Int) : k.qmin ≤ k.quantum m e := by
  unfold FFmt.quantum
  split
  · exact Int.le_refl _
  · exact Int.le_max_right ..

/-- The value m · 2^e is tiny after rounding (R77). -/
def FFmt.tiny (k : FFmt) (r : Rnd) (s : Bool) (m : Nat) (e : Int) : Bool :=
  let top := e + bitLen m - 1
  decide (top < k.qmin + k.f) && decide ((roundQ r s m e false (top - k.f)).1 < 2 ^ (k.f + 1) ∨ top < k.qmin + k.f - 1)

/-- The value m · 2^e rounded to its quantum: the multiple, and whether it is inexact. -/
def FFmt.rounded (k : FFmt) (r : Rnd) (s : Bool) (m : Nat) (e : Int) : Nat × Bool := roundQ r s m e false (k.quantum m e)

/-- The code of the value m · 2^e rounded, were there no largest finite value. -/
def FFmt.roundedCode (k : FFmt) (r : Rnd) (s : Bool) (m : Nat) (e : Int) : Nat := k.codeAt (k.quantum m e) (k.rounded r s m e).1

/-- The significand at or below a value, at its quantum. -/
def FFmt.below (k : FFmt) (m : Nat) (e : Int) : Nat := (k.rounded .rtz false m e).1

/-- The code at or below a value. -/
def FFmt.belowCode (k : FFmt) (m : Nat) (e : Int) : Nat := k.codeAt (k.quantum m e) (k.below m e)

theorem pack_nonzero {k : FFmt} {r : Rnd} {s : Bool} {m : Nat} {e : Int} (hm : m ≠ 0) :
    k.pack r s m e false =
      if k.inf ≤ k.roundedCode r s m e then (k.overflowed r s, { Exc.none with ovf := 1, inx := 1 })
      else (k.signed s (k.roundedCode r s m e),
        { Exc.none with
          inx := if (k.rounded r s m e).2 then 1 else 0
          unf := if (k.rounded r s m e).2 && k.tiny r s m e then 1 else 0 }) := by
  have hq : k.quantum m e = max (e + bitLen m - 1 - k.f) k.qmin := if_neg hm
  unfold FFmt.pack FFmt.roundedCode FFmt.rounded
  rw [if_neg fun h => hm h.1, hq]
  rfl

theorem rounded_zero (k : FFmt) (r : Rnd) (s : Bool) (e : Int) : k.rounded r s 0 e = (0, false) := by
  rw [FFmt.rounded, roundQ_eq r s (Int.min_le_left e _) (Int.min_le_right ..), inUnits, Nat.zero_mul, roundUnits, Nat.zero_mod,
    Nat.zero_div, up_exact]
  rfl

theorem roundedCode_zero (k : FFmt) (r : Rnd) (s : Bool) (e : Int) : k.roundedCode r s 0 e = 0 := by
  rw [FFmt.roundedCode, rounded_zero, FFmt.quantum, if_pos rfl, FFmt.codeAt, Int.sub_self, Int.toNat_zero, Nat.zero_mul,
    Nat.zero_add]

/-- Below infinity packing gives the rounded code, and what is exact counts nothing. -/
theorem pack_below {k : FFmt} {r : Rnd} {s : Bool} {m : Nat} {e : Int} (h : k.roundedCode r s m e < k.inf) :
    k.pack r s m e false = (k.signed s (k.roundedCode r s m e),
      { Exc.none with
        inx := if (k.rounded r s m e).2 then 1 else 0
        unf := if (k.rounded r s m e).2 && k.tiny r s m e then 1 else 0 }) := by
  by_cases hm : m = 0
  case pos =>
    subst hm
    rw [roundedCode_zero, rounded_zero]
    rfl
  case neg => rw [pack_nonzero hm, if_neg (Nat.not_le.2 h)]

/-- A code that RTZ gives, with one below infinity above it, is the one at or below the value. -/
theorem pack_rtz_below {k : FFmt} {m : Nat} {e : Int} (h : (k.pack .rtz false m e false).1 + 1 < k.inf) :
    (k.pack .rtz false m e false).1 = k.belowCode m e := by
  by_cases past : k.inf ≤ k.roundedCode .rtz false m e
  case neg =>
    rw [pack_below (Nat.not_le.1 past), signed_false]
    rfl
  case pos =>
    by_cases hm : m = 0
    case pos =>
      rw [hm, roundedCode_zero] at past
      omega
    case neg =>
      rw [pack_nonzero hm, if_pos past] at h
      have largest : k.overflowed .rtz false = k.inf - 1 := Nat.zero_add _
      rw [largest] at h
      omega

/-- Packing depends on the value m · 2^e alone. -/
theorem pack_scale (k : FFmt) (r : Rnd) (s : Bool) (m j : Nat) (e : Int) : k.pack r s (m * 2 ^ j) (e - j) false = k.pack r s m e false := by
  by_cases hm : m = 0
  case pos =>
    rw [hm, Nat.zero_mul]
    rfl
  case neg =>
    have top : e - j + bitLen (m * 2 ^ j) - 1 = e + bitLen m - 1 := by
      rw [bitLen_mul_pow hm]
      omega
    unfold FFmt.pack
    simp only [top, roundQ_scale, Nat.mul_eq_zero, Nat.ne_of_gt (Nat.two_pow_pos j), or_false]

/-! ### Codes and their fields -/

/-- The code with sign `s`, exponent field `ex` and fraction `fr`. -/
def FFmt.code (k : FFmt) (s : Bool) (ex fr : Nat) : Nat := k.signed s (ex * 2 ^ k.f + fr)

section
variable {k : FFmt} {ex fr : Nat} (hex : ex < 2 ^ k.w) (hfr : fr < 2 ^ k.f) (s : Bool)

theorem code_eq : k.code s ex fr = 2 ^ k.f * (ex + 2 ^ k.w * s.toNat) + fr := by
  rw [FFmt.code, FFmt.signed, FFmt.signBit, Nat.mul_add, ← Nat.mul_assoc, ← Nat.pow_add, Nat.mul_comm ex]
  cases s with
  | false => rw [if_neg Bool.false_ne_true, Bool.toNat_false, Nat.mul_zero, Nat.zero_add, Nat.add_zero]
  | true =>
    rw [if_pos rfl, Bool.toNat_true, Nat.mul_one]
    omega

include hfr

theorem code_fraction : k.code s ex fr % 2 ^ k.f = fr := by
  rw [code_eq, Nat.mul_add_mod, Nat.mod_eq_of_lt hfr]

theorem code_upper : k.code s ex fr >>> k.f = ex + 2 ^ k.w * s.toNat := by
  rw [code_eq, Nat.shiftRight_eq_div_pow, Nat.mul_add_div (Nat.two_pow_pos _), Nat.div_eq_of_lt hfr, Nat.add_zero]

include hex

theorem code_exponent : (k.code s ex fr >>> k.f) % 2 ^ k.w = ex := by
  rw [code_upper hfr, Nat.add_mul_mod_self_left, Nat.mod_eq_of_lt hex]

theorem code_sign : (k.code s ex fr).testBit (k.f + k.w) = s := by
  rw [← Nat.testBit_shiftRight, code_upper hfr, Nat.testBit_eq_decide_div_mod_eq, Nat.add_mul_div_left _ _ (Nat.two_pow_pos _),
    Nat.div_eq_of_lt hex, Nat.zero_add]
  cases s <;> rfl

theorem dec_code :
    k.dec (k.code s ex fr) =
      if ex = 2 ^ k.w - 1 then (if fr = 0 then .inf s else .nan (k.code s ex fr % 2 ^ (k.f + k.w + 1)))
      else if ex = 0 then .fin s fr k.qmin
      else .fin s (fr + 2 ^ k.f) (k.qmin + ex - 1) := by
  unfold FFmt.dec
  rw [code_fraction hfr, code_exponent hex hfr, code_sign hex hfr]

end

/-- Every code has its fields. -/
theorem exists_code (k : FFmt) {c : Nat} (h : c < 2 ^ (k.f + k.w + 1)) : ∃ s ex fr, ex < 2 ^ k.w ∧ fr < 2 ^ k.f ∧ c = k.code s ex fr := by
  have top : c / 2 ^ k.f / 2 ^ k.w < 2 := by
    rw [Nat.div_div_eq_div_mul, ← Nat.pow_add]
    exact Nat.div_lt_of_lt_mul h
  have sign : (decide (c / 2 ^ k.f / 2 ^ k.w = 1)).toNat = c / 2 ^ k.f / 2 ^ k.w := by
    rcases Nat.lt_succ_iff_lt_or_eq.1 top with zero | one
    · rw [Nat.lt_one_iff.1 zero]
      rfl
    · rw [one]
      rfl
  refine ⟨decide (c / 2 ^ k.f / 2 ^ k.w = 1), c / 2 ^ k.f % 2 ^ k.w, c % 2 ^ k.f, Nat.mod_lt _ (Nat.two_pow_pos _),
    Nat.mod_lt _ (Nat.two_pow_pos _), ?_⟩
  rw [code_eq, sign, Nat.mod_add_div, Nat.div_add_mod]

/-! ### Significands and their codes -/

/-- The rounded-down significand of a value at its quantum. -/
theorem canon_quantum (k : FFmt) {m : Nat} {e u : Int} (he : u ≤ e) (hu : u ≤ k.qmin) :
    k.Canon (k.quantum m e) (inUnits m e u / 2 ^ (k.quantum m e - u).toNat) := by
  have least := k.qmin_le_quantum m e
  refine ⟨least, ?short, fun hq => ?normal⟩
  case short =>
    rw [Nat.div_lt_iff_lt_mul (Nat.two_pow_pos _), ← Nat.pow_add, inUnits]
    by_cases hm : m = 0
    case pos =>
      rw [hm, Nat.zero_mul]
      exact Nat.two_pow_pos _
    case neg =>
      rw [← bitLen_le, bitLen_mul_pow hm]
      have : e + bitLen m - 1 - k.f ≤ k.quantum m e := by
        rw [FFmt.quantum, if_neg hm]
        exact Int.le_max_left ..
      omega
  case normal =>
    have hm : m ≠ 0 := fun hm => hq (by rw [FFmt.quantum, if_pos hm])
    have top : k.quantum m e = e + bitLen m - 1 - k.f := by
      rw [FFmt.quantum, if_neg hm] at hq ⊢
      omega
    rw [Nat.le_div_iff_mul_le (Nat.two_pow_pos _), ← Nat.pow_add, inUnits, ← lt_bitLen, bitLen_mul_pow hm]
    have : 0 < bitLen m := lt_bitLen.2 (Nat.pos_of_ne_zero hm)
    omega

/-- A significand's own exponent is its quantum. -/
theorem FFmt.Canon.quantum_eq {k : FFmt} {q : Int} {v : Nat} (h : k.Canon q v) : k.quantum v q = q := by
  obtain ⟨least, short, normal⟩ := h
  have len := bitLen_le.2 short
  by_cases sub : q = k.qmin
  case pos =>
    unfold FFmt.quantum
    split <;> omega
  case neg =>
    have norm := normal sub
    have len' := lt_bitLen.2 norm
    have pos := Nat.two_pow_pos k.f
    rw [FFmt.quantum, if_neg (by omega)]
    omega

theorem FFmt.Canon.rounded_eq {k : FFmt} {q : Int} {v : Nat} (h : k.Canon q v) (r : Rnd) (s : Bool) : k.rounded r s v q = (v, false) := by
  rw [FFmt.rounded, h.quantum_eq, roundQ, if_pos (Int.le_refl q), Int.sub_self]
  rfl

/-- A code's own value packs to the code, however it is rounded. -/
theorem FFmt.Canon.pack_eq {k : FFmt} {q : Int} {v : Nat} (h : k.Canon q v) (fin : k.codeAt q v < k.inf) (r : Rnd) (s : Bool) :
    k.pack r s v q false = (k.signed s (k.codeAt q v), Exc.none) := by
  have code : k.roundedCode r s v q = k.codeAt q v := by rw [FFmt.roundedCode, h.rounded_eq, h.quantum_eq]
  rw [pack_below (by rw [code]; exact fin), code, h.rounded_eq]
  rfl

/-- A finite code's fields are those of a significand. -/
theorem exists_canon (k : FFmt) {ex fr : Nat} (hfr : fr < 2 ^ k.f) : ∃ q v, k.Canon q v ∧ k.codeAt q v = ex * 2 ^ k.f + fr := by
  cases ex with
  | zero =>
    refine ⟨k.qmin, fr, ⟨Int.le_refl _, by rw [Nat.pow_succ]; omega, fun hq => absurd rfl hq⟩, ?_⟩
    rw [FFmt.codeAt, Int.sub_self, Int.toNat_zero]
  | succ n =>
    refine ⟨k.qmin + n, 2 ^ k.f + fr, ⟨by omega, by rw [Nat.pow_succ]; omega, fun _ => Nat.le_add_right ..⟩, ?_⟩
    rw [codeAt_add, Nat.add_one_mul, Nat.add_assoc]

/-- Decoding a significand's code gives the significand. -/
theorem FFmt.Canon.dec_eq {k : FFmt} {q : Int} {v : Nat} (h : k.Canon q v) (fin : k.codeAt q v < k.inf) (s : Bool) :
    k.dec (k.signed s (k.codeAt q v)) = .fin s v q := by
  obtain ⟨least, short, normal⟩ := h
  by_cases sub : v < 2 ^ k.f
  case pos =>
    have hq : q = k.qmin := Decidable.byContradiction fun hq => absurd (normal hq) (Nat.not_le.2 sub)
    have code : k.signed s (k.codeAt q v) = k.code s 0 v := by rw [FFmt.code, FFmt.codeAt, hq, Int.sub_self, Int.toNat_zero]
    have wide : 2 ^ k.w - 1 ≠ 0 := fun e => by
      rw [FFmt.inf, e, Nat.zero_mul] at fin
      exact Nat.not_lt_zero _ fin
    rw [code, dec_code (Nat.two_pow_pos _) sub, if_neg wide.symm, if_pos rfl, hq]
  case neg =>
    obtain ⟨fr, rfl⟩ := Nat.exists_eq_add_of_le (Nat.not_lt.1 sub)
    obtain ⟨n, rfl⟩ := Int.le.dest least
    have fields : k.codeAt (k.qmin + n) (2 ^ k.f + fr) = (n + 1) * 2 ^ k.f + fr := by
      rw [codeAt_add, Nat.add_one_mul, Nat.add_assoc]
    have hfr : fr < 2 ^ k.f := by
      rw [Nat.pow_succ] at short
      omega
    have below : n + 1 < 2 ^ k.w - 1 := by
      rw [fields] at fin
      exact Nat.lt_of_mul_lt_mul_right (Nat.lt_of_le_of_lt (Nat.le_add_right ..) fin)
    rw [fields, ← FFmt.code, dec_code (by omega) hfr, if_neg (Nat.ne_of_lt below), if_neg (Nat.succ_ne_zero n), Nat.add_comm]
    congr 1
    omega

/-- The value of a significand's code, in units at or below its exponent. -/
theorem FFmt.Canon.codeUnits_eq {k : FFmt} {q : Int} {v : Nat} (h : k.Canon q v) (fin : k.codeAt q v < k.inf) (u : Int) :
    codeUnits k u (k.codeAt q v) = inUnits v q u := by
  have dec := h.dec_eq fin false
  rw [FFmt.signed, if_neg Bool.false_ne_true, Nat.zero_add] at dec
  rw [codeUnits, dec]
  exact shiftLeft_eq_inUnits ..

/-- The code after a significand's is worth one quantum more: past the longest significand the next exponent begins. -/
theorem FFmt.Canon.codeUnits_succ {k : FFmt} {q u : Int} {v : Nat} (h : k.Canon q v) (fin : k.codeAt q v + 1 < k.inf) (hu : u ≤ q) :
    codeUnits k u (k.codeAt q v + 1) = inUnits (v + 1) q u := by
  obtain ⟨least, short, normal⟩ := h
  by_cases last : v + 1 = 2 ^ (k.f + 1)
  case neg =>
    have next : k.Canon q (v + 1) := ⟨least, by omega, fun hq => Nat.le_succ_of_le (normal hq)⟩
    exact next.codeUnits_eq fin u
  case pos =>
    have next : k.Canon (q + 1) (2 ^ k.f) := ⟨by omega, by rw [Nat.pow_succ]; omega, fun _ => Nat.le_refl _⟩
    have code : k.codeAt q v + 1 = k.codeAt (q + 1) (2 ^ k.f) := by
      have : (q + 1 - k.qmin).toNat = (q - k.qmin).toNat + 1 := by omega
      rw [Nat.pow_succ] at last
      rw [FFmt.codeAt, FFmt.codeAt, this, Nat.add_one_mul]
      omega
    rw [code] at fin ⊢
    have up : (q + 1 - u).toNat = (q - u).toNat + 1 := by omega
    rw [next.codeUnits_eq fin u, last, inUnits, inUnits, up, ← Nat.pow_add, ← Nat.pow_add, Nat.add_right_comm, Nat.add_assoc]

/-! ### Rounding between two neighbours -/

section
variable {lo hi x g : Nat} (hlo : lo ≤ x) (hgap : hi = lo + 2 ^ g) (s odd : Bool)
include hlo

theorem up_rtp : Rnd.up .rtp s odd (x - lo) g false = (!s && decide (x ≠ lo)) := by
  have : x - lo ≠ 0 ↔ x ≠ lo := by omega
  rw [Rnd.up, Bool.or_false, decide_eq_decide.2 this]

theorem up_rtn : Rnd.up .rtn s odd (x - lo) g false = (s && decide (x ≠ lo)) := by
  have : x - lo ≠ 0 ↔ x ≠ lo := by omega
  rw [Rnd.up, Bool.or_false, decide_eq_decide.2 this]

include hgap

theorem up_rne : Rnd.up .rne s odd (x - lo) g false = !decide (2 * x < lo + hi ∨ (2 * x = lo + hi ∧ odd = false)) := by
  have pos := Nat.two_pow_pos g
  rw [Bool.eq_iff_iff]
  simp only [Rnd.up, Bool.false_or, Bool.or_eq_true, Bool.and_eq_true, Bool.not_eq_true', decide_eq_true_eq, decide_eq_false_iff_not]
  cases odd with
  | false =>
    simp only [Bool.false_eq_true, and_false, false_and, and_true, or_false]
    omega
  | true =>
    simp only [Bool.true_eq_false, and_false, and_true, or_false]
    omega

theorem up_rta : Rnd.up .rta s odd (x - lo) g false = !decide (2 * x < lo + hi) := by
  rw [Rnd.up, ← decide_not, decide_eq_decide]
  omega

omit hlo in
theorem up_stoch (u : Nat) : Rnd.up (.stoch u) s odd (x - lo) g false = decide (u < (x - lo) * 2 ^ 32 / (hi - lo)) := by
  rw [hgap, Nat.add_sub_cancel_left]
  rfl

end

theorem inUnits_succ (v : Nat) (q u : Int) : inUnits (v + 1) q u = inUnits v q u + 2 ^ (q - u).toNat := Nat.add_one_mul ..

section
variable {k : FFmt} {m : Nat} {e u : Int} (he : u ≤ e) (hu : u ≤ k.qmin)
include he hu

theorem below_eq : k.below m e = inUnits m e u / 2 ^ (k.quantum m e - u).toNat := by
  rw [FFmt.below, FFmt.rounded, roundQ_eq _ _ he (Int.le_trans hu (k.qmin_le_quantum m e))]
  rfl

theorem canon_below : k.Canon (k.quantum m e) (k.below m e) := by
  rw [below_eq he hu]
  exact canon_quantum k he hu

theorem inUnits_below : inUnits (k.below m e) (k.quantum m e) u + inUnits m e u % 2 ^ (k.quantum m e - u).toNat = inUnits m e u := by
  rw [inUnits.eq_1 _ (k.quantum m e), below_eq he hu]
  exact Nat.div_add_mod' ..

/-- The value is rounded up by what lies between it and the significand below. -/
theorem rounded_eq (r : Rnd) (s : Bool) :
    k.rounded r s m e =
      (if r.up s (decide (k.below m e % 2 = 1)) (inUnits m e u - inUnits (k.below m e) (k.quantum m e) u) (k.quantum m e - u).toNat false
        then k.below m e + 1 else k.below m e, decide (inUnits m e u ≠ inUnits (k.below m e) (k.quantum m e) u)) := by
  have parts := inUnits_below (m := m) he hu
  have part : inUnits m e u - inUnits (k.below m e) (k.quantum m e) u = inUnits m e u % 2 ^ (k.quantum m e - u).toNat := by omega
  have inexact : inUnits m e u % 2 ^ (k.quantum m e - u).toNat ≠ 0 ↔ inUnits m e u ≠ inUnits (k.below m e) (k.quantum m e) u := by omega
  rw [part, ← decide_eq_decide.2 inexact, FFmt.rounded, roundQ_eq _ _ he (Int.le_trans hu (k.qmin_le_quantum m e)), roundUnits, below_eq he hu]

end

theorem codeAt_odd {k : FFmt} (hf : 0 < k.f) (q : Int) (v : Nat) : k.codeAt q v % 2 = v % 2 := by
  obtain ⟨n, hn⟩ := Nat.exists_eq_add_one_of_ne_zero (Nat.ne_of_gt hf)
  rw [FFmt.codeAt, hn, Nat.pow_succ, ← Nat.mul_assoc, Nat.mul_add_mod_self_right]

section
variable {k : FFmt} {m : Nat} {e u : Int} (he : u ≤ e) (hu : u ≤ k.qmin) (h : k.belowCode m e + 1 < k.inf)
include he hu h

theorem codeUnits_belowCode : codeUnits k u (k.belowCode m e) = inUnits (k.below m e) (k.quantum m e) u :=
  (canon_below he hu).codeUnits_eq (Nat.lt_of_succ_lt h) u

/-- The two codes around a value are a quantum apart. -/
theorem codeUnits_belowCode_succ : codeUnits k u (k.belowCode m e + 1) = codeUnits k u (k.belowCode m e) + 2 ^ (k.quantum m e - u).toNat := by
  rw [codeUnits_belowCode he hu h, ← inUnits_succ]
  exact (canon_below he hu).codeUnits_succ h (Int.le_trans hu (k.qmin_le_quantum m e))

theorem codeUnits_belowCode_le : codeUnits k u (k.belowCode m e) ≤ inUnits m e u := by
  rw [codeUnits_belowCode he hu h, ← inUnits_below (m := m) he hu]
  exact Nat.le_add_right ..

theorem lt_codeUnits_belowCode_succ : inUnits m e u < codeUnits k u (k.belowCode m e + 1) := by
  rw [codeUnits_belowCode_succ he hu h, codeUnits_belowCode he hu h]
  conv => lhs; rw [← inUnits_below (m := m) he hu]
  exact Nat.add_lt_add_left (Nat.mod_lt _ (Nat.two_pow_pos _)) _

/-- Packing takes one of the two codes around the value, and counts the value that is not a code. -/
theorem pack_between (hf : 0 < k.f) (r : Rnd) (s : Bool) :
    (k.pack r s m e false).1 =
        k.signed s (if r.up s (decide (k.belowCode m e % 2 = 1)) (inUnits m e u - codeUnits k u (k.belowCode m e)) (k.quantum m e - u).toNat false
          then k.belowCode m e + 1 else k.belowCode m e) ∧
      (k.pack r s m e false).2.inx = (if inUnits m e u = codeUnits k u (k.belowCode m e) then 0 else 1) ∧
      (k.pack r s m e false).2.ovf = 0 := by
  have code : k.roundedCode r s m e =
      if r.up s (decide (k.belowCode m e % 2 = 1)) (inUnits m e u - codeUnits k u (k.belowCode m e)) (k.quantum m e - u).toNat false
        then k.belowCode m e + 1 else k.belowCode m e := by
    rw [codeUnits_belowCode he hu h, FFmt.belowCode, codeAt_odd hf, FFmt.roundedCode, rounded_eq he hu, apply_ite (k.codeAt _)]
    rfl
  have fin : k.roundedCode r s m e < k.inf := by
    rw [code]
    split <;> omega
  rw [pack_below fin, ← code, codeUnits_belowCode he hu h, rounded_eq he hu]
  refine ⟨rfl, ?_, rfl⟩
  simp only [ne_eq, decide_not, Bool.not_eq_true', decide_eq_false_iff_not, ite_not]

end

theorem fraction_pos {k : FFmt} (hk : k ∈ [fmt16, fmtBf, fmt32]) : 0 < k.f := by
  revert k
  decide

/-- Settles O59: packing takes one of the two codes around the value, and `Rnd.up` says for each rounding which one. -/
theorem roundingTakesTheRightNeighbour : Obligations.RoundingTakesTheRightNeighbour := by
  intro k m e u hk z q x lo hi neg h
  have hx : x = inUnits m e q := shiftLeft_eq_inUnits ..
  have hz : z = k.belowCode m e := pack_rtz_below h
  have he : q ≤ e := Int.min_le_left ..
  have hq : q ≤ k.qmin := Int.min_le_right ..
  have h : k.belowCode m e + 1 < k.inf := hz ▸ h
  have le : lo ≤ x := by
    simpa only [lo, hx, hz] using codeUnits_belowCode_le he hq h
  have lt : x < hi := by
    simpa only [hi, hx, hz] using lt_codeUnits_belowCode_succ he hq h
  have gap : hi = lo + 2 ^ (k.quantum m e - q).toNat := by
    simpa only [hi, lo, hz] using codeUnits_belowCode_succ he hq h
  have taken (r : Rnd) (s : Bool) := pack_between he hq h (fraction_pos hk) r s
  simp only [← hx, ← hz, forall_and] at taken
  obtain ⟨code, inx, ovf⟩ := taken
  refine ⟨le, lt, ?rtn, ?rtp, ?rne, ?rta, ?stoch, ?rtpNegative, ?rtnNegative, fun r => ⟨inx r false, ovf r false⟩⟩
  case rtn =>
    rw [code, up_rtn le, Bool.false_and, if_neg Bool.false_ne_true, signed_false]
  case rtp =>
    rw [code, up_rtp le]
    simp only [signed_false, Bool.not_false, Bool.true_and, ne_eq, decide_eq_true_eq, ite_not]
  case rne =>
    rw [code, up_rne le gap]
    simp only [signed_false, Bool.not_eq_true', decide_eq_false_iff_not, ite_not, Nat.mod_two_ne_one]
  case rta =>
    rw [code, up_rta le gap]
    simp only [signed_false, Bool.not_eq_true', decide_eq_false_iff_not, ite_not]
  case stoch =>
    rw [code, up_stoch gap]
    simp only [signed_false, decide_eq_true_eq]
  case rtpNegative =>
    rw [code, up_rtp le, Bool.not_true, Bool.false_and, if_neg Bool.false_ne_true, signed_true]
  case rtnNegative =>
    rw [code, up_rtn le]
    simp only [signed_true, Bool.true_and, ne_eq, decide_eq_true_eq, ite_not, neg]

/-! ### Widening a finite value -/

/-- Every value of the format is one of the format `K`, which has the longer fraction. -/
structure FFmt.Within (k K : FFmt) : Prop where
  fraction : k.f < K.f
  quietBit : 0 < k.f
  exponents : 2 ≤ k.w ∧ 2 ≤ K.w
  bottom : K.qmin ≤ k.qmin
  top : k.qmin + k.f + 2 ^ k.w ≤ K.qmin + K.f + 2 ^ K.w

/-- A significand's code is below infinity up to the greatest exponent. -/
theorem FFmt.Canon.below_inf_iff {k : FFmt} {q : Int} {v : Nat} (h : k.Canon q v) (hw : 2 ≤ k.w) :
    k.codeAt q v < k.inf ↔ q + 2 < k.qmin + 2 ^ k.w := by
  obtain ⟨least, short, normal⟩ := h
  obtain ⟨n, rfl⟩ := Int.le.dest least
  have wide : 2 ^ 2 ≤ 2 ^ k.w := Nat.pow_le_pow_right (by decide) hw
  have pos := Nat.two_pow_pos k.f
  have cast : ((2 : Int) ^ k.w) = ((2 ^ k.w : Nat) : Int) := (Int.natCast_pow 2 k.w).symm
  rw [codeAt_add, FFmt.inf, cast]
  constructor
  case mp =>
    intro h
    by_cases hn : n = 0
    case pos => omega
    case neg =>
      have norm := normal (by omega)
      have : (n + 1) * 2 ^ k.f < (2 ^ k.w - 1) * 2 ^ k.f := by
        rw [Nat.add_one_mul]
        omega
      have := Nat.lt_of_mul_lt_mul_right this
      omega
  case mpr =>
    intro h
    have : (n + 2) * 2 ^ k.f ≤ (2 ^ k.w - 1) * 2 ^ k.f := Nat.mul_le_mul_right _ (by omega)
    rw [Nat.pow_succ] at short
    rw [Nat.add_mul] at this
    omega

/-- The wider format has the value as a significand of its own, shifted left. -/
theorem FFmt.Canon.widen {k K : FFmt} (hk : k.Within K) {q : Int} {v : Nat} (h : k.Canon q v) (fin : k.codeAt q v < k.inf) :
    ∃ j : Nat, K.Canon (q - j) (v * 2 ^ j) ∧ K.codeAt (q - j) (v * 2 ^ j) < K.inf := by
  obtain ⟨fraction, -, ⟨hw, hW⟩, bottom, top⟩ := hk
  rw [h.below_inf_iff hw] at fin
  have wide : (2 : Int) ^ 2 ≤ 2 ^ K.w := by exact_mod_cast Nat.pow_le_pow_right (by decide : 0 < 2) hW
  have least := h.least
  have len := bitLen_le.2 h.short
  obtain ⟨n, hn⟩ := Int.le.dest (Int.le_trans bottom least)
  by_cases sub : v * 2 ^ n < 2 ^ (K.f + 1)
  case pos =>
    have hq : q - n = K.qmin := by omega
    have canon : K.Canon (q - n) (v * 2 ^ n) := ⟨Int.le_of_eq hq.symm, sub, fun hq' => absurd hq hq'⟩
    exact ⟨n, canon, (canon.below_inf_iff hW).2 (by omega)⟩
  case neg =>
    have hv : v ≠ 0 := by
      rintro rfl
      rw [Nat.zero_mul] at sub
      exact sub (Nat.two_pow_pos _)
    rw [← bitLen_le, bitLen_mul_pow hv] at sub
    have canon : K.Canon (q - (K.f + 1 - bitLen v : Nat)) (v * 2 ^ (K.f + 1 - bitLen v)) := by
      refine ⟨by omega, ?_, fun _ => ?_⟩
      · rw [← bitLen_le, bitLen_mul_pow hv]
        omega
      · rw [← lt_bitLen, bitLen_mul_pow hv]
        omega
    exact ⟨_, canon, (canon.below_inf_iff hW).2 (by omega)⟩

/-- A finite code widens and narrows back exactly. -/
theorem FFmt.Canon.conv_conv {k K : FFmt} (hk : k.Within K) {q : Int} {v : Nat} (h : k.Canon q v) (fin : k.codeAt q v < k.inf)
    (s : Bool) (r r' : Rnd) :
    K.conv k r' (k.conv K r (k.signed s (k.codeAt q v))).1 = (k.signed s (k.codeAt q v), Exc.none) ∧
      (k.conv K r (k.signed s (k.codeAt q v))).2 = Exc.none := by
  obtain ⟨j, canon, below⟩ := h.widen hk fin
  have wide : k.conv K r (k.signed s (k.codeAt q v)) = (K.signed s (K.codeAt (q - j) (v * 2 ^ j)), Exc.none) := by
    rw [FFmt.conv, h.dec_eq fin, ← canon.pack_eq below r s, pack_scale]
  have back : K.conv k r' (K.signed s (K.codeAt (q - j) (v * 2 ^ j))) = (k.signed s (k.codeAt q v), Exc.none) := by
    rw [FFmt.conv, canon.dec_eq below, ← h.pack_eq fin r' s]
    exact pack_scale ..
  rw [wide]
  exact ⟨back, rfl⟩

/-! ### NaNs and infinities -/

theorem quiet_testBit (k : FFmt) (c : Nat) : (k.quiet c).testBit (k.f - 1) = true := by
  unfold FFmt.quiet
  split
  case isTrue h => exact h
  case isFalse h => rw [Nat.add_comm, Nat.testBit_two_pow_add_eq, eq_false_of_ne_true h, Bool.not_false]

theorem quiet_quiet (k : FFmt) (c : Nat) : k.quiet (k.quiet c) = k.quiet c := if_pos (quiet_testBit k c)

theorem quiet_ne_zero (k : FFmt) (c : Nat) : k.quiet c ≠ 0 := fun h => by
  have set := quiet_testBit k c
  rw [h, Nat.zero_testBit] at set
  exact Bool.false_ne_true set

/-- A longer fraction has its quiet bit in the same place from the top. -/
theorem shiftLeft_quietBit {k : FFmt} (hf : 0 < k.f) (c d : Nat) : (c <<< d).testBit (k.f + d - 1) = c.testBit (k.f - 1) := by
  have place : k.f + d - 1 = k.f - 1 + d := by omega
  rw [place, Nat.testBit_shiftLeft, decide_eq_true (Nat.le_add_left ..), Bool.true_and, Nat.add_sub_cancel]

theorem quiet_shiftLeft {k K : FFmt} (hf : 0 < k.f) {d : Nat} (hd : K.f = k.f + d) (c : Nat) : K.quiet (c <<< d) = k.quiet c <<< d := by
  unfold FFmt.quiet
  rw [hd, shiftLeft_quietBit hf]
  split
  · rfl
  · have : k.f + d - 1 = k.f - 1 + d := by omega
    rw [Nat.shiftLeft_eq, Nat.shiftLeft_eq, Nat.add_mul, this, Nat.pow_add]

section
variable {k : FFmt} (hf : 0 < k.f) {fr : Nat} (hfr : fr < 2 ^ k.f)
include hf hfr

theorem quiet_lt : k.quiet fr < 2 ^ k.f := by
  have twice : 2 ^ (k.f - 1 + 1) = 2 ^ k.f := by rw [Nat.sub_add_cancel hf]
  unfold FFmt.quiet
  split
  case isTrue => exact hfr
  case isFalse clear =>
    have : fr < 2 ^ (k.f - 1) := Nat.not_le.1 fun le => clear (Nat.testBit_of_two_pow_le_and_two_pow_add_one_gt le (twice ▸ hfr))
    rw [← twice, Nat.pow_succ]
    omega

theorem code_quietBit (s : Bool) (ex : Nat) : (k.code s ex fr).testBit (k.f - 1) = fr.testBit (k.f - 1) := by
  have inside : k.f - 1 < k.f := by omega
  conv => rhs; rw [← code_fraction (ex := ex) hfr s, Nat.testBit_mod_two_pow, decide_eq_true inside, Bool.true_and]

theorem quiet_code (s : Bool) (ex : Nat) : k.quiet (k.code s ex fr) = k.code s ex (k.quiet fr) := by
  rw [FFmt.quiet, FFmt.quiet, code_quietBit hf hfr]
  split
  · rfl
  · simp only [FFmt.code, FFmt.signed, Nat.add_assoc]

end

/-- The NaN or infinity with sign `s` and fraction `fr`. -/
def FFmt.special (k : FFmt) (s : Bool) (fr : Nat) : Nat := k.code s (2 ^ k.w - 1) fr

theorem inf_add (k : FFmt) (fr : Nat) : k.inf + fr = k.special false fr := (signed_false ..).symm

section
variable {k : FFmt} {fr : Nat} (hfr : fr < 2 ^ k.f) (s : Bool)

theorem allOnes_lt (w : Nat) : 2 ^ w - 1 < 2 ^ w := Nat.sub_lt (Nat.two_pow_pos w) Nat.one_pos

theorem conv_inf (k K : FFmt) (s : Bool) (r : Rnd) : k.conv K r (k.special s 0) = (K.special s 0, Exc.none) := by
  rw [FFmt.conv, FFmt.special, dec_code (allOnes_lt _) (Nat.two_pow_pos _), if_pos rfl, if_pos rfl]
  rfl

theorem not_isNan_inf (k : FFmt) (s : Bool) : k.isNan (k.special s 0) = false := by
  rw [FFmt.isNan, FFmt.special, dec_code (allOnes_lt _) (Nat.two_pow_pos _), if_pos rfl, if_pos rfl]

include hfr

theorem dec_nan (hne : fr ≠ 0) : k.dec (k.special s fr) = .nan (k.special s fr % 2 ^ (k.f + k.w + 1)) := by
  rw [FFmt.special, dec_code (allOnes_lt _) hfr, if_pos rfl, if_neg hne]

theorem isNan_nan (hne : fr ≠ 0) : k.isNan (k.special s fr) = true := by
  rw [FFmt.isNan, dec_nan hfr s hne]

theorem isSnan_nan (hf : 0 < k.f) (hne : fr ≠ 0) : k.isSnan (k.special s fr) = !fr.testBit (k.f - 1) := by
  rw [FFmt.isSnan, isNan_nan hfr s hne, FFmt.special, code_quietBit hf hfr, Bool.true_and]

/-- A NaN whose leading payload bits `fr'` fit the other format converts to the quiet NaN with these. -/
theorem conv_nan {K : FFmt} {fr' : Nat} (hne : fr ≠ 0) (hF : 0 < K.f) (hfr' : fr' < 2 ^ K.f) (hne' : fr' ≠ 0)
    (payload : fr' = if k.f ≤ K.f then fr <<< (K.f - k.f) else fr >>> (k.f - K.f)) (r : Rnd) :
    k.conv K r (k.special s fr) = (K.special s (K.quiet fr'), if k.isSnan (k.special s fr) then Exc.invalid else Exc.none) := by
  have sign : k.sign (k.special s fr) = s := code_sign (allOnes_lt _) hfr s
  have fraction : k.special s fr % 2 ^ k.f = fr := code_fraction hfr s
  have quiet : K.quiet (K.inf + fr') = K.inf + K.quiet fr' := by
    rw [inf_add, inf_add]
    exact quiet_code hF hfr' false _
  rw [FFmt.conv, dec_nan hfr s hne]
  dsimp only
  rw [fraction, sign, ← payload, if_neg hne', quiet]
  rfl

/-- A NaN widens and narrows back to itself quieted; a signalling one counts on the way up. -/
theorem conv_conv_nan {K : FFmt} (hk : k.Within K) (hne : fr ≠ 0) (r r' : Rnd) :
    K.conv k r' (k.conv K r (k.special s fr)).1 = (k.quiet (k.special s fr), Exc.none) ∧
      (k.conv K r (k.special s fr)).2 = if k.isSnan (k.special s fr) then Exc.invalid else Exc.none := by
  obtain ⟨d, hd⟩ := Nat.exists_eq_add_of_le (Nat.le_of_lt hk.fraction)
  have hf := hk.quietBit
  have hF := Nat.lt_trans hf hk.fraction
  have fits {g : Nat} (hg : g < 2 ^ k.f) : g <<< d < 2 ^ K.f := by
    rw [hd, Nat.shiftLeft_eq, Nat.pow_add]
    exact Nat.mul_lt_mul_of_pos_right hg (Nat.two_pow_pos d)
  have nonzero {g : Nat} (hg : g ≠ 0) : g <<< d ≠ 0 := by
    rw [Nat.shiftLeft_eq]
    exact (mul_pow_ne_zero d).2 hg
  have quietWide := quiet_shiftLeft hf hd fr
  have up := conv_nan hfr s hne hF (fits hfr) (nonzero hne) (by rw [if_pos (Nat.le_of_lt hk.fraction), hd, Nat.add_sub_cancel_left]) r
  have hq := quiet_lt hf hfr
  have hq' := quiet_ne_zero k fr
  have payload : k.quiet fr = if K.f ≤ k.f then (k.quiet fr <<< d) <<< (k.f - K.f) else (k.quiet fr <<< d) >>> (K.f - k.f) := by
    rw [if_neg (Nat.not_le.2 hk.fraction), hd, Nat.add_sub_cancel_left, Nat.shiftLeft_shiftRight]
  have back := conv_nan (fits hq) s (nonzero hq') hf hq hq' payload r'
  have notSignalling : K.isSnan (K.special s (k.quiet fr <<< d)) = false := by
    rw [isSnan_nan (fits hq) s hF (nonzero hq'), ← quietWide, quiet_testBit]
    rfl
  rw [up, quietWide, back, notSignalling, quiet_quiet]
  refine ⟨?_, rfl⟩
  rw [FFmt.special, FFmt.special, quiet_code hf hfr]
  rfl

end

/-- Narrowing undoes widening, whatever the two formats. -/
theorem conv_conv {k K : FFmt} (hk : k.Within K) {c : Nat} (hc : c < 2 ^ (k.f + k.w + 1)) (r r' : Rnd) :
    K.conv k r' (k.conv K r c).1 = (if k.isNan c then k.quiet c else c, Exc.none) ∧
      (k.conv K r c).2 = if k.isSnan c then Exc.invalid else Exc.none := by
  obtain ⟨s, ex, fr, hex, hfr, rfl⟩ := exists_code k hc
  by_cases special : ex = 2 ^ k.w - 1
  case neg =>
    obtain ⟨q, v, canon, code⟩ := exists_canon k (ex := ex) hfr
    have below : k.codeAt q v < k.inf := by
      have : (ex + 1) * 2 ^ k.f ≤ (2 ^ k.w - 1) * 2 ^ k.f := Nat.mul_le_mul_right _ (by omega)
      rw [Nat.add_one_mul] at this
      rw [code, FFmt.inf]
      omega
    have number : k.isNan (k.code s ex fr) = false := by rw [FFmt.isNan, FFmt.code, ← code, canon.dec_eq below]
    rw [FFmt.isSnan, number, FFmt.code, ← code]
    exact canon.conv_conv hk below s r r'
  case pos =>
    subst special
    rw [← FFmt.special]
    by_cases infinite : fr = 0
    case pos =>
      subst infinite
      rw [FFmt.isSnan, not_isNan_inf, conv_inf, conv_inf]
      exact ⟨rfl, rfl⟩
    case neg =>
      rw [isNan_nan hfr s infinite, if_pos rfl]
      exact conv_conv_nan hfr s hk infinite r r'

theorem within_fmt32 {k : FFmt} (hk : k ∈ [fmt16, fmtBf]) : k.Within fmt32 := by
  simp only [List.mem_cons, List.not_mem_nil, or_false] at hk
  rcases hk with rfl | rfl
  · exact ⟨by decide, by decide, by decide, by decide, by decide⟩
  · exact ⟨by decide, by decide, by decide, by decide, by decide⟩

theorem length_sixteen {k : FFmt} (hk : k ∈ [fmt16, fmtBf]) : k.f + k.w + 1 = 16 := by
  revert k
  decide

/-- Settles O60: binary16 and BF16 lie within binary32. -/
theorem narrowingUndoesWidening : Obligations.NarrowingUndoesWidening := by
  intro k c r r' hk hc
  rw [← length_sixteen hk] at hc
  exact conv_conv (within_fmt32 hk) hc r r'

end Sys2Proof.Machine
end

section
/-! PROOFS. The matrix array's registers: a broadcast or group write lands in every participating member or in none (R150, R474), and the
commands of CLUS_CTRL and CLUS_INJECT (R148, R151). -/

namespace Sys2Proof.Machine

/-! ### Broadcast and group writes (R150, R474) -/

/-- A broadcast or group write as the writes of its participating members. -/
def State.aliasTaken (s : State) (p : Path) (x : AliasAt) (a : Nat) (v : Word) : List RegWr :=
  ((s.aliasMembers x).filter fun n => !s.memberOut x.block n).filterMap (memberWrite p x a v s)

/-- The writes of the members that are held or fenced. -/
def State.aliasSkipped (s : State) (p : Path) (x : AliasAt) (a : Nat) (v : Word) : List RegWr :=
  ((s.aliasMembers x).filter fun n => s.memberOut x.block n).filterMap (memberWrite p x a v s)

/-- The verdict that such a write is counted by, once no participating member refuses it. -/
def State.aliasVerdict (s : State) (ws : List RegWr) : Verdict :=
  if ws.any fun w => decide (w.verdict s = .part) then .part
  else if (ws.all fun w => decide (w.verdict s = .ignored)) && !ws.isEmpty then .ignored
  else .applied

/-- A write that has room and neither waits nor discards a staged `_LO` goes to the members that its address names. -/
theorem regWrite_alias {s : State} {p : Path} {a : Nat} {v : Word} {x : AliasAt} (hup : s.pathUp p = true) (hwait : s.pathWaits p = false)
    (hkept : s.discards p a = none) (hroom : s.entriesOf p a v ≤ s.auditRoom) (h27 : a < 2 ^ 27) (h4 : a % 4 = 0)
    (hx : findAlias a = some x) (tok : Option SignedObj) (c : Instr) : regWrite p a v tok c s = writeAlias p x a v s := by
  unfold regWrite
  rw [if_neg (by simp only [hup, not_true, false_or, Nat.not_le.2 h27, not_false_eq_true]), if_neg (by simp [h4]),
    if_neg (by simp [hwait]), if_neg (by simp [Nat.not_lt.2 hroom])]
  unfold discardStaged
  rw [hkept, hx]

/-- A broadcast or group write of 32-bit registers that some member takes part in: refused at every member where one refuses it, and
otherwise landed at each participating member with its own verdict, the others skipped. -/
theorem writeAlias_one {s : State} {p : Path} {a : Nat} {v : Word} {x : AliasAt} {l : RegLoc} (hl : locate (x.addr 6) = some l)
    (h1 : l.row.half = .one) (hin : s.aliasTaken p x a v ≠ []) :
    writeAlias p x a v s =
      if (s.aliasTaken p x a v).any fun w => decide (w.verdict s = .refused) then
        ((s.aliasMembers x).filterMap (memberWrite p x a v s)).foldl (fun t w => memberEntry w 1 t) (countVerdict p .refused (unstage p s))
      else
        (s.aliasSkipped p x a v).foldl (fun t w => memberEntry w 4 t)
          ((s.aliasTaken p x a v).foldl (fun t w => landWrite w (w.verdict s) t)
            (countVerdict p (s.aliasVerdict (s.aliasTaken p x a v)) (unstage p s))) := by
  have hinn : ((s.aliasMembers x).filter fun n => !s.memberOut x.block n) ≠ [] := by
    intro e
    exact hin (by rw [State.aliasTaken, e, List.filterMap_nil])
  have hms : s.aliasMembers x ≠ [] := by
    intro e
    exact hinn (by rw [e, List.filter_nil])
  unfold writeAlias
  simp only [hl, h1, if_neg hms, reduceCtorEq, false_and, if_false, List.isEmpty_eq_false_iff.2 hinn, Bool.false_and, Bool.or_false,
    List.any_map, List.all_map, List.foldl_map, List.isEmpty_map]
  rfl

section
variable {s : State} {ws : List RegWr} (h : ∀ w ∈ ws, w.verdict s = .applied)
include h

/-- Where every member applies the write, none meets it with another verdict. -/
theorem any_verdict_of_applied {d : Verdict} (hd : d ≠ .applied) : (ws.any fun w => decide (w.verdict s = d)) = false := by
  rw [List.any_eq_false]
  intro w hw
  rw [h w hw]
  simpa using hd.symm

theorem aliasVerdict_of_applied : s.aliasVerdict ws = .applied := by
  have hignored : ((ws.all fun w => decide (w.verdict s = .ignored)) && !ws.isEmpty) = false := by
    cases ws with
    | nil => rfl
    | cons w t => simp [h w List.mem_cons_self]
  unfold State.aliasVerdict
  rw [any_verdict_of_applied h (by decide), hignored]
  rfl

theorem foldl_land_of_applied (t : State) :
    ws.foldl (fun t w => landWrite w (w.verdict s) t) t = ws.foldl (fun t w => landWrite w .applied t) t := by
  induction ws generalizing t with
  | nil => rfl
  | cons w rest ih =>
    rw [List.foldl_cons, List.foldl_cons, h w List.mem_cons_self, ih fun u hu => h u (List.mem_cons_of_mem w hu)]

end

/-- ALIAS_WRITE is the write at its address. -/
theorem exec_aliasWrite (p : Path) (a : BitVec 27) (v : Word) (s : State) :
    exec (.aliasWrite p a v) s = .next (writeReg p a.toNat v s) := rfl

/-- Settles O22: the write reaches `writeAlias`, and each clause is one branch of `writeAlias_one`. -/
theorem aliasWriteLandsEverywhere : Obligations.AliasWriteLandsEverywhere := by
  intro s p a v x l hup hwait hkept hroom _ h4 hx hl h1 ms inn out hin
  rw [exec_aliasWrite, writeReg, regWrite_alias hup hwait hkept hroom a.isLt h4 hx, writeAlias_one hl h1 hin]
  refine ⟨fun happlied => ?lands, fun hrefused => ?refused⟩
  case lands =>
    change ∀ w ∈ s.aliasTaken p x a.toNat v, w.verdict s = .applied at happlied
    rw [any_verdict_of_applied happlied (by decide), aliasVerdict_of_applied happlied, foldl_land_of_applied happlied]
    rfl
  case refused =>
    rw [if_pos]
    obtain ⟨w, hw, hv⟩ := hrefused
    exact List.any_eq_true.2 ⟨w, hw, decide_eq_true hv⟩

/-! ### CLUS_CTRL and CLUS_INJECT (R148, R151) -/

/-- The rows of CLUS_CTRL and CLUS_INJECT have no locked field. -/
theorem verdict_clus {w : RegWr} {s : State} (ho : s.originRefused w.path w.addr w.val = false) (hb : w.loc.blk = .clus)
    (hacts : w.loc.row.readOnly = false) (hlock : w.loc.row.lock = 0) (hcfg : w.loc.row.cfg = false) (hr : clusRefused w s = false) :
    w.verdict s = .applied := by
  have hshut : s.cfgShut w.loc = false := by simp [State.cfgShut, hcfg]
  have hbits : w.changesLocked s = false := by simp [RegWr.changesLocked, hlock]
  simp [RegWr.verdict, ho, hacts, hshut, hlock, hbits, hookRefused, hookIgnored, hb, hr]

/-- A write to CLUS_CTRL of a cluster. -/
def clusCtrlWr (p : Path) (c : Fin 512) (v : Word) : RegWr :=
  { path := p, loc := ⟨.clus, c, { off := 0, rw := 2, w1s := 0xD }, 0⟩, addr := aClus c 0, val := v.toNat, tok := none }

/-- A write to CLUS_CTRL is stored and acts by its bits; one that arms an injection needs the grant. -/
theorem write_clusCtrl {s : State} {p : Path} {c : Fin 512} {v : Word} (ht : s.Takes p (aClus c 0) v)
    (hgrant : v.getLsbD 3 = true → s.injectGranted = true) :
    writeReg p (aClus c 0) v s = clusCtrl (clusCtrlWr p c v) (s.stored p (aClus c 0) v) := by
  refine write_stored ht (placed_clus c) (verdict_clus ht.origin rfl rfl rfl rfl ?_)
  change (v.getLsbD 3 && !s.injectGranted) = false
  cases hv : v.getLsbD 3 with
  | false => rfl
  | true => rw [hgrant hv]; rfl

/-- A granted write to CLUS_INJECT is stored, and nothing else happens. -/
theorem write_clusInject {s : State} {p : Path} {c : Fin 512} {v : Word} (ht : s.Takes p (aClus c 0x40) v) (hgrant : s.injectGranted = true) :
    writeReg p (aClus c 0x40) v s = s.stored p (aClus c 0x40) v := by
  rw [write_stored ht (placed_clusInject c) (verdict_clus ht.origin rfl rfl rfl rfl ?granted),
    hookRun_other _ _ (show (Blk.clus, 0x40) ∉ hooked by decide)]
  case granted =>
    change (!s.injectGranted) = false
    rw [hgrant]
    rfl

/-- HOLD stands in bit 1, apart from the command bits that are written beside it. -/
theorem getLsbD_hold_or (x k : Word) {i : Nat} (hi : i ≠ 1) : (x &&& 2 ||| k).getLsbD i = k.getLsbD i := by
  have h2 : (2 : Word).getLsbD i = false := Nat.testBit_two_pow_of_ne (n := 1) hi.symm
  rw [BitVec.getLsbD_or, BitVec.getLsbD_and, h2, Bool.and_false, Bool.false_or]

section
variable (p : Path) (c : Fin 512) {v : Word} (s : State)

theorem clusCtrlWr_bit (i : Nat) : (clusCtrlWr p c v).bit i = v.getLsbD i := rfl

theorem clusCtrlWr_unit : (clusCtrlWr p c v).unit = c := rfl

theorem clusCtrl_none (h0 : v.getLsbD 0 = false) (h2 : v.getLsbD 2 = false) (h3 : v.getLsbD 3 = false) :
    clusCtrl (clusCtrlWr p c v) s = s := by
  simp [clusCtrl, -BitVec.getLsbD_eq_getElem, clusCtrlWr_bit, h0, h2, h3]

theorem clusCtrl_srst (h0 : v.getLsbD 0 = true) (h2 : v.getLsbD 2 = false) (h3 : v.getLsbD 3 = false) :
    clusCtrl (clusCtrlWr p c v) s = startReset 5 c 1 none s := by
  simp [clusCtrl, -BitVec.getLsbD_eq_getElem, clusCtrlWr_bit, clusCtrlWr_unit, h0, h2, h3]

theorem clusCtrl_clrCnt (h0 : v.getLsbD 0 = false) (h2 : v.getLsbD 2 = true) (h3 : v.getLsbD 3 = false) :
    clusCtrl (clusCtrlWr p c v) s = [0x08, 0x10, 0x18, 0x20, 0x28].foldl (fun t o => countClear (aClus c o) t) s := by
  simp [clusCtrl, clearCounters, -BitVec.getLsbD_eq_getElem, clusCtrlWr_bit, clusCtrlWr_unit, h0, h2, h3]

theorem clusCtrl_injectArm (h0 : v.getLsbD 0 = false) (h2 : v.getLsbD 2 = false) (h3 : v.getLsbD 3 = true) :
    clusCtrl (clusCtrlWr p c v) s =
      if s.regField (aClus c 0x40) 7 0 < 130 then s.setClus c { s.clus c with armed := true } else s := by
  simp [clusCtrl, -BitVec.getLsbD_eq_getElem, clusCtrlWr_bit, clusCtrlWr_unit, h0, h2, h3]

end

/-- A write to CLUS_CTRL that arms no injection needs no grant. -/
theorem write_clusCtrl_noArm {s : State} {p : Path} {c : Fin 512} {v : Word} (ht : s.Takes p (aClus c 0) v) (h3 : v.getLsbD 3 = false) :
    writeReg p (aClus c 0) v s = clusCtrl (clusCtrlWr p c v) (s.stored p (aClus c 0) v) :=
  write_clusCtrl ht fun h => absurd (h3.symm.trans h) (by decide)

/-- Settles O25: each command is a write to CLUS_CTRL, with HOLD as it stands or as it is written, or one to CLUS_INJECT. -/
theorem clusterCommands : Obligations.ClusterCommands := by
  intro s p c v a hold cleared
  have bits (k : Word) {i : Nat} (hi : i ≠ 1) : (hold ||| k).getLsbD i = k.getLsbD i := getLsbD_hold_or _ k hi
  refine ⟨fun ht => congrArg Host.Outcome.next ?srst, fun ht => congrArg Host.Outcome.next ?hold,
    fun ht => congrArg Host.Outcome.next ?release, fun ht => congrArg Host.Outcome.next ?clrCnt,
    fun ht hg => congrArg Host.Outcome.next ?arm, fun ht hg => congrArg Host.Outcome.next (write_clusInject ht hg)⟩
  case srst =>
    exact (write_clusCtrl_noArm ht (bits 1 (by decide))).trans
      (clusCtrl_srst p c _ (bits 1 (by decide)) (bits 1 (by decide)) (bits 1 (by decide)))
  case hold => exact (write_clusCtrl_noArm ht rfl).trans (clusCtrl_none p c _ rfl rfl rfl)
  case release => exact (write_clusCtrl_noArm ht rfl).trans (clusCtrl_none p c _ rfl rfl rfl)
  case clrCnt =>
    exact (write_clusCtrl_noArm ht (bits 4 (by decide))).trans
      (clusCtrl_clrCnt p c _ (bits 4 (by decide)) (bits 4 (by decide)) (bits 4 (by decide)))
  case arm =>
    exact (write_clusCtrl ht fun _ => hg).trans
      (clusCtrl_injectArm p c _ (bits 8 (by decide)) (bits 8 (by decide)) (bits 8 (by decide)))

end Sys2Proof.Machine
end

section
/-! PROOFS. Pip checks, crosschecks, and the decisions that name suspects (R229 to R233, R404 to R412). -/

namespace Sys2Proof.Machine

/-! ### PIP_CHECK (R229 to R233) -/

/-- The check of a task's tile that runs, if one does. -/
def State.pipRunning (s : State) (r : TaskRef) (tile : Nat) : Option (Task × PipRun) :=
  (s.ctx r.ctx).pipRuns.find? fun e => decide (e.1.ref = r) && decide (e.2.tile = tile)

/-- PIP_CHECK on a tile whose check runs is the end of that check. -/
theorem pipCheck_running {s : State} {r : TaskRef} {tile : Nat} {t : Task} {k : PipRun} (h : s.pipRunning r tile = some (t, k))
    (check ns : Nat) (env : Env) : pipCheck r tile check ns env s = pipEnd t k s := by
  unfold State.pipRunning at h
  unfold pipCheck
  rw [h]

/-- PIP_CHECK on a sampled tile that may be checked starts its check. -/
theorem pipCheck_sampled {s : State} {r : TaskRef} {tile check : Nat} {t : Task} (h : s.pipRunning r tile = none) (ht : s.task? r = some t)
    (hrun : s.pipMayRun t tile check = true) (ns : Nat) (env : Env) :
    pipCheck r tile check ns env s = pipStart t tile check ns env s := by
  unfold State.pipRunning at h
  unfold pipCheck
  rw [h, ht]
  exact if_pos hrun

/-- A check may run on a free cluster of another quire than the one that computed the tile. -/
theorem pipMayRun_of {s : State} {t : Task} {tile check : Nat} {k : Fin 512} (hst : t.st = .complete) (hsup : t.superseded = false)
    (htile : t.pip.contains tile = true) (hk : t.cluster = some k) (hquire : quireOf k.val ≠ quireOf check)
    (hbusy : (s.clus check).busy = false) (hout : s.clusterOut check = false) (hmrgn : s.regBit (aMrgn 0) 0 = true)
    (hpip : s.regBit (aMrgn 0) 3 = true) (hdev : s.dev.serves = true) (hctx : (s.ctx t.ref.ctx).st.isActive = true) :
    s.pipMayRun t tile check = true := by
  unfold State.pipMayRun
  simp only [hk, hst, hsup, htile, hquire, hbusy, hout, hmrgn, hpip, hdev, hctx, decide_true, decide_false, Bool.not_false, Bool.and_self]

section
variable {s : State} {tile check ns : Nat} (t : Task)

/-- Within the pip share the tile is recomputed, is no longer to be checked, and its check runs. -/
theorem pipStart_fits (h : s.pipFits (quireOf check) ns = true) (env : Env) :
    pipStart t tile check ns env s =
      let out := pipRun env t tile (usePip (quireOf check) ns s)
      let begun := out.1.setTask { t with pip := t.pip.erase tile }
      let x := begun.ctx t.ref.ctx
      begun.setCtx t.ref.ctx { x with pipRuns := x.pipRuns ++ [(t, out.2.started tile check)] } :=
  if_neg (not_not_intro h)

theorem pipStart_short (h : s.pipFits (quireOf check) ns = false) (env : Env) :
    pipStart t tile check ns env s = skipShort t tile s :=
  if_pos (Bool.eq_false_iff.1 h)

end

/-! ### CROSSCHECK (R404 to R406) -/

section
variable {s : State} (hdev : s.dev.serves = true) (hmrgn : s.regBit (aMrgn 0) 0 = true) (hcross : s.regBit (aMrgn 0) 2 = true)
  (seenA seenB : List (Nat × Word)) (p q : Bool) {ns : Nat}
include hdev hmrgn hcross

/-- While crosschecks are on, the number's two clusters decide whether it runs. -/
theorem crosscheck_on :
    crosscheck seenA seenB p q ns s =
      let n := s.reg (aRstc 0x38)
      let a := (crossPair n.toNat).1
      let b := (crossPair n.toNat).2
      if s.clusterOut a || s.clusterOut b then s.setReg (aRstc 0x38) (n + 1)
      else if ¬ s.crossFits (quireOf a) ns ∨ ¬ s.crossFits (quireOf b) ns then noteLimited (count (aMrgn 0x38) 1 s)
      else
        let s1 := (useCross (quireOf b) ns (useCross (quireOf a) ns s)).setReg (aRstc 0x38) (n + 1)
        let d := crossDiff (crossOut (s.reg64 (aRstc 0x30)).toNat n.toNat) seenA seenB
        if d.isNone && !p && !q then crossClean a b s1 else crossFail a b n p q d s1 :=
  if_neg (by simp [hdev, hmrgn, hcross])

/-- A number with a cluster that is held, fenced, in reset or deciding is passed over. -/
theorem crosscheck_out
    (h : s.clusterOut (crossPair (s.reg (aRstc 0x38)).toNat).1 = true ∨ s.clusterOut (crossPair (s.reg (aRstc 0x38)).toNat).2 = true) :
    crosscheck seenA seenB p q ns s = s.setReg (aRstc 0x38) (s.reg (aRstc 0x38) + 1) :=
  (crosscheck_on hdev hmrgn hcross seenA seenB p q).trans (if_pos (Bool.or_eq_true_iff.2 h))

variable (ha : s.clusterOut (crossPair (s.reg (aRstc 0x38)).toNat).1 = false)
  (hb : s.clusterOut (crossPair (s.reg (aRstc 0x38)).toNat).2 = false)
include ha hb

/-- One that the crosscheck share of a quire cannot take waits. -/
theorem crosscheck_short
    (h : s.crossFits (quireOf (crossPair (s.reg (aRstc 0x38)).toNat).1) ns = false ∨
      s.crossFits (quireOf (crossPair (s.reg (aRstc 0x38)).toNat).2) ns = false) :
    crosscheck seenA seenB p q ns s = noteLimited (count (aMrgn 0x38) 1 s) := by
  refine (crosscheck_on hdev hmrgn hcross seenA seenB p q).trans ((if_neg ?_).trans (if_pos ?_))
  · rw [ha, hb]
    exact Bool.false_ne_true
  · exact h.imp Bool.eq_false_iff.1 Bool.eq_false_iff.1

variable (fa : s.crossFits (quireOf (crossPair (s.reg (aRstc 0x38)).toNat).1) ns = true)
  (fb : s.crossFits (quireOf (crossPair (s.reg (aRstc 0x38)).toNat).2) ns = true)
include fa fb

/-- One that both clusters and both shares can take runs: the number moves, and the two outputs are compared. -/
theorem crosscheck_runs :
    crosscheck seenA seenB p q ns s =
      let n := s.reg (aRstc 0x38)
      let a := (crossPair n.toNat).1
      let b := (crossPair n.toNat).2
      let s1 := (useCross (quireOf b) ns (useCross (quireOf a) ns s)).setReg (aRstc 0x38) (n + 1)
      let d := crossDiff (crossOut (s.reg64 (aRstc 0x30)).toNat n.toNat) seenA seenB
      if d.isNone && !p && !q then crossClean a b s1 else crossFail a b n p q d s1 := by
  refine (crosscheck_on hdev hmrgn hcross seenA seenB p q).trans ((if_neg ?_).trans (if_neg ?_))
  · rw [ha, hb]
    exact Bool.false_ne_true
  · rintro (h | h)
    · exact h fa
    · exact h fb

end

/-- A crosscheck is clean when neither an element nor a checksum differs. -/
theorem crossed_clean_iff {d : Option (Nat × Nat)} {p q : Bool} :
    (d.isNone && !p && !q) = true ↔ ¬ (d ≠ none ∨ p = true ∨ q = true) := by
  cases d <;> simp

/-! ### Decisions (R407 to R412) -/

section
variable {s : State} {d : Decision} {third : Nat}

/-- An ABFT decision ends with the code and the suspects that the third computation's sums give. -/
theorem abftDecision_of {r : TaskRef} (h : s.decision? .abft (some r) = some d) (hthird : d.clusters.contains third = false) (o c : Int) :
    abftDecision r third (.sums o c) s =
      if o ≠ c then endDecision d 1 4 (d.clusters ++ [third]) s
      else if o = d.observed then endDecision d 1 1 d.clusters s
      else if o = d.checksum then endDecision d 1 2 d.clusters s
      else endDecision d 1 3 d.clusters s := by
  unfold abftDecision
  rw [h]
  exact if_neg (Bool.eq_false_iff.1 hthird)

/-- The code of a crosscheck decision and its suspects (R408), by what the third cluster agrees with. -/
def crossVerdict (d : Decision) (third : Nat) (agreesA agreesB abft : Bool) : Nat × List Nat :=
  let a := d.clusters.getD 0 0
  let b := d.clusters.getD 1 0
  if abft then (4, [a, b, third]) else if agreesA then (2, [b]) else if agreesB then (1, [a]) else (3, [a, b])

theorem crosscheckDecision_of (h : s.decision? .crosscheck none = some d) (hthird : d.clusters.contains third = false) (p q abft : Bool) :
    crosscheckDecision third p q abft s =
      endDecision d 2 0 (crossVerdict d third p q abft).2 (raiseCross d (crossVerdict d third p q abft).1 third s) := by
  unfold crosscheckDecision
  rw [h]
  exact if_neg (Bool.eq_false_iff.1 hthird)

/-- A pip decision suspects the cluster that the third one contradicts. -/
theorem pipHardDecision_of {r : TaskRef} (h : s.decision? .pip (some r) = some d) (hthird : d.clusters.contains third = false) (p q : Bool) :
    pipHardDecision r third p q s =
      endDecision d 3 0 (if p then d.clusters.take 1 else if q then (d.clusters.drop 1).take 1
        else d.clusters.take 1 ++ (d.clusters.drop 1).take 1) s := by
  unfold pipHardDecision
  rw [h]
  exact if_neg (Bool.eq_false_iff.1 hthird)

/-- A plausibility decision compares the row from two clusters of further quires with each other and with the original. -/
theorem plausibilityDecision_of {r : TaskRef} {second : Nat} (h : s.decision? .plausibility (some r) = some d)
    (hquires : ((second :: third :: d.clusters).map quireOf).Nodup) (p q : Bool) :
    plausibilityDecision r second third p q s =
      endDecision d 4 0 (if p && q then [] else if p then d.clusters else d.clusters ++ [second, third]) s := by
  unfold plausibilityDecision
  rw [h]
  exact if_neg (not_not_intro hquires)

/-- After 1 ms a decision ends inconclusive, every cluster involved suspect. -/
theorem decisionTimeout_due {id : Nat} (h : s.faults.decisions.find? (fun k => decide (k.id = id)) = some d) (hkind : d.kind ≠ .crosscheck)
    (hdue : d.since.toNat + 1000000 ≤ s.time.toNat) :
    decisionTimeout id s = endDecision d d.kind.trigger (if d.kind = .abft then 4 else 0) d.clusters s := by
  unfold decisionTimeout
  rw [h]
  dsimp only
  rw [if_neg (Nat.not_lt.2 hdue), if_neg hkind]

end

/-! ### The commands -/

/-- Settles O48: each clause is one case of the equation that its command has above. -/
theorem decisionCommands : Obligations.DecisionCommands := by
  intro s r t tile ns env n m d seenA seenB p q sums ends abft cross a b crossEnds pip plaus pair crossing idleOf s1 differ mayRun out begun x
  have starts (h : mayRun) : pipCheck r tile n ns.toNat env s = pipStart t tile n ns.toNat env s := by
    obtain ⟨ht, hnone, hst, hsup, htile, ⟨k, hk, hquire⟩, hbusy, hout, hmrgn, hpip, hdev, hctx⟩ := h
    exact pipCheck_sampled hnone ht (pipMayRun_of hst hsup htile hk hquire hbusy hout hmrgn hpip hdev hctx) _ _
  refine ⟨fun h hfits => congrArg Host.Outcome.next ((starts h).trans (pipStart_fits t hfits env)),
    fun h hshort => congrArg Host.Outcome.next ((starts h).trans (pipStart_short t hshort env)),
    fun k h => congrArg Host.Outcome.next (pipCheck_running h _ _ _),
    fun ⟨hdev, hmrgn, hcross⟩ h => congrArg Host.Outcome.next (crosscheck_out hdev hmrgn hcross _ _ _ _ h),
    fun ⟨hdev, hmrgn, hcross⟩ ha hb h => congrArg Host.Outcome.next (crosscheck_short hdev hmrgn hcross _ _ _ _ ha hb h),
    fun ⟨hdev, hmrgn, hcross⟩ ⟨ha, fa⟩ ⟨hb, fb⟩ => ?crossRuns, fun o c ⟨hd, hn⟩ => ?abft, fun ⟨hd, hn⟩ => ?cross,
    fun ⟨hd, hn⟩ => ?pip, fun ⟨hd, hq⟩ => ?plaus,
    fun id hd hkind hdue => congrArg Host.Outcome.next (decisionTimeout_due hd hkind hdue)⟩
  case crossRuns =>
    have runs (p q : Bool) := crosscheck_runs hdev hmrgn hcross seenA seenB p q ha hb fa fb
    refine ⟨fun h => congrArg Host.Outcome.next ((runs false false).trans (if_pos ?_)),
      fun h => congrArg Host.Outcome.next ((runs p q).trans (if_neg ?_))⟩
    · exact crossed_clean_iff.2 (by simpa using h)
    · exact fun clean => crossed_clean_iff.1 clean h
  case abft =>
    have eq := abftDecision_of hd hn o c
    exact ⟨fun h => congrArg Host.Outcome.next (eq.trans (if_pos h)),
      fun h ho => congrArg Host.Outcome.next (eq.trans ((if_neg (not_not_intro h)).trans (if_pos ho))),
      fun h ho hc => congrArg Host.Outcome.next (eq.trans ((if_neg (not_not_intro h)).trans ((if_neg ho).trans (if_pos hc)))),
      fun h ho hc => congrArg Host.Outcome.next (eq.trans ((if_neg (not_not_intro h)).trans ((if_neg ho).trans (if_neg hc))))⟩
  case cross =>
    have eq (p q abft : Bool) := congrArg (Host.Outcome.next : State → Answer) (crosscheckDecision_of hd hn p q abft)
    exact ⟨eq p q true, eq true q false, eq false true false, eq false false false⟩
  case pip =>
    have eq (p q : Bool) := congrArg (Host.Outcome.next : State → Answer) (pipHardDecision_of hd hn p q)
    exact ⟨eq true q, eq false true, eq false false⟩
  case plaus =>
    have eq (p q : Bool) := congrArg (Host.Outcome.next : State → Answer) (plausibilityDecision_of hd hq p q)
    exact ⟨eq true true, eq true false, eq false q⟩

end Sys2Proof.Machine
end

section
/-! PROOFS. The registers of the step commit, the twin, the numeric ledger and the probe (R241, R260, R384, R391, R392, R397, R400). -/

namespace Sys2Proof.Machine

/-! ### How a write of a register without locked fields ends -/

/-- A write that its origin and its context let through is refused or ignored by its register's own rules alone. -/
theorem verdict_unlocked {w : RegWr} {s : State} (ho : s.originRefused w.path w.addr w.val = false) (hacts : w.loc.row.readOnly = false)
    (hcfg : w.loc.row.cfg = false) (hlock : w.loc.row.lock = 0) :
    w.verdict s = if hookRefused w s then .refused else if hookIgnored w s then .ignored else .applied := by
  have hshut : s.cfgShut w.loc = false := by simp [State.cfgShut, hcfg]
  have hbits : w.changesLocked s = false := by simp [RegWr.changesLocked, hlock]
  simp [RegWr.verdict, ho, hacts, hshut, hlock, hbits]

/-- It is applied where the block has no rule against it. -/
theorem verdict_applied {w : RegWr} {s : State} (ho : s.originRefused w.path w.addr w.val = false) (hacts : w.loc.row.readOnly = false)
    (hcfg : w.loc.row.cfg = false) (hlock : w.loc.row.lock = 0) (hr : hookRefused w s = false) (hi : hookIgnored w s = false) :
    w.verdict s = .applied := by
  rw [verdict_unlocked ho hacts hcfg hlock, hr, hi]
  rfl

theorem verdict_refused {w : RegWr} {s : State} (ho : s.originRefused w.path w.addr w.val = false) (hacts : w.loc.row.readOnly = false)
    (hcfg : w.loc.row.cfg = false) (hlock : w.loc.row.lock = 0) (hr : hookRefused w s = true) : w.verdict s = .refused := by
  rw [verdict_unlocked ho hacts hcfg hlock, hr]
  rfl

/-- Whether an address is one that some origin is refused at, or RECOVERY reaches, by itself (R441, R468). -/
def guardedAddr (a : Nat) : Bool := inBlock 0x30000 a || inBlock 0x40000 a || recoveryReach a

/-- Elsewhere the origin alone decides. -/
theorem originRefused_congr {s : State} {p : Path} {a b : Nat} (ha : guardedAddr a = false) (hb : guardedAddr b = false) (v w : Nat) :
    s.originRefused p a v = s.originRefused p b w := by
  unfold guardedAddr at ha hb
  simp only [Bool.or_eq_false_iff] at ha hb
  obtain ⟨⟨ha3, ha4⟩, har⟩ := ha
  obtain ⟨⟨hb3, hb4⟩, hbr⟩ := hb
  cases p <;> simp only [State.originRefused, State.apertureShut, ha3, ha4, har, hb3, hb4, hbr, Bool.false_and, Bool.or_false]

/-! ### Refused writes (R455, R469) -/

theorem flushReserve_frame (n : Nat) (s : State) : ∃ x, flushReserve n s = { s with audit := x } := by
  induction n generalizing s with
  | zero => exact ⟨_, rfl⟩
  | succ n ih =>
    unfold flushReserve
    split
    · exact ⟨_, rfl⟩
    · split
      · exact ⟨_, rfl⟩
      · next e t _ _ =>
        obtain ⟨x, hx⟩ := auditAppend_frame { e with flags := e.flags ||| 8 } { s with audit := { s.audit with reserve := t } }
        rw [hx]
        exact ih _

/-- An origin's entry changes nothing but the ledger. -/
theorem appendOrigin_frame {a : Nat} (hk : isAck a = false) (e : AuditEntry) (s : State) : ∃ x, appendOrigin a e s = { s with audit := x } := by
  obtain ⟨x, hx⟩ := flushReserve_frame s.audit.reserve.length s
  unfold appendOrigin
  rw [hx, if_neg (Bool.eq_false_iff.1 hk)]
  exact auditAppend_frame e { s with audit := x }

/-- A refused write leaves its entry, where its block leaves nothing beside it. -/
theorem landWrite_refused_frame {w : RegWr} (hk : isAck w.addr = false) (hw : ∀ s, hookRefuse w s = s) (s : State) :
    ∃ x, landWrite w .refused s = { s with audit := x } := by
  unfold landWrite
  dsimp only
  rw [hw, ite_self]
  exact appendOrigin_frame hk _ s

/-! ### COMT_CTRL (R384, R400) -/

/-- A write to COMT_CTRL of a context. -/
def comtCtrlWr (p : Path) (c : Fin 64) (v : Word) : RegWr :=
  { path := p, loc := ⟨.comt, c, { off := 0, rw := 8, w1s := 7, reset := 8 }, 0⟩, addr := aComt c 0, val := v.toNat, tok := none }

/-- EVT_COMMIT stands in bit 3, apart from the command bits that are written beside it. -/
theorem getLsbD_evt_or (x k : Word) {i : Nat} (hi : i ≠ 3) : (x &&& 8 ||| k).getLsbD i = k.getLsbD i := by
  have h8 : (8 : Word).getLsbD i = false := Nat.testBit_two_pow_of_ne (n := 3) hi.symm
  rw [BitVec.getLsbD_or, BitVec.getLsbD_and, h8, Bool.and_false, Bool.false_or]

section
variable {s : State} {p : Path} {c : Fin 64} {x k : Word}

/-- A write to COMT_CTRL is refused when it resolves a step that is not IN_DOUBT. -/
theorem hookRefused_comtCtrl :
    hookRefused (comtCtrlWr p c (x &&& 8 ||| k)) s = ((k.getLsbD 1 || k.getLsbD 2) && decide ((s.ctx c).phase ≠ 4)) := by
  have bit (v : Word) : hookRefused (comtCtrlWr p c v) s = ((v.getLsbD 1 || v.getLsbD 2) && decide ((s.ctx c).phase ≠ 4)) := rfl
  rw [bit, getLsbD_evt_or x k (by decide), getLsbD_evt_or x k (by decide)]

/-- It acts by its command bits. -/
theorem comtCtrl_bits (v : Word) (t : State) :
    comtCtrl (comtCtrlWr p c v) t =
      let s1 := if v.getLsbD 0 then comtAbort c t else t
      let s2 := if v.getLsbD 1 then resolveStep c true s1 else s1
      if v.getLsbD 2 then resolveStep c false s2 else s2 := rfl

theorem comtCtrl_evt_or (t : State) : comtCtrl (comtCtrlWr p c (x &&& 8 ||| k)) t = comtCtrl (comtCtrlWr p c k) t := by
  rw [comtCtrl_bits, comtCtrl_bits, getLsbD_evt_or x k (by decide), getLsbD_evt_or x k (by decide), getLsbD_evt_or x k (by decide)]

theorem comtCtrl_abort (t : State) : comtCtrl (comtCtrlWr p c 1) t = comtAbort c t := comtCtrl_bits 1 t

theorem comtCtrl_resolveCommit (t : State) : comtCtrl (comtCtrlWr p c 2) t = resolveStep c true t := comtCtrl_bits 2 t

theorem comtCtrl_resolveAbort (t : State) : comtCtrl (comtCtrlWr p c 4) t = resolveStep c false t := comtCtrl_bits 4 t

section
variable (ht : s.Takes p (aComt c 0) (x &&& 8 ||| k))
include ht

/-- A write to COMT_CTRL that is not refused is stored, and its command takes effect. -/
theorem write_comtCtrl (h : (k.getLsbD 1 || k.getLsbD 2) = true → (s.ctx c).phase = 4) :
    writeReg p (aComt c 0) (x &&& 8 ||| k) s = comtCtrl (comtCtrlWr p c k) (s.stored p (aComt c 0) (x &&& 8 ||| k)) := by
  have accepted : ((k.getLsbD 1 || k.getLsbD 2) && decide ((s.ctx c).phase ≠ 4)) = false := by
    rw [Bool.and_eq_false_imp]
    exact fun resolves => decide_eq_false (not_not_intro (h resolves))
  rw [← comtCtrl_evt_or (x := x)]
  exact write_stored ht (placed_comt c) (verdict_applied ht.origin rfl rfl rfl (hookRefused_comtCtrl.trans accepted) rfl)

/-- A refused one is counted, then entered. -/
theorem write_comtCtrl_refused (resolves : (k.getLsbD 1 || k.getLsbD 2) = true) (h : (s.ctx c).phase ≠ 4) :
    ∃ y, writeReg p (aComt c 0) (x &&& 8 ||| k) s = { countVerdict p .refused s with audit := y } := by
  have hp := placed_comt c
  have refused : (comtCtrlWr p c (x &&& 8 ||| k)).verdict s = .refused :=
    verdict_refused ht.origin rfl rfl rfl (hookRefused_comtCtrl.trans (by rw [resolves, decide_eq_true h]; rfl))
  have lands : writeReg p (aComt c 0) (x &&& 8 ||| k) s = landWrite (comtCtrlWr p c (x &&& 8 ||| k)) .refused (countVerdict p .refused s) := by
    rw [← refused]
    exact write_lands (writeReg_one ht hp.plain hp.low hp.aligned _ _) hp.loc hp.one _ rfl
  rw [lands]
  exact landWrite_refused_frame hp.noAck (fun _ => rfl) _

end

end

theorem countVerdict_refused (p : Path) (s : State) :
    countVerdict p .refused s =
      match p with
      | .aperture _ => count (aTrpl 0x28) 1 (count (aGctl 0x50) 1 s)
      | _ => count (aGctl 0x50) 1 s := by
  cases p with
  | aperture _ => rfl
  | core _ => rfl
  | jtag => rfl

/-! ### The device-wide commit registers (R391, R392, R397) -/

/-- A write to a device-wide commit register of 32 bits. -/
def comtDevWr (p : Path) (off : Nat) (row : RegRow) (v : Word) : RegWr :=
  { path := p, loc := ⟨.comtDev, 0, row, 0⟩, addr := aComtDev off, val := v.toNat, tok := none }

section
variable {s : State} {p : Path} {off : Nat} {row : RegRow} {v : Word}

/-- A write to one that is not refused is stored, and acts by its bits. -/
theorem write_comtDev (hp : Placed (aComtDev off) ⟨.comtDev, 0, row, 0⟩) (ht : s.Takes p (aComtDev off) v) (hcfg : row.cfg = false)
    (hlock : row.lock = 0) (hr : comtRefused (comtDevWr p off row v) s = false) :
    writeReg p (aComtDev off) v s = comtDevHook (comtDevWr p off row v) (s.stored p (aComtDev off) v) :=
  write_stored ht hp (verdict_applied ht.origin hp.acts hcfg hlock hr rfl)

variable (s)

theorem comtDevHook_twin (ho : row.off = 0) :
    comtDevHook (comtDevWr p off row v) s =
      let s1 := if v.getLsbD 0 then twinPair s else s
      if v.getLsbD 1 then twinUnpair s1 else s1 := by
  have at0 : (comtDevWr p off row v).off = 0 := ho
  unfold comtDevHook
  rw [at0]
  rfl

theorem comtDevHook_detach (ho : row.off = 0x14) :
    comtDevHook (comtDevWr p off row v) s = if v.getLsbD 0 then startDetach s else s := by
  have at14 : (comtDevWr p off row v).off = 0x14 := ho
  unfold comtDevHook
  rw [at14]
  rfl

end

section
variable {s : State} {p : Path} {v : Word}

theorem write_twinPair (ht : s.Takes p (aComtDev 0) 1) : writeReg p (aComtDev 0) 1 s = twinPair (s.stored p (aComtDev 0) 1) := by
  rw [write_comtDev placed_comtDev ht rfl rfl rfl, comtDevHook_twin _ rfl]
  rfl

theorem write_twinUnpair (ht : s.Takes p (aComtDev 0) 2) : writeReg p (aComtDev 0) 2 s = twinUnpair (s.stored p (aComtDev 0) 2) := by
  rw [write_comtDev placed_comtDev ht rfl rfl rfl, comtDevHook_twin _ rfl]
  rfl

theorem write_detach (ht : s.Takes p (aComtDev 0x14) 1) (h : s.detachable = true) :
    writeReg p (aComtDev 0x14) 1 s = startDetach (s.stored p (aComtDev 0x14) 1) := by
  have accepted : ((1 : Word).getLsbD 0 && !s.detachable) = false := by rw [h]; rfl
  rw [write_comtDev placed_comtDetach ht rfl rfl accepted, comtDevHook_detach _ rfl]
  rfl

/-- The report of an interruption is stored as a pair, and its TIME joins the gaps. -/
theorem write_cadInterrupt (ht : s.Takes p (aComtDev 0x28) v) :
    writeReg p (aComtDev 0x28) v s =
      cadInterrupt (BitVec.ofNat 64 (s.pairValue p (aComtDev 0x24) (aComtDev 0x24) v))
        (s.storedPair p (aComtDev 0x24) (s.pairValue p (aComtDev 0x24) (aComtDev 0x24) v)) := by
  have ho : s.originRefused p (aComtDev 0x24) (s.pairValue p (aComtDev 0x24) (aComtDev 0x24) v) = false :=
    (originRefused_congr (by decide) (by decide) _ _).trans ht.origin
  have hi : aComtDev 0x28 = aComtDev 0x24 + 4 := by decide
  rw [hi] at ht ⊢
  rw [write_storedPair ht placed_cadence (verdict_applied ho rfl rfl rfl rfl rfl)]
  rfl

end

/-- A transition of the device state leaves the fault unit alone. -/
theorem setDev_faults (d : DevState) (s : State) : (setDev d s).faults = s.faults := by
  unfold setDev
  split
  · rfl
  · obtain ⟨r, a, c, o, e⟩ := (rec_auditState 1 1 0 s.dev.code d.code
      (Rec.refl [] { s with dev := d, prev := s.dev, devSince := s.time })).1.frame
    rw [e]
    unfold smbAlert
    split
    · rfl
    · rfl

/-- From ACTIVE a detach drains the device. -/
theorem startDetach_active {s : State} (h : s.dev = .active) :
    (startDetach s).dev = .draining ∧ (startDetach s).faults = { s.faults with drainDetach := true, draining := true } := by
  have e : startDetach s = setDev .draining { s with faults := { s.faults with drainDetach := true, draining := true } } := if_pos h
  rw [e]
  exact ⟨setDev_dev _ _, setDev_faults _ _⟩

/-! ### The ledger and the probe (R241, R260) -/

/-- A write of RD that moves it no further than WR is stored, and nothing else happens. -/
theorem write_ledgerRd {s : State} {p : Path} {c : Fin 64} {v : Word} (ht : s.Takes p (aNumc c 0x50) v) (h : s.ledgerRdBad c v = false) :
    writeReg p (aNumc c 0x50) v s = s.stored p (aNumc c 0x50) v := by
  refine write_stored ht (placed_ledgerRd c) (verdict_applied ht.origin rfl rfl rfl ?_ rfl)
  change s.ledgerRdBad c (BitVec.ofNat 32 v.toNat) = false
  rw [BitVec.ofNat_toNat, BitVec.setWidth_eq]
  exact h

/-- A write of RNGS_PROBE_CTR starts an evaluation. -/
theorem hookRun_probe {w : RegWr} (hb : w.loc.blk = .probe) (ho : w.off = 0x10) (s0 s : State) : hookRun w s0 s = probeStart s := by
  unfold hookRun
  rw [hb]
  exact if_pos ho

/-- A write of the probe's counter is stored, and an evaluation starts. -/
theorem write_probe {s : State} {p : Path} {v : Word} (ht : s.Takes p (aProbe 0x14) v) :
    writeReg p (aProbe 0x14) v s = probeStart (s.storedPair p (aProbe 0x10) (s.pairValue p (aProbe 0x10) (aProbe 0x10) v)) := by
  have ho : s.originRefused p (aProbe 0x10) (s.pairValue p (aProbe 0x10) (aProbe 0x10) v) = false :=
    (originRefused_congr (by decide) (by decide) _ _).trans ht.origin
  have hi : aProbe 0x14 = aProbe 0x10 + 4 := by decide
  rw [hi] at ht ⊢
  rw [write_storedPair ht placed_probe (verdict_applied ho rfl rfl rfl rfl rfl), hookRun_probe rfl rfl]

theorem probeDone_of {s : State} {k : BitVec 128} {n : Dword} (h : s.probe = some (k, n)) :
    probeDone s = { s.setReg (aProbe 0x18) (BitVec.ofNat 32 (draw k.toNat n.toNat)) with probe := none } := by
  unfold probeDone
  rw [h]

/-- Settles O33: each command is a write of its register. -/
theorem commitCommands : Obligations.CommitCommands := by
  intro s p c v a evt
  refine ⟨fun ht => congrArg Host.Outcome.next ?abort,
    fun ht h4 => congrArg Host.Outcome.next ((write_comtCtrl ht fun _ => h4).trans (comtCtrl_resolveCommit _)),
    fun ht h4 => congrArg Host.Outcome.next ((write_comtCtrl ht fun _ => h4).trans (comtCtrl_resolveAbort _)), fun ht h4 => ?refused,
    fun ht => congrArg Host.Outcome.next (write_cadInterrupt ht), fun ht => congrArg Host.Outcome.next (write_twinPair ht),
    fun ht => congrArg Host.Outcome.next (write_twinUnpair ht), fun ht hdev => ?detach,
    fun ht h => congrArg Host.Outcome.next (write_ledgerRd ht (decide_eq_false (Nat.not_lt.2 h))),
    fun ht => ⟨congrArg Host.Outcome.next (write_probe ht), rfl⟩, fun k n h => ?probeDone⟩
  case abort =>
    refine (write_comtCtrl ht fun resolves => absurd resolves (by decide)).trans ((comtCtrl_abort _).trans ?_)
    unfold comtAbort
    rw [stored_ctx]
  case refused =>
    obtain ⟨x, hx⟩ := write_comtCtrl_refused ht (by decide) h4
    rw [countVerdict_refused] at hx
    exact ⟨_, congrArg Host.Outcome.next hx, rfl, rfl⟩
  case detach =>
    obtain ⟨r, x, hs⟩ := stored_frame s p (aComtDev 0x14) 1
    have active : (s.stored p (aComtDev 0x14) 1).dev = .active := by rw [hs]; exact hdev
    have faults : (s.stored p (aComtDev 0x14) 1).faults = s.faults := by rw [hs]
    have detachable : s.detachable = true := by
      unfold State.detachable
      rw [decide_eq_true hdev, Bool.true_or]
    obtain ⟨draining, noted⟩ := startDetach_active active
    exact ⟨_, congrArg Host.Outcome.next (write_detach ht detachable), draining, noted.trans (by rw [faults])⟩
  case probeDone =>
    refine ⟨_, congrArg Host.Outcome.next (probeDone_of h), rfl, fun hwf => ?_⟩
    exact (State.reg_setReg hwf (aProbe 0x18) (aProbe 0x18) _).trans (if_pos rfl)

end Sys2Proof.Machine
end

section
/-! PROOFS. The vote of a step: STEP_END, the words that arrive, and the timers (R233, R374 to R380). -/

namespace Sys2Proof.NMap

/-- A listed key is found, whatever the order of the keys before it. -/
theorem find?_insert_self {α : Type} (m : NMap α) (k : Nat) (v : α) : find? (insert m k v) k = some v := by
  induction m with
  | nil => exact if_pos rfl
  | cons e t ih =>
    unfold insert
    split
    · exact if_pos rfl
    · next hne =>
      split
      · exact if_pos rfl
      · next hlt => exact (if_neg hne).trans ((if_neg hlt).trans ih)

end Sys2Proof.NMap

namespace Sys2Proof.Machine

/-- A context written reads as written, in any order of the contexts, unless it is the empty one. -/
theorem State.ctx_setCtx_self (s : State) (c : Nat) {x : Ctx} (h : x ≠ Ctx.empty) : (s.setCtx c x).ctx c = x := by
  unfold State.ctx State.setCtx NMap.get NMap.set
  rw [if_neg h, NMap.find?_insert_self]
  rfl

/-! ### STEP_END (R233, R374) -/

/-- How STEP_END ends: the vote is cast, with a fault where a table could not be written; a poisoned tile of a table kills the context. -/
def stepEnded (n c : Nat) (step : Dword) (params : Bytes) : Except RunStop TableOut × State → State
  | (.ok out, u) => castLost n c (prepareAndCast c step params (some out) 0 u)
  | (.error e, u) => match e.kill with
    | some cause => killCtx c cause (endStepTask c e.status u)
    | none => castLost n c (prepareAndCast c step params none (orBit 0 ((voteOfStatus e.status).getD vFault) true) u)

/-- The state once STEP_END's task is noted and the checks that have not started are skipped. -/
def State.stepEndBegun (s : State) (r : TaskRef) (t : Task) : State :=
  skipStepPips r.ctx t.step (s.setCtx r.ctx { s.ctx r.ctx with stepTask := some r })

/-- An issued STEP_END of the step under way writes its tables, while no vote is cast and no row repair runs. -/
theorem runStepEnd_ready {s : State} {r : TaskRef} {t : Task} (ht : s.task? r = some t) (hkind : t.d.kind = kStepEnd) (hst : t.st = .issued)
    (hstep : t.step = s.stepOf r.ctx) (hphase : (s.ctx r.ctx).phase.toNat < 3) (hrepair : s.repairRuns = false) (env : Env) :
    runStepEnd r env s =
      stepEnded (s.ctx r.ctx).tasks.length r.ctx t.step t.d.params ((writeTables env t.who r t.step).run (s.stepEndBegun r t)) := by
  have ready :
      ¬ (t.d.kind ≠ kStepEnd ∨ t.st ≠ .issued ∨ t.step ≠ s.stepOf r.ctx ∨ 3 ≤ (s.ctx r.ctx).phase.toNat ∨ s.repairRuns = true) := by
    simp [hkind, hst, hstep, hphase, hrepair]
  unfold runStepEnd
  rw [ht]
  dsimp only
  rw [if_neg ready]
  unfold State.stepEndBegun
  generalize (writeTables env t.who r t.step).run _ = wrote
  match wrote with
  | (.ok out, u) => rfl
  | (.error e, u) => rfl

/-! ### Words that arrive (R377, R378) -/

theorem voteArrives_of {s u : State} {d : Delivered} {c : Nat} (h : takeDelivered 0x20 s = some (d, u)) (hc : d.ctx = some c) :
    voteArrives s = gotVote c d.port d.pkt u := by
  unfold voteArrives
  rw [h]
  dsimp only
  rw [hc]

/-- A VOTE packet that a participant takes for context `c`: it is fresh, and whole. -/
structure TakesVote (c : Nat) (p : Packet) (s s1 : State) : Prop where
  fresh : seqCheck p s = (s1, .fresh)
  sound : payloadOk p.payload = true
  length : p.payload.length = 12
  part : s1.participant c = true

section
variable {s s1 : State} {c : Nat} {p : Packet} (h : TakesVote c p s s1) (port : Nat)
include h

theorem TakesVote.seqNote_eq : seqNote port p s = (s1, .fresh) := by
  unfold seqNote
  rw [h.fresh]
  rfl

theorem TakesVote.kept :
    ¬ (SeqCheck.fresh = .full ∨ ¬ payloadOk p.payload = true ∨ p.payload.length ≠ 12 ∨ ¬ s1.participant c = true) := by
  simp [h.sound, h.length, h.part]

section
variable {i : Nat} {rank : BitVec 21} (hchild : (s1.voteChildren c).find? (fun e => decide (e.2 = p.src)) = some (i, rank))
include hchild

/-- A child's first word in a round that has not closed is kept. -/
theorem gotVote_child (hopen : s1.roundClosed c i p.info .fresh = false) (hfirst : ((s1.ctx c).childWords.find? i).isSome = false) :
    gotVote c port p s =
      let s2 := s1.setCtx c
        { s1.ctx c with childWords := NMap.insert (s1.ctx c).childWords i (BitVec.ofNat 64 (fieldLe p.payload 0 8)) }
      if (s2.ctx c).voted then castLost (s1.ctx c).tasks.length c (tryCombine c s2) else s2 := by
  have new : ¬ (SeqCheck.fresh ≠ .fresh ∨ ((s1.ctx c).childWords.find? i).isSome = true) := by simp [hfirst]
  unfold gotVote
  rw [h.seqNote_eq]
  dsimp only
  rw [if_neg h.kept, hchild]
  dsimp only
  rw [hopen, if_neg Bool.false_ne_true]
  dsimp only
  rw [if_neg new]

/-- One of a round that has closed is answered with the reduced word held. -/
theorem gotVote_closed (hclosed : s1.roundClosed c i p.info .fresh = true) {k z : Dword} (held : (s1.ctx c).heldWord p.info = some (k, z)) :
    gotVote c port p s = sendVote c rank (k.setWidth 32) z false s1 := by
  unfold gotVote
  rw [h.seqNote_eq]
  dsimp only
  rw [if_neg h.kept, hchild]
  dsimp only
  rw [hclosed, if_pos rfl, held]

end

/-- The parent's word is a reduced one. -/
theorem gotVote_parent (hchild : (s1.voteChildren c).find? (fun e => decide (e.2 = p.src)) = none) (hsrc : p.src = s1.voteParent c)
    (hroot : s1.voteRoot c = false) (hnew : s1.reducedOld c p.info (BitVec.ofNat 64 (fieldLe p.payload 0 8)) = false) :
    gotVote c port p s = gotReduced c (BitVec.ofNat 64 (fieldLe p.payload 0 8)) s1 := by
  unfold gotVote
  rw [h.seqNote_eq]
  dsimp only
  rw [if_neg h.kept, hchild]
  dsimp only
  rw [if_pos ⟨hsrc, Bool.eq_false_iff.1 hroot, rfl, Bool.eq_false_iff.1 hnew⟩]

end

/-- Before the context has voted a child's word only waits for the others. -/
theorem gotVote_waits {s s1 : State} {c : Nat} {p : Packet} (h : TakesVote c p s s1) (port : Nat) {i : Nat} {rank : BitVec 21}
    (hchild : (s1.voteChildren c).find? (fun e => decide (e.2 = p.src)) = some (i, rank)) (hopen : s1.roundClosed c i p.info .fresh = false)
    (hfirst : ((s1.ctx c).childWords.find? i).isSome = false) (hvoted : (s1.ctx c).voted = false) :
    gotVote c port p s = s1.setCtx c
      { s1.ctx c with childWords := NMap.insert (s1.ctx c).childWords i (BitVec.ofNat 64 (fieldLe p.payload 0 8)) } := by
  have listed : { s1.ctx c with childWords := NMap.insert (s1.ctx c).childWords i (BitVec.ofNat 64 (fieldLe p.payload 0 8)) } ≠
      Ctx.empty := by
    intro e
    have found := congrArg (fun x : Ctx => NMap.find? x.childWords i) e
    dsimp only at found
    rw [NMap.find?_insert_self] at found
    cases found
  rw [gotVote_child h port hchild hopen hfirst]
  dsimp only
  rw [State.ctx_setCtx_self _ _ listed]
  exact if_neg (Bool.eq_false_iff.1 hvoted)

theorem gotReduced_voted {s : State} {c : Nat} (h : (s.ctx c).voted = true) (w : Dword) :
    gotReduced c w s = castLost (s.ctx c).tasks.length c (applyReduced c w s) := if_pos h

/-! ### Timers (R378, R380) -/

/-- A VALID child without a word counts as one that voted TIMEOUT. -/
theorem voteTimeout_late {s : State} {c child : Nat} (hvoted : (s.ctx c).voted = true) (hnone : ((s.ctx c).childWords.find? child).isSome = false)
    (hvalid : s.regBit (aComt c (0x20 + 4 * child)) 31 = true) :
    voteTimeout c child s = castLost (s.ctx c).tasks.length c (tryCombine c (s.setCtx c
      { s.ctx c with childWords := NMap.insert (s.ctx c).childWords child (orBit ((s.voteStep c) <<< 32) vTimeout true),
                     timedOut := (s.ctx c).timedOut ++ [child] })) :=
  if_neg (by simp [hvoted, hnone, hvalid])

theorem voteResend_waits {s : State} {c : Nat} (h : s.waitsReduced c = true) :
    voteResend c s = sendVote c (s.voteParent c) ((s.voteStep c).setWidth 32) (s.combined c) true s := if_pos h

/-- An event of a context that has just been written leaves it as written, but for its rings and event buffer, and leaves memory alone. -/
theorem raiseCtx_setCtx {s : State} (h : s.keysRise = true) (c : Nat) (x : Ctx) (code : BitVec 16) (sev : Byte) (unit : Nat) (b : Bytes) :
    (∃ g v l, (raiseCtx c code sev unit b (s.setCtx c x)).ctx c = { x with rings := g, evBuf := v, evLost := l }) ∧
      (raiseCtx c code sev unit b (s.setCtx c x)).mem = s.mem := by
  have recorded := (rec_raiseCtx c code sev unit b (Rec.refl [] (s.setCtx c x))).1
  constructor
  · obtain ⟨g, v, l, e⟩ := recorded.ctxs ((State_setCtx_keeps c x (Keeps.refl true s)).keys h) c
    rw [State.ctx_setCtx h, if_pos rfl] at e
    exact ⟨g, v, l, e⟩
  · obtain ⟨r, a, m, o, e⟩ := recorded.frame
    rw [e]
    rfl

/-- Twice the timeout after the cast the step is IN_DOUBT, and an event says so. -/
theorem inDoubt_raises {s : State} {c : Nat} (hphase : (s.ctx c).phase = 3) (hdue : s.sinceCast c (2 * s.voteTimeoutNs c) = true) :
    ∃ unit b, inDoubt c s = raiseCtx c 0x0303 2 unit b (s.setCtx c { s.ctx c with phase := 4 }) :=
  ⟨_, _, if_neg (by simp [hphase, hdue])⟩

/-- When the quiet period of an abort ends the context admits again, and an event says so. -/
theorem quietExpire_raises {s : State} {c : Nat} (hphase : (s.ctx c).phase = 5) :
    ∃ unit b, quietExpire c s = raiseCtx c 0x0602 1 unit b (s.setCtx c { s.ctx c with phase := 0, castAt := none, timedOut := [] }) :=
  ⟨_, _, if_neg (not_not_intro hphase)⟩

/-! ### The commands -/

/-- Settles O46: STEP_END by how its tables end, a word by who sent it, a timer by what it waits for. -/
theorem stepCommands : Obligations.StepCommands := by
  intro s u u1 c child r env t d x n y w came
  have takes (h : came) : TakesVote c d.pkt u u1 ∧ voteArrives s = gotVote c d.port d.pkt u := by
    obtain ⟨htake, hctx, hfresh, hsound, hlength, hpart⟩ := h
    exact ⟨⟨hfresh, hsound, hlength, hpart⟩, voteArrives_of htake hctx⟩
  refine ⟨fun hc ht hkind hst hstep hphase hrepair => ?stepEnd, fun i rank h hchild hopen hfirst hvoted => congrArg Host.Outcome.next ?child,
    fun i rank k z h hchild hclosed held => congrArg Host.Outcome.next ?closed,
    fun h hchild hsrc hroot hnew hvoted => congrArg Host.Outcome.next ?parent,
    fun hdue hvoted hnone hvalid => congrArg Host.Outcome.next ((if_pos hdue).trans (voteTimeout_late hvoted hnone hvalid)),
    fun hdue hwaits => congrArg Host.Outcome.next ((if_pos hdue).trans (voteResend_waits hwaits)),
    fun hkeys hphase hdue => ?inDoubt, fun hkeys hphase hdue => ?quiet⟩
  case stepEnd =>
    subst hc
    intro wrote
    have ends : exec (.stepEnd r env) s = .next (stepEnded n r.ctx t.step t.d.params wrote) :=
      congrArg Host.Outcome.next (runStepEnd_ready ht hkind hst hstep hphase hrepair env)
    refine ⟨fun out h => ?_, fun e cause h hkill => ?_, fun e h hkill => ?_⟩
    · rw [ends, h]
      rfl
    · rw [ends, h, stepEnded, hkill]
    · rw [ends, h, stepEnded, hkill]
  case child =>
    obtain ⟨taken, eq⟩ := takes h
    exact eq.trans (gotVote_waits taken _ hchild hopen hfirst hvoted)
  case closed =>
    obtain ⟨taken, eq⟩ := takes h
    exact eq.trans (gotVote_closed taken _ hchild hclosed held)
  case parent =>
    obtain ⟨taken, eq⟩ := takes h
    exact eq.trans ((gotVote_parent taken _ hchild hsrc hroot hnew).trans (gotReduced_voted hvoted _))
  case inDoubt =>
    obtain ⟨unit, b, e⟩ := inDoubt_raises hphase hdue
    obtain ⟨⟨g, v, l, hctx⟩, hmem⟩ := raiseCtx_setCtx hkeys c { s.ctx c with phase := 4 } 0x0303 2 unit b
    exact ⟨_, congrArg Host.Outcome.next e, by rw [hctx], by rw [hctx], hmem⟩
  case quiet =>
    obtain ⟨unit, b, e⟩ := quietExpire_raises hphase
    obtain ⟨⟨g, v, l, hctx⟩, hmem⟩ :=
      raiseCtx_setCtx hkeys c { s.ctx c with phase := 0, castAt := none, timedOut := [] } 0x0602 1 unit b
    exact ⟨_, congrArg Host.Outcome.next ((if_pos hdue).trans e), by rw [hctx], by rw [hctx], by rw [hctx], hmem⟩

end Sys2Proof.Machine
end

section
/-! PROOFS. The control registers of stacks, ports and the Trepel Link (R291, R319, R365). -/

namespace Sys2Proof.Machine

/-- While no context is active a register's locked fields take a write as its other fields do. -/
theorem verdict_open {w : RegWr} {s : State} (ho : s.originRefused w.path w.addr w.val = false) (hacts : w.loc.row.readOnly = false)
    (hcfg : w.loc.row.cfg = false) (hopen : s.locked = false) (hr : hookRefused w s = false) (hi : hookIgnored w s = false) :
    w.verdict s = .applied := by
  have hshut : s.cfgShut w.loc = false := by simp [State.cfgShut, hcfg]
  simp [RegWr.verdict, ho, hacts, hshut, hopen, hr, hi]

/-- A bit that a mask leaves out shows what is written beside the masked fields. -/
theorem getLsbD_masked_or {m : Word} {i : Nat} (hm : m.getLsbD i = false) (x k : Word) : (x &&& m ||| k).getLsbD i = k.getLsbD i := by
  rw [BitVec.getLsbD_or, BitVec.getLsbD_and, hm, Bool.and_false, Bool.false_or]

/-- Counters are cleared one after the other, at the offsets listed. -/
theorem clearCounters_map (f : Nat → Nat) (l : List Nat) (s : State) :
    clearCounters (l.map f) s = l.foldl (fun t o => countClear (f o) t) s := List.foldl_map ..

/-! ### HBMC_CTRL (R291) -/

theorem hookRun_hbmc {w : RegWr} (hb : w.loc.blk = .hbmc) (ho : w.off = 0) (s0 s : State) : hookRun w s0 s = hbmcCtrl w s := by
  unfold hookRun
  rw [hb]
  exact if_pos ho

/-- A write to HBMC_CTRL of a stack. -/
def hbmcCtrlWr (p : Path) (n : Fin 12) (v : Word) : RegWr :=
  { path := p, loc := ⟨.hbmc, n, { off := 0, w1s := 7 }, 0⟩, addr := aHbmc n 0, val := v.toNat, tok := none }

/-- A write to HBMC_CTRL is stored, and acts by its bits. -/
theorem write_hbmcCtrl {s : State} {p : Path} {n : Fin 12} {v : Word} (ht : s.Takes p (aHbmc n 0) v) :
    writeReg p (aHbmc n 0) v s = hbmcCtrl (hbmcCtrlWr p n v) (s.stored p (aHbmc n 0) v) :=
  (write_stored ht (placed_hbmc n) (verdict_applied ht.origin rfl rfl rfl rfl rfl)).trans (hookRun_hbmc rfl rfl _ _)

/-- HBMC_CTRL by its command bits: CLR_CNT, RETRAIN_NOW, then SRST. -/
theorem hbmcCtrl_bits (p : Path) (n : Fin 12) (v : Word) (s : State) :
    hbmcCtrl (hbmcCtrlWr p n v) s =
      let s1 := if v.getLsbD 2 then clearCounters ([0x10, 0x18, 0x20, 0x30].map fun o => aHbmc n o) s else s
      let s2 := if v.getLsbD 1 then allDue n 3 s1 else s1
      if v.getLsbD 0 then startReset 6 n 1 none s2 else s2 := rfl

section
variable (p : Path) (n : Fin 12) {v : Word} (s : State)

theorem hbmcCtrl_srst (h0 : v.getLsbD 0 = true) (h1 : v.getLsbD 1 = false) (h2 : v.getLsbD 2 = false) :
    hbmcCtrl (hbmcCtrlWr p n v) s = startReset 6 n 1 none s := by
  simp only [hbmcCtrl_bits, h0, h1, h2, if_true, Bool.false_eq_true, if_false]

theorem hbmcCtrl_retrainNow (h0 : v.getLsbD 0 = false) (h1 : v.getLsbD 1 = true) (h2 : v.getLsbD 2 = false) :
    hbmcCtrl (hbmcCtrlWr p n v) s = allDue n 3 s := by
  simp only [hbmcCtrl_bits, h0, h1, h2, if_true, Bool.false_eq_true, if_false]

theorem hbmcCtrl_clrCnt (h0 : v.getLsbD 0 = false) (h1 : v.getLsbD 1 = false) (h2 : v.getLsbD 2 = true) :
    hbmcCtrl (hbmcCtrlWr p n v) s = [0x10, 0x18, 0x20, 0x30].foldl (fun t o => countClear (aHbmc n o) t) s := by
  simp only [hbmcCtrl_bits, h0, h1, h2, if_true, Bool.false_eq_true, if_false, clearCounters_map]

end

/-! ### PORT_CTRL (R319) -/

theorem hookRun_port {w : RegWr} (hb : w.loc.blk = .port) (ho : w.off = 0) (s0 s : State) : hookRun w s0 s = portCtrl w s := by
  unfold hookRun
  rw [hb]
  exact if_pos ho

/-- A write to PORT_CTRL of a port. -/
def portCtrlWr (p : Path) (q : Fin 9) (v : Word) : RegWr :=
  { path := p, loc := ⟨.port, q, { off := 0, rw := 0x3D, lock := 0x3C, w1s := 0x42 }, 0⟩, addr := aPort q 0, val := v.toNat, tok := none }

/-- A write to PORT_CTRL is stored while no context is active, and acts by its bits. -/
theorem write_portCtrl {s : State} {p : Path} {q : Fin 9} {v : Word} (ht : s.Takes p (aPort q 0) v) (hopen : s.locked = false) :
    writeReg p (aPort q 0) v s = portCtrl (portCtrlWr p q v) (s.stored p (aPort q 0) v) :=
  (write_stored ht (placed_port q) (verdict_open ht.origin rfl rfl hopen rfl rfl)).trans (hookRun_port rfl rfl _ _)

/-- CLR_CNT of a port: the counters, and the error counts of the lanes. DEDUCED: log entry 85. -/
def clearPort (q : Nat) (s : State) : State :=
  (List.range 8).foldl (fun t l => t.setReg (aPort q (0x100 + 4 * l)) 0)
    (clearCounters ([0x80, 0x88, 0x90, 0x98, 0xA0, 0xA8, 0xB0].map fun o => aPort q o) s)

/-- PORT_CTRL by its command bits: CLR_CNT, the port following its EN, then SRST. -/
theorem portCtrl_bits (p : Path) (q : Fin 9) (v : Word) (s : State) :
    portCtrl (portCtrlWr p q v) s =
      let t := refreshPort q (if v.getLsbD 6 then clearPort q s else s)
      if v.getLsbD 1 then startReset 7 q 1 none t else t := rfl

section
variable (p : Path) (q : Fin 9) {v : Word} (s : State)

theorem portCtrl_enable (h1 : v.getLsbD 1 = false) (h6 : v.getLsbD 6 = false) :
    portCtrl (portCtrlWr p q v) s = refreshPort q s := by
  simp only [portCtrl_bits, h1, h6, Bool.false_eq_true, if_false]

theorem portCtrl_srst (h1 : v.getLsbD 1 = true) (h6 : v.getLsbD 6 = false) :
    portCtrl (portCtrlWr p q v) s = startReset 7 q 1 none (refreshPort q s) := by
  simp only [portCtrl_bits, h1, h6, if_true, Bool.false_eq_true, if_false]

theorem portCtrl_clrCnt (h1 : v.getLsbD 1 = false) (h6 : v.getLsbD 6 = true) :
    portCtrl (portCtrlWr p q v) s = refreshPort q (clearPort q s) := by
  simp only [portCtrl_bits, h1, h6, if_true, Bool.false_eq_true, if_false]

end

/-! ### TRPL_CTRL (R365) -/

theorem hookRun_trpl {w : RegWr} (hb : w.loc.blk = .trpl) (ho : w.off = 0) (s0 s : State) : hookRun w s0 s = trplCtrl w s := by
  unfold hookRun
  rw [hb]
  exact if_pos ho

/-- A write to TRPL_CTRL. -/
def trplCtrlWr (p : Path) (v : Word) : RegWr :=
  { path := p, loc := ⟨.trpl, 0, { off := 0, rw := 0xC, lock := 0xC, w1s := 3 }, 0⟩, addr := aTrpl 0, val := v.toNat, tok := none }

/-- A write to TRPL_CTRL is stored while no context is active, and acts by its bits. -/
theorem write_trplCtrl {s : State} {p : Path} {v : Word} (ht : s.Takes p (aTrpl 0) v) (hopen : s.locked = false) :
    writeReg p (aTrpl 0) v s = trplCtrl (trplCtrlWr p v) (s.stored p (aTrpl 0) v) :=
  (write_stored ht placed_trpl (verdict_open ht.origin rfl rfl hopen rfl rfl)).trans (hookRun_trpl rfl rfl _ _)

/-- TRPL_CTRL by its command bits: CLR_CNT, then RETRAIN. -/
theorem trplCtrl_bits (p : Path) (v : Word) (s : State) :
    trplCtrl (trplCtrlWr p v) s =
      let t := if v.getLsbD 1 then clearCounters ([0x08, 0x10, 0x18, 0x28].map fun o => aTrpl o) s else s
      if v.getLsbD 0 then startRetrain t else t := rfl

section
variable (p : Path) {v : Word} (s : State)

theorem trplCtrl_retrain (h0 : v.getLsbD 0 = true) (h1 : v.getLsbD 1 = false) :
    trplCtrl (trplCtrlWr p v) s = startRetrain s := by
  simp only [trplCtrl_bits, h0, h1, if_true, Bool.false_eq_true, if_false]

theorem trplCtrl_clrCnt (h0 : v.getLsbD 0 = false) (h1 : v.getLsbD 1 = true) :
    trplCtrl (trplCtrlWr p v) s = [0x08, 0x10, 0x18, 0x28].foldl (fun t o => countClear (aTrpl o) t) s := by
  simp only [trplCtrl_bits, h0, h1, if_true, Bool.false_eq_true, if_false, clearCounters_map]

end

/-! ### The commands -/

/-- Settles O26: each command is a write of one command bit, beside the fields of the register as they stand. -/
theorem stackPortLinkCommands : Obligations.StackPortLinkCommands := by
  intro s p n q en a b d bits width enable noErrors
  have portBit (k : Word) {i : Nat} (hi : (0x3D : Word).getLsbD i = false) : (bits ||| k).getLsbD i = k.getLsbD i := getLsbD_masked_or hi _ k
  have linkBit (k : Word) {i : Nat} (hi : (0xC : Word).getLsbD i = false) : (width ||| k).getLsbD i = k.getLsbD i := getLsbD_masked_or hi _ k
  have enableBit {i : Nat} (hi : (0x3D : Word).getLsbD i = false) (h0 : (1 : Word).getLsbD i = false) : enable.getLsbD i = false := by
    have hb : bits.getLsbD i = false := by rw [BitVec.getLsbD_and, hi, Bool.and_false]
    rw [BitVec.getLsbD_or, BitVec.getLsbD_and, hb, Bool.false_and, Bool.false_or]
    cases en with
    | false => exact BitVec.getLsbD_zero
    | true => exact h0
  refine ⟨fun ht => congrArg Host.Outcome.next ((write_hbmcCtrl ht).trans (hbmcCtrl_srst p n _ rfl rfl rfl)),
    fun ht => congrArg Host.Outcome.next ((write_hbmcCtrl ht).trans (hbmcCtrl_retrainNow p n _ rfl rfl rfl)),
    fun ht => congrArg Host.Outcome.next ((write_hbmcCtrl ht).trans (hbmcCtrl_clrCnt p n _ rfl rfl rfl)),
    fun ht h => congrArg Host.Outcome.next ((write_portCtrl ht h).trans (portCtrl_enable p q _ (enableBit rfl rfl) (enableBit rfl rfl))),
    fun ht h => congrArg Host.Outcome.next ((write_portCtrl ht h).trans (portCtrl_srst p q _ (portBit 2 rfl) (portBit 2 rfl))),
    fun ht h => congrArg Host.Outcome.next ((write_portCtrl ht h).trans ?portClrCnt),
    fun ht h => congrArg Host.Outcome.next ((write_trplCtrl ht h).trans (trplCtrl_retrain p _ (linkBit 1 rfl) (linkBit 1 rfl))),
    fun ht h => congrArg Host.Outcome.next ((write_trplCtrl ht h).trans (trplCtrl_clrCnt p _ (linkBit 2 rfl) (linkBit 2 rfl)))⟩
  case portClrCnt =>
    rw [portCtrl_clrCnt p q _ (portBit 0x40 rfl) (portBit 0x40 rfl), clearPort, clearCounters_map]

end Sys2Proof.Machine
end

section
/-! PROOFS. The registers of the Boundary Unit and of the Margin Scheduler's shares (R286, R353, R356, R358, R363), and what a refused write leaves. -/

namespace Sys2Proof.Machine

/-! ### The Boundary Unit's registers (R353, R356, R358, R363) -/

/-- A write to a register of the Boundary Unit. -/
def bndyWr (p : Path) (off k : Nat) (row : RegRow) (v : Word) : RegWr :=
  { path := p, loc := ⟨.bndy, 0, row, k⟩, addr := aBndy off, val := v.toNat, tok := none }

section
variable {s : State} {p : Path} {off k : Nat} {row : RegRow} {v : Word}
  (hp : Placed (aBndy off) ⟨.bndy, 0, row, k⟩) (ht : s.Takes p (aBndy off) v)
include hp ht

/-- A write to one that the unit does not refuse is stored, and acts. -/
theorem write_bndy (hcfg : row.cfg = false) (hlock : row.lock = 0) (hr : bndyRefused (bndyWr p off k row v) s = false) :
    writeReg p (aBndy off) v s = bndyHook (bndyWr p off k row v) (s.entered p (aBndy off) v.toNat false) (s.stored p (aBndy off) v) :=
  write_stored ht hp (verdict_applied ht.origin hp.acts hcfg hlock hr rfl)

end

/-- LOAD is refused while a load runs (R358). -/
theorem descLoad_refused {s : State} {p : Path} :
    bndyRefused (bndyWr p 0x18 0 { off := 0x18, w1s := 1 } 1) s = s.bndy.desc.isSome := by
  change ((1 : Word).getLsbD 0 && s.bndy.desc.isSome) = s.bndy.desc.isSome
  exact Bool.true_and _

/-- Counting how a refused write ended moves counters and records. -/
theorem countVerdict_refused_rec (p : Path) (s : State) :
    Rec [aGctl 0x50, aGctl 0x54, aTrpl 0x28, aTrpl 0x2C] s (countVerdict p .refused s) := by
  have once : Rec [aGctl 0x50, aGctl 0x54, aTrpl 0x28, aTrpl 0x2C] s (count (aGctl 0x50) 1 s) :=
    rec_count _ _ (.inl (by decide)) (.inl (by decide)) (.refl _ s)
  rw [countVerdict_refused]
  split
  · exact rec_count _ _ (.inl (by decide)) (.inl (by decide)) once
  · exact once

/-- A refused write that its origin was let make leaves its entry, and what its block leaves. -/
theorem landWrite_refused {w : RegWr} {s : State} (hk : isAck w.addr = false) (ho : s.originRefused w.path w.addr w.val = false) :
    ∃ x, landWrite w .refused s = hookRefuse w { s with audit := x } := by
  unfold landWrite
  dsimp only
  rw [ho, if_neg Bool.false_ne_true]
  obtain ⟨x, hx⟩ := appendOrigin_frame hk
    (regEntry w.path Verdict.refused.flags w.addr (s.oldValue w.path w.addr (decide (w.loc.row.half = .lo))) w.val) s
  exact ⟨x, by rw [hx]⟩

/-- A refused write of a register of 32 bits: it is counted and entered, and its block leaves what it leaves. -/
theorem write_refused {s : State} {p : Path} {a : Nat} {v : Word} {l : RegLoc} (ht : s.Takes p a v) (hp : Placed a l)
    (hv : RegWr.verdict { path := p, loc := l, addr := a, val := v.toNat, tok := none } s = .refused) :
    ∃ r x c o, writeReg p a v s =
      hookRefuse { path := p, loc := l, addr := a, val := v.toNat, tok := none } { s with regs := r, audit := x, ctxs := c, outputs := o } := by
  obtain ⟨r, x, c, o, hs⟩ := (countVerdict_refused_rec p s).1.frame
  have lands := write_lands (writeReg_one ht hp.plain hp.low hp.aligned none _) hp.loc hp.one _ rfl
  have origin : (countVerdict p .refused s).originRefused p a v.toNat = false := by rw [hs]; exact ht.origin
  obtain ⟨y, hy⟩ := landWrite_refused (w := { path := p, loc := l, addr := a, val := v.toNat, tok := none }) hp.noAck origin
  rw [lands, hv, hy, hs]
  exact ⟨r, y, c, o, rfl⟩

/-- Each share of the Margin Scheduler stands in a register of its own (R293). -/
theorem placed_mrgnShare (i : Fin 4) :
    ∃ r, Placed (aMrgn (4 + 4 * i)) ⟨.mrgn, 0, { off := 4 + 4 * i, rw := 0xFF, reset := r }, 0⟩ := by
  have h : ∀ i : Fin 4, locate (aMrgn (4 + 4 * i)) = some ⟨.mrgn, 0, { off := 4 + 4 * i, rw := 0xFF, reset := [20, 10, 5, 5].getD i 0 }, 0⟩ ∧
      findAlias (aMrgn (4 + 4 * i)) = none ∧ aMrgn (4 + 4 * i) < 2 ^ 27 ∧ aMrgn (4 + 4 * i) % 4 = 0 ∧ isAck (aMrgn (4 + 4 * i)) = false := by
    decide +kernel
  obtain ⟨loc, plain, low, aligned, noAck⟩ := h i
  exact ⟨_, loc, rfl, rfl, plain, low, aligned, noAck⟩

/-- A share that fits the budget is stored, and nothing else happens (R286). -/
theorem write_mrgnShare {s : State} {p : Path} {i : Fin 4} {v : Word} (ht : s.Takes p (aMrgn (4 + 4 * i)) v)
    (hfit : s.sharesFit (aMrgn (4 + 4 * i)) (BitVec.ofNat 32 (clampReg .mrgn (4 + 4 * i) v.toNat)) = true) :
    writeReg p (aMrgn (4 + 4 * i)) v s = s.stored p (aMrgn (4 + 4 * i)) v := by
  obtain ⟨r, hp⟩ := placed_mrgnShare i
  have fits : hookRefused ⟨p, ⟨.mrgn, 0, { off := 4 + 4 * i, rw := 0xFF, reset := r }, 0⟩, aMrgn (4 + 4 * i), v.toNat, none⟩ s = false := by
    change ([0x004, 0x008, 0x00C, 0x010].contains _ && !s.sharesFit _ (BitVec.ofNat 32 (clampReg .mrgn (4 + 4 * i) v.toNat))) = false
    rw [hfit, Bool.not_true, Bool.and_false]
  exact write_stored ht hp (verdict_applied ht.origin rfl rfl rfl fits rfl)

/-- Settles O32: each command is a write of its register; LOAD is refused while a load runs, and a share where it does not fit. -/
theorem boundaryCommands : Obligations.BoundaryCommands := by
  intro s p n r v
  refine ⟨fun ht => congrArg Host.Outcome.next ?window, fun ht h => congrArg Host.Outcome.next ?load, fun ht h => ?busy,
    fun ht => congrArg Host.Outcome.next ?release, fun ht h => congrArg Host.Outcome.next ?lock,
    fun i ht hfit => congrArg Host.Outcome.next ?share⟩
  case window =>
    refine (write_bndy (placed_bndyWin n) ht rfl rfl rfl).trans ?_
    change windowWrite n (BitVec.ofNat 32 v.toNat) _ = _
    rw [BitVec.ofNat_toNat, BitVec.setWidth_eq]
  case load =>
    have free : bndyRefused (bndyWr p 0x18 0 { off := 0x18, w1s := 1 } 1) s = false := descLoad_refused.trans (by rw [h]; rfl)
    have loads : (1 : Word).getLsbD 0 = true := rfl
    refine (write_bndy placed_bndyDesc ht rfl rfl free).trans ?_
    exact if_pos loads
  case busy =>
    have runs : bndyRefused (bndyWr p 0x18 0 { off := 0x18, w1s := 1 } 1) s = true := descLoad_refused.trans h
    obtain ⟨_, _, _, _, e⟩ := write_refused ht placed_bndyDesc (verdict_refused ht.origin rfl rfl rfl runs)
    exact ⟨_, congrArg Host.Outcome.next e, rfl, rfl⟩
  case release =>
    refine (write_bndy placed_bndyPt ht rfl rfl rfl).trans ?_
    change ptRelease (bitsN v.toNat 18 0) _ = _
    rw [bitsN, Nat.shiftRight_zero]
  case lock =>
    have unlocked : bndyRefused (bndyWr p (0x80 + 8 * r) r { off := 0x80, count := 8, stride := 8, rw := 0xFFFFF, w1s := 0x80000000 }
      (v ||| 0x80000000)) s = false := h
    have locks : (v ||| 0x80000000).getLsbD 31 = true := by rw [BitVec.getLsbD_or, Bool.or_eq_true]; exact .inr rfl
    refine (write_bndy (placed_bndyFwp r) ht rfl rfl unlocked).trans ?_
    exact if_pos locks
  case share =>
    have at27 : (BitVec.ofNat 27 (aMrgn (4 + 4 * i))).toNat = aMrgn (4 + 4 * i) := by
      obtain ⟨_, hp⟩ := placed_mrgnShare i
      exact BitVec.toNat_ofNat .. ▸ Nat.mod_eq_of_lt hp.low
    rw [at27]
    exact write_mrgnShare ht hfit

end Sys2Proof.Machine
end

section
/-! PROOFS. The registers of the security engine and of the audit ledger (R443, R451 to R453, R459, R460, R464). -/

namespace Sys2Proof.Machine

/-! ### The security engine's registers (R443, R451 to R453) -/

/-- A write to a register of the security engine, with the debug token that lies ready. -/
def secuWr (p : Path) (off : Nat) (row : RegRow) (v : Word) (tok : Option SignedObj) : RegWr :=
  { path := p, loc := ⟨.secu, 0, row, 0⟩, addr := aSecu off, val := v.toNat, tok := tok }

/-- A write to one that the engine does not refuse is stored, and acts. -/
theorem write_secu {s : State} {p : Path} {off : Nat} {row : RegRow} {v : Word} (hp : Placed (aSecu off) ⟨.secu, 0, row, 0⟩)
    (ht : s.Takes p (aSecu off) v) (hcfg : row.cfg = false) (hlock : row.lock = 0) (tok : Option SignedObj) (c : Instr)
    (hr : secuRefused (secuWr p off row v tok) s = false) :
    regWrite p (aSecu off) v tok c s = secuHook (secuWr p off row v tok) (s.stored p (aSecu off) v) := by
  rw [write_applied ht hp.plain hp.low hp.aligned hp.loc hp.one hp.acts hp.noAck tok c _ rfl (verdict_applied ht.origin hp.acts hcfg hlock hr rfl)]
  unfold State.stored theWrite
  rw [hp.loc]
  rfl

section
variable {p : Path} {off : Nat} {row : RegRow} {v : Word} {tok : Option SignedObj} (s : State)

/-- SECU_UPDATE by its command bits: CONFIRM, then ACTIVATE. -/
theorem secuHook_update (ho : row.off = 0x24) :
    secuHook (secuWr p off row v tok) s =
      let s1 := if v.getLsbD 1 then confirmUpdate s else s
      if v.getLsbD 0 then activate s1 else s1 := by
  have at24 : (secuWr p off row v tok).off = 0x24 := ho
  unfold secuHook
  rw [at24]
  rfl

/-- SECU_DBG by its command bits: ENABLE, then REVOKE. -/
theorem secuHook_debug (ho : row.off = 0x38) :
    secuHook (secuWr p off row v tok) s =
      let s1 := if v.getLsbD 0 then dbgEnable tok s else s
      if v.getLsbD 1 then dbgEnd s1 else s1 := by
  have at38 : (secuWr p off row v tok).off = 0x38 := ho
  unfold secuHook
  rw [at38]
  rfl

end

/-- The command bit 0 that is written beside a value stands in it, and leaves the other bits. -/
theorem getLsbD_or_one_zero (v : Word) : (v ||| 1).getLsbD 0 = true := by
  rw [BitVec.getLsbD_or, Bool.or_eq_true]
  exact .inr rfl

theorem getLsbD_or_one (v : Word) {i : Nat} (hi : i ≠ 0) : (v ||| 1).getLsbD i = v.getLsbD i := by
  have h1 : (1 : Word).getLsbD i = false := Nat.testBit_two_pow_of_ne (n := 0) hi.symm
  rw [BitVec.getLsbD_or, h1, Bool.or_false]

section
variable {s : State} {p : Path} {v : Word}

/-- GO of a load that the engine takes (R443). -/
theorem write_secuLoad (ht : s.Takes p (aSecu 0x1C) (v ||| 1)) (h : s.loadRefused (bitsN (v ||| 1).toNat 3 1) = false) :
    writeReg p (aSecu 0x1C) (v ||| 1) s = secuLoad (bitsN (v ||| 1).toNat 3 1) (s.stored p (aSecu 0x1C) (v ||| 1)) := by
  have taken : secuRefused (secuWr p 0x1C { off := 0x1C, w1s := 0xF } (v ||| 1) none) s = false := by
    change ((v ||| 1).getLsbD 0 && s.loadRefused (bitsN (v ||| 1).toNat 3 1)) = false
    rw [h, Bool.and_false]
  refine (write_secu placed_secuLoad ht rfl rfl none _ taken).trans ?_
  exact if_pos (getLsbD_or_one_zero v)

/-- ACTIVATE of a staged runtime that the engine takes (R453). -/
theorem write_activate (ht : s.Takes p (aSecu 0x24) 1) (h : s.activateRefused = false) :
    writeReg p (aSecu 0x24) 1 s = activate (s.stored p (aSecu 0x24) 1) := by
  have taken : secuRefused (secuWr p 0x24 { off := 0x24, w1s := 3 } 1 none) s = false := by
    change ((1 : Word).getLsbD 0 && s.activateRefused) = false
    rw [h, Bool.and_false]
  rw [writeReg, write_secu placed_secuUpdate ht rfl rfl none _ taken, secuHook_update _ rfl]
  rfl

/-- CONFIRM is never refused (R453). -/
theorem write_confirm (ht : s.Takes p (aSecu 0x24) 2) : writeReg p (aSecu 0x24) 2 s = confirmUpdate (s.stored p (aSecu 0x24) 2) := by
  have taken : secuRefused (secuWr p 0x24 { off := 0x24, w1s := 3 } 2 none) s = false := by
    change ((2 : Word).getLsbD 0 && s.activateRefused) = false
    exact Bool.false_and _
  rw [writeReg, write_secu placed_secuUpdate ht rfl rfl none _ taken, secuHook_update _ rfl]
  rfl

/-- GO of a quote while none is pending (R451). -/
theorem write_quoteGo (ht : s.Takes p (aSecu 0x30) (v ||| 1)) (h : s.secu.quote = none) :
    writeReg p (aSecu 0x30) (v ||| 1) s = quoteGo (v.getLsbD 1) (s.stored p (aSecu 0x30) (v ||| 1)) := by
  have taken : secuRefused (secuWr p 0x30 { off := 0x30, w1s := 3 } (v ||| 1) none) s = false := by
    change ((v ||| 1).getLsbD 0 && s.secu.quote.isSome) = false
    rw [h]
    exact Bool.and_false _
  refine (write_secu placed_secuQuote ht rfl rfl none _ taken).trans ?_
  rw [← getLsbD_or_one v (i := 1) (by decide)]
  exact if_pos (getLsbD_or_one_zero v)

/-- ENABLE tries the token that lies at SECU_LOAD_ADDR (R452). -/
theorem write_dbgEnable (ht : s.Takes p (aSecu 0x38) 1) (token : SignedObj) (c : Instr) :
    regWrite p (aSecu 0x38) 1 (some token) c s = dbgEnable (some token) (s.stored p (aSecu 0x38) 1) := by
  rw [write_secu placed_secuDbg ht rfl rfl (some token) c rfl, secuHook_debug _ rfl]
  rfl

/-- REVOKE ends debug access (R452). -/
theorem write_dbgRevoke (ht : s.Takes p (aSecu 0x38) 2) : writeReg p (aSecu 0x38) 2 s = dbgEnd (s.stored p (aSecu 0x38) 2) := by
  have noEnable : ¬ (2 : Word).getLsbD 0 = true := Bool.false_ne_true
  rw [writeReg, write_secu placed_secuDbg ht rfl rfl none _ rfl, secuHook_debug _ rfl, if_neg noEnable]
  exact if_pos rfl

end

/-! ### AUDT_ACK_SEQ (R459, R460) -/

/-- The rows of AUDT_ACK_SEQ. -/
def ackLo : RegLoc := ⟨.audt, 0, { off := 0x28, half := .lo, rw := allBits }, 0⟩
def ackHi : RegLoc := ⟨.audt, 0, { off := 0x2C, half := .hi, rw := allBits }, 0⟩

theorem locate_ackLo : locate (aAudt 0x28) = some ackLo := by decide +kernel

theorem locate_ackHi : locate (aAudt 0x28 + 4) = some ackHi := by decide +kernel

/-- A write of AUDT_ACK_SEQ, once its `_HI` comes. -/
def ackWr (p : Path) (ack : Nat) : RegWr := { path := p, loc := ackLo, addr := aAudt 0x28, val := ack, tok := none }

/-- A write of the `_HI` of a pair lands on the pair, with what is staged for its `_LO`, and nothing is staged any more. -/
theorem writeReg_pair_lands {s : State} {p : Path} {a : Nat} {v : Word} {lo hi : RegLoc} (ht : s.Takes p (a + 4) v)
    (hplain : findAlias (a + 4) = none) (hlow : a + 4 < 2 ^ 27) (h4 : a % 4 = 0) (hloc : locate a = some lo)
    (hlocHi : locate (a + 4) = some hi) (hhalf : hi.row.half = .hi) (hacts : hi.row.readOnly = false) (w : RegWr)
    (hw : w = { path := p, loc := lo, addr := a, val := s.pairValue p a a v, tok := none }) :
    writeReg p (a + 4) v s = landWrite w (w.verdict s) (countVerdict p (w.verdict s) (unstage p s)) := by
  unfold writeReg
  rw [writeReg_one ht hplain hlow (by omega)]
  unfold writeOne
  rw [hlocHi]
  dsimp only
  rw [hacts, if_neg Bool.false_ne_true, hhalf]
  dsimp only
  rw [Nat.add_sub_cancel, hloc]
  dsimp only
  rw [← hw]

/-- The entry of a write of AUDT_ACK_SEQ, which finds a slot with nothing before it in the reserve, changes nothing but the ledger. -/
theorem appendOrigin_ack_frame {a : Nat} (hk : isAck a = true) {s : State} (hr : s.audit.reserve = []) (hf : s.auditFull = false)
    (e : AuditEntry) : ∃ x, appendOrigin a e s = { s with audit := x } := by
  unfold appendOrigin
  rw [flushReserve_empty _ hr, if_pos hk, auditHw, auditHwWith, if_pos ⟨hr, Bool.eq_false_iff.1 hf⟩]
  exact auditAppend_frame e s

/-- A write that is applied there is entered and stored, and nothing else happens. -/
theorem landWrite_ackWr {s : State} (hr : s.audit.reserve = []) (hf : s.auditFull = false) (p : Path) (ack : Nat) :
    ∃ x, landWrite (ackWr p ack) .applied s = storeWr (ackWr p ack) { s with audit := x } := by
  have isAck : isAck (ackWr p ack).addr = true := rfl
  have noHook : ((ackWr p ack).loc.blk, (ackWr p ack).off) ∉ hooked := show (Blk.audt, 0x28) ∉ hooked by decide
  unfold landWrite
  dsimp only
  rw [hookRun_other _ _ noHook]
  obtain ⟨x, hx⟩ := appendOrigin_ack_frame isAck hr hf _
  exact ⟨x, congrArg (storeWr (ackWr p ack)) hx⟩

/-- AUDT_ACK_SEQ takes a value that moves it forward within what is durable. -/
theorem write_ackSeq {s : State} {p : Path} {v : Word} (ht : s.Takes p (aAudt 0x2C) v)
    (hok : s.ackOk (BitVec.ofNat 64 (s.pairValue p (aAudt 0x28) (aAudt 0x28) v)) = true) :
    ∃ x, writeReg p (aAudt 0x2C) v s =
      storeWr (ackWr p (s.pairValue p (aAudt 0x28) (aAudt 0x28) v)) { unstage p s with audit := x } := by
  have origin (n : Nat) : s.originRefused p (aAudt 0x28) n = false :=
    (originRefused_congr (by decide) (by decide) _ _).trans ht.origin
  have accepted : hookRefused (ackWr p (s.pairValue p (aAudt 0x28) (aAudt 0x28) v)) s = false := by
    change (true && !s.ackOk (BitVec.ofNat 64 (s.pairValue p (aAudt 0x28) (aAudt 0x28) v))) = false
    rw [hok]
    rfl
  have applied : (ackWr p (s.pairValue p (aAudt 0x28) (aAudt 0x28) v)).verdict s = .applied :=
    verdict_applied (origin _) rfl rfl rfl accepted rfl
  have slot : (unstage p s).auditFull = false := by
    have room := ht.room
    exact decide_eq_false (show ¬ auditSlots ≤ s.audit.ring.length by omega)
  obtain ⟨x, hx⟩ := landWrite_ackWr (s := unstage p s) ht.reserve slot p (s.pairValue p (aAudt 0x28) (aAudt 0x28) v)
  have lands := writeReg_pair_lands (a := aAudt 0x28) ht (by decide +kernel) (by decide) (by decide) locate_ackLo locate_ackHi rfl rfl
    (ackWr p (s.pairValue p (aAudt 0x28) (aAudt 0x28) v)) rfl
  rw [applied] at lands
  exact ⟨x, lands.trans hx⟩

/-- A register all of whose bits are written takes the value, where no range clamps it. -/
theorem mergedWord_allBits {l : RegLoc} (hw : l.writable = allBits) (hl : l.row.lock = 0) (hc : l.row.w1c = 0) {v : Word}
    (hclamp : clampReg l.blk l.row.off v.toNat = v.toNat) (s : State) (cur : Word) : s.mergedWord l cur v = v := by
  have all : allBits = BitVec.allOnes 32 := rfl
  unfold State.mergedWord
  rw [hclamp, hw, hl, hc, all, BitVec.ofNat_toNat, BitVec.setWidth_eq]
  simp only [BitVec.ofNat_eq_ofNat, BitVec.not_zero, BitVec.and_allOnes, ite_self, BitVec.not_allOnes, BitVec.and_zero,
    BitVec.zero_or]

/-- The halves of a pair that is stored whole. -/
theorem wordOf_append (n : Nat) : wordOf 1 n ++ wordOf 0 n = BitVec.ofNat 64 n := by
  apply BitVec.eq_of_toNat_eq
  have low : n % 2 ^ 32 < 2 ^ 32 := Nat.mod_lt _ (by decide)
  rw [BitVec.toNat_append, wordOf, wordOf, BitVec.toNat_ofNat, BitVec.toNat_ofNat, BitVec.toNat_ofNat, Nat.mul_zero, Nat.pow_zero, Nat.div_one,
    ← Nat.shiftLeft_add_eq_or_of_lt low, Nat.shiftLeft_eq]
  omega

/-- Both halves of a pair are stored at once (R472). -/
theorem storeWr_pair {w : RegWr} {h : RegLoc} (hh : heldElsewhere w.loc = false) (hlo : w.loc.row.half = .lo)
    (hloc : locate (w.addr + 4) = some h) (s : State) :
    storeWr w s = storeWord h (w.addr + 4) (wordOf 1 w.val) (storeWord w.loc w.addr (wordOf 0 w.val) s) := by
  unfold storeWr
  rw [if_neg (Bool.eq_false_iff.1 hh), if_pos hlo, hloc]

theorem storeWr_ackWr (p : Path) (ack : Nat) (s : State) :
    storeWr (ackWr p ack) s = (s.setReg (aAudt 0x28) (wordOf 0 ack)).setReg (aAudt 0x28 + 4) (wordOf 1 ack) := by
  have low (t : State) : storeWord ackLo (aAudt 0x28) (wordOf 0 ack) t = t.setReg (aAudt 0x28) (wordOf 0 ack) := by
    rw [storeWord_eq, mergedWord_allBits rfl rfl rfl rfl]
  have high (t : State) : storeWord ackHi (aAudt 0x28 + 4) (wordOf 1 ack) t = t.setReg (aAudt 0x28 + 4) (wordOf 1 ack) := by
    rw [storeWord_eq, mergedWord_allBits rfl rfl rfl rfl]
  rw [← high, ← low]
  exact storeWr_pair (w := ackWr p ack) rfl rfl locate_ackHi s

/-- AUDT_ACK_SEQ reads as it was stored. -/
theorem reg64_storeWr_ackWr {s : State} (h : s.regsWf = true) (p : Path) (ack : Nat) :
    (storeWr (ackWr p ack) s).reg64 (aAudt 0x28) = BitVec.ofNat 64 ack := by
  have apart : aAudt 0x28 ≠ aAudt 0x28 + 4 := by decide
  rw [storeWr_ackWr, State.reg64, State.reg_setReg (State.regsWf_setReg h _ _), State.reg_setReg (State.regsWf_setReg h _ _), if_pos rfl,
    if_neg apart, State.reg_setReg h, if_pos rfl, wordOf_append]

/-! ### AUDT_RD_SEQ (R464) -/

/-- A write of AUDT_RD_SEQ fetches an entry. -/
theorem hookRun_rdSeq {w : RegWr} (hb : w.loc.blk = .audt) (ho : w.off = 0x50) (s0 s : State) :
    hookRun w s0 s = auditRead (BitVec.ofNat 64 w.val) s := by
  unfold hookRun
  rw [hb]
  exact if_pos ho

/-- AUDT_RD_SEQ is stored as a pair, and the entry it names is fetched. -/
theorem write_rdSeq {s : State} {p : Path} {v : Word} (ht : s.Takes p (aAudt 0x54) v) :
    writeReg p (aAudt 0x54) v s =
      auditRead (BitVec.ofNat 64 (s.pairValue p (aAudt 0x50) (aAudt 0x50) v))
        (s.storedPair p (aAudt 0x50) (s.pairValue p (aAudt 0x50) (aAudt 0x50) v)) := by
  have ho : s.originRefused p (aAudt 0x50) (s.pairValue p (aAudt 0x50) (aAudt 0x50) v) = false :=
    (originRefused_congr (by decide) (by decide) _ _).trans ht.origin
  have hi : aAudt 0x54 = aAudt 0x50 + 4 := by decide
  rw [hi] at ht ⊢
  have accepted (n : Nat) : hookRefused ⟨p, ⟨.audt, 0, { off := 0x50, half := .lo, rw := allBits }, 0⟩, aAudt 0x50, n, none⟩ s = false :=
    Bool.false_and (!s.ackOk (BitVec.ofNat 64 n))
  rw [write_storedPair ht placed_audtRd (verdict_applied ho rfl rfl rfl (accepted _) rfl), hookRun_rdSeq rfl rfl]

/-- Whether the read of an entry will be uncorrectable is no part of what a write meets. -/
theorem State.Takes.withRdUe {s : State} {p : Path} {a : Nat} {v : Word} (ht : s.Takes p a v) (ue : Bool) :
    State.Takes { s with audit := { s.audit with rdUe := ue } } p a v :=
  ⟨ht.up, ht.waits, ht.kept, ht.reserve, ht.gapless, ht.room, ht.origin⟩

/-- AUDT_RD_SEQ_LO reads as it is stored. -/
theorem regValue_rdSeq (s : State) : s.regValue (aAudt 0x50) = s.reg (aAudt 0x50) := by
  unfold State.regValue
  rw [placed_audtRd.loc]
  have stands : 0x50 ∉ [0x000, 0x004, 0x008, 0x018, 0x01C, 0x030, 0x034, 0x038, 0x03C, 0x080] := by decide
  dsimp only [State.locValue]
  rw [if_neg stands]

theorem pairValue_withRdUe (s : State) (p : Path) (v : Word) (ue : Bool) :
    State.pairValue { s with audit := { s.audit with rdUe := ue } } p (aAudt 0x50) (aAudt 0x50) v =
      s.pairValue p (aAudt 0x50) (aAudt 0x50) v := by
  unfold State.pairValue
  rw [regValue_rdSeq, regValue_rdSeq]
  rfl

/-- Settles O34: each command is a write of its register that its block takes. -/
theorem securityCommands : Obligations.SecurityCommands := by
  intro s p v token load
  refine ⟨fun ht h => congrArg Host.Outcome.next (write_secuLoad ht h), fun ht h => congrArg Host.Outcome.next (write_activate ht h),
    fun ht => congrArg Host.Outcome.next (write_confirm ht), fun ht h => congrArg Host.Outcome.next (write_quoteGo ht h),
    fun ht => congrArg Host.Outcome.next (write_dbgEnable ht token _), fun ht => congrArg Host.Outcome.next (write_dbgRevoke ht),
    fun ht hwf hok => ?acknowledge, fun ht ue => congrArg Host.Outcome.next ?fetch⟩
  case acknowledge =>
    obtain ⟨x, hx⟩ := write_ackSeq ht hok
    obtain ⟨r, hr⟩ := storeWr_frame (ackWr p _) { unstage p s with audit := x }
    exact ⟨_, congrArg Host.Outcome.next hx, reg64_storeWr_ackWr (s := { unstage p s with audit := x }) hwf p _, by rw [hr]; rfl⟩
  case fetch =>
    have fetched := write_rdSeq (ht.withRdUe ue)
    rw [pairValue_withRdUe] at fetched
    exact congrArg (fun t : State => { t with audit := { t.audit with rdUe := false } }) fetched

end Sys2Proof.Machine
end

section
/-! PROOFS. What the packets for this device do (R304, R306, R330 to R340): requests, answers, collectives, and the timers of operations. -/

namespace Sys2Proof.Machine

/-! ### Requests and their sequence (R306, R330) -/

section
variable {s s1 t : State} {c port : Nat} {p : Packet} (again : State → State) (run : State → State × Option Byte)
  (hresets : s.resetAnswers c = false)
include hresets

section
variable (hseq : seqNote port p s = (s1, .fresh)) (hlives : (s.ctx c).st ≠ .killed)
include hseq hlives

/-- A fresh request is executed. -/
theorem runRequest_done (hrun : run s1 = (t, none)) : runRequest c port p again run s = t := by
  unfold runRequest
  rw [hresets, if_neg Bool.false_ne_true, hseq]
  dsimp only
  rw [if_neg hlives, hrun]

/-- One that fails is answered with its status, and its sequence number stays open. -/
theorem runRequest_failed {st : Byte} (hrun : run s1 = (t, some st)) :
    runRequest c port p again run s = sendNack c p st { t with fabric := { t.fabric with rx := s.fabric.rx } } := by
  unfold runRequest
  rw [hresets, if_neg Bool.false_ne_true, hseq]
  dsimp only
  rw [if_neg hlives, hrun]

end

/-- A duplicate is only answered again. -/
theorem runRequest_dup (hseq : seqNote port p s = (s1, .dup)) : runRequest c port p again run s = again s1 := by
  unfold runRequest
  rw [hresets, if_neg Bool.false_ne_true, hseq]

end

/-! ### TILE_WRITE and MEM_WRITE (R274, R304, R306, R332) -/

section
variable {s u : State} {d : Delivered} {c : Nat} (hc : d.ctx = some c)
include hc

theorem tileWrite_of (h : takeDelivered 1 s = some (d, u)) :
    tileWrite s = runRequest c d.port d.pkt (sendAckTo c d.pkt) (doTileWrite d.env c d.pkt) u := by
  unfold tileWrite
  rw [h]
  dsimp only
  rw [hc]

theorem memWrite_of (h : takeDelivered 2 s = some (d, u)) (hsound : payloadOk d.pkt.payload = true) :
    memWrite s = runRequest c d.port d.pkt (sendAckTo c d.pkt) (doMemWrite d.env c d.pkt) u := by
  unfold memWrite
  rw [h]
  dsimp only
  rw [if_neg (not_not_intro hsound), hc]

end

section
variable {s : State} {c : Nat} {p : Packet} {h : Handle} {t : Tensor} (env : Env)
  (hhandle : (s.ctx c).handle? (p.target.toNat % 2 ^ 20) = some h)
  (htensor : s.writeTensor c (p.target.toNat % 2 ^ 20) 0 false none = some t) (hplain : h.folio = false)
  (hindex : p.target.toNat / 2 ^ 20 % 2 ^ 28 < t.loc.tiles) (htarget : p.target.toNat < 2 ^ 48)

include hplain hindex htarget in
/-- The TARGET of a TILE_WRITE names a tile of a handle that is no FOLIO handle. -/
theorem tileTarget_ok : ¬ (h.folio = true ∨ t.loc.tiles ≤ p.target.toNat / 2 ^ 20 % 2 ^ 28 ∨ p.target.toNat / 2 ^ 48 ≠ 0) := by
  rw [hplain, Nat.div_eq_of_lt htarget]
  rintro (hfolio | hout | hhigh)
  · cases hfolio
  · exact Nat.not_le.2 hindex hout
  · exact hhigh rfl

include hhandle htensor hplain hindex htarget

/-- A sound tile is stored, counted and acknowledged. -/
theorem doTileWrite_stores {w : State} (hgood : p.tileBad t.loc.fmt = none)
    (hstore : storeTile env t.loc (p.target.toNat / 2 ^ 20 % 2 ^ 28) (p.tile t.loc.fmt c) s = .ok w) :
    doTileWrite env c p s = (sendAckTo c p (addCounter c p.counter.toNat t.loc.fmt.stored w), none) := by
  unfold doTileWrite
  dsimp only
  rw [hhandle, htensor]
  dsimp only
  rw [if_neg (tileTarget_ok hplain hindex htarget), hgood]
  dsimp only
  rw [hstore]

/-- One that fails its check fails with CHECKSUM. -/
theorem doTileWrite_bad {cause : Nat} (hbad : p.tileBad t.loc.fmt = some cause) :
    doTileWrite env c p s =
      (raiseReceived (Who.ofCtx c) cause t.loc.fmt (p.target.toNat % 2 ^ 20) (p.target.toNat / 2 ^ 20 % 2 ^ 28) p s, some stChecksum) := by
  unfold doTileWrite
  dsimp only
  rw [hhandle, htensor]
  dsimp only
  rw [if_neg (tileTarget_ok hplain hindex htarget), hbad]

end

/-- An aligned MEM_WRITE outside the FOLIO handles is stored, counted and acknowledged. -/
theorem doMemWrite_stores {s w : State} {env : Env} {c : Nat} {p : Packet} (halign : p.target.toNat % 64 = 0)
    (hfolio : (s.ctx c).inFolio p.target.toNat (p.payload.length - 4) = false)
    (hwrite : writeVa env c p.target.toNat (p.payload.take (p.payload.length - 4)) s = .ok w) :
    doMemWrite env c p s = (sendAckTo c p (addCounter c p.counter.toNat (p.payload.length - 4) w), none) := by
  unfold doMemWrite
  dsimp only
  rw [if_neg (by simp [halign, hfolio]), hwrite]

/-! ### READ_REQ (R304) -/

/-- A read of memory is answered with the bytes, marked where a burst was uncorrectable. -/
theorem doRead_memory {s w : State} {env : Env} {c : Nat} {p : Packet} {b : Bytes} {bad : Option Nat} (hmem : p.info.getLsbD 31 = false)
    (halign : p.target.toNat % 64 = 0) (hlen : p.info.toNat % 2 ^ 14 ≤ 9596)
    (hfetch : fetchVa env c p.target.toNat (p.info.toNat % 2 ^ 14) s = (.ok (b, bad), w)) :
    doRead c p env s = (answer c p 4 p.info bad.isSome (sealed b) w, none) := by
  have readable : ¬ (p.target.toNat % 64 ≠ 0 ∨ 9596 < p.info.toNat % 2 ^ 14) := by omega
  unfold doRead
  rw [hmem, if_neg Bool.false_ne_true]
  dsimp only
  rw [if_neg readable, hfetch]

/-- A fresh READ_REQ that is answered with data. -/
theorem readReq_done {s u v t : State} {env : Env} {d : Delivered} {c : Nat} (h : takeDelivered 3 s = some (d, u)) (hc : d.ctx = some c)
    (hseq : seqNote d.port d.pkt u = (v, .fresh)) (hresets : u.resetAnswers c = false) (hlives : (u.ctx c).st ≠ .killed)
    (hrun : doRead c d.pkt env v = (t, none)) : readReq env s = t := by
  unfold readReq
  rw [h]
  dsimp only
  rw [hc]
  exact runRequest_done _ _ hresets hseq hlives hrun

/-! ### Answers (R304, R333) -/

/-- The packets that a delivered ACK can be for: those of class REQ with the SEQ it names. -/
@[reducible] def ackedBy (d : Delivered) (k : Packet) : Bool :=
  decide (k.cls = 0) && decide (k.seq = d.pkt.info) && (d.ctx.isNone || decide (k.rank = d.pkt.src))

/-- Those that a NACK can be for: packets of class REQ or READ towards its source. -/
@[reducible] def nackedBy (d : Delivered) (k : Packet) : Bool := decide (k.cls = 0 ∨ k.cls = 2) && (d.ctx.isNone || decide (k.rank = d.pkt.src))

/-- Those that a reply can be for: requests of the same target and size. -/
@[reducible] def repliedBy (d : Delivered) (k : Packet) : Bool :=
  decide (k.op = 3) && decide (k.target = d.pkt.target) && decide (k.info = d.pkt.info) && (d.ctx.isNone || decide (k.rank = d.pkt.src))

section
variable {s u v : State} {d : Delivered} {o : FabOp} {q : Packet} (hseq : seqNote d.port d.pkt u = (v, .fresh))
include hseq

/-- A fresh ACK covers the packet whose SEQ it names. -/
theorem ackArrives_of (h : takeDelivered 5 s = some (d, u)) (hop : v.opWith d.ctx (ackedBy d) = some (o, q)) :
    ackArrives s = noteMirrored q (setOp (o.acked q) v) := by
  unfold ackArrives
  rw [h]
  dsimp only
  rw [hseq]
  dsimp only
  rw [if_neg (not_not_intro rfl), hop]

/-- A fresh NACK with a status of R304 fails the oldest operation towards its source. -/
theorem nackArrives_of {st : Byte} (h : takeDelivered 6 s = some (d, u)) (hst : nackStatus d.pkt.info = some st)
    (hop : v.opWith d.ctx (nackedBy d) = some (o, q)) : nackArrives s = failOp o st v := by
  unfold nackArrives
  rw [h]
  dsimp only
  rw [hseq]
  dsimp only
  rw [if_neg (not_not_intro rfl), hst, hop]

section
variable {r : TaskRef} {w : State} (h : takeDelivered 4 s = some (d, u)) (hop : v.opWith d.ctx (repliedBy d) = some (o, q))
  (htask : o.task = some r)
include h hop htask

/-- A fresh reply to a FETCH is stored, and its request is acknowledged. -/
theorem readData_stored (hstore : storeFetched d.env r (d.pkt.target.toNat / 2 ^ 20 % 2 ^ 28 - o.tile0) d.pkt v = (w, none)) :
    readData s = setOp (o.acked q) w := by
  unfold readData
  rw [h]
  dsimp only
  rw [hseq]
  dsimp only
  rw [if_neg (not_not_intro rfl), hop]
  dsimp only
  rw [htask]
  dsimp only
  rw [hstore]

/-- One that cannot be stored fails the operation. -/
theorem readData_failed {st : Byte}
    (hstore : storeFetched d.env r (d.pkt.target.toNat / 2 ^ 20 % 2 ^ 28 - o.tile0) d.pkt v = (w, some st)) :
    readData s = failOp o st w := by
  unfold readData
  rw [h]
  dsimp only
  rw [hseq]
  dsimp only
  rw [if_neg (not_not_intro rfl), hop]
  dsimp only
  rw [htask]
  dsimp only
  rw [hstore]

end

end

/-! ### The packets of collectives (R339, R340) -/

/-- A fresh COL_DATA with a tile that passes its check: a poisoned one ends its task, any other is kept in the window. -/
theorem colData_fresh {s u v : State} {d : Delivered} {c : Nat} {win : ColWindow} (h : takeDelivered 0x10 s = some (d, u)) (hc : d.ctx = some c)
    (hother : some d.pkt.src ≠ u.ctxRank c) (hresets : u.resetAnswers c = false) (hwin : u.colWindowFor d = some win)
    (hgood : d.pkt.tileBad (u.colTile win d.pkt).1 = none) (hseq : seqNote d.port d.pkt u = (v, .fresh)) :
    colData s =
      let win1 := { win with vals := win.vals ++ [(d.pkt.info, d.pkt.target, d.pkt.payload)] }
      if d.pkt.poison then colPoison win (u.colTile win d.pkt).2 v else colAdvance win.task (colRegrant win1 d.pkt (setWindow win1 v)) := by
  unfold colData
  rw [h]
  dsimp only
  rw [hc]
  dsimp only
  rw [if_neg hother, hresets, if_neg Bool.false_ne_true, hwin]
  dsimp only
  rw [hgood]
  dsimp only
  rw [hseq]

/-- A fresh COL_GRANT of a collective without a window adds to the credits of its sender. -/
theorem colGrant_windowless {s u v : State} {d : Delivered} {c : Nat} (h : takeDelivered 0x11 s = some (d, u)) (hc : d.ctx = some c)
    (hseq : seqNote d.port d.pkt u = (v, .fresh)) :
    let id := d.pkt.info.toNat % 1024
    let credited := setCredits c id d.pkt.src (v.creditsFor c id d.pkt.src + d.pkt.info.toNat / 1024) v
    credited.colWindowFor d = none → colGrant s = credited := by
  intro id credited hnone
  unfold colGrant
  rw [h]
  dsimp only
  rw [hseq]
  dsimp only
  rw [if_neg (not_not_intro rfl), hc]
  dsimp only
  rw [hnone]

/-! ### Timers (R333, R334) -/

section
variable {s : State} {o : FabOp} (h : s.fabric.ops.find? (fun k => decide (k.id = o.id)) = some o) (hwaits : o.state = .waiting)
  (hdue : ¬ s.time < o.timer)
include h hwaits hdue

/-- An operation whose timer has run out sends what is unacknowledged again. -/
theorem opTimer_resends (hmore : o.retries < s.regField (aFabr 0x224) 2 0) :
    opTimer o.id s = o.unacked.foldl (fun t k => resend k t)
      (setOp { o with retries := o.retries + 1, timer := s.time + BitVec.ofNat 64 s.opTimeout } s) := by
  unfold opTimer
  rw [h]
  dsimp only
  rw [if_neg (by simp [hwaits, hdue]), if_pos hmore]

/-- At the limit of its retries it fails with FABRIC_TIMEOUT. -/
theorem opTimer_fails (hlast : s.regField (aFabr 0x224) 2 0 ≤ o.retries) :
    opTimer o.id s = failOp o stFabricTimeout (opTimedOut o (count (aFabr 0x248) 1 s)) := by
  unfold opTimer
  rw [h]
  dsimp only
  rw [if_neg (by simp [hwaits, hdue]), if_neg (Nat.not_lt.2 hlast)]

end

/-! ### The commands -/

/-- Settles O56: a request by its sequence check and by what it runs, an answer by the operation it is for, a timer by the retries left. -/
theorem packetCommands : Obligations.PacketCommands := by
  intro s u v w d c o q env p came serves reopen n m index byAck byNack byData id credited
  refine ⟨fun ⟨h, hc, hseq⟩ ⟨hresets, hlives⟩ => congrArg Host.Outcome.next ?tileWrite,
    fun h hc hseq hresets => congrArg Host.Outcome.next ((tileWrite_of hc h).trans (runRequest_dup _ _ hresets hseq)),
    fun h t hhandle htensor hplain hindex htarget hgood hstore => doTileWrite_stores env hhandle htensor hplain hindex htarget hgood hstore,
    fun h t cause hhandle htensor hplain hindex htarget hbad => doTileWrite_bad env hhandle htensor hplain hindex htarget hbad,
    fun ⟨h, hc, hseq⟩ hsound ⟨hresets, hlives⟩ halign hfolio hwrite => congrArg Host.Outcome.next ((memWrite_of hc h hsound).trans
      (runRequest_done _ _ hresets hseq hlives (doMemWrite_stores halign hfolio hwrite))),
    fun b bad ⟨h, hc, hseq⟩ ⟨hresets, hlives⟩ hmem halign hlen hfetch => congrArg Host.Outcome.next
      (readReq_done h hc hseq hresets hlives (doRead_memory hmem halign hlen hfetch)),
    fun r ⟨h, _, hseq⟩ hop htask => congrArg Host.Outcome.next ?readData,
    fun ⟨h, _, hseq⟩ hop => congrArg Host.Outcome.next (ackArrives_of hseq h hop),
    fun st ⟨h, _, hseq⟩ hst hop => congrArg Host.Outcome.next (nackArrives_of hseq h hst hop),
    fun win h hc hother hresets hwin hgood hseq => congrArg Host.Outcome.next (colData_fresh h hc hother hresets hwin hgood hseq),
    fun ⟨h, hc, hseq⟩ hnone => congrArg Host.Outcome.next (colGrant_windowless h hc hseq hnone),
    fun h hwaits hdue hmore => congrArg Host.Outcome.next (opTimer_resends h hwaits hdue hmore),
    fun h hwaits hdue hlast => congrArg Host.Outcome.next (opTimer_fails h hwaits hdue hlast)⟩
  case tileWrite =>
    rw [tileWrite_of hc h]
    match e : doTileWrite d.env c p v with
    | (t, none) => exact runRequest_done _ _ hresets hseq hlives e
    | (t, some st) => exact runRequest_failed _ _ hresets hseq hlives e
  case readData =>
    match e : storeFetched d.env r (index - o.tile0) p v with
    | (t, none) => exact readData_stored hseq h hop htask e
    | (t, some st) => exact readData_failed hseq h hop htask e

end Sys2Proof.Machine
end

section
/-! PROOFS. The upkeep of HBM: training, row repair, frame retirement, recalibration and deadlines (R262, R281 to R289). -/

namespace Sys2Proof.Machine

/-! ### Training (R285, R287, R288) -/

section
variable {s : State} {n ch : Nat}

theorem retrainDue_interval (hup : s.stackUp n = true) (hdue : s.intervalDue n ch = true) :
    retrainDue n (some ch) s = s.setStack n ((s.stack n).dueFor ch 1 s.time) := by
  unfold retrainDue
  rw [if_neg (not_not_intro hup)]
  exact if_pos hdue

theorem retrainDue_early (hearly : s.intervalDue n ch = false) : retrainDue n (some ch) s = s := by
  unfold retrainDue
  split
  · rfl
  · exact if_neg (Bool.eq_false_iff.1 hearly)

theorem retrainDue_drift (hup : s.stackUp n = true) (hdrift : s.driftDue n = true) : retrainDue n none s = allDue n 2 s := by
  unfold retrainDue
  rw [if_neg (not_not_intro hup)]
  exact if_pos hdrift

variable {x : DueChannel} (hdue : ((s.stack n).due.find? fun e => decide (e.channel = ch)) = some x) (hup : s.stackUp n = true)
include hdue hup

/-- A vote window defers the slot of a channel that is due. -/
theorem trainingSlot_deferred (hvote : s.voteWindow = true) (ok : Bool) (shift temp : Int) : trainingSlot n ch ok shift temp s = deferSlot s := by
  unfold trainingSlot
  rw [hdue]
  dsimp only
  rw [if_neg (not_not_intro hup), if_pos hvote]

/-- Elsewhere it runs: the slot is counted, takes its time of the stack, and ends a pre-emption; then the training ends well or badly. -/
theorem trainingSlot_runs (hquiet : s.voteWindow = false) (hruns : s.slotRuns 1 = true) (ok : Bool) (shift temp : Int) :
    trainingSlot n ch ok shift temp s =
      let t := endPreempt (count (aHbmc n 0x30) 1 (useStack n trainNs (stackTemp n temp s)))
      if ok then trainedOk n ch x.reason shift temp t else trainedBad n ch t := by
  unfold trainingSlot
  rw [hdue]
  dsimp only
  rw [if_neg (not_not_intro hup), if_neg (Bool.eq_false_iff.1 hquiet), if_neg (not_not_intro hruns)]

end

/-! ### What recording leaves alone -/

section
variable {k : List Nat} {s t : State} (h : Recorded k s t)
include h

theorem Recorded.flash : t.flash = s.flash := by
  obtain ⟨r, a, c, o, e⟩ := h.frame
  rw [e]

theorem Recorded.mem : t.mem = s.mem := by
  obtain ⟨r, a, c, o, e⟩ := h.frame
  rw [e]

theorem Recorded.stack (n : Nat) : t.stack n = s.stack n := by
  obtain ⟨r, a, c, o, e⟩ := h.frame
  rw [e, State.stack, State.stack]

end

/-! ### Row repair (R282) -/

section
variable {s : State} {n : Nat} {row : RowAddr} {w : Bool} {left : Nat}

theorem rowRepair_undue (hw : w = false) (hdue : s.rowDue n row = false) : rowRepair n row w left s = s := by
  have undue : ¬ (w || s.rowDue n row) = true := by rw [hw, hdue]; exact Bool.false_ne_true
  exact if_pos (.inl undue)

variable (hdue : w = true ∨ s.rowDue n row = true) (hup : s.stackUp n = true) (hidle : (s.stack n).repairing = none)
  (hquiet : s.voteWindow = false) (hon : s.regBit (aMrgn 0) 0 = true)
include hdue hup hidle hquiet hon

/-- A repair that is due and may run is held back where the share is used up, and else takes its slot. -/
theorem rowRepair_due :
    rowRepair n row w left s =
      if s.stackFits n repairNs then
        useStack n repairNs (s.setStack n { s.stack n with
          repairing := some (row, if w || (s.stack n).erring.any (fun e => decide (e.row = row) && e.ue) then 2 else 1, left) })
      else noteLimited s := by
  have runs : ¬ (¬ (w || s.rowDue n row) = true ∨ ¬ s.stackUp n = true ∨ (s.stack n).repairing.isSome = true) := by
    rintro (hearly | hdown | hbusy)
    · exact hearly (Bool.or_eq_true _ _ ▸ hdue)
    · exact hdown hup
    · rw [hidle] at hbusy
      cases hbusy
  unfold rowRepair
  dsimp only
  rw [if_neg runs, if_neg (Bool.eq_false_iff.1 hquiet), if_neg (not_not_intro hon), ite_not]

end

/-- A stack whose row has been spared: it repairs no row, and the row errs no more. -/
def Stack.spared (k : Stack) (row : RowAddr) : Stack :=
  { k with repairing := none, erring := k.erring.filter fun e => decide (e.row ≠ row) }

/-- A repair that is logged in flash. -/
def logRow (item : RowRepair) (s : State) : State := { s with flash := { s.flash with rows := s.flash.rows ++ [item] } }

section
variable (item : RowRepair) (s : State)

@[simp] theorem logRow_hbm : (logRow item s).hbm = s.hbm := rfl

@[simp] theorem logRow_mem : (logRow item s).mem = s.mem := rfl

@[simp] theorem logRow_regs : (logRow item s).regs = s.regs := rfl

@[simp] theorem logRow_flash : (logRow item s).flash = { s.flash with rows := s.flash.rows ++ [item] } := rfl

theorem logRow_stack (n : Nat) : (logRow item s).stack n = s.stack n := by unfold State.stack; rw [logRow_hbm]

theorem logRow_reg (a : Nat) : (logRow item s).reg a = s.reg a := by unfold State.reg; rw [logRow_regs]

theorem logRow_regsWf : (logRow item s).regsWf = s.regsWf := by unfold State.regsWf; rw [logRow_regs]

end

section
variable (s : State) (n : Nat) (k : Stack)

theorem setStack_regsWf : (s.setStack n k).regsWf = s.regsWf := by unfold State.regsWf; rw [State.setStack_regs]

theorem setStack_regField (a hi lo : Nat) : (s.setStack n k).regField a hi lo = s.regField a hi lo := by
  unfold State.regField State.reg
  rw [State.setStack_regs]

end

theorem stack_setReg (s : State) (a : Nat) (v : Word) (n : Nat) : (s.setReg a v).stack n = s.stack n := by
  unfold State.stack
  rw [State.setReg_hbm]

/-- The state in which a row has been spared, with the repair counted and logged. -/
def rowFreed (n : Nat) (row : RowAddr) (item : RowRepair) (s : State) : State :=
  logRow item ((s.setStack n ((s.stack n).spared row)).setReg (aHbmc n 0x28)
    (BitVec.ofNat 32 (min 65535 ((s.setStack n ((s.stack n).spared row)).regField (aHbmc n 0x28) 15 0 + 1))))

theorem rowSpared_of {s : State} {n : Nat} {row : RowAddr} {trigger : Byte} {left : Nat} (h : (s.stack n).repairing = some (row, trigger, left)) :
    rowSpared n s =
      let item : RowRepair := { stack := n, row := row, hard := false, trigger := trigger, left := BitVec.ofNat 8 (min 255 left) }
      rowEvent item 1 (rowFreed n row item s) := by
  unfold rowSpared rowFreed logRow Stack.spared
  dsimp only
  rw [h]

section
variable {s : State} (n : Nat) (row : RowAddr) (item : RowRepair)

theorem rowFreed_idle (h : s.keysRise = true) : ((rowFreed n row item s).stack n).repairing = none := by
  rw [rowFreed, logRow_stack, stack_setReg, State.stack_setStack h, if_pos rfl, Stack.spared]

theorem rowFreed_flash : (rowFreed n row item s).flash = { s.flash with rows := s.flash.rows ++ [item] } := by
  rw [rowFreed, logRow_flash, State.setReg_flash, State.setStack_flash]

theorem rowFreed_mem : (rowFreed n row item s).mem = s.mem := by
  rw [rowFreed, logRow_mem, State.setReg_mem, State.setStack_mem]

variable (h : s.regsWf = true)
include h

theorem rowFreed_regsWf : (rowFreed n row item s).regsWf = true := by
  rw [rowFreed, logRow_regsWf]
  exact State.regsWf_setReg ((setStack_regsWf ..).trans h) _ _

/-- HBMC_ROWS_REPAIRED counts the repair, as far as it can. -/
theorem rowFreed_done :
    (rowFreed n row item s).reg (aHbmc n 0x28) = BitVec.ofNat 32 (min 65535 (s.regField (aHbmc n 0x28) 15 0 + 1)) := by
  rw [rowFreed, logRow_reg, State.reg_setReg ((setStack_regsWf ..).trans h), if_pos rfl, setStack_regField]

end

/-- Its event only records. -/
theorem rowEvent_rec (r : RowRepair) (kind : Nat) (s : State) : Rec [] s (rowEvent r kind s) := rec_raiseDev _ _ _ _ (.refl _ s)

/-- HBMC_ROWS_REPAIRED is no counter that recording moves. -/
theorem recordReg_rowsDone (n : Fin 12) : recordReg (aHbmc n 0x28) = false := by
  revert n
  decide

/-- The end of a repair: the stack is free, the repair logged and counted. -/
theorem rowSpared_effect {s : State} {n : Fin 12} {row : RowAddr} {trigger : Byte} {left : Nat} (hkeys : s.keysRise = true)
    (h : (s.stack n).repairing = some (row, trigger, left)) :
    let item : RowRepair := { stack := n, row := row, hard := false, trigger := trigger, left := BitVec.ofNat 8 (min 255 left) }
    ((rowSpared n s).stack n).repairing = none ∧ (rowSpared n s).flash = { s.flash with rows := s.flash.rows ++ [item] } ∧
      (rowSpared n s).mem = s.mem ∧
      (s.regsWf = true → (rowSpared n s).reg (aHbmc n 0x28) = BitVec.ofNat 32 (min 65535 (s.regField (aHbmc n 0x28) 15 0 + 1))) := by
  intro item
  have recorded := (rowEvent_rec item 1 (rowFreed n row item s)).1
  have ends : rowSpared n s = rowEvent item 1 (rowFreed n row item s) := rowSpared_of h
  rw [ends, recorded.stack, recorded.flash, recorded.mem]
  refine ⟨rowFreed_idle _ row item hkeys, rowFreed_flash _ row item, rowFreed_mem _ row item, fun hwf => ?_⟩
  rw [recorded.regs (rowFreed_regsWf _ row item hwf) _ (recordReg_rowsDone n) List.not_mem_nil, rowFreed_done _ row item hwf]

/-! ### Frame retirement (R283, R284) -/

section
variable {s : State} {n : Nat} {frame : BitVec 19} {w : Bool} (hstack : frame.toNat / 2 ^ 15 = n) (hframe : s.frameOk frame.toNat = true)
  (hup : s.stackUp n = true) (hidle : (s.stack n).move = none)
  (hhere : (s.flash.redirects.any fun r => decide (r.frame = frame)) = false)
  (hcause : if w then s.frameSpent n frame.toNat = true else 2 ≤ NMap.get (fun _ => 0) (s.stack n).ueFrames frame.toNat)
include hstack hframe hup hidle hhere hcause

/-- A frame in service that has reason to be retired. -/
theorem retirable_of :
    ¬ (frame.toNat / 2 ^ 15 ≠ n ∨ ¬ s.frameOk frame.toNat = true ∨ ¬ s.stackUp n = true ∨ (s.stack n).move.isSome = true ∨
      (s.flash.redirects.any fun r => decide (r.frame = frame)) = true ∨
      ¬ (if w then s.frameSpent n frame.toNat else decide (2 ≤ NMap.get (fun _ => 0) (s.stack n).ueFrames frame.toNat)) = true) := by
  rintro (hother | hnone | hdown | hmoving | hmoved | hnoCause)
  · exact hother hstack
  · exact hnone hframe
  · exact hdown hup
  · rw [hidle] at hmoving
    cases hmoving
  · exact Bool.eq_false_iff.1 hhere hmoved
  · refine hnoCause ?_
    cases w with
    | true => exact hcause
    | false => exact decide_eq_true hcause

/-- It starts to move to the stack's first free spare. -/
theorem frameRetire_moves {i : Nat} (hfree : s.freeFrame n = some i) :
    frameRetire n frame w s =
      s.setStack n { s.stack n with move := some { frame := frame, spare := BitVec.ofNat 3 i, trigger := BitVec.ofNat 8 (if w then 1 else 2) } } := by
  unfold frameRetire
  dsimp only
  rw [if_neg (retirable_of hstack hframe hup hidle hhere hcause), hfree]

/-- Without one it stays, and the module is flagged. -/
theorem frameRetire_stays (hfree : s.freeFrame n = none) :
    frameRetire n frame w s = setHealth 0x9 (pageRetired n frame.toNat 0xFFFFFFFF (if w then 1 else 2) 0 0
      (s.setStack n { s.stack n with ueFrames := NMap.erase (s.stack n).ueFrames frame.toNat })) := by
  unfold frameRetire
  dsimp only
  rw [if_neg (retirable_of hstack hframe hup hidle hhere hcause), hfree]

end

/-! ### The copy of a frame (R284) -/

/-- Noting uncorrectable reads moves the stacks' records, counters, and what recording moves. -/
theorem noteUe_frame (dpa : Nat) (s : State) :
    ∃ r a c o h, noteUe dpa s = { s with regs := r, audit := a, ctxs := c, outputs := o, hbm := h } := by
  obtain ⟨r, a, c, o, e⟩ := (rec_count (s := s) (aHbmc (dpa / 2 ^ 36) 0x18) 1 (.inl List.mem_cons_self)
    (.inl (List.mem_cons_of_mem _ List.mem_cons_self)) (.refl [aHbmc (dpa / 2 ^ 36) 0x18, aHbmc (dpa / 2 ^ 36) 0x18 + 4] s)).1.frame
  unfold noteUe
  dsimp only
  rw [e]
  exact ⟨_, a, c, o, _, rfl⟩

theorem noteUes_frame (bs : List Nat) (s : State) :
    ∃ r a c o h, noteUes bs s = { s with regs := r, audit := a, ctxs := c, outputs := o, hbm := h } := by
  unfold noteUes
  induction bs generalizing s with
  | nil => exact ⟨_, _, _, _, _, rfl⟩
  | cons b bs ih =>
    obtain ⟨r, a, c, o, h, e⟩ := noteUe_frame (b * 32) s
    obtain ⟨r', a', c', o', h', e'⟩ := ih (noteUe (b * 32) s)
    refine ⟨r', a', c', o', h', ?_⟩
    rw [List.foldl_cons, e', e]

/-- A frame whose bytes stand in its spare: the slot is used, and what it read uncorrectable is noted. -/
def frameCopied (n : Nat) (m : Move) (filled : List Nat) (s : State) : State :=
  useStack n copyNs (noteUes ((filled.filter fun i => decide (i < 65536)).map fun i => m.frame.toNat * 2 ^ 16 + i)
    (copyFrame m.frame.toNat (s.spareBase n + m.spare.toNat) filled s))

/-- A frame whose redirect is installed: the move is over. -/
def frameMoved (n : Nat) (m : Move) (s : State) : State :=
  let item : Redirect := { stack := n, frame := m.frame, spare := m.spare }
  let saved := { s with flash := { s.flash with redirects := s.flash.redirects ++ [item] } }
  let k := saved.stack n
  saved.setStack n { k with move := none, retired := k.retired + 1, ueFrames := NMap.erase k.ueFrames m.frame.toNat }

theorem frameCopied_flash (n : Nat) (m : Move) (filled : List Nat) (s : State) : (frameCopied n m filled s).flash = s.flash := by
  obtain ⟨r, a, c, o, h, e⟩ := noteUes_frame ((filled.filter fun i => decide (i < 65536)).map fun i => m.frame.toNat * 2 ^ 16 + i)
    (copyFrame m.frame.toNat (s.spareBase n + m.spare.toNat) filled s)
  unfold frameCopied
  rw [e]
  rfl

theorem frameCopied_mem (n : Nat) (m : Move) (filled : List Nat) (s : State) :
    (frameCopied n m filled s).mem = (copyFrame m.frame.toNat (s.spareBase n + m.spare.toNat) filled s).mem := by
  obtain ⟨r, a, c, o, h, e⟩ := noteUes_frame ((filled.filter fun i => decide (i < 65536)).map fun i => m.frame.toNat * 2 ^ 16 + i)
    (copyFrame m.frame.toNat (s.spareBase n + m.spare.toNat) filled s)
  unfold frameCopied
  rw [e]
  rfl

theorem frameCopied_keeps (n : Nat) (m : Move) (filled : List Nat) (s : State) : Keeps true s (frameCopied n m filled s) :=
  useStack_keeps _ _ (noteUes_keeps _ (copyFrame_keeps _ _ _ (.refl true s)))

theorem frameMoved_flash (n : Nat) (m : Move) (s : State) : (frameMoved n m s).flash =
    { s.flash with redirects := s.flash.redirects ++ [{ stack := n, frame := m.frame, spare := m.spare }] } := rfl

theorem frameMoved_mem (n : Nat) (m : Move) (s : State) : (frameMoved n m s).mem = s.mem := rfl

theorem frameMoved_idle {s : State} (h : s.keysRise = true) (n : Nat) (m : Move) : ((frameMoved n m s).stack n).move = none := by
  let item : Redirect := { stack := n, frame := m.frame, spare := m.spare }
  have rise : State.keysRise { s with flash := { s.flash with redirects := s.flash.redirects ++ [item] } } = true := h
  unfold frameMoved
  dsimp only
  rw [State.stack_setStack rise, if_pos rfl]

section
variable {s : State} {n : Nat} {m : Move} (hmove : (s.stack n).move = some m) (hup : s.stackUp n = true) (hquiet : s.voteWindow = false)
  (hon : s.regBit (aMrgn 0) 0 = true) (filled : List Nat) (us : Word)
include hmove hup hquiet hon

/-- A copy that fits the share ends the move, and an event says so. -/
theorem frameCopyDone_fits (hfits : s.stackFits n copyNs = true) :
    frameCopyDone n filled us s =
      pageRetired n m.frame.toNat (s.spareBase n + m.spare.toNat) m.trigger.toNat (filled.filter fun i => decide (i < 65536)).length us.toNat
        (frameMoved n m (frameCopied n m filled s)) := by
  unfold frameCopyDone frameMoved frameCopied
  dsimp only
  rw [hmove]
  dsimp only
  rw [if_neg (not_not_intro hup), if_neg (Bool.eq_false_iff.1 hquiet), if_neg (not_not_intro hon), if_neg (not_not_intro hfits)]

/-- One that does not fit is held back. -/
theorem frameCopyDone_limited (hfull : s.stackFits n copyNs = false) : frameCopyDone n filled us s = noteLimited s := by
  unfold frameCopyDone
  dsimp only
  rw [hmove]
  dsimp only
  rw [if_neg (not_not_intro hup), if_neg (Bool.eq_false_iff.1 hquiet), if_neg (not_not_intro hon), if_pos (Bool.eq_false_iff.1 hfull)]

end

theorem pageRetired_rec (n frame spare trigger filled us : Nat) (s : State) : Rec [] s (pageRetired n frame spare trigger filled us s) :=
  rec_raiseDev _ _ _ _ (.refl _ s)

/-- The end of a copy: the redirect is saved, the frame stands in its spare, and the move is over. -/
theorem frameCopyDone_effect {s : State} {n : Nat} {m : Move} (hmove : (s.stack n).move = some m) (hup : s.stackUp n = true)
    (hquiet : s.voteWindow = false) (hon : s.regBit (aMrgn 0) 0 = true) (hfits : s.stackFits n copyNs = true) (filled : List Nat) (us : Word) :
    let t := frameCopyDone n filled us s
    t.flash = { s.flash with redirects := s.flash.redirects ++ [{ stack := n, frame := m.frame, spare := m.spare }] } ∧
      t.mem = (copyFrame m.frame.toNat (s.spareBase n + m.spare.toNat) filled s).mem ∧ (s.keysRise = true → (t.stack n).move = none) := by
  intro t
  have recorded := (pageRetired_rec n m.frame.toNat (s.spareBase n + m.spare.toNat) m.trigger.toNat
    (filled.filter fun i => decide (i < 65536)).length us.toNat (frameMoved n m (frameCopied n m filled s))).1
  rw [← frameCopyDone_fits hmove hup hquiet hon filled us hfits] at recorded
  refine ⟨?_, ?_, fun hkeys => ?_⟩
  · rw [recorded.flash, frameMoved_flash, frameCopied_flash]
  · rw [recorded.mem, frameMoved_mem, frameCopied_mem]
  · rw [recorded.stack]
    exact frameMoved_idle ((frameCopied_keeps n m filled s).keys hkeys) n m

/-! ### Recalibration, deadlines, heat (R262, R285, R289) -/

theorem recalibrate_runs {s : State} (hdue : s.recalDue 0 = true) (hquiet : s.voteWindow = false) (hruns : s.slotRuns 4 = true) :
    recalibrate s = endPreempt { s with mrgnRecal := some s.time } := by
  unfold recalibrate
  rw [if_neg (not_not_intro hdue), if_neg (Bool.eq_false_iff.1 hquiet), if_neg (not_not_intro hruns)]

/-- Outside a vote window a deferred activity pre-empts traffic: it is counted, stamped, shown and recorded. -/
theorem deadlineExpire_late {s : State} {a : Nat} (hquiet : s.voteWindow = false) (hlate : s.activityLate a = true) (party : Dword) :
    deadlineExpire a party s = auditHw (mkEntry 5 5 0 3 (BitVec.ofNat 64 (6 * 2 ^ 56)) party (BitVec.ofNat 64 (0x0406 * 2 ^ 48 + a)))
      (((count (aMrgn 0x20) 1 s).setReg64 (aMrgn 0x40) s.time).setRegBit (aMrgn 0x18) 1 true) := by
  unfold deadlineExpire
  rw [if_neg (by simp [hquiet, hlate])]

/-! ### The commands -/

/-- Settles O51: each activity by whether it is due, by the vote window, and by its share. -/
theorem hbmUpkeep : Obligations.HbmUpkeep := by
  intro s n ch shift temp row left frame filled us party w k up quiet due read f done retirable mayRepair
  refine ⟨fun hup h => congrArg Host.Outcome.next (retrainDue_interval hup h), fun hup h => congrArg Host.Outcome.next (retrainDue_drift hup h),
    fun h => congrArg Host.Outcome.next (retrainDue_early h),
    fun x hdue hup hvote => congrArg Host.Outcome.next (trainingSlot_deferred hdue hup hvote w shift temp),
    fun x hdue hup hquiet hruns => ⟨congrArg Host.Outcome.next (trainingSlot_runs hdue hup hquiet hruns true shift temp),
      congrArg Host.Outcome.next (trainingSlot_runs hdue hup hquiet hruns false shift temp)⟩,
    fun ⟨hdue, hup, hidle⟩ hquiet hon hfits => ⟨_, rfl, congrArg Host.Outcome.next ?repairs⟩,
    fun ⟨hdue, hup, hidle⟩ hquiet hon hfull => congrArg Host.Outcome.next ?repairLimited,
    fun hw hdue => congrArg Host.Outcome.next (rowRepair_undue hw hdue),
    fun trigger hkeys h => ⟨_, rfl, rowSpared_effect hkeys h⟩,
    fun i ⟨hstack, hframe, hup, hidle, hhere, hcause⟩ hfree => congrArg Host.Outcome.next ?moves,
    fun ⟨hstack, hframe, hup, hidle, hhere, hcause⟩ hfree => congrArg Host.Outcome.next (frameRetire_stays hstack hframe hup hidle hhere hcause hfree),
    fun m hmove hup hquiet hon hfits => ?copied,
    fun m hmove hup hquiet hon hfull => congrArg Host.Outcome.next (frameCopyDone_limited hmove hup hquiet hon filled us hfull),
    fun hdue hquiet hruns => congrArg Host.Outcome.next (recalibrate_runs hdue hquiet hruns), fun a b held => rfl,
    fun act hquiet hlate => congrArg Host.Outcome.next (deadlineExpire_late hquiet hlate party), fun hkeys => ?hot⟩
  case repairs =>
    rw [rowRepair_due hdue hup hidle hquiet hon, if_pos hfits, apply_ite (BitVec.ofNat 8)]
    rfl
  case repairLimited => rw [rowRepair_due hdue hup hidle hquiet hon, if_neg (Bool.eq_false_iff.1 hfull)]
  case moves =>
    rw [frameRetire_moves hstack hframe hup hidle hhere hcause hfree, apply_ite (BitVec.ofNat 8)]
    rfl
  case copied =>
    obtain ⟨hflash, hmem, hidle⟩ := frameCopyDone_effect hmove hup hquiet hon hfits filled us
    exact ⟨_, rfl, hflash, hmem, fun hkeys _ => hidle hkeys⟩
  case hot =>
    have hot : (stackTemp n temp s).stack n = { s.stack n with temp := temp, hot := decide (85 < temp) } :=
      (State.stack_setStack hkeys ..).trans (if_pos rfl)
    exact ⟨_, rfl, by rw [hot], by rw [hot, decide_eq_true_iff], rfl⟩

end Sys2Proof.Machine
end

section
/-! PROOFS. The transport header (R303 to R305): its twelve words read back, and one that keeps the rules passes its checks. -/

namespace Sys2Proof.Machine

/-! ### Fields in network order (R7) -/

@[simp] theorem beBytes_length (n v : Nat) : (beBytes n v).length = n := by
  rw [beBytes, List.length_reverse, leBytes_length]

/-- A byte string in network order is its reverse in little-endian order. -/
theorem beNat_reverse (bs : Bytes) : beNat bs.reverse = leNat bs := by
  induction bs with
  | nil => rfl
  | cons b t ih =>
    rw [beNat] at ih
    rw [beNat, List.reverse_cons, List.foldl_append, ih, leNat, List.foldl_cons, List.foldl_nil]
    omega

/-- A number's bytes in network order hold it, as far as they go. -/
theorem beNat_beBytes (n v : Nat) : beNat (beBytes n v) = v % 256 ^ n := by
  rw [beBytes, beNat_reverse, leNat_leBytes]

/-- The bytes of a list of words, each in network byte order. -/
def wordBytes (ws : List Nat) : Bytes := ws.flatMap fun w => beBytes 4 w

theorem wordBytes_cons (w : Nat) (ws : List Nat) : wordBytes (w :: ws) = beBytes 4 w ++ wordBytes ws := List.flatMap_cons

theorem wordBytes_append (ws xs : List Nat) : wordBytes (ws ++ xs) = wordBytes ws ++ wordBytes xs := List.flatMap_append

theorem wordBytes_length (ws : List Nat) : (wordBytes ws).length = 4 * ws.length := by
  induction ws with
  | nil => rfl
  | cons w ws ih =>
    rw [wordBytes_cons, List.length_append, beBytes_length, ih, List.length_cons]
    omega

/-- A field that lies behind the first word lies in the words that follow it. -/
theorem fieldBe_wordBytes_cons (w : Nat) (ws : List Nat) (o n : Nat) : fieldBe (wordBytes (w :: ws)) (4 + o) n = fieldBe (wordBytes ws) o n := by
  rw [fieldBe, wordBytes_cons, List.drop_append, beBytes_length, List.drop_eq_nil_of_le (by simp), List.nil_append, Nat.add_sub_cancel_left, fieldBe]

/-- The words are the fields of four bytes. -/
theorem fieldBe_wordBytes {ws : List Nat} {i w : Nat} (h : ws[i]? = some w) (hw : w < 2 ^ 32) : fieldBe (wordBytes ws) (4 * i) 4 = w := by
  induction i generalizing ws with
  | zero =>
    cases ws with
    | nil => cases h
    | cons x ws =>
      obtain rfl : x = w := Option.some.inj h
      rw [fieldBe, wordBytes_cons, Nat.mul_zero, List.drop_zero, List.take_left' (beBytes_length 4 x), beNat_beBytes]
      exact Nat.mod_eq_of_lt hw
  | succ i ih =>
    cases ws with
    | nil => cases h
    | cons x ws => rw [Nat.mul_succ, Nat.add_comm, fieldBe_wordBytes_cons, ih h]

/-- The last byte of a word holds its low eight bits. -/
theorem fieldBe_wordBytes_last {ws : List Nat} {i w : Nat} (h : ws[i]? = some w) : fieldBe (wordBytes ws) (4 * i + 3) 1 = w % 256 := by
  induction i generalizing ws with
  | zero =>
    cases ws with
    | nil => cases h
    | cons x ws =>
      obtain rfl : x = w := Option.some.inj h
      change beNat [BitVec.ofNat 8 x] = x % 256
      rw [beNat, List.foldl_cons, List.foldl_nil, BitVec.toNat_ofNat, Nat.zero_mul, Nat.zero_add]
  | succ i ih =>
    cases ws with
    | nil => cases h
    | cons x ws => rw [Nat.mul_succ, Nat.add_comm (4 * i) 4, Nat.add_assoc, fieldBe_wordBytes_cons, ih h]

/-! ### The words of a header (R303) -/

section
variable (p : Packet)

/-- Word 10: the virtual channel and the hops, which change on the way and which HCRC leaves out. -/
def Packet.hopWord : Nat := p.vc.toNat * 2 ^ 31 + p.hops.toNat

/-- A flag as the number that stands for it in its word. -/
theorem flagAt (x : Bool) (n : Nat) : (if x then n else 0) = x.toNat * n := by
  cases x with
  | false => exact (Nat.zero_mul n).symm
  | true => exact (Nat.one_mul n).symm

theorem Packet.flags_lt : p.epoch.toNat < 2 ∧ p.addrMode.toNat < 2 ∧ p.poison.toNat < 2 ∧ p.mc.toNat < 2 ∧ p.retx.toNat < 2 ∧
    p.last.toNat < 2 ∧ p.vc.toNat < 2 :=
  ⟨Bool.toNat_lt _, Bool.toNat_lt _, Bool.toNat_lt _, Bool.toNat_lt _, Bool.toNat_lt _, Bool.toNat_lt _, Bool.toNat_lt _⟩

/-- Words 0 to 9 as sums of their fields. -/
theorem Packet.words_eq : p.words =
    [ 2 ^ 28 + p.epoch.toNat * 2 ^ 27 + p.cls.toNat * 2 ^ 25 + p.addrMode.toNat * 2 ^ 24 + p.poison.toNat * 2 ^ 23 + p.mc.toNat * 2 ^ 22 + p.dst.toNat,
      p.op.toNat * 2 ^ 24 + p.src.toNat, p.job.toNat * 2 ^ 16 + p.counter.toNat, p.seq.toNat,
      p.retx.toNat * 2 ^ 25 + p.last.toNat * 2 ^ 24 + p.mcSpan.toNat * 2 ^ 16 + p.mcDim.toNat * 2 ^ 14 + p.payload.length % 2 ^ 14,
      p.target.toNat / 2 ^ 32, p.target.toNat % 2 ^ 32, p.info.toNat, p.altRank.toNat, 0 ] := by
  simp only [Packet.words, flagAt]

/-- A header is its ten words, the word of its hops, and HCRC over the ten. -/
theorem Packet.header_eq : p.header = wordBytes (p.words ++ [p.hopWord, crc32c (wordBytes p.words)]) := by
  rw [wordBytes_append, Packet.hopWord, ← flagAt, Packet.header]
  exact List.append_assoc ..

theorem Packet.header_length : p.header.length = 48 := by
  rw [Packet.header_eq, wordBytes_length]
  rfl

theorem Packet.header_take : p.header.take 40 = wordBytes p.words := by
  rw [Packet.header_eq, wordBytes_append]
  exact List.take_left' (wordBytes_length p.words)

/-- A word of the header reads back. -/
theorem Packet.fieldBe_header {i w : Nat} (h : (p.words ++ [p.hopWord, crc32c (wordBytes p.words)])[i]? = some w) (hw : w < 2 ^ 32) :
    fieldBe p.header (4 * i) 4 = w := by
  rw [Packet.header_eq]
  exact fieldBe_wordBytes h hw

theorem Packet.header_word0 : fieldBe p.header 0 4 =
    2 ^ 28 + p.epoch.toNat * 2 ^ 27 + p.cls.toNat * 2 ^ 25 + p.addrMode.toNat * 2 ^ 24 + p.poison.toNat * 2 ^ 23 + p.mc.toNat * 2 ^ 22 + p.dst.toNat := by
  have := p.flags_lt
  exact p.fieldBe_header (i := 0) (by rw [p.words_eq]; rfl) (by omega)

theorem Packet.header_word1 : fieldBe p.header 4 4 = p.op.toNat * 2 ^ 24 + p.src.toNat :=
  p.fieldBe_header (i := 1) rfl (by omega)

theorem Packet.header_word2 : fieldBe p.header 8 4 = p.job.toNat * 2 ^ 16 + p.counter.toNat :=
  p.fieldBe_header (i := 2) rfl (by omega)

theorem Packet.header_word3 : fieldBe p.header 12 4 = p.seq.toNat := p.fieldBe_header (i := 3) rfl p.seq.isLt

theorem Packet.header_word4 : fieldBe p.header 16 4 =
    p.retx.toNat * 2 ^ 25 + p.last.toNat * 2 ^ 24 + p.mcSpan.toNat * 2 ^ 16 + p.mcDim.toNat * 2 ^ 14 + p.payload.length % 2 ^ 14 := by
  have := p.flags_lt
  exact p.fieldBe_header (i := 4) (by rw [p.words_eq]; rfl) (by omega)

theorem Packet.header_word5 : fieldBe p.header 20 4 = p.target.toNat / 2 ^ 32 := p.fieldBe_header (i := 5) rfl (by omega)

theorem Packet.header_word6 : fieldBe p.header 24 4 = p.target.toNat % 2 ^ 32 := p.fieldBe_header (i := 6) rfl (by omega)

theorem Packet.header_word7 : fieldBe p.header 28 4 = p.info.toNat := p.fieldBe_header (i := 7) rfl p.info.isLt

theorem Packet.header_word8 : fieldBe p.header 32 4 = p.altRank.toNat := p.fieldBe_header (i := 8) rfl (by omega)

theorem Packet.header_word9 : fieldBe p.header 36 4 = 0 := p.fieldBe_header (i := 9) rfl (by decide)

theorem Packet.hopWord_lt : p.hopWord < 2 ^ 32 := by
  have := p.flags_lt
  rw [Packet.hopWord]
  omega

theorem Packet.header_word10 : fieldBe p.header 40 4 = p.hopWord := p.fieldBe_header (i := 10) rfl p.hopWord_lt

/-- Word 11 is HCRC (R303). -/
theorem Packet.header_crc : fieldBe p.header 44 4 = crc32c (p.header.take 40) := by
  rw [p.header_take]
  exact p.fieldBe_header (i := 11) rfl (crc32c_lt _)

theorem Packet.header_hops : fieldBe p.header 43 1 = p.hops.toNat := by
  have last : fieldBe p.header 43 1 = p.hopWord % 256 := by
    rw [p.header_eq]
    exact fieldBe_wordBytes_last (i := 10) rfl
  rw [last, Packet.hopWord]
  omega

/-! ### Reading a header back -/

/-- A bit of a number is the flag that stands there. -/
theorem testBit_of_div_mod {n i : Nat} {x : Bool} (h : n / 2 ^ i % 2 = x.toNat) : n.testBit i = x := by
  rw [Nat.testBit_eq_decide_div_mod_eq, h]
  cases x with
  | false => rfl
  | true => rfl

/-- A field of `w` bits is the number's value below `2 ^ w`. -/
theorem ofNat_of_mod {w n : Nat} {x : BitVec w} (h : n % 2 ^ w = x.toNat) : BitVec.ofNat w n = x :=
  BitVec.eq_of_toNat_eq ((BitVec.toNat_ofNat n w).trans h)

/-- A header and the payload are the packet. -/
theorem Packet.ofBytes_header : Packet.ofBytes p.header p.payload = p := by
  have := p.flags_lt
  simp only [Packet.ofBytes, Nat.reduceMul, p.header_word0, p.header_word1, p.header_word2, p.header_word3, p.header_word4, p.header_word5,
    p.header_word6, p.header_word7, p.header_word8, p.header_word10, Packet.hopWord]
  refine (Packet.mk.injEq ..).mpr ⟨testBit_of_div_mod (by omega), ofNat_of_mod (by omega), testBit_of_div_mod (by omega),
    testBit_of_div_mod (by omega), testBit_of_div_mod (by omega), ofNat_of_mod (by omega), ofNat_of_mod (by omega), ofNat_of_mod (by omega),
    ofNat_of_mod (by omega), ofNat_of_mod (by omega), ofNat_of_mod (by omega), testBit_of_div_mod (by omega), testBit_of_div_mod (by omega),
    ofNat_of_mod (by omega), ofNat_of_mod (by omega), ofNat_of_mod (by omega), ofNat_of_mod (by omega), ofNat_of_mod (by omega),
    testBit_of_div_mod (by omega), ofNat_of_mod (by omega), rfl⟩

/-! ### The checks on a header (R305) -/

theorem bitsN_eq (v hi lo : Nat) : bitsN v hi lo = v / 2 ^ lo % 2 ^ (hi + 1 - lo) := by
  rw [bitsN, Nat.shiftRight_eq_div_pow]

theorem Packet.header_version : fieldBe p.header 0 4 / 2 ^ 28 = 1 := by
  have := p.flags_lt
  rw [p.header_word0]
  omega

/-- The reserved bits are 0. -/
theorem Packet.header_reserved : (fieldBe p.header 0 4).testBit 21 = false ∧ bitsN (fieldBe p.header 4 4) 23 21 = 0 ∧
    bitsN (fieldBe p.header 16 4) 31 26 = 0 ∧ bitsN (fieldBe p.header 16 4) 23 22 = 0 ∧ fieldBe p.header 32 4 / 2 ^ 21 = 0 ∧
    bitsN (fieldBe p.header 40 4) 30 8 = 0 := by
  have := p.flags_lt
  simp only [p.header_word0, p.header_word1, p.header_word4, p.header_word8, p.header_word10, Packet.hopWord, bitsN_eq]
  exact ⟨testBit_of_div_mod (by rw [Bool.toNat_false]; omega), by omega, by omega, by omega, by omega, by omega⟩

theorem Packet.header_addrMode : (fieldBe p.header 0 4).testBit 24 = p.addrMode := by
  have := p.flags_lt
  rw [p.header_word0]
  exact testBit_of_div_mod (by omega)

theorem Packet.header_mc : (fieldBe p.header 0 4).testBit 22 = p.mc := by
  have := p.flags_lt
  rw [p.header_word0]
  exact testBit_of_div_mod (by omega)

theorem Packet.header_cls : bitsN (fieldBe p.header 0 4) 26 25 = p.cls.toNat := by
  have := p.flags_lt
  rw [p.header_word0, bitsN_eq]
  omega

theorem Packet.header_op : fieldBe p.header 4 4 / 2 ^ 24 = p.op.toNat := by
  rw [p.header_word1]
  omega

theorem Packet.header_payloadLength : fieldBe p.header 16 4 % 2 ^ 14 = p.payload.length % 2 ^ 14 := by
  rw [p.header_word4]
  omega

theorem Packet.header_mcDim : bitsN (fieldBe p.header 16 4) 15 14 = p.mcDim.toNat := by
  rw [p.header_word4, bitsN_eq]
  omega

/-- MC_SPAN and MC_DIM stand side by side. -/
theorem Packet.header_mcFields : bitsN (fieldBe p.header 16 4) 21 14 = p.mcSpan.toNat * 4 + p.mcDim.toNat := by
  rw [p.header_word4, bitsN_eq]
  omega

end

section
variable {p : Packet}

/-- The multicast fields keep the rule of R327: only COL and CTL packets are multicast, and the others leave the fields 0. -/
theorem header_mcGood (hone : p.mc = false → p.mcDim = 0 ∧ p.mcSpan = 0) (hmany : p.mc = true → p.mcDim ≠ 3 ∧ 2 ≤ p.cls.toNat) :
    (if (fieldBe p.header 0 4).testBit 22 then decide (bitsN (fieldBe p.header 16 4) 15 14 = 3) || decide (bitsN (fieldBe p.header 0 4) 26 25 < 2)
      else decide (bitsN (fieldBe p.header 16 4) 21 14 ≠ 0)) = false := by
  rw [p.header_mc, p.header_mcDim, p.header_cls, p.header_mcFields]
  cases hmc : p.mc with
  | false =>
    obtain ⟨hdim, hspan⟩ := hone hmc
    rw [hdim, hspan]
    rfl
  | true =>
    obtain ⟨hdim, hcls⟩ := hmany hmc
    have dim : p.mcDim.toNat ≠ 3 := fun e => hdim (BitVec.eq_of_toNat_eq e)
    rw [if_pos rfl, decide_eq_false dim, decide_eq_false (Nat.not_lt.2 hcls)]
    rfl

/-- A header that keeps the rules of R303, R304 and R327 sets no reserved bit, and its OP, class and LENGTH agree. -/
theorem headerBad_header (hop : opClass p.op.toNat = some p.cls.toNat) (hone : p.mc = false → p.mcDim = 0 ∧ p.mcSpan = 0)
    (hmany : p.mc = true → p.mcDim ≠ 3 ∧ 2 ≤ p.cls.toNat) (hrank : p.addrMode = false → p.altRank = 0) (hlen : p.payload.length ≤ 9600) :
    headerBad p.header p.payload = false := by
  obtain ⟨r0, r1, r4, r4', r8, r10⟩ := p.header_reserved
  have rank : (!p.addrMode && decide (fieldBe p.header 32 4 ≠ 0)) = false := by
    cases hmode : p.addrMode with
    | false =>
      rw [p.header_word8, hrank hmode]
      rfl
    | true => rfl
  have length : p.payload.length % 2 ^ 14 = p.payload.length := Nat.mod_eq_of_lt (by omega)
  refine Bool.or_eq_false_iff.2 ⟨?_, header_mcGood hone hmany⟩
  simp only [Nat.reduceMul, r0, r1, r4, r4', r8, r10, rank, p.header_word9, p.header_addrMode, p.header_op, p.header_cls, hop,
    p.header_payloadLength, length, Nat.not_lt.2 hlen, ne_eq, not_true_eq_false, decide_false, Bool.or_self]

end

/-- A packet that keeps the rules passes the checks. -/
theorem headerReason_header {s : State} {p : Packet} (hbad : headerBad p.header p.payload = false) (hhops : p.hops.toNat < s.hopLimit) :
    s.headerReason p.header p.payload = none := by
  rw [State.headerReason, if_neg (not_not_intro p.header_crc), hbad, if_neg Bool.false_ne_true, p.header_hops, if_neg (Nat.not_le.2 hhops)]

/-- Settles O54: the header's words read back, and each check of R305 looks at what its word holds. -/
theorem headerReadsBack : Obligations.HeaderReadsBack := by
  intro s p h
  exact ⟨p.header_length, p.ofBytes_header, p.header_version, p.header_crc,
    fun hop hone hmany hrank hlen hhops => headerReason_header (headerBad_header hop hone hmany hrank hlen) hhops⟩

end Sys2Proof.Machine
end

section
/-! PROOFS. The registers of the Fabric Engine (R310, R311, R314, R318, R329): the epoch, the exception table, the tables of addressing, the
ranks of contexts and the steps of TIME. -/

namespace Sys2Proof.Machine

/-! ### The Fabric Engine's registers -/

/-- A write to a register of the Fabric Engine. -/
def fabrWr (p : Path) (off k : Nat) (row : RegRow) (v : Word) : RegWr :=
  { path := p, loc := ⟨.fabr, 0, row, k⟩, addr := aFabr off, val := v.toNat, tok := none }

/-- A write to one that the engine does not refuse is stored, and acts. -/
theorem write_fabr {s : State} {p : Path} {off k : Nat} {row : RegRow} {v : Word} (hp : Placed (aFabr off) ⟨.fabr, 0, row, k⟩)
    (ht : s.Takes p (aFabr off) v) (hcfg : row.cfg = false) (hlock : row.lock = 0) (hr : fabrRefused (fabrWr p off k row v) s = false) :
    writeReg p (aFabr off) v s = fabrHook (fabrWr p off k row v) (s.stored p (aFabr off) v) :=
  write_stored ht hp (verdict_applied ht.origin hp.acts hcfg hlock hr rfl)

theorem stored_regsWf {s : State} (h : s.regsWf = true) (p : Path) (a : Nat) (v : Word) : (s.stored p a v).regsWf = true := by
  obtain ⟨x, hx⟩ := entered_frame s p a v.toNat false
  have entered : (s.entered p a v.toNat false).regsWf = true := by rw [hx]; exact h
  unfold State.stored
  dsimp only
  split
  · exact entered
  · exact (storeWr_keeps _ (.refl true _)).regs entered

theorem stored_fabric (s : State) (p : Path) (a : Nat) (v : Word) : (s.stored p a v).fabric = s.fabric := by
  obtain ⟨r, x, h⟩ := stored_frame s p a v
  rw [h]

/-- A bit that is set reads as set. -/
theorem regBit_setRegBit_true {s : State} (h : s.regsWf = true) (a : Nat) {i : Nat} (hi : i < 32) : (s.setRegBit a i true).regBit a i = true := by
  rw [State.regBit, State.reg_setRegBit h, if_pos rfl, if_pos rfl, BitVec.getLsbD_or, BitVec.getLsbD_shiftLeft]
  simp [hi]

/-! ### The exception table (R329) -/

/-- The entry that FABR_EXC_INDEX names, the two versions one behind the other. -/
def State.excKey (s : State) : Nat := (if s.regBit (aFabr 0x204) 16 then 65536 else 0) + s.regField (aFabr 0x204) 15 0

section
variable {w : RegWr} {s : State}

theorem excCmd_read (h0 : w.bit 0 = true) (h1 : w.bit 1 = false) :
    excCmd w s = putFabrData 0x210 2 (NMap.get (fun _ => 0) s.fabric.exc s.excKey).toNat s := by
  unfold excCmd
  simp only [h0, h1, Bool.false_eq_true, not_false_eq_true, if_true]
  rfl

section
variable (h0 : w.bit 0 = false) (h1 : w.bit 1 = true)
include h0 h1

/-- WRITE while the version is neither injected nor held is entered in the ledger and changes the entry. -/
theorem excCmd_write (hother : s.regBit (aFabr 0x200) 0 ≠ s.regBit (aFabr 0x204) 16) (hfree : s.epochHeld (s.regBit (aFabr 0x204) 16) = 0) :
    ∃ x, excCmd w s = { s with
      audit := x
      fabric := { s.fabric with exc := NMap.set (fun _ => 0) s.fabric.exc s.excKey (BitVec.ofNat 64 (s.fabrData 0x210 2)) } } := by
  have idle : (decide (s.regBit (aFabr 0x200) 0 = s.regBit (aFabr 0x204) 16) || decide (s.epochHeld (s.regBit (aFabr 0x204) 16) ≠ 0)) = false := by
    simp [hother, hfree]
  unfold excCmd
  simp only [h0, h1, idle, not_true_eq_false, Bool.false_eq_true, if_false]
  obtain ⟨x, hx⟩ := auditAppend_frame _ s
  rw [hx]
  exact ⟨x, rfl⟩

/-- Otherwise it is refused: entered, and REFUSED is set. -/
theorem excCmd_refused (hbusy : s.regBit (aFabr 0x200) 0 = s.regBit (aFabr 0x204) 16 ∨ s.epochHeld (s.regBit (aFabr 0x204) 16) ≠ 0) :
    ∃ x, excCmd w s = { s.setRegBit (aFabr 0x20C) 0 true with audit := x } := by
  have busy : (decide (s.regBit (aFabr 0x200) 0 = s.regBit (aFabr 0x204) 16) || decide (s.epochHeld (s.regBit (aFabr 0x204) 16) ≠ 0)) = true := by
    simpa using hbusy
  unfold excCmd
  simp only [h0, h1, busy, not_true_eq_false, Bool.false_eq_true, if_false, if_true]
  exact auditAppend_frame _ _

end

/-! ### The tables of addressing (R311) -/

variable {sel i n old : Nat}

theorem tblCmd_read (h : s.tblEntry = some (sel, i, n, old)) (h0 : w.bit 0 = true) (h1 : w.bit 1 = false) :
    tblCmd w s = putFabrData 0x20 n old s := by
  unfold tblCmd
  simp only [h, h0, h1, Bool.false_eq_true, not_false_eq_true, if_true]

section
variable (h0 : w.bit 0 = false) (h1 : w.bit 1 = true)
include h0 h1

/-- An uplink entry is the companion's to write. -/
theorem tblCmd_uplink (h : s.tblEntry = some (2, i, n, old)) :
    ∃ x, tblCmd w s = { s with
      audit := x
      fabric := { s.fabric with uplinks := NMap.set (fun _ => 0) s.fabric.uplinks i (BitVec.ofNat 256 (s.fabrData 0x20 n)) } } := by
  unfold tblCmd
  simp only [h, h0, h1, not_true_eq_false, Bool.false_eq_true, if_false, if_true]
  obtain ⟨x, hx⟩ := auditAppend_frame _ s
  rw [hx]
  exact ⟨x, rfl⟩

/-- The RTT and the job directory are not: the write is entered, and REFUSED is set. -/
theorem tblCmd_refused (h : s.tblEntry = some (sel, i, n, old)) (hsel : sel ≠ 2) :
    ∃ x, tblCmd w s = { s.setRegBit (aFabr 0x1C) 0 true with audit := x } := by
  unfold tblCmd
  simp only [h, h0, h1, hsel, not_true_eq_false, Bool.false_eq_true, if_false]
  exact auditAppend_frame _ _

end

end

/-! ### Writes of the commands -/

section
variable {w : RegWr} (s : State)

theorem hookRun_fabr (hb : w.loc.blk = .fabr) (s0 : State) : hookRun w s0 s = fabrHook w s := by
  unfold hookRun
  rw [hb]

theorem fabrHook_tbl (ho : w.off = 0x18) : fabrHook w s = tblCmd w s := by
  unfold fabrHook
  rw [ho]
  rfl

theorem fabrHook_time (ho : w.off = 0x48) : fabrHook w s = { s with time := s.time + BitVec.ofNat 64 w.val } := by
  unfold fabrHook
  rw [ho]
  rfl

theorem fabrHook_epoch (ho : w.off = 0x200) : fabrHook w s = setEpoch (w.bit 0) s := by
  unfold fabrHook
  rw [ho]
  rfl

theorem fabrHook_exc (ho : w.off = 0x208) : fabrHook w s = excCmd w s := by
  unfold fabrHook
  rw [ho]
  rfl

end

section
variable {s : State} {p : Path} {v : Word}

theorem write_fabrEpoch (ht : s.Takes p (aFabr 0x200) v) :
    writeReg p (aFabr 0x200) v s = setEpoch (v.getLsbD 0) (s.stored p (aFabr 0x200) v) :=
  (write_fabr placed_fabrEpoch ht rfl rfl rfl).trans (fabrHook_epoch _ rfl)

/-- A write of FABR_EXC_CMD or of FABR_TBL_CMD. -/
def fabrCmdWr (p : Path) (off : Nat) (v : Word) : RegWr := fabrWr p off 0 { off := off, w1s := 3 } v

theorem write_fabrExc (ht : s.Takes p (aFabr 0x208) v) :
    writeReg p (aFabr 0x208) v s = excCmd (fabrCmdWr p 0x208 v) (s.stored p (aFabr 0x208) v) :=
  (write_fabr placed_fabrExc ht rfl rfl rfl).trans (fabrHook_exc _ rfl)

theorem write_fabrTbl (ht : s.Takes p (aFabr 0x18) v) :
    writeReg p (aFabr 0x18) v s = tblCmd (fabrCmdWr p 0x18 v) (s.stored p (aFabr 0x18) v) :=
  (write_fabr placed_fabrTbl ht rfl rfl rfl).trans (fabrHook_tbl _ rfl)

end

/-- Bit 0 of a command reads the entry, bit 1 writes it. -/
theorem fabrCmdWr_read (p : Path) (off : Nat) : (fabrCmdWr p off 1).bit 0 = true ∧ (fabrCmdWr p off 1).bit 1 = false := by
  change (1 : Word).getLsbD 0 = true ∧ (1 : Word).getLsbD 1 = false
  decide

theorem fabrCmdWr_write (p : Path) (off : Nat) : (fabrCmdWr p off 2).bit 0 = false ∧ (fabrCmdWr p off 2).bit 1 = true := by
  change (2 : Word).getLsbD 0 = false ∧ (2 : Word).getLsbD 1 = true
  decide

/-! ### The ranks of contexts (R310) -/

/-- A refused write of a register of 32 bits: beside its count and its entry there is what its block leaves. -/
theorem write_refused_counted {s : State} {p : Path} {a : Nat} {v : Word} {l : RegLoc} (ht : s.Takes p a v) (hp : Placed a l)
    (hv : RegWr.verdict { path := p, loc := l, addr := a, val := v.toNat, tok := none } s = .refused) :
    ∃ x, writeReg p a v s =
      hookRefuse { path := p, loc := l, addr := a, val := v.toNat, tok := none } { countVerdict p .refused s with audit := x } := by
  obtain ⟨r, x, c, o, hs⟩ := (countVerdict_refused_rec p s).1.frame
  have lands := write_lands (writeReg_one ht hp.plain hp.low hp.aligned none _) hp.loc hp.one _ rfl
  have origin : (countVerdict p .refused s).originRefused p a v.toNat = false := by rw [hs]; exact ht.origin
  rw [hv] at lands
  obtain ⟨y, hy⟩ := landWrite_refused (w := { path := p, loc := l, addr := a, val := v.toNat, tok := none }) hp.noAck origin
  exact ⟨y, lands.trans hy⟩

/-- A write of FABR_CTX_RANK of a context. -/
def rankWr (p : Path) (c : Fin 64) (v : Word) : RegWr :=
  fabrWr p (0x100 + 4 * c) c { off := 0x100, count := 64, rw := 0x801FFFFF, cfg := true } v

section
variable {s : State} {p : Path} {c : Fin 64} {v : Word} (hidle : (s.ctx c).st.isActive = false)

/-- A rank is refused while another valid context of the job holds it and the context is valid. -/
theorem hookRefused_rank :
    hookRefused (rankWr p c v) s = (decide ((s.ctx c).st ≠ .invalid) && s.rankHeld c (s.regField (aCtx c 8) 15 0) v.toNat) := rfl

include hidle

/-- While the context is not active the engine alone decides on a write of its rank. -/
theorem verdict_rank (ho : s.originRefused p (aFabr (0x100 + 4 * c)) v.toNat = false) :
    (rankWr p c v).verdict s = if hookRefused (rankWr p c v) s then .refused else .applied := by
  have origin : s.originRefused (rankWr p c v).path (rankWr p c v).addr (rankWr p c v).val = false := ho
  have acts : (rankWr p c v).loc.row.readOnly = false := rfl
  have lock : (rankWr p c v).loc.row.lock = 0 := rfl
  have notShut : s.cfgShut (rankWr p c v).loc = false := hidle
  have bits : (rankWr p c v).changesLocked s = false := by simp [RegWr.changesLocked, lock]
  have noIgnore : hookIgnored (rankWr p c v) s = false := rfl
  simp [RegWr.verdict, origin, acts, notShut, lock, bits, noIgnore]

variable (ht : s.Takes p (aFabr (0x100 + 4 * c)) v)
include ht

theorem write_rank (h : (s.ctx c).st = .invalid ∨ s.rankHeld c (s.regField (aCtx c 8) 15 0) v.toNat = false) :
    writeReg p (aFabr (0x100 + 4 * c)) v s = s.stored p (aFabr (0x100 + 4 * c)) v := by
  have free : hookRefused (rankWr p c v) s = false := by
    rw [hookRefused_rank]
    rcases h with h | h <;> simp [h]
  refine (write_stored ht (placed_fabrRank c) ((verdict_rank hidle ht.origin).trans ?_)).trans rfl
  rw [free]
  rfl

theorem write_rank_refused (hvalid : (s.ctx c).st ≠ .invalid) (htaken : s.rankHeld c (s.regField (aCtx c 8) 15 0) v.toNat = true) :
    ∃ x, writeReg p (aFabr (0x100 + 4 * c)) v s = { countVerdict p .refused s with audit := x } := by
  have taken : hookRefused (rankWr p c v) s = true := by rw [hookRefused_rank, htaken, decide_eq_true hvalid]; rfl
  exact write_refused_counted ht (placed_fabrRank c) ((verdict_rank hidle ht.origin).trans (if_pos taken))

end

/-- No counter of refused writes is a rank. -/
theorem rank_notCounted (c : Fin 64) :
    recordReg (aFabr (0x100 + 4 * c)) = false ∧ aFabr (0x100 + 4 * c) ∉ [aGctl 0x50, aGctl 0x54, aTrpl 0x28, aTrpl 0x2C] := by
  revert c
  decide

/-! ### Steps of TIME (R314) -/

/-- A write of FABR_TIME_STEP, once its `_HI` comes. -/
def timeWr (p : Path) (step : Nat) : RegWr :=
  { path := p, loc := ⟨.fabr, 0, { off := 0x48, half := .lo, rw := allBits }, 0⟩, addr := aFabr 0x48, val := step, tok := none }

/-- The `_HI` of FABR_TIME_STEP lies behind its `_LO`. -/
theorem aFabr_timeStepHi : aFabr 0x4C = aFabr 0x48 + 4 := by decide

/-- A step is refused when it is a negative number. -/
theorem hookRefused_time (p : Path) (step : Nat) (s : State) : hookRefused (timeWr p step) s = decide (2 ^ 63 ≤ step) := rfl

section
variable {s : State} {p : Path} {v : Word} (ht : s.Takes p (aFabr 0x4C) v)
include ht

theorem originRefused_time (step : Nat) : s.originRefused p (aFabr 0x48) step = false :=
  (originRefused_congr (by decide) (by decide) _ _).trans ht.origin

/-- A forward step is stored as a pair, and moves TIME. -/
theorem write_timeStep (h : s.pairValue p (aFabr 0x48) (aFabr 0x48) v < 2 ^ 63) :
    writeReg p (aFabr 0x4C) v s =
      let step := s.pairValue p (aFabr 0x48) (aFabr 0x48) v
      let t := s.storedPair p (aFabr 0x48) step
      { t with time := t.time + BitVec.ofNat 64 step } := by
  have forward : hookRefused (timeWr p (s.pairValue p (aFabr 0x48) (aFabr 0x48) v)) s = false := by
    rw [hookRefused_time]
    exact decide_eq_false (Nat.not_le.2 h)
  have applied : (timeWr p (s.pairValue p (aFabr 0x48) (aFabr 0x48) v)).verdict s = .applied :=
    verdict_applied (originRefused_time ht _) rfl rfl rfl forward rfl
  rw [aFabr_timeStepHi] at ht ⊢
  exact (write_storedPair ht placed_timeStep applied).trans ((hookRun_fabr _ rfl _).trans (fabrHook_time _ rfl))

/-- A backward one is counted and entered, and sets STEP_REFUSED. -/
theorem write_timeStep_refused (h : 2 ^ 63 ≤ s.pairValue p (aFabr 0x48) (aFabr 0x48) v) :
    ∃ x, writeReg p (aFabr 0x4C) v s =
      State.setRegBit { countVerdict p .refused (unstage p s) with audit := x } (aFabr 0x58) 5 true := by
  have hp := placed_timeStep
  have refused : (timeWr p (s.pairValue p (aFabr 0x48) (aFabr 0x48) v)).verdict s = .refused :=
    verdict_refused (originRefused_time ht _) rfl rfl rfl ((hookRefused_time _ _ _).trans (decide_eq_true h))
  rw [aFabr_timeStepHi] at ht ⊢
  have lands := writeReg_pair_lands ht hp.plain hp.low hp.aligned hp.loc hp.locHi hp.halfHi hp.acts
    (timeWr p (s.pairValue p (aFabr 0x48) (aFabr 0x48) v)) rfl
  obtain ⟨r, x, c, o, hs⟩ := (countVerdict_refused_rec p (unstage p s)).1.frame
  have origin : (countVerdict p .refused (unstage p s)).originRefused p (aFabr 0x48) (s.pairValue p (aFabr 0x48) (aFabr 0x48) v) = false := by
    rw [hs]
    exact originRefused_time ht _
  rw [refused] at lands
  obtain ⟨y, hy⟩ := landWrite_refused (w := timeWr p (s.pairValue p (aFabr 0x48) (aFabr 0x48) v)) hp.noAck origin
  exact ⟨y, lands.trans hy⟩

end

/-! ### The commands -/

/-- Settles O31: each command is a write of its register, and each clause one case of what that register does. -/
theorem fabricCommands : Obligations.FabricCommands := by
  intro s p c v
  have engine (a : Nat) (w : Word) : (s.stored p a w).fabric = s.fabric := stored_fabric s p a w
  refine ⟨fun ht => congrArg Host.Outcome.next (write_fabrEpoch ht), fun ht => congrArg Host.Outcome.next ?excRead,
    fun ht => ⟨fun hother hfree => ?excWrite, fun hbusy => ?excRefused⟩, fun ht sel i n old h => congrArg Host.Outcome.next ?tblRead,
    fun ht sel i n old h => ?tblWrite, fun ht hidle => ⟨fun h => congrArg Host.Outcome.next (write_rank hidle ht h), fun hst htaken => ?rankTaken⟩,
    fun ht => ⟨fun h => congrArg Host.Outcome.next (write_timeStep ht h), fun h => ?stepBack⟩⟩
  case excRead =>
    rw [write_fabrExc ht, excCmd_read (fabrCmdWr_read p _).1 (fabrCmdWr_read p _).2, engine]
    rfl
  case excWrite =>
    obtain ⟨x, hx⟩ := excCmd_write (fabrCmdWr_write p 0x208).1 (fabrCmdWr_write p 0x208).2 hother hfree
    refine ⟨_, congrArg Host.Outcome.next ((write_fabrExc ht).trans hx), ?_, ?_⟩
    · rw [engine, State.excKey]
    · dsimp only
  case excRefused =>
    obtain ⟨x, hx⟩ := excCmd_refused (fabrCmdWr_write p 0x208).1 (fabrCmdWr_write p 0x208).2 hbusy
    exact ⟨_, congrArg Host.Outcome.next ((write_fabrExc ht).trans hx), engine (aFabr 0x208) 2,
      fun hwf => regBit_setRegBit_true (stored_regsWf hwf _ _ _) _ (by decide)⟩
  case tblRead => rw [write_fabrTbl ht, tblCmd_read h (fabrCmdWr_read p _).1 (fabrCmdWr_read p _).2]
  case tblWrite =>
    by_cases hsel : sel = 2
    · subst hsel
      obtain ⟨x, hx⟩ := tblCmd_uplink (fabrCmdWr_write p 0x18).1 (fabrCmdWr_write p 0x18).2 h
      refine ⟨_, congrArg Host.Outcome.next ((write_fabrTbl ht).trans hx), fun _ => ?_, fun hne => absurd rfl hne⟩
      rw [engine]
    · obtain ⟨x, hx⟩ := tblCmd_refused (fabrCmdWr_write p 0x18).1 (fabrCmdWr_write p 0x18).2 h hsel
      exact ⟨_, congrArg Host.Outcome.next ((write_fabrTbl ht).trans hx), fun he => absurd he hsel, fun _ =>
        ⟨engine (aFabr 0x18) 2, fun hwf => regBit_setRegBit_true (stored_regsWf hwf _ _ _) _ (by decide)⟩⟩
  case rankTaken =>
    have valid : (s.ctx c).st ≠ .invalid := by rw [hst]; decide
    obtain ⟨x, hx⟩ := write_rank_refused hidle ht valid htaken
    obtain ⟨notRecorded, notCounted⟩ := rank_notCounted c
    exact ⟨_, congrArg Host.Outcome.next hx, fun hwf => (countVerdict_refused_rec p s).1.regs hwf _ notRecorded notCounted⟩
  case stepBack =>
    obtain ⟨y, hy⟩ := write_timeStep_refused ht h
    have counted := countVerdict_refused_rec p (unstage p s)
    obtain ⟨_, _, _, _, hs⟩ := counted.1.frame
    refine ⟨_, congrArg Host.Outcome.next hy, ?_, fun hwf => ?_⟩
    · rw [hs]
      rfl
    · exact regBit_setRegBit_true (s := { countVerdict p .refused (unstage p s) with audit := y }) (counted.2.regs hwf) _ (by decide)

end Sys2Proof.Machine
end

section
/-! PROOFS. The fabric ports, the epochs' end and the time sources (R296 to R298, R314 to R316, R329): trainings, losses, PPS and PTP. -/

namespace Sys2Proof.Machine

/-! ### Training and loss (R296, R297) -/

section
variable {s : State} {p : Nat}

section
variable (hen : s.portEnabled p = true) (hiso : (s.port p).isolated = false) (hst : (s.port p).state = 1 ∨ (s.port p).state = 4) (fail : Byte)
include hen hiso hst

/-- An enabled port in training, or down, takes the end of a training. -/
theorem trains_of : ¬ (¬ s.portEnabled p = true ∨ (s.port p).isolated = true ∨ (s.port p).state ≠ 1 ∧ (s.port p).state ≠ 4) := by
  rintro (h | h | ⟨h1, h4⟩)
  · exact h hen
  · exact Bool.eq_false_iff.1 hiso h
  · exact hst.elim h1 h4

/-- With its partner it comes up at the width that its lanes allow. -/
theorem portTrained_up (h : s.lanesOf p fail ≠ .none) : portTrained p fail true s = portUp p fail (s.lanesOf p fail) s := by
  unfold portTrained
  dsimp only
  rw [if_neg (trains_of hen hiso hst), if_pos rfl]
  split
  case h_1 hnone => exact absurd hnone h
  case h_2 => rfl

/-- Without lanes for a width, or without its partner, it goes down. -/
theorem portTrained_down {partner : Bool} (h : (if partner then s.lanesOf p fail else .none) = .none) :
    portTrained p fail partner s = portDown p 3 0 (s.setPort p { s.port p with laneFail := fail, srst := false }) := by
  unfold portTrained
  dsimp only
  rw [if_neg (trains_of hen hiso hst), h]

end

/-- A down port that is enabled trains again, and the change is entered in the ledger. -/
theorem portRetrain_down (hen : s.portEnabled p = true) (hst : (s.port p).state = 4) :
    portRetrain p s = auditState 5 3 p 4 1 (s.setPort p { s.port p with state := 1 }) := by
  have other : ¬ (s.port p).state = 1 := by rw [hst]; decide
  unfold portRetrain setPortState
  dsimp only
  rw [if_pos ⟨hen, hst⟩, if_neg other, hst]
  rfl

end

/-! ### The end of an epoch (R329) -/

/-- The record of a drained epoch. -/
def epochDrainedRecord (s : State) : Bytes :=
  leBytes 1 (if s.regBit (aFabr 0x200) 0 then 1 else 0) ++ leBytes 3 0 ++ leBytes 4 s.fabric.epochDrained.toNat ++ leBytes 8 s.fabric.epochTime.toNat

section
variable {s : State}

/-- Once nothing of the other epoch is held, its end is reported. -/
theorem epochSwitch_drained (hopen : s.fabric.epochOpen = true) (hheld : s.epochHeld (!s.regBit (aFabr 0x200) 0) = 0) :
    epochSwitch s = raiseDev 0x0304 0 noUnit (epochDrainedRecord s) { s with fabric := { s.fabric with epochOpen := false } } := by
  unfold epochSwitch
  dsimp only
  rw [if_neg (by simp [hopen, hheld])]
  rfl

theorem epochSwitch_held (hheld : s.epochHeld (!s.regBit (aFabr 0x200) 0) ≠ 0) : epochSwitch s = s := if_pos (.inr hheld)

/-- Reporting it only records. -/
theorem epochSwitch_frame (hopen : s.fabric.epochOpen = true) (hheld : s.epochHeld (!s.regBit (aFabr 0x200) 0) = 0) :
    (epochSwitch s).fabric = { s.fabric with epochOpen := false } ∧ (epochSwitch s).mem = s.mem := by
  obtain ⟨_, _, _, _, e⟩ := (raise_rec _ { s with fabric := { s.fabric with epochOpen := false } }).1.frame
  rw [epochSwitch_drained hopen hheld, raiseDev, e]
  exact ⟨rfl, rfl⟩

end

/-! ### PPS and PTP (R314 to R316) -/

/-- A Pdelay_Req received is kept with its ingress timestamp. -/
def pdelayNoted (p kind : Nat) (s : State) : State :=
  if kind = 2 then s.setPort p { s.port p with pdelayAt := s.rxStamp p } else s

/-- The port by which an offset was measured is the slave. -/
def slavePort (p : Nat) (s : State) : State :=
  { s with fabric := { s.fabric with ports := s.fabric.ports.map fun e => (e.1, { e.2 with ptpSlave := decide (e.1 = p) }) } }

/-- A Sync has been received now. -/
def syncNoted (s : State) : State := { s with fabric := { s.fabric with syncAt := s.time } }

theorem pdelayNoted_time (p kind : Nat) (s : State) : (pdelayNoted p kind s).time = s.time := by
  unfold pdelayNoted
  split
  · rfl
  · rfl

section
variable {s : State} {p : Nat} (hcarries : s.portCarries p = true) (hptp : s.regBit (aPort p 0x38) 0 = true) (kind : Nat)
include hcarries hptp

/-- A port that carries frames and has PTP_EN takes messages. -/
theorem times_of : ¬ (¬ s.portCarries p = true ∨ ¬ s.regBit (aPort p 0x38) 0 = true) := by
  rintro (h | h)
  · exact h hcarries
  · exact h hptp

theorem ptpMessage_sent (frame : Bytes) (offset : Option Int) : ptpMessage p (some frame) kind offset s = ptpSend p kind frame s :=
  if_neg (times_of hcarries hptp)

/-- A message received with an offset makes its port the slave, and steers the servo; a Sync is also noted as the newest. -/
theorem ptpMessage_offset (o : Int) : ptpMessage p none kind (some o) s =
    servoUpdate o (if kind = 0 then syncNoted (slavePort p (pdelayNoted p kind s)) else slavePort p (pdelayNoted p kind s)) := by
  have slave : ((s.port p).ptpSlave || (some o).isSome) = true := Bool.or_true _
  unfold ptpMessage
  rw [if_neg (times_of hcarries hptp)]
  dsimp only
  rw [slave]
  simp only [and_true, Option.isSome_some, if_true]
  rfl

/-- One without leaves the slave port, which notes a Sync. -/
theorem ptpMessage_noOffset : ptpMessage p none kind none s =
    if kind = 0 ∧ (s.port p).ptpSlave = true then syncNoted (pdelayNoted p kind s) else pdelayNoted p kind s := by
  have slave : ((s.port p).ptpSlave || (none : Option Int).isSome) = (s.port p).ptpSlave := Bool.or_false _
  unfold ptpMessage
  rw [if_neg (times_of hcarries hptp)]
  dsimp only
  rw [slave]
  simp only [Option.isSome_none, Bool.false_eq_true, if_false]
  rfl

end

/-- Settles O52: each command by the state of its port, of the epoch or of the time source. -/
theorem portAndTimeCommands : Obligations.PortAndTimeCommands := by
  intro s p fail n kind o frame offset x trains failed e times noted slave synced sent lost
  have isKind (m : BitVec 4) : kind = m ↔ kind.toNat = m.toNat := BitVec.toNat_inj.symm
  have hnoted : noted = pdelayNoted p kind.toNat s := ite_congr (propext (isKind 2)) (fun _ => rfl) fun _ => rfl
  have htime : noted.time = s.time := by rw [hnoted, pdelayNoted_time]
  have hsynced (u : State) (hu : u.time = s.time) : syncNoted u = synced u := by
    change _ = { u with fabric := { u.fabric with syncAt := s.time } }
    rw [syncNoted, hu]
  refine ⟨fun ⟨hen, hiso, hst⟩ h => congrArg Host.Outcome.next (portTrained_up hen hiso hst fail h),
    fun ⟨hen, hiso, hst⟩ h => congrArg Host.Outcome.next (portTrained_down hen hiso hst fail h),
    fun ⟨hen, hiso, hst⟩ => congrArg Host.Outcome.next (portTrained_down hen hiso hst fail (partner := false) rfl),
    fun hup => congrArg Host.Outcome.next (if_pos hup), fun hup hlimit => congrArg Host.Outcome.next (if_pos ⟨hup, hlimit⟩),
    fun hen hst => congrArg Host.Outcome.next (portRetrain_down hen hst),
    fun hopen hheld => congrArg Host.Outcome.next (epochSwitch_drained hopen hheld),
    fun hopen hheld => ⟨_, rfl, epochSwitch_frame hopen hheld⟩, fun hopen hheld => congrArg Host.Outcome.next (epochSwitch_held hheld),
    fun hpps => congrArg Host.Outcome.next (if_pos hpps), fun hpps hlate => congrArg Host.Outcome.next (if_pos ⟨hpps, hlate⟩),
    fun hslave hlate => congrArg Host.Outcome.next (if_pos ⟨hslave, hlate⟩),
    fun ⟨hcarries, hptp⟩ => congrArg Host.Outcome.next ((ptpMessage_offset hcarries hptp kind.toNat o).trans ?offset),
    fun ⟨hcarries, hptp⟩ => congrArg Host.Outcome.next ((ptpMessage_noOffset hcarries hptp kind.toNat).trans ?noOffset),
    fun ⟨hcarries, hptp⟩ hone => congrArg Host.Outcome.next ((ptpMessage_sent hcarries hptp kind.toNat frame offset).trans (if_pos hone)),
    fun ⟨hcarries, hptp⟩ htwo =>
      congrArg Host.Outcome.next ((ptpMessage_sent hcarries hptp kind.toNat frame offset).trans (if_neg (Bool.eq_false_iff.1 htwo)))⟩
  case offset =>
    rw [← hnoted]
    exact congrArg (servoUpdate o) (ite_congr (propext (isKind 0).symm) (fun _ => hsynced (slave noted) htime) fun _ => rfl)
  case noOffset =>
    rw [← hnoted]
    exact ite_congr (propext (and_congr (isKind 0).symm Iff.rfl)) (fun _ => hsynced noted htime) fun _ => rfl

end Sys2Proof.Machine
end

section
/-! PROOFS. Frames that come and go (R298 to R305, R313, R326, R331): what a port makes of a frame, what its output sends, and what waits too long. -/

namespace Sys2Proof.Machine

/-! ### The frame check (R298, R305) -/

/-- A frame with an uncorrectable codeword is bad. -/
theorem frameFcs_uncorrectable (frame : Bytes) {f : Fec} (h : 0 < f.uncorrectable) : frameFcs frame (fecBad f) = .bad :=
  if_pos (decide_eq_true h)

/-- A received frame is counted, and what the FEC found in it. -/
def frameNoted (p : Nat) (rx : Arrival) (s : State) : State := noteFec p rx.fec (count (aPort p 0x88) 1 s)

/-- What is done with a good routed frame, by what it is judged to be (R301). -/
def judgedFrame (p : Nat) (env : Env) (r : Routed) (s : State) : State :=
  match r with
  | .other a => coreAnswer p a s
  | .drop n => discardAt p n none s
  | .transport b =>
    if fieldBe b 0 4 / 2 ^ 28 = 0 then v0Route p (s.nativeHead p ++ b) s
    else meeting env s (gotTransport p (b.take 48) (b.drop 48) true s)

theorem judgedFrame_packet (p : Nat) (env : Env) {b : Bytes} (h : fieldBe b 0 4 / 2 ^ 28 ≠ 0) (s : State) :
    judgedFrame p env (.transport b) s = meeting env s (gotTransport p (b.take 48) (b.drop 48) true s) := if_neg h

/-! ### Native frames (R299, R305, R313) -/

section
variable {s : State} {p : Nat} (hcarries : s.portCarries p = true)
include hcarries

section
variable {frame : Bytes} (rx : Arrival)

/-- A good native frame's packet is handled at this hop. -/
theorem nativeFrame_good (hfcs : frameFcs frame (fecBad rx.fec) = .good) (hlen : 66 ≤ frame.length) (htype : fieldBe frame 12 2 = 0x88B5)
    (h6 : p ≠ 6) (h7 : p ≠ 7) (hversion : fieldBe frame 14 4 / 2 ^ 28 ≠ 0) :
    nativeFrame p frame rx s = meeting rx.env (frameNoted p rx s)
      (gotTransport p (sliceB (frame.take (frame.length - 4)) 14 48) ((frame.take (frame.length - 4)).drop 62) true (frameNoted p rx s)) := by
  have native : ¬ (frame.length < 66 ∨ fieldBe frame 12 2 ≠ 0x88B5 ∨ p = 6 ∨ p = 7) := by
    rintro (h | h | h | h)
    · exact Nat.not_lt.2 hlen h
    · exact h htype
    · exact h6 h
    · exact h7 h
  unfold nativeFrame
  dsimp only
  rw [if_neg (not_not_intro hcarries), hfcs]
  dsimp only
  rw [if_neg native, if_neg hversion]
  rfl

theorem nativeFrame_stomped (hfcs : frameFcs frame (fecBad rx.fec) = .stomped) :
    nativeFrame p frame rx s = count (aPort p 0xA8) 1 (frameNoted p rx s) := by
  unfold nativeFrame
  dsimp only
  rw [if_neg (not_not_intro hcarries), hfcs]
  rfl

/-- A bad frame that holds no header is discarded as FCS. -/
theorem nativeFrame_short (hlen : frame.length < 66) (hfcs : frameFcs frame (fecBad rx.fec) = .bad) :
    nativeFrame p frame rx s = discardAt p 1 none (frameNoted p rx s) := by
  unfold nativeFrame
  dsimp only
  rw [if_neg (not_not_intro hcarries), hfcs]
  dsimp only
  rw [if_pos (.inl hlen)]
  rfl

theorem v0Forward_good {f : Fec} (hlen : 66 ≤ frame.length) (hfcs : frameFcs frame (fecBad f) = .good) :
    v0Forward p frame f s = v0Route p (frame.take (frame.length - 4)) (noteFec p f s) := by
  unfold v0Forward
  rw [if_neg (not_or.2 ⟨not_not_intro hcarries, Nat.not_lt.2 hlen⟩), hfcs]

/-! ### Routed frames (R300 to R302) -/

section
variable (hup : p = 6 ∨ p = 7)
include hup

/-- An uplink that carries frames takes routed ones. -/
theorem routes_of : ¬ ((p ≠ 6 ∧ p ≠ 7) ∨ ¬ s.portCarries p = true) := by
  rintro (⟨h6, h7⟩ | h)
  · exact hup.elim h6 h7
  · exact h hcarries

theorem routedFrame_bad (hfcs : frameFcs frame (fecBad rx.fec) = .bad) :
    routedFrame p frame rx s = discardAt p 1 none (frameNoted p rx s) := by
  unfold routedFrame
  dsimp only
  rw [if_neg (routes_of hcarries hup), if_pos (.inr hfcs)]
  rfl

/-- A good frame goes the way it is judged. -/
theorem routedFrame_good (hlen : 64 ≤ frame.length) (hfcs : frameFcs frame (fecBad rx.fec) = .good) :
    routedFrame p frame rx s =
      judgedFrame p rx.env ((frameNoted p rx s).judgeRouted p (frame.take (frame.length - 4))) (frameNoted p rx s) := by
  have sound : ¬ (frame.length < 64 ∨ frameFcs frame (fecBad rx.fec) = .bad) := by
    rw [hfcs]
    rintro (h | h)
    · exact Nat.not_lt.2 hlen h
    · cases h
  have whole : ¬ frameFcs frame (fecBad rx.fec) = .stomped := by rw [hfcs]; decide
  unfold routedFrame
  dsimp only
  rw [if_neg (routes_of hcarries hup), if_neg sound, if_neg whole]
  rfl

end

end

/-! ### What an output sends (R302, R326) -/

theorem linkTransmit_sends (credits : List (Nat × Nat × Nat)) {i wrr : Nat} {q : Queued} (hinert : s.inert p = false)
    (harb : s.arbitrate p credits = some (i, wrr)) (hq : (s.port p).queue[i]? = some q) :
    linkTransmit p credits s =
      (count (aPort p 0x80) 1 (s.setPort p { (s.spent p q).altAfter q with queue := (s.port p).queue.eraseIdx i, wrr := wrr })).emit
        (.frame p (s.frameBytes p q)) := by
  unfold linkTransmit
  rw [if_neg (not_or.2 ⟨not_not_intro hcarries, Bool.eq_false_iff.1 hinert⟩), harb]
  dsimp only
  rw [hq]

end

/-- An inert uplink, and an output without a packet that may go, sends nothing. -/
theorem linkTransmit_waits {s : State} {p : Nat} (credits : List (Nat × Nat × Nat)) (h : s.inert p = true ∨ s.arbitrate p credits = none) :
    linkTransmit p credits s = s := by
  unfold linkTransmit
  rcases h with hinert | hnone
  · rw [if_pos (.inr hinert)]
  · rw [hnone]
    exact ite_self s

/-! ### What waits too long, and idle flows (R326, R331) -/

section
variable {s : State} {i : Nat}

theorem dwellExpire_late {p : Nat} {q : Queued} (hq : (s.port p).queue[i]? = some q)
    (hlate : q.since.toNat + clampNat (s.reg (aFabr 0x234)).toNat 20 10000 * 1000 < s.time.toNat) (hturned : q.turned = false) (hv0 : q.v0 = none) :
    dwellExpire p i s = discardAt p 11 (some q.pkt) (s.setPort p { s.port p with queue := (s.port p).queue.eraseIdx i }) := by
  unfold dwellExpire
  dsimp only
  rw [hq]
  dsimp only
  rw [if_pos hlate, hturned, hv0]
  rfl

theorem flowEvict_send {f : TxFlow} (hf : s.fabric.tx[i]? = some f) (hidle : f.last.toNat + 2 * s.flowIdle ≤ s.time.toNat) :
    flowEvict true i s = { s with fabric := { s.fabric with tx := s.fabric.tx.eraseIdx i } } := by
  unfold flowEvict
  dsimp only
  rw [if_pos rfl, hf]
  exact if_pos hidle

theorem flowEvict_receive {f : RxFlow} (hf : s.fabric.rx[i]? = some f) (hidle : f.last.toNat + s.flowIdle ≤ s.time.toNat) :
    flowEvict false i s = { s with fabric := { s.fabric with rx := s.fabric.rx.eraseIdx i } } := by
  unfold flowEvict
  dsimp only
  rw [if_neg Bool.false_ne_true, hf]
  exact if_pos hidle

end

/-- Settles O55: each command by its frame's check and what it is judged to be, by the arbiter, or by how long it has waited. -/
theorem frameCommands : Obligations.FrameCommands := by
  intro s p frame b rx credits i wrr q x body one fcs routed limit taken
  have port {n : Fin 9} (h : p ≠ n) : p.val ≠ n.val := fun e => h (Fin.ext e)
  have uplink (h : p = 6 ∨ p = 7) : p.val = 6 ∨ p.val = 7 := h.imp (congrArg Fin.val) (congrArg Fin.val)
  have judged {r : Routed} {t : State} (hup : p = 6 ∨ p = 7) (hc : s.portCarries p = true) (hlen : 64 ≤ frame.length) (hf : fcs = .good)
      (hj : one.judgeRouted p body = r) (ht : judgedFrame p rx.env r one = t) : routedFrame p frame rx s = t :=
    (routedFrame_good hc rx (uplink hup) hlen hf).trans ((congrArg (fun r => judgedFrame p rx.env r one) hj).trans ht)
  refine ⟨frameFcs_uncorrectable frame,
    fun hc hf hlen htype h6 h7 hv => congrArg Host.Outcome.next (nativeFrame_good hc rx hf hlen htype (port h6) (port h7) hv),
    fun hc hf => congrArg Host.Outcome.next (nativeFrame_stomped hc rx hf),
    fun hc hlen hf => congrArg Host.Outcome.next (nativeFrame_short hc rx hlen hf),
    fun ⟨hup, hc, hlen⟩ hf hj hv => congrArg Host.Outcome.next (judged hup hc hlen hf hj (judgedFrame_packet _ _ hv _)),
    fun r ⟨hup, hc, hlen⟩ hf hj => congrArg Host.Outcome.next (judged hup hc hlen hf hj rfl),
    fun a ⟨hup, hc, hlen⟩ hf hj => congrArg Host.Outcome.next (judged hup hc hlen hf hj rfl),
    fun ⟨hup, hc, _⟩ hf => congrArg Host.Outcome.next (routedFrame_bad hc rx (uplink hup) hf),
    fun hc hlen hf => congrArg Host.Outcome.next (v0Forward_good hc hlen hf),
    fun hc hinert harb hq => congrArg Host.Outcome.next (linkTransmit_sends hc credits hinert harb hq),
    fun _ h => congrArg Host.Outcome.next (linkTransmit_waits credits h),
    fun hq hlate hturned hv0 => congrArg Host.Outcome.next (dwellExpire_late hq hlate hturned hv0),
    fun f hf hidle => congrArg Host.Outcome.next (flowEvict_send hf hidle),
    fun f hf hidle => congrArg Host.Outcome.next (flowEvict_receive hf hidle)⟩

end Sys2Proof.Machine
end

section
/-! PROOFS. Collectives (R337 to R340): how far a command takes its task, and the windows that open. -/

namespace Sys2Proof.Machine

/-! ### Runs that may wait (R337 to R339) -/

/-- What the run of a collective leaves of its task `t` in context `c`: waiting, ended, failed, or completed with its context killed. -/
def waitLeft (c : Nat) (t : Task) : Except RunStop (Option RunOut) × State → State
  | (.ok none, u) => u.setTask { t with st := .waiting }
  | (.ok (some o), u) => u.setTask { t with st := .ran, res := o.res, undo := t.undo ++ o.undo }
  | (.error e, u) =>
    let failed := { t with res := { Result.empty with status := e.status, detail := e.detail } }
    match e.kill with
    | none => u.setTask { failed with st := .ran }
    | some cause => killCtx c cause (afterComplete t (completeWith failed e.status e.detail (u.nsOf t) false (u.setTask failed)))

/-- A task that is issued or waiting, of the kind and OP that the command runs, is run where its context is active. -/
theorem runWait_runs {s : State} {r : TaskRef} {t0 : Task} (htask : s.task? r = some t0) (hst : t0.st = .issued ∨ t0.st = .waiting)
    (hactive : (s.ctx r.ctx).st.isActive = true) {sel : Desc → Bool} (hsel : sel t0.d = true) (body : Task → Run (Option RunOut)) :
    runWait r sel body s = waitLeft r.ctx.val ((s.ctx r.ctx).noteVers t0) ((body ((s.ctx r.ctx).noteVers t0)).run s) := by
  have runs : ¬ ((t0.st ≠ .issued ∧ t0.st ≠ .waiting) ∨ sel t0.d = false ∨ (s.ctx r.ctx).st.isActive = false) := by
    rintro (⟨hi, hw⟩ | h | h)
    · exact hst.elim hi hw
    · exact Bool.eq_false_iff.1 h hsel
    · exact Bool.eq_false_iff.1 h hactive
  unfold runWait
  rw [htask]
  dsimp only
  rw [if_neg runs]
  rcases (body ((s.ctx r.ctx).noteVers t0)).run s with ⟨e | o, u⟩
  · rfl
  · cases o with
    | none => rfl
    | some o => rfl

/-- The OP of a collective selects its command. -/
theorem isOp_of {d : Desc} {k op : Nat} (hkind : d.kind = k) (hop : d.op = op) : isOp k op d = true := by
  rw [isOp, hkind, hop, decide_eq_true rfl, decide_eq_true rfl, Bool.and_self]

/-! ### Windows (R340) -/

/-- The senders that a collective's member expects values from. -/
def State.windowSenders (s : State) (v : Col) : List (BitVec 21) := (v.expected.map fun e => s.memberRank v e.2).eraseDups

/-- How many senders share the cells of a window when it opens: each share holds 140, and at least one sender has one. -/
def State.windowSharers (s : State) (v : Col) : Nat := max 1 (min (s.windowSenders v).length (s.colWindowBytes / 64 / 140))

/-- The cells of a sender's share. -/
def State.windowShare (s : State) (v : Col) : Nat := s.colWindowBytes / 64 / s.windowSharers v

/-- The window of a task as it opens. -/
def State.openWindow (s : State) (t : Task) (r : TaskRef) (v : Col) : ColWindow :=
  { ctx := v.c, job := s.ctxJob v.c, collId := BitVec.ofNat 10 (ColParams.ofBytes t.d.params).id, task := r, started := false, vals := [], sent := [],
    outbox := [], share := s.windowShare v, ungranted := (s.windowSenders v).drop (s.windowSharers v) }

/-- A window that opens grants their shares to the senders that have one. -/
def windowOpened (t : Task) (r : TaskRef) (v : Col) (s : State) : State :=
  ((s.windowSenders v).take (s.windowSharers v)).foldl (fun u m => sendGrant (s.openWindow t r v) m (s.windowShare v) u)
    { s with fabric := { s.fabric with windows := s.fabric.windows ++ [s.openWindow t r v] } }

/-- The window of a group's collective opens while 32 MiB hold one more. -/
theorem colWindowOpen_opens {s : State} {r : TaskRef} {t : Task} {v : Col} (htask : s.task? r = some t) (hst : t.st = .issued ∨ t.st = .waiting)
    (hkind : t.d.kind = kCollective) (hgroup : (ColParams.ofBytes t.d.params).group = true) (hnew : s.window? r = none)
    (hroom : (s.fabric.windows.length + 1) * s.colWindowBytes ≤ 32 * 2 ^ 20) (hview : s.colView t = some v) (hmap : s.mapFails v = false) :
    colWindowOpen r s = windowOpened t r v s := by
  have opens : ¬ (t.d.kind ≠ kCollective ∨ (t.st ≠ .issued ∧ t.st ≠ .waiting) ∨ ¬ (ColParams.ofBytes t.d.params).group = true ∨
      (s.window? r).isSome = true ∨ 32 * 2 ^ 20 < (s.fabric.windows.length + 1) * s.colWindowBytes) := by
    rintro (h | ⟨hi, hw⟩ | h | h | h)
    · exact h hkind
    · exact hst.elim hi hw
    · exact h hgroup
    · rw [hnew] at h
      cases h
    · exact Nat.not_lt.2 hroom h
  unfold colWindowOpen
  rw [htask]
  dsimp only
  rw [if_neg opens, hview]
  dsimp only
  rw [hmap, if_neg Bool.false_ne_true]
  rfl

/-- Settles O41: the seven commands by the run they share, the window by its room. -/
theorem collectivesRun : Obligations.CollectivesRun := by
  intro s r env t0 htask hst hactive hkind t goes
  have left (x : Except RunStop (Option RunOut) × State) : Host.Outcome.next (waitLeft r.ctx.val t x) = goes x := by
    obtain ⟨e | o, u⟩ := x
    · rfl
    · cases o with
      | none => rfl
      | some o => rfl
  have runs {op : Nat} (hop : t0.d.op = op) (body : Task → Run (Option RunOut)) :
      Host.Outcome.next (runWait r (isOp kCollective op) body s) = goes ((body t).run s) :=
    (congrArg Host.Outcome.next (runWait_runs htask hst hactive (isOp_of hkind hop) body)).trans (left _)
  exact ⟨fun h => runs h (groupBody env), fun h => runs h (groupBody env), fun h => runs h (groupBody env), fun h => runs h (groupBody env),
    fun h => runs h (groupBody env), fun h => runs h (sendBody env), fun h => runs h fetchBody,
    fun v hgroup hnew hroom hview hmap => congrArg Host.Outcome.next (colWindowOpen_opens htask hst hkind hgroup hnew hroom hview hmap)⟩

end Sys2Proof.Machine
end

section
/-! PROOFS. The twin and the management queue (R328, R392, R393): the messages of the pairing, its end, and the other messages. -/

namespace Sys2Proof.Machine

/-! ### What the pairing's changes leave alone -/

/-- Recording leaves the pairing alone. -/
theorem Recorded.twin {k : List Nat} {s t : State} (h : Recorded k s t) : t.twin = s.twin := by
  obtain ⟨r, a, c, o, e⟩ := h.frame
  rw [e]

/-- A change of the pairing is at most recorded. -/
theorem setTwin_recorded (w : Twin) (s : State) : Recorded [] { s with twin := w } (setTwin w s) :=
  (rec_ite (.refl _ _) (rec_auditState _ _ _ _ _ (.refl _ _))).1

theorem setTwin_twin (w : Twin) (s : State) : (setTwin w s).twin = w := (setTwin_recorded w s).twin

theorem setTwin_mem (w : Twin) (s : State) : (setTwin w s).mem = s.mem := (setTwin_recorded w s).mem

@[simp] theorem cadRefresh_twin (s : State) : (cadRefresh s).twin = s.twin := by
  unfold cadRefresh
  rw [State.setReg_twin, State.setReg_twin, State.setReg_twin, State.setReg_twin]

@[simp] theorem cadRefresh_mem (s : State) : (cadRefresh s).mem = s.mem := by
  unfold cadRefresh
  rw [State.setReg_mem, State.setReg_mem, State.setReg_mem, State.setReg_mem]

/-- A participant's next vote requests layer 1. -/
def notePair (s : State) (c : Nat) : State := if s.participant c then s.setCtx c { s.ctx c with ckpPair := true } else s

theorem notePair_twin (s : State) (c : Nat) : (notePair s c).twin = s.twin := by
  unfold notePair
  split
  · rfl
  · rfl

theorem foldl_notePair_twin (l : List Nat) (s : State) : (l.foldl notePair s).twin = s.twin := by
  induction l generalizing s with
  | nil => rfl
  | cons c l ih => rw [List.foldl_cons, ih, notePair_twin]

/-! ### The pair is made (R392) -/

/-- Whether own and announced FEED_ID are the same, or one of them is unknown. -/
def State.sameFeed (s : State) : Bool :=
  decide (s.power.straps.feedId = s.twin.feed) || decide (s.power.straps.feedId = 0) || decide (s.twin.feed = 0)

theorem sameFeed_iff (s : State) : s.sameFeed = true ↔ s.power.straps.feedId = s.twin.feed ∨ s.power.straps.feedId = 0 ∨ s.twin.feed = 0 := by
  rw [State.sameFeed, Bool.or_eq_true, Bool.or_eq_true, decide_eq_true_iff, decide_eq_true_iff, decide_eq_true_iff, or_assoc]

/-- With the other's HELLO and CONFIRM received while PAIRING, the pair is PAIRED from now. -/
theorem pairCheck_paired {s : State} (hhello : s.twin.hello = true) (hconfirmed : s.twin.confirmed = true) (hst : s.twin.state = 1) :
    (pairCheck s).twin = { s.twin with state := 2, correlated := s.sameFeed, lastBeat := s.time } := by
  have made : ¬ (¬ s.twin.hello = true ∨ ¬ s.twin.confirmed = true ∨ s.twin.state ≠ 1) := by
    rintro (h | h | h)
    · exact h hhello
    · exact h hconfirmed
    · exact h hst
  have noted (l : List Nat) : (cadRefresh (l.foldl notePair
      (setTwin { s.twin with state := 2, correlated := s.sameFeed, lastBeat := s.time } s))).twin =
        { s.twin with state := 2, correlated := s.sameFeed, lastBeat := s.time } := by
    rw [cadRefresh_twin, foldl_notePair_twin, setTwin_twin]
  unfold pairCheck
  dsimp only
  rw [if_neg made]
  split
  · exact (raise_rec _ _).1.twin.trans (noted _)
  · exact noted _

/-! ### The messages of the pairing (R392, R393) -/

/-- The pairing with the other's HELLO received: its FEED_ID, coordinate and partner-area size. -/
def Twin.heard (w : Twin) (b : Bytes) : Twin :=
  { w with hello := true, feed := BitVec.ofNat 4 (fieldLe b 0 4), coord := BitVec.ofNat 21 (fieldLe b 4 4), size := fieldLe b 8 4 % 65536 }

section
variable {s u : State} {d : Delivered}

/-- A HELLO is noted and answered with CONFIRM. -/
theorem pairHello_answered (h : takeTwin 3 s = some (d, true, u)) (hst : u.twin.state = 1 ∨ u.twin.state = 2) :
    pairHello s = pairCheck (twinMessage 4 [] { u with twin := u.twin.heard d.pkt.payload }) := by
  have takes : ¬ (¬ true = true ∨ u.twin.state ≠ 1 ∧ u.twin.state ≠ 2) := by
    rintro (hno | ⟨h1, h2⟩)
    · exact hno rfl
    · exact hst.elim h1 h2
  unfold pairHello
  rw [h]
  dsimp only
  rw [if_neg takes]
  rfl

theorem pairConfirm_pairing (h : takeTwin 4 s = some (d, true, u)) (hst : u.twin.state = 1) :
    pairConfirm s = pairCheck { u with twin := { u.twin with confirmed := true } } := by
  unfold pairConfirm
  rw [h]
  exact if_pos ⟨rfl, hst⟩

theorem heartbeat_paired (h : takeTwin 5 s = some (d, true, u)) (hst : u.twin.state = 2) :
    heartbeat s = { u with twin := { u.twin with lastBeat := u.time } } := by
  unfold heartbeat
  rw [h]
  exact if_pos ⟨rfl, hst⟩

/-- A second without a heartbeat loses the twin, and nothing in memory. -/
theorem twinLost_late (hst : s.twin.state = 2) (hlate : s.twin.lastBeat.toNat + 1000000000 ≤ s.time.toNat) :
    (twinLost s).twin = { s.twin with state := 3, correlated := false } ∧ (twinLost s).mem = s.mem := by
  unfold twinLost
  rw [if_pos ⟨hst, hlate⟩, cadRefresh_twin, cadRefresh_mem]
  exact ⟨setTwin_twin _ s, setTwin_mem _ s⟩

/-! ### The management queue (R328) -/

/-- Whether a delivered packet is a CTL_MSG that the pairing does not take. -/
@[reducible] def managementMsg (e : Delivered) : Bool := decide (e.pkt.op = 0x21) && !(e.pkt.pairing && decide (e.port = 8))

section
variable (hfound : s.fabric.delivered.find? managementMsg = some d)
  (hseq : seqNote d.port d.pkt { s with fabric := { s.fabric with delivered := s.fabric.delivered.erase d } } = (u, .fresh))
include hfound hseq

/-- A fresh message joins the queue, or is discarded where 256 wait. -/
theorem ctlMsg_fresh : ctlMsg s =
    if 256 ≤ u.fabric.mgmt.length then discardAt d.port 16 (some d.pkt) u
    else { u with fabric := { u.fabric with mgmt := u.fabric.mgmt ++ [d.pkt] } } := by
  unfold ctlMsg
  rw [hfound]
  dsimp only
  rw [hseq]
  exact if_neg (not_not_intro rfl)

theorem ctlMsg_queued (hroom : u.fabric.mgmt.length < 256) :
    ctlMsg s = { u with fabric := { u.fabric with mgmt := u.fabric.mgmt ++ [d.pkt] } } :=
  (ctlMsg_fresh hfound hseq).trans (if_neg (Nat.not_le.2 hroom))

theorem ctlMsg_full (hfull : 256 ≤ u.fabric.mgmt.length) : ctlMsg s = discardAt d.port 16 (some d.pkt) u :=
  (ctlMsg_fresh hfound hseq).trans (if_pos hfull)

end

end

/-- Settles O57: each message by the pairing's state, the loss by the last heartbeat's age, other messages by the room in the queue. -/
theorem twinCommands : Obligations.TwinCommands := by
  intro s u d b theirs other
  refine ⟨fun h hst => congrArg Host.Outcome.next (pairHello_answered h hst), fun h hst => congrArg Host.Outcome.next (pairConfirm_pairing h hst),
    fun h hst hhello => ⟨_, congrArg Host.Outcome.next (pairConfirm_pairing h hst), ?paired⟩,
    fun h hst => congrArg Host.Outcome.next (heartbeat_paired h hst), fun hst hup => congrArg Host.Outcome.next (if_pos ⟨hst, hup⟩),
    fun hst hlate => ⟨_, rfl, ?lost⟩,
    fun hfound hseq hroom => congrArg Host.Outcome.next (ctlMsg_queued hfound hseq hroom),
    fun hfound hseq hfull => congrArg Host.Outcome.next (ctlMsg_full hfound hseq hfull)⟩
  case paired =>
    rw [pairCheck_paired (s := { u with twin := { u.twin with confirmed := true } }) hhello rfl hst]
    exact ⟨rfl, rfl, sameFeed_iff _⟩
  case lost =>
    obtain ⟨htwin, hmem⟩ := twinLost_late hst hlate
    rw [htwin]
    exact ⟨rfl, rfl, hmem⟩

end Sys2Proof.Machine
end

section
/-! PROOFS. The memory apertures (R351 to R354): what the data aperture answers and stores, and how a table write makes a table frame. -/

namespace Sys2Proof.Machine

/-! ### Bytes stored -/

/-- A write within one frame changes memory alone. -/
theorem writePhys_frame (dpa : Nat) (bs : Bytes) (s : State) : writePhys dpa bs s = { s with mem := (writePhys dpa bs s).mem } := by
  unfold writePhys
  dsimp only
  split
  · rfl
  · rfl

section
variable {s : State} {dpa : Nat} (h : Memory.wf s.mem = true) (hd : s.dual dpa = none) (bs : Bytes)
include h hd

/-- The bytes written lie at the location, redirected as its frame is. -/
theorem writePhys_written {i : Nat} (hi : i < bs.length) :
    NMap.get hbmClear (writePhys dpa bs s).mem (s.resolve dpa + i) = bs.getD i 0 := by
  rw [State.get_writePhys h dpa bs hd, if_pos ⟨Nat.le_add_right _ _, Nat.add_lt_add_left hi _⟩, Nat.add_sub_cancel_left,
    List.getD_eq_getElem?_getD]

/-- The bytes beside them stay. -/
theorem writePhys_beside {k : Nat} (hk : k < s.resolve dpa ∨ s.resolve dpa + bs.length ≤ k) :
    NMap.get hbmClear (writePhys dpa bs s).mem k = NMap.get hbmClear s.mem k := by
  rw [State.get_writePhys h dpa bs hd, if_neg (by omega)]

end

/-! ### The data aperture (R352, R353) -/

section
variable {s : State} {a : Nat} (hframe : s.frameOk (a / 2 ^ 21) = true) (hown : s.partnerFrame (a / 2 ^ 21) = false)
include hframe hown

/-- A write of a table frame is REFUSED. -/
theorem dataRefused_tableFrame (htable : s.bndy.tableFrames.contains (a / 2 ^ 21) = true) : s.dataRefused a true = some 2 := by
  simp only [State.dataRefused, hframe, hown, htable]
  rfl

/-- An access of a stack that serves is taken, unless it writes a table frame. -/
theorem dataRefused_none (hup : s.stackUp (a / 2 ^ 36) = true) {write : Bool}
    (hfree : (write && s.bndy.tableFrames.contains (a / 2 ^ 21)) = false) : s.dataRefused a write = none := by
  simp only [State.dataRefused, hframe, hown, hup, hfree]
  rfl

end

section
variable {s : State} {addr : Dword} {len : Nat} {env : Env}

/-- With the link off or a wrong size, an access completes UNSUPPORTED and is counted. -/
theorem dataAccess_unsupported (h : s.trplEn = false ∨ dataSizeOk addr.toNat len = false) (req : Byte) (w : Option Bytes) (c : Instr) :
    dataAccess req addr len w env c s = apDone w.isSome 1 addr [] (apErr s) := by
  rw [← Bool.not_eq_true, ← Bool.not_eq_true (dataSizeOk _ _)] at h
  exact if_pos h

variable (hon : s.trplEn = true) (hsize : dataSizeOk addr.toNat len = true)
include hon hsize

theorem dataAccess_served : ¬ (¬ s.trplEn = true ∨ ¬ dataSizeOk addr.toNat len = true) :=
  not_or.2 ⟨not_not_intro hon, not_not_intro hsize⟩

theorem dataAccess_write (htaken : s.dataRefused addr.toNat true = none) (req : Byte) (d : Bytes) (c : Instr) :
    dataAccess req addr len (some d) env c s = writePhys addr.toNat (sliceB d 0 len) s := by
  unfold dataAccess
  dsimp only
  rw [if_neg (dataAccess_served hon hsize), Option.isSome_some, htaken]

/-- A refused write is recorded and counted. -/
theorem dataAccess_write_refused {st : Byte} (hrefused : s.dataRefused addr.toNat true = some st) (hroom : s.auditFull = false)
    (req : Byte) (d : Bytes) (c : Instr) :
    dataAccess req addr len (some d) env c s = auditAppend (s.tableEntry 1 req addr.toNat d) (apErr s) := by
  unfold dataAccess
  dsimp only
  rw [if_neg (dataAccess_served hon hsize), Option.isSome_some, hrefused]
  exact if_neg (Bool.eq_false_iff.1 hroom)

/-- A read without an uncorrectable burst is answered with the bytes, its corrected errors being counted. -/
theorem dataAccess_read_good (htaken : s.dataRefused addr.toNat false = none)
    (hgood : ((bursts addr.toNat len).filter fun b => env.ue.contains b) = []) (req : Byte) (c : Instr) :
    dataAccess req addr len none env c s =
      (noteCes env addr.toNat len s).emit (.link 0x08 0 0 addr (s.readPhys addr.toNat len)) := by
  unfold dataAccess
  dsimp only
  rw [if_neg (dataAccess_served hon hsize), Option.isSome_none, htaken]
  dsimp only
  rw [if_pos hgood, hgood]
  rfl

/-- A read of an uncorrectable burst is answered with an error: its uncorrectable bursts are noted, and the access counts as failed. -/
theorem dataAccess_read_bad (htaken : s.dataRefused addr.toNat false = none)
    (hbad : ((bursts addr.toNat len).filter fun b => env.ue.contains b) ≠ []) (req : Byte) (c : Instr) :
    dataAccess req addr len none env c s =
      (apErr (noteUes ((bursts addr.toNat len).filter fun b => env.ue.contains b) (noteCes env addr.toNat len s))).emit
        (.link 0x08 3 0 addr []) := by
  unfold dataAccess
  dsimp only
  rw [if_neg (dataAccess_served hon hsize), Option.isSome_none, htaken]
  dsimp only
  rw [if_neg hbad]
  rfl

end

/-! ### The table aperture (R353) -/

/-- Noting the change of an entry moves the contexts alone. -/
theorem noteTableChange_frame (a v : Nat) (s : State) : ∃ c, noteTableChange a v s = { s with ctxs := c } := by
  have folded (l : List (Nat × Ctx)) (t : State) :
      ∃ c, l.foldl (fun t e => t.setCtx e.1 { t.ctx e.1 with stale := a :: (t.ctx e.1).stale }) t = { t with ctxs := c } := by
    induction l generalizing t with
    | nil => exact ⟨_, rfl⟩
    | cons e l ih => exact ih (t.setCtx e.1 _)
  unfold noteTableChange
  dsimp only
  split
  · exact ⟨_, rfl⟩
  · exact folded _ s

/-- The state in which the bytes of a table write are stored: the write is in the ledger, and a change of an entry is noted. -/
def tableNoted (req : Byte) (a : Nat) (d : Bytes) (s : State) : State :=
  noteTableChange a (leNat d) (auditAppend (s.tableEntry 0 req a d) s)

theorem tableNoted_frame (req : Byte) (a : Nat) (d : Bytes) (s : State) :
    ∃ c, tableNoted req a d s = { s with audit := (auditAppend (s.tableEntry 0 req a d) s).audit, ctxs := c } := by
  obtain ⟨x, hx⟩ := auditAppend_frame (s.tableEntry 0 req a d) s
  obtain ⟨c, hc⟩ := noteTableChange_frame a (leNat d) (auditAppend (s.tableEntry 0 req a d) s)
  refine ⟨c, hc.trans ?_⟩
  rw [hx]

/-- The state with a frame among the table frames. -/
def makeTableFrame (f : Nat) (s : State) : State :=
  { s with bndy := { s.bndy with tableFrames := if s.bndy.tableFrames.contains f then s.bndy.tableFrames else s.bndy.tableFrames ++ [f] } }

theorem makeTableFrame_contains (f : Nat) (s : State) : (makeTableFrame f s).bndy.tableFrames.contains f = true := by
  unfold makeTableFrame
  dsimp only
  split
  · next h => exact h
  · exact List.contains_iff_mem.2 (List.mem_append_right _ List.mem_cons_self)

/-- A table write of 8 aligned bytes to a frame that serves is recorded, stored, and makes the frame a table frame. -/
theorem tableWrite_stored {s : State} {addr : Dword} {d : Bytes} (hon : s.trplEn = true) (hlen : d.length = 8) (haligned : addr.toNat % 8 = 0)
    (hlow : addr.toNat < 2 ^ 40) (hroom : s.auditFull = false) (hframe : s.frameOk (addr.toNat / 2 ^ 21) = true)
    (hup : s.stackUp (addr.toNat / 2 ^ 36) = true) (req : Byte) (c : Instr) :
    tableWrite req addr d c s =
      makeTableFrame (addr.toNat / 2 ^ 21) (writePhys addr.toNat d (tableNoted req addr.toNat d s)) := by
  have taken : ¬ (¬ s.trplEn = true ∨ d.length ≠ 8 ∨ addr.toNat % 8 ≠ 0 ∨ 2 ^ 40 ≤ addr.toNat ∨
      ¬ s.frameOk (addr.toNat / 2 ^ 21) = true ∨ ¬ s.stackUp (addr.toNat / 2 ^ 36) = true) := by
    rintro (h | h | h | h | h | h)
    · exact h hon
    · exact h hlen
    · exact h haligned
    · exact Nat.not_le.2 hlow h
    · exact h hframe
    · exact h hup
  unfold tableWrite
  dsimp only
  rw [if_neg (Bool.eq_false_iff.1 hroom), if_neg taken]
  rfl

/-- Settles O36: the data aperture by what it refuses and what it reads, the table aperture by the state in which its bytes are stored. -/
theorem memoryApertures : Obligations.MemoryApertures := by
  intro s req addr len d env a at0 served byte
  refine ⟨?write, ?readGood, ?readBad, ?tableFrame, fun w h => congrArg Host.Outcome.next (dataAccess_unsupported h req w _), ?table⟩
  case write =>
    rintro ⟨hon, hsize, hframe, hown, hup⟩ hfree hdual hwf rfl
    have taken := dataRefused_none hframe hown hup (write := true) hfree
    refine ⟨writePhys a d s, congrArg Host.Outcome.next ((dataAccess_write hon hsize taken req d _).trans ?_),
      fun i hi => writePhys_written hwf hdual d hi, fun k hk => writePhys_beside hwf hdual d hk, writePhys_frame a d s⟩
    rw [sliceB_self]
  case readGood =>
    rintro ⟨hon, hsize, hframe, hown, hup⟩ hgood
    exact congrArg Host.Outcome.next (dataAccess_read_good hon hsize (dataRefused_none hframe hown hup rfl) hgood req _)
  case readBad =>
    rintro ⟨hon, hsize, hframe, hown, hup⟩ hbad
    exact congrArg Host.Outcome.next (dataAccess_read_bad hon hsize (dataRefused_none hframe hown hup rfl) hbad req _)
  case tableFrame =>
    rintro ⟨hon, hsize, hframe, hown, -⟩ htable hroom
    exact congrArg Host.Outcome.next (dataAccess_write_refused hon hsize (dataRefused_tableFrame hframe hown htable) hroom req d _)
  case table =>
    intro hon hlen haligned hlow hroom hframe hup hdual hwf
    obtain ⟨c, hnoted⟩ := tableNoted_frame req a d s
    have stored := tableWrite_stored hon hlen haligned hlow hroom hframe hup req (.memTableApertureWrite req addr d)
    rw [hnoted] at stored
    let noted : State := { s with audit := (auditAppend (s.tableEntry 0 req a d) s).audit, ctxs := c }
    refine ⟨_, congrArg Host.Outcome.next stored, makeTableFrame_contains _ _,
      fun i hi => writePhys_written (s := noted) hwf hdual d (hlen ▸ hi),
      fun k hk => writePhys_beside (s := noted) hwf hdual d (hlen ▸ hk), ?_⟩
    rw [writePhys_frame]
    rfl

end Sys2Proof.Machine
end

section
/-! PROOFS. The Trepel Link (R345 to R350): flits, replay, retrain and outage, and the snoops of lines that no ring watches. -/

namespace Sys2Proof.NMap

section
variable {α : Type} {m : NMap α} {k : Nat} {v : α}

/-- A key is found first, or past a smaller one. -/
theorem find?_cons_eq_some {k' : Nat} {v' : α} : find? ((k', v') :: m) k = some v ↔ k' = k ∧ v' = v ∨ k' < k ∧ find? m k = some v := by
  change (if k' = k then some v' else if k < k' then none else find? m k) = some v ↔ _
  split
  · next same =>
    exact ⟨fun h => .inl ⟨same, Option.some.inj h⟩, fun h => h.elim (fun e => congrArg some e.2) fun e => absurd same (Nat.ne_of_lt e.1)⟩
  · next other =>
    split
    · next behind =>
      exact ⟨fun h => (nomatch h), fun h => h.elim (fun e => absurd e.1 other) fun e => absurd e.1 (Nat.lt_asymm behind)⟩
    · next ahead =>
      exact ⟨fun h => .inr ⟨Nat.lt_of_le_of_ne (Nat.not_lt.1 ahead) other, h⟩, fun h => h.elim (fun e => absurd e.1 other) And.right⟩

/-- A key found stays found where a greater one is listed, whatever the order of the keys behind it. -/
theorem find?_insert_above {j : Nat} (hk : k < j) (w : α) (h : find? m k = some v) : find? (insert m j w) k = some v := by
  induction m with
  | nil => cases h
  | cons e t ih =>
    obtain ⟨k', v'⟩ := e
    have first := find?_cons_eq_some.1 h
    unfold insert
    split
    · next same => omega
    · split
      · next before => omega
      · exact find?_cons_eq_some.2 (first.imp_right fun ⟨hlt, ht⟩ => ⟨hlt, ih ht⟩)

/-- And where a greater one is taken out. -/
theorem find?_erase_above {j : Nat} (hk : k < j) (h : find? m k = some v) : find? (erase m j) k = some v := by
  induction m with
  | nil => cases h
  | cons e t ih =>
    obtain ⟨k', v'⟩ := e
    have first := find?_cons_eq_some.1 h
    unfold erase
    split
    · next same => omega
    · split
      · exact h
      · exact find?_cons_eq_some.2 (first.imp_right fun ⟨hlt, ht⟩ => ⟨hlt, ih ht⟩)

theorem find?_set_above [DecidableEq α] {d : Nat → α} {j : Nat} (hk : k < j) (w : α) (h : find? m k = some v) :
    find? (set d m j w) k = some v := by
  unfold set
  split
  · exact find?_erase_above hk h
  · exact find?_insert_above hk w h

theorem find?_erase_self (h : rising 0 m = true) (k : Nat) : find? (erase m k) k = none :=
  (find?_eq_none (rising_erase k h) k).2 fun w hw => ((mem_erase h k k w).1 hw).1 rfl

theorem find?_erase_other (h : rising 0 m = true) {j : Nat} (hne : k ≠ j) : find? (erase m j) k = find? m k :=
  find?_congr (rising_erase j h) h k fun w => (mem_erase h j k w).trans (and_iff_right hne)

theorem find?_insert_other (h : rising 0 m = true) {j : Nat} (hne : k ≠ j) (w : α) : find? (insert m j w) k = find? m k :=
  find?_congr (rising_insert w (Nat.zero_le j) h) h k fun x => by
    rw [mem_insert h, or_iff_right fun same => hne same.1, and_iff_right hne]

end

end Sys2Proof.NMap

namespace Sys2Proof.Machine

/-! ### What recording leaves of the registers below its counters

Without the canonical form of the register file a write may uncover another key, but never one that is found before the key written. -/

/-- Whether the register file lists `v` at the address `a`. -/
def State.lists (s : State) (a : Nat) (v : Word) : Prop := NMap.find? s.regs a = some v

theorem reg_of_lists {s : State} {a : Nat} {v : Word} (h : s.lists a v) : s.reg a = v := by
  unfold State.reg NMap.get
  rw [h]
  rfl

/-- A register that does not read as at reset is listed. -/
theorem lists_of_reg_ne {s : State} {a : Nat} (h : s.reg a ≠ regReset a) : s.lists a (s.reg a) := by
  unfold State.lists
  unfold State.reg NMap.get at h ⊢
  cases hf : NMap.find? s.regs a with
  | none =>
    rw [hf] at h
    exact absurd rfl h
  | some v => rfl

theorem ringError_regs (c r : Nat) (x : BitVec 3) (s : State) : (ringError c r x s).regs = s.regs := by
  unfold ringError
  dsimp only
  split
  · rfl
  · rfl

theorem noteRecord_regs (c r : Nat) (s : State) : (noteRecord c r s).regs = s.regs := by
  unfold noteRecord
  dsimp only
  split
  · rfl
  · rfl

theorem putRecord_regs (c r : Nat) (line : Bytes) (s : State) : (putRecord c r line s).regs = s.regs := by
  unfold putRecord
  exact noteRecord_regs c r _

section
variable {a b : Nat} {v : Word} {s : State}

theorem lists_setReg (hb : a < b) (w : Word) (h : s.lists a v) : (s.setReg b w).lists a v := NMap.find?_set_above hb w h

theorem lists_setReg64 (hb : a < b) (w : Dword) (h : s.lists a v) : (s.setReg64 b w).lists a v :=
  lists_setReg (Nat.lt_add_right 4 hb) _ (lists_setReg hb _ h)

theorem lists_countRaw (hb : a < b) (n : Nat) (h : s.lists a v) : (countRaw b n s).1.lists a v := by
  unfold countRaw
  split
  · exact h
  · split
    · exact lists_setReg64 hb _ h
    · split
      · exact h
      · exact lists_setReg (Nat.lt_add_right 4 hb) _ (lists_setReg hb _ h)

/-! A register below the counters of recording, and a way `rz` to raise a further event that leaves it listed. -/

section
variable {rz : ERec → State → State} (hrz : ∀ e t, State.lists t a v → (rz e t).lists a v)
include hrz

theorem lists_countWith (hb : a < b) (n : Nat) (h : s.lists a v) : (countWith rz b n s).lists a v := by
  have counted := lists_countRaw hb n h
  unfold countWith
  split
  next e =>
    rw [e] at counted
    split
    · exact hrz _ _ counted
    · exact counted

variable (ha : a < aAudt 0x40)
include ha

theorem lists_auditHwWith (e : AuditEntry) (h : s.lists a v) : (auditHwWith rz e s).lists a v := by
  unfold auditHwWith
  split
  · obtain ⟨x, hx⟩ := auditAppend_frame e s
    rw [hx]
    exact h
  · split
    · exact h
    · have counted := lists_countWith hrz ha 1 (s := { s with audit := { s.audit with lostRun := s.audit.lostRun + 1 } }) h
      dsimp only
      split
      · exact hrz _ _ counted
      · exact counted

theorem lists_bufferEventWith (c : Nat) (e : ERec) (h : s.lists a v) : (bufferEventWith rz c e s).lists a v := by
  have below : a < aCtx c 0x30 := Nat.lt_of_lt_of_le ha (by unfold aAudt aCtx; omega)
  unfold bufferEventWith
  dsimp only
  split
  · exact h
  · exact lists_countWith hrz below 1 h

theorem lists_ringOutsideWith (c r : Nat) (h : s.lists a v) : (ringOutsideWith rz c r s).lists a v := by
  have below : a < aBndy 0x08 := Nat.lt_trans ha (by decide)
  unfold ringOutsideWith State.lists
  rw [ringError_regs]
  exact lists_auditHwWith hrz ha _ (lists_countWith hrz below 1 h)

theorem lists_deliverWith (c : Nat) (e : ERec) (h : s.lists a v) : (deliverWith rz c e s).lists a v := by
  unfold deliverWith
  dsimp only
  split
  · split
    · unfold State.lists
      rw [State.setCtx_regs, putRecord_regs]
      exact h
    · exact lists_bufferEventWith hrz ha _ _ (lists_ringOutsideWith hrz ha _ _ h)
  · exact lists_bufferEventWith hrz ha _ _ h

end

variable (ha : a < aAudt 0x40)
include ha

theorem lists_raiseN (n : Nat) (e : ERec) (h : s.lists a v) : (raiseN n e s).lists a v := by
  induction n generalizing e s with
  | zero => exact h
  | succ n ih =>
    have delivered (c : Nat) (e : ERec) {t : State} (ht : t.lists a v) : (deliverWith (raiseN n) c e t).lists a v :=
      lists_deliverWith (fun e _ hu => ih e hu) ha c e ht
    rw [raiseN]
    split
    · exact List.foldlRecOn (motive := fun t => State.lists t a v) _ _ h fun _ ht c _ => delivered c e ht
    · exact delivered _ e h

/-- Counting leaves a register listed that lies below the counter and below those of recording. -/
theorem lists_count (hb : a < b) (n : Nat) (h : s.lists a v) : (count b n s).lists a v :=
  lists_countWith (fun e _ ht => lists_raiseN ha 72 e ht) hb n h

end

/-! ### What counting and recording leave of the link -/

theorem Recorded.trepel {k : List Nat} {s t : State} (h : Recorded k s t) : t.trepel = s.trepel := by
  obtain ⟨r, a, c, o, e⟩ := h.frame
  rw [e]

theorem count_trepel (a n : Nat) (s : State) : (count a n s).trepel = s.trepel :=
  (rec_count a n (.inl List.mem_cons_self) (.inl (List.mem_cons_of_mem _ List.mem_cons_self)) (.refl [a, a + 4] s)).1.trepel

/-- A link that serves goes on serving while its events are counted: GCTL_ENABLE is listed, for TRPL_EN is 0 at reset. -/
theorem count_linkServes {s : State} (h : s.linkServes = true) {b : Nat} (hb : 0x10 < b) (n : Nat) : (count b n s).linkServes = true := by
  obtain ⟨hon, hstate⟩ := Bool.and_eq_true_iff.1 h
  have differs : s.reg 0x10 ≠ regReset 0x10 := fun same => by
    unfold State.trplEn State.regBit at hon
    rw [same] at hon
    exact absurd hon (by decide)
  have kept := reg_of_lists (lists_count (by decide) hb n (lists_of_reg_ne differs))
  unfold State.linkServes State.trplEn State.regBit
  rw [kept, count_trepel]
  exact h

/-! ### Flits and their replay (R346) -/

theorem foldl_emit_trepel (l : List Bytes) (s : State) : (l.foldl (fun t f => t.emit (.flit f)) s).trepel = s.trepel :=
  List.foldlRecOn (motive := fun t => State.trepel t = s.trepel) l _ rfl fun _ ht _ _ => ht

theorem replayAll_trepel (s : State) : (replayAll s).trepel = s.trepel := by
  unfold replayAll
  dsimp only
  rw [foldl_emit_trepel, count_trepel]

/-- What a flit must be to be looked at further: 256 bytes, with the CRC that the others give. -/
def flitGood (b : Bytes) : Prop := b.length = 256 ∧ fieldLe b 0xF8 8 = crc64 (sliceB b 0 0xF8)

section
variable {s : State} {b : Bytes} (hup : s.trepel.state = 1) (hon : s.dev ≠ .off)
include hup hon

theorem flitReceived_bad (hbad : ¬ flitGood b) : flitReceived b s = sendAck true s := by
  unfold flitReceived
  dsimp only
  rw [if_neg (not_or.2 ⟨not_not_intro hup, hon⟩), if_pos (Decidable.not_and_iff_not_or_not.1 hbad)]

variable (hgood : flitGood b)
include hgood

theorem flitReceived_good : flitReceived b s =
    if fieldLe b 0 2 / 4096 = 0 then takeAck (fieldLe b 2 2) s
    else if BitVec.ofNat 12 (fieldLe b 0 2) ≠ s.trepel.rxSeq + 1 then sendAck true s
    else sendAck false (takeAck (fieldLe b 2 2) { s with trepel := { s.trepel with rxSeq := BitVec.ofNat 12 (fieldLe b 0 2) } }) := by
  unfold flitReceived
  dsimp only
  rw [if_neg (not_or.2 ⟨not_not_intro hup, hon⟩), if_neg (not_or.2 ⟨not_not_intro hgood.1, not_not_intro hgood.2⟩)]

theorem flitReceived_idle (hidle : fieldLe b 0 2 / 4096 = 0) : flitReceived b s = takeAck (fieldLe b 2 2) s :=
  (flitReceived_good hup hon hgood).trans (if_pos hidle)

variable (hdata : fieldLe b 0 2 / 4096 ≠ 0)
include hdata

theorem flitReceived_outOfSequence (hseq : BitVec.ofNat 12 (fieldLe b 0 2) ≠ s.trepel.rxSeq + 1) : flitReceived b s = sendAck true s :=
  (flitReceived_good hup hon hgood).trans ((if_neg hdata).trans (if_pos hseq))

theorem flitReceived_inSequence (hseq : BitVec.ofNat 12 (fieldLe b 0 2) = s.trepel.rxSeq + 1) : flitReceived b s =
    sendAck false (takeAck (fieldLe b 2 2) { s with trepel := { s.trepel with rxSeq := BitVec.ofNat 12 (fieldLe b 0 2) } }) :=
  (flitReceived_good hup hon hgood).trans ((if_neg hdata).trans (if_neg (not_not_intro hseq)))

end

/-- The state after one more replay without progress. -/
def replayedAgain (s : State) : State := replayAll { s with trepel := { s.trepel with replays := s.trepel.replays + 1 } }

/-- The sixteenth replay without progress starts a retrain. -/
theorem replayTimeout_replays {s : State} (hup : s.trepel.state = 1) (hheld : s.replayFlits ≠ []) :
    replayTimeout s = if 15 ≤ s.trepel.replays then startRetrain (replayedAgain s) else replayedAgain s := by
  have counted : 16 ≤ (replayedAgain s).trepel.replays ↔ 15 ≤ s.trepel.replays := by
    unfold replayedAgain
    rw [replayAll_trepel]
    exact Nat.succ_le_succ_iff
  unfold replayTimeout replayOnce
  rw [if_pos hup, if_neg (mt List.isEmpty_iff.1 hheld)]
  exact ite_congr (propext counted) (fun _ => rfl) fun _ => rfl

/-! ### Training and outage (R345, R347) -/

theorem setLink_state (x : BitVec 2) (s : State) : (setLink x s).trepel.state = x := by
  unfold setLink
  split
  · next same => exact same
  · rw [(rec_auditState 9 6 0 s.trepel.state.toNat x.toNat (.refl [] _)).1.trepel]

theorem startRetrain_down {s : State} (h : s.trepel.state = 3) : (startRetrain s).trepel.state = 3 := by
  unfold startRetrain
  dsimp only
  rw [if_pos h, count_trepel]
  exact h

theorem linkDown_state {s : State} (h : s.trepel.state = 2 ∨ s.trepel.state = 3) : (linkDown s).trepel.state = 3 := by
  unfold linkDown
  rw [if_pos h]
  exact startRetrain_down (setLink_state 3 s)

/-- The state with the width that trained. -/
def State.trained (s : State) (fail : BitVec 16) (w : BitVec 2) : State := { s with trepel := { s.trepel with laneFail := fail, width := w } }

/-- A retrain that ends with a width: what is not acknowledged is replayed, and what waited for the link is written. -/
theorem retrainDone_trains {s : State} {fail : BitVec 16} {w : BitVec 2} (hdown : s.trepel.state ≠ 1) (hon : s.dev ≠ .off)
    (htrains : trainTrepel fail s.linkCap = some w) : retrainDone fail s = flushAll (replayAll (setLink 1 (s.trained fail w))) := by
  unfold retrainDone
  dsimp only
  rw [if_neg (not_or.2 ⟨hdown, hon⟩), htrains]
  rfl

/-- With failures on the upper lanes alone the link trains at x8, where it may. -/
theorem trainTrepel_half {fail : BitVec 16} {cap : Nat} (hcap : cap ≤ 1) (hfail : fail ≠ 0) (hlow : fail.toNat % 256 = 0) :
    trainTrepel fail cap = some 1 :=
  (if_neg fun full => hfail full.2).trans (if_pos ⟨hcap, hlow⟩)

/-! ### Snoops (R349, R350) -/

/-- The cache after a SNOOP of a line. -/
def snoopedCache (line : Nat) (inv : Bool) (m : NMap CacheLine) : NMap CacheLine :=
  match NMap.find? m line with
  | none => m
  | some x => if inv then NMap.erase m line else NMap.insert m line { x with modified := false, exclusive := false }

/-- The data that answers a SNOOP: the line's, if it is Modified here. -/
def snoopedData : Option CacheLine → Bytes
  | some x => if x.modified then x.data else []
  | none => []

section
variable {m : NMap CacheLine} (h : NMap.rising 0 m = true) (line : Nat)
include h

/-- An invalidating SNOOP takes the line out. -/
theorem snoopedCache_invalidated : NMap.find? (snoopedCache line true m) line = none := by
  unfold snoopedCache
  split
  · next absent => exact absent
  · exact NMap.find?_erase_self h line

theorem snoopedCache_other (inv : Bool) {a : Nat} (ha : a ≠ line) : NMap.find? (snoopedCache line inv m) a = NMap.find? m a := by
  unfold snoopedCache
  split
  · rfl
  · split
    · exact NMap.find?_erase_other h ha
    · exact NMap.find?_insert_other h ha _

end

/-- Any other SNOOP leaves the line Shared. -/
theorem snoopedCache_shared (line : Nat) (m : NMap CacheLine) : NMap.find? (snoopedCache line false m) line =
    (NMap.find? m line).map fun x => { x with modified := false, exclusive := false } := by
  unfold snoopedCache
  split
  · next absent => rw [absent]; rfl
  · next x held => rw [held]; exact NMap.find?_insert_self m line _

/-- A SNOOP of a line that no ring watches is answered, and changes the cache alone. -/
theorem snoop_unwatched {s : State} (hserves : s.linkServes = true) {line : Nat} {inv : Bool} (hfree : inv = true → s.watchers line = []) :
    snoop line inv s =
      { s.emit (.link 0x05 0 0 (BitVec.ofNat 64 line) (snoopedData (NMap.find? s.trepel.cache line))) with
        trepel := { s.trepel with cache := snoopedCache line inv s.trepel.cache } } := by
  unfold snoop
  rw [if_neg (not_not_intro hserves)]
  cases inv with
  | false => rfl
  | true =>
    have woken (f : State → Nat → State) (t : State) : ((s.watchers line).filter fun i => decide (i < 512)).foldl f t = t := by
      rw [hfree rfl]
      rfl
    exact woken _ _

theorem count_watchers (a n line : Nat) (s : State) : (count a n s).watchers line = s.watchers line := by
  unfold State.watchers
  rw [count_trepel]

/-- SNOOP of an aligned line that no ring watches: counted, answered, and the cache alone changed. -/
theorem execSnoop_unwatched {s : State} {line : Dword} {inv : Bool} (hserves : s.linkServes = true) (haligned : line.toNat % 64 = 0)
    (hfree : inv = true → s.watchers line.toNat = []) : execSnoop line inv s =
      .next { (count (aTrpl 0x18) 1 s).emit (.link 0x05 0 0 line (snoopedData (NMap.find? s.trepel.cache line.toNat))) with
        trepel := { s.trepel with cache := snoopedCache line.toNat inv s.trepel.cache } } := by
  have answered := snoop_unwatched (count_linkServes hserves (b := aTrpl 0x18) (by decide) 1) (line := line.toNat) (inv := inv)
    fun h => (count_watchers _ _ _ s).trans (hfree h)
  rw [count_trepel, BitVec.ofNat_toNat, BitVec.setWidth_eq] at answered
  unfold execSnoop
  rw [if_pos hserves, Nat.div_mul_cancel (Nat.dvd_of_mod_eq_zero haligned), answered]

/-- Settles O35: a flit by its CRC and its number, the link by its state, and a SNOOP by what it makes of the cache. -/
theorem linkFlits : Obligations.LinkFlits := by
  refine ⟨fun s b fail hon => ?link, fun s line inv hserves haligned hfree _ hrise => ?snoop⟩
  case link =>
    exact ⟨fun hup hbad => congrArg Host.Outcome.next (flitReceived_bad hup hon hbad),
      fun hup hgood hidle => congrArg Host.Outcome.next (flitReceived_idle hup hon hgood hidle),
      fun hup hgood hdata hseq => congrArg Host.Outcome.next (flitReceived_outOfSequence hup hon hgood hdata hseq),
      fun hup hgood hdata hseq => congrArg Host.Outcome.next (flitReceived_inSequence hup hon hgood hdata hseq),
      fun hup hheld => congrArg Host.Outcome.next (replayTimeout_replays hup hheld),
      fun hdown w htrains => congrArg Host.Outcome.next (retrainDone_trains hdown hon htrains),
      fun hdown => ⟨_, rfl, linkDown_state hdown⟩, rfl, fun cap hcap hfail hlow => trainTrepel_half hcap hfail hlow⟩
  case snoop =>
    refine ⟨_, execSnoop_unwatched hserves haligned hfree, rfl, ?invalidated, ?shared, fun a ha => snoopedCache_other hrise _ inv ha, rfl⟩
    case invalidated =>
      rintro rfl
      exact snoopedCache_invalidated hrise _
    case shared =>
      rintro rfl
      exact snoopedCache_shared _ _

end Sys2Proof.Machine
end

section
/-! PROOFS. The vote word (R376, R379): a tree's words combine to one reduced word in any order, and what a reduced word decides. -/

namespace Sys2Proof.Machine

/-! ### Combining two words (R376) -/

/-- STEP_MIN of a vote word. -/
def stepMin (w : Dword) : Nat := w.toNat / 2 ^ 32

theorem toNat_shift_stepMin (w : Dword) : (w >>> 32).toNat = stepMin w := by
  rw [BitVec.toNat_ushiftRight, Nat.shiftRight_eq_div_pow, stepMin]

theorem shift_eq_iff_stepMin (a b : Dword) : a >>> 32 = b >>> 32 ↔ stepMin a = stepMin b := by
  rw [← BitVec.toNat_inj, toNat_shift_stepMin, toNat_shift_stepMin]

theorem getLsbD_orBit (w : Dword) {i : Nat} (hi : i < 64) (b : Bool) (j : Nat) :
    (orBit w i b).getLsbD j = (w.getLsbD j || (b && decide (i = j))) := by
  have one : ((1 : Dword) <<< i).getLsbD j = decide (i = j) := by
    change (BitVec.twoPow 64 i).getLsbD j = _
    rw [BitVec.getLsbD_twoPow, decide_eq_true hi, Bool.true_and]
  cases b with
  | false => rw [orBit, if_neg Bool.false_ne_true, Bool.false_and, Bool.or_false]
  | true => rw [orBit, if_pos rfl, BitVec.getLsbD_or, one, Bool.true_and]

/-- The flags lie in the low half of a vote word. -/
theorem getLsbD_flagMask (i : Nat) : (0xFFFFFFFF : Dword).getLsbD i = decide (i < 32) :=
  Nat.testBit_two_pow_sub_one 32 i

/-- A flag of the combined word is set in one of the two, and STEP_MISMATCH also where their steps differ. -/
theorem voteCombine_flag_iff (a b : Dword) {i : Nat} (hi : i < 32) :
    (voteCombine a b).getLsbD i = true ↔
      (a.getLsbD i = true ∨ b.getLsbD i = true) ∨ (stepMin a ≠ stepMin b ∧ vStepMismatch = i) := by
  unfold voteCombine
  rw [getLsbD_orBit _ (by decide), BitVec.getLsbD_or, BitVec.getLsbD_and, getLsbD_flagMask, BitVec.getLsbD_shiftLeft, decide_eq_true hi,
    BitVec.getLsbD_or, Bool.not_true, Bool.and_false, Bool.false_and, Bool.or_false, Bool.and_true, Bool.or_eq_true, Bool.or_eq_true,
    Bool.and_eq_true, decide_eq_true_iff, decide_eq_true_iff, ne_eq, shift_eq_iff_stepMin]

/-- A step placed above the flags reads back, whatever the flags are. -/
theorem placedStep_shift (flags x : Dword) (m : Bool) :
    orBit ((flags &&& (0xFFFFFFFF : Dword)) ||| (x >>> 32) <<< 32) vStepMismatch m >>> 32 = x >>> 32 := by
  refine BitVec.eq_of_getLsbD_eq fun i _ => ?_
  have above : ¬ 32 + i < 32 := Nat.not_lt.2 (Nat.le_add_right 32 i)
  have other : ¬ vStepMismatch = 32 + i := by unfold vStepMismatch; omega
  rw [BitVec.getLsbD_ushiftRight, BitVec.getLsbD_ushiftRight, getLsbD_orBit _ (by decide), BitVec.getLsbD_or, BitVec.getLsbD_and,
    getLsbD_flagMask, BitVec.getLsbD_shiftLeft, BitVec.getLsbD_ushiftRight, Nat.add_sub_cancel_left, decide_eq_false above,
    decide_eq_false other, Bool.and_false, Bool.and_false, Bool.false_or, Bool.or_false, Bool.not_false, Bool.and_true]
  by_cases hi : 32 + i < 64
  · rw [decide_eq_true hi, Bool.true_and]
  · rw [decide_eq_false hi, Bool.false_and, BitVec.getLsbD_of_ge _ _ (Nat.le_of_not_lt hi)]

/-- STEP_MIN of two words combined is the lesser of their steps. -/
theorem stepMin_voteCombine (a b : Dword) : stepMin (voteCombine a b) = min (stepMin a) (stepMin b) := by
  have le : a >>> 32 ≤ b >>> 32 ↔ stepMin a ≤ stepMin b := by
    rw [BitVec.le_def, toNat_shift_stepMin, toNat_shift_stepMin]
  unfold voteCombine
  dsimp only
  by_cases h : stepMin a ≤ stepMin b
  · rw [if_pos (le.2 h), ← toNat_shift_stepMin, placedStep_shift, toNat_shift_stepMin, Nat.min_eq_left h]
  · rw [if_neg (mt le.1 h), ← toNat_shift_stepMin, placedStep_shift, toNat_shift_stepMin, Nat.min_eq_right (Nat.le_of_not_le h)]

/-- A vote word is its flags and its step. -/
theorem voteWord_ext {a b : Dword} (hflags : ∀ i, i < 32 → (a.getLsbD i = true ↔ b.getLsbD i = true)) (hstep : stepMin a = stepMin b) :
    a = b := by
  refine BitVec.eq_of_getLsbD_eq fun i _ => ?_
  by_cases hi : i < 32
  · exact Bool.eq_iff_iff.2 (hflags i hi)
  · have bit := congrArg (fun w : Dword => w.getLsbD (i - 32)) ((shift_eq_iff_stepMin a b).2 hstep)
    rwa [BitVec.getLsbD_ushiftRight, BitVec.getLsbD_ushiftRight, Nat.add_sub_cancel' (Nat.le_of_not_lt hi)] at bit

/-- A flag of three words combined is set in one of them, and STEP_MISMATCH also where two of their steps differ. -/
theorem voteCombine_flag_three_iff (w a b : Dword) {i : Nat} (hi : i < 32) :
    (voteCombine (voteCombine w a) b).getLsbD i = true ↔
      (w.getLsbD i = true ∨ a.getLsbD i = true ∨ b.getLsbD i = true) ∨
        ((stepMin w ≠ stepMin a ∨ stepMin w ≠ stepMin b) ∧ vStepMismatch = i) := by
  have differ : (stepMin w ≠ stepMin a ∨ stepMin w ≠ stepMin b) ↔
      (stepMin w ≠ stepMin a ∨ min (stepMin w) (stepMin a) ≠ stepMin b) := by omega
  rw [voteCombine_flag_iff _ _ hi, voteCombine_flag_iff _ _ hi, stepMin_voteCombine, differ, or_and_right, or_right_comm (c := b.getLsbD i = true),
    or_assoc (a := w.getLsbD i = true), or_assoc]

/-- Two words may be combined into a third in either order. -/
theorem voteCombine_right_comm (w a b : Dword) : voteCombine (voteCombine w a) b = voteCombine (voteCombine w b) a := by
  refine voteWord_ext (fun i hi => ?_) ?_
  · rw [voteCombine_flag_three_iff _ _ _ hi, voteCombine_flag_three_iff _ _ _ hi, or_comm (a := a.getLsbD i = true),
      or_comm (a := stepMin w ≠ stepMin a)]
  · rw [stepMin_voteCombine, stepMin_voteCombine, stepMin_voteCombine, stepMin_voteCombine, Nat.min_right_comm]

/-! ### The reduced word of a tree -/

/-- A flag other than STEP_MISMATCH is the OR of all. -/
theorem foldl_voteCombine_flag {i : Nat} (hi : i < 32) (hne : i ≠ vStepMismatch) (ws : List Dword) (w : Dword) :
    (ws.foldl voteCombine w).getLsbD i = (w :: ws).any fun x => x.getLsbD i := by
  induction ws generalizing w with
  | nil => simp
  | cons v vs ih =>
    have both : (voteCombine w v).getLsbD i = (w.getLsbD i || v.getLsbD i) := by
      rw [Bool.eq_iff_iff, voteCombine_flag_iff w v hi, Bool.or_eq_true, or_iff_left fun h => hne h.2.symm]
    rw [List.foldl_cons, ih, List.any_cons, List.any_cons, List.any_cons, both, Bool.or_assoc]

/-- STEP_MISMATCH is set where a word sets it, or is of another step than the first. -/
theorem foldl_voteCombine_mismatch (ws : List Dword) (w : Dword) :
    (ws.foldl voteCombine w).getLsbD vStepMismatch = true ↔
      (∃ x ∈ w :: ws, x.getLsbD vStepMismatch = true) ∨ ∃ x ∈ ws, stepMin x ≠ stepMin w := by
  induction ws generalizing w with
  | nil => simp
  | cons v vs ih =>
    rw [List.foldl_cons, ih, stepMin_voteCombine]
    simp only [List.mem_cons, exists_eq_or_imp, voteCombine_flag_iff w v (show vStepMismatch < 32 by decide), and_true]
    by_cases hstep : stepMin w = stepMin v
    · simp only [hstep, Nat.min_self, ne_eq, not_true_eq_false, or_false, false_or, or_assoc]
    · simp only [ne_eq, hstep, Ne.symm hstep, not_false_eq_true, true_or, or_true]

theorem foldl_voteCombine_stepMin_mem (ws : List Dword) (w : Dword) : ∃ x ∈ w :: ws, stepMin (ws.foldl voteCombine w) = stepMin x := by
  induction ws generalizing w with
  | nil => exact ⟨w, List.mem_singleton_self w, rfl⟩
  | cons v vs ih =>
    obtain ⟨x, hx, he⟩ := ih (voteCombine w v)
    rcases List.mem_cons.1 hx with rfl | hx
    · rw [stepMin_voteCombine] at he
      rcases Nat.le_total (stepMin w) (stepMin v) with h | h
      · exact ⟨w, List.mem_cons_self, he.trans (Nat.min_eq_left h)⟩
      · exact ⟨v, List.mem_cons_of_mem _ List.mem_cons_self, he.trans (Nat.min_eq_right h)⟩
    · exact ⟨x, List.mem_cons_of_mem _ (List.mem_cons_of_mem _ hx), he⟩

theorem foldl_voteCombine_stepMin_le (ws : List Dword) (w : Dword) : ∀ x ∈ w :: ws, stepMin (ws.foldl voteCombine w) ≤ stepMin x := by
  induction ws generalizing w with
  | nil => exact List.forall_mem_singleton.2 (Nat.le_refl _)
  | cons v vs ih =>
    have least := ih (voteCombine w v)
    rw [List.forall_mem_cons, stepMin_voteCombine, Nat.le_min] at least
    exact List.forall_mem_cons.2 ⟨least.1.1, List.forall_mem_cons.2 ⟨least.1.2, least.2⟩⟩

/-- Some two words differ in their steps where one differs from the first. -/
theorem steps_differ_iff (ws : List Dword) (w : Dword) :
    (∃ x ∈ w :: ws, ∃ y ∈ w :: ws, stepMin x ≠ stepMin y) ↔ ∃ x ∈ ws, stepMin x ≠ stepMin w := by
  constructor
  · rintro ⟨x, hx, y, hy, hne⟩
    refine Classical.byContradiction fun none => ?_
    have all (z : Dword) (hz : z ∈ w :: ws) : stepMin z = stepMin w := by
      rcases List.mem_cons.1 hz with rfl | hz
      · rfl
      · exact Classical.byContradiction fun other => none ⟨z, hz, other⟩
    exact hne ((all x hx).trans (all y hy).symm)
  · rintro ⟨x, hx, hne⟩
    exact ⟨x, List.mem_cons_of_mem _ hx, w, List.mem_cons_self, hne⟩

/-- Settles O44: the reduced word is the same in any order since two words may change places, and each of its fields is found by induction on
the words. -/
theorem votesCombineInAnyOrder : Obligations.VotesCombineInAnyOrder := by
  intro w ws vs perm all r
  exact ⟨(perm.foldl_eq' (fun a _ b _ x => voteCombine_right_comm x a b) w).symm, fun i hi hne => foldl_voteCombine_flag hi hne ws w,
    (foldl_voteCombine_mismatch ws w).trans (or_congr_right (steps_differ_iff ws w).symm),
    foldl_voteCombine_stepMin_mem ws w, foldl_voteCombine_stepMin_le ws w⟩

/-! ### What a reduced word decides (R379) -/

/-- The flags of the table's first row, and those of a numeric failure. -/
def voteHolds (w : Dword) : Bool :=
  w.getLsbD 0 || w.getLsbD 3 || w.getLsbD 4 || w.getLsbD 5 || w.getLsbD 6 || w.getLsbD 7 || w.getLsbD 8

def voteNumeric (w : Dword) : Bool := w.getLsbD vNonfinite || w.getLsbD vSaturated

theorem voteHolds_iff (w : Dword) : voteHolds w = true ↔ ∃ i, (i = 0 ∨ (3 ≤ i ∧ i ≤ 8)) ∧ w.getLsbD i = true := by
  constructor
  · intro h
    simp only [voteHolds, Bool.or_eq_true, or_assoc] at h
    rcases h with h | h | h | h | h | h | h <;> exact ⟨_, by omega, h⟩
  · rintro ⟨i, rfl | ⟨hlo, hhi⟩, h⟩
    · simp only [voteHolds, h, Bool.true_or]
    · have listed : i = 3 ∨ i = 4 ∨ i = 5 ∨ i = 6 ∨ i = 7 ∨ i = 8 := by omega
      rcases listed with rfl | rfl | rfl | rfl | rfl | rfl <;> simp only [voteHolds, h, Bool.true_or, Bool.or_true]

theorem voteDecide_holds {w : Dword} (h : voteHolds w = true) : voteDecide w = .abort true := if_pos h

section
variable {w : Dword} (hhold : voteHolds w = false)
include hhold

theorem voteDecide_skipReq (h : w.getLsbD vSkipReq = true) : voteDecide w = .skip :=
  (if_neg (Bool.eq_false_iff.1 hhold)).trans (if_pos h)

variable (hskip : w.getLsbD vSkipReq = false)
include hskip

/-- A word that neither holds nor skips is decided by its numeric failure and the tries that are left. -/
theorem voteDecide_rest : voteDecide w =
    if voteNumeric w && w.getLsbD vTriesExhausted && w.getLsbD vHalt then .abort true
    else if voteNumeric w && w.getLsbD vTriesExhausted then .skip
    else if voteNumeric w then .abort false
    else .commit :=
  (if_neg (Bool.eq_false_iff.1 hhold)).trans (if_neg (Bool.eq_false_iff.1 hskip))

end

/-- Settles O45: the rows of the table from the first, by the flags that each asks for. -/
theorem reducedWordDecides : Obligations.ReducedWordDecides := by
  intro w bit hold numeric
  have holds : hold ↔ voteHolds w = true := (voteHolds_iff w).symm
  have numerics : numeric ↔ voteNumeric w = true := (iff_of_eq (Bool.or_eq_true _ _)).symm
  rw [holds, numerics, Bool.not_eq_true, Bool.not_eq_true]
  refine ⟨voteDecide_holds, voteDecide_skipReq, fun hh hs hn ht hH => ?_, fun hh hs hn ht hH => ?_, fun hh hs hn ht => ?_, fun hh hs hn => ?_⟩
  · rw [voteDecide_rest hh hs]
    simp [hn, show w.getLsbD vTriesExhausted = true from ht, show w.getLsbD vHalt = true from hH]
  · rw [voteDecide_rest hh hs]
    simp [hn, show w.getLsbD vTriesExhausted = true from ht, show w.getLsbD vHalt = false from hH]
  · rw [voteDecide_rest hh hs]
    simp [hn, show w.getLsbD vTriesExhausted = false from ht]
  · rw [voteDecide_rest hh hs]
    simp [hn]

end Sys2Proof.Machine
end

section
/-! PROOFS. Checkpoints (R386 to R397): WRITE and RESTORE as tasks, the layers of a WRITE, and DETACHED. -/

namespace Sys2Proof.Machine

/-! ### The task of a command -/

theorem task?_ref {s : State} {r : TaskRef} {t : Task} (h : s.task? r = some t) : t.ref = r := by
  have listed : t ∈ (s.ctx r.ctx).tasks.filter fun u => decide (u.ref = r) := by
    unfold State.task? Ctx.task? at h
    dsimp only at h
    split at h
    · next u found => exact Option.some.inj h ▸ List.mem_of_find?_eq_some found
    · exact List.mem_of_getLast? h
  exact of_decide_eq_true (List.mem_filter.1 listed).2

/-- An issued task of the descriptors that the command runs is run where its context is active, and does not wait. -/
theorem runTask_runs {s : State} {r : TaskRef} {t0 : Task} (htask : s.task? r = some t0) (hst : t0.st = .issued)
    (hactive : (s.ctx r.ctx).st.isActive = true) {sel : Desc → Bool} (hsel : sel t0.d = true) (body : Task → Run RunOut) :
    runTask r sel body s = waitLeft r.ctx.val ((s.ctx r.ctx).noteVers t0)
      ((((body ((s.ctx r.ctx).noteVers t0)).run s).1.map some), ((body ((s.ctx r.ctx).noteVers t0)).run s).2) := by
  have runs : ¬ (t0.st ≠ .issued ∨ sel t0.d = false ∨ (s.ctx r.ctx).st.isActive = false) := by
    simp [hst, hsel, hactive]
  unfold runTask
  rw [htask]
  dsimp only
  rw [if_neg runs]
  rcases (body ((s.ctx r.ctx).noteVers t0)).run s with ⟨e | o, u⟩
  · rfl
  · rfl

/-! ### CHECKPOINT WRITE (R386 to R388) -/

theorem run_getS_bind {α : Type} (f : State → Run α) (s : State) : (getS >>= f).run s = (f s).run s := rfl

theorem run_bind_of_ok {α β : Type} {m : Run α} {s u : State} {a : α} (h : m.run s = (.ok a, u)) (f : α → Run β) :
    (m >>= f).run s = (f a).run u := by
  change (ExceptT.bindCont (m := StateM State) f (m.run s).1) (m.run s).2 = _
  rw [h]
  rfl

/-- The run of a WRITE as it has captured its image: its layers wait to be started. -/
def capturedRun (t : Task) (layers : BitVec 3) (image : Bytes) (tainted : Bool) (u : State) : CkpRun :=
  { task := t.ref, step := u.reg64 (aRngs t.ref.ctx 0x20), image := image, tainted := tainted, correlated := u.correlated,
    addr := BitVec.ofNat 64 (fieldLe t.d.params 8 8), waiting := [layers.toNat + 16], redirected := false, l2Bad := false, l3Sent := false,
    status := stOk }

/-- The run of a checkpoint stays as it is while its task changes. -/
theorem setTask_ckp {u : State} (hkeys : u.keysRise = true) (x : Ctx) (t : Task) :
    (((u.setCtx t.ref.ctx x).setTask t).ctx t.ref.ctx).ckp = x.ckp := by
  unfold State.setTask
  rw [State.ctx_setCtx ((State_setCtx_keeps _ x (.refl true u)).keys hkeys), if_pos rfl, State.ctx_setCtx hkeys, if_pos rfl]
  rfl

section
variable {env : Env} {t : Task} (hst : t.st ≠ .waiting) {s : State}
include hst

/-- A WRITE that names no layer ends without an image. -/
theorem ckpWriteBody_noLayer (hnone : (s.ctx t.ref.ctx).ckpLayers t.d.params = 0) :
    (ckpWriteBody env t).run s = (.ok (some { res := Result.empty, undo := [] }), s) := by
  unfold ckpWriteBody
  rw [if_neg hst, run_getS_bind]
  dsimp only
  rw [if_pos hnone]
  rfl

/-- One that names layers captures the image and waits. -/
theorem ckpWriteBody_captures (hlayers : (s.ctx t.ref.ctx).ckpLayers t.d.params ≠ 0) {image : Bytes} {tainted : Bool} {u : State}
    (himage : (ckpImage env t.who ((fieldLe t.d.params 2 1).testBit 0) false).run s = (.ok (image, tainted), u)) :
    (ckpWriteBody env t).run s = (.ok none, u.setCtx t.ref.ctx
      { u.ctx t.ref.ctx with ckp := some (capturedRun t ((s.ctx t.ref.ctx).ckpLayers t.d.params) image tainted u) }) := by
  unfold ckpWriteBody
  rw [if_neg hst, run_getS_bind]
  dsimp only
  rw [if_neg hlayers, run_bind_of_ok himage]
  rfl

/-- The context then holds that run. -/
theorem ckpWrite_held (hlayers : (s.ctx t.ref.ctx).ckpLayers t.d.params ≠ 0) {image : Bytes} {tainted : Bool} {u : State}
    (himage : (ckpImage env t.who ((fieldLe t.d.params 2 1).testBit 0) false).run s = (.ok (image, tainted), u))
    (hkeys : u.keysRise = true) (c : Nat) : ((waitLeft c t ((ckpWriteBody env t).run s)).ctx t.ref.ctx).ckp =
      some (capturedRun t ((s.ctx t.ref.ctx).ckpLayers t.d.params) image tainted u) := by
  rw [ckpWriteBody_captures hst hlayers himage]
  exact setTask_ckp hkeys _ { t with st := .waiting }

end

/-- A free WRITE runs as a task that may wait, and then its layers start. -/
theorem ckpWrite_runs {s : State} {r : TaskRef} {t0 : Task} (hfree : (s.ctx r.ctx).ckpBusy = false) (htask : s.task? r = some t0)
    (hst : t0.st = .issued) (hactive : (s.ctx r.ctx).st.isActive = true) (hsel : isCkp 1 t0.d = true) (env : Env) :
    ckpWrite r env s = ckpBegin r.ctx
      (waitLeft r.ctx.val ((s.ctx r.ctx).noteVers t0) ((ckpWriteBody env ((s.ctx r.ctx).noteVers t0)).run s)) :=
  (if_neg (Bool.eq_false_iff.1 hfree)).trans (congrArg (ckpBegin r.ctx) (runWait_runs htask (.inl hst) hactive hsel _))

/-! ### CKP_LAYER_DURABLE (R390, R391) -/

/-- Each layer that the run of the task waits for is decided on its own. -/
theorem ckpDurable_run {s : State} {r : TaskRef} {k : CkpRun} (hrun : (s.ctx r.ctx).ckp = some k) (htask : k.task = r) (layer : Nat)
    (ok : Bool) (ms : Word) : ckpDurable r layer ok ms s =
      if layer = 1 ∧ k.waiting.contains 1 then cadRefresh (ckpAdvance r.ctx (ckpDone1 r.ctx k ok ms s))
      else if layer = 2 ∧ (k.waiting.contains 2 ∨ k.waiting.contains 4) then cadRefresh (ckpAdvance r.ctx (ckpDone2 r.ctx k ok ms s))
      else if layer = 3 ∧ k.waiting.contains 3 then cadRefresh (ckpAdvance r.ctx (ckpDone3 r.ctx k ok ms s))
      else s := by
  unfold ckpDurable
  dsimp only
  rw [hrun]
  exact if_neg (not_not_intro htask)

/-! ### DETACH_CONFIRMED (R397) -/

theorem setDev_prev {d : DevState} {s : State} (h : s.dev ≠ d) : (setDev d s).prev = s.dev := by
  unfold setDev
  rw [if_neg h]
  exact ((smbAlert_keeps 0 (auditState_keeps 1 1 0 s.dev.code d.code (Keeps.refl true _))).still rfl).2

theorem detachConfirmed_fenced {s : State} (hdev : s.dev = .fenced) (hdetach : s.faults.drainDetach = true) :
    detachConfirmed s = setDev .detached s := if_pos ⟨hdev, hdetach⟩

/-! ### The commands -/

theorem isCkp_of {d : Desc} {mode : Nat} (hkind : d.kind = kCheckpoint) (hmode : fieldLe d.params 0 1 = mode) : isCkp mode d = true := by
  rw [isCkp, decide_eq_true hkind, decide_eq_true hmode, Bool.and_self]

/-- Settles O47: the CHECKPOINTs by the run of their task, each layer by its own decision, DETACHED by the state it follows. -/
theorem checkpointCommands : Obligations.CheckpointCommands := by
  intro s r env t0 image found readable ok ms k c t mode free ends durable
  have left (x : Except RunStop RunOut × State) : waitLeft c t (x.1.map some, x.2) = ends x := by
    obtain ⟨e | o, u⟩ := x
    · rfl
    · rfl
  have restores (hfree : free) (hmode : mode = 2) {p : Desc → Bool} (hsource : p t0.d = true) (body : Task → Run RunOut) :
      (if (s.ctx r.ctx).ckpBusy then s else runTask r (fun d => isCkp 2 d && p d) body s) = ends ((body t).run s) := by
    obtain ⟨htask, hst, hactive, hkind, hidle⟩ := hfree
    have hsel : (isCkp 2 t0.d && p t0.d) = true := by rw [isCkp_of hkind hmode, hsource, Bool.and_self]
    exact (if_neg (Bool.eq_false_iff.1 hidle)).trans ((runTask_runs htask hst hactive hsel body).trans (left _))
  have writes (hfree : free) (hmode : mode = 1) :
      ckpWrite r env s = ckpBegin c (waitLeft c t ((ckpWriteBody env t).run s)) ∧ t.st ≠ .waiting ∧ t.ref = r := by
    obtain ⟨htask, hst, hactive, hkind, hidle⟩ := hfree
    have issued : t.st = .issued := hst
    exact ⟨ckpWrite_runs hidle htask hst hactive (isCkp_of hkind hmode) env, by rw [issued]; decide, task?_ref (t := t0) htask⟩
  refine ⟨fun hbusy => ⟨congrArg Host.Outcome.next (if_pos hbusy), congrArg Host.Outcome.next (if_pos hbusy),
      congrArg Host.Outcome.next (if_pos hbusy)⟩,
    fun hfree hmode hnone => congrArg Host.Outcome.next ?noLayer, fun im tainted u hfree hmode hlayers himage => ?captures,
    fun hfree hmode hsource => congrArg Host.Outcome.next (restores hfree hmode (decide_eq_true hsource) _),
    fun hfree hmode hsource => congrArg Host.Outcome.next (restores hfree hmode (decide_eq_true hsource) _),
    fun hrun htask hwaits => congrArg Host.Outcome.next ((ckpDurable_run hrun htask 1 ok ms).trans (if_pos ⟨rfl, hwaits⟩)),
    fun hrun htask hwaits => congrArg Host.Outcome.next ((ckpDurable_run hrun htask 2 ok ms).trans ?layer2),
    fun hrun htask hwaits => congrArg Host.Outcome.next ((ckpDurable_run hrun htask 3 ok ms).trans ?layer3),
    fun hdev hdetach => ?detached⟩
  case noLayer =>
    obtain ⟨hwrite, hst, href⟩ := writes hfree hmode
    refine hwrite.trans ?_
    rw [ckpWriteBody_noLayer hst (by rw [href]; exact hnone)]
    rfl
  case captures =>
    obtain ⟨hwrite, hst, href⟩ := writes hfree hmode
    refine ⟨_, congrArg Host.Outcome.next hwrite, fun _ hkeys => ?_⟩
    have held := ckpWrite_held (env := env) hst (by rw [href]; exact hlayers) himage hkeys c
    rw [href] at held
    refine (congrArg (Option.map fun y => (y.task, y.step, y.image, y.waiting)) held).trans ?_
    rw [Option.map_some, capturedRun, href]
  case layer2 => rw [if_neg (by simp), if_pos ⟨rfl, hwaits⟩]
  case layer3 => rw [if_neg (by simp), if_neg (by simp), if_pos ⟨rfl, hwaits⟩]
  case detached =>
    refine ⟨_, congrArg Host.Outcome.next (detachConfirmed_fenced hdev hdetach), setDev_dev _ _, ?_, rfl⟩
    rw [setDev_prev (by rw [hdev]; decide), hdev]

end Sys2Proof.Machine
end

section
/-! PROOFS. Every command answers a next state, and what it leaves alone (R466, R482); the main rails come up, and power-on reset is
released into a cold start (R417, R486 to R491). -/

namespace Sys2Proof.Machine

/-! ### Commands answer (R466, R482) -/

theorem safe_next (s : State) : Safe (.next s) := ⟨s, rfl⟩

theorem safe_ite {c : Prop} [Decidable c] {a b : Answer} (ha : Safe a) (hb : Safe b) : Safe (if c then a else b) := by
  split
  · exact ha
  · exact hb

/-- Every command answers a next state: those that look up a task first answer it whether or not the task is there. -/
theorem exec_safe (c : Instr) (s : State) : Safe (exec c s) := by
  cases c
  case matmul | matvec | waitCounter | waitTimeout | waitTime =>
    dsimp only [exec, execMatmul, execMatvec, execWaitCounter, execWaitTimeout, execWaitTime]
    split
    · exact safe_next s
    · exact safe_ite (safe_next _) (safe_next _)
  all_goals exact safe_next _

/-- Settles O4: every command answers, and its law says what the answer keeps. -/
theorem commandFrame : Obligations.CommandFrame := fun c s =>
  ⟨exec_safe c s, fun _ e =>
    have kept := exec_keeps (Keeps.refl false s) e
    ⟨kept.pending, kept.part, kept.outputs, kept.fresh⟩⟩

/-! ### The main rails come up (R489, R491) -/

/-- While power-on reset holds OFF shows what the device waits for, and a missing reference is alerted. -/
theorem railsUp_eq (s : State) : railsUp s =
    let shown := setSub s.power.waiting { s with power := { s.power with railsOn := true, pgood := true, porDone := false } }
    if s.power.waiting = .noRefclk then smbAlert 6 shown else shown := rfl

theorem waiting_noRefclk_iff (p : Power) : p.waiting = .noRefclk ↔ (p.refSys && p.refNet) = false := by
  unfold Power.waiting
  cases hclocks : p.refSys && p.refNet with
  | false => simp
  | true =>
    simp only [not_true_eq_false, if_false, Bool.true_eq_false, iff_false]
    split
    · decide
    · decide

/-- What OFF shows, written as R489 lists it. -/
theorem waiting_eq (p : Power) : p.waiting =
    if p.refSys && p.refNet then (if p.resetLow || p.dbgLow || p.heldScan then .heldInReset else .sequencing) else .noRefclk := by
  unfold Power.waiting
  rw [ite_not]

/-- The rails come up showing `sub`, and without both references SMBus is alerted. -/
theorem railsUp_shows {s : State} {clocks : Bool} {sub : SubState} (hclocks : (s.power.refSys && s.power.refNet) = clocks)
    (hsub : s.power.waiting = sub) : railsUp s =
      let shown := setSub sub { s with power := { s.power with railsOn := true, pgood := true, porDone := false } }
      if clocks then shown else smbAlert 6 shown := by
  rw [railsUp_eq, hsub]
  dsimp only
  cases clocks with
  | true => rw [if_neg (fun e => absurd ((waiting_noRefclk_iff _).1 (hsub.trans e)) (by rw [hclocks]; decide))]; rfl
  | false => rw [if_pos (hsub.symm.trans ((waiting_noRefclk_iff _).2 hclocks))]; rfl

/-- Without both references power-on reset is not released. -/
theorem porRelease_noRefclk {s : State} (hclocks : (s.power.refSys && s.power.refNet) = false) (straps : Straps) :
    porRelease straps s = s := by
  refine if_neg fun ⟨_, _, _, hsys, hnet, _⟩ => ?_
  rw [hsys, hnet] at hclocks
  exact absurd hclocks (by decide)

/-- Settles O7: each command brings the rails up under its own condition, and `railsUp_shows` says what that shows. -/
theorem railsComeUp : Obligations.RailsComeUp := by
  intro s hoff clocks held sub shown up
  have comesUp (p : Power) (hsys : p.refSys = s.power.refSys) (hnet : p.refNet = s.power.refNet) (hreset : p.resetLow = s.power.resetLow)
      (hdbg : p.dbgLow = s.power.dbgLow) (hscan : p.heldScan = s.power.heldScan) : railsUp { s with power := p } = up p := by
    refine railsUp_shows (s := { s with power := p }) ?_ ?_
    · change (p.refSys && p.refNet) = _
      rw [hsys, hnet]
    · change p.waiting = _
      rw [waiting_eq, hsys, hnet, hreset, hdbg, hscan]
  refine ⟨fun hstandby hen => congrArg Host.Outcome.next ?standbyUp, fun hstandby hen => congrArg Host.Outcome.next ?standbyWaits,
    fun hen hstandby hlatch => congrArg Host.Outcome.next ?riseUp, fun hen hstays => congrArg Host.Outcome.next ?riseWaits,
    fun hbrown hen hstandby => congrArg Host.Outcome.next ?brownOut, fun hcycle hen hstandby => congrArg Host.Outcome.next ?cycle,
    fun straps hclocks => congrArg Host.Outcome.next (porRelease_noRefclk hclocks straps)⟩
  case standbyUp =>
    refine ((if_neg (Bool.eq_false_iff.1 hstandby)).trans (if_pos hen)).trans ?_
    exact comesUp { s.power with standby := true, sub := .standby } rfl rfl rfl rfl rfl
  case standbyWaits => exact (if_neg (Bool.eq_false_iff.1 hstandby)).trans (if_neg (Bool.eq_false_iff.1 hen))
  case riseUp =>
    refine ((if_neg (Bool.eq_false_iff.1 hen)).trans (if_pos ⟨hstandby, Bool.eq_false_iff.1 hoff, Bool.eq_false_iff.1 hlatch⟩)).trans ?_
    exact comesUp { s.power with pwrEn := true } rfl rfl rfl rfl rfl
  case riseWaits =>
    refine (if_neg (Bool.eq_false_iff.1 hen)).trans (if_neg fun ⟨hstandby, _, hlatch⟩ => ?_)
    exact hstays.elim (fun e => Bool.eq_false_iff.1 e hstandby) hlatch
  case brownOut =>
    refine (if_pos ⟨hbrown, hen, hstandby, Bool.eq_false_iff.1 hoff⟩).trans ?_
    exact comesUp s.power rfl rfl rfl rfl rfl
  case cycle =>
    refine (if_pos ⟨hcycle, hen, hstandby, Bool.eq_false_iff.1 hoff⟩).trans ?_
    exact comesUp s.power rfl rfl rfl rfl rfl

/-! ### Moves of the device state (R37, R38) -/

theorem smbAlert_frame (i : Nat) (s : State) :
    ∃ m b, smbAlert i s = { s with smb := m, power := { s.power with smbAlertLow := b } } := by
  unfold smbAlert
  split
  · exact ⟨_, _, rfl⟩
  · exact ⟨_, _, rfl⟩

/-- The entry of a state's move that finds a slot, with nothing before it in the reserve, changes nothing but the ledger (R460). -/
theorem auditState_slot_frame {s : State} (hr : s.audit.reserve = []) (hf : s.auditFull = false) (b w u old new : Nat) :
    ∃ x, auditState b w u old new s = { s with audit := x } := by
  rw [auditState, auditHw, auditHwWith, if_pos ⟨hr, Bool.eq_false_iff.1 hf⟩]
  exact auditAppend_frame _ s

section
variable {d : DevState} {s : State} (hmoves : s.dev ≠ d)
include hmoves

/-- A move is recorded and alerted; nothing else changes. -/
theorem setDev_frame : ∃ r x c o m b, setDev d s =
    { s with dev := d, prev := s.dev, devSince := s.time, regs := r, audit := x, ctxs := c, outputs := o, smb := m,
             power := { s.power with smbAlertLow := b } } := by
  obtain ⟨r, x, c, o, hrec⟩ := (rec_auditState 1 1 0 s.dev.code d.code
    (Rec.refl [] { s with dev := d, prev := s.dev, devSince := s.time })).1.frame
  obtain ⟨m, b, halert⟩ := smbAlert_frame 0 (auditState 1 1 0 s.dev.code d.code { s with dev := d, prev := s.dev, devSince := s.time })
  unfold setDev
  rw [if_neg hmoves, halert, hrec]
  exact ⟨r, x, c, o, m, b, rfl⟩

/-- Where the ledger has a slot for its entry, registers and contexts stay as they are. -/
theorem setDev_slot_frame (hr : s.audit.reserve = []) (hf : s.auditFull = false) : ∃ x m b, setDev d s =
    { s with dev := d, prev := s.dev, devSince := s.time, audit := x, smb := m, power := { s.power with smbAlertLow := b } } := by
  obtain ⟨x, hx⟩ := auditState_slot_frame (s := { s with dev := d, prev := s.dev, devSince := s.time }) hr hf 1 1 0 s.dev.code d.code
  obtain ⟨m, b, halert⟩ := smbAlert_frame 0 (auditState 1 1 0 s.dev.code d.code { s with dev := d, prev := s.dev, devSince := s.time })
  unfold setDev
  rw [if_neg hmoves, halert, hx]
  exact ⟨x, m, b, rfl⟩

end

/-! ### Power-on reset is released (R417, R489) -/

/-- A register that a reset does not keep reads its reset value after it. -/
theorem reg_clearDevice {s : State} (h : s.regsWf = true) {keepD2 powerOn : Bool} {a : Nat} (hlost : keptReg keepD2 powerOn a = false) :
    (clearDevice keepD2 powerOn s).reg a = regReset a := by
  have rises := NMap.rising_filter (fun e => keptReg keepD2 powerOn e.1) (NMap.wf_iff.1 h).1
  have gone : NMap.find? (s.regs.filter fun e => keptReg keepD2 powerOn e.1) a = none := by
    rw [NMap.find?_eq_none rises]
    intro v hv
    have kept := (List.mem_filter.1 hv).2
    rw [hlost] at kept
    exact absurd kept (by decide)
  change NMap.get regReset (s.regs.filter fun e => keptReg keepD2 powerOn e.1) a = regReset a
  unfold NMap.get
  rw [gone]
  rfl

theorem reg_setCause {s : State} (h : s.regsWf = true) (src : Source) (cold timer esc : Bool) :
    (setCause src cold timer esc s).reg (aRstc 0) = s.reg (aRstc 0) ||| ((1 : Word) <<< src.code) := by
  unfold setCause
  rw [State.reg_setReg (State.regsWf_setReg h _ _), if_neg (by decide), State.reg_setReg h, if_pos rfl]

/-- The device as power-on reset leaves it, before the move to COLD_START. -/
def powerOnCleared (bor : Bool) (straps : Straps) (s : State) : State :=
  let src := if bor then Source.bor else Source.por
  let s2 := setCause src true false false (clearDevice false true { s with mem := [] })
  { s2 with hbm := [], boot := { Boot.reset with source := src, recovery := s.boot.recovery, recoveryTime := s.boot.recoveryTime },
            bndy := { s2.bndy with txClamp := straps.txClamp }, power := { s2.power with straps := straps, porDone := true } }

/-- RSTC_CAUSE shows the source of a power-on reset alone. -/
theorem powerOnCleared_cause {s : State} (h : s.regsWf = true) (bor : Bool) (straps : Straps) :
    (powerOnCleared bor straps s).reg (aRstc 0) = if bor then 2 else 1 := by
  have h0 : ({ s with mem := [] } : State).regsWf = true := h
  have wf : (clearDevice false true { s with mem := [] }).regsWf = true := NMap.wf_filter _ h
  change (setCause (if bor then Source.bor else Source.por) true false false (clearDevice false true { s with mem := [] })).reg (aRstc 0) = _
  rw [reg_setCause wf, reg_clearDevice h0 (by decide)]
  cases bor with
  | false => decide
  | true => decide

/-- Settles O9: power-on reset clears the device, and the move to COLD_START finds an empty ledger. -/
theorem porReleaseStartsCold : Obligations.PorReleaseStartsCold := by
  intro straps s hdev hrails hpgood hpor hsys hnet hreset hdbg hscan
  have released : porRelease straps s =
      let s1 := setDev .coldStart (powerOnCleared s.power.brownOut straps s)
      { s1 with power := { s1.power with brownOut := false, recoveryCycle := false, sub := .standby } } :=
    if_pos ⟨hrails, hpgood, Bool.eq_false_iff.1 hpor, hsys, hnet, Bool.eq_false_iff.1 hreset, Bool.eq_false_iff.1 hdbg,
      Bool.eq_false_iff.1 hscan⟩
  have moves : (powerOnCleared s.power.brownOut straps s).dev ≠ .coldStart := by
    change s.dev ≠ .coldStart
    rw [hdev]
    decide
  obtain ⟨x, m, b, hmove⟩ := setDev_slot_frame moves rfl rfl
  refine ⟨_, congrArg Host.Outcome.next released, ?_⟩
  rw [hmove]
  exact ⟨rfl, hdev, rfl, rfl, rfl, rfl, rfl, rfl, rfl, rfl, rfl, rfl, rfl, rfl, rfl, fun h => powerOnCleared_cause h _ straps, rfl⟩

end Sys2Proof.Machine
end

section
/-! PROOFS. What answers beside the host: the SMBus responder (R494, R495) and the test access port (R496 to R498). -/

namespace Sys2Proof.Machine

/-! ### SMBus records (R495) -/

/-- While the device is not OFF every record is live, and so is one of which no copy is kept. -/
theorem smbAnswer_live {s : State} {cmd : Nat} (h : s.dev ≠ .off ∨ cmd ∉ smbCopied) : s.smbAnswer cmd = s.smbLive cmd := by
  refine if_pos (h.imp (fun hdev hstale => hdev ?_) id)
  exact of_decide_eq_true hstale

/-- In OFF a record comes from its copy where one is kept, RESET_CAUSE with its STALE flag. -/
theorem smbAnswer_copied {s : State} {cmd : Nat} (hoff : s.dev = .off) (hcmd : cmd ∈ smbCopied) :
    s.smbAnswer cmd = match NMap.find? s.smb.copies cmd with
      | none => s.smbLive cmd
      | some b => if cmd = 5 then putB b 2 (leBytes 1 16) else b := by
  have stale : s.smbStale = true := decide_eq_true hoff
  refine if_neg ?_
  rw [stale, not_or, not_not, not_not]
  exact ⟨rfl, hcmd⟩

/-- A record without a STALE flag is its copy in OFF, and live otherwise. -/
theorem smbAnswer_eq (s : State) {cmd : Nat} (hcmd : cmd ∈ smbCopied) (h5 : cmd ≠ 5) :
    s.smbAnswer cmd = if s.dev = .off then (NMap.find? s.smb.copies cmd).getD (s.smbLive cmd) else s.smbLive cmd := by
  by_cases hoff : s.dev = .off
  · rw [smbAnswer_copied hoff hcmd, if_pos hoff]
    cases NMap.find? s.smb.copies cmd with
    | none => rfl
    | some b => exact if_neg h5
  · rw [smbAnswer_live (.inl hoff), if_neg hoff]

/-- RESET_CAUSE shows STALE where it is a copy. -/
theorem smbAnswer_cause (s : State) : s.smbAnswer 5 =
    let b := if s.dev = .off then (NMap.find? s.smb.copies 5).getD s.smbCause else s.smbCause
    if s.dev = .off ∧ (NMap.find? s.smb.copies 5).isSome then putB b 2 (leBytes 1 16) else b := by
  by_cases hoff : s.dev = .off
  · rw [smbAnswer_copied hoff (by decide), if_pos hoff]
    cases NMap.find? s.smb.copies 5 with
    | none => exact (if_neg (fun e => absurd e.2 (by decide))).symm
    | some b => exact (if_pos rfl).trans (if_pos ⟨hoff, rfl⟩).symm
  · rw [smbAnswer_live (.inl hoff), if_neg hoff]
    exact (if_neg fun e => hoff e.1).symm

/-- Bytes of a temperature for each of `n` sensors. -/
theorem flatMap_sensors_length {f : Nat → Bytes} (hf : ∀ i, (f i).length = 1) (n : Nat) : ((List.range n).flatMap f).length = n := by
  rw [List.length_flatMap, List.map_congr_left fun i _ => hf i, List.map_const', List.sum_replicate, List.length_range, smul_eq_mul, Nat.mul_one]

theorem smbTemp_length (s : State) : s.smbTemp.length = 19 := by
  unfold State.smbTemp
  simp only [List.length_append]
  rw [flatMap_sensors_length, flatMap_sensors_length]
  · rfl
  all_goals
    intro i
    split
    · split
      · rfl
      · rfl
    · rfl

/-- Each record has the length of R495's table. -/
theorem smbRecords_length (s : State) :
    [s.smbIdentity, s.smbState, s.smbStart, s.smbHealth, s.smbCause, s.smbTemp, s.smbPower, s.smbRecovery, s.smbAudit].map List.length =
      [28, 8, 16, 8, 4, 19, 10, 12, 32] := by
  simp only [List.map_cons, List.map_nil, smbTemp_length]
  simp only [State.smbIdentity, State.smbState, State.smbStart, State.smbHealth, State.smbCause, State.smbPower, State.smbRecovery,
    State.smbAudit, List.length_append, leBytes_length, sliceB_length]

/-- A bit newly set in ALERT_STATUS pulls SMB_ALERT_N low (R494). -/
theorem smbAlert_raises {s : State} {i : Nat} (hi : i < 8) (hnew : s.smb.alerts.getLsbD i = false) :
    (smbAlert i s).smb.alerts.getLsbD i = true ∧ (smbAlert i s).power.smbAlertLow = true := by
  have bit : ((1 : Byte) <<< i).getLsbD i = true := by
    rw [BitVec.getLsbD_shiftLeft, decide_eq_true hi, Nat.sub_self, decide_eq_false (Nat.lt_irrefl i)]
    rfl
  unfold smbAlert
  rw [if_neg (Bool.eq_false_iff.1 hnew)]
  refine ⟨?_, rfl⟩
  change (s.smb.alerts ||| ((1 : Byte) <<< i)).getLsbD i = true
  rw [BitVec.getLsbD_or, bit, Bool.or_true]

/-- Settles O14: each record by whether it is kept in OFF, ALERT_STATUS and the Alert Response Address by what they clear. -/
theorem smbusReplies : Obligations.SmbusReplies := by
  intro s hstandby reply copy stale
  have replies {cmd : Nat} {b : Bytes} (h : s.smbAnswer cmd = b) : Host.Outcome.next (smbReply cmd s) = reply b := by
    rw [smbReply, if_pos hstandby, h]
  have live {cmd : Nat} (h : cmd ∉ smbCopied) := replies (smbAnswer_live (s := s) (.inr h))
  have copied {cmd : Nat} (h : cmd ∈ smbCopied) (h5 : cmd ≠ 5) := replies (smbAnswer_eq s h h5)
  refine ⟨copied (cmd := 1) (by decide) (by decide), live (cmd := 2) (by decide), live (cmd := 3) (by decide),
    live (cmd := 4) (by decide), replies (smbAnswer_cause s), live (cmd := 6) (by decide), copied (cmd := 7) (by decide) (by decide),
    copied (cmd := 9) (by decide) (by decide), copied (cmd := 10) (by decide) (by decide), smbRecords_length s,
    congrArg Host.Outcome.next (if_pos hstandby), fun hlow => congrArg Host.Outcome.next (if_pos ?_),
    fun hhigh => congrArg Host.Outcome.next (if_neg ?_), fun i hi hnew => smbAlert_raises hi hnew⟩
  · rw [hstandby, hlow]
    rfl
  · rw [hhigh, Bool.and_false]
    decide

/-! ### The test access port (R496 to R498) -/

section
variable {s : State} (hon : s.tapOn = true)
include hon

/-- A boundary-scan instruction loads as itself while MOD_RESET_N holds the device, and else as BYPASS. -/
theorem boundaryScan_loads (code : Byte) :
    boundaryScan code s = loadIr (if s.power.resetLow && (s.power.heldPin || !s.power.porDone) then code else 0xFF) s := by
  unfold boundaryScan
  rw [if_neg (not_not_intro hon)]
  exact (apply_ite (loadIr · s) _ _ _).symm

theorem coreDebug_granted (hcap : s.secu.caps.getLsbD 3 = true) : coreDebug s = loadIr 0x21 s :=
  (if_neg (not_not_intro hon)).trans (if_pos hcap)

theorem coreDebug_refused (hcap : s.secu.caps.getLsbD 3 = false) : coreDebug s = refuseIr 0x21 .coreDebug s :=
  (if_neg (not_not_intro hon)).trans (if_neg (Bool.eq_false_iff.1 hcap))

theorem debugReset_granted (hcap : s.secu.caps.getLsbD 2 = true) (b : Bool) :
    debugReset b s = if b then resetDevice .dbg false false none (loadIr 0x22 s) else loadIr 0x22 s :=
  (if_neg (not_not_intro hon)).trans (if_pos hcap)

theorem debugReset_refused (hcap : s.secu.caps.getLsbD 2 = false) (b : Bool) : debugReset b s = refuseIr 0x22 (.debugReset b) s :=
  (if_neg (not_not_intro hon)).trans (if_neg (Bool.eq_false_iff.1 hcap))

end

/-- A refused instruction that finds the ledger running with a slot loads as BYPASS and is entered. -/
theorem refuseIr_enters {s : State} (hruns : s.auditRuns = true) (hslot : s.auditFull = false) (code : Byte) (c : Instr) :
    refuseIr code c s = auditAppend (refusedIr code) (loadIr 0xFF s) :=
  (if_neg (not_not_intro hruns)).trans (if_neg (Bool.eq_false_iff.1 hslot))

theorem auditRuns_of {s : State} (hpor : s.power.porDone = true) (hheld : s.power.held = false) : s.auditRuns = true := by
  rw [State.auditRuns, hpor, hheld]
  rfl

/-- Settles O15: each instruction by its code and by what grants it. -/
theorem jtagInstructions : Obligations.JtagInstructions := by
  intro s hon held scan refused records
  have scans (code : Byte) : Host.Outcome.next (boundaryScan code s) = scan code :=
    congrArg Host.Outcome.next (boundaryScan_loads hon code)
  have enters (h : records) (code : Byte) (c : Instr) : Host.Outcome.next (refuseIr code c s) = refused code := by
    obtain ⟨hpor, hheld, hslot⟩ := h
    exact congrArg Host.Outcome.next (refuseIr_enters (auditRuns_of hpor hheld) hslot code c)
  refine ⟨congrArg Host.Outcome.next (if_pos hon), congrArg Host.Outcome.next (if_pos hon), congrArg Host.Outcome.next (if_pos hon),
    fun _ => congrArg Host.Outcome.next (if_pos hon), fun hcap => congrArg Host.Outcome.next (coreDebug_granted hon hcap),
    fun hcap => ⟨congrArg Host.Outcome.next (debugReset_granted hon hcap false), congrArg Host.Outcome.next (debugReset_granted hon hcap true)⟩,
    congrArg Host.Outcome.next (if_pos hon), ⟨scans 3, scans 4, scans 5, scans 6, scans 7⟩, fun hrec hcap => ?core, fun hrec hcap b => ?reset,
    fun _ => ⟨rfl, show (1 : Byte).getLsbD 0 = true by decide⟩⟩
  case core => exact (congrArg Host.Outcome.next (coreDebug_refused hon hcap)).trans (enters hrec 0x21 _)
  case reset => exact (congrArg Host.Outcome.next (debugReset_refused hon hcap b)).trans (enters hrec 0x22 _)

end Sys2Proof.Machine
end

section
/-! PROOFS. The reset controller's commands (R417, R418, R433), and the stages of a domain's reset (R420 to R427). -/

namespace Sys2Proof.Machine

/-! ### The reset controller's registers (R417, R418, R433) -/

/-- A write to a register of the reset controller. -/
def rstcWr (p : Path) (off : Nat) (row : RegRow) (v : Word) : RegWr :=
  { path := p, loc := ⟨.rstc, 0, row, 0⟩, addr := aRstc off, val := v.toNat, tok := none }

section
variable {s : State} {p : Path} {v : Word}

/-- A write to one that the controller does not turn away is stored, and acts. -/
theorem write_rstc {off : Nat} {row : RegRow} (hp : Placed (aRstc off) ⟨.rstc, 0, row, 0⟩) (ht : s.Takes p (aRstc off) v) (hcfg : row.cfg = false)
    (hlock : row.lock = 0) (hr : hookRefused (rstcWr p off row v) s = false) (hi : hookIgnored (rstcWr p off row v) s = false) :
    writeReg p (aRstc off) v s = rstcHook (rstcWr p off row v) (s.entered p (aRstc off) v.toNat false) (s.stored p (aRstc off) v) :=
  write_stored ht hp (verdict_applied ht.origin hp.acts hcfg hlock hr hi)

/-- The key restarts the watchdog's time. -/
theorem write_wdtKick (ht : s.Takes p (aRstc 0x1C) 0x5AA5) : writeReg p (aRstc 0x1C) 0x5AA5 s =
    let t := s.stored p (aRstc 0x1C) 0x5AA5
    { t with faults := { t.faults with wdtKick := t.time } } :=
  write_rstc placed_rstcKick ht rfl rfl rfl rfl

/-- SWR_TARGET by its two bits: 1 the management cores alone, 2 cold, others warm (R417). -/
theorem swrTarget_eq (v : Word) : bitsN v.toNat 2 1 = (v.getLsbD 1).toNat + 2 * (v.getLsbD 2).toNat := by
  have h1 : (v.getLsbD 1).toNat = v.toNat / 2 ^ 1 % 2 := Nat.toNat_testBit ..
  have h2 : (v.getLsbD 2).toNat = v.toNat / 2 ^ 2 % 2 := Nat.toNat_testBit ..
  rw [bitsN_eq, h1, h2]
  omega

/-- The software reset that a value with SWR starts. -/
def softwareReset (v : Word) (s : State) : State :=
  if v.getLsbD 1 && !v.getLsbD 2 then mgmtRestart 1 (s.setRegBit (aRstc 0) 4 true)
  else resetDevice .swr (v.getLsbD 2 && !v.getLsbD 1) false none s

/-- The watchdog as WDT_EN starts it. -/
def wdtStarted (s : State) : State := { s.setRegBit (aRstc 0x0C) 3 true with faults := { s.faults with wdtKick := s.time } }

/-- A write of RSTC_CTRL is stored; WDT_EN newly set starts the watchdog, and SWR a software reset. -/
theorem write_rstcCtrl (ht : s.Takes p (aRstc 0x0C) v) : writeReg p (aRstc 0x0C) v s =
    let t := s.stored p (aRstc 0x0C) v
    let on := if v.getLsbD 3 && !s.regBit (aRstc 0x0C) 3 then wdtStarted t else t
    if v.getLsbD 0 then softwareReset v on else on := by
  have before : (s.entered p (aRstc 0x0C) v.toNat false).regBit (aRstc 0x0C) 3 = s.regBit (aRstc 0x0C) 3 := by
    rw [State.regBit, entered_reg]
    rfl
  rw [write_rstc placed_rstcCtrl ht rfl rfl rfl rfl]
  change rstcCtrl _ _ _ = _
  unfold rstcCtrl
  rw [before]
  cases hswr : v.getLsbD 0 with
  | false => exact if_pos (Bool.eq_false_iff.1 hswr)
  | true =>
    refine (if_neg (not_not_intro hswr)).trans ?_
    rw [if_pos rfl]
    change (match bitsN v.toNat 2 1 with | 1 => _ | 2 => _ | _ => _) = _
    rw [swrTarget_eq, softwareReset]
    cases v.getLsbD 1 <;> cases v.getLsbD 2 <;> rfl

/-- WDT_EN starts the watchdog, which may run already. -/
theorem write_wdtEn (ht : s.Takes p (aRstc 0x0C) ((s.reg (aRstc 0x0C) &&& 6) ||| 8)) :
    writeReg p (aRstc 0x0C) ((s.reg (aRstc 0x0C) &&& 6) ||| 8) s =
      let t := s.stored p (aRstc 0x0C) ((s.reg (aRstc 0x0C) &&& 6) ||| 8)
      if s.regBit (aRstc 0x0C) 3 then t else wdtStarted t := by
  have noSwr : ((s.reg (aRstc 0x0C) &&& 6) ||| 8 : Word).getLsbD 0 = false := getLsbD_masked_or (by decide) _ _
  have wdtEn : ((s.reg (aRstc 0x0C) &&& 6) ||| 8 : Word).getLsbD 3 = true := getLsbD_masked_or (by decide) _ _
  rw [write_rstcCtrl ht, noSwr, wdtEn, Bool.true_and]
  dsimp only
  rw [if_neg Bool.false_ne_true]
  cases s.regBit (aRstc 0x0C) 3 with
  | false => rw [Bool.not_false, if_pos rfl, if_neg Bool.false_ne_true]
  | true => rw [Bool.not_true, if_neg Bool.false_ne_true, if_pos rfl]

/-- SWR with a target starts its software reset, and nothing else. -/
theorem write_swr (ht : s.Takes p (aRstc 0x0C) (v ||| 1)) (hwdt : v.getLsbD 3 = false) :
    writeReg p (aRstc 0x0C) (v ||| 1) s = softwareReset v (s.stored p (aRstc 0x0C) (v ||| 1)) := by
  have target (t : State) : softwareReset (v ||| 1) t = softwareReset v t := by
    rw [softwareReset, getLsbD_or_one v (i := 1) (by decide), getLsbD_or_one v (i := 2) (by decide), softwareReset]
  rw [write_rstcCtrl ht, getLsbD_or_one_zero, getLsbD_or_one v (i := 3) (by decide), hwdt]
  dsimp only
  rw [if_pos rfl, Bool.false_and, if_neg Bool.false_ne_true, target]

/-- A domain that RSTC_DOMAIN_REQ takes is reset. -/
theorem write_domainReq {d u : Nat} (ht : s.Takes p (aRstc 0x10) v) (h : domainReq v.toNat = some (d, u)) :
    writeReg p (aRstc 0x10) v s = startReset d u 1 none (s.stored p (aRstc 0x10) v) := by
  have taken : hookIgnored (rstcWr p 0x10 { off := 0x10, w1s := 0x1F07 } v) s = false := by
    change (domainReq v.toNat).isNone = false
    rw [h]
    rfl
  rw [write_rstc placed_rstcReq ht rfl rfl rfl taken]
  change (match domainReq v.toNat with | some (d, u) => startReset d u 1 none (s.stored p (aRstc 0x10) v) | none => _) = _
  rw [h]

end

theorem domainReq_die : ∀ die : Fin 4, domainReq (3 + BitVec.ofNat 32 (256 * die) : Word).toNat = some (3, die.val) := by decide

theorem domainReq_quire : ∀ quire : Fin 32, domainReq (4 + BitVec.ofNat 32 (256 * quire) : Word).toNat = some (4, quire.val) := by decide

/-- Settles O27: each command is a write of its register. -/
theorem resetControllerCommands : Obligations.ResetControllerCommands := by
  intro s p v
  dsimp only
  exact ⟨fun ht => congrArg Host.Outcome.next (write_wdtKick ht), fun ht => congrArg Host.Outcome.next (write_wdtEn ht),
    fun ht hwdt => congrArg Host.Outcome.next (write_swr ht hwdt),
    fun die ht => congrArg Host.Outcome.next (write_domainReq ht (domainReq_die die)),
    fun quire ht => congrArg Host.Outcome.next (write_domainReq ht (domainReq_quire quire))⟩

/-! ### A domain's reset, stage by stage (R420 to R427) -/

section
variable {s : State} {id : Nat} {r : DomReset} (h : s.reset? id = some r)
include h

theorem domainFence_fences (hstage : r.stage = .fence) : domainFence id s =
    putReset { r with stage := .drain } (restartDecisions r.domain r.unit
      (s.activeCtxs.foldl (fun t c => endTasks c (fun k => k.placedIn r.domain r.unit) stDomainReset dNone t) s)) := by
  unfold domainFence
  rw [h]
  exact if_neg (not_not_intro hstage)

theorem domainDrainEnd_drained (hstage : r.stage = .drain) : domainDrainEnd id s = putReset { r with stage := .record } s := by
  unfold domainDrainEnd
  rw [h]
  exact if_pos hstage

theorem drainLimitExpire_late (hstage : r.stage = .drain) (hlate : r.fenceAt.toNat + s.drainLimit ≤ s.time.toNat) (answered : Word) :
    drainLimitExpire id answered s = putReset { r with stage := .record, answered := answered } s := by
  unfold drainLimitExpire
  rw [h]
  exact if_pos ⟨hstage, hlate⟩

/-- What the record of a domain's reset says of it (R423). -/
def DomReset.head (r : DomReset) : RecHead :=
  { domain := r.domain, cause := r.source.toNat, escalated := r.source == 6, unit := r.unit, fence := r.fenceAt, ctxs := r.ctxs,
    answered := r.answered, prev := r.prevSeq }

theorem resetRecordWritten_of (hstage : r.stage = .record) (written : Bool) : resetRecordWritten id written s =
    if written then
      assertReset { r with recSeq := some (s.reg (aRstc 0x50)) }
        (writeRecord r.head [(1, r.queue), (3, s.engineEntries (domainRegs r.domain r.unit))] s)
    else assertReset r (loseRecord s) := by
  unfold resetRecordWritten
  rw [h]
  exact if_neg (not_not_intro hstage)

/-- A part reports ready: the reset goes on with the parts left, or confirms with the last. -/
theorem domainPartReady_of {part : Nat} {rest : List Nat} {trained : Bool} {u : State} (hstage : r.stage = .release)
    (hparts : r.parts = part :: rest) (hready : partReady r part trained s = some u) : domainPartReady id trained s =
      if rest.isEmpty then confirmReset { r with parts := rest } u else putReset { r with parts := rest } u := by
  unfold domainPartReady
  rw [h]
  dsimp only
  rw [if_neg (not_not_intro hstage), hparts]
  dsimp only
  rw [hready]

/-- A reset that the thermal gate holds does not escalate (R427). -/
theorem resetBoundExpire_gated (hgated : r.gated = true) (hstage : r.stage = .assert) : resetBoundExpire id s = s := by
  unfold resetBoundExpire
  rw [h]
  exact if_pos (.inr ⟨hgated, hstage⟩)

section
variable (hlate : ¬ s.time < r.boundAt) (hfree : r.gated = false)
include hlate hfree

/-- A port that does not confirm is isolated (R421). -/
theorem resetBoundExpire_port (hdomain : r.domain = 7) : resetBoundExpire id s = isolatePort r s := by
  have due : ¬ (s.time < r.boundAt ∨ (r.gated ∧ r.stage = .assert)) := fun e => e.elim hlate fun e => Bool.eq_false_iff.1 hfree e.1
  unfold resetBoundExpire
  rw [h]
  exact (if_neg due).trans (if_pos hdomain)

/-- Another domain escalates to its parent, or to the device where it has none (R426). -/
theorem resetBoundExpire_escalates (hdomain : r.domain ≠ 7) : resetBoundExpire id s =
    let up := parentOf r.domain r.unit
    let s1 := count (aRstc 0x40) 1 (dropReset id s)
    if up.1 = 0 then escalateDevice r.recSeq s1
    else raiseDev 0x0405 2 r.unit (leBytes 1 r.domain ++ leBytes 1 up.1 ++ leBytes 2 r.unit ++ leBytes 2 up.2 ++ leBytes 1 r.stage.hung
      ++ leBytes 1 0 ++ leBytes 4 (min (2 ^ 32 - 1) ((s.time - r.fenceAt).toNat / 1000))) (startReset up.1 up.2 6 r.recSeq s1) := by
  have due : ¬ (s.time < r.boundAt ∨ (r.gated ∧ r.stage = .assert)) := fun e => e.elim hlate fun e => Bool.eq_false_iff.1 hfree e.1
  unfold resetBoundExpire
  rw [h]
  exact (if_neg due).trans (if_neg hdomain)

end

end

/-- A quire, a cluster and a stack lie within another domain below the device (R420). -/
theorem parentOf_ne_zero {domain : Nat} (h : domain = 4 ∨ domain = 5 ∨ domain = 6) (unit : Nat) : (parentOf domain unit).1 ≠ 0 := by
  obtain rfl | rfl | rfl := h
  · exact Nat.succ_ne_zero 2
  · exact Nat.succ_ne_zero 3
  · exact Nat.succ_ne_zero 2

/-- Settles O50: each command by the stage of the reset, and the bound by the domain. -/
theorem domainResetStages : Obligations.DomainResetStages := by
  intro s id r k w h tasks head secs
  refine ⟨fun hstage => congrArg Host.Outcome.next (domainFence_fences h hstage),
    fun hstage => congrArg Host.Outcome.next (domainDrainEnd_drained h hstage),
    fun hstage hlate => congrArg Host.Outcome.next (drainLimitExpire_late h hstage hlate k),
    fun hstage => ⟨congrArg Host.Outcome.next (resetRecordWritten_of h hstage true),
      congrArg Host.Outcome.next (resetRecordWritten_of h hstage false)⟩,
    fun p rest u hstage hparts hready hmore => congrArg Host.Outcome.next ?more,
    fun p u hstage hparts hready => congrArg Host.Outcome.next (domainPartReady_of h hstage hparts hready),
    fun hdomain hlate hfree => congrArg Host.Outcome.next (resetBoundExpire_port h hlate hfree hdomain),
    fun hdomain hlate hfree => congrArg Host.Outcome.next ?die,
    fun hdomain hlate hfree => congrArg Host.Outcome.next ?inner,
    fun hgated hstage => congrArg Host.Outcome.next (resetBoundExpire_gated h hgated hstage)⟩
  case more =>
    refine (domainPartReady_of h hstage hparts hready).trans (if_neg ?_)
    rw [List.isEmpty_iff]
    exact hmore
  case die =>
    refine (resetBoundExpire_escalates h hlate hfree (by omega)).trans (if_pos ?_)
    rw [hdomain]
    rfl
  case inner => exact (resetBoundExpire_escalates h hlate hfree (by omega)).trans (if_neg (parentOf_ne_zero hdomain r.unit))

end Sys2Proof.Machine
end

section
/-! PROOFS. What the security engine and the audit ledger go on to do (R443, R451 to R454, R459, R460). -/

namespace Sys2Proof.Machine

/-! ### Loads (R443) -/

section
variable {s : State} {tgt : BitVec 3} (h : s.secu.loading = some tgt) {o : SignedObj}
include h

theorem secuLoadDone_rejected {r : Nat} (hr : { s with secu := { s.secu with loading := none } }.loadReason tgt.toNat o = some r) :
    secuLoadDone o s = rejectImage (objType o) 7 r (objSvn o) (setLoadStatus 3 r { s with secu := { s.secu with loading := none } }) := by
  unfold secuLoadDone
  rw [h]
  dsimp only
  rw [hr]

/-- The engine with its load done and entered in the ledger. -/
def loadEntered (tgt : Nat) (o : SignedObj) (s : State) : State :=
  auditHw (mkEntry 5 3 0 7 (BitVec.ofNat 64 (3 * 2 ^ 56 + objType o * 256 + tgt)) (objDigest o).1 (objDigest o).2)
    { s with secu := { s.secu with loading := none } }

theorem secuLoadDone_placed (hr : { s with secu := { s.secu with loading := none } }.loadReason tgt.toNat o = none)
    (hdev : (loadEntered tgt.toNat o s).dev ≠ .recovery) : secuLoadDone o s =
      setLoadStatus 2 0 { loadEntered tgt.toNat o s with flash := (loadEntered tgt.toNat o s).flash.place tgt.toNat o } := by
  unfold secuLoadDone
  rw [h]
  dsimp only
  rw [hr]
  change setLoadStatus 2 0 { loadEntered tgt.toNat o s with flash := if (loadEntered tgt.toNat o s).dev = .recovery then _ else _ } = _
  rw [if_neg hdev]
  rfl

end

/-! ### Updates, quotes and debug access (R451 to R454) -/

theorem confirmTimeout_late {s : State} {t0 : Dword} (h : s.secu.activateAt = some t0) (hlate : t0.toNat + 2000000000 ≤ s.time.toNat) :
    confirmTimeout s = mgmtRestart 1 (rejectImage 2 4 8 (match s.flash.staging with | some x => objSvn x | none => 0)
      { s with secu := { s.secu with next := s.secu.before, before := none, activateAt := none } }) := by
  unfold confirmTimeout
  rw [h]
  exact if_neg (Nat.not_lt.2 hlate)

theorem mgmtRestarted_unchanged {s : State} (hrestart : s.secu.restart = true) (hnext : s.secu.next = none) :
    mgmtRestarted s = { s with secu := { s.secu with restart := false, next := none } } := by
  unfold mgmtRestarted
  rw [if_neg (not_not_intro hrestart), hnext]

/-- A quote is written where a window allows it, and else is a violation. -/
theorem quoteDone_of {s : State} {certs : Bool} (h : s.secu.quote = some certs) : quoteDone s =
    let told := { s with secu := { s.secu with quote := none } }
    let b := s.quoteBytes certs
    let addr := (s.reg64 (aSecu 0x28)).toNat
    if told.winAllows addr b.length true then streamImage addr b (told.setReg (aSecu 0x34) 2)
    else violation 0xFFFF (told.setReg (aSecu 0x34) 3) := by
  unfold quoteDone
  rw [h]

/-- With no capability granted CAPS of SECU_DBG_STATUS read 0, whatever its bit 4 shows. -/
theorem dbgStatus_noCaps : ∀ rejected : Bool, ∀ i, i < 4 → (packBits [((0 : BitVec 4).toNat, 0), (bit rejected, 4)]).getLsbD i = false := by
  decide

theorem dbgEnd_status {s : State} (h : s.regsWf = true) {i : Nat} (hi : i < 4) : ((dbgEnd s).reg (aSecu 0x3C)).getLsbD i = false := by
  unfold dbgEnd setDbgStatus
  rw [State.reg_setReg (s := { s with secu := { s.secu with caps := 0 } }) h, if_pos rfl]
  exact dbgStatus_noCaps _ i hi

/-! ### The ledger's drain (R459, R460) -/

theorem mirrorEntries_unpaired {s : State} (h : s.twin.state ≠ 2) : mirrorEntries s = s := if_pos (.inl h)

section
variable {s : State} {slots : Nat} (hflash : s.flshEn = true) (hfits : s.audit.ring.length + s.flash.auditArea.length ≤ slots)
include hflash hfits

/-- Flash with room takes every entry of the ring. -/
theorem programEntries_all : programEntries slots s =
    { s with flash := { s.flash with auditArea := s.flash.auditArea ++ s.audit.ring },
             audit := { s.audit with ring := [], drainFailed := false,
                                     drained := match s.audit.ring.getLast? with | some e => e.seq | none => s.audit.drained } } := by
  have all (old : Nat) : min s.audit.ring.length (slots - s.flash.auditArea.length + old) = s.audit.ring.length := by omega
  have kept : (s.flash.auditArea ++ s.audit.ring).length - slots = 0 := by
    rw [List.length_append]
    omega
  unfold programEntries
  simp only [hflash, if_true, all, List.take_length, List.drop_length, kept, List.drop_zero, Nat.lt_irrefl, decide_false]
    <;> rfl

end

theorem slotFreed_free {s : State} (h : s.auditFull = false) : slotFreed s =
    replayStalled { flushReserve s.audit.reserve.length s with
      audit := { (flushReserve s.audit.reserve.length s).audit with stallRaised := false } } := if_neg (Bool.eq_false_iff.1 h)

/-- Settles O58: each event by what is pending and by its own condition. -/
theorem securityEvents : Obligations.SecurityEvents := by
  intro s o tgt certs idle told b addr dg placed svn back opened
  refine ⟨fun r h hr => congrArg Host.Outcome.next (secuLoadDone_rejected h hr),
    fun h hr hdev => congrArg Host.Outcome.next (secuLoadDone_placed h hr hdev),
    fun t0 h hlate => congrArg Host.Outcome.next (confirmTimeout_late h hlate), fun h => congrArg Host.Outcome.next (if_pos h),
    mgmtRestarted_unchanged, fun h hwin => congrArg Host.Outcome.next ((quoteDone_of h).trans (if_pos hwin)),
    fun h hwin => congrArg Host.Outcome.next ((quoteDone_of h).trans (if_neg (Bool.eq_false_iff.1 hwin))), fun hcaps hlate => ?expire,
    fun htwin hflash hfits => ?drain, fun h => congrArg Host.Outcome.next (slotFreed_free h),
    fun h => congrArg Host.Outcome.next (if_pos h)⟩
  case expire => exact ⟨dbgEnd s, congrArg Host.Outcome.next (if_pos ⟨hcaps, hlate⟩), rfl, fun h _ hi => dbgEnd_status h hi⟩
  case drain =>
    have drained : auditDrain s = _ :=
      (congrArg (programEntries auditAreaSlots) (mirrorEntries_unpaired htwin)).trans (programEntries_all hflash hfits)
    exact ⟨_, congrArg Host.Outcome.next drained, rfl, rfl, rfl, rfl, rfl⟩

end Sys2Proof.Machine
end

section
/-! PROOFS. A start runs the code it finds valid, or finds a cause of RECOVERY (R436 to R450). -/

namespace Sys2Proof.Machine

/-! ### What the steps of a start leave alone -/

/-- A part of a start that neither moves the device nor touches the boot, the start-attempt record, the security engine and memory. -/
structure SameStart (s t : State) : Prop where
  dev : t.dev = s.dev
  boot : t.boot = s.boot
  start : t.flash.start = s.flash.start
  secu : t.secu = s.secu
  mem : t.mem = s.mem

theorem SameStart.refl (s : State) : SameStart s s := ⟨rfl, rfl, rfl, rfl, rfl⟩

theorem SameStart.trans {s t u : State} (h : SameStart s t) (g : SameStart t u) : SameStart s u :=
  ⟨g.dev.trans h.dev, g.boot.trans h.boot, g.start.trans h.start, g.secu.trans h.secu, g.mem.trans h.mem⟩

theorem SameStart.of_rec {s t : State} (h : Rec [] s t) : SameStart s t := by
  obtain ⟨r, x, c, o, e⟩ := h.1.frame
  rw [e]
  exact ⟨rfl, rfl, rfl, rfl, rfl⟩

theorem sameStart_foldl {α : Type} {f : State → α → State} (hf : ∀ t x, SameStart t (f t x)) (l : List α) (s : State) :
    SameStart s (l.foldl f s) := by
  induction l generalizing s with
  | nil => exact .refl s
  | cons x l ih => exact (hf s x).trans (ih _)

theorem sameStart_raiseDev (code : BitVec 16) (sev : Byte) (unit : Nat) (d : Bytes) (s : State) : SameStart s (raiseDev code sev unit d s) :=
  .of_rec (rec_raiseDev code sev unit d (Rec.refl [] s))

theorem sameStart_smbAlert (i : Nat) (s : State) : SameStart s (smbAlert i s) := by
  obtain ⟨m, b, e⟩ := smbAlert_frame i s
  rw [e]
  exact ⟨rfl, rfl, rfl, rfl, rfl⟩

theorem sameStart_setLink (st : BitVec 2) (s : State) : SameStart s (setLink st s) := by
  unfold setLink
  split
  · exact .refl s
  · refine SameStart.trans ?_ (.of_rec (rec_auditState _ _ _ _ _ (Rec.refl [] _)))
    exact ⟨rfl, rfl, rfl, rfl, rfl⟩

theorem sameStart_linkFresh (w : Option (BitVec 2)) (fail : BitVec 16) (s : State) : SameStart s (linkFresh w fail s) := by
  unfold linkFresh
  refine SameStart.trans ?_ (sameStart_setLink _ _)
  exact ⟨rfl, rfl, rfl, rfl, rfl⟩

theorem sameStart_setHealth (bits : Word) (s : State) : SameStart s (setHealth bits s) := by
  have shown : SameStart s { s with flash := { s.flash with health := s.flash.health ||| bits } } := ⟨rfl, rfl, rfl, rfl, rfl⟩
  unfold setHealth
  dsimp only
  split
  · exact shown.trans (sameStart_smbAlert 3 _)
  · exact shown

theorem sameStart_setReg (a : Nat) (v : Word) (s : State) : SameStart s (s.setReg a v) := ⟨rfl, rfl, rfl, rfl, rfl⟩

theorem sameStart_audit (x : Audit) (s : State) : SameStart s { s with audit := x } := ⟨rfl, rfl, rfl, rfl, rfl⟩

theorem sameStart_lockRanges (s : State) : SameStart s (lockRanges s) := by
  unfold lockRanges
  exact sameStart_foldl (fun _ _ => (sameStart_setReg _ _ _).trans (sameStart_setReg _ _ _)) _ s

theorem sameStart_checkRepairLog (s : State) : SameStart s (checkRepairLog s) :=
  sameStart_foldl (fun _ _ => sameStart_raiseDev _ _ _ _ _) _ s

theorem sameStart_resumeAudit (env : StartEnv) (s : State) : SameStart s (resumeAudit env s) := by
  unfold resumeAudit
  dsimp only
  obtain ⟨x, e⟩ := flushReserve_frame _ _
  rw [e]
  exact ⟨rfl, rfl, rfl, rfl, rfl⟩

/-- Stage 3 of a cold start clears memory. -/
theorem sameStart_trainStacks (env : StartEnv) (s : State) : SameStart { s with mem := [] } (trainStacks env true s) := by
  have spared (l : List RowRepair) (t : State) : SameStart t (l.foldl (fun t r => rowEvent r 2 t) t) :=
    sameStart_foldl (fun _ _ => sameStart_raiseDev _ _ _ _ _) l t
  unfold trainStacks
  dsimp only [↓reduceIte]
  refine SameStart.trans (SameStart.trans ?_ (spared _ _)) (sameStart_setReg _ _ _)
  split
  · exact ⟨rfl, rfl, rfl, rfl, rfl⟩
  · refine SameStart.trans ?_ (sameStart_setHealth _ _)
    exact ⟨rfl, rfl, rfl, rfl, rfl⟩

/-! ### RECOVERY (R438 to R442) -/

/-- A cause of RECOVERY as it is noted, raised, audited and alerted. -/
def recoveryNoted (cause : Byte) (s : State) : State :=
  let raised := raiseDev 0x0505 3 noUnit (leBytes 1 cause.toNat ++ leBytes 1 s.flash.start.failed ++ leBytes 6 0 ++ leBytes 8 s.time.toNat)
    { s with boot := { s.boot with recovery := some cause, recoveryTime := s.time } }
  smbAlert 4 { raised with audit := { raised.audit with reserve := raised.audit.reserve ++
    [mkEntry 5 5 8 7 (BitVec.ofNat 64 (8 * 2 ^ 56 + (Config.actionCode 5).toNat * 2 ^ 40)) (Config.actionOld 5 0) (Config.actionNew 5 0)] } }

theorem enterRecovery_eq (cause : Byte) (s : State) : enterRecovery cause s =
    let noted := recoveryNoted cause s
    if s.boot.fromPor then
      setDev .recovery (linkFresh (some 2) noted.trepel.laneFail { noted with boot := { noted.boot with running := false, timer := none } })
    else { noted with flash := { noted.flash with start := { noted.flash.start with recoveryPending := some cause } } } := rfl

theorem sameStart_recoveryNoted (cause : Byte) (s : State) :
    SameStart { s with boot := { s.boot with recovery := some cause, recoveryTime := s.time } } (recoveryNoted cause s) :=
  ((sameStart_raiseDev _ _ _ _ _).trans (sameStart_audit _ _)).trans (sameStart_smbAlert _ _)

theorem setDev_boot_flash (d : DevState) (s : State) : (setDev d s).boot = s.boot ∧ (setDev d s).flash = s.flash := by
  rcases eq_or_ne s.dev d with h | h
  · rw [setDev, if_pos h]
    exact ⟨rfl, rfl⟩
  · obtain ⟨r, x, c, o, m, b, e⟩ := setDev_frame h
    rw [e]
    exact ⟨rfl, rfl⟩

/-- A start that began with POR enters RECOVERY. -/
theorem enterRecovery_enters {s : State} (hpor : s.boot.fromPor = true) (cause : Byte) : (enterRecovery cause s).dev = .recovery ∧
    (enterRecovery cause s).boot.recovery = some cause ∧ (enterRecovery cause s).flash.start = s.flash.start := by
  have noted := sameStart_recoveryNoted cause s
  have linked := sameStart_linkFresh (some 2) (recoveryNoted cause s).trepel.laneFail
    { recoveryNoted cause s with boot := { (recoveryNoted cause s).boot with running := false, timer := none } }
  rw [enterRecovery_eq, if_pos hpor]
  refine ⟨setDev_dev _ _, ?_, ?_⟩
  · rw [(setDev_boot_flash _ _).1, linked.boot]
    change (recoveryNoted cause s).boot.recovery = some cause
    rw [noted.boot]
  · rw [(setDev_boot_flash _ _).2, linked.start]
    exact noted.start

/-- Any other start leaves the device where it is, and the cause pending. -/
theorem enterRecovery_pends {s : State} (hpor : s.boot.fromPor = false) (cause : Byte) :
    (enterRecovery cause s).dev = s.dev ∧ (enterRecovery cause s).flash.start.recoveryPending = some cause := by
  rw [enterRecovery_eq, if_neg (Bool.eq_false_iff.1 hpor)]
  exact ⟨(sameStart_recoveryNoted cause s).dev, rfl⟩

/-! ### Where a start stops (R439, R447) -/

/-- A start under way: stage 1, with its timer and its start-attempt record. -/
def startBegun (r : StartRecord) (s : State) : State :=
  { s with boot := { s.boot with running := true, stage := 1, pufOk := true, timer := some (s.time + 120000000000) },
           flash := { s.flash with start := r } }

/-- Stage 1 counts an attempt left in progress as failed; nothing else of the start-attempt record that a start looks at changes. -/
theorem noteAttempt_begun (s : State) : ∃ r, noteAttempt (startBegun s.flash.start s) = startBegun r s ∧
    r.failed = s.flash.start.failed + (if s.flash.start.inProgress then 1 else 0) ∧ r.limit = s.flash.start.limit ∧
    r.starts = s.flash.start.starts := by
  have h : noteAttempt (startBegun s.flash.start s) = if s.flash.start.inProgress then _ else _ := rfl
  rw [h]
  split
  · exact ⟨_, rfl, rfl, rfl, rfl⟩
  · exact ⟨s.flash.start, rfl, rfl, rfl, rfl⟩

/-- The least SVN that the configuration asks of code. -/
def leastSvn (s : State) : Word :=
  match s.secu.config with
  | some c => c.minSvn
  | none => 0

/-- A start from the search for a part record on. -/
def startLooks (env : StartEnv) (s : State) : State :=
  let (s2, part) := findPart env s
  match part with
  | none => enterRecovery 3 (beginAttempt s2)
  | some p =>
    if s2.boot.kind = .cold ∧ ¬ Config.pufMatches env.puf p.bytes then
      enterRecovery 4 (beginAttempt { s2 with boot := { s2.boot with pufOk := false } })
    else
      let s3 := if s2.boot.fromPor then promoteStaged (objSerial p) s2 else s2
      let (s4, cfg) := findConfig (objSerial p) s3
      let s5 := applyConfig cfg s4
      let (s6, code) := findCode (objSerial p) (leastSvn s5) s5
      match code with
      | none => enterRecovery 2 (beginAttempt s6)
      | some k => bootCode env p cfg k s6

section
variable {env : StartEnv} {s : State} (hstart : s.starting = true) (hidle : s.boot.running = false) (hfree : s.power.held = false)
include hstart hidle hfree

theorem startDevice_eq : startDevice env s =
    let noted := noteAttempt (startBegun s.flash.start s)
    match (if noted.boot.fromPor then s.flash.start.recoveryPending else none) with
    | some c => enterRecovery c { noted with flash := { noted.flash with start := { noted.flash.start with recoveryPending := none } } }
    | none => if noted.flash.start.limit ≤ noted.flash.start.failed then enterRecovery 1 noted else startLooks env noted := by
  refine if_neg ?_
  rw [hstart, hidle, hfree]
  decide

/-- A start that began with POR stops at a pending cause. -/
theorem startDevice_pending {c : Byte} (hpor : s.boot.fromPor = true) (hc : s.flash.start.recoveryPending = some c) :
    ∃ r, r.recoveryPending = none ∧ startDevice env s = enterRecovery c (startBegun r s) := by
  obtain ⟨r, hnoted, -⟩ := noteAttempt_begun s
  have found : (if (startBegun r s).boot.fromPor then s.flash.start.recoveryPending else none) = some c := (if_pos hpor).trans hc
  refine ⟨{ r with recoveryPending := none }, rfl, ?_⟩
  rw [startDevice_eq hstart hidle hfree, hnoted]
  dsimp only
  rw [found]
  rfl

/-- Past a pending cause a start stops at too many failed starts, and else looks for a part record. -/
theorem startDevice_past (hnone : s.boot.fromPor = true → s.flash.start.recoveryPending = none) :
    ∃ r, r.starts = s.flash.start.starts ∧ startDevice env s =
      if s.flash.start.limit ≤ s.flash.start.failed + (if s.flash.start.inProgress then 1 else 0) then enterRecovery 1 (startBegun r s)
      else startLooks env (startBegun r s) := by
  obtain ⟨r, hnoted, hfailed, hlimit, hstarts⟩ := noteAttempt_begun s
  have past : (if (startBegun r s).boot.fromPor then s.flash.start.recoveryPending else none) = none := ite_eq_right_iff.2 hnone
  refine ⟨r, hstarts, ?_⟩
  rw [startDevice_eq hstart hidle hfree, hnoted]
  dsimp only
  rw [past, ← hfailed, ← hlimit]
  rfl

end

section
variable {env : StartEnv} {s : State}

theorem findPart_none (h0 : s.flash.part0 = none) (h1 : s.flash.part1 = none) : findPart env s = (s, none) := by
  simp only [findPart, h0, h1, checkObj]

theorem startLooks_noPart (h0 : s.flash.part0 = none) (h1 : s.flash.part1 = none) :
    startLooks env s = enterRecovery 3 (beginAttempt s) := by
  unfold startLooks
  rw [findPart_none h0 h1]

end

/-- Settles O12: the causes in the order in which a start looks for them. -/
theorem startEntersRecovery : Obligations.StartEntersRecovery := by
  intro env s hstart hidle r tooMany none2
  refine ⟨fun hheld => congrArg Host.Outcome.next (if_pos (.inr (.inr hheld))), fun hfree => ⟨_, rfl, fun hpor => ?por, fun hpor => ?other⟩⟩
  case por =>
    have past (hnone : r.recoveryPending = none) := startDevice_past (env := env) hstart hidle hfree fun _ => hnone
    refine ⟨fun c hc => ?_, fun hnone hmany => ?_, fun hnone hfew ⟨hnone0, hnone1⟩ => ?_⟩
    · obtain ⟨q, hcleared, e⟩ := startDevice_pending (env := env) hstart hidle hfree hpor hc
      obtain ⟨hdev, hcause, hkept⟩ := enterRecovery_enters (s := startBegun q s) hpor c
      rw [e, hkept]
      exact ⟨hdev, hcause, hcleared⟩
    · obtain ⟨q, -, e⟩ := past hnone
      obtain ⟨hdev, hcause, -⟩ := enterRecovery_enters (s := startBegun q s) hpor 1
      rw [e, if_pos hmany]
      exact ⟨hdev, hcause⟩
    · obtain ⟨q, -, e⟩ := past hnone
      obtain ⟨hdev, hcause, hkept⟩ := enterRecovery_enters (s := beginAttempt (startBegun q s)) hpor 3
      rw [e, if_neg hfew, startLooks_noPart (s := startBegun q s) hnone0 hnone1, hkept]
      exact ⟨hdev, hcause, rfl⟩
  case other =>
    obtain ⟨q, -, e⟩ := startDevice_past (env := env) hstart hidle hfree fun h => absurd (h.symm.trans hpor) (by decide)
    rw [e]
    refine ⟨fun hmany => ?_, fun hfew ⟨hnone0, hnone1⟩ => ?_⟩
    · rw [if_pos hmany]
      exact enterRecovery_pends (s := startBegun q s) hpor 1
    · rw [if_neg hfew, startLooks_noPart (s := startBegun q s) hnone0 hnone1]
      exact enterRecovery_pends (s := beginAttempt (startBegun q s)) hpor 3

/-! ### The code that runs (R444, R447 to R449) -/

section
variable {env : StartEnv} {s : State} {p st1 rt : SignedObj}

theorem checkObj_valid {o : SignedObj} {typ : Nat} {serial : Bytes} {minSvn : Word} (h : objReason o typ serial minSvn = none) (place : Nat)
    (s : State) : checkObj (some o) typ place serial minSvn s = (s, some o) := by
  simp only [checkObj, h]

theorem findPart_first (hp : s.flash.part0 = some p) (hvalid : objReason p 4 [] 0 = none) (hspare : spareMapOk p = true)
    (hfits : ∀ g ∈ env.capacity, g = s.part.gib) : findPart env s = (s, some p) := by
  have fits : (env.capacity.all fun g => decide (g = s.part.gib)) = true := List.all_eq_true.2 fun g hg => decide_eq_true (hfits g hg)
  simp only [findPart, hp, checkObj_valid hvalid, fits, hspare, Bool.and_self, if_true]

theorem findConfig_none (hA : s.flash.cfgA = none) (hB : s.flash.cfgB = none) (serial : Bytes) : findConfig serial s = (s, none) := by
  simp only [findConfig, hA, hB, Nat.lt_irrefl, if_false, checkConfig, checkObj]

/-- With no staged runtime confirmed the active slot is tried first. -/
theorem findCode_slotA {serial : Bytes} {minSvn : Word} (hconfirmed : s.flash.boot.confirmed = false) (hactive : s.flash.boot.slotB = false)
    (hslot : s.flash.slotA = { stage1 := some st1, runtime := some rt }) (hst1 : objReason st1 1 serial minSvn = none)
    (hrt : objReason rt 2 serial minSvn = none) : findCode serial minSvn s = (s, some { booted := 0, stage1 := st1, runtime := rt }) := by
  simp only [findCode, hconfirmed, hactive, Flash.slot, hslot, checkCode, checkObj_valid hst1, checkObj_valid hrt, Bool.false_eq_true,
    false_and, if_false]

end

/-- A measurement adds its entry to the log. -/
theorem measure_logs (stage kind : Byte) (o : SignedObj) (s : State) : ∃ m d, m.kind = kind ∧
    SameStart { s with secu := { s.secu with log := s.secu.log ++ [m], logDigest := d } } (measure stage kind o s) :=
  ⟨_, _, rfl, sameStart_raiseDev _ _ _ _ _⟩

/-- What a cold start has done by stage 7, with code `k` and no configuration. -/
structure CodeStarted (puf : Bytes) (k : Code) (s t : State) : Prop where
  dev : t.dev = s.dev
  boot : t.boot = { s.boot with booted := k.booted, stage := 7 }
  start : t.flash.start = (beginAttempt s).flash.start
  running : t.secu.running = some k.runtime
  svn : t.secu.svn = objSvn k.runtime
  log : t.secu.log.map (fun m => m.kind) = [1, 3, 4]
  cdi1 : t.secu.cdi1 = shake256 (Config.pufSecret puf ++ shake256 k.stage1.bytes 64) 64
  mem : t.mem = []

theorem bootCode_starts {env : StartEnv} {part : SignedObj} {k : Code} {s : State} (hcold : s.boot.kind = .cold) :
    CodeStarted env.puf k s (bootCode env part none k s) := by
  unfold bootCode
  extract_lets cold0 s1 s2 secu2 s3 s4 s5 s6 cdi1 secu6 s7 s8 boot8 secu8 s9 warm boot9 s10 s11 w src11 boot11 s12
  have hcold0 : cold0 = true := decide_eq_true hcold
  have hwarm : warm = false := by
    change (!cold0 && _) = false
    rw [hcold0]
    rfl
  have h2 : SameStart s1 s2 := by
    unfold s2
    split
    · exact sameStart_lockRanges s1
    · exact .refl s1
  obtain ⟨m1, d1, hm1, h4⟩ := measure_logs 1 1 part s3
  obtain ⟨m3, d3, hm3, h6⟩ := measure_logs 1 3 k.stage1 s5
  obtain ⟨m4, d4, hm4, h7⟩ := measure_logs 2 4 k.runtime { s6 with secu := { s6.secu with cdi1 := cdi1 } }
  have hboot : s7.boot = s.boot := h7.boot.trans (h6.boot.trans (h4.boot.trans h2.boot))
  have hdev : s7.dev = s.dev := h7.dev.trans (h6.dev.trans (h4.dev.trans h2.dev))
  have hstart : s7.flash.start = s1.flash.start := h7.start.trans (h6.start.trans (h4.start.trans h2.start))
  have hlog : s7.secu.log = [m1, m3, m4] := by
    rw [h7.secu]
    change s6.secu.log ++ [m4] = _
    rw [h6.secu]
    change s4.secu.log ++ [m3] ++ [m4] = _
    rw [h4.secu]
    rfl
  have hcdi1 : s7.secu.cdi1 = shake256 (Config.pufSecret env.puf ++ shake256 k.stage1.bytes 64) 64 := by
    rw [h7.secu]
    exact if_pos hcold0
  clear_value s7
  have h10 : s10 = s9 := if_neg fun h => h.1 hcold0
  have h11 : SameStart { s9 with mem := [] } s11 := by
    have trained := sameStart_trainStacks env (s10.setRegBit 0x10 7 true)
    have e : s11 = trainStacks env true (s10.setRegBit 0x10 7 true) := congrArg (fun b => trainStacks env (!b) _) hwarm
    rw [e]
    rw [h10] at trained ⊢
    exact ⟨trained.dev, trained.boot, trained.start, trained.secu, trained.mem⟩
  clear_value s11
  have h12 : SameStart { s11 with boot := { s11.boot with stage := 7 } } s12 := by
    have repaired := sameStart_checkRepairLog s11
    refine SameStart.trans ?_ (sameStart_linkFresh w env.trplLaneFail { src11 with boot := { s11.boot with stage := 7 } })
    exact ⟨repaired.dev, rfl, repaired.start, repaired.secu, repaired.mem⟩
  have hend := h12.trans (sameStart_resumeAudit env s12)
  rw [if_neg (Bool.eq_false_iff.1 hwarm)]
  have hsecu : (resumeAudit env s12).secu = s9.secu := hend.secu.trans h11.secu
  refine ⟨hend.dev.trans (h11.dev.trans hdev), ?_, hend.start.trans (h11.start.trans hstart), ?_, ?_, ?_, ?_, hend.mem.trans h11.mem⟩
  · rw [hend.boot]
    change { s11.boot with stage := 7 } = _
    rw [h11.boot, ← hboot]
    rfl
  · rw [hsecu]
    rfl
  · rw [hsecu]
    rfl
  · rw [hsecu]
    change s7.secu.log.map _ = _
    rw [hlog, ← hm1]
    simp only [List.map_cons, List.map_nil, hm1, hm3, hm4]
  · rw [hsecu]
    exact hcdi1

section
variable {env : StartEnv} {s : State} {p st1 rt : SignedObj} (hp : s.flash.part0 = some p) (hvalid : objReason p 4 [] 0 = none)
  (hspare : spareMapOk p = true) (hfits : ∀ g ∈ env.capacity, g = s.part.gib)
include hp hvalid hspare hfits

/-- Where the PUF does not give the DeviceID of the part record the start stops. -/
theorem startLooks_pufWrong (hcold : s.boot.kind = .cold) (hpuf : Config.pufMatches env.puf p.bytes = false) :
    startLooks env s = enterRecovery 4 (beginAttempt { s with boot := { s.boot with pufOk := false } }) := by
  unfold startLooks
  rw [findPart_first hp hvalid hspare hfits]
  exact if_pos ⟨hcold, Bool.eq_false_iff.1 hpuf⟩

/-- A valid slot A is what a start without configuration runs. -/
theorem startLooks_code (hpuf : Config.pufMatches env.puf p.bytes = true) (hconfirmed : s.flash.boot.confirmed = false)
    (hA : s.flash.cfgA = none) (hB : s.flash.cfgB = none) (hconfig : s.secu.config = none) (hactive : s.flash.boot.slotB = false)
    (hslot : s.flash.slotA = { stage1 := some st1, runtime := some rt }) (hst1 : objReason st1 1 (objSerial p) 0 = none)
    (hrt : objReason rt 2 (objSerial p) 0 = none) :
    startLooks env s = bootCode env p none { booted := 0, stage1 := st1, runtime := rt } (applyConfig none s) := by
  have promoted : (if s.boot.fromPor then promoteStaged (objSerial p) s else s) = s := by
    rw [promoteStaged, hconfirmed, if_pos Bool.false_ne_true, ite_self]
  have svn : leastSvn (applyConfig none s) = 0 := by
    unfold leastSvn
    rw [show (applyConfig none s).secu.config = none from hconfig]
  unfold startLooks
  rw [findPart_first hp hvalid hspare hfits]
  refine (if_neg fun h => h.2 hpuf).trans ?_
  rw [promoted]
  dsimp only
  rw [findConfig_none hA hB]
  dsimp only
  rw [svn, findCode_slotA (s := applyConfig none s) hconfirmed hactive hslot hst1 hrt]

end

/-- Settles O11: the start looks for a part record with the attempts it has left, and what it then does is `bootCode_starts`. -/
theorem startRunsCode : Obligations.StartRunsCode := by
  intro env s p st1 rt f _ hdev hidle hfree hcold hpor hnone hfew hp hvalid hspare hfits hconfirmed hA hB hconfig hactive hslot hst1 hrt
  have hstart : s.starting = true := decide_eq_true (.inl hdev)
  obtain ⟨r, hstarts, looks⟩ := startDevice_past (env := env) hstart hidle hfree fun _ => hnone
  rw [if_neg (Nat.not_le.2 hfew)] at looks
  refine ⟨fun hpuf => ⟨_, rfl, ?wrong⟩, fun hpuf => ⟨_, rfl, ?right⟩⟩
  case wrong =>
    obtain ⟨enters, hcause, -⟩ := enterRecovery_enters
      (s := beginAttempt { startBegun r s with boot := { (startBegun r s).boot with pufOk := false } }) hpor 4
    rw [looks, startLooks_pufWrong (s := startBegun r s) hp hvalid hspare hfits hcold hpuf]
    exact ⟨enters, hcause⟩
  case right =>
    have started := bootCode_starts (env := env) (part := p) (k := { booted := 0, stage1 := st1, runtime := rt })
      (s := applyConfig none (startBegun r s)) hcold
    rw [looks, startLooks_code (s := startBegun r s) hp hvalid hspare hfits hpuf hconfirmed hA hB hconfig hactive hslot hst1 hrt,
      started.boot, started.start, ← hstarts]
    exact ⟨started.dev.trans hdev, rfl, rfl, rfl, rfl, rfl, rfl, rfl, started.running, started.svn, started.log, started.cdi1, started.mem⟩

end Sys2Proof.Machine
end

section
/-! PROOFS. Reads of registers on a path, and the accesses of the register aperture and of REG_ACCESS (R466 to R468, R472, R497). -/

namespace Sys2Proof.Machine

/-! ### What a read answers (R466 to R468) -/

/-- A read that is answered shows the value that its path reads. -/
theorem readReg_answers {s : State} {p : Path} {a : Nat} (h : s.Reads p a) (c : Instr) :
    readReg p a c s = (readValue p a s).1.emit (shownOn p a (readValue p a s).2) := by
  have made : ¬ (¬ s.pathUp p ∨ 2 ^ 27 ≤ a ∨ a % 4 ≠ 0) := by
    rintro (hup | hbig | hword)
    · exact hup h.up
    · exact absurd h.word.2 (Nat.not_lt.2 hbig)
    · exact hword h.word.1
  unfold readReg
  rw [if_neg made, if_neg (Bool.eq_false_iff.1 h.waits)]
  unfold readOn
  cases p with
  | aperture req =>
    dsimp only
    rw [if_neg (Bool.eq_false_iff.1 h.free)]
    rfl
  | core n => rfl
  | jtag =>
    dsimp only
    rw [if_pos h.free]
    rfl

/-- ALIAS_READ is the read at its address. -/
theorem exec_aliasRead {s : State} {p : Path} {a : BitVec 27} (h : s.Reads p a.toNat) :
    exec (.aliasRead p a) s = .next ((readValue p a.toNat s).1.emit (shownOn p a.toNat (readValue p a.toNat s).2)) :=
  congrArg Host.Outcome.next (readReg_answers h _)

/-! ### What a path reads (R466, R472) -/

/-- The registers that each path has of its own (R476). -/
def banked (a : Nat) : Bool := decide (a = 0x020) || decide (a = 0x024) || decide (a = 0x034)

/-- The state with the shadow of a path's pair reads replaced. -/
def State.shadowed (s : State) (p : Path) (kept : Option (Nat × Word)) : State :=
  s.setPath (pathNo p) { s.path (pathNo p) with shadow := kept }

/-- What a read of `v` answers and leaves by the half of a pair that it reads, where the path's shadow held `kept`. -/
def State.readAs (s : State) (p : Path) (a : Nat) (half : Half) (v hi : Word) (kept : Option (Nat × Word)) : State × Word :=
  match half with
  | .lo => (s.shadowed p (some (a + 4, hi)), v)
  | .hi => (s.shadowed p none,
      match kept with
      | some (b, w) => if b = a then w else v
      | none => v)
  | .one => (s.shadowed p none, v)

section
variable (s : State) (p : Path) (a : Nat) {v hi : Word} {kept : Option (Nat × Word)}

theorem readAs_shadow {w : Word} (hkept : kept = some (a, w)) : s.readAs p a .hi v hi kept = (s.shadowed p none, w) := by
  rw [hkept]
  exact congrArg (Prod.mk _) (if_pos rfl)

theorem readAs_live (hkept : ∀ w, kept ≠ some (a, w)) : s.readAs p a .hi v hi kept = (s.shadowed p none, v) := by
  cases hs : kept with
  | none => rfl
  | some k =>
    have other : k.1 ≠ a := fun e => hkept k.2 (hs.trans (congrArg (fun b => some (b, k.2)) e))
    exact congrArg (Prod.mk _) (if_neg other)

end

/-- A read at an address that names one register. -/
theorem readValue_located {s : State} {p : Path} {a : Nat} {l : RegLoc} (hplain : findAlias a = none) (hl : locate a = some l) :
    readValue p a s = s.readAs p a l.row.half
      (if a = 0x020 then (s.path (pathNo p)).bcast else if a = 0x024 then (s.path (pathNo p)).diff
        else if a = 0x034 then BitVec.ofNat 32 (pathNo p) else s.locValue l a)
      (s.regValue (a + 4)) (s.path (pathNo p)).shadow := by
  unfold readValue
  rw [hplain, hl]
  rfl

theorem readValue_plain {s : State} {p : Path} {a : Nat} {l : RegLoc} (hplain : findAlias a = none) (hl : locate a = some l)
    (hbanked : banked a = false) :
    readValue p a s = s.readAs p a l.row.half (s.regValue a) (s.regValue (a + 4)) (s.path (pathNo p)).shadow := by
  simp only [banked, Bool.or_eq_false_iff, decide_eq_false_iff_not] at hbanked
  obtain ⟨⟨h20, h24⟩, h34⟩ := hbanked
  have value : s.regValue a = s.locValue l a := by
    unfold State.regValue
    rw [hl]
  rw [readValue_located hplain hl, if_neg h20, if_neg h24, if_neg h34, value]

/-- A register of 32 bits is read as it stands. -/
theorem readValue_one {s : State} {p : Path} {a : Nat} {l : RegLoc} (hplain : findAlias a = none) (hl : locate a = some l)
    (hbanked : banked a = false) (h1 : l.row.half = .one) : readValue p a s = (s.shadowed p none, s.regValue a) := by
  rw [readValue_plain hplain hl hbanked, h1]
  rfl

/-! ### The register aperture (R466 to R468) -/

/-- A register past GCTL's first 64 bytes is none of those that each path has of its own. -/
theorem banked_high {a : Nat} (h : 0x40 ≤ a) : banked a = false := by
  simp only [banked, Bool.or_eq_false_iff, decide_eq_false_iff_not]
  omega

section
variable {s : State} {req : Byte} {addr : Dword} (hruns : s.auditRuns = true)
include hruns

theorem apertureAccess_unsupported {len : Nat} {w : Option Bytes} (h : len ≠ 4 ∨ addr.toNat % 4 ≠ 0) :
    apertureAccess req addr len w s = apDone w.isSome 1 addr [] (apErr s) := by
  unfold apertureAccess
  dsimp only
  rw [if_neg (not_not_intro hruns), if_pos (h.imp_right .inl)]

/-- An access of 4 aligned bytes reads or writes. -/
theorem apertureAccess_word (h4 : addr.toNat % 4 = 0) (h27 : addr.toNat < 2 ^ 27) (w : Option Bytes) :
    apertureAccess req addr 4 w s =
      match w with
      | some d => regWrite (.aperture req) addr.toNat (BitVec.ofNat 32 (fieldLe d 0 4)) none (.regApertureAccess req addr 4 w) s
      | none => readReg (.aperture req) addr.toNat (.regApertureAccess req addr 4 w) s := by
  have word : ¬ (4 ≠ 4 ∨ addr.toNat % 4 ≠ 0 ∨ 2 ^ 27 ≤ addr.toNat) := by omega
  exact (if_neg (not_not_intro hruns)).trans (if_neg word)

end

/-- Settles O23: an aligned word is a read or a write of path 0, and anything else is UNSUPPORTED. -/
theorem registerAperture : Obligations.RegisterAperture := by
  intro s req addr d hruns a p mine
  refine ⟨fun h4 h27 hwaits hshut hplain hhigh ⟨l, hl, h1⟩ => congrArg Host.Outcome.next ?read,
    fun htakes h4 h27 hplain => congrArg Host.Outcome.next ?write,
    fun len w h => congrArg Host.Outcome.next (apertureAccess_unsupported hruns h)⟩
  case read =>
    have reads : s.Reads (.aperture req) addr.toNat := ⟨(Bool.and_true _).trans hruns, hwaits, ⟨h4, h27⟩, hshut⟩
    have shown : shownOn (.aperture req) addr.toNat (s.regValue addr.toNat) = .link 0x08 0 0 addr (leBytes 4 (s.regValue addr.toNat).toNat) := by
      unfold shownOn
      rw [BitVec.ofNat_toNat, BitVec.setWidth_eq]
    rw [apertureAccess_word hruns h4 h27]
    dsimp only
    rw [readReg_answers reads, readValue_one hplain hl (banked_high hhigh) h1, shown]
    rfl
  case write =>
    rw [apertureAccess_word hruns h4 h27]
    dsimp only
    have same : (BitVec.ofNat 27 a).toNat = addr.toNat := Nat.mod_eq_of_lt h27
    rw [writeReg_one htakes hplain h27 h4, same]
    exact (writeReg_one htakes hplain h27 h4 _ _).symm

/-! ### REG_ACCESS (R497) -/

/-- The data register as an access leaves it: done, with the word read or written, whether it was a write, and whether it was refused. -/
def accessDone (dr : BitVec 72) (d : Word) (write refused : Bool) : BitVec 72 :=
  BitVec.ofNat 72 (dr.toNat % 2 ^ 32 + d.toNat * 2 ^ 32 + bit write * 2 ^ 64 + 2 ^ 66 + bit refused * 2 ^ 67)

theorem bit_le (b : Bool) : bit b ≤ 1 := by
  cases b with
  | true => exact Nat.le_refl 1
  | false => exact Nat.zero_le 1

section
variable (dr : BitVec 72) (d : Word) (write refused : Bool)

theorem accessDone_toNat : (accessDone dr d write refused).toNat =
    dr.toNat % 2 ^ 32 + d.toNat * 2 ^ 32 + bit write * 2 ^ 64 + 2 ^ 66 + bit refused * 2 ^ 67 := by
  have := d.isLt
  have := bit_le write
  have := bit_le refused
  rw [accessDone, BitVec.toNat_ofNat]
  omega

theorem accessDone_done : (accessDone dr d write refused).getLsbD 66 = true := by
  have := d.isLt
  have := bit_le write
  rw [BitVec.getLsbD, accessDone_toNat, Nat.testBit_eq_decide_div_mod_eq, decide_eq_true_eq]
  omega

theorem accessDone_accepted : (accessDone dr d write false).getLsbD 67 = false := by
  have := d.isLt
  have := bit_le write
  rw [BitVec.getLsbD, accessDone_toNat, show bit false = 0 from rfl, Nat.testBit_eq_decide_div_mod_eq, decide_eq_false_iff_not]
  omega

theorem accessDone_data : (accessDone dr d write refused).toNat / 2 ^ 32 % 2 ^ 32 = d.toNat := by
  have := d.isLt
  rw [accessDone_toNat]
  omega

end

/-- What the test access port and the paths hold is in no register that all paths see. -/
theorem regValue_jtag_paths (s : State) (j : Jtag) (q : NMap PathState) (a : Nat) :
    ({ s with jtag := j, paths := q } : State).regValue a = s.regValue a := by
  unfold State.regValue
  cases locate a with
  | none => rfl
  | some l =>
    dsimp only
    unfold State.locValue
    cases l.blk <;> rfl

/-- The state once an access has left `v` in the data register. -/
def State.shifted (s : State) (v : BitVec 72) : State := ({ s with jtag := { s.jtag with dr := v } }).emit (.jtag 72 v)

theorem State.shifted_keeps (s : State) (v : BitVec 72) :
    (s.shifted v).regs = s.regs ∧ (s.shifted v).audit = s.audit ∧ (s.shifted v).dev = s.dev ∧ (s.shifted v).secu = s.secu :=
  ⟨rfl, rfl, rfl, rfl⟩

section
variable {s : State} {dr : BitVec 72} (h4 : dr.toNat % 2 ^ 27 % 4 = 0)
include h4

theorem jtagAccess_read (hread : dr.getLsbD 64 = false) (hwaits : s.pathWaits .jtag = false) (hcaps : s.secu.caps.getLsbD 0 = true) :
    jtagAccess dr s = (readValue .jtag (dr.toNat % 2 ^ 27) s).1.shifted
      (accessDone dr (readValue .jtag (dr.toNat % 2 ^ 27) s).2 false false) := by
  unfold jtagAccess
  dsimp only
  rw [if_neg (not_not_intro h4), hread, if_neg Bool.false_ne_true, if_neg (Bool.eq_false_iff.1 hwaits)]
  unfold readOn
  dsimp only
  rw [if_pos hcaps]
  rfl

/-- A write that does not wait is done. -/
theorem jtagAccess_write {t : State} (hwrite : dr.getLsbD 64 = true)
    (ht : regWrite .jtag (dr.toNat % 2 ^ 27) (BitVec.ofNat 32 (dr.toNat / 2 ^ 32)) none (.regAccess dr) s = t)
    (hstalled : t.audit.stalled = s.audit.stalled) :
    ∃ refused, jtagAccess dr s = t.shifted (accessDone dr (BitVec.ofNat 32 (dr.toNat / 2 ^ 32)) true refused) := by
  have data : BitVec.ofNat 32 (bitsN dr.toNat 63 32) = BitVec.ofNat 32 (dr.toNat / 2 ^ 32) := by
    rw [bitsN_eq]
    apply BitVec.eq_of_toNat_eq
    rw [BitVec.toNat_ofNat, BitVec.toNat_ofNat, Nat.mod_mod]
  unfold jtagAccess
  dsimp only
  rw [if_neg (not_not_intro h4), hwrite, if_pos rfl, data, ht, if_neg (not_not_intro (congrArg List.length hstalled))]
  exact ⟨_, rfl⟩

end

/-- Settles O24: once REG_ACCESS is loaded, a start is an access of path 9. -/
theorem jtagRegisterAccess : Obligations.JtagRegisterAccess := by
  intro s dr hpgood hpor hheld hcaps t a data
  have loaded : regAccess dr s = if dr.getLsbD 65 ∧ t.auditRuns then jtagAccess dr t else { t with jtag := { t.jtag with dr := dr } } :=
    (if_neg (not_not_intro hpgood)).trans (if_neg (not_not_intro hcaps))
  have runs : t.auditRuns = true := auditRuns_of (s := t) hpor hheld
  refine ⟨fun hheldOnly => congrArg Host.Outcome.next (loaded.trans (if_neg fun h => Bool.eq_false_iff.1 hheldOnly h.1)),
    fun hstart hread hwaits hplain hhigh h4 ⟨l, hl, h1⟩ => ?read, fun hstart hwrite htakes hplain h4 => ?write⟩
  case read =>
    have done := jtagAccess_read (s := t) h4 hread hwaits hcaps
    rw [readValue_one hplain hl (banked_high hhigh) h1] at done
    refine ⟨_, congrArg Host.Outcome.next (loaded.trans ((if_pos ⟨hstart, runs⟩).trans done)), accessDone_done _ _ _ _,
      accessDone_accepted _ _ _, ?_, rfl⟩
    exact (accessDone_data _ _ _ _).trans (congrArg BitVec.toNat (regValue_jtag_paths s _ s.paths _))
  case write =>
    have low : a < 2 ^ 27 := Nat.mod_lt _ (by decide)
    have same : (BitVec.ofNat 27 a).toNat = a := Nat.mod_eq_of_lt low
    refine ⟨_, _, congrArg Host.Outcome.next (loaded.trans (if_pos ⟨hstart, runs⟩)), exec_registerWrite _ _ _ _, fun hstalled => ?_⟩
    have written : regWrite .jtag a data none (.regAccess dr) t = writeReg .jtag (BitVec.ofNat 27 a).toNat data t := by
      rw [same, writeReg_one htakes hplain low h4]
      exact (writeReg_one htakes hplain low h4 _ _).symm
    obtain ⟨refused, done⟩ := jtagAccess_write (s := t) h4 hwrite written hstalled
    rw [done]
    exact ⟨accessDone_done _ _ _ _, State.shifted_keeps _ _⟩

end Sys2Proof.Machine
end

section
/-! PROOFS. Writes refused for their origin, and the reads and writes of register pairs (R468, R472). -/

namespace Sys2Proof.Machine

/-! ### Writes refused for their origin (R468) -/

section
variable {s : State} {p : Path} (hup : s.pathUp p = true) (hwaits : s.pathWaits p = false) (hres : s.audit.reserve = [])
  (hroom : s.audit.ring.length + 64 ≤ auditSlots)
include hup hwaits hres hroom

/-- A write of a register needs at most three entries: that of a discarded `_LO`, its own, and that of a table entry. -/
theorem regWrite_plain {a : Nat} (ha : findAlias a = none) (h27 : a < 2 ^ 27) (h4 : a % 4 = 0) (v : Word) (tok : Option SignedObj) (c : Instr) :
    regWrite p a v tok c s = writeOne p a v tok (discardStaged p a s) := by
  have room : 63 ≤ s.auditRoom := by
    have := bit_le (s.audit.lostRun != 0)
    unfold State.auditRoom
    rw [hres, List.length_nil]
    omega
  have needs : s.entriesOf p a v ≤ 3 := by
    have := bit_le (s.discards p a).isSome
    have := bit_le ((decide (a = aFabr 0x18) || decide (a = aFabr 0x208)) && v.getLsbD 1)
    unfold State.entriesOf
    rw [ha]
    dsimp only
    split
    · split <;> omega
    · omega
  unfold regWrite
  rw [if_neg (fun e => e.elim (absurd hup) (absurd h27 ∘ Nat.not_lt.2)), if_neg (not_not_intro h4),
    if_neg (fun e => Bool.eq_false_iff.1 hwaits e.1), if_neg (fun e => absurd e.1 (by omega))]
  dsimp only
  rw [ha]

end

/-- What counting leaves does not change whether an origin is refused. -/
theorem originRefused_counted {s : State} {p : Path} {a v : Nat} (h : s.originRefused p a v = true) :
    (countVerdict p .refused s).originRefused p a v = true := by
  obtain ⟨r, x, c, o, e⟩ := (countVerdict_refused_rec p s).1.frame
  rw [e]
  exact h

/-- A write refused for its origin is entered, and changes nothing. -/
theorem landWrite_origin {w : RegWr} {s : State} (ho : s.originRefused w.path w.addr w.val = true) (h1 : w.loc.row.half = .one)
    (hk : isAck w.addr = false) (hres : s.audit.reserve = []) :
    landWrite w .refused s = auditAppend (regEntry w.path 1 w.addr (s.oldValue w.path w.addr false) w.val) s := by
  unfold landWrite
  dsimp only
  rw [if_pos ho, h1]
  exact appendOrigin_ring _ hk hres

/-- Settles O18: the verdict of a write from a refused origin is `refused`, whose count and entry are all that it leaves. -/
theorem refusedWriteChangesNothing : Obligations.RefusedWriteChangesNothing := by
  intro s p a v w hup hwaits hkept hres hlost hroom hk hplain h4 hw h1 hr horigin once counted hcounted
  obtain ⟨l, hl, rfl⟩ := theWrite_eq_some hw
  have refused : RegWr.verdict { path := p, loc := l, addr := a.toNat, val := v.toNat, tok := none } s = .refused := if_pos horigin
  have count : countVerdict p .refused s = counted := countVerdict_refused p s
  have kept : discardStaged p a.toNat s = s := by
    rw [discardStaged, hkept]
  have lands := write_lands ((regWrite_plain hup hwaits hres hroom hplain a.isLt h4 v none _).trans (by rw [kept])) hl h1 _ rfl
  rw [exec_registerWrite, lands, refused, landWrite_origin (originRefused_counted horigin) h1 hk (count ▸ hcounted), count]

/-! ### Reads of a pair (R472) -/

/-- The registers that each path has of its own are no halves of pairs. -/
theorem half_banked {a : Nat} {l : RegLoc} (hl : locate a = some l) (hb : banked a = true) : l.row.half = .one := by
  have single : ∀ b ∈ [0x020, 0x024, 0x034], (locate b).map (fun l => l.row.half) = some .one := by decide +kernel
  have mem : a ∈ [0x020, 0x024, 0x034] := by
    simp only [banked, Bool.or_eq_true, decide_eq_true_eq] at hb
    simp only [List.mem_cons, List.not_mem_nil, or_false]
    exact or_assoc.1 hb
  have h := single a mem
  rw [hl] at h
  exact Option.some.inj h

theorem banked_half {a : Nat} {l : RegLoc} (hl : locate a = some l) (hh : l.row.half ≠ .one) : banked a = false :=
  Bool.eq_false_iff.2 fun hb => hh (half_banked hl hb)

/-- AUDT_ACK_SEQ is a pair: its `_LO` waits for no slot where its `_HI` waits for none. -/
theorem isAck_lo {a : Nat} {l : RegLoc} (hl : locate a = some l) (hlo : l.row.half = .lo) (hk : isAck (a + 4) = false) : isAck a = false := by
  simp only [isAck, Bool.or_eq_false_iff, decide_eq_false_iff_not] at hk ⊢
  refine ⟨fun e => hk.2 ?_, fun e => ?_⟩
  · rw [e]
    rfl
  · have hi : locate a = some ackHi := e ▸ locate_ackHi
    rw [hl] at hi
    rw [Option.some.inj hi] at hlo
    exact absurd hlo (by decide)

/-- A broadcast or group read is one of its first member's half. -/
theorem readValue_alias {s : State} {p : Path} {a : Nat} {x : AliasAt} (hx : findAlias a = some x) :
    readValue p a s = (aliasRead p x s).1.readAs p a (match locate (x.addr 0) with | some l => l.row.half | none => .one) (aliasRead p x s).2
      (((s.aliasMembers x).filter fun n => !s.memberOut x.block n).foldl (fun w n => w ||| s.regValue (x.addr n + 4)) 0)
      (s.path (pathNo p)).shadow := by
  unfold readValue
  rw [hx]
  rfl

theorem readValue_reserved {s : State} {p : Path} {a : Nat} (hplain : findAlias a = none) (hl : locate a = none) :
    readValue p a s = s.readAs p a .one 0 0 (s.path (pathNo p)).shadow := by
  unfold readValue
  rw [hplain, hl]
  rfl

theorem readAs_fst (t : State) (p : Path) (a : Nat) (half : Half) (v hi : Word) (kept : Option (Nat × Word)) :
    (t.readAs p a half v hi kept).1 = t.shadowed p (if half = .lo then some (a + 4, hi) else none) := by
  cases half with
  | lo => rfl
  | hi => rfl
  | one => rfl

theorem shadow_shadowed {t : State} (h : t.keysRise = true) (p : Path) (k : Option (Nat × Word)) :
    ((t.shadowed p k).path (pathNo p)).shadow = k := by
  rw [State.shadowed, State.path_setPath h, if_pos rfl]

/-- A read leaves its path's shadow empty, or holding the `_HI` of the pair whose `_LO` it read. -/
theorem shadow_readValue {s : State} (h : s.keysRise = true) (p : Path) (a : Nat) {b : Nat} {w : Word}
    (hb : ((readValue p a s).1.path (pathNo p)).shadow = some (b, w)) : b = a + 4 := by
  have of_readAs {t : State} (ht : t.keysRise = true) (half : Half) (v hi : Word) (kept : Option (Nat × Word))
      (e : readValue p a s = t.readAs p a half v hi kept) : b = a + 4 := by
    rw [e, readAs_fst, shadow_shadowed ht] at hb
    split at hb
    · exact (congrArg Prod.fst (Option.some.inj hb)).symm
    · cases hb
  cases hx : findAlias a with
  | some x => exact of_readAs ((aliasRead_keeps p x (Keeps.refl true s)).keys h) _ _ _ _ (readValue_alias hx)
  | none =>
    cases hl : locate a with
    | none => exact of_readAs h _ _ _ _ (readValue_reserved hx hl)
    | some l => exact of_readAs h _ _ _ _ (readValue_located hx hl)

/-! ### Writes of a pair (R472) -/

/-- A write of a `_LO` is staged. -/
theorem write_staged {s : State} {p : Path} {a : Nat} {v : Word} {l : RegLoc} (ht : s.Takes p a v) (hplain : findAlias a = none)
    (h27 : a < 2 ^ 27) (h4 : a % 4 = 0) (hl : locate a = some l) (hlo : l.row.half = .lo) (hacts : l.row.readOnly = false) :
    writeReg p a v s = s.setPath (pathNo p) { s.path (pathNo p) with staged := some (a, v) } := by
  unfold writeReg
  rw [writeReg_one ht hplain h27 h4]
  unfold writeOne
  rw [hl]
  dsimp only
  rw [hacts, if_neg Bool.false_ne_true, hlo]
  exact if_neg (Bool.eq_false_iff.1 ht.origin)

theorem pairValue_staged {s : State} {p : Path} {a : Nat} {x : Word} (h : (s.path (pathNo p)).staged = some (a, x)) (y : Word) :
    s.pairValue p a a y = x.toNat + y.toNat * 2 ^ 32 := by
  unfold State.pairValue
  rw [h]
  dsimp only
  rw [if_pos rfl]

theorem pairValue_current {s : State} {p : Path} {a : Nat} (h : (s.path (pathNo p)).staged = none) (y : Word) :
    s.pairValue p a a y = (s.regValue a).toNat + y.toNat * 2 ^ 32 := by
  unfold State.pairValue
  rw [h]

/-- A staged `_LO` that another write of its path discards is entered and counted as ignored. -/
theorem discardStaged_of {s : State} {p : Path} {a b : Nat} {x : Word} (h : (s.path (pathNo p)).staged = some (a, x)) (hb : b ≠ a + 4)
    (hk : isAck a = false) (hres : s.audit.reserve = []) :
    discardStaged p b s =
      let u := countVerdict p .ignored (auditAppend (regEntry p 2 a (s.regValue (a + 4) ++ s.regValue a) x.toNat) s)
      u.setPath (pathNo p) { u.path (pathNo p) with staged := none } := by
  have discards : s.discards p b = some (a, x) := by
    unfold State.discards
    rw [h]
    exact if_neg hb
  unfold discardStaged
  rw [discards]
  dsimp only
  rw [appendOrigin_ring _ hk hres]
  rfl

/-- Both halves of a pair take their bits, and no other register changes. -/
theorem reg_storeWr_pair {w : RegWr} {h : RegLoc} {t : State} (hwf : t.regsWf = true) (hheld : heldElsewhere w.loc = false)
    (hlo : w.loc.row.half = .lo) (hh : locate (w.addr + 4) = some h) (b : Nat) : (storeWr w t).reg b =
      if b = w.addr + 4 then t.mergedWord h (t.reg (w.addr + 4)) (wordOf 1 w.val)
      else if b = w.addr then t.mergedWord w.loc (t.reg w.addr) (wordOf 0 w.val) else t.reg b := by
  have apart : w.addr + 4 ≠ w.addr := by omega
  rw [storeWr_pair hheld hlo hh, storeWord_eq, storeWord_eq, State.reg_setReg (State.regsWf_setReg hwf _ _), State.reg_setReg hwf w.addr b,
    State.reg_setReg hwf w.addr (w.addr + 4), if_neg apart]
  rfl

section
variable {s : State} {p : Path} {a v : Nat} {l h : RegLoc} (hl : locate a = some l)
include hl

theorem storedPair_eq : s.storedPair p a v =
    storeWr { path := p, loc := l, addr := a, val := v, tok := none } ((unstage p s).entered p a v true) := by
  unfold State.storedPair theWrite
  rw [hl]
  rfl

theorem reg_storedPair (hwf : s.regsWf = true) (hlo : l.row.half = .lo) (hh : locate (a + 4) = some h) (hheld : heldElsewhere l = false)
    (b : Nat) : (s.storedPair p a v).reg b =
      if b = a + 4 then s.mergedWord h (s.reg (a + 4)) (wordOf 1 v)
      else if b = a then s.mergedWord l (s.reg a) (wordOf 0 v) else s.reg b := by
  obtain ⟨x, hx⟩ := entered_frame (unstage p s) p a v true
  rw [storedPair_eq hl, hx]
  exact reg_storeWr_pair (w := { path := p, loc := l, addr := a, val := v, tok := none }) (t := { unstage p s with audit := x }) hwf hheld hlo hh b

end

/-- The entry of a pair holds both values whole, under the address of its `_LO`. -/
theorem ring_storedPair {s : State} (hlost : s.audit.lostRun = 0) (p : Path) {a : Nat} (v : Nat) {l : RegLoc} (hl : locate a = some l) :
    ∃ e, (s.storedPair p a v).audit.ring = s.audit.ring ++ [e] ∧ e.target = BitVec.ofNat 64 a ∧
      e.old = (s.regValue (a + 4) ++ s.regValue a : Dword) ∧ e.new = BitVec.ofNat 64 v ∧ e.flags = 0 ∧ (e.cls, e.originId) = pathOrigin p := by
  have old : (unstage p s).oldValue p a true = s.regValue (a + 4) ++ s.regValue a :=
    congrArg₂ (fun hi lo : Word => (hi ++ lo : Dword)) (regValue_jtag_paths s s.jtag _ (a + 4)) (regValue_jtag_paths s s.jtag _ a)
  obtain ⟨c, hring, -⟩ := auditAppend_ring (s := unstage p s) hlost (regEntry p 0 a ((unstage p s).oldValue p a true) v)
  rw [storedPair_eq hl, storeWr_audit]
  exact ⟨_, hring, rfl, old, rfl, rfl, rfl⟩

theorem staged_storedPair {s : State} (h : s.keysRise = true) (p : Path) (a v : Nat) :
    ((s.storedPair p a v).path (pathNo p)).staged = none := by
  obtain ⟨r, x, e⟩ := storedPair_frame s p a v
  rw [e]
  change ((unstage p s).path (pathNo p)).staged = none
  rw [unstage, State.path_setPath h, if_pos rfl]

/-- Settles O20: a read is `readAs` of its half; a `_LO` written is staged, and its `_HI` stores the pair. -/
theorem pairsAreWhole : Obligations.PairsAreWhole := by
  intro s p lo l h a n mine shows w pair applies bits plain hplain hplainHi h4 h27 hrise hwf hl hlo hh hhi
  have bankedLo : banked a = false := banked_half hl (by rw [hlo]; decide)
  have bankedHi : banked (a + 4) = false := banked_half hh (by rw [hhi]; decide)
  have addrHi : (lo + 4).toNat = a + 4 := by
    rw [BitVec.toNat_add]
    exact Nat.mod_eq_of_lt h27
  have stores (y : Word) (hacts : plain) (ht : s.Takes p (a + 4) y) (v : Nat) (hv : s.pairValue p a a y = v) : applies y v := by
    intro happlied
    have placed : PlacedPair a l h := ⟨hl, hh, hlo, hhi, hacts.2.1, hplainHi, h27, h4, isAck_lo hl hlo hacts.2.2⟩
    rw [exec_registerWrite, addrHi, write_storedPair ht placed (by rw [hv]; exact happlied), hv]
  refine ⟨fun hr => ?readLo, fun v hr hv => ?readShadow, fun hr hv => ?readLive, fun b t hb hr ht v hv => ?readOther, fun x hacts ht => ?stage,
    fun x y hacts ht hx => stores y hacts ht _ (pairValue_staged hx y), fun y hacts ht hx => stores y hacts ht _ (pairValue_current hx y),
    fun v hheld => ?bits, fun v hlost => ring_storedPair hlost p v hl, fun b v x hx hk hkb hb hb4 hbplain hup hwaits hres hroom => ?discard⟩
  case readLo =>
    rw [exec_aliasRead hr, readValue_plain hplain hl bankedLo, hlo]
    rfl
  case readShadow =>
    rw [← addrHi] at hr
    rw [exec_aliasRead hr, addrHi, readValue_plain hplainHi hh bankedHi, hhi, readAs_shadow s p (a + 4) hv]
    rfl
  case readLive =>
    rw [← addrHi] at hr
    rw [exec_aliasRead hr, addrHi, readValue_plain hplainHi hh bankedHi, hhi, readAs_live s p (a + 4) hv]
    rfl
  case readOther =>
    rw [exec_aliasRead hr] at ht
    have read : t.path n = (readValue p b.toNat s).1.path n := by
      rw [← Host.Outcome.next.inj ht]
      rfl
    rw [read] at hv
    have same := shadow_readValue hrise p b.toNat hv
    exact hb (BitVec.eq_of_toNat_eq (Nat.add_right_cancel same.symm))
  case stage => rw [exec_registerWrite, write_staged ht hplain (by omega) h4 hl hlo hacts.1]
  case bits =>
    have reads := reg_storedPair (v := v) (p := p) hl hwf hlo hh hheld
    refine ⟨?_, ?_, fun b hb hb' => ?_, staged_storedPair hrise p a v⟩
    · rw [reads a, if_neg (by omega), if_pos rfl]
      rfl
    · rw [reads (a + 4), if_pos rfl]
      rfl
    · rw [reads b, if_neg hb', if_neg hb]
  case discard =>
    intro u
    rw [exec_registerWrite, writeReg, regWrite_plain hup hwaits hres hroom hbplain b.isLt hb4, discardStaged_of hx hb hk hres]

end Sys2Proof.Machine
end

section
/-! PROOFS. Broadcast and group reads (R475, R476). -/

namespace Sys2Proof.Machine

/-! ### The OR of the members -/

theorem getLsbD_foldl_or (vs : List Word) (w : Word) (i : Nat) :
    (vs.foldl (fun w u => w ||| u) w).getLsbD i = (w.getLsbD i || vs.any fun u => u.getLsbD i) := by
  induction vs generalizing w with
  | nil => exact (Bool.or_false _).symm
  | cons u vs ih => rw [List.foldl_cons, ih, BitVec.getLsbD_or, List.any_cons, Bool.or_assoc]

/-- A bit of the OR is set where some member's is. -/
theorem getLsbD_or_iff (vs : List Word) (i : Nat) : (vs.foldl (fun w u => w ||| u) 0).getLsbD i = true ↔ ∃ v ∈ vs, v.getLsbD i = true := by
  rw [getLsbD_foldl_or, BitVec.ofNat_eq_ofNat, BitVec.getLsbD_zero, Bool.false_or, List.any_eq_true]

/-- Members disagree where one differs from the first. -/
theorem differs_iff (vs : List Word) : (∃ v ∈ vs, v ≠ vs.headD 0) ↔ ∃ u ∈ vs, ∃ v ∈ vs, u ≠ v := by
  cases vs with
  | nil => simp
  | cons w vs =>
    refine ⟨fun ⟨v, hv, hne⟩ => ⟨v, hv, w, List.mem_cons_self, hne⟩, fun ⟨u, hu, v, hv, hne⟩ => ?_⟩
    by_cases hw : u = w
    · exact ⟨v, hv, fun e => hne (hw.trans e.symm)⟩
    · exact ⟨u, hu, hw⟩

theorem find_differs (inn : List Nat) (f : Nat → Word) : ((inn.zip (inn.map f)).find? fun e => e.2 != (inn.map f).headD 0).isSome = true ↔
    ∃ u ∈ inn.map f, ∃ v ∈ inn.map f, u ≠ v := by
  rw [← differs_iff, List.find?_isSome, ← List.map_prod_left_eq_zip]
  constructor
  · rintro ⟨e, he, hne⟩
    obtain ⟨k, hk, rfl⟩ := List.mem_map.1 he
    exact ⟨f k, List.mem_map_of_mem hk, bne_iff_ne.1 hne⟩
  · rintro ⟨v, hv, hne⟩
    obtain ⟨k, hk, rfl⟩ := List.mem_map.1 hv
    exact ⟨(k, f k), List.mem_map_of_mem hk, bne_iff_ne.2 hne⟩

/-! ### The status that a broadcast or group read leaves (R476) -/

/-- The block and the selection of a broadcast or group address fit the fields of the status. -/
def AliasFits (o : Option AliasAt) : Prop := ∀ x, o = some x → x.block < 16 ∧ x.sel < 256

theorem AliasFits.or {o o' : Option AliasAt} (h : AliasFits o) (h' : AliasFits o') : AliasFits (o.or o') := fun x e =>
  (Option.or_eq_some_iff.1 e).elim (h x) fun e' => h' x e'.2

theorem aliasFits_ite {c : Prop} [Decidable c] {x : AliasAt} (h : c → x.block < 16 ∧ x.sel < 256) : AliasFits (if c then some x else none) := by
  intro y e
  obtain ⟨hc, e⟩ := Option.ite_none_right_eq_some.1 e
  rw [← Option.some.inj e]
  exact h hc

theorem aliasFits_findAlias (a : Nat) : AliasFits (findAlias a) := by
  have one (block base reach : Nat) (hb : block < 16) : AliasFits (if base ≤ a ∧ a < base + reach then
      some { block := block, sel := 16, off := a - base : AliasAt } else none) := aliasFits_ite fun _ => ⟨hb, by dsimp only; omega⟩
  have grp (block base reach : Nat) (hb : block < 16) : AliasFits (if base ≤ a ∧ a < base + 16 * 0x1000 ∧ (a - base) % 0x1000 < reach then
      some { block := block, sel := (a - base) / 0x1000, off := (a - base) % 0x1000 : AliasAt } else none) :=
    aliasFits_ite fun _ => ⟨hb, by dsimp only; omega⟩
  exact ((((one 1 _ _ (by decide)).or (grp 1 _ _ (by decide))).or (one 2 _ _ (by decide))).or (grp 2 _ _ (by decide))).or
    ((one 3 _ _ (by decide)).or (grp 3 _ _ (by decide)))

/-- The status: whether the members disagree, whether none took part, whether some have disagreed, the block and the selection,
and how many took part. -/
def aliasStatus (x : AliasAt) (differ none' sticky : Bool) (n : Nat) : Word :=
  packBits [(bit differ, 0), (bit none', 1), (bit sticky, 2), (x.block, 4), (x.sel, 8), (n, 16)]

section
variable {x : AliasAt} (hx : x.block < 16 ∧ x.sel < 256) (differ none' sticky : Bool) (n : Nat)

theorem aliasStatus_toNat : (aliasStatus x differ none' sticky n).toNat =
    (0 + bit differ * 2 ^ 0 + bit none' * 2 ^ 1 + bit sticky * 2 ^ 2 + x.block * 2 ^ 4 + x.sel * 2 ^ 8 + n * 2 ^ 16) % 2 ^ 32 := by
  unfold aliasStatus packBits
  rw [BitVec.toNat_ofNat, List.foldl_cons, List.foldl_cons, List.foldl_cons, List.foldl_cons, List.foldl_cons, List.foldl_cons, List.foldl_nil]

theorem aliasStatus_differ : (aliasStatus x differ none' sticky n).getLsbD 0 = differ := by
  rw [BitVec.getLsbD, aliasStatus_toNat, Nat.testBit_eq_decide_div_mod_eq]
  cases differ with
  | true =>
    rw [decide_eq_true_eq, show bit true = 1 from rfl]
    omega
  | false =>
    rw [decide_eq_false_iff_not, show bit false = 0 from rfl]
    omega

include hx

theorem aliasStatus_count : (aliasStatus x differ none' sticky n).toNat / 2 ^ 16 = n % 2 ^ 16 := by
  obtain ⟨hblock, hsel⟩ := hx
  have := bit_le differ
  have := bit_le none'
  have := bit_le sticky
  rw [aliasStatus_toNat]
  omega

end

/-- The members that take part in a broadcast or group read. -/
def State.aliasIn (s : State) (x : AliasAt) : List Nat := (s.aliasMembers x).filter fun n => !s.memberOut x.block n

/-- A broadcast or group read leaves its status with its path, and answers the OR of the members that take part. -/
theorem aliasRead_eq (p : Path) (x : AliasAt) (s : State) :
    let vals := (s.aliasIn x).map fun n => s.regValue (x.addr n)
    ∃ y none' sticky, aliasRead p x s = (s.setPath (pathNo p) y, vals.foldl (fun w u => w ||| u) 0) ∧
      y.bcast = aliasStatus x (((s.aliasIn x).zip vals).find? fun e => e.2 != vals.headD 0).isSome none' sticky (s.aliasIn x).length :=
  ⟨_, _, _, rfl, rfl⟩

theorem path_shadowed_setPath {s : State} (h : s.keysRise = true) (p : Path) (y : PathState) (k : Option (Nat × Word)) (q : Nat) :
    ((s.setPath (pathNo p) y).shadowed p k).path q = if q = pathNo p then { y with shadow := k } else s.path q := by
  have h' : (s.setPath (pathNo p) y).keysRise = true := (State_setPath_keeps (pathNo p) y (Keeps.refl true s)).keys h
  rw [State.shadowed, State.path_setPath h', State.path_setPath h, State.path_setPath h, if_pos rfl]
  split
  · rfl
  · rfl

theorem readAs_snd {t : State} {p : Path} {a : Nat} {half : Half} {v hi : Word} {kept : Option (Nat × Word)}
    (h : half ≠ .hi ∨ ∀ w, kept ≠ some (a, w)) : (t.readAs p a half v hi kept).2 = v := by
  cases half with
  | lo => rfl
  | one => rfl
  | hi => rw [readAs_live t p a (h.resolve_left (not_not_intro rfl))]

/-- Settles O21: the read is `readAs` of the OR, on the state that has the status. -/
theorem aliasReadOrs : Obligations.AliasReadOrs := by
  intro s p a x l hr hx hl hrise n inn vals ors
  obtain ⟨y, none', sticky, hread, hstatus⟩ := aliasRead_eq p x s
  have read := readValue_alias (p := p) (s := s) hx
  rw [hl, hread] at read
  dsimp only at read
  have left : (readValue p a.toNat s).1 = _ := (congrArg Prod.fst read).trans (readAs_fst _ _ _ _ _ _ _)
  have path (o : Out) (q : Nat) : ((readValue p a.toNat s).1.emit o).path q = _ :=
    (congrArg (fun t => State.path t q) left).trans (path_shadowed_setPath hrise p y _ q)
  refine ⟨_, (readValue p a.toNat s).2, exec_aliasRead hr, ?outputs, fun h => ?or, fun v hhi hv => ?shadow,
    fun hlo => ?captured, ?differ, ?count, fun q hq => (path _ q).trans (if_neg hq), fun b => ?registers⟩
  case outputs =>
    change (readValue p a.toNat s).1.outputs ++ _ = _
    rw [left]
    rfl
  case registers =>
    change (readValue p a.toNat s).1.reg b = _
    rw [left]
    rfl
  case or =>
    rw [read, readAs_snd h]
    exact fun i _ => getLsbD_or_iff vals i
  case shadow => rw [read, hhi, readAs_shadow _ p a.toNat hv]
  case captured =>
    rw [path, if_pos rfl]
    dsimp only
    rw [if_pos hlo, ← List.foldl_map]
    exact ⟨_, rfl, fun i _ => getLsbD_or_iff _ i⟩
  case differ =>
    rw [path, if_pos rfl]
    dsimp only
    rw [hstatus, aliasStatus_differ]
    exact find_differs inn _
  case count =>
    rw [path, if_pos rfl]
    dsimp only
    rw [hstatus]
    exact aliasStatus_count (aliasFits_findAlias _ x hx) _ _ _ _

end Sys2Proof.Machine
end

section
/-! PROOFS. The block's step, its state before power, and what a loss of power, the reset pins and the end of a start leave (R32, R34, R37, R38, R314, R328, R419, R439, R487 to R491). -/

namespace Sys2Proof.Machine

/-! ### The step (R314, R328) -/

/-- Settles O1: the queue has a front or it is empty, and then TIME runs or stands. -/
theorem stepRunsFront : Obligations.StepRunsFront := by
  refine ⟨fun _ _ _ => rfl, ?_⟩
  intro s hempty runs ran
  have idles : step s = .next (idle s) := by unfold step; rw [hempty]
  rw [idles]
  refine congrArg Host.Outcome.next ?_
  unfold idle
  cases htime : s.timeRuns with
  | true => rw [show runs = true from htime]; rfl
  | false => rw [show runs = false from htime]; rfl

/-- Settles O2: no register is listed, so each reads its reset value, and the live ones what OFF shows. -/
theorem resetState : Obligations.ResetState :=
  ⟨rfl, rfl, rfl, by decide +kernel, by decide +kernel, by decide +kernel, by decide +kernel, by decide +kernel, by decide +kernel, fun _ => rfl⟩

/-! ### Moves of the device state, in any state of the ledger (R37, R38) -/

/-- Where no context is active an event of the device reaches no ring (R71). -/
theorem raise_quiet {e : ERec} {s : State} (hidle : s.activeCtxs = []) (he : e.ctx = 0xFF) : raise e s = s := by
  unfold raise
  rw [raiseN, if_pos he, hidle]
  rfl

theorem count_quiet {s : State} (hidle : s.activeCtxs = []) {a : Nat} (ha : counterCtx a = 0xFF) (n : Nat) :
    ∃ r, count a n s = { s with regs := r } := by
  have raw : ∃ r, (countRaw a n s).1 = { s with regs := r } := by
    unfold countRaw
    repeat' split
    all_goals exact ⟨_, rfl⟩
  obtain ⟨r, hr⟩ := raw
  have toAll : (cntSaturated a).ctx = 0xFF := by unfold cntSaturated; rw [ha]; rfl
  refine ⟨r, ?_⟩
  unfold count countWith
  dsimp only
  rw [hr]
  split
  · exact raise_quiet (s := { s with regs := r }) hidle toAll
  · rfl

/-- Where no context is active a HARDWARE entry changes the ledger and its counter of losses only (R460). -/
theorem auditHw_quiet {s : State} (hidle : s.activeCtxs = []) (e : AuditEntry) :
    ∃ r x, auditHw e s = { s with regs := r, audit := x } := by
  unfold auditHw auditHwWith
  split
  · obtain ⟨x, hx⟩ := auditAppend_frame e s
    exact ⟨_, x, hx⟩
  split
  · exact ⟨_, _, rfl⟩
  · obtain ⟨r, hr⟩ := count_quiet (s := { s with audit := { s.audit with lostRun := s.audit.lostRun + 1 } }) hidle
      (a := aAudt 0x40) (by decide) 1
    refine ⟨r, { s.audit with lostRun := s.audit.lostRun + 1 }, ?_⟩
    change (if _ then raise _ (count (aAudt 0x40) 1 _) else count (aAudt 0x40) 1 _) = _
    rw [hr]
    split
    · exact raise_quiet (s := { s with regs := r, audit := { s.audit with lostRun := s.audit.lostRun + 1 } }) hidle rfl
    · rfl

section
variable (d : DevState) (s : State)

/-- A move, or none, leaves alone all but the device state, records and the alert. -/
theorem setDev_shape : ∃ p n r x c o m b, setDev d s =
    { s with dev := d, prev := p, devSince := n, regs := r, audit := x, ctxs := c, outputs := o, smb := m,
             power := { s.power with smbAlertLow := b } } := by
  by_cases h : s.dev = d
  · refine ⟨s.prev, s.devSince, s.regs, s.audit, s.ctxs, s.outputs, s.smb, s.power.smbAlertLow, ?_⟩
    subst h
    exact if_pos rfl
  · obtain ⟨r, x, c, o, m, b, e⟩ := setDev_frame h
    exact ⟨_, _, r, x, c, o, m, b, e⟩

theorem setDev_time : (setDev d s).time = s.time := by
  obtain ⟨p, n, r, x, c, o, m, b, e⟩ := setDev_shape d s
  rw [e]

theorem setDev_fabric : (setDev d s).fabric = s.fabric := by
  obtain ⟨p, n, r, x, c, o, m, b, e⟩ := setDev_shape d s
  rw [e]

end

theorem smbAlert_reg (i : Nat) (s : State) (a : Nat) : (smbAlert i s).reg a = s.reg a := by
  obtain ⟨m, b, e⟩ := smbAlert_frame i s
  rw [e]
  rfl

theorem smbAlert_ctxs (i : Nat) (s : State) : (smbAlert i s).ctxs = s.ctxs := by
  obtain ⟨m, b, e⟩ := smbAlert_frame i s
  rw [e]

/-- A register that is no counter of recording reads as before. -/
theorem setDev_reg {s : State} (h : s.regsWf = true) (d : DevState) {a : Nat} (ha : recordReg a = false) : (setDev d s).reg a = s.reg a := by
  unfold setDev
  split
  · rfl
  · rw [smbAlert_reg]
    exact (rec_auditState 1 1 0 s.dev.code d.code (Rec.refl [] { s with dev := d, prev := s.dev, devSince := s.time })).1.regs h a ha
      List.not_mem_nil

/-- Where no context is active a move leaves the contexts as they are. -/
theorem setDev_ctxs_idle {s : State} (hidle : s.activeCtxs = []) (d : DevState) : (setDev d s).ctxs = s.ctxs := by
  unfold setDev
  split
  · rfl
  · obtain ⟨r, x, e⟩ := auditHw_quiet (s := { s with dev := d, prev := s.dev, devSince := s.time }) hidle
      (mkEntry 5 4 0 (BitVec.ofNat 48 1) (BitVec.ofNat 64 (5 * 2 ^ 56 + 0 * 256 + 1)) (BitVec.ofNat 64 s.dev.code) (BitVec.ofNat 64 d.code))
    rw [smbAlert_ctxs]
    unfold auditState
    rw [e]

/-! ### The main rails go off (R38, R487, R490) -/

theorem setSub_shape (w : SubState) (s : State) :
    ∃ m b, setSub w s = { s with smb := m, power := { s.power with sub := w, smbAlertLow := b } } := by
  unfold setSub
  dsimp only
  split
  · obtain ⟨m, b, e⟩ := smbAlert_frame 0 { s with power := { s.power with sub := w } }
    exact ⟨m, b, e⟩
  · exact ⟨s.smb, s.power.smbAlertLow, rfl⟩

theorem NMap.mem_of_find? {α : Type} {m : NMap α} {k : Nat} {v : α} (h : NMap.find? m k = some v) : (k, v) ∈ m := by
  induction m with
  | nil => cases h
  | cons e t ih =>
    rcases NMap.find?_cons_eq_some.1 h with ⟨rfl, rfl⟩ | ⟨-, ht⟩
    · exact List.mem_cons_self
    · exact List.mem_cons_of_mem _ (ih ht)

/-- A register that is not kept reads its reset value, however the register file is listed. -/
theorem get_filter_lost {p : Nat → Bool} {a : Nat} (ha : p a = false) (m : NMap Word) :
    NMap.get regReset (m.filter fun e => p e.1) a = regReset a := by
  have gone : NMap.find? (m.filter fun e => p e.1) a = none := by
    rw [Option.eq_none_iff_forall_ne_some]
    intro v hv
    have kept := (List.mem_filter.1 (NMap.mem_of_find? hv)).2
    rw [ha] at kept
    exact absurd kept (by decide)
  unfold NMap.get
  rw [gone]
  rfl

theorem railsOff_eq {s : State} (hon : s.power.railsOn = true) (sub : SubState) : railsOff sub s =
    let s1 := clearDevice false true (setSub sub (setDev .off (smbKeep s)))
    { s1 with mem := [], hbm := [], jtag := { ir := 1, dr := 0 },
              boot := { Boot.reset with recovery := s.boot.recovery, recoveryTime := s.boot.recoveryTime },
              power := { s1.power with railsOn := false, pgood := false, porDone := false, heldPin := false, heldDbg := false,
                                       heldScan := false, heldCfd := false } } :=
  if_neg fun h => h hon

/-- The rails go off: the device has lost power, and OFF shows the sub-state. -/
theorem railsOff_lost {s : State} (hon : s.power.railsOn = true) (sub : SubState) : LostPower s (railsOff sub s) ∧
    ∃ b, (railsOff sub s).power = { s.power with sub := sub, smbAlertLow := b, railsOn := false, pgood := false, porDone := false,
                                                  heldPin := false, heldDbg := false, heldScan := false, heldCfd := false } := by
  obtain ⟨p, n, r, x, c, o, m, b, hdev⟩ := setDev_shape .off (smbKeep s)
  obtain ⟨m', b', hsub⟩ := setSub_shape sub (setDev .off (smbKeep s))
  rw [railsOff_eq hon, hsub, hdev]
  exact ⟨⟨rfl, ⟨rfl, rfl, rfl⟩, rfl, ⟨rfl, rfl⟩, ⟨rfl, rfl, rfl, rfl, rfl, rfl⟩, ⟨rfl, rfl, rfl⟩, rfl, fun a ha => get_filter_lost ha _⟩,
    b', rfl⟩

/-- What of the pins and the SMBus state changes besides is no part of it. -/
theorem LostPower.shown {s t : State} (h : LostPower s t) (m : Smb) (p : Power)
    (hp : p.railsOn = t.power.railsOn ∧ p.pgood = t.power.pgood ∧ p.porDone = t.power.porDone) :
    LostPower s { t with smb := m, power := p } := by
  obtain ⟨hrails, hpgood, hpor⟩ := h.rails
  exact ⟨h.dev, ⟨hp.1.trans hrails, hp.2.1.trans hpgood, hp.2.2.trans hpor⟩, h.flash, h.mem, h.work, h.audit, h.time, h.regs⟩

theorem smbAlert_alerts {i : Nat} (hi : i < 8) (s : State) : (smbAlert i s).smb.alerts.getLsbD i = true := by
  cases h : s.smb.alerts.getLsbD i with
  | true => unfold smbAlert; rw [if_pos h]; exact h
  | false => exact (smbAlert_raises hi h).1

/-- A loss of the rails that SMBus is alerted of. -/
theorem railsOff_alerted {s : State} (hon : s.power.railsOn = true) (sub : SubState) : LostPower s (smbAlert 5 (railsOff sub s)) ∧
    (smbAlert 5 (railsOff sub s)).smb.alerts.getLsbD 5 = true ∧
    (smbAlert 5 (railsOff sub s)).power.sub = sub ∧ (smbAlert 5 (railsOff sub s)).power.pwrEn = s.power.pwrEn := by
  obtain ⟨hlost, b, hpower⟩ := railsOff_lost hon sub
  obtain ⟨m, b', halert⟩ := smbAlert_frame 5 (railsOff sub s)
  refine ⟨?_, smbAlert_alerts (by decide) _, ?_⟩
  · rw [halert]
    exact hlost.shown _ _ ⟨rfl, rfl, rfl⟩
  · rw [halert]
    exact ⟨(congrArg Power.sub hpower :), (congrArg Power.pwrEn hpower :)⟩

/-- Settles O8: each command takes the rails off under its own condition, and `railsOff_lost` says what that leaves. -/
theorem railsGoOff : Obligations.RailsGoOff := by
  intro s hon
  have lost (sub : SubState) := railsOff_lost hon sub
  refine ⟨fun hen => ⟨_, congrArg Host.Outcome.next (if_neg fun h => h hen), ?fall⟩,
    ⟨_, congrArg Host.Outcome.next (if_neg fun h => h hon), ?brownOut⟩, ⟨_, congrArg Host.Outcome.next (if_neg fun h => h hon), ?fault⟩,
    fun hstandby => ⟨_, congrArg Host.Outcome.next (if_neg fun h => h hstandby), ?standby⟩, fun hstart hrun hpor hpend =>
      ⟨_, congrArg Host.Outcome.next (if_pos ⟨hstart, hrun, Bool.eq_false_iff.1 hpor, hpend⟩), ?cycle⟩⟩
  case fall =>
    obtain ⟨hlost, b, hpower⟩ := lost .standby
    exact ⟨hlost.shown _ _ ⟨rfl, rfl, rfl⟩, congrArg Power.sub hpower, rfl, rfl, rfl, rfl⟩
  case brownOut =>
    obtain ⟨hlost, halert, hsub, hen⟩ := railsOff_alerted hon .brownOut
    exact ⟨hlost.shown _ _ ⟨rfl, rfl, rfl⟩, hsub, rfl, hen, halert⟩
  case fault =>
    obtain ⟨hlost, halert, hsub, hen⟩ := railsOff_alerted hon .railFault
    exact ⟨hlost.shown _ _ ⟨rfl, rfl, rfl⟩, hsub, rfl, hen, halert⟩
  case standby => exact ⟨(lost .standby).1.shown _ _ ⟨rfl, rfl, rfl⟩, rfl⟩
  case cycle =>
    obtain ⟨hlost, b, hpower⟩ := lost .standby
    exact ⟨hlost.shown _ _ ⟨rfl, rfl, rfl⟩, congrArg Power.sub hpower, rfl⟩

end Sys2Proof.Machine
end

section
/-! PROOFS. Device resets by pins and clocks, and the end of a start (R22, R34, R38, R413, R416, R417, R419, R439, R491). -/

namespace Sys2Proof.Machine

/-! ### Device resets (R417) -/

/-- Whether a reset joins one that is held (R491). -/
def State.resetJoins (s : State) : Bool := s.starting && !s.boot.running && s.power.held

/-- Whether a cold start follows a reset. -/
def State.resetCold (src : Source) (cold : Bool) (s : State) : Bool :=
  cold || !decide (src ≠ .pin) || decide (s.dev = .recovery) || (s.resetJoins && decide (s.boot.kind = .cold))

/-- The source that a reset shows. -/
def State.resetShown (src : Source) (s : State) : Source := if s.resetJoins ∧ s.boot.source = .pin then .pin else src

/-- The device with its votes cast and its record written. -/
def resetRecorded (src : Source) (esc : Option (Option Word)) (s : State) : State :=
  recordDevice src esc.isSome (esc.getD none)
    (if decide (src ≠ .pin) then s.activeCtxs.foldl (fun t k => forcedVote k vDomainReset t) s else s)

/-- The registers and the rest as a reset leaves them, before memory and the start. -/
def resetCaused (src : Source) (cold timer : Bool) (esc : Option (Option Word)) (s : State) : State :=
  (setCause (s.resetShown src) (s.resetCold src cold) timer esc.isSome (clearDevice (decide (src ≠ .pin)) false (resetRecorded src esc s))).setRegBit
    (aRstc 0) src.code true

/-- The device as a reset leaves it, before the move to its start. -/
def deviceReset (src : Source) (cold timer : Bool) (esc : Option (Option Word)) (s : State) : State :=
  let s3 := resetCaused src cold timer esc s
  { s3 with hbm := if s.resetCold src cold then [] else s3.hbm,
            boot := { Boot.reset with kind := if s.resetCold src cold then .cold else .warm, fromPor := false, source := s.resetShown src,
                                      recovery := s.boot.recovery, recoveryTime := s.boot.recoveryTime } }

section
variable {s : State} (hdev : s.dev ≠ .off) (src : Source) (cold timer : Bool) (esc : Option (Option Word))

include hdev in
theorem resetDevice_moves : resetDevice src cold timer esc s =
    setDev (if s.resetCold src cold then .coldStart else .warmStart) (deviceReset src cold timer esc s) := by
  have left : ∀ (c : Bool) (b : Boot) (u : State), ({ (if c = true then { u with hbm := [] } else u) with boot := b } : State) =
      { u with hbm := if c then [] else u.hbm, boot := b } := by
    intro c b u
    cases c with
    | true => rfl
    | false => rfl
  exact (if_neg hdev).trans (congrArg (setDev _) (left (s.resetCold src cold) _ (resetCaused src cold timer esc s)))

theorem resetRecorded_keeps : Keeps true s (resetRecorded src esc s) :=
  recordDevice_keeps _ _ _ (keeps_ite (keeps_foldl (fun _ k h => forcedVote_keeps k vDomainReset h) _ (.refl _ s)) (.refl _ s))

section
variable (hwf : s.regsWf = true)
include hwf

theorem causeCleared_regsWf : (setCause (s.resetShown src) (s.resetCold src cold) timer esc.isSome
    (clearDevice (decide (src ≠ .pin)) false (resetRecorded src esc s))).regsWf = true :=
  (setCause_keeps (b := true) _ _ _ _ (clearDevice_keeps _ _ (resetRecorded_keeps src esc))).regs hwf

theorem deviceReset_regsWf : (deviceReset src cold timer esc s).regsWf = true :=
  (State_setRegBit_keeps (b := true) _ _ _ (.refl _ _)).regs (causeCleared_regsWf src cold timer esc hwf)

/-- RSTC_CAUSE shows the source. -/
theorem deviceReset_cause : (deviceReset src cold timer esc s).regBit (aRstc 0) src.code = true :=
  regBit_setRegBit_true (causeCleared_regsWf src cold timer esc hwf) _ (by cases src <;> decide)

/-- RSTC_LAST shows what the last reset was. -/
theorem deviceReset_last : (deviceReset src cold timer esc s).reg (aRstc 4) =
    packBits [((s.resetShown src).code, 0), (bit (s.resetCold src cold), 3), (bit esc.isSome, 4), (bit timer, 5)] := by
  change (resetCaused src cold timer esc s).reg (aRstc 4) = _
  unfold resetCaused
  rw [State.reg_setRegBit (causeCleared_regsWf src cold timer esc hwf), if_neg (by decide)]
  have cleared := (clearDevice_keeps (b := true) (decide (src ≠ .pin)) false (resetRecorded_keeps (s := s) src esc)).regs hwf
  unfold setCause
  rw [State.reg_setReg (State.regsWf_setReg cleared _ _), if_pos rfl]

end

/-- Where D2 goes on and no context is active, TIME runs on and the fabric carries transit. -/
theorem deviceReset_keepsD2 (hsrc : src ≠ .pin) (hidle : s.activeCtxs = []) : (deviceReset src cold timer esc s).time = s.time ∧
    (deviceReset src cold timer esc s).fabric = s.fabric.transitOnly := by
  have keepD2 : decide (src ≠ .pin) = true := decide_eq_true hsrc
  have recorded : resetRecorded src esc s = recordDevice src esc.isSome (esc.getD none) s := by
    unfold resetRecorded
    rw [hidle]
    exact congrArg _ (ite_self s)
  change (clearDevice (decide (src ≠ .pin)) false (resetRecorded src esc s)).time = _ ∧
    (clearDevice (decide (src ≠ .pin)) false (resetRecorded src esc s)).fabric = _
  rw [keepD2, recorded]
  exact ⟨rfl, rfl⟩

include hdev in
/-- What every reset of the device leads to: a start that has not begun, by a cause that RSTC_CAUSE shows. -/
theorem resetDevice_starts (hwf : s.regsWf = true) :
    (resetDevice src cold timer esc s).dev = (if s.resetCold src cold then .coldStart else .warmStart) ∧
    (resetDevice src cold timer esc s).boot.kind = (if s.resetCold src cold then .cold else .warm) ∧
    (resetDevice src cold timer esc s).boot.running = false ∧ (resetDevice src cold timer esc s).regBit (aRstc 0) src.code = true := by
  rw [resetDevice_moves hdev]
  refine ⟨setDev_dev _ _, ?_, ?_, ?_⟩
  · rw [(setDev_boot_flash _ _).1]; rfl
  · rw [(setDev_boot_flash _ _).1]; rfl
  · unfold State.regBit
    rw [setDev_reg (deviceReset_regsWf src cold timer esc hwf) _ (by decide)]
    exact deviceReset_cause src cold timer esc hwf

end

/-! ### The reset pins and the clocks (R34, R419, R491) -/

theorem coldOrWarm_dev (c : Bool) : (if c then DevState.coldStart else .warmStart) = .warmStart ∨
    (if c then DevState.coldStart else .warmStart) = .coldStart := by
  cases c with
  | true => exact .inr rfl
  | false => exact .inl rfl

/-- A PIN reset clears D2 too. -/
theorem resetDevice_pin {s : State} (hdev : s.dev ≠ .off) : (resetDevice .pin true false none s).time = 0 ∧
    (resetDevice .pin true false none s).ctxs = [] := by
  rw [resetDevice_moves hdev, setDev_time]
  exact ⟨rfl, setDev_ctxs_idle (s := deviceReset .pin true false none s) rfl _⟩

/-- A reset but PIN from a running device starts it warm, unless a cold start is held; from RECOVERY cold. -/
theorem resetCold_running {s : State} {src : Source} (hsrc : src ≠ .pin) (hstart : s.starting = false) (hdev : s.dev ≠ .recovery) :
    s.resetCold src false = false := by
  unfold State.resetCold State.resetJoins
  rw [hstart, decide_eq_true hsrc, decide_eq_false hdev]
  rfl

theorem resetCold_recovery {s : State} (src : Source) (cold : Bool) (hdev : s.dev = .recovery) : s.resetCold src cold = true := by
  unfold State.resetCold
  rw [decide_eq_true hdev, Bool.or_true, Bool.true_or]

/-- Out of power-on reset OFF's sub-state is not shown. -/
theorem refreshSub_running {s : State} (hpor : s.power.porDone = true) : refreshSub s = s := if_neg fun h => h.2 hpor

/-- With the rails off it stays as it is. -/
theorem refreshSub_unpowered {s : State} (hoff : s.power.railsOn = false) : refreshSub s = s := if_neg fun h => absurd h.1 (by rw [hoff]; decide)

/-- While power-on reset holds and both references run, a pin that is low shows as HELD_IN_RESET. -/
theorem refreshSub_held {s : State} (hon : s.power.railsOn = true) (hpor : s.power.porDone = false)
    (hclocks : (s.power.refSys && s.power.refNet) = true) (hlow : (s.power.resetLow || s.power.dbgLow || s.power.heldScan) = true) :
    refreshSub s = setSub .heldInReset s := by
  have held : s.power.waiting = .heldInReset := by rw [waiting_eq, hclocks, hlow]; rfl
  refine (if_pos ⟨hon, Bool.eq_false_iff.1 hpor⟩).trans ?_
  rw [held, if_neg (by decide)]

/-- The state from which a missing reference resets the device. -/
def clockLost (net : Bool) (s : State) : State :=
  let s1 := { s with power := if net then { s.power with refNet := false } else { s.power with refSys := false } }
  smbAlert 6 (if net then (List.range 9).foldl (fun t q => if (t.port q).up then portDown q 1 0 t else t) s1 else s1)

theorem clockLost_keeps (net : Bool) (s : State) : Keeps true s (clockLost net s) :=
  smbAlert_keeps _ (keeps_ite (keeps_foldl (fun _ _ h => keeps_ite (portDown_keeps _ _ _ h) h) _ (keeps_mk (.refl _ s))) (keeps_mk (.refl _ s)))

theorem clockFailure_resets {s : State} (hstandby : s.power.standby = true) (hpor : s.power.porDone = true) (net : Bool) :
    clockFailure net s = let s1 := resetDevice .cfd false false none (clockLost net s)
      { s1 with power := { s1.power with heldCfd := true } } := by
  cases net with
  | true => exact (if_neg fun h => h hstandby).trans (if_neg fun h => h hpor)
  | false => exact (if_neg fun h => h hstandby).trans (if_neg fun h => h hpor)

/-- Settles O10: out of power-on reset each pin or reference is a reset of the device (`resetDevice_starts`), before it only OFF's sub-state. -/
theorem resetPins : Obligations.ResetPins := by
  refine ⟨?outOfReset, ?held⟩
  case outOfReset =>
    intro s hwf hdev hpor scan
    have starts (src : Source) (cold : Bool) := resetDevice_starts hdev src cold false none hwf
    refine ⟨fun hhigh => ⟨_, congrArg Host.Outcome.next ((if_neg (Bool.eq_false_iff.1 hhigh)).trans (if_pos hpor)), ?pin⟩,
      fun hhigh => ⟨_, congrArg Host.Outcome.next ((if_neg (Bool.eq_false_iff.1 hhigh)).trans (if_pos hpor)), ?dbg⟩,
      fun hstandby net => ⟨_, congrArg Host.Outcome.next (clockFailure_resets hstandby hpor net), ?cfd⟩,
      congrArg Host.Outcome.next ?pinRelease, congrArg Host.Outcome.next (refreshSub_running hpor),
      congrArg Host.Outcome.next (refreshSub_running hpor)⟩
    case pin =>
      obtain ⟨hd, hk, hr, hc⟩ := starts .pin true
      obtain ⟨htime, hctxs⟩ := resetDevice_pin hdev
      exact ⟨hd, hk, hc, rfl, rfl, htime, hctxs, hr⟩
    case dbg =>
      obtain ⟨hd, hk, hr, hc⟩ := starts .dbg false
      refine ⟨hd ▸ coldOrWarm_dev _, fun hstart hrec => hd.trans ?_, fun hrec => hd.trans ?_, hc, rfl, rfl, hr, fun hidle => ?_⟩
      · rw [resetCold_running (by decide) hstart hrec]; rfl
      · rw [resetCold_recovery _ _ hrec]; rfl
      · change (resetDevice .dbg false false none s).time = _
        rw [resetDevice_moves hdev, setDev_time]
        exact (deviceReset_keepsD2 .dbg false false none (by decide) hidle).1
    case cfd =>
      have kept := clockLost_keeps net s
      obtain ⟨hd, hk, hr, hc⟩ := resetDevice_starts (s := clockLost net s) ((kept.still rfl).1 ▸ hdev) .cfd false false none (kept.regs hwf)
      exact ⟨hd ▸ coldOrWarm_dev _, hc, rfl, hr⟩
    case pinRelease =>
      have was : (s.power.heldPin || (s.power.resetLow && s.power.railsOn && !s.power.porDone)) = s.power.heldPin := by
        rw [hpor, Bool.not_true, Bool.and_false, Bool.or_false]
      unfold resetPinHigh
      dsimp only
      rw [was]
      exact refreshSub_running hpor
  case held =>
    intro s hpor low dbg
    have notDone := Bool.eq_false_iff.1 hpor
    refine ⟨fun hoff hhigh => congrArg Host.Outcome.next ((if_neg (Bool.eq_false_iff.1 hhigh)).trans ((if_neg notDone).trans (refreshSub_unpowered hoff))),
      fun hoff hhigh => congrArg Host.Outcome.next ((if_neg (Bool.eq_false_iff.1 hhigh)).trans ((if_neg notDone).trans (refreshSub_unpowered hoff))),
      fun hon hsys hnet => ⟨fun hhigh => congrArg Host.Outcome.next ((if_neg (Bool.eq_false_iff.1 hhigh)).trans ((if_neg notDone).trans ?pin)),
        fun hhigh => congrArg Host.Outcome.next ((if_neg (Bool.eq_false_iff.1 hhigh)).trans ((if_neg notDone).trans ?dbg))⟩⟩
    case pin => exact refreshSub_held hon hpor (by change (s.power.refSys && s.power.refNet) = true; rw [hsys, hnet]; rfl) rfl
    case dbg =>
      refine refreshSub_held hon hpor (by change (s.power.refSys && s.power.refNet) = true; rw [hsys, hnet]; rfl) ?_
      change (s.power.resetLow || true || s.power.heldScan) = true
      rw [Bool.or_true, Bool.true_or]

/-! ### A start ends (R22, R38, R413, R416, R439) -/

theorem writeDueLines_idle {s : State} (hidle : s.activeCtxs = []) : writeDueLines s = s := by
  unfold writeDueLines
  rw [hidle]
  exact ite_self s

/-- Where no context is active nothing is held back. -/
theorem flushAll_idle {s : State} (hidle : s.activeCtxs = []) : flushAll s = s := by
  unfold flushAll
  rw [hidle]
  exact writeDueLines_idle hidle

/-- The device at the end of its start, its attempt a success. -/
def startDone (s : State) : State :=
  { s with flash := { s.flash with start := { s.flash.start with inProgress := false, failed := 0 } },
           boot := { s.boot with running := false, stage := 0, timer := none } }

/-- The device READY, with what rings and contexts held back written. -/
def startReady (s : State) : State := flushAll (setDev .ready (startDone s))

theorem startReady_dev (s : State) : (startReady s).dev = .ready :=
  ((flushAll_keeps (.refl true _)).still rfl).1.trans (setDev_dev _ _)

theorem startReady_idle {s : State} (hidle : s.activeCtxs = []) : startReady s = setDev .ready (startDone s) := by
  refine flushAll_idle ?_
  unfold State.activeCtxs
  rw [setDev_ctxs_idle (s := startDone s) hidle]
  exact hidle

theorem startComplete_ready {s : State} (hstart : s.starting = true) (hrun : s.boot.running = true) (h7 : s.boot.stage = 7) :
    startComplete s =
      if (startReady s).coresOnline < 6 then setDev .fenced (noteDrain 6 0 [] (setHealth 0x21 (startReady s)))
      else if (startReady s).flash.health.getLsbD 2 then setDev .fenced (startReady s) else recount (startReady s) :=
  if_neg fun h => h.elim (fun e => e hstart) fun h => h.elim (fun e => e hrun) fun e => e h7

/-- READY becomes ACTIVE with a context active (R38). -/
theorem recount_ready {s : State} (hdev : s.dev = .ready) : recount s = if s.locked then setDev .active s else s := by
  unfold recount
  cases hlock : s.locked with
  | true => exact if_pos ⟨hdev, rfl⟩
  | false => exact (if_neg fun h => absurd h.2 (by decide)).trans (if_neg fun h => absurd h.1 (by rw [hdev]; decide))

theorem startTimerExpire_late {s : State} {d : Dword} (hstart : s.starting = true) (htimer : s.boot.timer = some d) (hlate : d ≤ s.time) :
    startTimerExpire s = resetDevice .wdt true true none s := by
  unfold startTimerExpire
  rw [htimer]
  exact if_pos ⟨hstart, hlate⟩

theorem starting_dev {s : State} (h : s.starting = true) : s.dev ≠ .off := by
  intro e
  have := of_decide_eq_true h
  rw [e] at this
  exact absurd this (by decide)

/-- A start under way is joined by no reset that is held. -/
theorem resetJoins_running {s : State} (h : s.boot.running = true) : s.resetJoins = false := by
  unfold State.resetJoins
  rw [h, Bool.not_true, Bool.and_false, Bool.false_and]

/-- Settles O13: the end of a start by the cores and the health of the READY device, the timer as a cold reset. -/
theorem startEnds : Obligations.StartEnds := by
  intro s hstart hrun r done u
  have ends (h7 : s.boot.stage = 7) := startComplete_ready hstart hrun h7
  refine ⟨fun _ hidle => startReady_idle hidle, fun h7 hfew => congrArg Host.Outcome.next ((ends h7).trans (if_pos hfew)),
    fun h7 hmany hspent => congrArg Host.Outcome.next ((ends h7).trans ((if_neg (Nat.not_lt.2 hmany)).trans (if_pos hspent))),
    fun h7 hmany hspare => congrArg Host.Outcome.next ((ends h7).trans ((if_neg (Nat.not_lt.2 hmany)).trans
      ((if_neg (Bool.eq_false_iff.1 hspare)).trans (recount_ready (startReady_dev s))))),
    fun hwf d htimer hlate => ⟨_, congrArg Host.Outcome.next (startTimerExpire_late hstart htimer hlate), ?_⟩⟩
  have hdev := starting_dev hstart
  obtain ⟨hd, hk, hr, hc⟩ := resetDevice_starts hdev .wdt true true none hwf
  refine ⟨hd, hk, hr, hc, ?_, fun hidle => ?_⟩
  · rw [resetDevice_moves hdev, setDev_reg (deviceReset_regsWf .wdt true true none hwf) _ (by decide), deviceReset_last _ _ _ _ hwf]
    unfold State.resetShown
    rw [resetJoins_running hrun]
    rfl
  · rw [resetDevice_moves hdev, setDev_time, setDev_fabric]
    exact (deviceReset_keepsD2 .wdt true true none (by decide) hidle).symm

end Sys2Proof.Machine
end

section
/-! PROOFS. Contexts, rings and the global controls (R35, R37, R38, R60, R65, R67, R72, R296, R477 to R479). -/

namespace Sys2Proof.Machine

/-! ### CTX_CTRL of a state whose registers are not listed in order (R60, R72) -/

/-- A state whose quotas overcommit the device by one handle, as long as 0x224020 reads as at reset: a context numbered 1168 takes
it for its CTX_HTAB_SIZE. The value 0 that is listed for it stands behind a counter of refused accesses, out of order and not found. -/
def hiddenQuota : State :=
  { tUp with
    ctxs := [(1168, { Ctx.empty with st := .configured })],
    regs := [(0x10, 0x7D), (aCtx 0 0x20, 1047377), (aTrpl 0x28, 0xFFFFFFFF), (aComtDev 0x20, 0)] }

/-- The count of the refusal takes the entry of the counter away, what stood behind it is found, and OVERCOMMIT is not set. -/
theorem hiddenQuota_overcommit :
    (match exec (.ctxValidWrite (.aperture 1) 0 1) hiddenQuota with | .next u => (u.ctx 0).overcommit | _ => true) = false := by
  decide +kernel

/-- Refutes O28: that OVERCOMMIT is set is claimed also where the registers are not listed in the order of their addresses. There the
count of the refused write may uncover another value of a quota before the block looks at the quotas again. -/
theorem not_contextCommands : ¬ Obligations.ContextCommands := by
  intro h
  obtain ⟨-, beyond, -⟩ := h hiddenQuota (.aperture 1) 0 0
  obtain ⟨u, ran, -, shown⟩ := beyond (takes_of (by decide +kernel)) (by decide +kernel) (by decide +kernel)
  have clear := hiddenQuota_overcommit
  rw [show exec (.ctxValidWrite (.aperture 1) 0 1) hiddenQuota = .next u from ran] at clear
  exact absurd (clear.symm.trans (shown (by decide +kernel))) Bool.false_ne_true

/-! ### RING_CTRL (R65, R67, R72) -/

/-- A write of RING_CTRL. -/
def ringWr (p : Path) (c : Fin 64) (r : Fin 8) (v : Word) : RegWr :=
  { path := p, loc := ⟨.ctxr, c, { off := 0x108, count := 8, stride := 64, rw := 0x1F03, reset := 0x600 }, r⟩, addr := aRing c r 8,
    val := v.toNat, tok := none }

section
variable {s : State} {p : Path} {c : Fin 64} {r : Fin 8} {v : Word}

theorem hookRefused_ring : hookRefused (ringWr p c r v) s =
    if s.ringEn c r then decide (bitsN v.toNat 12 8 ≠ s.regField (aRing c r 8) 12 8)
    else v.getLsbD 0 && (decide ((s.ctx c).st = .invalid) || decide ((s.ctx c).st = .killed)) := rfl

theorem ctxrHook_ring (s0 : State) : hookRun (ringWr p c r v) s0 s =
    if !s0.ringEn c r && v.getLsbD 0 then enableRing c r s
    else if s0.ringEn c r && !v.getLsbD 0 then disableRing c r s
    else s := rfl

/-- LOG2_ENTRIES is what a write leaves it where none of its bits changes. -/
theorem bitsN_of_xor {v w : Word} (h : (v ^^^ w) &&& 0x1F00 = 0) : bitsN v.toNat 12 8 = bitsN w.toNat 12 8 := by
  refine Nat.eq_of_testBit_eq fun i => ?_
  have mask : ∀ k < 5, (0x1F00 : Word).getLsbD (8 + k) = true := by decide
  unfold bitsN
  rw [Nat.testBit_mod_two_pow, Nat.testBit_mod_two_pow, Nat.testBit_shiftRight, Nat.testBit_shiftRight]
  by_cases hi : i < 5
  · have bit := congrArg (fun x : Word => x.getLsbD (8 + i)) h
    simp only [BitVec.getLsbD_and, BitVec.getLsbD_xor, mask i hi, Bool.and_true] at bit
    rw [show v.toNat.testBit (8 + i) = w.toNat.testBit (8 + i) from bne_eq_false_iff_eq.1 (bit.trans BitVec.getLsbD_zero)]
  · simp [hi]

variable (ht : s.Takes p (aRing c r 8) v)
include ht

/-- A write of RING_CTRL that the context lets through: EN enables the ring or disables it. -/
theorem write_ring (hr : hookRefused (ringWr p c r v) s = false) : writeReg p (aRing c r 8) v s =
    if !(s.entered p (aRing c r 8) v.toNat false).ringEn c r && v.getLsbD 0 then enableRing c r (s.stored p (aRing c r 8) v)
    else if (s.entered p (aRing c r 8) v.toNat false).ringEn c r && !v.getLsbD 0 then disableRing c r (s.stored p (aRing c r 8) v)
    else s.stored p (aRing c r 8) v :=
  (write_stored ht (placed_ring c r) (verdict_applied ht.origin rfl rfl rfl hr rfl)).trans (ctxrHook_ring _)

theorem write_ring_enables (hv : v.getLsbD 0 = true) (hoff : s.ringEn c r = false)
    (hst : (s.ctx c).st = .configured ∨ (s.ctx c).st = .active) :
    writeReg p (aRing c r 8) v s = enableRing c r (s.stored p (aRing c r 8) v) := by
  have taken : hookRefused (ringWr p c r v) s = false := by
    rw [hookRefused_ring, hoff, hv]
    rcases hst with hst | hst <;> rw [hst] <;> rfl
  have still : (s.entered p (aRing c r 8) v.toNat false).ringEn c r = false := by
    unfold State.ringEn State.regBit
    rw [entered_reg]
    exact hoff
  rw [write_ring ht taken, still, hv]
  rfl

theorem write_ring_disables (hv : v.getLsbD 0 = false) (hon : s.ringEn c r = true) (hsize : (v ^^^ s.reg (aRing c r 8)) &&& 0x1F00 = 0) :
    writeReg p (aRing c r 8) v s = disableRing c r (s.stored p (aRing c r 8) v) := by
  have taken : hookRefused (ringWr p c r v) s = false := by
    rw [hookRefused_ring, hon]
    exact decide_eq_false fun differs => differs (bitsN_of_xor hsize)
  have still : (s.entered p (aRing c r 8) v.toNat false).ringEn c r = true := by
    unfold State.ringEn State.regBit
    rw [entered_reg]
    exact hon
  rw [write_ring ht taken, still, hv]
  rfl

theorem write_ring_refused (hv : v.getLsbD 0 = true) (hoff : s.ringEn c r = false) (hst : (s.ctx c).st = .invalid) :
    (writeReg p (aRing c r 8) v s).regs = (countVerdict p .refused s).regs := by
  have refused : hookRefused (ringWr p c r v) s = true := by
    rw [hookRefused_ring, hoff, hv, hst]
    rfl
  obtain ⟨x, e⟩ := write_refused_counted ht (placed_ring c r) (verdict_refused ht.origin rfl rfl rfl refused)
  rw [e]
  rfl

end

/-! ### What a context's rings make of it and of the device (R38, R60) -/

section
variable {s : State}

theorem setCtxState_st (hkeys : s.keysRise = true) (c : Nat) (st : CtxState) : ((setCtxState c st s).ctx c).st = st := by
  unfold setCtxState
  split
  · assumption
  · obtain ⟨g, b, l, e⟩ := (rec_auditState 4 2 c (s.ctx c).st.code st.code (Rec.refl [] (s.setCtx c { s.ctx c with st := st }))).1.ctxs
      ((State_setCtx_keeps c _ (Keeps.refl true s)).keys hkeys) c
    rw [e, State.ctx_setCtx hkeys, if_pos rfl]

/-- A move of the device leaves a context's state and all else but its records. -/
theorem setDev_ctx (hkeys : s.keysRise = true) (d : DevState) (c : Nat) :
    ∃ g b l, (setDev d s).ctx c = { s.ctx c with rings := g, evBuf := b, evLost := l } := by
  unfold setDev
  split
  · exact ⟨_, _, _, rfl⟩
  · unfold State.ctx
    rw [smbAlert_ctxs]
    exact (rec_auditState 1 1 0 s.dev.code d.code (Rec.refl [] { s with dev := d, prev := s.dev, devSince := s.time })).1.ctxs hkeys c

theorem recount_ctx (hkeys : s.keysRise = true) (c : Nat) :
    ∃ g b l, (recount s).ctx c = { s.ctx c with rings := g, evBuf := b, evLost := l } := by
  unfold recount
  split
  · exact setDev_ctx hkeys _ c
  · split
    · exact setDev_ctx hkeys _ c
    · exact ⟨_, _, _, rfl⟩

theorem recount_st (hkeys : s.keysRise = true) (c : Nat) : ((recount s).ctx c).st = (s.ctx c).st := by
  obtain ⟨g, b, l, e⟩ := recount_ctx hkeys c
  rw [e]

theorem ctxRings_activates {c : Nat} (hst : (s.ctx c).st = .configured) (hring : s.anyRing c = true) (hkeys : s.keysRise = true) :
    ((ctxRings c s).ctx c).st = .active := by
  unfold ctxRings
  dsimp only
  rw [if_pos ⟨hst, hring⟩, recount_st ((setCtxState_keeps c .active (Keeps.refl true s)).keys hkeys), setCtxState_st hkeys]

end

/-- Settles O29. -/
theorem ringCommands : Obligations.RingCommands := by
  refine fun s p c r v => ⟨fun ht hv hoff hst => ?_, fun ht hv hon hsize => ?_, ?_, ?_, ?_⟩
  · exact congrArg Host.Outcome.next (write_ring_enables ht hv hoff hst)
  · exact congrArg Host.Outcome.next (write_ring_disables ht hv hon hsize)
  · intro ht hv hoff hst _ once counted
    refine ⟨_, rfl, (write_ring_refused ht hv hoff hst).trans ?_⟩
    rw [countVerdict_refused]
  · exact fun t hst hring hkeys => ctxRings_activates hst hring hkeys
  · intro t hlocked hdev
    rw [recount_ready hdev, if_pos hlocked]
    exact setDev_dev _ _

end Sys2Proof.Machine
end

section
/-! PROOFS. The global controls (R35, R37, R38, R296, R411, R477 to R479). -/

namespace Sys2Proof.Machine

/-! ### GCTL_ENABLE (R477, R478) -/

/-- A write of GCTL_ENABLE. -/
def enableWr (p : Path) (v : Word) : RegWr :=
  { path := p, loc := ⟨.gctl, 0, { off := 0x10, rw := 0x7D, lock := 0x7D }, 0⟩, addr := aGctl 0x10, val := v.toNat, tok := none }

/-- The one enable is as written, the others stand. -/
theorem getLsbD_enableWith (s : State) (i : Nat) (on : Bool) {j : Nat} (hj : j < 32) :
    (s.enableWith i on).getLsbD j = if j = i then on else (s.reg (aGctl 0x10)).getLsbD j := by
  have one : ((1 : Word) <<< i).getLsbD j = decide (j = i) := by
    rw [show (1 : Word) <<< i = BitVec.twoPow 32 i from (BitVec.twoPow_eq 32 i).symm, BitVec.getLsbD_twoPow]
    rcases Decidable.em (j = i) with rfl | h
    · simp [hj]
    · simp [h, Ne.symm h]
  unfold State.enableWith
  cases on with
  | true =>
    rw [if_pos rfl, BitVec.getLsbD_or, one]
    by_cases h : j = i
    · rw [if_pos h, decide_eq_true h, Bool.or_true]
    · rw [if_neg h, decide_eq_false h, Bool.or_false]
  | false =>
    rw [if_neg Bool.false_ne_true, BitVec.getLsbD_and, BitVec.getLsbD_not, one, decide_eq_true hj, Bool.true_and]
    by_cases h : j = i
    · rw [if_pos h, decide_eq_true h, Bool.not_true, Bool.and_false]
    · rw [if_neg h, decide_eq_false h, Bool.not_false, Bool.and_true]

section
variable {s : State} {p : Path} {v : Word}

/-- While no context is active a writable bit is taken as written. -/
theorem getLsbD_mergedWord {l : RegLoc} {i : Nat} (hopen : s.locked = false) (hbit : l.writable.getLsbD i = true) (hi : i < 32)
    (hclamp : clampReg l.blk l.row.off v.toNat = v.toNat) (cur : Word) : (s.mergedWord l cur v).getLsbD i = v.getLsbD i := by
  unfold State.mergedWord
  simp only [hopen, hclamp, Bool.false_eq_true, if_false, BitVec.ofNat_toNat, BitVec.setWidth_eq, BitVec.getLsbD_or, BitVec.getLsbD_and,
    BitVec.getLsbD_not, hbit, hi, decide_true, Bool.not_true, Bool.and_false, Bool.false_and, Bool.false_or, Bool.and_true]

/-- Storing GCTL_ENABLE, as the rules of the block see it. -/
theorem stored_enable : s.stored p (aGctl 0x10) v = storeWr (enableWr p v) (s.entered p (aGctl 0x10) v.toNat false) := by
  unfold State.stored theWrite
  rw [placed_gctlEnable.loc]
  rfl

/-- While no context is active GCTL_ENABLE takes TRPL_EN as written. -/
theorem stored_trplEn (hwf : s.regsWf = true) (hopen : s.locked = false) : (s.stored p (aGctl 0x10) v).trplEn = v.getLsbD 5 := by
  obtain ⟨x, hx⟩ := entered_frame s p (aGctl 0x10) v.toNat false
  have wf : (s.entered p (aGctl 0x10) v.toNat false).regsWf = true := by rw [hx]; exact hwf
  have still : (s.entered p (aGctl 0x10) v.toNat false).locked = false := by rw [hx]; exact hopen
  rw [stored_enable]
  change ((storeWr (enableWr p v) (s.entered p (aGctl 0x10) v.toNat false)).reg (enableWr p v).addr).getLsbD 5 = _
  rw [reg_storeWr_same wf rfl rfl, show (enableWr p v).val = v.toNat from rfl, BitVec.ofNat_toNat, BitVec.setWidth_eq]
  exact getLsbD_mergedWord (l := (enableWr p v).loc) still (show (0x7D : Word).getLsbD 5 = true by decide) (by decide) rfl _

theorem gctlHook_enable (s0 : State) : hookRun (enableWr p v) s0 s = gctlEnable s0 s := rfl

theorem hookRefused_enable : hookRefused (enableWr p v) s = (v.getLsbD 6 && !v.getLsbD 0) := rfl

/-- GCTL_ENABLE written while no context is active, with GENG_EN only beside CLUS_EN: stored, and the link and the ports follow. -/
theorem write_enable (hwf : s.regsWf = true) (hopen : s.locked = false) (ht : s.Takes p (aGctl 0x10) v)
    (hpair : v.getLsbD 6 = true → v.getLsbD 0 = true) :
    writeReg p (aGctl 0x10) v s = refreshPorts (List.range 9)
      (if s.trplEn && !v.getLsbD 5 then dropLines (fun _ => true) (s.stored p (aGctl 0x10) v)
        else if v.getLsbD 5 && !s.trplEn then flushAll (s.stored p (aGctl 0x10) v) else s.stored p (aGctl 0x10) v) := by
  have taken : hookRefused (enableWr p v) s = false := by
    rw [hookRefused_enable]
    cases h : v.getLsbD 6 with
    | true => rw [hpair h]; rfl
    | false => rfl
  have before : (s.entered p (aGctl 0x10) v.toNat false).trplEn = s.trplEn := by
    unfold State.trplEn State.regBit
    rw [entered_reg]
  rw [write_stored ht placed_gctlEnable (verdict_open ht.origin rfl rfl hopen taken rfl)]
  refine (gctlHook_enable _).trans ?_
  unfold gctlEnable
  rw [before, stored_trplEn hwf hopen]

variable {on : Bool}

/-- An enable other than TRPL_EN is stored, and the ports follow. -/
theorem write_otherEnable (hwf : s.regsWf = true) (hopen : s.locked = false) {i : Nat} (hi : i ≠ 5)
    (ht : s.Takes p (aGctl 0x10) (s.enableWith i on)) (hpair : (s.enableWith i on).getLsbD 6 = true → (s.enableWith i on).getLsbD 0 = true) :
    writeReg p (aGctl 0x10) (s.enableWith i on) s = refreshPorts (List.range 9) (s.stored p (aGctl 0x10) (s.enableWith i on)) := by
  have stands : (s.enableWith i on).getLsbD 5 = s.trplEn := by
    rw [getLsbD_enableWith s i on (by decide), if_neg hi.symm]
    rfl
  rw [write_enable hwf hopen ht hpair, stands, Bool.and_not_self]
  rfl

/-- An enable that is neither CLUS_EN nor GENG_EN leaves GENG_EN beside CLUS_EN. -/
theorem enableWith_paired (hpaired : (s.reg (aGctl 0x10)).getLsbD 6 = true → (s.reg (aGctl 0x10)).getLsbD 0 = true) {i : Nat}
    (h0 : i ≠ 0) (h6 : i ≠ 6) : (s.enableWith i on).getLsbD 6 = true → (s.enableWith i on).getLsbD 0 = true := by
  rw [getLsbD_enableWith s i on (by decide), getLsbD_enableWith s i on (by decide), if_neg h0.symm, if_neg h6.symm]
  exact hpaired

/-! ### GCTL_ACLK and GCTL_CTRL (R35, R411, R477, R479) -/

/-- A write of GCTL_CTRL. -/
def gctlWr (p : Path) (v : Word) : RegWr :=
  { path := p, loc := ⟨.gctl, 0, { off := 0x30, w1s := 3 }, 0⟩, addr := aGctl 0x30, val := v.toNat, tok := none }

theorem write_aclk (ht : s.Takes p (aGctl 0x28) v) : writeReg p (aGctl 0x28) v s = aclkRetarget (s.stored p (aGctl 0x28) v) :=
  (write_stored ht placed_gctlAclk (verdict_applied ht.origin rfl rfl rfl rfl rfl)).trans rfl

theorem hookRefused_gctl : hookRefused (gctlWr p v) s =
    ((v.getLsbD 0 && decide (s.dev ≠ .active)) || (v.getLsbD 1 && !s.unfenceOk)) := rfl

theorem hookRun_gctl (s0 : State) : hookRun (gctlWr p v) s0 s = gctlCtrl (gctlWr p v) s := rfl

theorem stored_dev (a : Nat) : (s.stored p a v).dev = s.dev := by
  obtain ⟨r, x, e⟩ := stored_frame s p a v
  rw [e]

theorem write_drain (ht : s.Takes p (aGctl 0x30) 1) (hdev : s.dev = .active) :
    writeReg p (aGctl 0x30) 1 s = startDrain (s.stored p (aGctl 0x30) 1) := by
  have taken : hookRefused (gctlWr p 1) s = false := by
    rw [hookRefused_gctl, hdev]
    rfl
  rw [write_stored ht placed_gctlCtrl (verdict_applied ht.origin rfl rfl rfl taken rfl)]
  refine (hookRun_gctl _).trans ?_
  unfold gctlCtrl
  exact if_pos ⟨show (1 : Word).getLsbD 0 = true by decide, (stored_dev _).trans hdev⟩

theorem startDrain_dev (s : State) : (startDrain s).dev = .draining := by
  unfold startDrain
  exact setDev_dev _ _

/-- UNFENCE is accepted where the bits of the health record that hold it back are clear. -/
theorem unfenceOk_of (hdev : s.dev = .fenced) (hdiag : s.faults.diagnosing = false) (hhealth : s.flash.health &&& 0x26 = 0) :
    s.unfenceOk = true := by
  have clear (i : Nat) (hi : (0x26 : Word).getLsbD i = true) : s.flash.health.getLsbD i = false := by
    have bit := congrArg (fun x : Word => x.getLsbD i) hhealth
    simp only [BitVec.getLsbD_and, hi, Bool.and_true] at bit
    exact bit.trans BitVec.getLsbD_zero
  unfold State.unfenceOk
  rw [hdev, hdiag, clear 1 rfl, clear 2 rfl, clear 5 rfl]
  rfl

/-- The ledger still has a slot once the entry of a write stands in it. -/
theorem stored_slot {a : Nat} (ht : s.Takes p a v) : (s.stored p a v).audit.reserve = [] ∧ (s.stored p a v).auditFull = false := by
  have entered : (s.stored p a v).audit = (s.entered p a v.toNat false).audit := by
    unfold State.stored
    dsimp only
    split
    · rfl
    · exact storeWr_audit _ _
  have slots : (s.entered p a v.toNat false).audit.reserve = s.audit.reserve ∧
      (s.entered p a v.toNat false).audit.ring.length = s.audit.ring.length + 1 := by
    unfold State.entered auditAppend
    rw [show auditGap s = s from if_pos ht.gapless]
    exact ⟨rfl, List.length_append⟩
  refine ⟨by rw [entered, slots.1, ht.reserve], decide_eq_false ?_⟩
  have room := ht.room
  rw [entered, slots.2]
  omega

/-- What UNFENCE leaves before the contexts are looked at: READY, with the contexts as they are. -/
theorem write_unfence (ht : s.Takes p (aGctl 0x30) 2) (hdev : s.dev = .fenced) (hok : s.unfenceOk = true) :
    ∃ t, writeReg p (aGctl 0x30) 2 s = recount t ∧ t.dev = .ready ∧ t.locked = s.locked := by
  have taken : hookRefused (gctlWr p 2) s = false := by
    rw [hookRefused_gctl, hok]
    rfl
  rw [write_stored ht placed_gctlCtrl (verdict_applied ht.origin rfl rfl rfl taken rfl)]
  refine ⟨_, (hookRun_gctl _).trans ((if_neg ?noDrain).trans
    (if_pos ⟨show (2 : Word).getLsbD 1 = true by decide, (stored_dev _).trans hdev⟩)), setDev_dev _ _, ?_⟩
  case noDrain =>
    rintro ⟨bit, -⟩
    exact absurd bit (show ¬ (2 : Word).getLsbD 0 = true by decide)
  have moves : (s.stored p (aGctl 0x30) 2).dev ≠ .ready := by
    rw [stored_dev, hdev]
    decide
  obtain ⟨slot, notFull⟩ := stored_slot ht
  obtain ⟨x, m, b, e⟩ := setDev_slot_frame (d := .ready) (s := { s.stored p (aGctl 0x30) 2 with
    faults := { (s.stored p (aGctl 0x30) 2).faults with drainDetach := false } }) moves slot notFull
  obtain ⟨r, y, stored⟩ := stored_frame s p (aGctl 0x30) 2
  rw [e]
  change (s.stored p (aGctl 0x30) 2).locked = s.locked
  rw [stored]
  rfl

end

/-- Settles O30. -/
theorem globalCommands : Obligations.GlobalCommands := by
  intro s p v on e set takes stored ports paired hwf
  refine ⟨fun ht hpair => ?_, fun ht hpair => ?_, fun ht hpair => ?_, fun ht hpair => ?_, fun ht hpair => ?_, fun ht hpair => ?_,
    fun ht => congrArg Host.Outcome.next (write_aclk ht), fun ht hdev => ?_, fun ht hdev hdiag hhealth => ?_⟩
  · refine congrArg Host.Outcome.next (write_otherEnable hwf ht.2 (by decide) ht.1 ?_)
    rw [getLsbD_enableWith s 0 on (by decide), getLsbD_enableWith s 0 on (by decide), if_pos rfl, if_neg (by decide)]
    rcases hpair with hon | hoff
    · exact fun _ => hon
    · exact fun hset => absurd (hset.symm.trans hoff) (by decide)
  · exact congrArg Host.Outcome.next (write_otherEnable hwf ht.2 (by decide) ht.1 (enableWith_paired hpair (by decide) (by decide)))
  · exact congrArg Host.Outcome.next (write_otherEnable hwf ht.2 (by decide) ht.1 (enableWith_paired hpair (by decide) (by decide)))
  · exact congrArg Host.Outcome.next (write_otherEnable hwf ht.2 (by decide) ht.1 (enableWith_paired hpair (by decide) (by decide)))
  · refine congrArg Host.Outcome.next ((write_enable hwf ht.2 ht.1 (enableWith_paired hpair (by decide) (by decide))).trans ?_)
    have written : (set 5).getLsbD 5 = on := (getLsbD_enableWith s 5 on (by decide)).trans (if_pos rfl)
    rw [written, Bool.and_comm on]
  · refine congrArg Host.Outcome.next (write_otherEnable hwf ht.2 (by decide) ht.1 ?_)
    rw [getLsbD_enableWith s 6 on (by decide), getLsbD_enableWith s 6 on (by decide), if_pos rfl, if_neg (by decide)]
    exact hpair
  · exact ⟨_, congrArg Host.Outcome.next (write_drain ht hdev), rfl, startDrain_dev _⟩
  · obtain ⟨t, written, ready, locked⟩ := write_unfence ht hdev (unfenceOk_of hdev hdiag hhealth)
    refine ⟨_, congrArg Host.Outcome.next written, fun hidle => ?_, fun hactive => ?_⟩
    · rw [recount_ready ready, if_neg (by rw [locked, hidle]; decide)]
      exact ready
    · rw [recount_ready ready, if_pos (locked.trans hactive)]
      exact setDev_dev _ _

end Sys2Proof.Machine
end

section
/-! PROOFS. The ring engine (R65 to R69, R350). -/

namespace Sys2Proof.Machine

/-- Of a list's members one alone changes the state, and the others change neither the state before nor the state after. -/
theorem foldl_single {σ α : Type} {f : σ → α → σ} {a : α} {l : List α} {s : σ} (hnodup : l.Nodup) (ha : a ∈ l)
    (hbefore : ∀ x ∈ l, x ≠ a → f s x = s) (hafter : ∀ x ∈ l, x ≠ a → f (f s a) x = f s a) : l.foldl f s = f s a := by
  have stays {t : σ} {k : List α} (h : ∀ x ∈ k, f t x = t) : k.foldl f t = t :=
    List.foldlRecOn (motive := fun u => u = t) k f rfl fun u hu x hx => by rw [hu, h x hx]
  obtain ⟨pre, post, rfl⟩ := List.append_of_mem ha
  have apart := List.nodup_middle.1 hnodup
  have other {x : α} (hx : x ∈ pre ++ post) : x ≠ a := fun same => (List.nodup_cons.1 apart).1 (same ▸ hx)
  have listed {x : α} (hx : x ∈ pre ++ post) : x ∈ pre ++ a :: post := (List.perm_middle).mem_iff.2 (List.mem_cons_of_mem _ hx)
  rw [List.foldl_append, List.foldl_cons,
    stays fun x hx => hbefore x (listed (List.mem_append_left _ hx)) (other (List.mem_append_left _ hx)),
    stays fun x hx => hafter x (listed (List.mem_append_right _ hx)) (other (List.mem_append_right _ hx))]

/-! ### The backstop (R66) -/

/-- One ring's turn at the backstop. -/
def pollRing (t : State) (e : Nat × Nat) : State := if t.readingPtr e.1 e.2 then t else readPointer e.1 e.2 t

section
variable {s : State} {c r : Nat}

theorem readPointer_still (h : s.ringWorks c r = false) : readPointer c r s = s := if_pos (Bool.eq_false_iff.1 h)

theorem pollRing_still (h : s.ringWorks c r = false) : pollRing s (c, r) = s := by
  unfold pollRing
  rw [readPointer_still h, ite_self]

theorem readPointer_reads (hworks : s.ringWorks c r = true) (hidle : s.readingPtr c r = false)
    (hwin : s.winAllows (s.reg64 (aRing c r 0x0C)).toNat 64 false = true) :
    readPointer c r s = readLine (s.reg64 (aRing c r 0x0C)).toNat (.pointer c r) s := by
  unfold readPointer
  dsimp only
  rw [if_neg (not_not_intro hworks), if_neg (Bool.eq_false_iff.1 hidle), if_neg (not_not_intro hwin)]

theorem readLine_ringWorks (addr : Nat) (use : ReadUse) (q : Nat) : (readLine addr use s).ringWorks c q = s.ringWorks c q := rfl

/-- Where one ring of the one active context works and none is being read, the backstop reads the line of that ring. -/
theorem pollRings_one (hon : s.regField (aGeng 0) 15 0 ≠ 0) (hctx : s.activeCtxs = [c]) (hr : r < 8) (hworks : s.ringWorks c r = true)
    (hothers : ∀ q, q < 8 → q ≠ r → s.ringWorks c q = false) (hidle : s.readingPtr c r = false)
    (hwin : s.winAllows (s.reg64 (aRing c r 0x0C)).toNat 64 false = true) :
    pollRings s = readLine (s.reg64 (aRing c r 0x0C)).toNat (.pointer c r) s := by
  have turn : pollRing s (c, r) = readLine (s.reg64 (aRing c r 0x0C)).toNat (.pointer c r) s :=
    (if_neg (Bool.eq_false_iff.1 hidle)).trans (readPointer_reads hworks hidle hwin)
  have other {x : Nat × Nat} (hx : x ∈ (List.range 8).map fun q => (c, q)) (hne : x ≠ (c, r)) :
      ∃ q, x = (c, q) ∧ s.ringWorks c q = false := by
    obtain ⟨q, hq, rfl⟩ := List.mem_map.1 hx
    exact ⟨q, rfl, hothers q (List.mem_range.1 hq) fun same => hne (same ▸ rfl)⟩
  unfold pollRings
  rw [if_neg hon, hctx, List.flatMap_singleton]
  refine (foldl_single (f := pollRing) (a := (c, r)) ?_ ?_ ?_ ?_).trans turn
  · exact List.nodup_range.map fun a b h => (Prod.mk.inj h).2
  · exact List.mem_map.2 ⟨r, List.mem_range.2 hr, rfl⟩
  · intro x hx hne
    obtain ⟨q, rfl, hq⟩ := other hx hne
    exact pollRing_still hq
  · intro x hx hne
    obtain ⟨q, rfl, hq⟩ := other hx hne
    rw [turn]
    exact pollRing_still ((readLine_ringWorks _ _ _).trans hq)

end

/-! ### Pointer lines (R66, R67) -/

/-- The state once a pointer line that is awaited has come: it is not awaited any more and is held Shared. -/
def gotLine (c r : Nat) (line : Bytes) (s : State) : State :=
  let free := endRead (.pointer c r) s
  cacheShared (s.reg64 (aRing c r 0x0C)).toNat line
    { free with trepel := { free.trepel with marks := free.trepel.marks.filter fun m => m ≠ watchIdx c r } }

section
variable {s : State} {c r : Nat} (line : Bytes) (hworks : s.ringWorks c r = true) (hreading : s.readingPtr c r = true)
  (hmark : s.trepel.marks.contains (watchIdx c r) = false) (hring : ¬ (4 ≤ r ∧ r ≤ 6))
include hworks hreading hmark hring

/-- A pointer line of a companion-written ring that works: its tail moves unless it is a ring error. -/
theorem gotPointer_tail :
    let g := s.ring c r
    let n := BitVec.ofNat 32 (fieldLe line 0 4)
    gotPointer c r line s =
      if newer g.compPtr n then ringError c r 1 (gotLine c r line s)
      else if s.ringSize c r < (n - g.devPtr).toNat then ringError c r 2 (gotLine c r line s)
      else readEntries c r ((gotLine c r line s).setRing c r { g with compPtr := n }) := by
  intro g n
  have unmarked : (endRead (.pointer c r) s).trepel.marks.contains (watchIdx c r) = false := hmark
  unfold gotPointer
  rw [if_neg (not_not_intro hreading)]
  dsimp only
  rw [unmarked, if_neg Bool.false_ne_true, if_neg Bool.false_ne_true]
  exact (if_neg (not_not_intro (show (gotLine c r line s).ringWorks c r = true from hworks))).trans (if_neg hring)

end

section
variable {s : State} {c r : Nat}

/-- A ring that works is on a link that serves. -/
theorem ringWorks_linkServes (h : s.ringWorks c r = true) : s.linkServes = true := (Bool.and_eq_true_iff.1 h).2

/-- The interrupt of a ring whose first record has waited long enough is sent. -/
theorem msiTimer_sends {t0 : Dword} (hfirst : (s.ring c r).firstAt = some t0) (hon : s.regBit (aRing c r 8) 1 = true)
    (hdue : t0.toNat + max 1 (s.regField (aRing c r 0x28) 15 0) * 1000 ≤ s.time.toNat) :
    msiTimer c r s = sendMsi c r (s.setRing c r { s.ring c r with unsignalled := 0, firstAt := none }) := by
  unfold msiTimer
  dsimp only
  rw [hfirst]
  exact if_pos ⟨hon, hdue⟩

/-- A completion that answers the read of an entry. -/
theorem completion_entry {tag : BitVec 16} {k : Nat} (hlink : s.linkServes = true)
    (hread : s.trepel.outstanding.find? (fun o => o.1 = tag) = some (tag, .entries c r k)) (status : Byte) (data : Bytes) :
    completion tag status data s = if status = 0 then gotEntry c r k data s else ringError c r 3 (endRead (.entries c r k) s) := by
  unfold completion
  rw [if_neg (not_not_intro hlink), hread]

end

/-- Settles O37. -/
theorem ringEngine : Obligations.RingEngine := by
  intro s c r line tag k g n free marked got awaited
  have pointer (ha : awaited) : exec (.rdSharedDone c r (.pointer line)) s = .next (gotPointer c r line s) :=
    congrArg Host.Outcome.next (if_pos (ringWorks_linkServes ha.1))
  refine ⟨fun hoff => congrArg Host.Outcome.next (if_pos hoff), ?_, ?_, ?_, ?_, ?_, ?_⟩
  · intro hon hctx hworks hothers hidle hwin _
    exact congrArg Host.Outcome.next (pollRings_one hon hctx r.isLt hworks hothers hidle hwin)
  · intro ha hring hnew hfits
    rw [pointer ha, gotPointer_tail line ha.1 ha.2.1 ha.2.2 hring, if_neg (Bool.eq_false_iff.1 hnew), if_neg (Nat.not_lt.2 hfits)]
    rfl
  · intro ha hring hback
    rw [pointer ha, gotPointer_tail line ha.1 ha.2.1 ha.2.2 hring, if_pos hback]
    rfl
  · intro ha hring hnew hbeyond
    rw [pointer ha, gotPointer_tail line ha.1 ha.2.1 ha.2.2 hring, if_neg (Bool.eq_false_iff.1 hnew), if_pos hbeyond]
    rfl
  · intro hlink hread
    exact ⟨congrArg Host.Outcome.next (completion_entry hlink hread 0 line),
      fun st hst => congrArg Host.Outcome.next ((completion_entry hlink hread st line).trans (if_neg hst))⟩
  · exact fun t0 hfirst hon hdue => congrArg Host.Outcome.next (msiTimer_sends hfirst hon hdue)

end Sys2Proof.Machine
end

section
/-! PROOFS. Submission: how entries and segments are taken, validated, admitted or rejected (R44, R56 to R59, R67). -/

namespace Sys2Proof.Machine

/-! ### Rings of a context -/

theorem Ctx.ring_setRing {x : Ctx} (h : NMap.rising 0 x.rings = true) (r r' : Nat) (g : Ring) :
    (x.setRing r g).ring r' = if r' = r then g else x.ring r' := NMap.get_set h r g r'

theorem Ctx.rings_rise_setRing {x : Ctx} (h : NMap.rising 0 x.rings = true) (r : Nat) (g : Ring) :
    NMap.rising 0 (x.setRing r g).rings = true := rising_set (d := fun _ => Ring.empty) r g h

section
variable {s : State} (hkeys : s.keysRise = true) {c : Nat} (hrings : NMap.rising 0 (s.ctx c).rings = true)
include hkeys

theorem State.ctx_setRing_same (r : Nat) (g : Ring) : (s.setRing c r g).ctx c = (s.ctx c).setRing r g :=
  (State.ctx_setCtx hkeys c c _).trans (if_pos rfl)

theorem State.keysRise_setRing (r : Nat) (g : Ring) : (s.setRing c r g).keysRise = true :=
  (State_setRing_keeps c r g (Keeps.refl true s)).keys hkeys

include hrings

theorem State.ring_setRing_same (r : Nat) (g : Ring) : (s.setRing c r g).ring c r = g := by
  unfold State.ring
  rw [State.ctx_setRing_same hkeys, Ctx.ring_setRing hrings, if_pos rfl]

theorem State.rings_rise_setRing (r : Nat) (g : Ring) : NMap.rising 0 ((s.setRing c r g).ctx c).rings = true := by
  rw [State.ctx_setRing_same hkeys]
  exact Ctx.rings_rise_setRing hrings r g

end

/-! ### Entries (R44, R58, R67) -/

section
variable {s : State} {c r : Nat} {e : Bytes} (hhead : s.sqHead c r = some e)
include hhead

theorem takeSegment_badCheck (hcheck : checkOk e = false) : takeSegment c r s = ringError c r 3 s := by
  unfold takeSegment
  rw [hhead]
  exact if_pos (Bool.eq_false_iff.1 hcheck)

theorem takeNop_badCheck (hcheck : checkOk e = false) : takeNop c r s = ringError c r 3 s := by
  unfold takeNop
  rw [hhead]
  exact if_pos (Bool.eq_false_iff.1 hcheck)

variable (hcheck : checkOk e = true)
include hcheck

theorem takeNop_consumes (htype : fieldLe e 0 1 = 0) : takeNop c r s = consume c r s := by
  unfold takeNop
  rw [hhead]
  exact (if_neg (not_not_intro hcheck)).trans (if_pos htype)

theorem takeSegment_waits (hroom : s.room c (SegDesc.ofBytes e).places = false) : takeSegment c r s = s := by
  unfold takeSegment
  rw [hhead]
  exact (if_neg (not_not_intro hcheck)).trans (if_pos (.inr (.inl (Bool.eq_false_iff.1 hroom))))

theorem takeSegment_takes (htype : (SegDesc.ofBytes e).type ≠ 0) (hroom : s.room c (SegDesc.ofBytes e).places = true)
    (hafter : s.afterMet c (SegDesc.ofBytes e) = true) :
    takeSegment c r s = (consume c r s).setRing c r { (consume c r s).ring c r with taken := some e } := by
  have fits : ¬ ((SegDesc.ofBytes e).type = 0 ∨ ¬ s.room c (SegDesc.ofBytes e).places ∨ ¬ s.afterMet c (SegDesc.ofBytes e)) := by
    rintro (h | h | h)
    · exact htype h
    · exact h hroom
    · exact h hafter
  unfold takeSegment
  rw [hhead]
  exact (if_neg (not_not_intro hcheck)).trans (if_neg fits)

end

/-- An entry is consumed with its device line written, where a window lets the line be written. -/
theorem consume_written {s : State} {c r : Nat} (hwin : s.winAllows (s.reg64 (aRing c r 0x14)).toNat 64 true = true) :
    consume c r s = (s.setRing c r { s.ring c r with devPtr := (s.ring c r).devPtr + 1, fetched := (s.ring c r).fetched.tail }).emit
      (.line (s.reg64 (aRing c r 0x14)) (shadowLine ((s.ring c r).devPtr + 1))) := by
  unfold consume
  exact if_pos hwin

/-! ### Segments (R56 to R59) -/

section
variable {s : State} {c : Fin 64} {r : Fin 4} {e : Bytes} (table : List Bytes) (env : Env)
  (hadmits : s.admits c = true) (hen : s.ringEn c r = true) (htaken : (s.ring c r).taken = some e)
include hadmits hen htaken

theorem segmentValidate_badSequence (hid : (SegDesc.ofBytes e).id ≠ (s.ring c r).expect) :
    segmentValidate c r table env s = rejectSegment c r (SegDesc.ofBytes e) stDiscarded dBadSequence s := by
  have taking : ¬ (¬ s.admits c ∨ ¬ s.ringEn c r) := not_or.2 ⟨not_not_intro hadmits, not_not_intro hen⟩
  unfold segmentValidate
  dsimp only
  rw [htaken]
  exact (if_neg taking).trans (if_pos hid)

variable (hid : (SegDesc.ofBytes e).id = (s.ring c r).expect)
include hid

/-- A segment with the expected number is checked, its table read, and its tasks checked. -/
theorem segmentValidate_expected : segmentValidate c r table env s =
    match checkSegDesc e with
    | some d => rejectSegment c r (SegDesc.ofBytes e) (rejectStatus d) d s
    | none =>
      match readTable env c (SegDesc.ofBytes e) table s with
      | (.pte dpa, s1) =>
        killCtx c stInternal (raisePoisonConsumed { Who.ofCtx c with seq := (SegDesc.ofBytes e).id } 1 c 4 0xFFFFFFFF dpa 0xFFFFFFFF (noteUe dpa s1))
      | (.reject st d, s1) => rejectSegment c r (SegDesc.ofBytes e) st d s1
      | (.tasks vs, s1) =>
        match checkSegTasks { s := s1, c := c, pend := [], tasks := vs } (SegDesc.ofBytes e) with
        | some d => rejectSegment c r (SegDesc.ofBytes e) (rejectStatus d) d s1
        | none => admitSegment c r e vs s1 := by
  have taking : ¬ (¬ s.admits c ∨ ¬ s.ringEn c r) := not_or.2 ⟨not_not_intro hadmits, not_not_intro hen⟩
  unfold segmentValidate
  dsimp only
  rw [htaken]
  exact (if_neg taking).trans (if_neg (not_not_intro hid))

end

theorem rejectSegment_badSequence (c r : Nat) (g : SegDesc) (st : Byte) (s : State) : rejectSegment c r g st dBadSequence s =
    segmentRecord c g.cq st dBadSequence g.id (s.setRing c r { s.ring c r with taken := none }) := by
  unfold rejectSegment
  dsimp only
  rw [if_pos rfl]

theorem rejectSegment_advances (c r : Nat) (g : SegDesc) (st : Byte) {d : BitVec 16} (hd : d ≠ dBadSequence) (s : State) :
    rejectSegment c r g st d s =
      segmentRecord c g.cq st d g.id (s.setRing c r { s.ring c r with taken := none, expect := (s.ring c r).expect + 1 }) := by
  unfold rejectSegment
  dsimp only
  rw [if_neg hd]

/-- A segment that no CANCEL before it names is admitted as it is. -/
theorem cancelAdmitted_none {c : Fin 64} {r : Fin 4} {s : State} (h : (s.ring c r).cancel = []) (id : Word) :
    cancelAdmitted c r id s = s.setRing c r { s.ring c r with cancel := [] } := by
  unfold cancelAdmitted
  dsimp only
  rw [h]
  rfl

/-- A context with a segment just admitted, before a CANCEL is looked for: its tasks queue, and its ring expects the next number. -/
def State.admittedCtx (s : State) (c : Fin 64) (r : Fin 4) (e : Bytes) (vs : List VTask) : Ctx :=
  let g := SegDesc.ofBytes e
  let ts := s.newTasks c r g vs
  let x := s.ctx c
  let q := x.ring r
  let ph := (Slot.ofWord g.predWord).handle
  let bind := if g.predicated then ((s.bindsOf c [ph]).find? fun b => b.1 = ph).map fun b => b.2 else none
  let seg : Segment := { ring := r, id := g.id, order := x.order, entry := e, closed := false, predWait := g.predicated, predBind := bind }
  let y := x.setRing r { q with taken := none, expect := q.expect + 1 }
  { y with segs := y.segs ++ [seg], tasks := y.tasks ++ ts, groups := y.groups ++ newGroups r g.id ts, order := y.order + ts.length, started := true }

section
variable {s : State} {c : Fin 64} {r : Fin 4}

theorem admitSegment_eq (e : Bytes) (vs : List VTask) :
    admitSegment c r e vs s = cancelAdmitted c r (SegDesc.ofBytes e).id (s.setCtx c (s.admittedCtx c r e vs)) := rfl

variable (hkeys : s.keysRise = true) (hrings : NMap.rising 0 (s.ctx c).rings = true)
include hrings

theorem admittedCtx_ring (e : Bytes) (vs : List VTask) :
    (s.admittedCtx c r e vs).ring r = { s.ring c r with taken := none, expect := (s.ring c r).expect + 1 } :=
  (Ctx.ring_setRing hrings r r _).trans (if_pos rfl)

include hkeys

/-- What an admission leaves of its context, where no CANCEL names the segment. -/
theorem admitSegment_ctx (hcancel : (s.ring c r).cancel = []) (e : Bytes) (vs : List VTask) :
    admitSegment c r e vs s = (s.setCtx c (s.admittedCtx c r e vs)).setRing c r { (s.admittedCtx c r e vs).ring r with cancel := [] } ∧
      (admitSegment c r e vs s).ctx c = (s.admittedCtx c r e vs).setRing r { (s.admittedCtx c r e vs).ring r with cancel := [] } := by
  have self : (s.setCtx c (s.admittedCtx c r e vs)).ctx c = s.admittedCtx c r e vs := (State.ctx_setCtx hkeys c c _).trans (if_pos rfl)
  have ring : (s.setCtx c (s.admittedCtx c r e vs)).ring c r = (s.admittedCtx c r e vs).ring r := by
    unfold State.ring
    rw [self]
  have free : ((s.setCtx c (s.admittedCtx c r e vs)).ring c r).cancel = [] := by
    rw [ring, admittedCtx_ring hrings]
    exact hcancel
  have done : admitSegment c r e vs s =
      (s.setCtx c (s.admittedCtx c r e vs)).setRing c r { (s.admittedCtx c r e vs).ring r with cancel := [] } := by
    rw [admitSegment_eq, cancelAdmitted_none free, ring]
  refine ⟨done, ?_⟩
  rw [done, State.ctx_setRing_same ((State_setCtx_keeps c _ (Keeps.refl true s)).keys hkeys), self]

end

/-! ### Tables (R59) -/

/-- Where no task of a table has an extended block, its lines are its tasks. -/
theorem readBlocks_plain (env : Env) (c base : Nat) {bs : List Bytes} (h : ∀ b ∈ bs, (Desc.ofBytes b).readsExt = false) (s : State) :
    readBlocks env c base bs s = (.tasks (bs.map fun b => { d := Desc.ofBytes b, ext := [], raw := b }), s) := by
  induction bs with
  | nil => rfl
  | cons b bs ih =>
    have plain : readBlock env c base (Desc.ofBytes b) s = (.ok [], s) := if_pos (Bool.eq_false_iff.1 (h b List.mem_cons_self))
    rw [readBlocks, plain]
    dsimp only
    rw [ih fun x hx => h x (List.mem_cons_of_mem _ hx)]
    rfl

theorem readTable_companion (env : Env) (c : Nat) {g : SegDesc} (table : List Bytes) {s : State} (hdev : g.inDevice = false)
    (hwin : s.winAllows g.table (64 * g.count) false = true)
    (hplain : ∀ b ∈ (List.range g.count).map fun i => sliceB (table.getD i []) 0 64, (Desc.ofBytes b).readsExt = false) :
    readTable env c g table s =
      (.tasks (((List.range g.count).map fun i => sliceB (table.getD i []) 0 64).map fun b => { d := Desc.ofBytes b, ext := [], raw := b }), s) := by
  have lines : readLines env c g table s = (.ok ((List.range g.count).map fun i => sliceB (table.getD i []) 0 64), s) :=
    (if_neg (Bool.eq_false_iff.1 hdev)).trans (if_pos hwin)
  have none' : (((List.range g.count).map fun i => sliceB (table.getD i []) 0 64).any fun b => (Desc.ofBytes b).readsExt) = false :=
    List.any_eq_false.2 fun b hb => Bool.eq_false_iff.1 (hplain b hb)
  unfold readTable
  rw [lines]
  dsimp only
  rw [none', if_neg fun h => Bool.false_ne_true h.1]
  exact readBlocks_plain env c g.paramBase hplain s

/-! ### Predicates (R57) -/

/-- A predicate that is ready and read decides its segment. -/
theorem predicateDecide_read {s : State} {c : Nat} {r : Fin 4} {id : Word} {k : Segment} {x : Tensor}
    (hk : (s.ctx c).segs.find? (fun g => decide (g.ring = r) && decide (g.id = id) && g.predWait) = some k) (hready : s.predReady c k = true)
    (hgood : let s1 := s.setCtx c { s.ctx c with segs := (s.ctx c).segs.map fun j => if j.order = k.order then { j with predWait := false } else j }
      (s1.readVer c (Slot.ofWord k.d.predWord).handle k.predBind).failed = none ∧ s1.readTensor c (Slot.ofWord k.d.predWord).handle k.predBind = some x) :
    predicateDecide c r id s =
      let s1 := s.setCtx c { s.ctx c with segs := (s.ctx c).segs.map fun j => if j.order = k.order then { j with predWait := false } else j }
      match (readMat envQuiet { Who.ofCtx c with seq := id } 1 1 x).run s1 with
        | (.ok (v, _), u) =>
          closeSegments c (if predHolds fmt32 k.d.predOp (v.at 0 0) k.d.predValue then u else endSegment c k stDiscarded dPredFalse u)
        | (.error e, u) =>
          let ended := closeSegments c (endSegment c k e.status dInherited u)
          (match e.kill with | some cause => killCtx c cause ended | none => ended) := by
  unfold predicateDecide
  dsimp only at hgood ⊢
  rw [hk]
  dsimp only
  rw [if_neg (not_not_intro hready), hgood.1]
  dsimp only
  rw [hgood.2]
  dsimp only
  generalize (readMat envQuiet _ 1 1 x).run _ = y
  obtain ⟨m, u⟩ := y
  cases m <;> rfl

/-- The four submission rings are read again in order. -/
theorem sqResume_rings (c : Nat) (s : State) :
    sqResume c s = readEntries c 3 (readEntries c 2 (readEntries c 1 (readEntries c 0 s))) := by
  unfold sqResume
  rw [show List.range 4 = [0, 1, 2, 3] from rfl]
  simp only [List.foldl_cons, List.foldl_nil]

/-- Settles O38. -/
theorem segmentCommands : Obligations.SegmentCommands := by
  intro s c r e table env g q taken
  refine ⟨fun hhead hcheck => ⟨congrArg Host.Outcome.next (takeSegment_badCheck hhead hcheck), congrArg Host.Outcome.next (takeNop_badCheck hhead hcheck)⟩,
    ?_, fun hhead hcheck _ hroom => congrArg Host.Outcome.next (takeSegment_waits hhead hcheck hroom),
    fun hhead hcheck htype => congrArg Host.Outcome.next (takeNop_consumes hhead hcheck htype), ?_, ?_, ?_, ?_, ?_, ?_,
    congrArg Host.Outcome.next (sqResume_rings c s)⟩
  · intro hkeys hrings hhead hcheck htype hroom hafter hwin
    have taking := takeSegment_takes hhead hcheck htype hroom hafter
    rw [consume_written hwin] at taking
    have rings := State.rings_rise_setRing hkeys hrings r { q with devPtr := q.devPtr + 1, fetched := q.fetched.tail }
    have keys := State.keysRise_setRing hkeys (c := c) r { q with devPtr := q.devPtr + 1, fetched := q.fetched.tail }
    have moved := State.ring_setRing_same hkeys hrings r { q with devPtr := q.devPtr + 1, fetched := q.fetched.tail }
    have ring := State.ring_setRing_same (s := (s.setRing c r { q with devPtr := q.devPtr + 1, fetched := q.fetched.tail }).emit
      (.line (s.reg64 (aRing c r 0x14)) (shadowLine (q.devPtr + 1)))) keys rings r
    refine ⟨_, congrArg Host.Outcome.next taking, ?_⟩
    rw [ring, show ∀ t : State, ∀ o, (t.emit o).ring c r = t.ring c r from fun _ _ => rfl, moved]
    exact ⟨rfl, rfl, rfl, rfl⟩
  · intro ⟨hadmits, hen, htaken⟩ hid
    exact congrArg Host.Outcome.next ((segmentValidate_badSequence table env hadmits hen htaken hid).trans (rejectSegment_badSequence ..))
  · intro d ⟨hadmits, hen, htaken⟩ hid hbad hd
    refine congrArg Host.Outcome.next ((segmentValidate_expected table env hadmits hen htaken hid).trans ?_)
    rw [hbad]
    exact rejectSegment_advances c r g _ hd s
  · intro vs s1 ⟨hadmits, hen, htaken⟩ hid hgood hread hcheck hkeys hrings hcancel
    obtain ⟨done, ctx⟩ := admitSegment_ctx hkeys hrings hcancel e vs
    refine ⟨admitSegment c r e vs s1, congrArg Host.Outcome.next ((segmentValidate_expected table env hadmits hen htaken hid).trans ?_), ?_⟩
    · rw [hgood, hread]
      dsimp only
      rw [hcheck]
    have ring : (admitSegment c r e vs s1).ring c r = { s1.ring c r with taken := none, expect := (s1.ring c r).expect + 1, cancel := [] } := by
      have rises : NMap.rising 0 (s1.admittedCtx c r e vs).rings = true := Ctx.rings_rise_setRing hrings r _
      unfold State.ring at hcancel ⊢
      rw [ctx, Ctx.ring_setRing rises, if_pos rfl, admittedCtx_ring hrings]
      rfl
    rw [ring, ctx]
    refine ⟨rfl, rfl, rfl, rfl, ?_⟩
    rw [done]
    exact ⟨rfl, rfl, rfl⟩
  · intro st d s1 ⟨hadmits, hen, htaken⟩ hid hgood hread
    refine congrArg Host.Outcome.next ((segmentValidate_expected table env hadmits hen htaken hid).trans ?_)
    rw [hgood, hread]
  · intro hdev hwin lines hplain
    exact readTable_companion env c table hdev hwin hplain
  · intro id k h x hk hready hh s1 hgood hread
    subst hh
    exact congrArg Host.Outcome.next (predicateDecide_read hk hready ⟨hgood, hread⟩)

end Sys2Proof.Machine
end

section
/-! PROOFS. When a task issues and ends, and the ramps of a quire (R21, R52 to R55, R63, R135, R138, R187). -/

namespace Sys2Proof.Machine

/-! ### Issue (R52 to R55, R63) -/

/-- What a task must meet to issue, as far as its context and other tasks go. -/
structure Ready (s : State) (t : Task) (x : Ctx) (c : Nat) : Prop where
  queued : t.st = .queued
  kept : t.superseded = false
  served : x.st = .active ∨ x.st = .quiescing
  records : s.cqBufFull c = false
  words : x.lateWords = []
  deps : s.depsMet t = true
  partner : s.partnerReady t = true

/-- How the tables that a task reads at its issue are read. -/
def tablesRun (s : State) (t : Task) : Except RunStop Unit × State :=
  (readTables t.who (tableConsumer t.d.kind) (tableUse t.d.kind) (s.taskStreams t) (if t.d.repeats ∧ t.attempt = 0 then some t.d.layer else none)).run s

/-- The deadline's distance. -/
def issueLimit (s : State) (t : Task) : Nat :=
  if kindOnCluster t.d.kind then s.taskLimitNs else if t.d.kind = kWait ∧ t.d.op = 1 then waitNs t.d else 0

/-- A task as it issues. -/
def issuedTask (s : State) (t : Task) (n : Fin 512) (level : Nat) : Task :=
  { t with st := .issued, level := level, cluster := if kindOnCluster t.d.kind then some n else none,
           engine := if t.d.kind = kOptimize then some (quireFin n) else none,
           deadline := s.time + BitVec.ofNat 64 (issueLimit s t), issuedAt := s.time, pip := s.pipIssued t }

section
variable {s : State} {r : TaskRef} {n : Fin 512} {t : Task} (htask : s.task? r = some t) (hready : Ready s t (s.ctx r.ctx) r.ctx)
include htask hready

/-- A ready task ends with its input's failure or with that of its tables, or issues where its cluster or engine takes it. -/
theorem taskIssue_ready : taskIssue r n s =
    match s.inheritedOf t with
    | some st => endTask t st dInherited s
    | none => match tablesRun s t with
      | (.error e, s0) => (match e.kill with | some k => killCtx r.ctx k (endTask t e.status e.detail s0) | none => endTask t e.status e.detail s0)
      | (.ok _, s0) =>
        if (kindOnCluster t.d.kind ∧ ¬ s.clusterFree r.ctx n t.d.kind (fixLevel t s0).2) ∨ (t.d.kind = kOptimize ∧ ¬ s.engineUp (quireFin n)) then s
        else
          let issued := issuedTask s t n (fixLevel t s0).2
          let s2 := count (aGeng 0x18) 1 ((fixLevel t s0).1.setTask issued)
          if kindOnCluster t.d.kind then placeTask issued n s2 else s2 := by
  obtain ⟨queued, kept, served, records, words, deps, partner⟩ := hready
  have held : ¬ (t.st ≠ .queued ∨ t.superseded ∨ ((s.ctx r.ctx).st ≠ .active ∧ (s.ctx r.ctx).st ≠ .quiescing) ∨ s.cqBufFull r.ctx
      ∨ ¬ (s.ctx r.ctx).lateWords.isEmpty ∨ ¬ s.depsMet t ∨ ¬ s.partnerReady t) := by
    rw [words]
    rcases served with served | served <;> simp [queued, kept, served, records, deps, partner]
  unfold taskIssue
  rw [htask]
  refine (if_neg held).trans ?_
  cases s.inheritedOf t with
  | some st => rfl
  | none => rfl

variable (hinputs : s.inheritedOf t = none)
include hinputs

theorem taskIssue_tablesFail {e : RunStop} {s0 : State} (htables : tablesRun s t = (.error e, s0)) : taskIssue r n s =
    match e.kill with | some k => killCtx r.ctx k (endTask t e.status e.detail s0) | none => endTask t e.status e.detail s0 := by
  rw [taskIssue_ready htask hready, hinputs, htables]

variable {s0 : State} (htables : tablesRun s t = (.ok (), s0)) (hgroup : (s0.ctx t.ref.ctx).group? t = none)
include htables hgroup

/-- A task outside any group issues at level 0. -/
theorem taskIssue_issues (hcluster : kindOnCluster t.d.kind = true → s.clusterFree r.ctx n t.d.kind 0 = true)
    (hengine : t.d.kind = kOptimize → s.engineUp (quireFin n) = true) : taskIssue r n s =
      let issued := issuedTask s t n 0
      let s2 := count (aGeng 0x18) 1 (s0.setTask issued)
      if kindOnCluster t.d.kind then placeTask issued n s2 else s2 := by
  have level : fixLevel t s0 = (s0, 0) := by
    unfold fixLevel
    dsimp only
    rw [hgroup]
  rw [taskIssue_ready htask hready, hinputs, htables]
  dsimp only
  rw [level]
  refine if_neg ?_
  rintro (⟨on, busy⟩ | ⟨kind, down⟩)
  · exact busy (hcluster on)
  · exact down (hengine kind)

end

/-- No table is read where no stream is stepped and no layer has an entry. -/
theorem tablesRun_none {s : State} {t : Task} (hstreams : ∀ i ∈ s.taskStreams t, refStepped i = false)
    (hlayer : (if t.d.repeats ∧ t.attempt = 0 then some t.d.layer else none) = none ∨ s.layerHandle t.ref.ctx = none) :
    tablesRun s t = (.ok (), s) := by
  have unstepped : (s.taskStreams t).filter refStepped = [] := List.filter_eq_nil_iff.2 fun i hi => Bool.eq_false_iff.1 (hstreams i hi)
  unfold tablesRun readTables
  rw [unstepped]
  change (List.foldlM _ () (_ ++ _) : Run Unit).run s = _
  have noLevels (levels : List (Tensor × Nat)) (h : levels = []) :
      (List.foldlM (fun _ e => do
        let _ ← readTile envQuiet t.who (tableConsumer t.d.kind) (tableUse t.d.kind) e.1.loc e.2
        pure ()) () levels : Run Unit).run s = (.ok (), s) := by rw [h]; rfl
  refine noLevels _ (List.append_eq_nil_iff.2 ⟨?streams, ?levels⟩)
  case streams =>
    cases s.streamHandle t.who.ctx with
    | none => rfl
    | some h =>
      dsimp only
      cases s.readTensor t.who.ctx h none <;> rfl
  case levels =>
    rcases hlayer with hlayer | hlayer
    · rw [hlayer]
      rfl
    · rw [show s.layerHandle t.who.ctx = none from hlayer]
      cases (if t.d.repeats ∧ t.attempt = 0 then some t.d.layer else none) <;> rfl

/-! ### Completion (R54, R70) -/

theorem taskComplete_ran {s : State} {r : TaskRef} {t : Task} (htask : s.task? r = some t) (hran : t.st = .ran)
    (hactive : (s.ctx r.ctx).st.isActive = true) (ns : Word) :
    taskComplete r ns s = finishRun t (if kindOnCluster t.d.kind then ns else 0) (closeOps r s) := by
  unfold taskComplete
  rw [htask]
  exact if_pos ⟨hran, hactive⟩

/-! ### Ramps (R135, R138) -/

section
variable {s : State} {n : Nat}

theorem rampDone_idle (h : (s.clus n).ramping = false) : rampDone n s = s := if_pos (Bool.eq_false_iff.1 h)

theorem rampDone_down (h : (s.clus n).ramping = true) (hdown : (s.clus n).rampDown = true) (hwait : (s.clus n).rampWait = false) :
    rampDone n s = s.setClus n { s.clus n with ramping := false, rampDown := false, groups := 0, bank := false } :=
  (if_neg (not_not_intro h)).trans ((if_pos hdown).trans (if_neg (Bool.eq_false_iff.1 hwait)))

theorem rampDone_up (h : (s.clus n).ramping = true) (hdown : (s.clus n).rampDown = false) :
    rampDone n s = s.setClus n { s.clus n with ramping := false, groups := (s.clus n).groups ||| s.neededGroups n } :=
  (if_neg (not_not_intro h)).trans (if_neg (Bool.eq_false_iff.1 hdown))

theorem rampBegin_down (hdown : (s.clus n).rampDown = true) : rampBegin n s = s.setClus n { s.clus n with ramping := true } := by
  unfold rampBegin
  dsimp only
  rw [if_neg fun h => h.1 hdown, if_pos hdown]

theorem rampBegin_up (hdown : (s.clus n).rampDown = false) (hwait : (s.clus n).rampWait = true) :
    rampBegin n s = s.setClus n { s.clus n with ramping := true, run := true, rampWait := false } := by
  unfold rampBegin
  dsimp only
  rw [if_neg fun h => h.2 hwait, if_neg (Bool.eq_false_iff.1 hdown)]

theorem runEnd_asks (hrun : (s.clus n).run = true) (hidle : (s.clus n).ctx = 0xFF) (hramp : (s.clus n).ramping = false)
    (hqueue : (s.rampQueue (quireOf n)).contains n = false) :
    runEnd n s = askRamp n (s.setClus n { s.clus n with run := false, rampDown := true, mode := 0 }) := by
  have free : s.rampPending n = false := by
    unfold State.rampPending
    rw [hramp, hqueue]
    rfl
  unfold runEnd
  refine if_neg ?_
  rintro (h | h | h)
  · exact h hrun
  · exact h hidle
  · exact Bool.eq_false_iff.1 free h

end

/-- The clusters of a quire. -/
def quireClusters (q : Nat) : List Nat := (List.range 16).map fun i => 16 * q + i

theorem quireClusters_nodup (q : Nat) : (quireClusters q).Nodup := List.nodup_range.map fun a b (h : 16 * q + a = 16 * q + b) => by omega

theorem mem_quireClusters {q n : Nat} : n ∈ quireClusters q ↔ quireOf n = q := by
  unfold quireClusters quireOf
  rw [List.mem_map]
  constructor
  · rintro ⟨i, hi, rfl⟩
    have := List.mem_range.1 hi
    omega
  · intro h
    exact ⟨n % 16, List.mem_range.2 (by omega), by omega⟩

section
variable {s : State} {q : Fin 32}

/-- A grant, by the clusters whose ramps have taken their window and those whose requests are taken. -/
theorem rampGrant_eq : rampGrant q s =
    let s1 := (quireClusters q).foldl (fun u n => rampDone n u) s
    let s2 := ((s1.rampQueue q).take 4).foldl (fun u n => rampBegin n u) s1
    { s2 with ramps := NMap.set (fun _ => []) s2.ramps q ((s1.rampQueue q).drop 4) } := rfl

theorem ramps_idle (h : ∀ n ∈ quireClusters q, (s.clus n).ramping = false) : (quireClusters q).foldl (fun u n => rampDone n u) s = s :=
  List.foldlRecOn (motive := fun u => u = s) _ _ rfl fun u hu n hn => by rw [hu]; exact rampDone_idle (h n hn)

variable {a : Fin 512} (hquire : quireOf a = q.val) (halone : ∀ b, b < 512 → b ≠ a.val → (s.clus b).ramping = false)
include hquire halone

theorem ramping_alone {n : Nat} (hn : n ∈ quireClusters q) (hne : n ≠ a.val) : (s.clus n).ramping = false := by
  have home := mem_quireClusters.1 hn
  exact halone n (by have := q.isLt; unfold quireOf at home; omega) hne

theorem ramps_allIdle (hidle : (s.clus a).ramping = false) : (quireClusters q).foldl (fun u n => rampDone n u) s = s := by
  refine ramps_idle fun n hn => ?_
  by_cases same : n = a.val
  · rw [same]
    exact hidle
  · exact ramping_alone hquire halone hn same

/-- Where one cluster alone ramps, its ramp alone has taken its window. -/
theorem ramps_one (hkeys : s.keysRise = true) {k : Cluster} (hdone : rampDone a s = s.setClus a k) :
    (quireClusters q).foldl (fun u n => rampDone n u) s = s.setClus a k := by
  refine (foldl_single (quireClusters_nodup q) (mem_quireClusters.2 hquire) ?_ ?_).trans hdone
  · exact fun n hn hne => rampDone_idle (ramping_alone hquire halone hn hne)
  · intro n hn hne
    rw [hdone]
    refine rampDone_idle ?_
    rw [State.clus_setClus hkeys, if_neg hne]
    exact ramping_alone hquire halone hn hne

/-- The one request that waits is granted. -/
theorem rampGrant_begins (hidle : (s.clus a).ramping = false) (hqueue : s.rampQueue q = [a.val]) {k : Cluster}
    (hbegin : rampBegin a s = s.setClus a k) :
    rampGrant q s = { s.setClus a k with ramps := NMap.set (fun _ => []) s.ramps q [] } := by
  rw [rampGrant_eq]
  dsimp only
  rw [ramps_allIdle hquire halone hidle, hqueue]
  dsimp only [List.take, List.drop, List.foldl]
  rw [hbegin]
  rfl

/-- The one ramp under way has taken its window, and no request waits. -/
theorem rampGrant_ends (hkeys : s.keysRise = true) (hqueue : s.rampQueue q = []) {k : Cluster} (hdone : rampDone a s = s.setClus a k) :
    rampGrant q s = { s.setClus a k with ramps := NMap.set (fun _ => []) s.ramps q [] } := by
  rw [rampGrant_eq]
  dsimp only
  rw [ramps_one hquire halone hkeys hdone, show (s.setClus a k).rampQueue q = [] from hqueue]
  rfl

end

/-- Settles O39. -/
theorem taskIssueAndEnd : Obligations.TaskIssueAndEnd := by
  intro s r n q t ns x ready layer tables limit issued
  have met (h : ready) : Ready s t (s.ctx r.ctx) r.ctx := ⟨h.1, h.2.1, h.2.2.1, h.2.2.2.1, h.2.2.2.2.1, h.2.2.2.2.2.1, h.2.2.2.2.2.2⟩
  refine ⟨?_, ?_, ?_, ?_, ?_, ?_, ?_, ?_, ?_, ?_⟩
  · intro htask hready hinputs hoff hengine s0 htables hgroup href
    refine congrArg Host.Outcome.next ((taskIssue_issues htask (met hready) hinputs htables (href ▸ hgroup) (fun on => ?_) hengine).trans
      (if_neg (Bool.eq_false_iff.1 hoff)))
    exact absurd on (Bool.eq_false_iff.1 hoff)
  · intro htask hready hinputs hon hfree s0 htables hgroup href
    refine congrArg Host.Outcome.next ((taskIssue_issues htask (met hready) hinputs htables (href ▸ hgroup) (fun _ => hfree) fun kind => ?_).trans
      (if_pos hon))
    rw [kind] at hon
    exact absurd hon (by decide)
  · intro hstreams hlayer href
    exact tablesRun_none hstreams (href ▸ hlayer)
  · intro htask hready hinputs e s0 htables
    exact congrArg Host.Outcome.next (taskIssue_tablesFail htask (met hready) hinputs htables)
  · intro st htask hready hinput
    refine congrArg Host.Outcome.next ((taskIssue_ready htask (met hready)).trans ?_)
    rw [hinput]
  · intro htask hran hactive hon
    exact congrArg Host.Outcome.next ((taskComplete_ran htask hran hactive ns).trans (by rw [if_pos hon]))
  · intro htask hran hactive hoff
    exact congrArg Host.Outcome.next ((taskComplete_ran htask hran hactive ns).trans (by rw [if_neg (Bool.eq_false_iff.1 hoff)]))
  · intro hnone hqueue
    have idle (n : Nat) : (s.clus n).ramping = false := by
      unfold State.clus
      rw [hnone]
      rfl
    refine congrArg Host.Outcome.next (rampGrant_eq.trans ?_)
    dsimp only
    rw [ramps_idle fun n _ => idle n, hqueue]
    rfl
  · intro a hkeys hquire k after alone
    refine ⟨fun ha hidle hqueue hdown => ?_, fun ha hidle hqueue hdown hwait => ?_, fun ha hramp hqueue hdown hwait => ?_,
      fun ha hramp hqueue hdown => ?_⟩
    · exact congrArg Host.Outcome.next (rampGrant_begins hquire ha hidle hqueue (rampBegin_down hdown))
    · exact congrArg Host.Outcome.next (rampGrant_begins hquire ha hidle hqueue (rampBegin_up hdown hwait))
    · exact congrArg Host.Outcome.next (rampGrant_ends hquire ha hkeys hqueue (rampDone_down hramp hdown hwait))
    · exact congrArg Host.Outcome.next (rampGrant_ends hquire ha hkeys hqueue (rampDone_up hramp hdown))
  · intro hrun hidle hramp hqueue
    exact congrArg Host.Outcome.next (runEnd_asks hrun hidle hramp hqueue)

end Sys2Proof.Machine
end

section
/-! PROOFS. The kinds of task that run to an end of their own accord (R49, R53, R126, R145, R175, R190, R203 to R210, R278, R279). -/

namespace Sys2Proof.Machine

/-! ### The commands that look at their task first -/

section
variable {s : State} {r : TaskRef} {t0 : Task} (htask : s.task? r = some t0)
include htask

theorem execMatmul_ramped (hramped : s.rampWaits t0 = false) (env : Env) :
    execMatmul r env s = .next (runTask r (isKind kMatmul) (productBody false env) s) := by
  unfold execMatmul
  rw [htask]
  exact if_neg (Bool.eq_false_iff.1 hramped)

theorem execMatvec_ramped (hramped : s.rampWaits t0 = false) (env : Env) :
    execMatvec r env s = .next (runTask r (isKind kMatvec) (productBody true env) s) := by
  unfold execMatvec
  rw [htask]
  exact if_neg (Bool.eq_false_iff.1 hramped)

theorem execWaitCounter_reached (h : s.counterReached t0 = true) : execWaitCounter r s = .next (runTask r (waitMode 1) (waitBody stOk) s) := by
  unfold execWaitCounter
  rw [htask]
  exact if_pos h

theorem execWaitTimeout_late (h : t0.deadline ≤ s.time) : execWaitTimeout r s = .next (runTask r (waitMode 1) (waitBody stFabricTimeout) s) := by
  unfold execWaitTimeout
  rw [htask]
  exact if_pos h

theorem execWaitTime_reached (h : fieldLe t0.d.params 8 8 ≤ s.time.toNat) :
    execWaitTime r s = .next (runTask r (waitMode 2) (waitBody stOk) s) := by
  unfold execWaitTime
  rw [htask]
  exact if_pos h

end

/-- Settles O40: the commands by the run they share. -/
theorem tasksRun : Obligations.TasksRun := by
  intro s r env t0 htask hst hactive t ends ramped is
  have left (x : Except RunStop RunOut × State) : Host.Outcome.next (waitLeft r.ctx.val t (x.1.map some, x.2)) = ends x := by
    obtain ⟨e | o, u⟩ := x
    · rfl
    · rfl
  have runs {sel : Desc → Bool} (hsel : sel t0.d = true) (body : Task → Run RunOut) :
      Host.Outcome.next (runTask r sel body s) = ends ((body t).run s) :=
    (congrArg Host.Outcome.next (runTask_runs htask hst hactive hsel body)).trans (left _)
  have kind {k : Nat} (h : t0.d.kind = k) : isKind k t0.d = true := decide_eq_true h
  have op {k o : Nat} (h : is k o) : isOp k o t0.d = true := isOp_of h.1 h.2
  exact ⟨fun h hr => (execMatmul_ramped htask hr env).trans (runs (kind h) (productBody false env)),
    fun h hr => (execMatvec_ramped htask hr env).trans (runs (kind h) (productBody true env)),
    fun h => runs (kind h) (quantizeBody env), fun h => runs (op h) (vectorBody env), fun h => runs (op h) (vectorBody env),
    fun h => runs (op h) (vectorBody env), fun h => runs (op h) (vectorBody env), fun h => runs (op h) (vectorBody env),
    fun h => runs (op h) (vectorBody env), fun h => runs (op h) (vectorBody env), fun h => runs (op h) (compressBody env),
    fun h => runs (op h) (normBody env), fun h => runs (op h) (updateBody env), fun h => runs (op h) (requantBody env),
    fun h => runs (kind h) (copyBody env), fun h => runs (kind h) eventBody,
    fun h hreached => (execWaitCounter_reached htask hreached).trans (runs (sel := waitMode 1) (op h) (waitBody stOk)),
    fun h hlate => (execWaitTimeout_late htask hlate).trans (runs (sel := waitMode 1) (op h) (waitBody stFabricTimeout)),
    fun h hreached => (execWaitTime_reached htask hreached).trans (runs (sel := waitMode 2) (op h) (waitBody stOk))⟩

end Sys2Proof.Machine
end

section
/-! PROOFS. The admin ring (R46, R60, R62, R64, R122, R184, R185, R221, R251, R252, R258). -/

namespace Sys2Proof.Machine

/-! ### Taking a command -/

/-- The state once the command at the head of the admin ring is taken: its entry is consumed and the next number expected. -/
def adminTaken (c : Nat) (s : State) : State :=
  (consume c 7 s).setRing c 7 { (consume c 7 s).ring c 7 with expect := ((consume c 7 s).ring c 7).expect + 1 }

section
variable {s : State} {c : Nat} {e : Bytes} (hhead : s.adminHead c = some e) (hcheck : checkOk e = true)
  (hseq : BitVec.ofNat 32 (fieldLe e 4 4) = (s.ring c 7).expect)
include hhead hcheck hseq

/-- The command in turn at the head of the ring runs, where its TYPE and its MODE are those of the command. -/
theorem takeAdmin_mode {typ mode : Nat} (hadmin : adminType typ = true) (htype : fieldLe e 0 1 = typ) (hmode : fieldLe e 0x10 1 = mode)
    (run : Bytes → State → State) : takeAdmin c typ (some mode) run s = run e (adminTaken c s) := by
  unfold takeAdmin
  rw [hhead]
  dsimp only
  rw [if_neg (not_not_intro hcheck), if_neg (not_not_intro hseq), htype, hmode, hadmin]
  simp only [ne_eq, not_true_eq_false, decide_false, Bool.false_and, Bool.or_false, Bool.false_eq_true, and_false, if_false, if_true]
  rfl

theorem takeAdmin_type {typ : Nat} (hadmin : adminType typ = true) (htype : fieldLe e 0 1 = typ) (run : Bytes → State → State) :
    takeAdmin c typ none run s = run e (adminTaken c s) := by
  unfold takeAdmin
  rw [hhead]
  dsimp only
  rw [if_neg (not_not_intro hcheck), if_neg (not_not_intro hseq), htype, hadmin]
  simp only [ne_eq, not_true_eq_false, decide_false, Bool.or_false, Bool.false_eq_true, and_false, if_false, if_true]
  rfl

end

/-! ### How a command taken goes on -/

section
variable {s t : State} {c : Nat} {e img : Bytes}

theorem adminStart_done {r : AdminEnd} (h : adminRun c e img s = .done r t) : adminStart c e img s = adminDone c e r t := by
  unfold adminStart
  rw [h]

/-- A command that waits holds the ring; a QUIESCE has its context QUIESCING meanwhile. -/
theorem adminStart_wait (h : adminRun c e img s = .wait) : adminStart c e img s =
    let t := if fieldLe e 0 1 = 0x27 ∧ (s.ctx c).st = .active then setCtxState c .quiescing s else s
    t.setCtx c { t.ctx c with adminWait := some (e ++ img) } := by
  unfold adminStart
  rw [h]

variable (hplaced : adminReserved e = false)
include hplaced

theorem adminRun_define (h : fieldLe e 0 1 = 0x20) : adminRun c e img s = adminDefine c e s := by
  rw [adminRun, if_neg (Bool.eq_false_iff.1 hplaced), h]
  rfl

theorem adminRun_share (h : fieldLe e 0 1 = 0x21) : adminRun c e img s = adminShare c e s := by
  rw [adminRun, if_neg (Bool.eq_false_iff.1 hplaced), h]
  rfl

theorem adminRun_drop (h : fieldLe e 0 1 = 0x22) : adminRun c e img s = adminDrop c e s := by
  rw [adminRun, if_neg (Bool.eq_false_iff.1 hplaced), h]
  rfl

theorem adminRun_cancel (h : fieldLe e 0 1 = 0x23) : adminRun c e img s = adminCancel c e s := by
  rw [adminRun, if_neg (Bool.eq_false_iff.1 hplaced), h]
  rfl

theorem adminRun_cursor (h : fieldLe e 0 1 = 0x24) : adminRun c e img s = adminCursor c e s := by
  rw [adminRun, if_neg (Bool.eq_false_iff.1 hplaced), h]
  rfl

theorem adminRun_function (h : fieldLe e 0 1 = 0x25) : adminRun c e img s = adminFunction c e img s := by
  rw [adminRun, if_neg (Bool.eq_false_iff.1 hplaced), h]
  rfl

theorem adminRun_setSlot (h : fieldLe e 0 1 = 0x26) (hmode : fieldLe e 0x10 1 = 0) : adminRun c e img s = adminSetSlot c e s := by
  rw [adminRun, if_neg (Bool.eq_false_iff.1 hplaced), h]
  exact if_pos hmode

theorem adminRun_realign (h : fieldLe e 0 1 = 0x26) (hmode : fieldLe e 0x10 1 = 1) : adminRun c e img s = adminRealign c e s := by
  rw [adminRun, if_neg (Bool.eq_false_iff.1 hplaced), h, hmode]
  rfl

theorem adminRun_quiesce (h : fieldLe e 0 1 = 0x27) : adminRun c e img s =
    let s1 := if (s.ctx c).st = .active then setCtxState c .quiescing s else s
    if (s1.ctx c).inflight = 0 then .done adminOk s1 else .wait := by
  rw [adminRun, if_neg (Bool.eq_false_iff.1 hplaced), h]
  rfl

theorem adminRun_echo (h : fieldLe e 0 1 = 0x28) : adminRun c e img s = .done adminOk s := by
  rw [adminRun, if_neg (Bool.eq_false_iff.1 hplaced), h]
  rfl

end

/-! ### What the commands do -/

section
variable {s : State} {c : Nat} {e : Bytes}

/-- A definition that passes its checks takes effect unless its handle is in use. -/
theorem adminDefine_checked (hgood : checkDefn (sliceB e 0x18 32) = none) (hin : s.beyondHtab c (fieldLe e 0x10 4) = false) :
    adminDefine c e s =
      if s.handleBusy c (fieldLe e 0x10 4) then .wait else .done adminOk (defineHandle c (fieldLe e 0x10 4) (sliceB e 0x18 32) s) := by
  unfold adminDefine
  dsimp only
  rw [hgood]
  exact if_neg (Bool.eq_false_iff.1 hin)

/-- What an import keeps of the handle that it names. -/
def Handle.importOf (d : Handle) (sc sh : Nat) : Handle :=
  { d with flags := d.flags ||| 2, source := some (d.home sc sh), clipBound := false, charge := 0, shadow := none }

theorem adminShare_shares {d : Handle} (hctx : fieldLe e 0x10 1 < 64) (hvalid : (s.ctx (fieldLe e 0x10 1)).st ≠ .invalid)
    (hd : (s.ctx (fieldLe e 0x10 1)).handle? (fieldLe e 0x14 4) = some d) (hin : s.beyondHtab c (fieldLe e 0x18 4) = false)
    (hjob : s.ctxJob c = s.ctxJob (fieldLe e 0x10 1)) (hshare : d.shareable = true) (hfree : s.handleBusy c (fieldLe e 0x18 4) = false) :
    adminShare c e s =
      let v := dropHandle c (fieldLe e 0x18 4) s
      .done adminOk (v.setCtx c { v.ctx c with
        handles := NMap.insert (v.ctx c).handles (fieldLe e 0x18 4) (d.importOf (fieldLe e 0x10 1) (fieldLe e 0x14 4)) }) := by
  unfold adminShare
  dsimp only
  rw [if_neg (not_or.2 ⟨Nat.not_le.2 hctx, hvalid⟩), hd]
  dsimp only
  rw [if_neg (Bool.eq_false_iff.1 hin), if_neg (not_or.2 ⟨not_not_intro hjob, not_not_intro hshare⟩), if_neg (Bool.eq_false_iff.1 hfree)]
  rfl

theorem adminDrop_drops (hin : s.beyondHtab c (fieldLe e 0x10 4) = false) (hdef : ((s.ctx c).handle? (fieldLe e 0x10 4)).isSome = true)
    (hfree : s.handleBusy c (fieldLe e 0x10 4) = false) : adminDrop c e s = .done adminOk (dropHandle c (fieldLe e 0x10 4) s) := by
  have known : ¬ (s.beyondHtab c (fieldLe e 0x10 4) = true ∨ ((s.ctx c).handle? (fieldLe e 0x10 4)).isNone = true) := by
    rw [hin, Option.isNone_iff_eq_none, ← Option.not_isSome_iff_eq_none, hdef]
    decide
  unfold adminDrop
  exact (if_neg known).trans (if_neg (Bool.eq_false_iff.1 hfree))

theorem adminFunction_loads {img : Bytes} (hgood : checkImage img = none) (hfree : (s.ctx c).funcBusy (fieldLe e 0x10 1) = false)
    (hslot : s.auditFull = false) : adminFunction c e img s =
      let fn := fieldLe e 0x10 1
      let d := leNat (shake256 img 16)
      let t := auditAppend (mkEntry 1 2 0 (BitVec.ofNat 48 c) (BitVec.ofNat 64 (4 * 2 ^ 56 + c * 256 + fn)) (BitVec.ofNat 64 d)
        (BitVec.ofNat 64 (d / 2 ^ 64))) s
      .done adminOk (t.setCtx c { t.ctx c with funcs := NMap.insert (t.ctx c).funcs fn img }) := by
  unfold adminFunction
  dsimp only
  rw [hgood]
  exact if_neg (not_or.2 ⟨Bool.eq_false_iff.1 hfree, Bool.eq_false_iff.1 hslot⟩)

/-- An image in companion memory that a window lets be read. -/
theorem readImage_companion {image : Bytes} {env : Env} (hlo : 0x80 ≤ fieldLe e 0x10 1) (hhi : fieldLe e 0x10 1 ≤ 0xBF) (hmode : fieldLe e 0x11 1 = 0)
    (hlen : fieldLe e 0x20 4 = 24640) (hwin : s.winAllows (fieldLe e 0x18 8) 24640 false = true) :
    readImage c e image env s = (.ok (sliceB image 0 24640), s) := by
  have operands : ¬ (fieldLe e 0x10 1 < 0x80 ∨ 0xBF < fieldLe e 0x10 1 ∨ 2 ≤ fieldLe e 0x11 1 ∨ fieldLe e 0x20 4 ≠ 24640) := by omega
  unfold readImage
  exact (if_neg operands).trans ((if_pos hmode).trans (if_pos hwin))

section
variable {h : Nat} {t0 : Tensor} (hh : s.streamHandle c = some h) (ht : s.commTensor c h = some t0)
include hh ht

/-- A REALIGN whose table is as it says moves the streams to it. -/
theorem adminRealign_moves {hd : Bytes} {v : State} (hread : (tableData envQuiet (Who.ofCtx c) 1 1 t0 0).run s = (.ok hd, v))
    (hseed : fieldLe hd 0 8 = v.seed c) (hlog : fieldLe hd 0x18 1 = v.slotsLog2 c) (hstep : fieldLe hd 8 8 = fieldLe e 0x18 8)
    (hidle : (v.ctx c).streamsBusy = false) : adminRealign c e s =
      let t1 := (v.setReg64 (aRngs c 0x20) (BitVec.ofNat 64 (fieldLe hd 8 8))).setReg64 (aRngs c 0x28) (BitVec.ofNat 64 (fieldLe hd 0x10 8))
      let t2 := t1.setCtx c { t1.ctx c with cursors := [], realign := false }
      .done adminOk (noteRealign c 1 0xFFFF (fieldLe hd 8 8) (fieldLe hd 0x10 8) t2) := by
  unfold adminRealign
  rw [hh]
  dsimp only
  rw [ht]
  dsimp only
  unfold adminTable
  rw [hread]
  dsimp only
  rw [if_neg (not_not_intro hseed), if_neg (not_not_intro hlog), if_neg (not_not_intro hstep), if_neg (Bool.eq_false_iff.1 hidle)]

theorem adminRealign_unread {er : RunStop} {v : State} (hread : (tableData envQuiet (Who.ofCtx c) 1 1 t0 0).run s = (.error er, v)) :
    adminRealign c e s = .done (er.status, er.detail) (match er.kill with | some st => killCtx c st v | none => v) := by
  unfold adminRealign
  rw [hh]
  dsimp only
  rw [ht]
  dsimp only
  unfold adminTable
  rw [hread] <;> rfl

end

end

/-- Settles O42: each command by what it does once it is taken. -/
theorem adminCommands : Obligations.AdminCommands := by
  intro s c e img env hhead hcheck hseq hplaced s1 u x typ h sc sh lh step fn im ok
  have taken {k : Nat} (hadmin : adminType k = true) (htype : typ = k) (run : Bytes → State → State) :
      takeAdmin c k none run s = run e u := takeAdmin_type hhead hcheck hseq hadmin htype run
  have ends {k : Nat} (hadmin : adminType k = true) (htype : typ = k) {r : AdminEnd} {t : State} (hrun : adminRun c e [] u = .done r t) :
      takeAdmin c k none (fun e => adminStart c e []) s = adminDone c e r t := (taken hadmin htype _).trans (adminStart_done hrun)
  refine ⟨?_, ?_, ?_, ?_, ?_, ?_, ?_, ?_, ?_, ?_, ?_, ?_, ?_⟩
  · intro htype hgood hin hfree
    exact congrArg Host.Outcome.next (ends (by decide) htype
      ((adminRun_define hplaced htype).trans ((adminDefine_checked hgood hin).trans (if_neg (Bool.eq_false_iff.1 hfree)))))
  · intro htype hgood hin hbusy
    have waits : adminRun c e [] u = .wait := (adminRun_define hplaced htype).trans ((adminDefine_checked hgood hin).trans (if_pos hbusy))
    refine congrArg Host.Outcome.next ((taken (by decide) htype _).trans ((adminStart_wait waits).trans ?_))
    dsimp only
    rw [if_neg fun both => absurd (htype.symm.trans both.1) (by decide)]
  · intro d htype hctx hvalid hd hin hjob hshare hfree imp v
    exact congrArg Host.Outcome.next (ends (by decide) htype
      ((adminRun_share hplaced htype).trans (adminShare_shares hctx hvalid hd hin hjob hshare hfree)))
  · intro htype hin hdef hfree
    exact congrArg Host.Outcome.next (ends (by decide) htype ((adminRun_drop hplaced htype).trans (adminDrop_drops hin hdef hfree)))
  · intro htype hring r first unissued t g next v
    exact congrArg Host.Outcome.next (ends (by decide) htype ((adminRun_cancel hplaced htype).trans (if_neg (Nat.not_le.2 hring))))
  · intro htype hlate cs
    exact congrArg Host.Outcome.next (ends (by decide) htype ((adminRun_cursor hplaced htype).trans (if_neg hlate)))
  · intro htype hlo hhi hmode hlen hwin hgood hfree hslot d t
    refine congrArg Host.Outcome.next ((taken (by decide) htype (loadFunction c img env)).trans ?_)
    unfold loadFunction
    rw [if_neg (Bool.eq_false_iff.1 hplaced), readImage_companion hlo hhi hmode hlen hwin]
    exact adminStart_done ((adminRun_function hplaced htype).trans (adminFunction_loads hgood hfree hslot))
  · intro r t htype hmode hset
    exact congrArg Host.Outcome.next ((takeAdmin_mode hhead hcheck hseq (by decide) htype hmode _).trans
      (adminStart_done ((adminRun_setSlot hplaced htype hmode).trans hset)))
  · intro hh t0 htype hmode hstream htable hd v hread hseed hlog hstep hidle t1 t2
    exact congrArg Host.Outcome.next ((takeAdmin_mode hhead hcheck hseq (by decide) htype hmode _).trans
      (adminStart_done ((adminRun_realign hplaced htype hmode).trans (adminRealign_moves hstream htable hread hseed hlog hstep hidle))))
  · intro hh t0 er v htype hmode hstream htable hread
    exact congrArg Host.Outcome.next ((takeAdmin_mode hhead hcheck hseq (by decide) htype hmode _).trans
      (adminStart_done ((adminRun_realign hplaced htype hmode).trans (adminRealign_unread hstream htable hread))))
  · intro htype hactive hidle
    refine congrArg Host.Outcome.next (ends (by decide) htype ((adminRun_quiesce hplaced htype).trans ?_))
    dsimp only
    rw [if_pos hactive, if_pos hidle]
  · intro htype hactive hbusy t
    have waits : adminRun c e [] u = .wait := by
      rw [adminRun_quiesce hplaced htype]
      dsimp only
      rw [if_pos hactive, if_neg hbusy]
    refine congrArg Host.Outcome.next ((taken (by decide) htype _).trans ((adminStart_wait waits).trans ?_))
    dsimp only
    rw [if_pos ⟨htype, hactive⟩]
  · exact fun htype => congrArg Host.Outcome.next (ends (by decide) htype (adminRun_echo hplaced htype))

end Sys2Proof.Machine
end

section
/-! PROOFS. Commands that wait, the release of a context, and the repeat of a layer (R38, R39, R60, R64, R222, R223, R233). -/

namespace Sys2Proof.Machine

/-! ### Commands that wait (R64) -/

/-- A waiting command whose effect nothing holds back any more completes. -/
theorem adminResume_ends {s t : State} {c : Nat} {b : Bytes} {a : AdminEnd} {p : Nat → Bool} (hwait : (s.ctx c).adminWait = some b)
    (htype : p (fieldLe (b.take 64) 0 1) = true) (hserved : (s.ctx c).st = .active ∨ (s.ctx c).st = .quiescing)
    (hrun : adminRun c (b.take 64) (b.drop 64) s = .done a t) :
    adminResume c p s = adminDone c (b.take 64) a (t.setCtx c { t.ctx c with adminWait := none }) := by
  have goes : ¬ (¬ p (fieldLe (b.take 64) 0 1) ∨ ((s.ctx c).st ≠ .active ∧ (s.ctx c).st ≠ .quiescing)) := by
    rintro (h | ⟨ha, hq⟩)
    · exact h htype
    · exact hserved.elim ha hq
  unfold adminResume
  dsimp only
  rw [hwait]
  dsimp only
  rw [if_neg goes, hrun]

/-! ### The release of a context (R38, R39, R60) -/

section
variable {s : State}

theorem activeCtxs_eq_nil : s.activeCtxs = [] ↔ ∀ e ∈ s.ctxs, e.2.st.isActive = false := by
  unfold State.activeCtxs
  rw [List.map_eq_nil_iff, List.filter_eq_nil_iff]
  exact forall₂_congr fun e _ => Bool.eq_false_iff.symm

theorem locked_of_idle (h : s.activeCtxs = []) : s.locked = false :=
  List.any_eq_false.2 fun e he => Bool.eq_false_iff.1 (activeCtxs_eq_nil.1 h e he)

variable {c : Nat}

/-- Where one context alone is active and it ceases to be, none is. -/
theorem activeCtxs_setCtx_last (hkeys : s.keysRise = true) (hlast : s.activeCtxs = [c]) {x : Ctx} (hx : x ≠ Ctx.empty)
    (hidle : x.st.isActive = false) : (s.setCtx c x).activeCtxs = [] := by
  simp only [State.keysRise, Bool.and_eq_true] at hkeys
  refine activeCtxs_eq_nil.2 fun e he => ?_
  have listed : (e.1, e.2) ∈ NMap.insert s.ctxs c x := by
    have he : e ∈ NMap.set (fun _ => Ctx.empty) s.ctxs c x := he
    rw [NMap.set, if_neg hx] at he
    exact he
  rcases (NMap.mem_insert hkeys.1.1.1.1 c e.1 x e.2).1 listed with ⟨-, same⟩ | ⟨hne, old⟩
  · rw [same]
    exact hidle
  · refine Bool.eq_false_iff.2 fun active => hne ?_
    have member : e.1 ∈ s.activeCtxs := List.mem_map.2 ⟨e, List.mem_filter.2 ⟨old, active⟩, rfl⟩
    rw [hlast] at member
    exact List.mem_singleton.1 member

/-- The last active context goes back to CONFIGURED. -/
theorem setCtxState_last (hkeys : s.keysRise = true) (hlast : s.activeCtxs = [c]) (hst : (s.ctx c).st ≠ .configured) :
    (setCtxState c .configured s).activeCtxs = [] := by
  have moved : ({ s.ctx c with st := .configured } : Ctx) ≠ Ctx.empty := fun same => by
    have := congrArg Ctx.st same
    cases this
  have idle := activeCtxs_setCtx_last hkeys hlast moved rfl
  obtain ⟨r, a, e⟩ := auditHw_quiet idle (mkEntry 5 4 0 (BitVec.ofNat 48 4) (BitVec.ofNat 64 (5 * 2 ^ 56 + c * 256 + 2))
    (BitVec.ofNat 64 (s.ctx c).st.code) (BitVec.ofNat 64 CtxState.configured.code))
  unfold setCtxState auditState
  rw [if_neg hst, e]
  exact idle

/-- A context that runs with every ring disabled and nothing in flight is released. -/
theorem ctxRings_releases (hserved : (s.ctx c).st = .active ∨ (s.ctx c).st = .quiescing) (hrings : s.anyRing c = false)
    (hidle : (s.ctx c).inflight = 0) : ctxRings c s = recount (setCtxState c .configured s) := by
  unfold ctxRings
  dsimp only
  rw [if_neg fun h => Bool.false_ne_true (hrings.symm.trans h.2), if_pos ⟨hserved, Bool.eq_false_iff.1 hrings, hidle⟩]

theorem setCtxState_dev (c : Nat) (st : CtxState) (s : State) : (setCtxState c st s).dev = s.dev :=
  ((setCtxState_keeps c st (Keeps.refl true s)).still rfl).1

/-- With its last active context an ACTIVE device is READY again. -/
theorem recount_idle (hdev : s.dev = .active) (hidle : s.activeCtxs = []) :
    (recount s).dev = .ready ∧ (recount s).activeCtxs = [] := by
  have ready : recount s = setDev .ready s := by
    unfold recount
    rw [if_neg fun h => absurd (hdev.symm.trans h.1) (by decide), if_pos ⟨hdev, Bool.eq_false_iff.1 (locked_of_idle hidle)⟩]
  rw [ready]
  refine ⟨setDev_dev _ _, ?_⟩
  unfold State.activeCtxs
  rw [setDev_ctxs_idle hidle]
  exact hidle

end

/-! ### The repeat of a layer (R222, R223, R233) -/

section
variable {s : State} {c : Nat} {r : Fin 4} {seg : Word} {layer : BitVec 16} {g : Group}
  (hgroup : (s.ctx c).groups.find? (fun g => decide (g.ring = r ∧ g.seg = seg ∧ g.layer = layer) && g.due) = some g)
  (hactive : (s.ctx c).st.isActive = true)
include hgroup hactive

/-- A layer that is due repeats once no task of its set runs: what attempt 0 wrote is dropped, and its tasks queue again. -/
theorem layerRepeat_due
    (hdone : (((s.ctx c).repeatSet g).any fun t => decide (t.st = .issued ∨ t.st = .waiting ∨ t.st = .ran)) = false) (env : Env) :
    layerRepeat c r seg layer env s =
      let ts := (s.ctx c).repeatSet g
      let dropped := ts.foldl (fun u t => supersede t u) (ts.reverse.foldl (fun u t => dropAttempt t u) s)
      let queued := fun (t : Task) => if ts.any (fun u => decide (u.order = t.order)) then t.again g.level else t
      let y := { dropped.ctx c with tasks := (dropped.ctx c).tasks.map queued }
      convertMasters env c (ts.map fun t => t.again g.level) (dropped.setCtx c (y.setGroup { g with due := false, attempt := 1 })) := by
  have fires : ¬ (¬ (s.ctx c).st.isActive = true ∨
      (((s.ctx c).repeatSet g).any fun t => decide (t.st = .issued ∨ t.st = .waiting ∨ t.st = .ran)) = true) :=
    not_or.2 ⟨not_not_intro hactive, Bool.eq_false_iff.1 hdone⟩
  unfold layerRepeat
  dsimp only
  rw [hgroup]
  exact if_neg fires

/-- A layer with no tasks left in its set has nothing to repeat. -/
theorem layerRepeat_empty (hnone : (s.ctx c).repeatSet g = []) (env : Env) :
    layerRepeat c r seg layer env s = s.setCtx c ((s.ctx c).setGroup { g with due := false, attempt := 1 }) := by
  rw [layerRepeat_due hgroup hactive (by rw [hnone]; rfl), hnone]
  change s.setCtx c (({ s.ctx c with tasks := (s.ctx c).tasks.map fun t => t } : Ctx).setGroup { g with due := false, attempt := 1 }) = _
  rw [List.map_id']

end

/-- Settles O43. -/
theorem waitingEnds : Obligations.WaitingEnds := by
  intro s c r seg layer env x
  refine ⟨?_, ?_, ?_, ?_, ?_, ?_⟩
  · intro b a t hwait htype hserved hrun
    exact congrArg Host.Outcome.next (adminResume_ends hwait (decide_eq_true htype) hserved hrun)
  · intro b hwait htype hplaced hst hidle
    refine congrArg Host.Outcome.next (adminResume_ends hwait (decide_eq_true htype) (.inr hst) ?_)
    have quiescing : (s.ctx c).st ≠ .active := by rw [show (s.ctx c).st = _ from hst]; decide
    rw [adminRun_quiesce hplaced htype]
    dsimp only
    rw [if_neg quiescing]
    exact if_pos hidle
  · intro hserved hrings hidle
    exact congrArg Host.Outcome.next (ctxRings_releases hserved hrings hidle)
  · intro hkeys hdev hlast hrings hidle hserved
    have runs : (s.ctx c).st ≠ .configured := by
      rcases hserved with h | h
      · rw [show (s.ctx c).st = _ from h]; decide
      · rw [show (s.ctx c).st = _ from h]; decide
    obtain ⟨ready, none⟩ := recount_idle ((setCtxState_dev c .configured s).trans hdev) (setCtxState_last hkeys hlast runs)
    refine ⟨_, congrArg Host.Outcome.next (ctxRings_releases hserved hrings hidle), ready, ?_, none⟩
    rw [recount_st ((setCtxState_keeps c .configured (Keeps.refl true s)).keys hkeys), setCtxState_st hkeys]
  · intro g _ hgroup hactive hnone
    exact congrArg Host.Outcome.next (layerRepeat_empty hgroup hactive hnone env)
  · intro g hgroup hactive hdone ts dropped again y
    exact congrArg Host.Outcome.next (layerRepeat_due hgroup hactive hdone env)

end Sys2Proof.Machine
end

section
/-! PROOFS. What drains, diagnoses and resets the device (R27, R54, R411 to R418). -/

namespace Sys2Proof.Machine

/-! ### The chip drain (R411, R413) -/

/-- The state once suspects are known and the drain is noted. -/
def drainNoted (trigger decision : Nat) (suspects : List Nat) (s : State) : State :=
  noteDrain trigger decision suspects { s with faults := { s.faults with suspects := (s.faults.suspects ++ suspects).eraseDups } }

/-- Every active context's next vote carries FAULT. -/
def armVotes (s : State) : State := s.activeCtxs.foldl (fun t c => t.setCtx c { t.ctx c with abortArmed := true }) s

section
variable {s : State}

theorem drainNoted_dev (trigger decision : Nat) (suspects : List Nat) : (drainNoted trigger decision suspects s).dev = s.dev :=
  ((noteDrain_keeps trigger decision suspects (Keeps.refl true { s with faults := { s.faults with
    suspects := (s.faults.suspects ++ suspects).eraseDups } })).still rfl).1

theorem armVotes_dev : (armVotes s).dev = s.dev :=
  List.foldlRecOn (motive := fun t => State.dev t = s.dev) _ _ rfl fun _ ht _ _ => ht

theorem chipDrain_active (h : s.dev = .active) (trigger decision : Nat) (suspects : List Nat) : chipDrain trigger decision suspects s =
    setDev .draining { armVotes (drainNoted trigger decision suspects s) with
      faults := { (armVotes (drainNoted trigger decision suspects s)).faults with draining := true, drainDetach := false, diagnosing := true } } := by
  unfold chipDrain
  split
  · rfl
  · next e => exact absurd (h.symm.trans e) (by decide)
  · next hne _ => exact absurd h hne

theorem chipDrain_ready (h : s.dev = .ready) (trigger decision : Nat) (suspects : List Nat) : chipDrain trigger decision suspects s =
    holdSuspects (setDev .fenced { drainNoted trigger decision suspects s with
      faults := { (drainNoted trigger decision suspects s).faults with diagnosing := true } }) := by
  unfold chipDrain
  split
  · next e => exact absurd (h.symm.trans e) (by decide)
  · rfl
  · next _ hne => exact absurd h hne

/-- An ACTIVE device that drains has come to DRAINING from ACTIVE. -/
theorem chipDrain_moves (h : s.dev = .active) (trigger decision : Nat) (suspects : List Nat) :
    (chipDrain trigger decision suspects s).dev = .draining ∧ (chipDrain trigger decision suspects s).prev = .active := by
  have armed : (armVotes (drainNoted trigger decision suspects s)).dev = .active := armVotes_dev.trans ((drainNoted_dev ..).trans h)
  rw [chipDrain_active h]
  refine ⟨setDev_dev _ _, (setDev_prev ?_).trans armed⟩
  exact fun same => absurd (armed.symm.trans same) (by decide)

theorem tcsRateTrip_drains (hhour : s.faults.tcsHour.toNat = s.time.toNat / 3600000000000)
    (hmany : (if s.regField (aRstc 0x3C) 15 0 = 0 then 16 else s.regField (aRstc 0x3C) 15 0) < s.faults.tcsCount) :
    tcsRateTrip s = chipDrain 5 0 [] s := if_pos ⟨hhour, hmany⟩

/-- A drain is complete once no active context has tasks in flight. -/
theorem drainComplete_ends (hdev : s.dev = .draining) (hidle : ∀ c ∈ s.activeCtxs, (s.ctx c).inflight = 0) :
    drainComplete s =
      let left := s.activeCtxs.foldl (fun u c => drainRelease c (drainImage c u)) s
      let u := setDev .fenced { left with faults := { left.faults with draining := false } }
      if u.faults.drainDetach then u else holdSuspects u := by
  have done : ¬ (s.dev ≠ .draining ∨ (s.activeCtxs.any fun c => decide (0 < (s.ctx c).inflight)) = true) := by
    refine not_or.2 ⟨not_not_intro hdev, Bool.eq_false_iff.1 (List.any_eq_false.2 fun c hc => ?_)⟩
    rw [hidle c hc]
    decide
  unfold drainComplete
  exact if_neg done

/-! ### Diagnosis (R414, R415) -/

section
variable (hdev : s.dev = .fenced) (hdiag : s.faults.diagnosing = true) (ms : Word)
include hdev hdiag

theorem diagnosis_one (n : Fin 512) (spareOk : Bool) : diagnosis [n] spareOk ms s =
    match s.freeSpare (n.val / 128) with
    | some p => if spareOk then spareCluster n.val p ms s else setHealth 0x3 { s with faults := { s.faults with diagnosing := false } }
    | none => setHealth 0x5 { s with faults := { s.faults with diagnosing := false } } := by
  unfold diagnosis
  exact if_neg (not_or.2 ⟨not_not_intro hdev, not_not_intro hdiag⟩)

theorem diagnosis_none (spareOk : Bool) : diagnosis [] spareOk ms s = setHealth 0x3 { s with faults := { s.faults with diagnosing := false } } := by
  unfold diagnosis
  exact if_neg (not_or.2 ⟨not_not_intro hdev, not_not_intro hdiag⟩)

end

/-! ### Management cores and the watchdog (R416 to R418) -/

/-- Whether a core has double-faulted within the last second. -/
def State.faultedLately (s : State) : Bool := match s.faults.dblFault with
  | some at0 => decide (s.time.toNat < at0.toNat + 1000000000)
  | none => false

/-- The state with a core offline. -/
def coreOffline (core : Nat) (s : State) : State :=
  { s with flash := { s.flash with coreMask := s.flash.coreMask &&& ~~~((1 : Byte) <<< core) }, faults := { s.faults with dblFault := some s.time } }

/-- A core that double-faults goes offline; the device resets where few are left, or another has faulted lately. -/
theorem coreDoubleFault_offline {core : Nat} (hdev : s.dev ≠ .off) (hcore : s.flash.coreMask.getLsbD core = true) :
    coreDoubleFault core s =
      if decide (s.coresOnline < 7) || s.faultedLately then resetDevice .lck false false none (coreOffline core s)
      else mgmtRestart 0 (coreOffline core s) := by
  have runs : ¬ (¬ s.flash.coreMask.getLsbD core = true ∨ s.dev = .off) := not_or.2 ⟨not_not_intro hcore, hdev⟩
  unfold coreDoubleFault
  exact if_neg runs

theorem faultedLately_false (h : ∀ at0, s.faults.dblFault = some at0 → at0.toNat + 1000000000 ≤ s.time.toNat) : s.faultedLately = false := by
  unfold State.faultedLately
  cases hf : s.faults.dblFault with
  | none => rfl
  | some at0 => exact decide_eq_false (Nat.not_lt.2 (h at0 hf))

theorem faultedLately_true {at0 : Dword} (hf : s.faults.dblFault = some at0) (h : s.time.toNat < at0.toNat + 1000000000) :
    s.faultedLately = true := by
  unfold State.faultedLately
  rw [hf]
  exact decide_eq_true h

/-! ### The spine and the task limit (R27, R54) -/

theorem taskOverrun_resets {r : TaskRef} {t : Task} {n : Fin 512} (htask : s.task? r = some t) (hcluster : t.cluster = some n)
    (hst : t.st = .issued) (hlate : ¬ s.time < t.deadline) :
    taskOverrun r s = endTask t stDomainReset dOverrun (startReset 5 n.val 2 none s) := by
  unfold taskOverrun
  rw [htask]
  dsimp only
  rw [hcluster]
  exact if_neg (not_or.2 ⟨not_not_intro hst, hlate⟩)

end

/-- Settles O49. -/
theorem faultCommands : Obligations.FaultCommands := by
  intro s trigger suspects n core link ms r t crc ps noted hour lim offline ended armed
  refine ⟨fun hdev => congrArg Host.Outcome.next (chipDrain_active hdev trigger.toNat 0 ps),
    fun hdev => ⟨_, rfl, chipDrain_moves hdev trigger.toNat 0 ps⟩,
    fun hdev => congrArg Host.Outcome.next (chipDrain_ready hdev trigger.toNat 0 ps),
    fun hhour hmany => congrArg Host.Outcome.next (tcsRateTrip_drains hhour hmany), ?_, ?_, ?_, ?_, ?_,
    fun hdev => congrArg Host.Outcome.next (if_neg hdev), fun hon hlate => congrArg Host.Outcome.next (if_pos ⟨hon, hlate⟩), rfl,
    fun hfailed => congrArg Host.Outcome.next (if_pos hfailed), fun hserves => congrArg Host.Outcome.next (if_neg (Bool.eq_false_iff.1 hserves)),
    fun htask hcluster hst hlate => congrArg Host.Outcome.next (taskOverrun_resets htask hcluster hst hlate)⟩
  · intro hdev hidle left u
    exact congrArg Host.Outcome.next (drainComplete_ends hdev hidle)
  · intro p hdev hdiag hspare
    refine ⟨congrArg Host.Outcome.next ((diagnosis_one hdev hdiag ms n true).trans ?_),
      congrArg Host.Outcome.next ((diagnosis_one hdev hdiag ms n false).trans ?_), congrArg Host.Outcome.next (diagnosis_none hdev hdiag ms true)⟩
    · rw [hspare]
      exact if_pos rfl
    · rw [hspare]
      exact if_neg Bool.false_ne_true
  · intro hdev hdiag hnone
    refine congrArg Host.Outcome.next ((diagnosis_one hdev hdiag ms n true).trans ?_)
    rw [hnone]
  · intro hdev hcore hmany hlong
    refine congrArg Host.Outcome.next ((coreDoubleFault_offline hdev hcore).trans ?_)
    rw [decide_eq_false (Nat.not_lt.2 hmany), faultedLately_false hlong]
    rfl
  · intro hdev hcore hfew
    refine congrArg Host.Outcome.next ((coreDoubleFault_offline hdev hcore).trans (if_pos ?_))
    rcases hfew with hfew | ⟨at0, hfault, hsoon⟩
    · rw [decide_eq_true hfew, Bool.true_or]
    · rw [faultedLately_true hfault hsoon, Bool.or_true]

end Sys2Proof.Machine
end

section
/-! PROOFS. Windows, descriptors, the thermal clamp, the clock and the probe (R35, R260, R307, R356 to R358, R362). -/

namespace Sys2Proof.Machine

/-! ### Windows (R356) -/

section
variable {s : State}

theorem winPendingClear_drops (h : s.bndy.winPending = true) : winPendingClear s =
    let t := dropLines (fun a => !s.lineInside a) s
    { t with bndy := { t.bndy with winPending := false } } := if_neg (not_not_intro h)

theorem winPendingClear_still (h : s.bndy.winPending = false) : winPendingClear s = s := if_pos (Bool.eq_false_iff.1 h)

theorem mem_dropLines_cache {p : Nat → Bool} {e : Nat × CacheLine} : e ∈ (dropLines p s).trepel.cache ↔ e ∈ s.trepel.cache ∧ p e.1 = false := by
  change e ∈ s.trepel.cache.filter (fun e => !p e.1) ↔ _
  rw [List.mem_filter, Bool.not_eq_true']

/-! ### Descriptors (R307, R357, R358) -/

/-- The entry of a descriptor's load, with its RESULT (R457). -/
def descEntry (b : Bytes) (r : Nat) : AuditEntry :=
  mkEntry 5 2 (if r = 1 then 0 else 1) 2 (BitVec.ofNat 64 (7 * 2 ^ 56 + r * 2 ^ 24 + fieldLe b 1 1 * 2 ^ 16 + fieldLe b 2 2))
    (BitVec.ofNat 64 (fieldLe b 8 4)) (BitVec.ofNat 64 (fieldLe b 0x24 4))

/-- The state once a descriptor's load has ended with a RESULT, before what it says is applied. -/
def descLoaded (addr : Dword) (b : Bytes) (r : Nat) (s : State) : State :=
  let told := auditHw (descEntry b r) (if r = 3 then violation addr.toNat s else s)
  { told with bndy := { told.bndy with desc := none, descResult := BitVec.ofNat 4 r, descJob := BitVec.ofNat 16 (fieldLe b 2 2) } }

/-- Recording a load changes no part of the fabric and of the Boundary Unit but those that show it. -/
theorem descLoaded_shape (addr : Dword) (b : Bytes) (r : Nat) (s : State) :
    (descLoaded addr b r s).fabric = s.fabric ∧ (descLoaded addr b r s).bndy =
      { s.bndy with desc := none, descResult := BitVec.ofNat 4 r, descJob := BitVec.ofNat 16 (fieldLe b 2 2) } := by
  obtain ⟨g, a, c, o, e⟩ := (rec_auditHw (descEntry b r)
    (rec_ite (p := r = 3) (rec_violation addr.toNat (Rec.refl [] s)) (Rec.refl [] s))).1.frame
  unfold descLoaded
  rw [e]
  exact ⟨rfl, rfl⟩

variable {addr : Dword} (b : Bytes) (sig : Bool) (hdesc : s.bndy.desc = some addr) (hlink : s.linkServes = true)
include hdesc hlink

/-- The load of a descriptor ends: applied with RESULT 1, and noted as REFUSED where its range breaks the directory's rules. -/
theorem descLoadDone_ends : descLoadDone b sig s =
    let r := s.descResult addr.toNat b sig
    if r = 1 then applyDesc b (descLoaded addr b r s)
    else if r = 8 ∧ fieldLe b 1 1 = 1 ∧ s.rangeBad (fieldLe b 2 2) (fieldLe b 0x18 4) (fieldLe b 0x1C 4) then
      (descLoaded addr b r s).setRegBit (aFabr 0x1C) 0 true
    else descLoaded addr b r s := by
  unfold descLoadDone
  rw [hdesc]
  exact if_neg (not_not_intro hlink)

end

theorem putRtt_bndy (i : Nat) (es : List Nat) (s : State) : (putRtt i es s).bndy = s.bndy := rfl

theorem putRtt_jobdir (i : Nat) (es : List Nat) (s : State) : (putRtt i es s).fabric.jobdir = s.fabric.jobdir := rfl

theorem putDir_bndy (job e : Nat) (s : State) : (putDir job e s).bndy = s.bndy := rfl

theorem putDir_jobdir (job e : Nat) (s : State) :
    (putDir job e s).fabric.jobdir = NMap.set (fun _ => 0) s.fabric.jobdir job (BitVec.ofNat 64 e) := rfl

/-- A descriptor of KIND 1 writes its job's directory entry and its serial. -/
theorem applyDesc_directory {b : Bytes} (hkind : fieldLe b 1 1 = 1) (s : State) :
    (applyDesc b s).bndy = { s.bndy with serials := NMap.insert s.bndy.serials (fieldLe b 2 2) (BitVec.ofNat 32 (fieldLe b 8 4)) } ∧
      (applyDesc b s).fabric.jobdir = NMap.set (fun _ => 0) s.fabric.jobdir (fieldLe b 2 2)
        (BitVec.ofNat 64 (fieldLe b 0x18 4 + fieldLe b 0x1C 4 * 2 ^ 21 + 2 ^ 63)) := by
  have applied : applyDesc b s = putRtt (fieldLe b 0x18 4 + fieldLe b 0x20 4) (descEntries b)
      (putDir (fieldLe b 2 2) (fieldLe b 0x18 4 + fieldLe b 0x1C 4 * 2 ^ 21 + 2 ^ 63)
        { s with bndy := { s.bndy with serials := NMap.insert s.bndy.serials (fieldLe b 2 2) (BitVec.ofNat 32 (fieldLe b 8 4)) } }) := by
    unfold applyDesc
    split
    · rfl
    · next e => exact absurd (hkind.symm.trans e) (by decide)
    · next hne _ => exact absurd hkind hne
  rw [applied, putRtt_bndy, putDir_bndy, putRtt_jobdir, putDir_jobdir]
  exact ⟨rfl, rfl⟩

/-! ### The clamp (R35, R362) -/

section
variable {s : State}

/-- A change of the ceiling leaves the Boundary Unit's flags. -/
theorem setCeil_bndy (n : Nat) (s : State) : (setCeil n s).bndy = s.bndy := by
  unfold setCeil
  dsimp only
  split
  · rfl
  · obtain ⟨g, a, c, o, e⟩ := (rec_auditState 2 4 0 (s.regField (aBndy 0x24) 5 0) n (Rec.refl [] (s.setReg (aBndy 0x24) (BitVec.ofNat 32 n)))).1.frame
    unfold aclkRetarget
    rw [e]
    rfl

/-- The ceiling is what it is set to. -/
theorem setCeil_field (hwf : s.regsWf = true) {n : Nat} (hn : n < 64) : (setCeil n s).regField (aBndy 0x24) 5 0 = n := by
  unfold setCeil
  dsimp only
  split
  · assumption
  · have wf := State.regsWf_setReg hwf (aBndy 0x24) (BitVec.ofNat 32 n)
    have recs := rec_auditState 2 4 0 (s.regField (aBndy 0x24) 5 0) n (Rec.refl [] (s.setReg (aBndy 0x24) (BitVec.ofNat 32 n)))
    unfold aclkRetarget State.regField
    change bitsN (State.reg (State.setRegBit
      (auditState 2 4 0 (s.regField (aBndy 0x24) 5 0) n (s.setReg (aBndy 0x24) (BitVec.ofNat 32 n))) _ _ _) _).toNat 5 0 = n
    rw [State.reg_setRegBit (recs.2.regs wf), if_neg (by decide), recs.1.regs wf _ (by decide) List.not_mem_nil, State.reg_setReg hwf, if_pos rfl,
      bitsN_eq, BitVec.toNat_ofNat]
    omega

theorem smbAlert_bndy (i : Nat) (s : State) : (smbAlert i s).bndy = s.bndy := by
  obtain ⟨m, b, e⟩ := smbAlert_frame i s
  rw [e]

variable {x : Sensors} {low : Bool}

/-- A comparison that finds the device hot lowers the ceiling a step. -/
theorem clampTick_hot (h : low = true ∨ ∃ d ∈ x.junction, 100 ≤ d) : clampTick x low s =
    smbAlert 1 (setCeil (max 24 (s.regField (aBndy 0x24) 5 0 - 1)) { s with bndy := { s.bndy with
      clampTherm := true, clampPower := s.bndy.clampPower || decide (s.powerLimit < x.watt1ms.toNat), calm := 0 } }) := by
  have hot : (low || x.junction.any fun t => decide (100 ≤ t)) = true := by
    rcases h with h | ⟨d, hd, hhot⟩
    · rw [h, Bool.true_or]
    · rw [List.any_eq_true.2 ⟨d, hd, decide_eq_true hhot⟩, Bool.or_true]
  unfold clampTick
  dsimp only
  rw [hot, Bool.true_or, Bool.or_true]
  rfl

theorem smbAlert_regField (i : Nat) (s : State) (a hi lo : Nat) : (smbAlert i s).regField a hi lo = s.regField a hi lo := by
  unfold State.regField
  rw [smbAlert_reg]

/-- The ceiling falls by one, not below 24, and the flag shows why. -/
theorem clampTick_lowers (hwf : s.regsWf = true) (h : low = true ∨ ∃ d ∈ x.junction, 100 ≤ d) :
    (clampTick x low s).bndy.clampTherm = true ∧
      (clampTick x low s).regField (aBndy 0x24) 5 0 = max 24 (s.regField (aBndy 0x24) 5 0 - 1) := by
  have narrow : s.regField (aBndy 0x24) 5 0 < 64 := by
    unfold State.regField
    rw [bitsN_eq]
    omega
  have small : max 24 (s.regField (aBndy 0x24) 5 0 - 1) < 64 := by omega
  generalize hn : max 24 (s.regField (aBndy 0x24) 5 0 - 1) = n at small
  rw [clampTick_hot h, hn]
  refine ⟨by rw [smbAlert_bndy, setCeil_bndy], ?_⟩
  rw [smbAlert_regField]
  refine setCeil_field ?_ small
  exact hwf

/-- The tenth calm comparison raises the ceiling a step, and at 40 both flags clear. -/
theorem clampTick_calm (hlow : low = false) (hcool : ∀ d ∈ x.junction, d < 95) (hcalm : s.bndy.calm = 9)
    (hpower : ¬ s.powerLimit < x.watt1ms.toNat) : clampTick x low s =
      let n := min 40 (s.regField (aBndy 0x24) 5 0 + 1)
      setCeil n { s with bndy := { s.bndy with
        clampTherm := s.bndy.clampTherm && decide (n < 40), clampPower := s.bndy.clampPower && decide (n < 40), calm := 0 } } := by
  have cool : (low || x.junction.any fun t => decide (100 ≤ t)) = false := by
    rw [hlow, Bool.false_or]
    refine List.any_eq_false.2 fun d hd => ?_
    have := hcool d hd
    rw [decide_eq_true_iff]
    omega
  have tenth : min 10 (s.bndy.calm + 1) = 10 := by rw [hcalm]; rfl
  have all : (x.junction.all fun t => decide (t < 95)) = true := List.all_eq_true.2 fun d hd => decide_eq_true (hcool d hd)
  unfold clampTick
  dsimp only
  rw [cool, decide_eq_false hpower, if_neg (by decide), if_pos ⟨tenth, all⟩]

/-- At 110 °C the gate trips, and every compute die is gated. -/
theorem thermalGate_trips (hclear : s.bndy.trip = false) (hhot : ∃ d ∈ x.junction, 110 ≤ d) :
    ∃ u, thermalGate x s = gateDies u ∧ u.bndy.trip = true := by
  obtain ⟨d, hd, h⟩ := hhot
  have any : (x.junction.any fun t => decide (110 ≤ t)) = true := List.any_eq_true.2 ⟨d, hd, decide_eq_true h⟩
  refine ⟨_, (if_neg (Bool.eq_false_iff.1 hclear)).trans (if_pos any), ?_⟩
  obtain ⟨g, a, c, o, e⟩ := (rec_auditAction 2 2 0 (Rec.refl [] { s with bndy := { s.bndy with trip := true } })).1.frame
  rw [smbAlert_bndy, e]

end

/-- Settles O53. -/
theorem boundaryEvents : Obligations.BoundaryEvents := by
  intro s b sig low x addr key ctr seen job r loads entry told loaded outside
  have ends (h : loads) := descLoadDone_ends b sig h.1 h.2
  have shape : loaded.fabric = s.fabric ∧ loaded.bndy = { s.bndy with desc := none, descResult := BitVec.ofNat 4 r, descJob := BitVec.ofNat 16 job } :=
    descLoaded_shape addr b r s
  refine ⟨?_, fun hnone => congrArg Host.Outcome.next (winPendingClear_still hnone), ?_, ?_, ?_, ?_, ?_, ?_, ?_, ?_, ?_, ?_, ?_, ?_⟩
  · intro hpending
    refine ⟨_, congrArg Host.Outcome.next (winPendingClear_drops hpending), rfl, fun e he => ?_, fun e he hinside => ?_⟩
    · have kept := (mem_dropLines_cache (s := s) (p := fun a => !s.lineInside a)).1 he |>.2
      rwa [Bool.not_eq_false'] at kept
    · exact (mem_dropLines_cache (s := s) (p := fun a => !s.lineInside a)).2 ⟨he, by rw [hinside]; rfl⟩
  · intro hloads hok
    exact congrArg Host.Outcome.next ((ends hloads).trans (if_pos hok))
  · intro hloads hout
    have bad : ¬ r = 1 := by rw [hout.1]; decide
    exact congrArg Host.Outcome.next ((ends hloads).trans ((if_neg bad).trans (if_pos hout)))
  · intro hloads hbad hin
    exact congrArg Host.Outcome.next ((ends hloads).trans ((if_neg hbad).trans (if_neg hin)))
  · intro hdesc hlink hbad _
    refine ⟨_, congrArg Host.Outcome.next ((ends ⟨hdesc, hlink⟩).trans (if_neg hbad)), ?_⟩
    have shows (t : State) (hf : t.fabric = s.fabric) (hb : t.bndy = loaded.bndy) :
        t.bndy.desc = none ∧ t.bndy.descResult = BitVec.ofNat 4 r ∧ t.bndy.descJob = BitVec.ofNat 16 job ∧ t.fabric = s.fabric := by
      rw [hb, shape.2]
      exact ⟨rfl, rfl, rfl, hf⟩
    split
    · exact shows _ shape.1 rfl
    · exact shows _ shape.1 rfl
  · intro hdesc hlink hok hkind
    obtain ⟨bndy, dir⟩ := applyDesc_directory hkind loaded
    refine ⟨_, congrArg Host.Outcome.next ((ends ⟨hdesc, hlink⟩).trans (if_pos hok)), ?_⟩
    change (applyDesc b loaded).bndy.desc = none ∧ (applyDesc b loaded).bndy.descResult = 1 ∧ (applyDesc b loaded).bndy.serials = _ ∧
      (applyDesc b loaded).fabric.jobdir = _
    rw [bndy, dir, shape.1, shape.2, hok]
    exact ⟨rfl, rfl, rfl, rfl⟩
  · intro hpor hfree
    exact congrArg Host.Outcome.next (if_pos (by rw [hpor, hfree]; rfl))
  · intro hheld
    refine congrArg Host.Outcome.next (if_neg ?_)
    rcases hheld with h | h
    · rw [h, Bool.false_and]; decide
    · rw [h, Bool.not_true, Bool.and_false]; decide
  · exact fun hwf hhot => clampTick_lowers hwf hhot
  · intro u hlow hcool hcalm hpower n
    exact clampTick_calm hlow hcool hcalm hpower
  · exact thermalGate_trips
  · exact fun hglides => congrArg Host.Outcome.next (if_pos hglides)
  · exact fun hprobe => congrArg Host.Outcome.next (probeDone_of hprobe)

end Sys2Proof.Machine
end
